-- ==== Sys2Proof/Syntax.lean ====
section
/-! DEFINITION. The commands of the block: one constructor per row of spec/opcode_table.json, with the operands that
come from outside. Unit numbers are those of R14. Where the spec lets a step read what it acts on from the device's own
state (an engine's program store, a stream slot's image, a ring's head), the command carries only the unit. -/

namespace Sys2Proof

/-- A register write through BAR0 of a function (R471): the port and function it came through (function 0 is the PF), the
offset in the PF's page map (R472; for a VF, in its own map R473), its size in bytes and the value. -/
structure Access where
  port : Fin 2
  fn   : Fin 64
  off  : Nat
  size : Nat
  val  : Word64
  deriving DecidableEq, Repr

/-- A management controller. -/
inductive Ctl where
  | W | E
  deriving DecidableEq, Repr

/-- Where a mailbox request came from (R442, R443, R486): the physical function of a port, or the sideband. -/
inductive Via where
  | mbox (p : Fin 2) | sideband
  deriving DecidableEq, Repr

/-- A mailbox request (R442): its way in, MVER, TAG and payload. -/
structure MReq where
  via     : Via
  mver    : Byte
  tag     : Word64
  payload : Bytes
  deriving DecidableEq, Repr

/-- A flit header (R389): the fields beside TYPE, which the command's name gives. -/
structure FlitHdr where
  vc   : Bool
  ttl  : Fin 64
  dest : Fin 4096
  src  : Fin 4096
  bsn  : Word16
  lseq : BitVec 12
  deriving DecidableEq, Repr

/-- A memory request at a Flowstone slice (R283): its hint code (R248), and the bytes of a write. `errs` are the symbol
positions (0-35) in error in each codeword that the request reads from HBM, counted from its first codeword (R290). -/
structure FlowReq where
  dpa  : Nat
  len  : Nat
  hint : Fin 4
  data : Option Bytes
  errs : List (List (Fin 36))
  deriving DecidableEq, Repr

/-- A reference clock input (R498). -/
inductive RefClk where
  | refclk (p : Fin 2) | lref | osc25m
  deriving DecidableEq, Repr

/-- A request that reaches the DOE mailbox of a PF (R355): an SPDM message, or an IDE_KM request that starts or stops a
stream (`none` the link stream, `some i` selective stream i). -/
inductive DoeReq where
  | spdm (msg : Bytes)
  | ideKm (start : Bool) (stream : Option (Fin 8))
  deriving DecidableEq, Repr

/-- The two parts of an identity exchange (R392). -/
inductive IdentFlit where
  | nonce (n : Bytes)
  | block (b : Bytes) (pver : Word32)
  deriving DecidableEq, Repr

/-- A fault record that a unit sends to its gallery's Sump (R420). -/
structure SumpRec where
  code    : Byte
  cls     : Byte
  unit    : Byte
  place   : Byte
  tenant  : Option (Fin 1024)
  op      : Byte
  slot    : Option (Fin 8192)
  disp    : Word16
  fpc     : Word32
  detail0 : Word64
  detail1 : Word64
  deriving DecidableEq, Repr

/-- The commands, in the order of the table. -/
inductive Instr where
  /-- R474 -/
  | registerWrite (a : Access)
  /-- R419 -/
  | controlMessage (g : Fin 16) (c : Ctl) (num : Word32) (wr : Access)
  /-- R28 -/
  | acceptanceNotice (slot : Fin 8192)
  /-- R380 -/
  | startNotice (slot : Fin 8192)
  /-- R380 -/
  | commitNotice (slot : Fin 8192)
  /-- R36 -/
  | chainSet (n : Fin 32)
  /-- R38 -/
  | chainClr (n : Fin 32)
  /-- R38 -/
  | chainDrainComplete (n : Fin 32)
  /-- R125; also the issue of a word whose opcode is undefined (R120) -/
  | nop (e : Fin 64)
  /-- R113 -/
  | stop (e : Fin 64)
  | tcfg (e : Fin 64)
  | tld (e : Fin 64)
  | tst (e : Fin 64)
  | trel (e : Fin 64)
  | madd (e : Fin 64)
  | msub (e : Fin 64)
  | mmul (e : Fin 64)
  | mmac (e : Fin 64)
  | mneg (e : Fin 64)
  | ntt (e : Fin 64)
  | intt (e : Fin 64)
  | auto (e : Fin 64)
  | bconv (e : Fin 64)
  | modup (e : Fin 64)
  | moddn (e : Fin 64)
  | resc (e : Fin 64)
  | ksw (e : Fin 64)
  /-- R143 -/
  | ringTokenTake (e : Fin 64)
  | dcmp (e : Fin 64)
  | extp (e : Fin 64)
  | brot (e : Fin 64)
  | sxtr (e : Fin 64)
  | kpack (e : Fin 64)
  | msw (e : Fin 64)
  | cnti (e : Fin 64)
  | cntd (e : Fin 64)
  | cmpb (e : Fin 64)
  | twait (e : Fin 64)
  | temit (e : Fin 64)
  | fence (e : Fin 64)
  /-- R92, R98 -/
  | instructionRetire (e : Fin 64)
  /-- R131: transfer entry x completes -/
  | transferComplete (e : Fin 64) (x : Fin 4)
  /-- R82 -/
  | tileCfgWrite (port : Fin 2) (fn : Fin 64) (e : Fin 64) (n : Fin 32) (val : Word64)
  /-- R112 -/
  | engineStart (e : Fin 64) (val : Word32)
  /-- R73 -/
  | engineSave (e : Fin 64)
  | saveComplete (e : Fin 64)
  /-- R75 -/
  | engineRestore (e : Fin 64)
  | restoreComplete (e : Fin 64)
  /-- R117, R118 -/
  | stopCntWrite (port : Fin 2) (fn : Fin 64) (e : Fin 64) (val : Word64)
  | engineStopped (e : Fin 64)
  /-- R229 -/
  | rndSeedWrite (e : Fin 64) (val : Word64)
  /-- R89: a read of `size` bytes at byte `off` of the window -/
  | dbgWinRead (port : Fin 2) (fn : Fin 64) (e : Fin 64) (off : Fin 2048) (size : Nat)
  /-- R466 -/
  | engineHalted (e : Fin 64)
  /-- R197, R198 -/
  | hsigWrite (port : Fin 2) (fn : Fin 64) (g : Fin 16) (val : Word64)
  /-- R241 -/
  | slotStart (e : Fin 64) (s : Fin 4)
  | src (e : Fin 64) (s : Fin 4)
  | dst (e : Fin 64) (s : Fin 4)
  | loop (e : Fin 64) (s : Fin 4)
  | clamp (e : Fin 64) (s : Fin 4)
  | xform (e : Fin 64) (s : Fin 4)
  | move (e : Fin 64) (s : Fin 4)
  | slotGateResume (e : Fin 64) (s : Fin 4)
  | emit (e : Fin 64) (s : Fin 4)
  | kfill (e : Fin 64) (s : Fin 4)
  | keyFillDeliver (e : Fin 64) (s : Fin 4)
  | fillTokenEmit (e : Fin 64) (s : Fin 4)
  | nfill (e : Fin 64) (s : Fin 4)
  | sqz (e : Fin 64) (s : Fin 4)
  /-- R263: transfer entry x -/
  | entResume (e : Fin 64) (x : Fin 4)
  | entAbort (e : Fin 64) (x : Fin 4)
  /-- R221 -/
  | dripSelftest (g : Fin 16)
  | dripSelftestEnd (g : Fin 16) (failed : BitVec 40)
  /-- R218 -/
  | dripCoreParityError (g : Fin 16) (core : Fin 40)
  /-- R219 -/
  | dripCoreEnWrite (g : Fin 16) (val : Word64)
  /-- R274, R275 -/
  | handleWrite (port : Fin 2) (fn : Fin 64) (e : Fin 64) (h : Fin 64) (val : Word64)
  | handleZeroFillDone (e : Fin 64) (h : Fin 64)
  /-- R281 -/
  | tlbInv (val : Word64)
  | tlbInvComplete
  /-- R283 -/
  | flowRequest (c : Fin 4) (r : FlowReq)
  /-- R287 -/
  | flowFlush (c : Fin 4) (val : Word32)
  | flowFlushComplete (c : Fin 4)
  /-- R291: pseudo-channel and symbol position -/
  | pinDeclare (s : Fin 8) (pc : Fin 64) (sym : Fin 36)
  /-- R293: the codeword at a stack-local index, with the symbols found in error -/
  | patrolScrub (s : Fin 8) (cw : Nat) (errs : List (Fin 36))
  /-- R414 -/
  | stackFail (s : Fin 8)
  /-- R299 -/
  | windowOpen (w : Fin 256)
  | windowClose (w : Fin 256)
  | windowCloseComplete (w : Fin 256)
  /-- R357: `data` is the bytes of a write; a read takes `len` bytes -/
  | bar2Access (port : Fin 2) (fn : Fin 64) (off : Nat) (len : Nat) (data : Option Bytes)
  | vnop (g : Fin 16)
  | vret (g : Fin 16)
  | vsi (g : Fin 16)
  | vsadd (g : Fin 16)
  | vbnz (g : Fin 16)
  | vsetvl (g : Fin 16)
  | vsetq (g : Fin 16)
  | vadd (g : Fin 16)
  | vsub (g : Fin 16)
  | vmul (g : Fin 16)
  | vmac (g : Fin 16)
  | vneg (g : Fin 16)
  | vcmp (g : Fin 16)
  | vsel (g : Fin 16)
  | vmkld (g : Fin 16)
  | vmkst (g : Fin 16)
  | vdig (g : Fin 16)
  | vrsh (g : Fin 16)
  | vscan (g : Fin 16)
  | vmv (g : Fin 16)
  | vld (g : Fin 16)
  | vst (g : Fin 16)
  /-- R313 -/
  | vecDispatch (g : Fin 16)
  | vecHandlerTimeout (g : Fin 16)
  /-- R302 -/
  | helperTenantWrite (h : Fin 32) (val : Word32)
  /-- R329 -/
  | helperRunWrite (h : Fin 32) (val : Word32)
  /-- R324: the instruction's register numbers, queue and REPLY bit -/
  | ksend (h : Fin 32) (rd rs1 rs2 : Fin 32) (queue : Fin 4) (reply : Bool)
  /-- R325 -/
  | krecv (h : Fin 32) (rd rs1 : Fin 32) (queue : Fin 4) (reply : Bool)
  /-- R326 -/
  | ktemit (h : Fin 32) (rd rs1 rs2 : Fin 32)
  /-- R327 -/
  | khret (h : Fin 32)
  | helperDispatch (h : Fin 32)
  /-- R322 -/
  | kmhostWrite (h : Fin 32) (val : Word64)
  /-- R338: the message that waits at channel `ch` (0-3 request, 4-7 reply) of endpoint `ep` -/
  | messageDeliver (ep : Fin 128) (ch : Fin 8)
  /-- R343 -/
  | sendWaitExpire (ep : Fin 128) (ch : Fin 8)
  /-- R344 -/
  | outboundSend (e : Fin 64) (c : Fin 4)
  /-- R348: the receiver of endpoint `ep` writes the CI of the ring of queue `q` -/
  | ringCiWrite (ep : Fin 128) (q : Fin 8) (ci : Word64)
  /-- R351: ring register 0-7 RINGq, 8-11 ORINGc -/
  | msgRingWrite (port : Fin 2) (fn : Fin 64) (ep : Fin 128) (r : Fin 12) (val : Word64)
  /-- R353 -/
  | routeEntryWrite (port : Fin 2) (fn : Fin 64) (ep : Fin 128) (n : Fin 64) (val : Word64)
  /-- R360 -/
  | sqDoorbell (port : Fin 2) (fn : Fin 64) (n : Fin 16) (tail : Word32)
  | cqDoorbell (port : Fin 2) (fn : Fin 64) (n : Fin 16) (head : Word32)
  | sqEnWrite (port : Fin 2) (fn : Fin 64) (n : Fin 16) (val : Word32)
  | cqEnWrite (port : Fin 2) (fn : Fin 64) (n : Fin 16) (val : Word32)
  /-- R365: the 64 bytes fetched from host memory, byte 0 in bits [7:0] -/
  | run (port : Fin 2) (fn : Fin 64) (n : Fin 16) (entry : BitVec 512)
  | mark (port : Fin 2) (fn : Fin 64) (n : Fin 16) (entry : BitVec 512)
  /-- R366 -/
  | commandAccept (slot : Fin 8192)
  /-- R372 -/
  | commandDispatch (slot : Fin 8192)
  /-- R373 -/
  | commandCommit (slot : Fin 8192)
  /-- R373; `hostOk` false: the posting write failed at the host -/
  | completionPost (slot : Fin 8192) (hostOk : Bool)
  /-- R375 -/
  | journalRestartScan
  /-- R370 -/
  | journalEnable (port : Fin 2) (val : Word32)
  /-- R379 -/
  | journalTakeover (port : Fin 2) (val : Word32)
  | failoverTimeout (port : Fin 2)
  /-- R385 -/
  | journalQuery (val : Word32)
  /-- R383 -/
  | flr (port : Fin 2) (fn : Fin 64)
  /-- R426 -/
  | deadlineExpire (slot : Fin 8192)
  /-- R427: through the MGMT page of controller `c` -/
  | cmdAbort (c : Ctl) (val : Word64)
  /-- R391 -/
  | linkEnable (n : Fin 64) (val : Word32)
  | linkDisable (n : Fin 64) (val : Word32)
  | linkRetrain (n : Fin 64)
  | laneLockLoss (n : Fin 64) (lane : Fin 4)
  | replayLimit (n : Fin 64)
  /-- R391: the lanes that lock and those that pass equalization; `signal` false: no signal found -/
  | linkTrainComplete (n : Fin 64) (signal : Bool) (pass : BitVec 4)
  | linkDownRetry (n : Fin 64)
  /-- R395 -/
  | linkRoleWrite (n : Fin 64) (val : Word32)
  | idle (n : Fin 64)
  | write (n : Fin 64) (h : FlitHdr) (xid : Word64) (win : Fin 256) (srcTenant : Fin 1024) (off : Nat) (data : Bytes)
  | token (n : Fin 64) (h : FlitHdr) (xid : Word64) (win : Fin 256) (engine : Fin 64) (q13 : Bool) (poison : Bool)
      (value : Word16) (bytes : Word64)
  | compl (n : Fin 64) (h : FlitHdr) (xid : Word64) (status : Byte)
  | wait (n : Fin 64) (h : FlitHdr) (xid : Word64)
  /-- R402: the token of this transfer still waits on a saved engine -/
  | waitTimer (xid : Word64)
  | release (n : Fin 64) (h : FlitHdr) (srcDev : Fin 4096) (slot : Fin 8192)
  | ack (n : Fin 64) (lseq : BitVec 12)
  | nak (n : Fin 64) (lseq : BitVec 12)
  | credit (n : Fin 64) (vc : Bool) (count : Nat)
  | ident (n : Fin 64) (i : IdentFlit)
  | mgmt (n : Fin 64) (payload : Bytes)
  /-- R404 -/
  | e2eTimeout (xid : Word64)
  /-- R399 -/
  | routeSet (val : Word32)
  | routeSetComplete
  /-- R398 -/
  | devIdWrite (val : Word32)
  /-- R411 -/
  | engineCheckFail (e : Fin 64)
  | handshakeTimeout (e : Fin 64)
  | engineSelftestEnd (e : Fin 64) (pass : Bool)
  | errCntThreshold (e : Fin 64)
  | engRetest (g : Fin 16) (val : Word32)
  /-- R418, R482: the sender's epoch and its claim to hold it -/
  | heartbeat (c : Ctl) (epoch : Word64) (holds : Bool)
  | controllerLost (c : Ctl)
  | sumpRecord (g : Fin 16) (r : SumpRec)
  | sumpDrain (g : Fin 16)
  | errorRecordPost (c : Ctl) (hostOk : Bool)
  /-- R424: the interval of the merged CORRECTED record with this number ends -/
  | mergeIntervalExpire (id : Nat)
  | erqEnWrite (c : Ctl) (val : Word32)
  /-- R429: a slot, or a ring-table entry (`ring` true) -/
  | resolveKeepA (port : Fin 2) (ring : Bool) (item : Fin 8192)
  | resolveKeepB (port : Fin 2) (ring : Bool) (item : Fin 8192)
  | resolveDiscard (port : Fin 2) (ring : Bool) (item : Fin 8192)
  /-- R484 -/
  | epochResolve (val : Word32)
  | getCerts (r : MReq)
  | attest (r : MReq)
  | sessionOpen (r : MReq)
  | sessionFinish (r : MReq)
  | sessionExpire (tenant : Fin 1024)
  | ctxSet (r : MReq)
  | ctxDestroy (r : MReq)
  | ctxQuery (r : MReq)
  | rollbackCommit (r : MReq)
  | flashWrite (r : MReq)
  | ownerSet (r : MReq)
  | debugChallenge (r : MReq)
  | challengeExpire
  | debugUnlock (r : MReq)
  /-- R450: GO by the PF of a port, with the operand words that the DMA fetches (`none`: the host failed a read) -/
  | modmul (port : Fin 2) (a b m : Option (List Word64))
  | modexp (port : Fin 2) (a b m : Option (List Word64))
  | ecmul (port : Fin 2) (a b : Option (List Word64))
  | lieAbort
  /-- R452; `hostOk` false: the host failed the result write -/
  | lieComplete (hostOk : Bool)
  | setEndpointId (eid : Byte)
  | getEndpointId
  | getEndpointUuid
  | getMctpVersionSupport (msgType : Byte)
  | getMessageTypeSupport
  | getVendorDefinedMessageSupport (selector : Byte)
  /-- R455 -/
  | bypass
  | idcode
  | samplePreload
  | extest
  | tapClamp
  | highz
  /-- R495: the level of TRST_N -/
  | tapReset (asserted : Bool)
  /-- R477: by page number of the PF's BAR0 map (R472) -/
  | blockEnable (page : Fin 16384)
  | blockDisable (page : Fin 16384)
  | blockReset (page : Fin 16384)
  | blockHalt (page : Fin 16384) (halt : Bool)
  | blockStartComplete (page : Fin 16384)
  | blockStopComplete (page : Fin 16384)
  | standbyPowerUp
  /-- R495: the straps sampled -/
  | pwrgdRise (testMode : Bool) (smbAddr : Fin 8)
  | bootHeartbeatTimeout
  /-- R496: whether VDD_HBM is still good -/
  | pwrgdFall (hbmGood : Bool)
  | sysRstAssert
  | sysRstRelease
  | perstAssert (port : Fin 2)
  | perstRelease (port : Fin 2)
  | referenceClockLoss (r : RefClk)
  /-- R500: package power over 10 ms in watts, and the power each cavern draws -/
  | powerEvaluation (watts : Nat) (w0 w1 w2 w3 : Nat)
  | throttleTempReached (c : Fin 4) (temp : Word16)
  | hbmTemp85 (s : Fin 8) (temp : Word16)
  | hbmTemp95 (s : Fin 8) (temp : Word16)
  | criticalTemp (die : Fin 5) (temp : Word16)
  | prochotAssert
  | thermalStep (c : Fin 4)
  /-- R502: the condition on this cavern has been clear for 10 ms -/
  | thermalClear (c : Fin 4)
  | thermtrip (die : Fin 5) (temp : Word16)
  /-- R10 -/
  | rcRead (port : Fin 2) (fn : Fin 64) (off : Nat) (size : Nat)
  | erqHeadWrite (c : Ctl) (val : Word32)
  /-- R390: the LSEQ that the receiver expected -/
  | flitCrcFail (n : Fin 64)
  | pcieLinkDown (port : Fin 2)
  | referenceClockRestore (r : RefClk)
  | prochotDeassert
  | controllerFaultReport (c : Ctl)
  | mirrorReloadComplete (c : Ctl)
  | takeoverScanComplete
  | doeRequest (port : Fin 2) (r : DoeReq)
  /-- R319: a load into rd, sign-extended or not, or a store of a value, of `size` bytes at a 64-bit address, by an instruction of 2
  or 4 bytes -/
  | helperFarAccess (h : Fin 32) (addr : Word64) (size : Nat) (store : Option Word64) (rd : Fin 32) (signed short : Bool)
  deriving DecidableEq, Repr

end Sys2Proof
end

