-- ==== Sys2Proof/Machine/State.lean ====
section
/-! DEFINITION. Everything the spec gives the machine, as plain data, and the machine right after reset: the end of a
cold bring-up (R495, R505; log entry 1). Each field's docstring names its rule, its width and its reset value; a table
that does not list a unit holds that unit's reset value. -/

namespace Sys2Proof.Machine

open Sys2Proof

/-- Why the machine stops with a fault. No command of this spec is given no effect at all, so nothing raises it today. -/
inductive Fault where
  /-- Raised by nobody: kept for a command to which a later revision of the spec gives no effect. Safe. -/
  | noEffectGiven
  deriving DecidableEq, Repr

/-- Why a command has no meaning. -/
inductive Refusal where
  /-- The command's arm of `exec` has no meaning yet. Safe: nothing can be proved of its effect. -/
  | notModelled (mnemonic : String)
  deriving DecidableEq, Repr

/-- The status codes of R13. -/
inductive Code where
  | ok | shape | keyMismatch | levelExhausted | noiseExhausted | poisonedInput | translationFault | permission | late
  | eccUncorrectable | queueWouldBlock | divergence | tenantMismatch | aborted | peerLost | badCommand | version
  | lieFail | internal
  deriving DecidableEq, Repr

/-- The error classes of R423. -/
inductive Cls where
  | tenant | corrected | degraded | late | lost | divergence | uncorrected
  deriving DecidableEq, Repr

/-- Power states (R467). -/
inductive Pstate where
  | off | starting | on | stopping
  deriving DecidableEq, Repr

/-- The common header of a page (R462-R470). After bring-up every block is ON (log entry 1). -/
structure Hdr where
  /-- R466 BLK_CTL.EN; 1 bit; reset 1 (every block is ON after bring-up; DESIGN CHOICE log entry 1) -/
  en : Bool := true
  /-- R466 BLK_CTL.HALT; 1 bit; reset 0 -/
  halt : Bool := false
  /-- R467 BLK_STS.PENDING_ENABLE; 1 bit; reset 0 -/
  pendingEnable : Bool := false
  /-- R467 BLK_STS.PSTATE; 2 bits; reset ON (DESIGN CHOICE log entry 1) -/
  pstate : Pstate := .on
  /-- R462 IRQ_STS, R468; 32 bits; reset 0 -/
  irqSts : Word32 := 0
  /-- R462 IRQ_EN; 32 bits; reset 0 -/
  irqEn : Word32 := 0
  /-- R469 ERR_FIRST; 32 bits; reset 0 -/
  errFirst : Word32 := 0
  /-- R469 ERR_CNT; 32 bits; reset 0 -/
  errCnt : Word32 := 0
  /-- R470 CNT_SEL0-3; 32 bits each; reset 0 -/
  cntSel : Tbl Word32 := []
  /-- R470 CNT_VAL0-3; 64 bits each; reset 0 -/
  cntVal : Tbl Word64 := []
  deriving DecidableEq, Repr

/-- One modulus entry of a chain table (R35). -/
structure ModEnt where
  /-- R35 Q; 64 bits; reset 0 -/
  q : Nat := 0
  /-- R35 QNEG; 64 bits; reset 0 -/
  qneg : Nat := 0
  /-- R35 R2; 64 bits; reset 0 -/
  r2 : Nat := 0
  /-- R35 PSI_M; 64 bits; reset 0 -/
  psiM : Nat := 0
  /-- R35 PSIINV_M; 64 bits; reset 0 -/
  psiInvM : Nat := 0
  /-- R35 NINV_M; 64 bits; reset 0 -/
  nInvM : Nat := 0
  /-- R35 DRIP_LIMIT; 64 bits; reset 0 -/
  dripLimit : Nat := 0
  deriving DecidableEq, Repr

/-- The copy of a chain table in the engines' chain constant stores (R36, R37). -/
structure Chain where
  /-- R34 MODE: split; 8 bits; reset 0 -/
  split : Bool := false
  /-- R34 LOGN; 8 bits; reset 0 -/
  logn : Nat := 0
  /-- R34 L; 8 bits; reset 0 -/
  l : Nat := 0
  /-- R34 K; 8 bits; reset 0 -/
  k : Nat := 0
  /-- R33 the 80 modulus entries by chain entry index; 64 bytes each; reset empty -/
  ents : Tbl ModEnt := []
  /-- R157 the conversion block, word INV[a][b] at key 80a + b; 64 bits each; reset empty -/
  inv : Tbl Nat := []
  deriving DecidableEq, Repr

/-- A token (R95). -/
structure Token where
  value  : Word16
  poison : Bool
  deriving DecidableEq, Repr

/-- The state of a key tile (R70). -/
inductive KeyState where
  | empty | filling | full
  deriving DecidableEq, Repr

/-- One tile of an engine (R64, R68, R70, R72). -/
structure Tile where
  /-- R64 CFG; 1 bit; reset 0 -/
  cfg : Bool := false
  /-- R64 BASE; 15 bits; reset 0 -/
  base : Nat := 0
  /-- R64 SPAN; 2 bits; reset 0 -/
  span : Nat := 0
  /-- R64 MEMBER; 1 bit; reset 0 -/
  member : Bool := false
  /-- R64 KEY; 1 bit; reset 0 -/
  key : Bool := false
  /-- R64 ROWS; 7 bits; reset 0 -/
  rows : Nat := 0
  /-- R64 ROWB; 8 bits; reset 0 -/
  rowb : Nat := 0
  /-- R68 in-use flag (TILE_INUSE); 1 bit; reset 0 -/
  inUse : Bool := false
  /-- R70 KEY_STATE; 2 bits; reset EMPTY -/
  kst : KeyState := .empty
  /-- R72 fill tag; 64 bits; reset 0 -/
  tag : Word64 := 0
  /-- R75 the fill whose tag the tile holds: its KFILL word and the argument-slot word of its entry's header; reset none -/
  fill : Option (Nat × Word64) := none
  /-- R62, R63 write generation; a count; reset 0 -/
  gen : Nat := 0
  deriving DecidableEq, Repr

/-- The tag of a reuse latch (R62). Its contents are the tagged pass of the tile row (R63 keeps it so). -/
structure LatchTag where
  tile : Nat
  row  : Nat
  pass : Nat
  gen  : Nat
  deriving DecidableEq, Repr

/-- An issued, unretired instruction (R92). -/
structure WinEnt where
  /-- R92 retirement sequence number -/
  seq : Nat
  /-- R119 the instruction word; 128 bits -/
  word : BitVec 128
  /-- R111 its index in the program -/
  pc : Nat
  /-- R109 its limb fields as indexed at issue -/
  llo : Nat := 0
  lhi : Nat := 0
  /-- R98, R99 value of the token it emits -/
  value : Word16
  /-- R100, R101 poison bit of the token it emits -/
  poison : Bool := false
  /-- R100 its fault, if it faulted -/
  fault : Option Code := none
  /-- R87 the first tile that caused the fault -/
  tile : Option Nat := none
  /-- R420 DETAIL1 of the record of its fault -/
  detail1 : Word64 := 0
  /-- R101 it was skipped -/
  skipped : Bool := false
  /-- R143 it stopped on a poisoned ring token: counted as skipped, no record -/
  silent : Bool := false
  /-- R92 it has completed -/
  done : Bool := false
  /-- R93 tiles (span heads) it reads -/
  reads : List Nat := []
  /-- R93 tiles (span heads) it writes -/
  writes : List Nat := []
  /-- R38 the chain it names -/
  chain : Option Nat := none
  /-- R131 the transfer entry it holds -/
  xfer : Option Nat := none
  /-- R367 output descriptor that a TST with DESC = 1 wrote -/
  result : Option Word64 := none
  /-- R174 the spend mark that it makes at retirement -/
  mark : Option Word64 := none
  /-- R174 a RESC with MOP = 0 refused with LEVEL_EXHAUSTED -/
  rescMark : Bool := false
  /-- R174 the descriptor at SSLOT of a TST with DESC = 1 -/
  sslot : Option Word64 := none
  deriving DecidableEq, Repr

/-- A place that SRC or DST names (R245). -/
inductive Place where
  | tile (t off : Nat)
  | sp (h off : Nat)
  | mem (aslot off : Nat)
  | hsp (i off : Nat)
  | rwin (dev win off : Nat)
  deriving DecidableEq, Repr

/-- What a place or a location resolves to at the start of a transfer (R245, R276): a byte of the tile file, a DPA, a virtual address, or an
offset of a window. -/
inductive Target where
  | tf (b : Nat)
  | dpa (b : Nat)
  | va (b : Nat)
  | rwin (dev win off : Nat)
  deriving DecidableEq, Repr

/-- A fused instruction that consumes a key ring (R143): what it has read so far. -/
structure RingOp where
  /-- R143 its retirement sequence number -/
  seq : Nat
  /-- R119 its word; 128 bits -/
  word : BitVec 128
  /-- R164 the source polynomials, one list of residues per limb or record row -/
  src : List (List Nat)
  /-- R165, R185 fills it consumes in all -/
  total : Nat
  /-- R187 the rotation of a BROT -/
  rot : Nat
  /-- R31 a source element or a fill element is at or above its modulus: the results are free -/
  bad : Bool
  /-- R143 fills read so far, oldest first: the rows of each as lists of residues -/
  fills : List (List (List Nat))
  /-- R146 the working buffer as resolved at the start, with MOP = 1 -/
  wbuf : Option Target
  deriving DecidableEq, Repr

/-- Engine states (R86). -/
inductive EngState where
  | idle | running | stopped | halted | saving | saved | restoring
  deriving DecidableEq, Repr

/-- A polynomial engine (R57-R118). -/
structure Engine where
  /-- R64-R72 tiles T0-T31; reset unconfigured -/
  tiles : Tbl Tile := []
  /-- R64 tile file, 2 MiB of bytes, unlisted bytes zero; reset zero (R69) -/
  tf : List Host.Cell := []
  /-- R62 tag of reuse latch 0; reset invalid -/
  latch0 : Option LatchTag := none
  /-- R62 tag of reuse latch 1; reset invalid -/
  latch1 : Option LatchTag := none
  /-- R86 STATE; 3 bits; reset IDLE -/
  st : EngState := .idle
  /-- R86 LAST_CODE; 8 bits; reset 0x00 -/
  lastCode : Byte := 0
  /-- R85 PROG_BASE; 64 bits; reset 0 (DESIGN CHOICE log entry 4) -/
  progBase : Word64 := 0
  /-- R85 ARG_BASE; 64 bits; reset 0 (DESIGN CHOICE log entry 4) -/
  argBase : Word64 := 0
  /-- R85 TENANT; 10 bits; reset 0 (DESIGN CHOICE log entry 4) -/
  tenant : Nat := 0
  /-- R85 STOP_CNT; 64 bits; reset 0 (DESIGN CHOICE log entry 4) -/
  stopCnt : Nat := 0
  /-- R92 RETIRED; 64 bits; reset 0 (DESIGN CHOICE log entry 4) -/
  retired : Nat := 0
  /-- R85 PC; 32 bits; reset 0 (DESIGN CHOICE log entry 4) -/
  pc : Nat := 0
  /-- R87 FAULT_INFO; 64 bits; reset 0 -/
  faultInfo : Word64 := 0
  /-- R229 RND_SEED as written; 64 bits; reset 0 -/
  rndSeed : Word64 := 0
  /-- R229 RND_SEED as latched at START or RESTORE; 64 bits; reset 0 -/
  rndLatched : Word64 := 0
  /-- R85 SAVE_BASE; 64 bits; reset 0 (DESIGN CHOICE log entry 4) -/
  saveBase : Word64 := 0
  /-- R89 DBG_SEL; 32 bits; reset 0 (DESIGN CHOICE log entry 4) -/
  dbgSel : Word32 := 0
  /-- R107 CT0-CT7; 32 bits each; reset 0 (DESIGN CHOICE log entry 4) -/
  ct : Tbl Word32 := []
  /-- R107 CP0-CP3; 32 bits each; reset 0 (DESIGN CHOICE log entry 4) -/
  cp : Tbl Word32 := []
  /-- R96 token queues Q0-Q15, head first, 16 tokens each; reset empty (R116) -/
  queues : Tbl (List Token) := []
  /-- R111 program store, 4,096 instructions of 128 bits; reset empty -/
  prog : List (BitVec 128) := []
  /-- R92 window of up to 32 issued, unretired instructions, oldest first; reset empty -/
  window : List WinEnt := []
  /-- R92 sequence number of the most recently issued instruction; reset 0 -/
  issued : Nat := 0
  /-- R143 the ring consumer in progress; reset none -/
  ringOp : Option RingOp := none
  /-- R113 code of the program's first fault in retirement order; reset none -/
  firstFault : Option Code := none
  /-- R113 an instruction of the program was skipped; reset no -/
  anySkip : Bool := false
  /-- R113, R367 the program has ended with this status; reset none -/
  ended : Option Code := none
  /-- R367 descriptor of the last TST with DESC = 1 retired; 64 bits; reset 0 -/
  result : Word64 := 0
  /-- R174 refused RESCs with MOP = 0 that wait for their TST; reset 0 -/
  rescPending : Nat := 0
  /-- R372 journal slot of the command that the engine runs; reset none -/
  slot : Option Nat := none
  /-- R362 launch engine index of this engine in its run; reset 0 -/
  launch : Nat := 0
  /-- R410 the engine is held in reset or tests itself (R411, R412); reset no -/
  inReset : Bool := false
  /-- R412 instructions retired since the engine returned from its self-test; none: it never failed a check -/
  sinceTest : Option Nat := none
  /-- R413 ERR_CNT at the last CORRECTED record of R413; 32 bits; reset 0 -/
  corrBase : Nat := 0
  /-- R75 refills still to complete in a restore: tile heads and fill tags; reset empty -/
  refills : List (Nat × Word64) := []
  /-- R117 STOP_CNT was written at or below RETIRED while RUNNING: STOPPED when the window is empty; reset no -/
  stopNow : Bool := false
  /-- R82, R80 writes of TILE_CFG that wait for the references to their tiles to end: tile and value; reset none -/
  cfgW : List (Nat × Nat) := []
  deriving DecidableEq, Repr

/-- One loop level (R246). -/
structure Lvl where
  count : Nat := 1
  ss : Int := 0
  ds : Int := 0
  deriving DecidableEq, Repr

/-- Stream slot states (R266). -/
inductive SlotState where
  | unused | armed | running | parked | halted | draining | done
  deriving DecidableEq, Repr

/-- A position in a MOVE's loop nest (R248, R266): iterations and element. -/
structure Pos where
  i0 : Nat := 0
  i1 : Nat := 0
  i2 : Nat := 0
  i3 : Nat := 0
  o  : Nat := 0
  deriving DecidableEq, Repr

/-- A token that a slot is about to emit (R251): into queue `q` of engine `eng` of this device, or with a remote
transfer. -/
structure Emission where
  eng : Nat
  q   : Nat
  tok : Token
  deriving DecidableEq, Repr

/-- A fill that the Drip has assembled and not yet delivered (R214). -/
structure AsmFill where
  /-- R208 argument-slot word of its entry's header -/
  loc : Word64
  /-- R72, R209 its tag; 64 bits -/
  tag : Word64
  /-- R207, R184 its elements, in tile order -/
  vals : List Nat := []
  /-- R212 the fill has failed with this code; reset none -/
  bad : Option Code := none
  /-- R211 its entry's header has failed: the operation ends here -/
  stop : Bool := false
  deriving DecidableEq, Repr

/-- A key-fill operation in progress (R207-R212). -/
structure KFill where
  /-- R208 index of the next fill to deliver -/
  next : Nat := 0
  /-- R208 fills in all -/
  total : Nat := 0
  /-- R211 argument-slot word of the first header -/
  hdrVa : Word64 := 0
  /-- R201 the header in use, 256 bytes -/
  hdr : Bytes := []
  /-- R208 ESTRIDE of an entry sequence -/
  stride : Nat := 0
  /-- R210 tokens due and not yet entered into Q(8+s) -/
  due : List Token := []
  /-- R211 the operation has failed: only its tokens remain -/
  failed : Bool := false
  /-- R214 fills assembled ahead of the ring, in fill order, from fill `next` on; reset empty -/
  asm : List AsmFill := []
  /-- R70 head of the ring tile that fill `next` is being written into; reset none -/
  cur : Option Nat := none
  deriving DecidableEq, Repr

/-- One stream slot (R239-R252). -/
structure Slot where
  /-- R239 the slot's 32 words of the stream image; 64 bits each; reset empty -/
  words : List Word64 := []
  /-- R241 STATE; 3 bits; reset UNUSED -/
  st : SlotState := .unused
  /-- R266 PC; 4 bits; reset 0 -/
  pc : Nat := 0
  /-- R266 ENT and ENTV: the entry held; reset none -/
  ent : Option Nat := none
  /-- R245 SRC setting; reset none -/
  src : Option Place := none
  /-- R245 DST setting; reset none -/
  dst : Option Place := none
  /-- R246 loop levels 0-3; reset count 1, strides 0 (R244) -/
  lvls : Tbl Lvl := []
  /-- R247 clamp window; reset none -/
  clamp : Option (Nat × Nat) := none
  /-- R254 automorphism G, LOGN, ORD; reset none -/
  xform : Option (Nat × Nat × Bool) := none
  /-- R248, R266 position of the MOVE in progress (POSA, POSB); reset none -/
  pos : Option Pos := none
  /-- R276 source and destination of the MOVE in progress, as resolved at its start; reset none -/
  ends : Option (Target × Target) := none
  /-- R251 tokens formed and not yet entered into their queues; reset empty -/
  out : List Emission := []
  /-- R258 key-fill operation in progress; reset none -/
  kf : Option KFill := none
  /-- R401 transfers counted since START; 35 bits; reset 0 -/
  xcount : Nat := 0
  /-- R248 the gate of the iteration at `pos` has been passed; reset no -/
  passed : Bool := false
  deriving DecidableEq, Repr

/-- The sixteen words of a descriptor (R47). -/
abbrev Desc := List Nat

/-- What a transfer entry does (R266 KIND). -/
inductive EntKind where
  | free | tld | tst | slot
  deriving DecidableEq, Repr

/-- One transfer entry (R131, R243, R262). -/
structure Ent where
  /-- R266 KIND; 2 bits; reset free -/
  kind : EntKind := .free
  /-- R266 SLOT; 2 bits; reset 0 -/
  slot : Nat := 0
  /-- R131 sequence number of the instruction that holds it; reset 0 -/
  seq : Nat := 0
  /-- R266 FAULT; 1 bit; reset 0 -/
  fault : Bool := false
  /-- R266 WRITE; 1 bit; reset 0 -/
  write : Bool := false
  /-- R266 ENT_VA; 64 bits; reset 0 -/
  va : Word64 := 0
  /-- R266 ENT_POSA, ENT_POSB; 64 bits each; reset 0 -/
  pos : Pos := {}
  /-- R131 its last row has been written and it waits to complete; reset no -/
  last : Bool := false
  /-- R128, R146, R147, R276 the source ciphertext as checked: where it lies, as resolved at the start, and its descriptor's words;
  reset none -/
  src : Option (Target × Desc) := none
  /-- R146, R147 the limb that a memory-operand stream is at, counted from 0 in the order of its work; reset 0 -/
  limb : Nat := 0
  /-- R146, R147 elements of that limb read so far, as plain residues; reset empty -/
  got : List Nat := []
  /-- R146, R147 the limbs held from before: of a RESC limb LHI, of a KSW its source limbs, as plain residues; reset empty -/
  kept : List (List Nat) := []
  /-- R129, R146, R147 writes still to do: where, element bytes, row bytes, data; reset empty -/
  todo : List (Target × Nat × Nat × Bytes) := []
  /-- R129, R146, R147 the prepared output: where it lies, as resolved at the start, and its descriptor's words; reset none -/
  out : Option (Target × Desc) := none
  /-- R367 the argument-slot word of that output; 64 bits; reset 0 -/
  outWord : Word64 := 0
  /-- R130 words of the descriptor that gives TENANT and FPRINT, when the descriptor is to be written; reset none -/
  cdesc : Option Desc := none
  deriving DecidableEq, Repr

/-- The stream unit of an engine (R238-R267). -/
structure Stream where
  /-- R239 SIMG_BASE; 64 bits; reset 0 (DESIGN CHOICE log entry 4) -/
  simgBase : Word64 := 0
  /-- R238 slots 0-3; reset unused -/
  slots : Tbl Slot := []
  /-- R131 transfer entries 0-3; reset free -/
  ents : Tbl Ent := []
  deriving DecidableEq, Repr

/-- The Drip of a gallery (R213-R222). -/
structure Drip where
  /-- R219 CORE_EN; 40 bits; reset 0x0000_00FF_FFFF_FFFF -/
  coreEn : BitVec 40 := 0xFFFFFFFFFF
  /-- R219 CORE_FAIL; 40 bits; reset 0 (no core has failed) -/
  coreFail : BitVec 40 := 0
  /-- R220 SELFTEST_STS.NFAIL; 6 bits; reset 0 -/
  nfail : Nat := 0
  /-- R220 SELFTEST_STS.DONE; 1 bit; reset 1: the test that ends STARTING has finished (R221, log entry 1) -/
  done : Bool := true
  /-- R220 SELFTEST_STS.BUSY; 1 bit; reset 0 -/
  busy : Bool := false
  /-- R219 WORDS; 64 bits; reset 0 -/
  words : Nat := 0
  /-- R219 REJECTS; 64 bits; reset 0 -/
  rejects : Nat := 0
  /-- R219 FILLS0-3; 64 bits each; reset 0 -/
  fills : Tbl Nat := []
  /-- R214 assembly buffer of engine place j, 64 KiB: the last bytes assembled; reset zero -/
  abuf : Tbl Bytes := []
  /-- R231 noise-key slot j, 32 bytes, empty when zero; reset zero -/
  nk : Tbl Bytes := []
  deriving DecidableEq, Repr

/-- An error record (R422) before its RSEQ and WALL are written. -/
structure ErrRec where
  /-- R422 RSEQ -/
  rseq : Nat := 0
  /-- R423 CLASS -/
  cls : Cls
  /-- R13 CODE -/
  code : Code
  /-- R422 the block's type code, its instance and its location (R463, R472) -/
  btype : Nat
  binst : Nat := 0
  bloc : Nat := 0
  /-- R422 the tenant concerned -/
  tenant : Option Nat := none
  /-- R422 CMDV with SEQ, PORT, FUNC, RING, DISP -/
  cmd : Option (Word64 × Nat × Nat × Nat × Nat) := none
  /-- R422 DETAIL0 and DETAIL1 -/
  d0 : Word64 := 0
  d1 : Word64 := 0
  /-- R424 COUNT of merged records -/
  count : Nat := 1
  deriving DecidableEq, Repr

/-- What the gallery supervisor keeps of a saved context beside the save area: the command it belongs to, the status of its
program so far, the key fills and transfer counts of its slots (R73, R113, R264, R401). -/
structure SavedProg where
  /-- R411 the place of the engine that saved it -/
  place : Nat := 0
  /-- R113 the journal slot of its command -/
  slot : Option Nat
  /-- R113 its place in the command's launch order -/
  launch : Nat
  /-- R113 the code of the program's first fault -/
  firstFault : Option Code
  /-- R113 an instruction was skipped -/
  anySkip : Bool
  /-- R367 RESULT so far; 64 bits -/
  result : Word64
  /-- R174 refused RESCs with MOP = 0 that wait for their TST -/
  rescPending : Nat
  /-- R264 the key fills of its slots -/
  kfs : Tbl KFill
  /-- R401 the transfers sent by its slots -/
  xcounts : Tbl Nat
  /-- R75 the fills of its key tiles: KFILL word and argument-slot word of the header, by tile -/
  fills : Tbl (Nat × Word64) := []
  deriving DecidableEq, Repr

/-- A handle write whose zero fill runs (R275): its value and the function that wrote it. -/
structure HandleNew where
  val  : Word64
  port : Nat := 0
  fn   : Nat := 0
  deriving DecidableEq, Repr

/-- A gallery: its supervisor, Sump, handles and translation cache. -/
structure Gallery where
  /-- R73, R113 saved contexts of the gallery by SAVE_BASE; reset none -/
  saved : Tbl SavedProg := []
  /-- R488 MSEQ_W; 32 bits; reset 0 -/
  mseqW : Word32 := 0
  /-- R488 MSEQ_E; 32 bits; reset 0 -/
  mseqE : Word32 := 0
  /-- R200 XPORT_PEND; 4 bits; reset 0 -/
  xportPend : BitVec 4 := 0
  /-- R200 XPORT_SEQ0-3; 64 bits each; reset 0 -/
  xportSeq : Tbl Word64 := []
  /-- R273 handle table, HTj_h at key 64j + h; 64 bits each; reset 0 -/
  ht : Tbl Word64 := []
  /-- R275 handle writes whose zero fill runs, by key 64j + h; reset none -/
  htNew : Tbl HandleNew := []
  /-- R275 owner tags: tenant plus one by key 2048j + block, 0 none; reset none -/
  tags : Tbl Nat := []
  /-- R421 Sump, 256 records in arrival order; reset empty -/
  sump : List SumpRec := []
  /-- R431 SUMP_LOST; 32 bits; reset 0 -/
  sumpLost : Word32 := 0
  /-- R431 SUMP_STS bit 0; reset 0 -/
  sumpLostFlag : Bool := false
  /-- R421, R113 arrival order of the records of runs, stored or not: journal slot, dispatch count, engine place; reset empty -/
  arrivals : List (Nat × Nat × Nat) := []
  /-- R431 ENG_HEALTH.TESTING; 4 bits; reset 0 -/
  testing : BitVec 4 := 0
  /-- R431 ENG_HEALTH.FAILED; 4 bits; reset 0 -/
  failed : BitVec 4 := 0
  /-- R174 spend marks of a command, at most 16, by journal slot; reset none -/
  marks : Tbl (List Word64) := []
  /-- R28, R380 instants latched for a journal slot: acceptance; reset none -/
  tAccept : Tbl Nat := []
  /-- R380 start instants; reset none -/
  tStart : Tbl Nat := []
  /-- R380 commit instants; reset none -/
  tCommit : Tbl Nat := []
  /-- R280 translation cache of 2,048 entries, newest first: tenant, first VA, log2 of the page size, leaf entry; reset
  empty -/
  tlb : List (Nat × Nat × Nat × Word64) := []
  deriving DecidableEq, Repr

/-- One line held in a Flowstone slice (R282). `State.mem` holds the line's own bytes; where HBM holds others under a part, they stand
in `shadow`. -/
structure Line where
  /-- R282 DPA of the line's first byte -/
  dpa : Nat
  /-- R285 KEEP mark -/
  keep : Bool
  /-- R282 parts whose dirty bit is set -/
  dirty : List Nat := []
  /-- R282, R293 parts under which HBM differs from the line: part number, the 64 bytes in HBM, and whether that codeword is
  uncorrectable. Every dirty part is one of them -/
  shadow : List (Nat × Bytes × Bool) := []
  deriving DecidableEq, Repr

/-- A Flowstone slice (R282-R287). -/
structure Flow where
  /-- R294 KEEP_WAYS; 4 bits; reset 12 -/
  keepWays : Nat := 12
  /-- R294 FLUSH_STS.BUSY; 1 bit; reset 0 -/
  busy : Bool := false
  /-- R287 WB and INV of the running flush; reset none -/
  flush : Option (Bool × Bool) := none
  /-- R287 lines present at the flush's start; reset none -/
  flushLines : List Nat := []
  /-- R282 16,384 sets of 16 ways, most recent line first; reset empty -/
  sets : Tbl (List Line) := []
  deriving DecidableEq, Repr

/-- An HBM controller and its stack (R288-R294, R414). -/
structure Hbmc where
  /-- R294 SCRUB_HOURS; 16 bits; reset 24 -/
  scrubHours : Nat := 24
  /-- R294 UE_ADDR; 64 bits; reset 0 (DESIGN CHOICE log entry 4) -/
  ueAddr : Word64 := 0
  /-- R294 PIN_FAIL0-63; 36 bits each; reset none declared, reloaded from the repair record (R505) -/
  pinFail : Tbl (BitVec 36) := []
  /-- R291 corrections counted, by pseudo-channel times 36 plus symbol; reset 0 -/
  corr : Tbl Nat := []
  /-- R291 the stack's repair record (survives power loss); reset none declared -/
  repair : Tbl (BitVec 36) := []
  /-- R414 the stack is FAILED; reset no -/
  failed : Bool := false
  /-- R502 refresh rate doubled; reset no -/
  refresh2x : Bool := false
  /-- R496 self-refresh; reset no -/
  selfRefresh : Bool := false
  deriving DecidableEq, Repr

/-- A cavern's manager and its controls. -/
structure Cavern where
  /-- R272 SPBANKj_b at key 32j + b; 32 bits each; reset 0 (DESIGN CHOICE log entry 4) -/
  spbank : Tbl Word32 := []
  /-- R488 PORTS: primary port up; reset 1 -/
  primaryUp : Bool := true
  /-- R488 PORTS: secondary port in use; reset 0 -/
  secondary : Bool := false
  /-- R501 frequency step 0-12; reset 12: the lowest step until the power limit is set (R500) -/
  step : Nat := 12
  /-- R502 thermal conditions in effect: throttle, HBM 95 degrees; reset no -/
  throttle : Bool := false
  hbm95 : Bool := false
  /-- R502 a DEGRADED record of this episode has been raised; reset no -/
  episode : Bool := false
  /-- R502 R500 does not act on this cavern until the condition has cleared for 10 ms; reset no -/
  hold : Bool := false
  deriving DecidableEq, Repr

/-- A running handler of a vector engine (R313). -/
structure Handler where
  /-- R334 header of the request; 64 bits -/
  hdr : Word64
  /-- R333 request queue it came from -/
  queue : Nat
  /-- R313 tenant of the handler -/
  tenant : Nat
  /-- R313 program address in helper scratchpad 2g -/
  prog : Nat
  /-- R307 index of the next instruction -/
  pc : Nat
  deriving DecidableEq, Repr

/-- A vector engine (R303-R314, R328). -/
structure Vec where
  /-- R304 S0-S31; 64 bits each; reset 0 (DESIGN CHOICE log entry 4) -/
  s : Tbl Word64 := []
  /-- R304 VL; 13 bits; reset 0 (DESIGN CHOICE log entry 4) -/
  vl : Nat := 0
  /-- R304 q; 64 bits; reset 0 (DESIGN CHOICE log entry 4) -/
  q : Word64 := 0
  /-- R304 MK0-MK3; 4,096 bits each; reset 0 (DESIGN CHOICE log entry 4) -/
  mks : Tbl (BitVec 4096) := []
  /-- R304 VSEQ; 64 bits; reset 0 (DESIGN CHOICE log entry 4) -/
  vseq : Nat := 0
  /-- R313 the running handler; reset none -/
  run : Option Handler := none
  /-- R328 HTAB_BASE; [18:3]; reset 0 (DESIGN CHOICE log entry 4) -/
  htabBase : Word32 := 0
  /-- R328 STS.[25:16] tenant of the last handler; reset 0 -/
  lastTenant : Nat := 0
  /-- R328 STS.[1] last handler faulted; reset 0 -/
  lastFaulted : Bool := false
  /-- R328 HLIMIT; 32 bits; reset 0x0001_0000 -/
  hlimit : Word32 := 0x10000
  /-- R328 FAULT_INFO; 64 bits; reset 0 (DESIGN CHOICE log entry 4) -/
  faultInfo : Word64 := 0
  /-- R328 HANDLED; 64 bits; reset 0 -/
  handled : Nat := 0
  deriving DecidableEq, Repr

/-- A helper core (R318-R329). -/
structure Helper where
  /-- R318 x1-x31; 64 bits each; reset 0 (R329 at start) -/
  x : Tbl Word64 := []
  /-- R328 PC; 64 bits; reset 0 (DESIGN CHOICE log entry 4) -/
  pc : Word64 := 0
  /-- R318 machine CSRs by number (mstatus, mie, mtvec, mepc, mcause, mtval, mip, mscratch, ...); 64 bits each; reset 0
  (DESIGN CHOICE log entry 4) -/
  csr : Tbl Word64 := []
  /-- R327 kmctl.DE; 1 bit; reset 0 -/
  de : Bool := false
  /-- R327 kmctl.INH; 1 bit; reset 0 -/
  inh : Bool := false
  /-- R327 kmepc; 64 bits; reset 0 (DESIGN CHOICE log entry 4) -/
  kmepc : Word64 := 0
  /-- R327 kmhdr; 64 bits; reset 0 (DESIGN CHOICE log entry 4) -/
  kmhdr : Word64 := 0
  /-- R327 kmbuf; 64 bits; reset 0 (DESIGN CHOICE log entry 4) -/
  kmbuf : Word64 := 0
  /-- R327 kmhtab; 64 bits; reset 0 (DESIGN CHOICE log entry 4) -/
  kmhtab : Word64 := 0
  /-- R328 CTL.RUN; 1 bit; reset 0 (DESIGN CHOICE log entry 4) -/
  run : Bool := false
  /-- R328 STS.RUNNING; 1 bit; reset 0 -/
  running : Bool := false
  /-- R328 STS.[1] in WFI; 1 bit; reset 0 -/
  wfi : Bool := false
  /-- R328 STS.[3] blocked in KRECV; 1 bit; reset 0 -/
  blocked : Bool := false
  /-- R328 CTL.PRIV; 1 bit; reset 0 (DESIGN CHOICE log entry 4) -/
  priv : Bool := false
  /-- R328 TENANT; 10 bits; reset 0 (DESIGN CHOICE log entry 4) -/
  tenant : Nat := 0
  /-- R328 BOOT_PC; [18:1]; reset 0 (DESIGN CHOICE log entry 4) -/
  bootPc : Word32 := 0
  /-- R328 WATCH; 32 bits; reset 0 (DESIGN CHOICE log entry 4) -/
  watch : Word32 := 0
  /-- R328 MBOX; 32 bits; reset 0 (DESIGN CHOICE log entry 4) -/
  mbox : Word32 := 0
  /-- R328 FAR_STS; 8 bits; reset 0 (DESIGN CHOICE log entry 4) -/
  farSts : Byte := 0
  /-- R318 an LR reservation: the offset of an aligned 8-byte word of the own scratchpad; reset none -/
  lr : Option Nat := none
  /-- R326 a KTEMIT that waits: target engine, queue and token, and rd; reset none -/
  ktWait : Option (Nat × Nat × Token × Nat) := none
  /-- R326 the count of the helper island at the KTEMIT that waits; reset 0 -/
  ktAt : Nat := 0
  /-- R325 the KRECV that blocks: rd, rs1 and queue (4-7 for replies); reset 0 -/
  recv : Nat × Nat × Nat := (0, 0, 0)
  /-- R343 an interrupt was taken while the core waits in a send: pc is its handler's already; reset no -/
  held : Bool := false
  deriving DecidableEq, Repr

/-- A message in a hardware queue (R333): its header as delivered, its payload (empty when it lies in the ring), the
offset of its record. -/
structure QMsg where
  hdr : Word64
  payload : Bytes
  ringOff : Option Nat
  deriving DecidableEq, Repr

/-- A message that a sender is sending (R343). -/
structure SendMsg where
  hdr : Word64
  payload : Bytes
  /-- R324 register of the sending helper core that receives the status -/
  rd : Nat
  /-- R343 the count of the endpoint's island at the send -/
  at_ : Nat
  /-- R344 the send of an engine has ended with this status and its token waits for room; reset none -/
  ended : Option Code := none
  /-- R349 its place among the arrivals at the receiving endpoint, once it waits there; reset none -/
  arr : Option Nat := none
  deriving DecidableEq, Repr

/-- A reservation of an entry of a reply queue (R341): the channel index, the destination of the request and its TAG. -/
structure Resv where
  c : Nat
  dest : Nat
  tag : Nat
  /-- R342 its reply lies in the queue -/
  filled : Bool := false
  /-- R349 the unit that holds it was reset: its reply is discarded -/
  dead : Bool := false
  deriving DecidableEq, Repr

/-- A message endpoint (R332-R354). -/
structure Msg where
  /-- R350 SEND_WAIT_LIMIT; 24 bits; reset 0x0000_1000 -/
  sendWaitLimit : Nat := 0x1000
  /-- R350 ROUTE_MODE; 4 bits; reset 0 (DESIGN CHOICE log entry 4) -/
  routeMode : BitVec 4 := 0
  /-- R350 TOKQ; 12 bits; reset 0 (DESIGN CHOICE log entry 4) -/
  tokq : BitVec 12 := 0
  /-- R333 queues 0-7 (requests, then replies), 16 messages each, head first; reset empty -/
  queues : Tbl (List QMsg) := []
  /-- R341 reservations of reply-queue entries; reset none -/
  resv : List Resv := []
  /-- R351 RING0-7 and (8-11) ORING0-3; 64 bits each; reset 0 -/
  rings : Tbl Word64 := []
  /-- R348 rings that a bad CI stopped; reset none -/
  stopped : List Nat := []
  /-- R349 PI = CI is due at the unit's next enable; reset no -/
  syncDue : Bool := false
  /-- R352 FAULT; 64 bits; reset 0 -/
  fault : Word64 := 0
  /-- R353 RT0-63; 64 bits each; reset 0 -/
  rt : Tbl Word64 := []
  /-- R354 CHCNT: counter k of channel c at key 4c + k; 64 bits each; reset 0 (DESIGN CHOICE log entry 4) -/
  chcnt : Tbl Word64 := []
  /-- R343 the message that channel c is sending, by channel 0-7; reset none -/
  sending : Tbl (Option SendMsg) := []
  /-- R349 requests that have come to wait at this endpoint; reset 0 -/
  arrivals : Nat := 0
  deriving DecidableEq, Repr

/-- A submission ring (R360, R364, R384). -/
structure Sq where
  /-- R384 SQn_BASE; 64 bits; reset 0 (DESIGN CHOICE log entry 4) -/
  base : Word64 := 0
  /-- R384 SQn_SIZE; 17 bits; reset 0 (DESIGN CHOICE log entry 4) -/
  size : Nat := 0
  /-- R384 SQn_CTL.EN; 1 bit; reset 0 -/
  en : Bool := false
  /-- R384 SQn_CTL.ERR; 1 bit; reset 0 -/
  err : Bool := false
  /-- R384 SQn_CTL.PAIR; 1 bit; reset 0 -/
  pair : Bool := false
  /-- R384 SQn_CTL.ACTIVE; 1 bit; reset 0 -/
  active : Bool := false
  /-- R384 SQn_CTL.PFN; 6 bits; reset 0 -/
  pfn : Nat := 0
  /-- R384 SQn_ACK; 64 bits; reset 0 (DESIGN CHOICE log entry 4) -/
  ack : Word64 := 0
  /-- R364 SQn_NEXT; 64 bits; reset 0 (DESIGN CHOICE log entry 4) -/
  next : Word64 := 0
  /-- R360 head index; reset 0 -/
  head : Nat := 0
  /-- R360 tail index of the last doorbell; reset 0 -/
  tail : Nat := 0
  /-- R368 SEQ of the next completion to post; 64 bits; reset none: the first accepted SEQ -/
  nextPost : Option Word64 := none
  /-- R364, R368 rewrites of NEXT made while completions were due: the old value and the new one, oldest first; reset none -/
  jumps : List (Word64 × Word64) := []
  /-- R378 the completion ring of the last entry accepted since EN was set; reset none -/
  cqUsed : Option Nat := none
  /-- R379 the ring that a takeover moved this one to: port and function; reset none -/
  movedTo : Option (Nat × Nat) := none
  /-- R417 posting stopped on a lost slot; reset no -/
  lostStop : Bool := false
  deriving DecidableEq, Repr

/-- A completion ring (R360, R384). -/
structure Cq where
  /-- R384 CQn_BASE; 64 bits; reset 0 (DESIGN CHOICE log entry 4) -/
  base : Word64 := 0
  /-- R384 CQn_SIZE; 17 bits; reset 0 (DESIGN CHOICE log entry 4) -/
  size : Nat := 0
  /-- R384 CQn_CTL.EN; 1 bit; reset 0 -/
  en : Bool := false
  /-- R384 CQn_CTL.ERR; 1 bit; reset 0 -/
  err : Bool := false
  /-- R384 CQn_CTL.IV; 6 bits; reset 0 -/
  iv : Nat := 0
  /-- R384 CQn_TAIL index; 17 bits; reset 0 (DESIGN CHOICE log entry 4) -/
  tail : Nat := 0
  /-- R384 CQn_TAIL.PHASE; 1 bit; reset 1: PHASE of the ring's first lap (R360; DESIGN CHOICE log entry 4) -/
  phase : Bool := true
  /-- R384 CQn_HEAD; 17 bits; reset 0 (DESIGN CHOICE log entry 4) -/
  head : Nat := 0
  /-- R383 BASE and SIZE and tail recorded at an FLR; reset none -/
  flr : Option (Word64 × Nat × Nat × Bool) := none
  deriving DecidableEq, Repr

/-- A PCIe function: its PCIEP page (R384). -/
structure Fn where
  /-- R384 FN_TENANT; 10 bits; reset 0 (DESIGN CHOICE log entry 4) -/
  tenant : Nat := 0
  /-- R382 WALL; 64 bits; reset 0 (DESIGN CHOICE log entry 4) -/
  wall : Word64 := 0
  /-- R357 AP_BASE; 64 bits; reset 0 (DESIGN CHOICE log entry 4) -/
  apBase : Word64 := 0
  /-- R384 SQ0-SQ15 -/
  sq : Tbl Sq := []
  /-- R384 CQ0-CQ15 -/
  cq : Tbl Cq := []
  deriving DecidableEq, Repr

/-- A PCIe port (R355, R384). -/
structure Port where
  /-- R384 LINK_STS.UP; 1 bit; reset 1 after bring-up (log entry 1) -/
  up : Bool := true
  /-- R384 LINK_STS width; 5 bits; reset 16 (log entry 1) -/
  width : Nat := 16
  /-- R384 LINK_STS speed; 4 bits; reset 5 (log entry 1) -/
  speed : Nat := 5
  /-- R384 NUM_VFS; 6 bits; reset 63: the hosts' configuration, which no command of the table makes, has enabled every VF (DESIGN CHOICE log
  entry 122) -/
  numVfs : Nat := 63
  /-- R384 FO_CTL.DOWN_MS; 16 bits; reset 0 (DESIGN CHOICE log entry 4) -/
  downMs : Nat := 0
  /-- R384 IDE_STS: link stream active; reset 0 -/
  ideLink : Bool := false
  /-- R384 IDE_STS: selective streams active; 8 bits; reset 0 -/
  ideSel : BitVec 8 := 0
  /-- R495 PERSTn_N asserted; reset no -/
  perst : Bool := false
  /-- R379 the link is down and no takeover has followed its fall; reset no -/
  downTimer : Bool := false
  /-- R355 the DOE mailbox's last response; reset empty -/
  doe : Bytes := []
  deriving DecidableEq, Repr

/-- A flit as a link sends it (R389): TYPE, header and payload bytes. -/
structure Flit where
  type : Nat
  hdr : FlitHdr
  payload : Bytes
  deriving DecidableEq, Repr

/-- Link states (R394). -/
inductive LinkState where
  | disabled | down | training | ident | found | active | untrusted | version
  deriving DecidableEq, Repr

/-- A peer link (R387-R406). -/
structure Link where
  /-- R406 STS.STATE; 3 bits; reset DISABLED -/
  st : LinkState := .disabled
  /-- R406 STS.WIDTH; 3 bits; reset 0 -/
  width : Nat := 0
  /-- R406 STS.BUNDLE; 4 bits; reset 0 -/
  bundleEff : Nat := 0
  /-- R406 STS.ROLE; 2 bits; reset 0 -/
  roleEff : Nat := 0
  /-- R406 CTL.EN; 1 bit; reset 0 -/
  en : Bool := false
  /-- R406 CTL.RETRAIN; 1 bit; reset 0 -/
  retrain : Bool := false
  /-- R406 CTL.BUNDLE; 4 bits; reset 0 -/
  bundle : Nat := 0
  /-- R406 CTL.MINW; 3 bits; reset 1 -/
  minw : Nat := 1
  /-- R406 PVER; 8 bits; reset 0 -/
  pver : Nat := 0
  /-- R406 PARTNER_DEVID; 32 bits; reset 0 (DESIGN CHOICE log entry 4) -/
  partnerDevId : Word32 := 0
  /-- R406 PARTNER_LINK; 6 bits; reset 0 (DESIGN CHOICE log entry 4) -/
  partnerLink : Nat := 0
  /-- R406 PARTNER_FP; 64 bits; reset 0 (DESIGN CHOICE log entry 4) -/
  partnerFp : Word64 := 0
  /-- R394 identity held before the retraining in progress: role, FP, device ID, link; reset none -/
  before : Option (Nat × Word64 × Word32 × Nat) := none
  /-- R406 ID_BUF; 64 bits; reset 0 (DESIGN CHOICE log entry 4) -/
  idBuf : Word64 := 0
  /-- R406 LANE_STS lane failed; 4 bits; reset 0 (DESIGN CHOICE log entry 4) -/
  laneFailed : BitVec 4 := 0
  /-- R406 LANE_STS lane locked; 4 bits; reset 0 (DESIGN CHOICE log entry 4) -/
  laneLocked : BitVec 4 := 0
  /-- R406 DOWN_CAUSE; 8 bits; reset 0 -/
  downCause : Nat := 0
  /-- R406 FEC_CORR, FEC_UNCORR, REPLAYS; 64 bits each; reset 0 (DESIGN CHOICE log entry 4) -/
  fecCorr : Word64 := 0
  fecUncorr : Word64 := 0
  replays : Word64 := 0
  /-- R406 RETRAINS; 32 bits; reset 0 (DESIGN CHOICE log entry 4) -/
  retrains : Word32 := 0
  /-- R391 trained at least once since reset; reset no -/
  trained : Bool := false
  /-- R392 nonce that this device sent, 32 bytes; reset none -/
  nonceOut : Bytes := []
  /-- R392 nonce that the partner sent, 32 bytes; reset none -/
  nonceIn : Bytes := []
  /-- R390 next LSEQ to send; 12 bits; reset 0 (DESIGN CHOICE log entry 4) -/
  txLseq : BitVec 12 := 0
  /-- R390 LSEQ expected next; 12 bits; reset 0 (DESIGN CHOICE log entry 4) -/
  rxLseq : BitVec 12 := 0
  /-- R390 replay buffer of 512 flits, oldest first; reset empty -/
  replay : List Flit := []
  /-- R391 lanes in use; 4 bits; reset none -/
  lanes : BitVec 4 := 0
  /-- R390 credits of VC 0 and VC 1; reset 0 (DESIGN CHOICE log entry 4) -/
  credit0 : Nat := 0
  credit1 : Nat := 0
  /-- R390 LSEQ last replayed and how often in succession; reset none -/
  lastReplay : Option (BitVec 12 × Nat) := none
  /-- Flits handed to the wire, oldest first (the block's output on this link; the model's own field, log entry 5); reset
  empty -/
  wire : List Flit := []
  /-- R388 the last flit on the wire, the 512 bytes of its image; reset empty -/
  sent : Bytes := []
  deriving DecidableEq, Repr

/-- A bundle of links (R396, R397). -/
structure Bundle where
  /-- R389, R397 next BSN to send; 16 bits; reset 0 (DESIGN CHOICE log entry 4) -/
  txBsn : Word16 := 0
  /-- R397 BSN to deliver next; 16 bits; reset 0 (DESIGN CHOICE log entry 4) -/
  rxBsn : Word16 := 0
  /-- R397 reorder window of 4,096 flits: flits that arrived ahead, with the link they came on; reset empty -/
  held : List (Nat × Flit) := []
  /-- R397 flits of a link that went down, with their BSNs, that wait for another link, oldest first; reset empty -/
  resend : List Flit := []
  /-- R397, R400 flits that wait for a link with credit, oldest first: whether a flit is forwarded, and the flit; reset empty -/
  tx : List (Bool × Flit) := []
  /-- R400 the last flit that left was a forwarded one; reset no -/
  lastFwd : Bool := false
  deriving DecidableEq, Repr

/-- A remote transfer at its source (R401, R404). -/
structure Transfer where
  /-- R401 XID; 64 bits -/
  xid : Word64
  /-- R401 engine and slot that sent it -/
  eng : Nat
  slot : Nat
  /-- R389 destination device -/
  dest : Nat
  /-- R401 its flits as they leave, each before its TTL, VC and sequence numbers are set: WRITEs, then TOKENs -/
  flits : List Flit
  /-- R404 attempts so far; 0 while the MOVE still adds to it -/
  tries : Nat
  /-- R251 tokens for the slot's own queue that follow it -/
  own : List Emission
  /-- R401 its COMPL has arrived with OK; it waits for the slot's earlier transfers -/
  done : Bool
  deriving DecidableEq, Repr

/-- An entry of the delivery table (R402). -/
structure Dedup where
  /-- R402 XID; 64 bits -/
  xid : Word64
  /-- R402 status -/
  status : Code
  /-- R402 the destination's journal slot -/
  slot : Option Nat
  /-- R403 the token recorded: engine, queue, token -/
  tok : Option (Nat × Nat × Token)
  deriving DecidableEq, Repr

/-- An open window of the window store (R299). -/
structure Win where
  /-- R298 BASE -/
  base : Nat
  /-- R298 PAGES: length in 64 KiB units -/
  pages : Nat
  /-- R298 TENANT -/
  tenant : Nat
  /-- R298 SRC_TENANT -/
  srcTenant : Nat
  /-- R298 valid source ranges: ID_LO, ID_HI -/
  srcs : List (Nat × Nat)
  /-- R299 a CLOSE stopped acceptance -/
  closing : Bool := false
  deriving DecidableEq, Repr

/-- A token that a peer's TOKEN flit brought and that waits on a saved engine (R402). -/
structure WaitTok where
  /-- R401 XID of the transfer -/
  xid : Word64
  /-- R402 the device that answers go to -/
  dest : Nat
  /-- R402 engine, queue and token -/
  eng : Nat
  q : Nat
  tok : Token
  deriving DecidableEq, Repr

/-- Slot states of the journal (R371). -/
inductive JState where
  | free | accepted | committed | posting | posted
  deriving DecidableEq, Repr

/-- A journal slot (R371). -/
structure JSlot where
  /-- R361 the entry as fetched; 64 bytes -/
  entry : BitVec 512 := 0
  /-- R371 STATE; reset FREE (R505) -/
  st : JState := .free
  /-- R371 STATUS -/
  status : Code := .ok
  /-- R371 port, function, submission ring -/
  port : Nat := 0
  fn : Nat := 0
  ring : Nat := 0
  /-- R371 home gallery -/
  home : Nat := 0
  /-- R371 dispatch count; 16 bits -/
  disp : Nat := 0
  /-- R371 bound rounding seed; 64 bits -/
  seed : Word64 := 0
  /-- R371 acceptance, start and commit instants; 64 bits each -/
  tAccept : Nat := 0
  tStart : Nat := 0
  tCommit : Nat := 0
  /-- R371 RESULT; 64 bits -/
  result : Word64 := 0
  /-- R371 completion position: PHASE, LATE, index -/
  phase : Bool := false
  late : Bool := false
  idx : Nat := 0
  /-- R371 WALL; 64 bits -/
  wall : Word64 := 0
  /-- R371 spend marks, at most 16 -/
  marks : List Word64 := []
  /-- R371 ELAPSED; 64 bits -/
  elapsed : Nat := 0
  deriving DecidableEq, Repr

/-- An entry that RUN or MARK has checked and whose record is being written (R365, R366). -/
structure Pend where
  /-- R365 refusal code, or OK -/
  refusal : Code
  /-- R365 DPA of ARGS -/
  argsDpa : Nat
  /-- R360, R383 the ring was started again, or reset by an FLR, since the entry was read; reset no -/
  stale : Bool := false
  deriving DecidableEq, Repr

/-- A run in progress (R372, R373). -/
structure Run where
  /-- R372 the gallery it runs in -/
  gallery : Nat
  /-- R362 its engines, in launch order -/
  engines : List Nat
  /-- R363 EMAP -/
  emap : Bool
  /-- R365 the launch block failed its check: no engine runs -/
  fail : Option Code := none
  deriving DecidableEq, Repr

/-- A ring-table entry of the journal (R375): the ring's registers. -/
inductive RingEnt where
  | none | sq (r : Sq) | cq (r : Cq)
  deriving DecidableEq, Repr

/-- The work journal's controller (R366-R386). -/
structure Journal where
  /-- R385 BASE_A; 64 bits; reset 0 (DESIGN CHOICE log entry 4) -/
  baseA : Word64 := 0
  /-- R385 BASE_B; 64 bits; reset 0 (DESIGN CHOICE log entry 4) -/
  baseB : Word64 := 0
  /-- R385 CTL.EN; 1 bit; reset 0 (DESIGN CHOICE log entry 4) -/
  en : Bool := false
  /-- R385 STS.RESTART; 1 bit; reset 0 -/
  restart : Bool := false
  /-- R371 the 8,192 slots; reset FREE -/
  slots : Tbl JSlot := []
  /-- R371 POSTED slots, least recently posted first; reset empty -/
  postedOrder : List Nat := []
  /-- R365 slots whose record is being written; reset none -/
  pend : Tbl Pend := []
  /-- R372 runs in progress, by slot; reset none -/
  runs : Tbl (Option Run) := []
  /-- R416 copies lost: A, B; reset no -/
  lostA : Bool := false
  lostB : Bool := false
  /-- R428 frozen slots and ring-table entries (8,192 plus index); reset none -/
  frozen : List Nat := []
  /-- R429 items resolved once already; reset none -/
  resolved : List Nat := []
  /-- R375 ring table, both copies, by (64 port + function) times 32 plus ring (16 more for a CQ); reset empty -/
  ringA : Tbl RingEnt := []
  ringB : Tbl RingEnt := []
  /-- R385 QSEQ; 64 bits; reset 0 (DESIGN CHOICE log entry 4) -/
  qseq : Word64 := 0
  /-- R385 QRES; 64 bits; reset 0 (DESIGN CHOICE log entry 4) -/
  qres : Word64 := 0
  /-- R385 a query has not set DONE; reset no -/
  qbusy : Bool := false
  /-- R385 FO_STS takeover in progress; reset 0 (DESIGN CHOICE log entry 4) -/
  foBusy : Bool := false
  /-- R385 FO_STS port whose rings are active; reset 0 (DESIGN CHOICE log entry 4) -/
  foPort : Nat := 0
  /-- R379 the failed port of the takeover in progress; reset 0 -/
  foFrom : Nat := 0
  deriving DecidableEq, Repr

/-- Roles of a management controller (R488). -/
inductive Role where
  | mirror | holder | frozen | starting
  deriving DecidableEq, Repr

/-- A management controller and its error ring (R418, R422-R432, R488). -/
structure Mgmt where
  /-- R488 ROLE; 2 bits; reset HOLDER for W, MIRROR for E (R480: epoch 1 granted to W; log entry 1) -/
  role : Role := .mirror
  /-- R488 EPOCH; 64 bits; reset 1 (R480; log entry 1) -/
  epoch : Word64 := 1
  /-- R488 MSEQ; 32 bits; reset 0 -/
  mseq : Word32 := 0
  /-- R488 SECONDARY; 4 bits; reset 0 (DESIGN CHOICE log entry 4) -/
  secondary : BitVec 4 := 0
  /-- R432 ERQ_BASE; 64 bits; reset 0 (DESIGN CHOICE log entry 4) -/
  erqBase : Word64 := 0
  /-- R432 ERQ_SIZE; 17 bits; reset 0 (DESIGN CHOICE log entry 4) -/
  erqSize : Nat := 0
  /-- R432 ERQ_CTL.EN; 1 bit; reset 0 (DESIGN CHOICE log entry 4) -/
  erqEn : Bool := false
  /-- R432 ERQ_CTL.ERR; 1 bit; reset 0 (DESIGN CHOICE log entry 4) -/
  erqErr : Bool := false
  /-- R432 ERQ_CTL.IV; 6 bits; reset 0 (DESIGN CHOICE log entry 4) -/
  erqIv : Nat := 0
  /-- R432 ERQ_TAIL; index and PHASE; reset 0 and 1 (R360; DESIGN CHOICE log entry 4) -/
  erqTail : Nat := 0
  erqPhase : Bool := true
  /-- R432 ERQ_HEAD; 17 bits; reset 0 (DESIGN CHOICE log entry 4) -/
  erqHead : Nat := 0
  /-- R432 ERQ_LOST records dropped; 32 bits; reset 0 (DESIGN CHOICE log entry 4) -/
  erqLost : Word32 := 0
  /-- R432 ERQ_LOST.SEVERE; 1 bit; reset 0 (DESIGN CHOICE log entry 4) -/
  severe : Bool := false
  /-- R432 ABORT_STS; outcome and BUSY; reset 0 (DESIGN CHOICE log entry 4) -/
  abortSts : Nat := 0
  abortBusy : Bool := false
  /-- R424 records buffered for this controller's port, oldest first, at most 1,024; reset empty -/
  buf : List ErrRec := []
  /-- R511 records posted and not yet passed by ERQ_HEAD that hold ERR_N: their ring index; reset empty -/
  shown : List Nat := []
  /-- R418 declared lost; reset no -/
  lost : Bool := false
  /-- R418 first heartbeat reported since its start; reset yes (log entry 1) -/
  beat : Bool := true
  /-- R482 reloading its mirror; reset no -/
  reloading : Bool := false
  /-- R419, R489 writes held until the takeover scan ends; reset none -/
  held : List Access := []
  deriving DecidableEq, Repr

/-- A merged CORRECTED record whose interval runs (R424). -/
structure Merge where
  id : Nat
  rcd : ErrRec
  deriving DecidableEq, Repr

/-- Tenant context states (R444). -/
inductive CtxState where
  | free | live | destroying
  deriving DecidableEq, Repr

/-- An open session (R445). -/
structure Session where
  sid : Nat
  ptRoot : Word64
  rseed : Word64
  owner : Bool
  ownerN : Bytes
  openRsp : Bytes
  /-- R445 decapsulation key, secret -/
  dk : Bytes
  /-- R445 ephemeral scalar d_G, secret -/
  dg : Nat
  deriving DecidableEq, Repr

/-- A tenant context (R444). -/
structure Ctx where
  /-- R444 STATE; reset FREE -/
  st : CtxState := .free
  /-- R444 PT_ROOT; 64 bits; reset 0 -/
  ptRoot : Word64 := 0
  /-- R444 RSEED; 64 bits; reset 0 -/
  rseed : Word64 := 0
  /-- R444 OWNER_FP; 64 bits; reset 0 -/
  ownerFp : Word64 := 0
  /-- R444 T; 64 bytes; reset zero -/
  t : Bytes := []
  /-- R444 CS; 32 bytes, secret; reset zero -/
  cs : Bytes := []
  /-- R444 NK; 32 bytes, secret; reset zero -/
  nk : Bytes := []
  /-- R445 SID of the tenant's last OPEN; 16 bits; reset 0 -/
  sid : Nat := 0
  /-- R445 open session; reset none -/
  ses : Option Session := none
  deriving DecidableEq, Repr

/-- A mailbox of the Geode (R442, R461). -/
structure Mbox where
  /-- R461 MBp_REQ_ADDR; 64 bits; reset 0 (DESIGN CHOICE log entry 4) -/
  reqAddr : Word64 := 0
  /-- R461 MBp_RSP_ADDR; 64 bits; reset 0 (DESIGN CHOICE log entry 4) -/
  rspAddr : Word64 := 0
  /-- R461 MBp_REQ_LEN; 32 bits; reset 0 (DESIGN CHOICE log entry 4) -/
  reqLen : Word32 := 0
  /-- R461 MBp_RSP_MAX; 32 bits; reset 0 (DESIGN CHOICE log entry 4) -/
  rspMax : Word32 := 0
  /-- R461 MBp_STS; BUSY, CODE, RSP_LEN; reset 0 (DESIGN CHOICE log entry 4) -/
  busy : Bool := false
  code : Byte := 0
  rspLen : Nat := 0
  deriving DecidableEq, Repr

/-- The Geode (R433-R461). -/
structure Geode where
  /-- R461 BOOT_STS.DEBUG; 1 bit; reset 0 -/
  debug : Bool := false
  /-- R461 BOOT_STS.BOARD_TEST; 1 bit; reset 0 -/
  boardTest : Bool := false
  /-- R461 BOOT_STS.RECOVERY; 1 bit; reset 0 -/
  recovery : Bool := false
  /-- R461 BOOT_STS.FALLBACK; 1 bit; reset 0 -/
  fallback : Bool := false
  /-- R461 BOOT_STS.IMAGE: image B; 1 bit; reset 0 -/
  imageB : Bool := false
  /-- R461 BOOT_STS.SVN; 8 bits; reset 0 -/
  svn : Nat := 0
  /-- R436 CIDX of the running image; 0-15; reset 0 (DESIGN CHOICE log entry 1) -/
  cidx : Nat := 0
  /-- R440 component digests D_0-D_4 of an image that a bring-up of this model selected, 320 bytes; reset none: those of the
  image that runs since before, `Config.bootDigests` (log entry 1) -/
  digests : Option Bytes := none
  /-- R433 ARB counters 0-15; 0-64 each; reset 0 (fuses; log entry 1) -/
  arb : Tbl Nat := []
  /-- R442 mailboxes MB0, MB1 -/
  mbox : Tbl Mbox := []
  /-- R444 contexts 0-1,023 -/
  ctx : Tbl Ctx := []
  /-- R443 owner public key of OWNER_SET; reset none -/
  ownerKey : Bytes := []
  /-- R437 preferred slot of the owner record: B; reset A -/
  preferB : Bool := false
  /-- R480 ownership epoch; 64 bits; reset 1 (log entry 1) -/
  epoch : Word64 := 1
  /-- R480 holder; reset W (log entry 1) -/
  holder : Option Ctl := some .W
  /-- R483 management frozen; reset no -/
  frozen : Bool := false
  /-- R482 claim of holdership last seen from W and E; reset none -/
  claimW : Option Word64 := none
  claimE : Option Word64 := none
  /-- R419 the survivor's takeover scan runs; reset no -/
  scan : Bool := false
  /-- R456 the challenge outstanding, 32 bytes; reset none -/
  challenge : Option Bytes := none
  /-- R457 scopes opened: private TAP, helper halt; 2 bits; reset 0 -/
  scope : BitVec 2 := 0
  /-- R457 an accepted unlock runs: the SCOPE of its tokens and the request that its end answers; reset none -/
  unlock : Option (BitVec 2 × MReq) := none
  /-- R383, R449 destructions that wait: tenant, and the request that the end answers; reset none -/
  destroying : List (Nat × MReq) := []
  /-- R435 values drawn from the generator; reset 0 -/
  drawn : Nat := 0
  /-- R486 MCTP endpoint ID; 8 bits; reset 0 (DESIGN CHOICE log entry 4) -/
  eid : Byte := 0
  /-- R486 a sideband request is in progress; reset no -/
  sbBusy : Bool := false
  /-- R504 boot flash: bytes that this model's FLASH_WRITEs left, unlisted bytes of an erased sector 0xFF, other bytes those of
  the board's assembly, `Config.flashByte`; reset empty -/
  flash : List Host.Cell := []
  /-- R504 flash sectors of 64 KiB erased since the board's assembly; reset none -/
  wiped : List Nat := []
  /-- R443 flash sectors erased since the Geode's last cold reset; reset none -/
  erased : List Nat := []
  /-- R438 waiting for the controllers' first heartbeats; reset no -/
  bootWait : Bool := false
  deriving DecidableEq, Repr

/-- Long-integer operation kinds (R450). -/
inductive LieOp where
  | modmul | modexp | ecmul
  deriving DecidableEq, Repr

/-- The long-integer engine (R450-R454). -/
structure Lie where
  /-- R454 OP; 8 bits; reset 0 (DESIGN CHOICE log entry 4) -/
  op : Word32 := 0
  /-- R454 LEN; EW and NW; reset 0 (DESIGN CHOICE log entry 4) -/
  len : Word32 := 0
  /-- R454 A_ADDR, B_ADDR, M_ADDR, R_ADDR; 64 bits each; reset 0 (DESIGN CHOICE log entry 4) -/
  aAddr : Word64 := 0
  bAddr : Word64 := 0
  mAddr : Word64 := 0
  rAddr : Word64 := 0
  /-- R454 STS.BUSY; 1 bit; reset 0 (DESIGN CHOICE log entry 4) -/
  busy : Bool := false
  /-- R454 STS.GEODE; 1 bit; reset 0 (DESIGN CHOICE log entry 4) -/
  geode : Bool := false
  /-- R454 STS.CODE; 8 bits; reset 0 (DESIGN CHOICE log entry 4) -/
  code : Byte := 0
  /-- R454 CYCLES; 64 bits; reset 0 (DESIGN CHOICE log entry 4) -/
  cycles : Nat := 0
  /-- R452 the running operation's outcome: code, result words, compute cycles; reset none -/
  out : Option (Code × List Word64 × Nat) := none
  /-- R468 port of the PF that started the operation; reset 0 -/
  owner : Nat := 0
  /-- R453 working memory, 16 KiB, empty when zero; reset zero -/
  work : List Word64 := []
  deriving DecidableEq, Repr

/-- A peer route (R399). -/
structure Route where
  /-- R399 PRI -/
  pri : Nat
  /-- R399 ALT, when ALTV -/
  alt : Option Nat
  /-- R399 VCOP, AVCOP, HOPS -/
  vcop : Nat
  avcop : Nat
  hops : Nat
  deriving DecidableEq, Repr

/-- The DEV page (R487, R398, R503) and the device-wide stores behind it. -/
structure Dev where
  /-- R487 CHAIN_BASE; 64 bits; reset 0 (DESIGN CHOICE log entry 4) -/
  chainBase : Word64 := 0
  /-- R487 CHAIN_VALID; 32 bits; reset 0 (DESIGN CHOICE log entry 4) -/
  chainValid : Word32 := 0
  /-- R487 CHAIN_BUSY; 32 bits; reset 0 (DESIGN CHOICE log entry 4) -/
  chainBusy : Word32 := 0
  /-- R36 the validated copies; reset none -/
  chains : Tbl Chain := []
  /-- R38 instructions that named a cleared chain and have not retired: chain, engine, sequence number; reset none -/
  chainRefs : List (Nat × Nat × Nat) := []
  /-- R281 TLB_INV in progress (BUSY) with its value; reset none -/
  tlbInv : Option Word64 := none
  /-- R487 WIN_BASE; 64 bits; reset 0 (DESIGN CHOICE log entry 4) -/
  winBase : Word64 := 0
  /-- R299 window store, WIN_OPEN; 256 windows; reset closed -/
  wins : Tbl (Option Win) := []
  /-- R398 DEV_ID; VALID and ID; reset 0 (DESIGN CHOICE log entry 4) -/
  devId : Word32 := 0
  /-- R398 HOP_BUDGET; 6 bits; reset 8 -/
  hopBudget : Nat := 8
  /-- R398 ROUTE_BASE; 64 bits; reset 0 (DESIGN CHOICE log entry 4) -/
  routeBase : Word64 := 0
  /-- R398 ROUTE_STS last GO refused; 1 bit; reset 0 (DESIGN CHOICE log entry 4) -/
  routeRefused : Bool := false
  /-- R399 ROUTE_STS.BUSY and the table being copied; reset none -/
  routeNew : Option (Tbl Route) := none
  /-- R399 route store; reset empty -/
  routes : Tbl Route := []
  /-- R398 E2E_LIMIT; 32 bits; reset 125,000 -/
  e2eLimit : Word32 := 125000
  /-- R398 E2E_TRIES; 4 bits; reset 4 -/
  e2eTries : Nat := 4
  /-- R398 DEDUP_BASE; 64 bits; reset 0 (DESIGN CHOICE log entry 4) -/
  dedupBase : Word64 := 0
  /-- R402 delivery table, 4,096 entries, oldest first; reset empty -/
  dedup : List Dedup := []
  /-- R300 XIDs of transfers of which a write has been refused and whose TOKEN has not ended them; reset none -/
  refused : List Word64 := []
  /-- R402 tokens that wait on a saved engine; reset none -/
  waitToks : List WaitTok := []
  /-- R401 transfers in flight at this source; reset none -/
  transfers : List Transfer := []
  /-- R403 devices that a journal slot's transfers went to; reset none -/
  released : List (Nat × Nat) := []
  /-- R503 PWR_LIMIT; 16 bits; reset 0, unset -/
  pwrLimit : Nat := 0
  /-- R506 a PWR_LIMIT written while PROCHOT governs; reset none -/
  pwrLimitNew : Option Nat := none
  /-- R503 COOL_CAP; 16 bits; reset 0, unset -/
  coolCap : Nat := 0
  /-- R503 PWR_STS.LIMITING; 1 bit; reset 0 -/
  limiting : Bool := false
  /-- R503 PWR_STS.PROCHOT: PROCHOT_N is low; 1 bit; reset 0 -/
  prochot : Bool := false
  /-- R502 a junction is at or above 105 degrees; reset no -/
  critical : Bool := false
  /-- R503 PWR_STS.WATTS; 16 bits; reset 0 -/
  watts : Nat := 0
  /-- R503 THROT_TEMP; 8 bits; reset 100 -/
  throtTemp : Nat := 100
  /-- R503 TEMP0-4; 16 bits each; reset 0 (DESIGN CHOICE log entry 4) -/
  temp : Tbl Word16 := []
  /-- R503 HBM_TEMP0-7; 16 bits each; reset 0 (DESIGN CHOICE log entry 4) -/
  hbmTemp : Tbl Word16 := []
  /-- R422 RSEQ last assigned; 64 bits; reset 0 -/
  rseq : Nat := 0
  /-- R275, R475 register writes that wait behind a handle write of their function whose zero fill runs, oldest first; reset
  none -/
  waitW : List Access := []
  /-- R403, R96 recorded tokens of re-dispatched commands that wait for room: engine, queue and token, oldest first; reset none -/
  replayW : List (Nat × Nat × Token) := []
  /-- R424 merged records whose interval runs; reset none -/
  merges : List Merge := []
  /-- R424 identifier of the next merged record; reset 0 (the model's own field, log entry 5) -/
  mergeId : Nat := 0
  deriving DecidableEq, Repr

/-- The reset domains and pins (R491, R495). -/
structure Pins where
  /-- R493 standby rails in tolerance: the Geode runs; reset yes (log entry 1) -/
  standby : Bool := true
  /-- R495 PWRGD; reset high (log entry 1) -/
  pwrgd : Bool := true
  /-- R495 SYS_RST_N; reset high (log entry 1) -/
  sysRst : Bool := true
  /-- R491 TEST_MODE strap as sampled; reset low (log entry 1) -/
  testMode : Bool := false
  /-- R491 SMB_ADDR straps as sampled; 3 bits; reset 0 (DESIGN CHOICE log entry 1) -/
  smbAddr : Nat := 0
  /-- R491 PROCHOT_N low; reset no -/
  prochotLow : Bool := false
  /-- R502 THERMTRIP_N latched; reset no -/
  thermtrip : Bool := false
  /-- R491 SMB_ALERT_N asserted; reset no -/
  smbAlert : Bool := false
  /-- R499 references lost: REFCLK0, REFCLK1, LREF, OSC_25M; reset no -/
  lost0 : Bool := false
  lost1 : Bool := false
  lostL : Bool := false
  lostO : Bool := false
  /-- R499 OSC_25M was lost: only a cold reset restarts the device; reset no -/
  oscDead : Bool := false
  deriving DecidableEq, Repr

/-- The instructions of the TAP (R455). -/
inductive TapInstr where
  | bypass | idcode | samplePreload | extest | clamp | highz
  deriving DecidableEq, Repr

/-- The TAP (R455, R495). -/
structure Tap where
  /-- R495 TRST_N asserted: held in Test-Logic-Reset; reset no -/
  trst : Bool := false
  /-- R455 current instruction; reset IDCODE, the Test-Logic-Reset instruction of IEEE 1149.1 (PRESUMED log entry 6) -/
  ir : TapInstr := .idcode
  /-- R455 selected data register as captured; reset 0 (DESIGN CHOICE log entry 4) -/
  dr : Word32 := 0
  /-- R455 board-test outputs driven from the boundary register; reset no -/
  driven : Bool := false
  /-- R455 outputs in high impedance; reset no -/
  hiz : Bool := false
  deriving DecidableEq, Repr

/-- The machine. -/
structure State where
  /-- R268 the device's memory by DPA, its coherent contents, unlisted bytes zero; reset zero (R275, R505) -/
  mem : List Host.Cell := []
  /-- R292 codewords of 64 bytes (DPA / 64) that are uncorrectable; reset none -/
  ue : List Nat := []
  /-- R462 common headers by page number of the PF's BAR0 (R472) -/
  hdrs : Tbl Hdr := []
  /-- R25 free-running counters of the islands, by island number; 64 bits each; reset 0 -/
  cycles : Tbl Nat := []
  /-- R487 the device-wide registers and what goes with them -/
  dev : Dev := {}
  /-- R433 the Geode -/
  geode : Geode := {}
  /-- R488 management controller W -/
  mgmtW : Mgmt := { role := .holder }
  /-- R488 management controller E -/
  mgmtE : Mgmt := {}
  /-- R370 the work journal -/
  journal : Journal := {}
  /-- R450 the long-integer engine -/
  lie : Lie := {}
  /-- R355 ports 0-1 -/
  ports : Tbl Port := []
  /-- R384 functions, by 64 port + function -/
  fns : Tbl Fn := []
  /-- R387 links 0-63 -/
  links : Tbl Link := []
  /-- R396 bundles 0-15 -/
  bundles : Tbl Bundle := []
  /-- R488 caverns 0-3 -/
  caverns : Tbl Cavern := []
  /-- R282 Flowstone slices 0-3 -/
  flows : Tbl Flow := []
  /-- R288 HBM controllers 0-7 and their stacks -/
  hbmcs : Tbl Hbmc := []
  /-- R488 galleries 0-15 -/
  galleries : Tbl Gallery := []
  /-- R14 Drips, by gallery -/
  drips : Tbl Drip := []
  /-- R303 vector engines, by gallery -/
  vecs : Tbl Vec := []
  /-- R318 helper cores 0-31 -/
  helpers : Tbl Helper := []
  /-- R14 engines 0-63 -/
  engines : Tbl Engine := []
  /-- R14 stream units, by engine -/
  streams : Tbl Stream := []
  /-- R332 endpoints, by endpoint ID -/
  msgs : Tbl Msg := []
  /-- R491 pins and what they latch -/
  pins : Pins := {}
  /-- R455 the TAP -/
  tap : Tap := {}
  /-- R358, R366, R367, R422 bytes that the device wrote into host memory, port 1 from 2^64 on (the model's own field, log
  entry 5); reset empty -/
  hostOut : List Host.Cell := []
  /-- R358 the last request into a host's memory: port, requester function, whether it travelled in an IDE stream (the model's own field, log
  entry 5); reset (0, 0, no) -/
  hostReq : Nat × Nat × Bool := (0, 0, false)
  /-- R359 interrupt messages raised: port, function, vector, oldest first (the model's own field, log entry 5); reset
  empty -/
  msix : List (Nat × Nat × Nat) := []
  /-- The value that the last register or memory read returned (the model's own field, log entry 5); reset 0 -/
  lastRead : Nat := 0
  /-- R442, R486 the last response that the Geode sent over the sideband (the model's own field, log entry 5); reset
  empty -/
  sideband : Bytes := []
  /-- Free values drawn so far (the model's own field, DESIGN CHOICE log entry 2); reset 0 -/
  freeCtr : Nat := 0
  /-- R427 what the runs of each slot's command have written so far (the model's own field); reset empty -/
  outs : Tbl (List (Target × Nat)) := []
  /-- The commands that wait, first in, first out; reset empty -/
  pending : List Instr := []
  deriving DecidableEq, Repr

/-- The machine right after reset: a cold bring-up has ended (R495, R505; log entry 1). -/
def State.reset : State := {}

end Sys2Proof.Machine
end

