-- ==== Sys2Proof/Machine/Flags.lean ====
section
/-! DEFINITION. The numbers of codes, classes and states, and the images of the status registers that are formed from
them. -/

namespace Sys2Proof.Machine

open Sys2Proof

/-! ## Bits and bytes -/

/-- Bits [lo + n - 1 : lo] of v (R7). -/
def fld (v lo n : Nat) : Nat := v >>> lo % 2 ^ n

/-- Bit b of v (R7). -/
def bit (v b : Nat) : Bool := v.testBit b

/-- A flag as a bit. -/
def b2n (b : Bool) : Nat := if b then 1 else 0

/-- The n-byte little-endian form of v (R8). -/
def leBytes (n v : Nat) : Bytes := (List.range n).map fun i => BitVec.ofNat 8 (v >>> (8 * i))

/-- The number that little-endian bytes spell (R8). -/
def ofLe (b : Bytes) : Nat := b.foldr (fun x acc => x.toNat + 256 * acc) 0

/-- n zero bytes. -/
def zeros (n : Nat) : Bytes := List.replicate n 0

/-- A signed n-bit field. -/
def signed (n v : Nat) : Int := if v < 2 ^ (n - 1) then v else (v : Int) - (2 ^ n : Nat)

/-! ## Codes (R13) -/

/-- The 8-bit code of R13. -/
def Code.num : Code → Nat
  | .ok => 0x00 | .shape => 0x01 | .keyMismatch => 0x02 | .levelExhausted => 0x03 | .noiseExhausted => 0x04
  | .poisonedInput => 0x05 | .translationFault => 0x06 | .permission => 0x07 | .late => 0x08
  | .eccUncorrectable => 0x09 | .queueWouldBlock => 0x0A | .divergence => 0x0B | .tenantMismatch => 0x0C
  | .aborted => 0x0D | .peerLost => 0x0E | .badCommand => 0x10 | .version => 0x11 | .lieFail => 0x20 | .internal => 0xFF

/-- The code of R13 that a number names; a reserved nonzero number counts as INTERNAL (R13). -/
def Code.ofNum (n : Nat) : Code :=
  match n with
  | 0x00 => .ok | 0x01 => .shape | 0x02 => .keyMismatch | 0x03 => .levelExhausted | 0x04 => .noiseExhausted
  | 0x05 => .poisonedInput | 0x06 => .translationFault | 0x07 => .permission | 0x08 => .late
  | 0x09 => .eccUncorrectable | 0x0A => .queueWouldBlock | 0x0B => .divergence | 0x0C => .tenantMismatch
  | 0x0D => .aborted | 0x0E => .peerLost | 0x10 => .badCommand | 0x11 => .version | 0x20 => .lieFail | _ => .internal

/-- The 8-bit form of a code. -/
def Code.byte (c : Code) : Byte := BitVec.ofNat 8 c.num

/-- The class code of R423. -/
def Cls.num : Cls → Nat
  | .tenant => 0 | .corrected => 1 | .degraded => 2 | .late => 3 | .lost => 4 | .divergence => 5 | .uncorrected => 6

/-- The class of a class code (R423). -/
def Cls.ofNum (n : Nat) : Cls :=
  match n with
  | 0 => .tenant | 1 => .corrected | 2 => .degraded | 3 => .late | 4 => .lost | 5 => .divergence | _ => .uncorrected

/-- PSTATE of R467. -/
def Pstate.num : Pstate → Nat
  | .off => 0 | .starting => 1 | .on => 2 | .stopping => 3

/-- STATE of R86. -/
def EngState.num : EngState → Nat
  | .idle => 0 | .running => 1 | .stopped => 2 | .halted => 3 | .saving => 4 | .saved => 5 | .restoring => 6

/-- Key tile states of R70. -/
def KeyState.num : KeyState → Nat
  | .empty => 0 | .filling => 1 | .full => 2

/-- Slot states of R266. -/
def SlotState.num : SlotState → Nat
  | .unused => 0 | .armed => 1 | .running => 2 | .parked => 3 | .halted => 4 | .draining => 5 | .done => 6

/-- A slot state by its code (R266); code 7 is reserved and read as UNUSED. -/
def SlotState.ofNum (n : Nat) : SlotState :=
  match n with
  | 1 => .armed | 2 => .running | 3 => .parked | 4 => .halted | 5 => .draining | 6 => .done | _ => .unused

/-- KIND of R266. -/
def EntKind.num : EntKind → Nat
  | .free => 0 | .tld => 1 | .tst => 2 | .slot => 3

/-! ## Status images -/

/-- ENG.STATE (R86). -/
def engStateImage (lastCode : Byte) (st : EngState) : Nat := lastCode.toNat <<< 8 ||| st.num

/-- ENG.FAULT_INFO (R87). -/
def faultInfoImage (code : Code) (opc : Nat) (tile : Option Nat) (fpc : Nat) : Word64 :=
  BitVec.ofNat 64 (code.num <<< 56 ||| (opc % 256) <<< 48 |||
    (match tile with | some t => 1 <<< 45 ||| (t % 32) <<< 40 | none => 0) ||| fpc % 2 ^ 32)

/-- ENG.QSTSn (R116). -/
def qstsImage (q : List Token) : Nat :=
  match q with
  | [] => 0
  | t :: _ => b2n t.poison <<< 31 ||| 1 <<< 30 ||| (q.length % 32) <<< 16 ||| t.value.toNat

/-- ENG.TILE_CFGn (R64). A tile with CFG = 0 reads zero in every other field. -/
def tileCfgImage (t : Tile) : Nat :=
  if t.cfg then
    (t.base % 32768) <<< 32 ||| (t.span % 4) <<< 27 ||| b2n t.member <<< 26 ||| b2n t.key <<< 25 ||| 1 <<< 24 |||
      (t.rows % 128) <<< 16 ||| t.rowb % 256
  else 0

/-- BLK_STS (R467). -/
def blkStsImage (halted pendingEnable err busy : Bool) (p : Pstate) : Nat :=
  b2n halted <<< 9 ||| b2n pendingEnable <<< 8 ||| b2n err <<< 5 ||| b2n busy <<< 4 ||| p.num

/-- ERR_FIRST with VALID set (R469). -/
def errFirstImage (code : Code) (detail : Nat) : Word32 :=
  BitVec.ofNat 32 (1 <<< 31 ||| code.num <<< 16 ||| detail % 2 ^ 16)

/-- STREAM.SLOT_STSs (R266). -/
def slotStsImage (x : Slot) : Nat :=
  (x.pc % 16) <<< 24 ||| (match x.ent with | some n => (n % 4) <<< 22 ||| 1 <<< 21 | none => 0) ||| x.st.num

/-- STREAM.ENT_STSn (R266). -/
def entStsImage (x : Ent) : Nat :=
  b2n x.fault <<< 31 ||| x.kind.num <<< 29 ||| (if x.kind = .slot then (x.slot % 4) <<< 27 else 0) ||| b2n x.write

/-- ENT_POSA and POSA of a stream record (R264, R266). -/
def posAImage (pc : Nat) (p : Pos) : Word64 :=
  BitVec.ofNat 64 ((pc % 16) <<< 51 ||| (p.i2 % 2 ^ 17) <<< 34 ||| (p.i1 % 2 ^ 17) <<< 17 ||| p.i0 % 2 ^ 17)

/-- ENT_POSB and POSB of a stream record (R264, R266). -/
def posBImage (p : Pos) : Word64 := BitVec.ofNat 64 ((p.o % 2 ^ 17) <<< 17 ||| p.i3 % 2 ^ 17)

/-- The position that POSA and POSB spell (R266). -/
def posOf (a b : Nat) : Pos :=
  { i0 := fld a 0 17, i1 := fld a 17 17, i2 := fld a 34 17, i3 := fld b 0 17, o := fld b 17 17 }

end Sys2Proof.Machine
end

