-- ==== Sys2Proof/Decode.lean ====
section
/-! DEFINITION. The words that spell commands: the Xkmsg instructions of a helper core (R323) and the flits of a peer link (R388, R389), the
two groups of commands whose bits the spec gives; and the image of a flit, 512 bytes with its CRC. The table itself gives no row bits. (The
words of the engines' programs are decoded in Machine/Operands.lean, those of vector programs in Machine/Vector.lean.) -/

namespace Sys2Proof

open Sys2Proof.Machine

/-! ## Xkmsg (R323) -/

/-- The command of helper core h that a 32-bit word of the custom-0 major opcode spells, in R-type format (R323); none: an illegal
instruction, or a word of another opcode. -/
def xkmsgOf (h : Fin 32) (w : Nat) : Option Instr :=
  let rd : Fin 32 := Fin.ofNat 32 (fld w 7 5)
  let rs1 : Fin 32 := Fin.ofNat 32 (fld w 15 5)
  let rs2 : Fin 32 := Fin.ofNat 32 (fld w 20 5)
  let queue : Fin 4 := Fin.ofNat 4 (fld w 26 2)
  let reply : Bool := fld w 25 1 == 1
  let plain : Bool := queue == 0 && !reply
  if fld w 0 7 ≠ 0x0B ∨ fld w 28 4 ≠ 0 then none
  else
    match fld w 12 3 with
    | 0 => some (.ksend h rd rs1 rs2 queue reply)
    | 1 => if rs2 = 0 then some (.krecv h rd rs1 queue reply) else none
    | 2 => if plain then some (.ktemit h rd rs1 rs2) else none
    | 3 => if plain ∧ rs2 = 0 ∧ rs1 = 0 ∧ rd = 0 then some (.khret h) else none
    | _ => none

/-! ## Flits (R388, R389) -/

/-- One bit of the CRC-64 with the polynomial of ECMA-182, highest bit first. -/
def crcBit (c : Word64) : Word64 := if c.getLsbD 63 then (c <<< 1) ^^^ 0x42F0E1EBA9EA3693#64 else c <<< 1

/-- One byte of the CRC-64. -/
def crcByte (c : Word64) (x : Byte) : Word64 :=
  crcBit (crcBit (crcBit (crcBit (crcBit (crcBit (crcBit (crcBit (c ^^^ (x.setWidth 64 <<< 56)))))))))

/-- The CRC-64 of some bytes (R388). That it starts at zero, takes each byte from its highest bit and is not inverted is a DESIGN CHOICE (log
entry 125). -/
def crc64 (b : Bytes) : Word64 := b.foldl crcByte 0

/-- The 64-bit header of a flit (R389). -/
def flitWord (ty : Nat) (h : FlitHdr) : Nat :=
  ty % 16 * 2 ^ 60 + b2n h.vc * 2 ^ 59 + h.ttl.val * 2 ^ 53 + h.dest.val * 2 ^ 41 + h.src.val * 2 ^ 29 + h.bsn.toNat * 2 ^ 13 +
    h.lseq.toNat * 2

/-- The header fields of a flit, from its word (R389). -/
def flitHdrOf (w : Nat) : FlitHdr :=
  { vc := bit w 59, ttl := Fin.ofNat 64 (fld w 53 6), dest := Fin.ofNat 4096 (fld w 41 12), src := Fin.ofNat 4096 (fld w 29 12),
    bsn := BitVec.ofNat 16 (fld w 13 16), lseq := BitVec.ofNat 12 (fld w 1 12) }

/-- A flit's header and payload, 504 bytes: the payload is filled up with zeros (R388, log entry 125). -/
def flitBody (f : Flit) : Bytes :=
  leBytes 8 (flitWord f.type f.hdr) ++ (f.payload.take 496 ++ zeros (496 - f.payload.length))

/-- A flit as it travels: 512 bytes, the last eight its CRC (R388). -/
def flitImage (f : Flit) : Bytes := flitBody f ++ leBytes 8 (crc64 (flitBody f)).toNat

/-- The command of link n that the 512 bytes of an arriving flit spell (R389, R390): one whose CRC fails is FLIT_CRC_FAIL; a reserved TYPE,
and a piece of an identity block, spell none. -/
def flitCmd (n : Fin 64) (b : Bytes) : Option Instr :=
  let w := ofLe (b.take 8)
  let h := flitHdrOf w
  let p := (b.drop 8).take 496
  let at8 (o : Nat) : Nat := ofLe ((p.drop o).take 8)
  let xid : Word64 := BitVec.ofNat 64 (at8 0)
  let x := at8 8
  if ofLe ((b.drop 504).take 8) ≠ (crc64 (b.take 504)).toNat then some (.flitCrcFail n)
  else
    match fld w 60 4 with
    | 0x0 => some (.idle n)
    | 0x1 =>
      some (.write n h xid (Fin.ofNat 256 (fld x 56 8)) (Fin.ofNat 1024 (fld x 46 10)) (fld x 0 36) ((p.drop 16).take (fld x 37 9)))
    | 0x2 =>
      some (.token n h xid (Fin.ofNat 256 (fld x 56 8)) (Fin.ofNat 64 (fld x 48 6)) (bit x 47) (bit x 16) (BitVec.ofNat 16 (fld x 0 16))
        (BitVec.ofNat 64 (at8 16)))
    | 0x3 => some (.compl n h xid (BitVec.ofNat 8 (fld x 0 8)))
    | 0x4 => some (.wait n h xid)
    | 0x5 => some (.release n h (Fin.ofNat 4096 (fld (at8 0) 52 12)) (Fin.ofNat 8192 (fld (at8 0) 0 13)))
    | 0x8 => some (.ack n h.lseq)
    | 0x9 => some (.nak n h.lseq)
    | 0xA => some (.credit n h.vc (fld (at8 0) 0 8))
    | 0xB => if fld (at8 0) 0 8 = 0 then some (.ident n (.nonce ((p.drop 2).take 32))) else none
    | 0xC => some (.mgmt n p)
    | _ => none

/-! ## Words -/

/-- The command that a word spells: a word of 32 bits an Xkmsg instruction of helper core 0, one of 4,096 bits a flit that arrives on link 0
(DESIGN CHOICE: the words name no core and no link; log entry 101). -/
def decodeTableWord (nbits w : Nat) : Option Instr :=
  if nbits = 32 then xkmsgOf 0 (w % 2 ^ 32) else if nbits = 4096 then flitCmd 0 (leBytes 512 w) else none

end Sys2Proof
end

