-- ==== Sys2Proof/Config.lean ====
section
/-! DEFINITION. What one device fixes, and the free values: constants without a body, so that no proof can see their
values (log entries 2 and 3). -/

namespace Sys2Proof.Config

/-- Free values: the i-th value of the n-th place where the manual leaves values open. `State.freeCtr` supplies n and each use advances it
(log entry 2). -/
opaque free : Nat → Nat → Nat

/-- A value that a vector instruction leaves open: its word, the operands that it depends on, the place of the value (R315; log entry
58). -/
opaque vecOpen : Nat → List Nat → Nat → Nat

/-- A constant machine CSR of a helper core: misa, mvendorid, marchid, mimpid, mhartid, mconfigptr, by core and number (R318). -/
opaque helperId : Nat → Nat → BitVec 64

/-- Whether a translation that a gallery's cache still holds serves an access (R280, R281: replacement is not stated): the
gallery, the tenant, the page's first address, the length of the cache (log entry 2). -/
opaque tlbHit : Nat → Nat → Nat → Nat → Bool

/-- Element i of a Drip segment that bounded sampling does not reach, from the sponge state where it stops; used modulo q (R206,
log entry 12). -/
opaque dripRest : List Nat → Nat → Nat

/-- Row misses among accesses of an HBM stack at a DPA and a count of its island (R288, R295: the banks and rows of a pseudo-channel
are not given; log entry 102). -/
opaque rowMisses : Nat → Nat → Nat

/-- The UDS of R433. -/
opaque uds : Bytes

/-- FWKEY_HASH of R433. -/
opaque fwkeyHash : Bytes

/-- DBGKEY_HASH of R433. -/
opaque dbgkeyHash : Bytes

/-- Component digests D_0-D_4 of the image that runs at the model's reset state, 320 bytes (R440; log entry 1). -/
opaque bootDigests : Bytes

/-- The digest fields of a report that is made in RECOVERY, where no image runs (R441; log entry 72). -/
opaque recoveryDigests : Bytes

/-- The boot flash as the integrator programmed it (R504). -/
opaque flashByte : Nat → Byte

/-- The certificate chain written at manufacture (R441). -/
opaque certChain : Bytes

/-- The owner key's signature of an OWNER_SET payload (R443; what it signs is not stated): key, payload, signature. -/
opaque ownerVerify : Bytes → Bytes → Bytes → Bool

/-- The byte that CTX_QUERY gives for STATE FREE, LIVE, DESTROYING (0, 1, 2; R443, R444; the codes are not stated). -/
opaque ctxState : Nat → Byte

/-- The public key that ML-DSA.KeyGen_internal gives for a seed (FIPS 204; R434). -/
opaque mlDsaPublic : Bytes → Bytes

/-- A hedged ML-DSA-87 signature by the key of a seed, of a digest, with the n-th value of the generator (R435). -/
opaque mlDsaSign : Bytes → Bytes → Nat → Bytes

/-- ML-DSA-87 verification: public key, digest, signature (R435). -/
opaque mlDsaVerify : Bytes → Bytes → Bytes → Bool

/-- The n-th block of `len` bytes of the Geode's generator (R435). -/
opaque geodeRandom : Nat → Nat → Bytes

/-- ML-KEM-1024 key generation (FIPS 203): from a seed, the encapsulation and the decapsulation key (R445). -/
opaque mlKemKeyGen : Bytes → Bytes × Bytes

/-- ML-KEM-1024 decapsulation: key, ciphertext, shared secret (R448). -/
opaque mlKemDecaps : Bytes → Bytes → Bytes

/-- AES-256-GCM opening (SP 800-38D): key, IV, additional data, ciphertext, tag (R447). -/
opaque aesGcmOpen : Bytes → Bytes → Bytes → Bytes → Bytes → Option Bytes

/-- RSASSA-PSS verification over SHA3-512 with a 64-byte salt and exponent 65,537: modulus, message, signature (R447). -/
opaque rsaPssVerify : Bytes → Bytes → Bytes → Bool

/-- The responder's answer to a DOE message of the standards named in R355. -/
opaque doeResponse : Bytes → Nat → Bytes

/-- The endpoint UUID of the sideband (R486; the value is the device's own). -/
opaque mctpUuid : Bytes

/-- Darno's manufacturer code in IDCODE (R455). -/
opaque tapManufacturer : BitVec 11

/-- The PCI vendor ID of the device's ports (R486). -/
opaque pciVendorId : BitVec 16

end Sys2Proof.Config
end

