-- ==== Sys2Proof/Machine/Keccak.lean ====
section
/-! DEFINITION. SHAKE-128, SHAKE-256 and SHA3-512 (FIPS 202), as R54, R206, R230 and R232 use them. -/

namespace Sys2Proof.Machine

open Sys2Proof

/-- A 64-bit lane rotated left. -/
def rotl64 (v n : Nat) : Nat := (v <<< n % 2 ^ 64) ||| (v >>> (64 - n))

/-- The round constants of Keccak-f[1600]. -/
def keccakRc : List Nat :=
  [0x0000000000000001, 0x0000000000008082, 0x800000000000808A, 0x8000000080008000, 0x000000000000808B,
    0x0000000080000001, 0x8000000080008081, 0x8000000000008009, 0x000000000000008A, 0x0000000000000088,
    0x0000000080008009, 0x000000008000000A] ++
  [0x000000008000808B, 0x800000000000008B, 0x8000000000008089, 0x8000000000008003, 0x8000000000008002,
    0x8000000000000080, 0x000000000000800A, 0x800000008000000A, 0x8000000080008081, 0x8000000000008080,
    0x0000000080000001, 0x8000000080008008]

/-- The rotation of lane x + 5y. -/
def keccakRot : List Nat :=
  [0, 1, 62, 28, 27, 36, 44, 6, 55, 20, 3, 10, 43, 25, 39, 41, 45, 15, 21, 8, 18, 2, 61, 56, 14]

/-- Lane i of a state. -/
def lane (a : List Nat) (i : Nat) : Nat := a.getD i 0

/-- One round of Keccak-f[1600]. -/
def keccakRound (a : List Nat) (rc : Nat) : List Nat :=
  let c := (List.range 5).map fun x => lane a x ^^^ lane a (x + 5) ^^^ lane a (x + 10) ^^^ lane a (x + 15) ^^^ lane a (x + 20)
  let d := (List.range 5).map fun x => lane c ((x + 4) % 5) ^^^ rotl64 (lane c ((x + 1) % 5)) 1
  let t := (List.range 25).map fun i => lane a i ^^^ lane d (i % 5)
  -- lane (x, y) of the permuted state comes from lane ((x + 3y) mod 5, x)
  let b := (List.range 25).map fun i =>
    let x := i % 5
    let y := i / 5
    let j := (x + 3 * y) % 5 + 5 * x
    rotl64 (lane t j) (keccakRot.getD j 0)
  let e := (List.range 25).map fun i =>
    let x := i % 5
    let y := i / 5
    lane b i ^^^ ((2 ^ 64 - 1 - lane b ((x + 1) % 5 + 5 * y)) &&& lane b ((x + 2) % 5 + 5 * y))
  match e with
  | h :: r => (h ^^^ rc) :: r
  | [] => []

/-- Keccak-f[1600]. -/
def keccakF (a : List Nat) : List Nat := keccakRc.foldl keccakRound a

/-- A block of bytes absorbed into a state. -/
def keccakAbsorb (rate : Nat) (a : List Nat) (blk : Bytes) : List Nat :=
  keccakF ((List.range 25).map fun i => if 8 * i < rate then lane a i ^^^ ofLe ((blk.drop (8 * i)).take 8) else lane a i)

/-- The message padded with its domain suffix to whole blocks. -/
def keccakPad (rate : Nat) (suffix : Byte) (msg : Bytes) : Bytes :=
  let free := rate - msg.length % rate
  if free = 1 then msg ++ [suffix ||| 0x80] else msg ++ suffix :: zeros (free - 2) ++ [0x80]

/-- The state after a whole message. -/
def keccakState (rate : Nat) (suffix : Byte) (msg : Bytes) : List Nat :=
  let p := keccakPad rate suffix msg
  (List.range (p.length / rate)).foldl (fun a i => keccakAbsorb rate a ((p.drop (rate * i)).take rate)) (List.replicate 25 0)

/-- The output block of a state. -/
def keccakBlock (rate : Nat) (a : List Nat) : Bytes := ((a.take (rate / 8)).map (leBytes 8)).flatten

/-- k output blocks. -/
def keccakSqueeze (rate : Nat) : Nat → List Nat → Bytes
  | 0, _ => []
  | k + 1, a => keccakBlock rate a ++ keccakSqueeze rate k (keccakF a)

/-- n bytes of an XOF or digest. -/
def sponge (rate : Nat) (suffix : Byte) (msg : Bytes) (n : Nat) : Bytes :=
  (keccakSqueeze rate ((n + rate - 1) / rate) (keccakState rate suffix msg)).take n

/-- n bytes of SHAKE-256. -/
def shake256 (msg : Bytes) (n : Nat) : Bytes := sponge 136 0x1F msg n

/-- n bytes of SHAKE-128. -/
def shake128 (msg : Bytes) (n : Nat) : Bytes := sponge 168 0x1F msg n

/-- SHA3-512. -/
def sha3_512 (msg : Bytes) : Bytes := sponge 72 0x06 msg 64

/-- The words of a run of bytes (R206). -/
def wordsOf : Nat → Bytes → List Nat
  | 0, _ => []
  | k + 1, b => ofLe (b.take 8) :: wordsOf k (b.drop 8)

/-- Rejection sampling over a run of words (R206): the elements so far, the words drawn and those rejected. -/
def sample (limit q want : Nat) : List Nat → List Nat → Nat × Nat → List Nat × Nat × Nat
  | [], got, n => (got, n)
  | w :: r, got, n =>
    if want ≤ got.length then (got, n)
    else if w < limit then sample limit q want r (got ++ [w % q]) (n.1 + 1, n.2)
    else sample limit q want r got (n.1 + 1, n.2 + 1)

/-- A segment of `want` elements from a sponge state, from at most `fuel` blocks of 21 words (R206). -/
def dripSegment (limit q want : Nat) : Nat → List Nat → List Nat → Nat × Nat → List Nat × Nat × Nat
  | 0, a, got, n => (got ++ (List.range (want - got.length)).map (fun i => Config.dripRest a i % q), n)
  | k + 1, a, got, n =>
    let r := sample limit q want (wordsOf 21 (keccakBlock 168 a)) got n
    if want ≤ r.1.length then r else dripSegment limit q want k (keccakF a) r.1 r.2

/-- Blocks within which a segment ends if it ends at all: 512 times the number of sponge states, 2^1600, after which the output repeats. -/
def dripFuel : Nat := 512 * (2 ^ 200 * 2 ^ 200 * 2 ^ 200 * 2 ^ 200) * (2 ^ 200 * 2 ^ 200 * 2 ^ 200 * 2 ^ 200)

end Sys2Proof.Machine
end

