-- ==== Sys2Proof/Machine/Ops.lean ====
section
/-! DEFINITION. The named operations over the state: keyed tables, byte memories, register pages and their headers,
error records, the Flowstone cache and HBM, address translation, tokens. -/

namespace Sys2Proof.Machine

open Sys2Proof

/-! ## Keyed tables -/

/-- The entry of key k, or the value d of an unlisted key. -/
def tget {α : Type} (t : Tbl α) (k : Nat) (d : α) : α :=
  match t with
  | [] => d
  | (j, v) :: r => if j = k then v else tget r k d

/-- The table with v at key k. -/
def tset {α : Type} (t : Tbl α) (k : Nat) (v : α) : Tbl α :=
  t.filter (fun p => decide (p.1 < k)) ++ (k, v) :: t.filter (fun p => decide (k < p.1))

/-- The table without key k. -/
def tdel {α : Type} (t : Tbl α) (k : Nat) : Tbl α := t.filter fun p => p.1 != k

/-! ## Byte memories: strictly rising addresses, no entry equal to the byte d of an unlisted address -/

/-- The byte at an address. -/
def memGet (m : List Host.Cell) (d : Byte) (a : Nat) : Byte :=
  match m with
  | [] => d
  | (j, v) :: r => if j = a then v else memGet r d a

/-- The cells that a run of bytes needs. -/
def memCells (d : Byte) (a : Nat) (bs : Bytes) : List Host.Cell :=
  match bs with
  | [] => []
  | b :: r => if b = d then memCells d (a + 1) r else (a, b) :: memCells d (a + 1) r

/-- The memory with a run of bytes written at address a. -/
def memPut (m : List Host.Cell) (d : Byte) (a : Nat) (bs : Bytes) : List Host.Cell :=
  m.filter (fun c => decide (c.1 < a)) ++ memCells d a bs ++ m.filter (fun c => decide (a + bs.length ≤ c.1))

/-- n bytes from address a. -/
def memRun (m : List Host.Cell) (d : Byte) (a n : Nat) : Bytes := (List.range n).map fun i => memGet m d (a + i)

/-- n bytes from address a made equal to the unlisted byte. -/
def memClear (m : List Host.Cell) (a n : Nat) : List Host.Cell :=
  m.filter fun c => decide (c.1 < a) || decide (a + n ≤ c.1)

/-- The canonical form of a byte memory. -/
def memWf (d : Byte) : List Host.Cell → Bool
  | [] => true
  | [c] => c.2 != d
  | c :: c' :: r => c.2 != d && decide (c.1 < c'.1) && memWf d (c' :: r)

/-- The form that `State.mem` keeps: strictly rising addresses and no zero byte listed. -/
abbrev Memory.wf (m : List Host.Cell) : Prop := memWf 0 m = true

/-! ## Units -/

def State.eng (s : State) (e : Nat) : Engine := tget s.engines e {}
def State.setEng (s : State) (e : Nat) (x : Engine) : State := { s with engines := tset s.engines e x }
def State.strm (s : State) (e : Nat) : Stream := tget s.streams e {}
def State.setStrm (s : State) (e : Nat) (x : Stream) : State := { s with streams := tset s.streams e x }
def State.gal (s : State) (g : Nat) : Gallery := tget s.galleries g {}
def State.setGal (s : State) (g : Nat) (x : Gallery) : State := { s with galleries := tset s.galleries g x }
def State.drip (s : State) (g : Nat) : Drip := tget s.drips g {}
def State.setDrip (s : State) (g : Nat) (x : Drip) : State := { s with drips := tset s.drips g x }
def State.flow (s : State) (c : Nat) : Flow := tget s.flows c {}
def State.setFlow (s : State) (c : Nat) (x : Flow) : State := { s with flows := tset s.flows c x }
def State.hbmc (s : State) (n : Nat) : Hbmc := tget s.hbmcs n {}
def State.setHbmc (s : State) (n : Nat) (x : Hbmc) : State := { s with hbmcs := tset s.hbmcs n x }
def State.cavern (s : State) (c : Nat) : Cavern := tget s.caverns c {}
def State.setCavern (s : State) (c : Nat) (x : Cavern) : State := { s with caverns := tset s.caverns c x }
def State.vec (s : State) (g : Nat) : Vec := tget s.vecs g {}
def State.setVec (s : State) (g : Nat) (x : Vec) : State := { s with vecs := tset s.vecs g x }
def State.helper (s : State) (h : Nat) : Helper := tget s.helpers h {}
def State.setHelper (s : State) (h : Nat) (x : Helper) : State := { s with helpers := tset s.helpers h x }
def State.msg (s : State) (ep : Nat) : Msg := tget s.msgs ep {}
def State.setMsg (s : State) (ep : Nat) (x : Msg) : State := { s with msgs := tset s.msgs ep x }
def State.link (s : State) (n : Nat) : Link := tget s.links n {}
def State.setLink (s : State) (n : Nat) (x : Link) : State := { s with links := tset s.links n x }
def State.bundle (s : State) (n : Nat) : Bundle := tget s.bundles n {}
def State.setBundle (s : State) (n : Nat) (x : Bundle) : State := { s with bundles := tset s.bundles n x }
def State.port (s : State) (p : Nat) : Port := tget s.ports p {}
def State.setPort (s : State) (p : Nat) (x : Port) : State := { s with ports := tset s.ports p x }
def State.fn (s : State) (p f : Nat) : Fn := tget s.fns (64 * p + f) {}
def State.setFn (s : State) (p f : Nat) (x : Fn) : State := { s with fns := tset s.fns (64 * p + f) x }
def State.mgmt (s : State) : Ctl → Mgmt
  | .W => s.mgmtW
  | .E => s.mgmtE
def State.setMgmt (s : State) (c : Ctl) (x : Mgmt) : State :=
  match c with
  | .W => { s with mgmtW := x }
  | .E => { s with mgmtE := x }
def State.ctx (s : State) (t : Nat) : Ctx := tget s.geode.ctx t {}
def State.setCtx (s : State) (t : Nat) (x : Ctx) : State := { s with geode := { s.geode with ctx := tset s.geode.ctx t x } }
def State.slotJ (s : State) (n : Nat) : JSlot := tget s.journal.slots n {}
def State.setSlotJ (s : State) (n : Nat) (x : JSlot) : State :=
  { s with journal := { s.journal with slots := tset s.journal.slots n x } }

/-- The other controller. -/
def Ctl.other : Ctl → Ctl
  | .W => .E
  | .E => .W

/-- The controller that a port's accesses enter (R18). -/
def ctlOfPort (p : Nat) : Ctl := if p = 0 then .W else .E

/-- A free value drawn from the current place (log entry 2). -/
def State.free (s : State) (i : Nat) : Nat := Config.free s.freeCtr i

/-- Move to the next place of free values. -/
def State.drawn (s : State) : State := { s with freeCtr := s.freeCtr + 1 }

/-- n free bytes. -/
def State.freeBytes (s : State) (n : Nat) : Bytes := (List.range n).map fun k => BitVec.ofNat 8 (s.free k)

/-! ## Register pages (R472) -/

/-- The pages of the PF's BAR0. -/
inductive Page where
  | dev | geode | mgmt (c : Ctl) | journal | lie
  | pciep (p f : Nat) | link (n : Nat) | cavern (c : Nat) | flow (c : Nat) | hbmc (n : Nat)
  | gallery (g : Nat) | drip (g : Nat) | vec (g : Nat) | helper (h : Nat) | engine (e : Nat) | stream (e : Nat)
  | msg (ep : Nat)
  deriving DecidableEq, Repr

/-- The page's number: its PF BAR0 offset over 4,096 (R472). -/
def Page.key : Page → Nat
  | .dev => 0
  | .geode => 1
  | .mgmt .W => 2
  | .mgmt .E => 3
  | .journal => 4
  | .lie => 5
  | .pciep p f => 0x100 + 0x40 * p + f
  | .link n => 0x200 + n
  | .cavern c => 0x300 + 0x10 * c
  | .flow c => 0x301 + 0x10 * c
  | .hbmc n => 0x302 + 0x10 * (n / 2) + n % 2
  | .gallery g => 0x400 + 0x40 * g
  | .drip g => 0x401 + 0x40 * g
  | .vec g => 0x402 + 0x40 * g
  | .helper h => 0x403 + 0x40 * (h / 2) + h % 2
  | .engine e => 0x408 + 0x40 * (e / 4) + e % 4
  | .stream e => 0x40C + 0x40 * (e / 4) + e % 4
  | .msg ep => 0x410 + 0x40 * (ep / 8) + ep % 8

/-- The page with a number; none for a reserved page (R472). -/
def Page.ofKey (k : Nat) : Option Page :=
  if k = 0 then some .dev
  else if k = 1 then some .geode
  else if k = 2 then some (.mgmt .W)
  else if k = 3 then some (.mgmt .E)
  else if k = 4 then some .journal
  else if k = 5 then some .lie
  else if 0x100 ≤ k ∧ k < 0x180 then some (.pciep ((k - 0x100) / 0x40) ((k - 0x100) % 0x40))
  else if 0x200 ≤ k ∧ k < 0x240 then some (.link (k - 0x200))
  else if 0x300 ≤ k ∧ k < 0x340 then
    let c := (k - 0x300) / 0x10
    match (k - 0x300) % 0x10 with
    | 0 => some (.cavern c)
    | 1 => some (.flow c)
    | 2 => some (.hbmc (2 * c))
    | 3 => some (.hbmc (2 * c + 1))
    | _ => none
  else if 0x400 ≤ k ∧ k < 0x800 then
    let g := (k - 0x400) / 0x40
    let r := (k - 0x400) % 0x40
    if r = 0 then some (.gallery g)
    else if r = 1 then some (.drip g)
    else if r = 2 then some (.vec g)
    else if r = 3 ∨ r = 4 then some (.helper (2 * g + (r - 3)))
    else if 8 ≤ r ∧ r < 12 then some (.engine (4 * g + (r - 8)))
    else if 12 ≤ r ∧ r < 16 then some (.stream (4 * g + (r - 12)))
    else if 16 ≤ r ∧ r < 23 then some (.msg (8 * g + (r - 16)))
    else none
  else none

/-- The block type code of a page (R472). -/
def Page.type : Page → Nat
  | .dev => 0x0001 | .geode => 0x0002 | .mgmt _ => 0x0003 | .journal => 0x0031 | .lie => 0x0030 | .pciep _ _ => 0x0004
  | .link _ => 0x0005 | .cavern _ => 0x0010 | .flow _ => 0x0012 | .hbmc _ => 0x0011 | .gallery _ => 0x0020
  | .drip _ => 0x0023 | .vec _ => 0x0024 | .helper _ => 0x0025 | .engine _ => 0x0021 | .stream _ => 0x0022
  | .msg _ => 0x0026

/-- Instance and location of a page (R463). -/
def Page.place : Page → Nat × Nat
  | .dev | .geode | .journal | .lie | .mgmt .W => (0, 0)
  | .mgmt .E => (1, 1)
  | .pciep p f => (f, p)
  | .link n => (n, if n < 32 then 0 else 1)
  | .cavern c | .flow c => (c, c)
  | .hbmc n => (n, n / 2)
  | .gallery g | .drip g | .vec g => (g, g / 4)
  | .engine e | .stream e => (e, e / 4)
  | .helper h => (h, h / 2)
  | .msg ep => (ep, ep / 8)

/-- The half that a page's block lies in; none for a block of neither (R14). -/
def Page.half : Page → Option Ctl
  | .dev | .geode | .journal | .lie => none
  | .mgmt c => some c
  | .pciep p _ => some (ctlOfPort p)
  | .link n => some (if n < 32 then .W else .E)
  | .cavern c | .flow c => some (if c < 2 then .W else .E)
  | .hbmc n => some (if n < 4 then .W else .E)
  | .gallery g | .drip g | .vec g => some (if g < 8 then .W else .E)
  | .helper h => some (if h < 16 then .W else .E)
  | .engine e | .stream e => some (if e < 32 then .W else .E)
  | .msg ep => some (if ep < 64 then .W else .E)

/-- The function of an engine's command's tenant (R196, R359): the virtual function that submitted it, or for a command of the PF the
lowest VF of its port with that FN_TENANT, the PF where there is none (log entry 117). -/
def State.exportFn (s : State) (e : Nat) : Option (Nat × Nat) :=
  (s.eng e).slot.map fun n =>
    let x := s.slotJ n
    if x.fn ≠ 0 then (x.port, x.fn)
    else (x.port, (((List.range 63).map (· + 1)).find? fun f => (s.fn x.port f).tenant == fld x.entry.toNat 32 10).getD 0)

/-- The functions, as (port, function), that a page's interrupt reaches, each with the bits of IRQ_STS that reach it (R196, R442, R468): bit
p of the GEODE page is port p's mailbox alone, bit 8 of a GALLERY page an export. -/
def Page.irqTo (s : State) (p : Page) : List (Nat × Nat × Word32) :=
  match p with
  | .dev | .journal => [(0, 0, 0xFFFFFFFF), (1, 0, 0xFFFFFFFF)]
  | .geode => [(0, 0, 0xFFFFFFFD), (1, 0, 0xFFFFFFFE)]
  | .lie => [(s.lie.owner, 0, 0xFFFFFFFF)]
  | .pciep p f => [(p, f, 0xFFFFFFFF)]
  | .gallery g =>
    (if g < 8 then 0 else 1, 0, 0xFFFFFEFF) ::
      (((List.range 4).filter fun j => (s.gal g).xportPend.getLsbD j).filterMap fun j => s.exportFn (4 * g + j)).map
        fun q => (q.1, q.2, 0x100)
  | _ =>
    match p.half with
    | some .W => [(0, 0, 0xFFFFFFFF)]
    | some .E => [(1, 0, 0xFFFFFFFF)]
    | none => []

def State.hdr (s : State) (p : Page) : Hdr := tget s.hdrs p.key {}
def State.setHdr (s : State) (p : Page) (h : Hdr) : State := { s with hdrs := tset s.hdrs p.key h }

/-- A page's block answers beyond its header (R476). -/
def State.blkOn (s : State) (p : Page) : Bool := (s.hdr p).pstate = .on

/-- An interrupt message to vector v of a function (R359). -/
def State.msixTo (s : State) (p f v : Nat) : State := { s with msix := s.msix ++ [(p, f, v)] }

/-- Replace a page's header; when its interrupt (IRQ_STS AND IRQ_EN) rises, vector 0 of the functions of R468 is
raised. -/
def State.putHdr (s : State) (p : Page) (h : Hdr) : State :=
  let was := (s.hdr p).irqSts &&& (s.hdr p).irqEn
  let now := h.irqSts &&& h.irqEn
  (p.irqTo s).foldl
    (fun t q => if was &&& q.2.2 = 0 ∧ now &&& q.2.2 ≠ 0 then t.msixTo q.1 q.2.1 0 else t) (s.setHdr p h)

/-- Set bit b of a page's IRQ_STS (R468). -/
def State.raise (s : State) (p : Page) (b : Nat) : State :=
  let h := s.hdr p
  s.putHdr p { h with irqSts := h.irqSts ||| BitVec.ofNat 32 (1 <<< b) }

/-- Record an error on a page: ERR_FIRST when it holds none, ERR_CNT saturating, IRQ_STS.ERR (R468, R469). -/
def State.recordErr (s : State) (p : Page) (code : Code) (detail : Nat) : State :=
  let h := s.hdr p
  let cnt := if h.errCnt = 0xFFFFFFFF#32 then h.errCnt else h.errCnt + 1
  if h.errFirst.getLsbD 31 then s.setHdr p { h with errCnt := cnt }
  else s.putHdr p { h with errCnt := cnt, errFirst := errFirstImage code detail, irqSts := h.irqSts ||| 0x80000000#32 }

/-- Count n errors without a record (R24, R410). -/
def State.countErrs (s : State) (p : Page) (n : Nat) : State :=
  let h := s.hdr p
  s.setHdr p { h with errCnt := BitVec.ofNat 32 (min (h.errCnt.toNat + n) 0xFFFFFFFF) }

/-- Counter k of a header after n more events of code ev (R470). -/
def Hdr.counted (h : Hdr) (ev n : Nat) (k : Nat) : Tbl Word64 → Tbl Word64 := fun vals =>
  let sel := (tget h.cntSel k 0).toNat
  if bit sel 31 && fld sel 0 8 == ev then tset vals k (tget vals k 0 + BitVec.ofNat 64 n) else vals

/-- n events of code ev on a page's counters (R470). -/
def State.event (s : State) (p : Page) (ev n : Nat) : State :=
  let h := s.hdr p
  s.setHdr p { h with
    cntVal := h.counted ev n 3 (h.counted ev n 2 (h.counted ev n 1 (h.counted ev n 0 h.cntVal))) }

/-! ## Islands (R21, R25) -/

def islEngine (g : Nat) : Nat := g
def islNet (c : Nat) : Nat := 16 + c
def islHelper (g : Nat) : Nat := 21 + g
def islHbm (n : Nat) : Nat := 37 + n
def islLink (n : Nat) : Nat := 45 + n
def islPcie (p : Nat) : Nat := 109 + p
def islMgmt : Ctl → Nat
  | .W => 111
  | .E => 112
def islGeode : Nat := 113

/-- An island's counter (R25). -/
def State.cyc (s : State) (i : Nat) : Nat := tget s.cycles i 0

/-- GALLERY.ENG_CYCLES (R25). -/
def State.engCycles (s : State) (g : Nat) : Nat := s.cyc (islEngine g)

/-- One cycle of every island (R25): its counter advances by one and never wraps in service. -/
def State.tick (s : State) : State := { s with cycles := (List.range 114).map fun i => (i, s.cyc i + 1) }

/-! ## The Sump (R420, R421) -/

/-- A record reaches a gallery's Sump: stored, or counted when the Sump is full; its arrival is placed either way
(R421). -/
def State.sumpPut (s : State) (g : Nat) (r : SumpRec) : State :=
  let x := s.gal g
  let arr :=
    match r.slot with
    | some n => if r.unit.toNat ≤ 1 then x.arrivals ++ [(n.val, r.disp.toNat, r.place.toNat)] else x.arrivals
    | none => x.arrivals
  if x.sump.length < 256 then s.setGal g { x with sump := x.sump ++ [r], arrivals := arr }
  else s.setGal g { x with sumpLost := x.sumpLost + 1, sumpLostFlag := true, arrivals := arr }

/-! ## HBM and the Flowstone cache (R268, R282-R292) -/

/-- First byte of the engine scratchpad slices (R268). -/
def spBase : Nat := 0x10000000000
/-- First byte of the helper scratchpads (R268). -/
def hpBase : Nat := 0x10040000000

def spDpa (e off : Nat) : Nat := spBase + e * 0x800000 + off
def hpDpa (h off : Nat) : Nat := hpBase + h * 0x80000 + off

/-- A run lies wholly in the HBM region (R268). -/
def inHbm (a n : Nat) : Bool := decide (a + n ≤ 2 ^ 39)

/-- A run lies wholly in one region of R268. -/
def inRegion (a n : Nat) : Bool :=
  inHbm a n || (decide (spBase ≤ a) && decide (a + n ≤ spBase + 0x20000000)) ||
    (decide (hpBase ≤ a) && decide (a + n ≤ hpBase + 0x1000000))

/-- Bytes of the device's memory, without any effect of the access. -/
def State.bytes (s : State) (a n : Nat) : Bytes := memRun s.mem 0 a n

/-- The number that n bytes at DPA a spell (R8). -/
def State.num (s : State) (a n : Nat) : Nat := ofLe (s.bytes a n)

/-- The stack of an HBM address (R268). -/
def stackOf (a : Nat) : Nat := fld a 36 3

/-- The set of a DPA in its slice (R282). -/
def flowSet (a : Nat) : Nat := (fld a 8 14 ^^^ fld a 22 14) ^^^ (fld a 36 1 <<< 13)

/-- The line of a slice that holds the line at DPA a (R282). -/
def Flow.line (f : Flow) (a : Nat) : Option Line := (tget f.sets (flowSet a) []).find? fun l => l.dpa == a

/-- A slice writes back one line: HBM holds the bytes of its dirty parts (R282). -/
def Line.clean (l : Line) : Line := { l with dirty := [], shadow := l.shadow.filter fun p => !l.dirty.contains p.1 }

/-- The ways of a set after making room for one more line, and the line evicted: the least recent one without the KEEP mark
(R285). -/
def evict (ws : List Line) : List Line × Option Line :=
  if ws.length < 16 then (ws, none)
  else
    match ws.reverse.find? (fun l => !l.keep) with
    | some v => (ws.filter (fun l => l.dpa != v.dpa), some v)
    | none => (ws, none)

/-- The ways of a set after the cap of KEEP_WAYS has taken the KEEP mark of the least recent KEEP line (R285). -/
def capKeep (cap : Nat) (ws : List Line) : List Line × Nat :=
  if (ws.filter (fun l => l.keep)).length < cap then (ws, 0)
  else
    match ws.reverse.find? (fun l => l.keep) with
    | some v => (ws.map (fun l => if l.dpa == v.dpa then { l with keep := false } else l), 1)
    | none => (ws, 0)

/-- Mark line a of a set most recent, and KEEP when asked (R283, R285). -/
def touchWay (keepWays : Nat) (a : Nat) (keep : Bool) (ws : List Line) : List Line × Nat :=
  match ws.find? (fun l => l.dpa == a) with
  | none => (ws, 0)
  | some l =>
    let rest := ws.filter fun x => x.dpa != a
    if keep && !l.keep && keepWays != 0 then
      let c := capKeep keepWays rest
      ({ l with keep := true } :: c.1, c.2)
    else (l :: rest, 0)

/-- A new line in a set (R283, R285): the ways, the line evicted and the KEEP marks removed. -/
def allocWay (keepWays : Nat) (a : Nat) (keep : Bool) (ws : List Line) : List Line × Option Line × Nat :=
  let keep := keep && keepWays != 0
  let c := if keep then capKeep keepWays ws else (ws, 0)
  let v := evict c.1
  ({ dpa := a, keep := keep } :: v.1, v.2, c.2)

/-- What HBM holds under a part that a write makes dirty: its 64 bytes and whether its codeword is uncorrectable (R282). -/
def State.shadowOf (s : State) (a part : Nat) : Nat × Bytes × Bool :=
  (part, s.bytes (a + 64 * part) 64, s.ue.contains (a / 64 + part))

/-- The parts of the line at a that a run touches (R282). -/
def partsOf (a lo n : Nat) : List Nat :=
  (List.range 4).filter fun p => decide (lo < a + 64 * p + 64) && decide (a + 64 * p < lo + n)

/-- A line after a write of these parts: they are dirty (R282, R283). -/
def Line.marked (l : Line) (s : State) (parts : List Nat) : Line :=
  { l with
    dirty := l.dirty ++ parts.filter fun p => !l.dirty.contains p
    shadow := l.shadow ++ (parts.filter fun p => !(l.shadow.any fun q => q.1 == p)).map (s.shadowOf l.dpa) }

/-- HBM's own bytes under parts of a line that leaves its slice come back (R284, R293). -/
def State.restoreShadow (s : State) (a : Nat) (sh : List (Nat × Bytes × Bool)) : State :=
  sh.foldl (fun t p =>
    { t with
      mem := memPut t.mem 0 (a + 64 * p.1) p.2.1
      ue := if p.2.2 then (if t.ue.contains (a / 64 + p.1) then t.ue else t.ue ++ [a / 64 + p.1])
            else t.ue.filter (fun w => w != a / 64 + p.1) }) s

/-- Parts of the line at a that a run covers wholly. -/
def wholeParts (a lo n : Nat) : List Nat :=
  (List.range 4).filter fun p => decide (lo ≤ a + 64 * p) && decide (a + 64 * p + 64 ≤ lo + n)

/-- Parts of a line that a request which misses reads from HBM (R283, R292): a fill reads the line, unless a write covers it; a
request without allocation reads what it serves or merges. -/
def missReads (hint a lo n : Nat) (write : Bool) : List Nat :=
  if hint = 0 ∨ hint = 2 then (if write && lo ≤ a && a + 256 ≤ lo + n then [] else List.range 4)
  else if write then (partsOf a lo n).filter fun p => !(wholeParts a lo n).contains p
  else partsOf a lo n

/-- HBMC.UE_ADDR and event 0x05 of an uncorrectable codeword (R292, R294, R295). -/
def State.foundUe (s : State) (a : Nat) : State :=
  let n := stackOf a
  (s.setHbmc n { s.hbmc n with ueAddr := BitVec.ofNat 64 (a / 64 * 64) }).event (.hbmc n) 5 1

/-- k accesses of a stack at a DPA: 64-byte reads (event 0x01) or writes (0x02), and the row misses among them, which the spec
leaves to the stack's row state: a free number of them (R288, R295; log entry 102). -/
def State.hbmTraffic (s : State) (a ev k : Nat) : State :=
  let n := stackOf a
  (s.event (.hbmc n) ev k).event (.hbmc n) 7 (Config.rowMisses a (s.cyc (islHbm n)) % (k + 1))

/-- HBM traffic of a miss (R292, R294, R295): its reads with the uncorrectable codewords found, and the writes of a request that does
not allocate. -/
def State.missEvents (s : State) (hint a lo n : Nat) (write : Bool) : State :=
  let rd := missReads hint a lo n write
  let s := s.hbmTraffic a 1 rd.length
  let s := (rd.filter fun p => s.ue.contains (a / 64 + p)).foldl (fun s p => s.foundUe (a + 64 * p)) s
  if write ∧ (hint = 1 ∨ hint = 3) then
    let whole := (wholeParts a lo n).length
    (s.hbmTraffic a 2 (partsOf a lo n).length).event (.hbmc (stackOf a)) 3 ((partsOf a lo n).length - whole)
  else s

/-- The write-back of a line that is evicted or flushed: its dirty parts go to HBM, unless its stack has failed (R282, R295,
R414). -/
def State.wroteBack (s : State) (l : Line) : State :=
  if l.dirty.isEmpty ∨ (s.hbmc (stackOf l.dpa)).failed then s
  else (s.event (.flow (stackOf l.dpa / 2)) 5 1).hbmTraffic l.dpa 2 l.dirty.length

/-- A line leaves its slice by eviction (R282, R285); one that is dirty and cannot be written back to its failed stack is poisoned there
(R414). -/
def State.evicted (s : State) (v : Option Line) : State :=
  match v with
  | some l =>
    if (s.hbmc (stackOf l.dpa)).failed then s.restoreShadow l.dpa (l.shadow.map fun p => (p.1, p.2.1, p.2.2 || l.dirty.contains p.1))
    else (s.wroteBack l).restoreShadow l.dpa l.clean.shadow
  | none => s

/-- A request for the run [lo, lo + n) within the line at a, served at its home slice under a hint (0 NORMAL, 1 STREAM,
2 KEEP, 3 LAST): recency, allocation and dirty parts (R283-R286). The bytes of a write are written after it. A failed stack fills no
line (R414). -/
def State.flowLine (s : State) (hint a lo n : Nat) (write : Bool) : State :=
  let c := stackOf a / 2
  let f := s.flow c
  let set := flowSet a
  let ws := tget f.sets set []
  let hit := (f.line a).isSome
  let s := s.event (.flow c) (if write then (if hit then 3 else 4) else if hit then 1 else 2) 1
  let keepW := if hint = 2 then f.keepWays else 0
  let dirty (l : List Line) : List Line :=
    if write then l.map fun x => if x.dpa = a then x.marked s (partsOf a lo n) else x else l
  if hit then
    if hint = 1 then s.setFlow c { f with sets := tset f.sets set (dirty ws) }
    else if hint = 3 then
      if write then s
      else if lo ≤ a ∧ a + 256 ≤ lo + n then
        let sh := ((f.line a).map Line.shadow).getD []
        ((s.setFlow c { f with sets := tset f.sets set (ws.filter fun l => l.dpa != a) }).restoreShadow a sh).event (.flow c) 6 1
      else s
    else
      let t := touchWay keepW a (hint = 2) ws
      (s.setFlow c { f with sets := tset f.sets set (dirty t.1) }).event (.flow c) 7 t.2
  else if (s.hbmc (stackOf a)).failed then s
  else
    let s := s.missEvents hint a lo n write
    if hint = 0 ∨ hint = 2 then
      let t := allocWay keepW a (hint = 2) ws
      ((s.setFlow c { f with sets := tset f.sets set (dirty t.1) }).evicted t.2.1).event (.flow c) 7 t.2.2
    else s

/-- The 256-byte lines that a run meets. -/
def linesOf (a n : Nat) : List Nat :=
  if n = 0 then [] else (List.range ((a + n - 1) / 256 - a / 256 + 1)).map fun i => (a / 256 + i) * 256

/-- Serve a run of HBM at the home slices, line by line. -/
def State.flowRun (s : State) (hint a n : Nat) (write : Bool) : State :=
  (linesOf a n).foldl (fun t l => t.flowLine hint l a n write) s

/-- Some codeword of the run is uncorrectable, or its stack has failed and no slice holds its line (R292, R414). -/
def State.ueIn (s : State) (a n : Nat) : Bool :=
  (s.ue.any fun w => decide (a < (w + 1) * 64) && decide (w * 64 < a + n)) ||
    (linesOf a n).any fun l => (s.hbmc (stackOf l)).failed && ((s.flow (stackOf l / 2)).line l).isNone

/-- The first uncorrectable codeword of a run, if any (R292). -/
def State.firstUe (s : State) (a n : Nat) : Option Nat :=
  (List.range ((a + n - 1) / 64 - a / 64 + 1)).findSome? fun i =>
    let w := (a / 64 + i) * 64
    if s.ueIn w 64 then some w else none

/-- A read meets an uncorrectable codeword: the poisoned parts are served as such; an access to a failed stack that no slice holds
ends the same way (R292, R295, R414). -/
def State.serveUe (s : State) (hint a n : Nat) : State :=
  let bad := s.ue.filter fun w => decide (a < (w + 1) * 64) && decide (w * 64 < a + n)
  let t := s.flowRun hint a n false
  if bad.isEmpty then t.foundUe ((s.firstUe a n).getD a)
  else bad.foldl (fun t w => t.event (.flow (stackOf (w * 64) / 2)) 8 1) t

/-- A read of n bytes at DPA a under a hint, or its refusal (R268, R283, R292). -/
def State.devRead (s : State) (hint a n : Nat) : State × Except Code Bytes :=
  if !inRegion a n then (s, .error .permission)
  else if inHbm a n then
    let b := s.bytes a n
    if n ≠ 0 ∧ s.ueIn a n then (s.serveUe hint a n, .error .eccUncorrectable)
    else (s.flowRun hint a n false, .ok b)
  else (s, .ok (s.bytes a n))

/-- A write by another master ends a helper core's LR reservation that it touches (R318), and raises WATCH where it touches the watched line
(R322): WATCH holds EN in [31] and the line in [18:6]. -/
def State.noteWatch (s : State) (by_ : Option Nat) (a n : Nat) : State :=
  if hpBase ≤ a ∧ n ≠ 0 then
    let h := (a - hpBase) / 0x80000
    let x := s.helper h
    let w := x.watch.toNat
    let line := hpDpa h (fld w 6 13 * 64)
    let ends : Bool := match x.lr with | some r => (decide (a < hpDpa h r + 8) && decide (hpDpa h r < a + n)) | none => false
    let seen := bit w 31 && decide (a < line + 64) && decide (line < a + n)
    if by_ ≠ some h ∧ (ends ∨ seen) then
      s.setHelper h { x with lr := if ends then none else x.lr,
                             csr := if seen then tset x.csr 0x344 (tget x.csr 0x344 0 ||| 0x20000) else x.csr }
    else s
  else s

/-- The codewords that lie wholly inside a run. -/
def wholeCodewords (a n w : Nat) : Bool := decide (a ≤ w * 64) && decide (w * 64 + 64 ≤ a + n)

/-- A write at DPA a by a master (a helper core, for WATCH), or its refusal. A partial write into an uncorrectable
codeword leaves it uncorrectable and is reported (R292). -/
def State.devWriteBy (s : State) (by_ : Option Nat) (hint a : Nat) (bs : Bytes) : State × Option Code :=
  let n := bs.length
  if n = 0 then (s, none)
  else if !inRegion a n then (s, some .permission)
  else if inHbm a n then
    let bad := s.ue.any fun w => decide (a < (w + 1) * 64) && decide (w * 64 < a + n) && !wholeCodewords a n w
    let dead := (linesOf a n).any fun l => (s.hbmc (stackOf l)).failed && ((s.flow (stackOf l / 2)).line l).isNone
    if dead then (s.foundUe a, some .eccUncorrectable)
    else
      let t := s.flowRun hint a n true
      ({ t with mem := memPut t.mem 0 a bs, ue := t.ue.filter fun w => !wholeCodewords a n w },
        if bad then some .eccUncorrectable else none)
  else (({ s with mem := memPut s.mem 0 a bs }).noteWatch by_ a n, none)

/-- A write at DPA a. -/
def State.devWrite (s : State) (hint a : Nat) (bs : Bytes) : State × Option Code := s.devWriteBy none hint a bs

/-- Zero n bytes at DPA a without an access: a fill of the device's own (R275, R505). -/
def State.zeroRun (s : State) (a n : Nat) : State := { s with mem := memClear s.mem a n }

/-! ## Translation (R277-R280) -/

/-- A step of the walk at the table of level 4 − k (k = 3, 2, 1, 0): the page's DPA, the log2 of its size and the leaf, or
the outcome of R279. Each entry is read through its home Flowstone slice under NORMAL (R280). -/
def State.walkFrom (s : State) (va tenant : Nat) (write : Bool) : Nat → Nat → State × Except Code (Nat × Nat × Nat)
  | k, table =>
    let shift := match k with | 3 => 39 | 2 => 30 | 1 => 21 | _ => 16
    match s.devRead 0 (table + 8 * fld va shift (if k = 0 then 5 else 9)) 8 with
    | (s, .error c) => (s, .error c)
    | (s, .ok b) =>
      let e := ofLe b
      let addr := fld e 12 32 <<< 12
      let leaf := bit e 62
      if !bit e 63 then (s, .error .translationFault)
      else if fld e 58 3 ≠ 0 ∨ fld e 44 4 ≠ 0 ∨ fld e 0 12 ≠ 0 ∨ (k = 3 ∧ leaf) ∨ (k = 0 ∧ !leaf) ∨
          (!leaf ∧ (bit e 61 ∨ fld e 48 10 ≠ 0)) then (s, .error .translationFault)
      else if leaf then
        if addr % 2 ^ shift ≠ 0 ∨ !inHbm addr (2 ^ shift) then (s, .error .translationFault)
        else if fld e 48 10 ≠ tenant then (s, .error .tenantMismatch)
        else if write ∧ !bit e 61 then (s, .error .permission)
        else (s, .ok (addr, shift, e))
      else
        match k with
        | 0 => (s, .error .translationFault)
        | k + 1 =>
          let size := if k = 0 then 256 else 4096
          if addr % size ≠ 0 ∨ !inHbm addr size then (s, .error .translationFault) else s.walkFrom va tenant write k addr

/-- The walk of a virtual address of a tenant (R277, R279). -/
def State.walk (s : State) (tenant va : Nat) (write : Bool) : State × Except Code (Nat × Nat × Nat) :=
  if (s.ctx tenant).st = .free ∨ 2 ^ 48 ≤ va then (s, .error .translationFault)
  else s.walkFrom va tenant write 3 (s.ctx tenant).ptRoot.toNat

/-- The DPA that a walk gives. -/
def State.walkDpa (s : State) (tenant va : Nat) (write : Bool) : State × Except Code Nat :=
  match s.walk tenant va write with
  | (s, .ok (base, sz, _)) => (s, .ok (base + va % 2 ^ sz))
  | (s, .error c) => (s, .error c)

/-- A virtual address to a DPA. A master of a gallery uses its translation cache, which keeps only completed walks and
may serve an older one (R280, R281); the others walk. -/
def State.xlate (s : State) (g : Option Nat) (tenant va : Nat) (write : Bool) : State × Except Code Nat :=
  match g with
  | none => s.walkDpa tenant va write
  | some g =>
    let x := s.gal g
    match x.tlb.find? (fun t => t.1 == tenant && t.2.1 == va / 2 ^ t.2.2.1 * 2 ^ t.2.2.1) with
    | some (_, page, sz, leaf) =>
      if Config.tlbHit g tenant page x.tlb.length then
        let e := leaf.toNat
        if write && !bit e 61 then (s, .error .permission)
        else (s, .ok ((fld e 12 32 <<< 12) + va % 2 ^ sz))
      else s.walkDpa tenant va write
    | none =>
      match s.walk tenant va write with
      | (s, .ok (base, sz, e)) =>
        (s.setGal g { s.gal g with tlb := ((tenant, va / 2 ^ sz * 2 ^ sz, sz, BitVec.ofNat 64 e) :: (s.gal g).tlb).take 2048 },
          .ok (base + va % 2 ^ sz))
      | (s, .error c) => (s, .error c)

/-- The outcome of a run of accesses: the first address that failed and why. -/
abbrev RunFail := Option (Nat × Code)

/-- A run of virtual addresses as runs of DPAs, one for each 64 KiB unit, up to the first failure. The first argument
bounds the units. -/
def State.xlateRun (s : State) (g : Option Nat) (tenant : Nat) (write : Bool) : Nat → Nat → Nat → State × List (Nat × Nat × Nat) × RunFail
  | 0, _, _ => (s, [], none)
  | k + 1, va, n =>
    if n = 0 then (s, [], none)
    else
      let m := min n (65536 - va % 65536)
      match s.xlate g tenant va write with
      | (s, .error c) => (s, [], some (va, c))
      | (s, .ok d) =>
        let r := s.xlateRun g tenant write k (va + m) (n - m)
        (r.1, (va, d, m) :: r.2.1, r.2.2)

/-- A run of virtual addresses as runs of DPAs. -/
def State.xlateAll (s : State) (g : Option Nat) (tenant va n : Nat) (write : Bool) : State × List (Nat × Nat × Nat) × RunFail :=
  s.xlateRun g tenant write (n / 65536 + 2) va n

/-- Read runs of DPAs in order, up to the first failure. -/
def State.readRuns (s : State) (hint : Nat) : List (Nat × Nat × Nat) → State × Bytes × RunFail
  | [] => (s, [], none)
  | (va, d, m) :: r =>
    match s.devRead hint d m with
    | (s, .error c) => (s, [], some (va, c))
    | (s, .ok b) =>
      let t := s.readRuns hint r
      (t.1, b ++ t.2.1, t.2.2)

/-- Write runs of DPAs in order, up to the first failure. -/
def State.writeRuns (s : State) (hint : Nat) : List (Nat × Nat × Nat) → Bytes → State × RunFail
  | [], _ => (s, none)
  | (va, d, m) :: r, bs =>
    match s.devWrite hint d (bs.take m) with
    | (s, some c) => (s, some (va, c))
    | (s, none) => s.writeRuns hint r (bs.drop m)

/-- Read a run of a tenant's virtual space: the bytes before the first failure, and the failure. -/
def State.vRead (s : State) (g : Option Nat) (tenant hint va n : Nat) : State × Bytes × RunFail :=
  match s.xlateAll g tenant va n false with
  | (s, runs, f) =>
    match s.readRuns hint runs with
    | (s, b, some e) => (s, b, some e)
    | (s, b, none) => (s, b, f)

/-- Write a run of elements of `unit` bytes into a tenant's virtual space: no element at or after the first failure is
written (R262). -/
def State.vWrite (s : State) (g : Option Nat) (tenant hint va unit : Nat) (bs : Bytes) : State × RunFail :=
  match s.xlateAll g tenant va bs.length true with
  | (s, runs, none) => s.writeRuns hint runs bs
  | (s, runs, some (bad, c)) =>
    let whole := (bad - va) / unit * unit
    match s.writeRuns hint (runs.map fun r => (r.1, r.2.1, min r.2.2 (va + whole - r.1))) (bs.take whole) with
    | (s, some e) => (s, some e)
    | (s, none) => (s, some (bad, c))

/-! ## Tokens and queues (R95, R96) -/

/-- Token queue q of an engine, head first. -/
def Engine.queue (x : Engine) (q : Nat) : List Token := tget x.queues q []

/-- A token enters queue q (R96); the caller has seen that it has room. -/
def Engine.push (x : Engine) (q : Nat) (t : Token) : Engine := { x with queues := tset x.queues q (x.queue q ++ [t]) }

/-- The head token of queue q leaves it. -/
def Engine.pop (x : Engine) (q : Nat) : Engine := { x with queues := tset x.queues q (x.queue q).tail }

/-- Queue q has room (R96: 16 tokens). -/
def Engine.room (x : Engine) (q : Nat) : Bool := decide ((x.queue q).length < 16)

/-- Counter CTn and comparator CPn (R107). -/
def Engine.ctv (x : Engine) (n : Nat) : Word32 := tget x.ct n 0
def Engine.cpv (x : Engine) (n : Nat) : Word32 := tget x.cp n 0

/-! ## Outcomes -/

/-- The next state of a command. -/
abbrev Out := Host.Outcome State Fault Refusal

/-- Fold an operation over the numbers below n. -/
def State.each (s : State) (n : Nat) (f : State → Nat → State) : State := (List.range n).foldl f s

end Sys2Proof.Machine
end

