-- ==== Sys2Proof/Machine/Arith.lean ====
section
/-! DEFINITION. The arithmetic of the engines on plain numbers: Montgomery reduction, transforms, basis conversion,
division by moduli, gadget digits, the rounding hash. Residues are natural numbers below their modulus; a polynomial is
the list of its elements. -/

namespace Sys2Proof.Machine

open Sys2Proof

/-- Ceiling division. -/
def cdiv (a b : Nat) : Nat := (a + b - 1) / b

/-! ## Montgomery form (R32) -/

/-- REDC(t) (R32). -/
def redc (t q qneg r : Nat) : Nat :=
  let m := t % r * qneg % r
  let u := (t + m * q) / r
  if q ≤ u then u - q else u

/-- b^e mod m by squaring over the low bits of e, the first argument their number. -/
def powModBits : Nat → Nat → Nat → Nat → Nat
  | 0, _, _, m => 1 % m
  | k + 1, b, e, m =>
    let h := powModBits k (b * b % m) (e / 2) m
    if e % 2 = 1 then b * h % m else h

/-- b^e mod m for an exponent below 2^64. -/
def powMod (b e m : Nat) : Nat := powModBits 64 (b % m) e m

/-- The modulus chain's radix (R29). -/
def Chain.radix (c : Chain) : Nat := if c.split then 2 ^ 32 else 2 ^ 64
/-- The ring size N. -/
def Chain.n (c : Chain) : Nat := 2 ^ c.logn
/-- Modulus entry e (R33). -/
def Chain.ent (c : Chain) (e : Nat) : ModEnt := tget c.ents e {}
/-- The modulus of entry e. -/
def Chain.q (c : Chain) (e : Nat) : Nat := (c.ent e).q
/-- Bytes of a tile element (R67). -/
def Chain.esz (c : Chain) : Nat := if c.split then 4 else 8
/-- Word INV[a][b] of the conversion block (R157). -/
def Chain.invw (c : Chain) (a b : Nat) : Nat := tget c.inv (80 * a + b) 0

/-- redc under entry e of a chain (R32). -/
def Chain.redc (c : Chain) (e t : Nat) : Nat := Machine.redc t (c.q e) (c.ent e).qneg c.radix
/-- The Montgomery form of a residue under entry e (R31). -/
def Chain.mont (c : Chain) (e x : Nat) : Nat := x * c.radix % c.q e
/-- m_a^(-1) mod m_b (R157). -/
def Chain.invOf (c : Chain) (a b : Nat) : Nat := c.redc b (c.invw a b)
/-- The root psi of entry e (R35). -/
def Chain.psi (c : Chain) (e : Nat) : Nat := c.redc e (c.ent e).psiM
def Chain.psiInv (c : Chain) (e : Nat) : Nat := c.redc e (c.ent e).psiInvM
def Chain.nInv (c : Chain) (e : Nat) : Nat := c.redc e (c.ent e).nInvM

/-! ## Transforms (R44-R46) -/

/-- brv(i) (R45). -/
def brv (logn i : Nat) : Nat := (List.range logn).foldl (fun r b => 2 * r + fld i b 1) 0

/-- The value of a polynomial at w (natural order), mod q. -/
def horner (q w : Nat) (a : List Nat) : Nat := a.foldr (fun x acc => (x + w * acc) % q) 0

/-- The list permuted: element i of the result is element p i of the list. -/
def permute (n : Nat) (p : Nat → Nat) (a : List Nat) : List Nat := (List.range n).map fun i => a.getD (p i) 0

/-- The forward transform of R45. -/
def nttOf (q psi logn : Nat) (a : List Nat) : List Nat :=
  (List.range (2 ^ logn)).map fun i => horner q (powMod psi (2 * brv logn i + 1) q) a

/-- The inverse transform of R45: N^(-1) psi^(-j) times the sum over k of A[brv(k)] psi^(-2jk). -/
def inttOf (q psiInv nInv logn : Nat) (a : List Nat) : List Nat :=
  let nat := permute (2 ^ logn) (brv logn) a
  (List.range (2 ^ logn)).map fun j =>
    let w := powMod psiInv j q
    nInv * w % q * horner q (w * w % q) nat % q

/-- Forward and inverse transform under entry e of a chain. -/
def Chain.ntt (c : Chain) (e : Nat) (a : List Nat) : List Nat := nttOf (c.q e) (c.psi e) c.logn a
def Chain.intt (c : Chain) (e : Nat) (a : List Nat) : List Nat := inttOf (c.q e) (c.psiInv e) (c.nInv e) c.logn a

/-- The canonical root of R44 among the candidates x, x + 1, ... (`fuel` of them). -/
def canonicalRoot (q logn : Nat) : Nat → Nat → Option Nat
  | 0, _ => none
  | k + 1, x => if q ≤ x then none else if powMod x (2 ^ logn) q = q - 1 then some x else canonicalRoot q logn k (x + 1)

/-- sel(o) of R253 in evaluation order, natural slots: brv(tau_g(brv(o))); with ORD tau_g(o). -/
def tauG (logn g x : Nat) : Nat := (g * (2 * x + 1) % 2 ^ (logn + 1) - 1) / 2
def rotSel (logn g : Nat) (ord : Bool) (o : Nat) : Nat :=
  if ord then tauG logn g o else brv logn (tauG logn g (brv logn o))

/-- The automorphism X to X^g on coefficients (R137, DOM = 1). -/
def autoCoef (q logn g : Nat) (a : List Nat) : List Nat :=
  let n := 2 ^ logn
  ((List.range n).zip a).foldl
    (fun acc ja =>
      let p := ja.1 * g % (2 * n)
      if p < n then acc.set p ja.2 else acc.set (p - n) ((q - ja.2) % q))
    (List.replicate n 0)

/-! ## Element-wise results (R134) -/

def mulRow (q : Nat) (a b : List Nat) : List Nat := List.zipWith (fun x y => x * y % q) a b
def addRow (q : Nat) (a b : List Nat) : List Nat := List.zipWith (fun x y => (x + y) % q) a b

/-! ## Basis conversion (R158, R159) -/

/-- hinv(S, j): the product over a in S, a other than j, of m_a^(-1) mod m_j. -/
def Chain.hinv (c : Chain) (set : List Nat) (j : Nat) : Nat :=
  set.foldl (fun acc a => if a = j then acc else acc * c.invOf a j % c.q j) (1 % c.q j)

/-- h(S, j, m): the product over a in S, a other than j, of m_a, mod m. -/
def Chain.hprod (c : Chain) (set : List Nat) (j m : Nat) : Nat :=
  set.foldl (fun acc a => if a = j then acc else acc * (c.q a % m) % m) (1 % m)

/-- The rows y_j of R159 for source rows (one list of coefficients for each entry of the set). -/
def Chain.yRows (c : Chain) (set : List Nat) (rows : List (List Nat)) : List (List Nat) :=
  List.zipWith (fun j row => row.map fun x => x * c.hinv set j % c.q j) set rows

/-- The sum over j of y_j h(S, j, m) mod m, coefficient by coefficient (R159). -/
def Chain.convSum (c : Chain) (set : List Nat) (ys : List (List Nat)) (m : Nat) : List Nat :=
  (set.zip ys).foldl
    (fun acc jy =>
      let h := c.hprod set jy.1 m
      List.zipWith (fun s y => (s + y * h) % m) acc jy.2)
    (List.replicate c.n 0)

/-- Conversion of source rows to the entries of `targets` (R159): plain residues, coefficient order. -/
def Chain.bconv (c : Chain) (set : List Nat) (rows : List (List Nat)) (targets : List Nat) : List (List Nat) :=
  let ys := c.yRows set rows
  targets.map fun t => if set.contains t then rows.getD (set.idxOf t) [] else c.convSum set ys (c.q t)

/-! ## Rounding (R122, R224-R226) -/

/-- The rounding hash of R225. -/
def rhash (seed chain lam j n w k : Nat) : Nat :=
  let mask := 2 ^ 64 - 1
  let p := chain <<< 25 ||| lam <<< 17 ||| j
  let ctr := (p <<< 40) + n % 2 ^ 40
  let x := seed ^^^ (ctr &&& mask) ^^^ (ctr >>> 64) ^^^ w
  let x := x * 0xB4C39F5E27D16A8B &&& mask
  let x := x ^^^ (x >>> 29)
  let x := x * 0xE17A4C935B2D86F5 &&& mask
  let x := x ^^^ (x >>> 32)
  x >>> (64 - k)

/-- What a rounding instruction carries into each cut (R122, R224). -/
structure Rnd where
  mode : Nat
  seed : Nat
  chain : Nat
  seq : Nat

/-- r of R163 and R182: 32 bits of the hash. -/
def Rnd.draw (r : Rnd) (lam j w : Nat) : Nat := rhash r.seed r.chain lam j r.seq w 32

/-- The exact value num / den cut to an integer (R122): NEAREST, TRUNC, or STOCH with the draw r. -/
def roundCut (mode num den r : Nat) : Nat :=
  if mode = 0 then (2 * num + den) / (2 * den)
  else if mode = 2 then num / den + (if r < 2 ^ 32 * (num % den) / den then 1 else 0)
  else num / den

/-! ## Division by moduli (R161-R163) -/

/-- The rescale of R161: coefficient rows of entries 0 to top, divided by q_top; rows 0 to top - 1. -/
def Chain.rescale (c : Chain) (r : Rnd) (lam top : Nat) (rows : List (List Nat)) : List (List Nat) :=
  let d := c.q top
  let last := rows.getD top []
  let h := if r.mode = 0 then (d - 1) / 2 else 0
  let up := if r.mode = 2 then
      ((List.range c.n).zip last).map fun jx => if r.draw lam jx.1 jx.2 < 2 ^ 32 * jx.2 / d then 1 else 0
    else List.replicate c.n 0
  (List.range top).map fun i =>
    let q := c.q i
    let inv := c.invOf top i
    List.zipWith (fun x lu => ((x + h % q + (q - (lu.1 + h) % d % q)) % q * inv + lu.2) % q) (rows.getD i []) (last.zip up)

/-- P^(-1) mod entry i, P the product of the first nsp special moduli. -/
def Chain.pInv (c : Chain) (nsp i : Nat) : Nat :=
  (List.range nsp).foldl (fun acc k => acc * c.invOf (64 + k) i % c.q i) (1 % c.q i)

/-- The product of the first nsp special moduli. -/
def Chain.pProd (c : Chain) (nsp : Nat) : Nat := (List.range nsp).foldl (fun acc k => acc * c.q (64 + k)) 1

/-- MODDN of R162 on coefficient rows: `qs` the rows of entries 0 to top, `ps` those of the special moduli. -/
def Chain.moddn (c : Chain) (r : Rnd) (lam nsp : Nat) (qs ps : List (List Nat)) : List (List Nat) :=
  let set := (List.range nsp).map (64 + ·)
  let h := if r.mode = 0 then (c.pProd nsp - 1) / 2 else 0
  let ps' := List.zipWith (fun e row => row.map fun x => (x + h) % c.q e) set ps
  let ys := c.yRows set ps'
  let up := if r.mode = 2 then
      (List.range c.n).map fun j =>
        let f := ((set.zip ys).foldl (fun acc ey => acc + (ey.2.getD j 0) * 2 ^ 64 / c.q ey.1) 0) % 2 ^ 64
        if r.draw lam j f < f >>> 32 then 1 else 0
    else List.replicate c.n 0
  ((List.range qs.length).zip qs).map fun iq =>
    let q := c.q iq.1
    let conv := c.convSum set ys q
    let inv := c.pInv nsp iq.1
    List.zipWith (fun x yu => ((x + h % q + (q - yu.1)) % q * inv + yu.2) % q) iq.2 (conv.zip up)

/-! ## Key switching (R164, R165) -/

/-- alpha, the limbs of a digit (R164). -/
def Chain.alpha (c : Chain) (dnum : Nat) : Nat := cdiv c.l dnum

/-- D', the active digits of limbs 0 to lhi (R164). -/
def Chain.active (c : Chain) (dnum lhi : Nat) : Nat := cdiv (lhi + 1) (c.alpha dnum)

/-- The entries of digit d, cut at lhi (R164). -/
def Chain.digit (c : Chain) (dnum lhi d : Nat) : List Nat :=
  let a := c.alpha dnum
  (List.range (min ((d + 1) * a) (lhi + 1) - d * a)).map (d * a + ·)

/-- The targets of R165, in order, as chain entries. -/
def kswTargets (lhi nsp : Nat) (rs : Bool) : List Nat :=
  (List.range nsp).map (64 + ·) ++ (if rs then lhi :: List.range lhi else List.range (lhi + 1))

/-- Fills of a KSW sequence (R165). -/
def Chain.kswFills (c : Chain) (dnum lhi nsp : Nat) : Nat := c.active dnum lhi * (lhi + 1 + nsp)

/-- The two output components of a key switch (R165): plain residues of limbs 0 to lhi (lhi - 1 with RS) in evaluation
order, from the source limbs in evaluation order and the fills, each with its stored and its regenerated row, all plain
residues. -/
def Chain.ksw (c : Chain) (r : Rnd) (dnum lhi nsp : Nat) (rs : Bool) (src : List (List Nat))
    (fills : List (List Nat × List Nat)) : List (List (List Nat)) :=
  let coef := ((List.range (lhi + 1)).zip src).map fun ia => c.intt ia.1 ia.2
  let dd := c.active dnum lhi
  let targets := kswTargets lhi nsp rs
  let digits := (List.range dd).map fun d =>
    let set := c.digit dnum lhi d
    (set, c.yRows set (set.map fun i => coef.getD i []))
  let ext (d t : Nat) : List Nat :=
    let sy := digits.getD d ([], [])
    if sy.1.contains t then src.getD t [] else c.ntt t (c.convSum sy.1 sy.2 (c.q t))
  let accOf (comp : List Nat × List Nat → List Nat) : List (Nat × List Nat) :=
    ((List.range targets.length).zip targets).map fun kt =>
      let q := c.q kt.2
      (kt.2, c.intt kt.2 ((List.range dd).foldl
        (fun acc d => addRow q acc (mulRow q (ext d kt.2) (comp (fills.getD (kt.1 * dd + d) ([], [])))))
        (List.replicate c.n 0)))
  let rowOf (acc : List (Nat × List Nat)) (e : Nat) : List Nat := ((acc.find? fun p => p.1 == e).map Prod.snd).getD []
  let finish (comp : List Nat × List Nat → List Nat) (lamM lamR : Nat) : List (List Nat) :=
    let acc := accOf comp
    let down := c.moddn r lamM nsp ((List.range (lhi + 1)).map (rowOf acc)) ((List.range nsp).map fun k => rowOf acc (64 + k))
    let out := if rs then c.rescale r lamR lhi down else down
    ((List.range out.length).zip out).map fun ia => c.ntt ia.1 ia.2
  [finish Prod.fst 64 lhi, finish Prod.snd 192 (lhi + 128)]

/-! ## Gadget digits (R181) -/

/-- The signed digits of xb, least significant first: `l` of them in base 2^beta. -/
def digitsOf (beta xb : Nat) : Nat → Nat → Nat → List Int
  | 0, _, _ => []
  | l + 1, d, carry =>
    let u := fld xb (beta * d) beta + carry
    if 2 ^ (beta - 1) ≤ u then ((u : Int) - (2 ^ beta : Nat)) :: digitsOf beta xb l (d + 1) 1
    else (u : Int) :: digitsOf beta xb l (d + 1) 0

/-- dig[0] to dig[l - 1] of R181 for a residue x, with the cut rounded by `mode` and draw r. -/
def gadget (mode q l beta x r : Nat) : List Int :=
  (digitsOf beta (roundCut mode (x * 2 ^ (l * beta)) q r % 2 ^ (l * beta)) l 0 0).reverse

/-- A signed integer as a residue. -/
def resOf (q : Nat) (v : Int) : Nat := (v % (q : Int)).toNat

/-- Multiplication by X^k in the ring (R187). -/
def mulX (q logn k : Nat) (a : List Nat) : List Nat :=
  let n := 2 ^ logn
  let k := k % (2 * n)
  (List.range n).map fun i =>
    let s := (i + 2 * n - k) % (2 * n)
    if s < n then a.getD s 0 else (q - a.getD (s - n) 0) % q

/-- The external product of R186: k + 1 polynomials in coefficient order; the rows of each block's fill are those of R184,
row d of polynomial p at index d (k + 1) + p. -/
def Chain.extp (c : Chain) (l beta k : Nat) (src : List (List Nat)) (fills : List (List (List Nat))) : List (List Nat) :=
  let q := c.q 0
  let digs := src.map fun poly => poly.map (fun x => gadget 0 q l beta x 0)
  (List.range (k + 1)).map fun p =>
    let acc := ((List.range (k + 1)).zip digs).foldl
      (fun acc fd => (List.range l).foldl
        (fun acc d =>
          let dig := fd.2.map fun ds => resOf q (ds.getD d 0)
          addRow q acc (mulRow q (c.ntt 0 dig) ((fills.getD fd.1 []).getD (d * (k + 1) + p) [])))
        acc)
      (List.replicate c.n 0)
    c.intt 0 acc

/-- The packing of R190: records (b, a) to k + 1 polynomials in coefficient order. -/
def Chain.kpack (c : Chain) (l beta k ldim : Nat) (recs : List (List Nat)) (fills : List (List (List Nat))) : List (List Nat) :=
  let q := c.q 0
  let pad (r : List Nat) : List Nat := r ++ List.replicate (c.n - r.length) 0
  (List.range (k + 1)).map fun p =>
    let acc := (List.range ldim).foldl
      (fun acc m => (List.range l).foldl
        (fun acc d =>
          let dig := pad (recs.map fun r => resOf q ((gadget 0 q l beta (r.getD (1 + m) 0) 0).getD d 0))
          addRow q acc (mulRow q (c.ntt 0 dig) ((fills.getD m []).getD (d * (k + 1) + p) [])))
        acc)
      (List.replicate c.n 0)
    let out := c.intt 0 acc
    if p = 0 then addRow q out (pad (recs.map fun r => r.getD 0 0)) else out

/-- The record of R189: the body, then the mask elements of coefficient `coef` of k + 1 polynomials. -/
def sxtrOf (q logn coef : Nat) (polys : List (List Nat)) : List Nat :=
  let n := 2 ^ logn
  (polys.getD 0 []).getD coef 0 ::
    ((polys.drop 1).map fun p => (List.range n).map fun m =>
      if m ≤ coef then p.getD (coef - m) 0 else (q - p.getD (n + coef - m) 0) % q).flatten

/-! ## Noise (R171, R172, R194) -/

/-- F16(x): the largest k with 2^k at most x^16 (R171). -/
def f16 (x : Nat) : Nat := Nat.log2 (x ^ 16)

/-- L16(x): the smallest k with x^16 at most 2^k (R171). -/
def l16 (x : Nat) : Nat := if 2 ^ Nat.log2 (x ^ 16) = x ^ 16 then Nat.log2 (x ^ 16) else Nat.log2 (x ^ 16) + 1

end Sys2Proof.Machine
end

