-- ==== Sys2Proof/Machine/Operands.lean ====
section
/-! DEFINITION. The operand forms: instruction fields, stream instruction fields, chains, tiles and their elements, argument
slots, handles, descriptors. -/

namespace Sys2Proof.Machine

open Sys2Proof

/-! ## Engine instruction fields (R119, R120) -/

/-- The fields of an instruction word (R119). -/
structure Ins where
  opc : Nat
  wait0 : Nat
  wait1 : Nat
  emit : Nat
  pp : Bool
  idx : Nat
  dst : Nat
  srca : Nat
  srcb : Nat
  srcc : Nat
  chain : Nat
  basis : Bool
  llo : Nat
  lhi : Nat
  rnd : Nat
  reuse : Nat
  imm : Nat

/-- The fields of a word (R119). -/
def insOf (w : BitVec 128) : Ins :=
  let v := w.toNat
  { opc := fld v 120 8, wait0 := fld v 116 4, wait1 := fld v 112 4, emit := fld v 108 4, pp := bit v 107,
    idx := fld v 104 3, dst := fld v 99 5, srca := fld v 94 5, srcb := fld v 89 5, srcc := fld v 84 5,
    chain := fld v 79 5, basis := bit v 78, llo := fld v 72 6, lhi := fld v 66 6, rnd := fld v 62 4,
    reuse := fld v 60 2, imm := fld v 0 60 }

/-- A field of the immediate (R119). -/
def Ins.im (i : Ins) (lo n : Nat) : Nat := fld i.imm lo n

/-- The used-field columns of R125 for an opcode: DST, SRCA, SRCB, SRCC, limbs, RND; none for an undefined opcode. -/
def opUse (opc : Nat) : Option (Bool × Bool × Bool × Bool × Bool × Bool) :=
  match opc with
  | 0x01 | 0x02 | 0x40 | 0x41 | 0x42 | 0x48 | 0x49 | 0x4A => some (false, false, false, false, false, false)
  | 0x08 | 0x0B => some (true, false, false, false, false, false)
  | 0x09 => some (true, false, false, false, true, false)
  | 0x0A => some (false, true, false, false, true, false)
  | 0x10 | 0x11 | 0x12 => some (true, true, true, false, true, false)
  | 0x13 => some (true, true, true, true, true, false)
  | 0x14 | 0x20 | 0x21 | 0x22 | 0x28 | 0x29 | 0x3B => some (true, true, false, false, true, false)
  | 0x2A | 0x2B | 0x38 | 0x3D => some (true, true, false, false, true, true)
  | 0x30 => some (true, true, true, true, true, true)
  | 0x39 | 0x3A | 0x3C => some (true, true, true, false, true, false)
  | _ => none

/-- The immediate has a nonzero reserved bit or a reserved value (R120; R126 to R156). `split` says that the chain named is
a valid split chain (the bounds of R148). -/
def Ins.immBad (i : Ins) (split : Bool) : Bool :=
  let low (n : Nat) : Bool := i.im 0 n != 0
  let l := i.im 56 4
  let beta := i.im 51 5
  let gadgetBad : Bool := l == 0 || beta == 0 || decide (16 < beta) || decide ((if split then 30 else 60) < l * beta)
  match i.opc with
  | 0x01 | 0x02 | 0x4A | 0x0B => i.imm != 0
  | 0x08 => low 27 || i.im 43 2 == 3
  | 0x09 => low 48
  | 0x0A => low 39 || (i.im 47 1 == 0 && i.im 39 8 != 0)
  | 0x10 | 0x11 | 0x12 | 0x13 | 0x20 | 0x21 => low 59
  | 0x14 => i.imm != 0
  | 0x22 => low 40
  | 0x28 => low 46
  | 0x29 => low 50
  | 0x2A => low 56
  | 0x2B => if i.im 59 1 == 0 then low 59 else low 28 || (i.im 36 1 == 0 && i.im 28 8 != 0)
  | 0x38 => low 51 || gadgetBad
  | 0x39 => low 46 || gadgetBad || i.im 48 3 == 0
  | 0x3A => low 31 || gadgetBad || i.im 48 3 == 0
  | 0x3B => low 40 || i.im 40 3 == 0
  | 0x3C => low 21 || gadgetBad || i.im 48 3 == 0
  | 0x3D => low 55
  | 0x40 => i.im 32 24 != 0 || decide (12 ≤ i.im 56 4)
  | 0x41 => i.im 16 41 != 0
  | 0x42 => i.im 12 41 != 0
  | 0x48 => low 52 || i.im 56 4 == 14
  | 0x49 => i.im 16 44 != 0
  | _ => false

/-- An instruction is malformed (R120). -/
def Ins.malformed (i : Ins) (split : Bool) : Bool :=
  match opUse i.opc with
  | none => true
  | some (d, a, b, c, limbs, rnd) =>
    (!d && i.dst != 0) || (!a && i.srca != 0) || (!b && i.srcb != 0) || (!c && i.srcc != 0) ||
      (!limbs && (i.chain != 0 || i.basis || i.llo != 0 || i.lhi != 0 || i.idx != 0)) ||
      (if rnd then decide (2 < i.rnd) else i.rnd != 0) || (!(b || c) && i.reuse != 0) || i.immBad split

/-- A queue field breaks R97. -/
def Ins.badQueue (i : Ins) : Bool :=
  i.wait0 == 14 || i.wait1 == 14 || (decide (8 ≤ i.emit) && decide (i.emit ≤ 13))

/-- The queues that an instruction removes a token from, in order (R91, R156; log entry 15). -/
def Ins.waits (i : Ins) : List Nat :=
  (if i.wait0 = 15 then [] else [i.wait0]) ++ (if i.wait1 = 15 then [] else [i.wait1]) ++
    (if i.opc = 0x48 then [i.im 56 4] else [])

/-- The immediate's MOP bit (R141, R142). -/
def Ins.mop (i : Ins) : Bool := if i.opc = 0x30 then i.im 27 1 == 1 else if i.opc = 0x2B then i.im 59 1 == 1 else false

/-- The instruction holds a transfer entry (R131). -/
def Ins.holdsEntry (i : Ins) : Bool := i.opc == 0x09 || i.opc == 0x0A || i.mop

/-! ## Chains -/

/-- A chain's VALID bit (R36). -/
def State.chainOk (s : State) (n : Nat) : Bool := s.dev.chainValid.getLsbD n

/-- The engines' copy of a chain table (R37). -/
def State.chainOf (s : State) (n : Nat) : Chain := tget s.dev.chains n {}

/-- The chain entry of limb i of a basis (R121). -/
def entryOf (basis : Bool) (i : Nat) : Nat := if basis then 64 + i else i

/-! ## Tiles (R64-R70) -/

def Engine.tile (x : Engine) (t : Nat) : Tile := tget x.tiles t {}
def Engine.setTile (x : Engine) (t : Nat) (v : Tile) : Engine := { x with tiles := tset x.tiles t v }

/-- Tiles of a span (R64 SPAN). -/
def Tile.len (t : Tile) : Nat := if t.span = 1 then 2 else if t.span = 2 then 4 else 1

/-- Bytes of one tile (R65). -/
def Tile.size (t : Tile) : Nat := t.rows * t.rowb * 64

/-- Logical rows of a tile or span (R66). -/
def Tile.lrows (t : Tile) : Nat := t.len * t.rows

/-- Row width in bytes (R67). -/
def Tile.width (t : Tile) : Nat := t.rowb * 64

/-- The head of the span that a tile is a member of, or the tile itself (R66). -/
def Engine.head (x : Engine) (t : Nat) : Nat :=
  if (x.tile t).member then
    if (x.tile (t / 2 * 2)).span = 1 ∧ !(x.tile (t / 2 * 2)).member then t / 2 * 2 else t / 4 * 4
  else t

/-- The tiles of the span at a head (R66). -/
def Engine.members (x : Engine) (t : Nat) : List Nat := (List.range (x.tile t).len).map (t + ·)

/-- A tile that an instruction may name: configured and no member (R83). -/
def Engine.named (x : Engine) (t : Nat) : Bool := (x.tile t).cfg && !(x.tile t).member

/-- Rows of a limb in a tile (R67), when the row width divides it. -/
def rpl (c : Chain) (width : Nat) : Option Nat :=
  if width = 0 then none else if c.n * c.esz % width = 0 ∧ width ≤ c.n * c.esz then some (c.n * c.esz / width) else none

/-- A tile meets R67 for `limbs` limbs of a chain. -/
def Engine.holds (x : Engine) (c : Chain) (t limbs : Nat) : Bool :=
  match rpl c (x.tile t).width with
  | some r => decide (limbs * r ≤ (x.tile t).lrows)
  | none => false

/-- `cnt` elements of `sz` bytes from element `off` of a tile or span (R67: its rows are consecutive). -/
def Engine.elems (x : Engine) (t sz off cnt : Nat) : List Nat :=
  let b := (x.tile t).base * 64 + off * sz
  let bs := memRun x.tf 0 b (cnt * sz)
  (List.range cnt).map fun i => ofLe ((bs.drop (i * sz)).take sz)

/-- The tiles of a span whose rows a byte range of it touches. -/
def Engine.touched (x : Engine) (t off n : Nat) : List Nat :=
  let sz := (x.tile t).size
  ((List.range (x.tile t).len).filter fun m => decide (off < (m + 1) * sz) && decide (m * sz < off + n)).map (t + ·)

/-- Rows of a tile are written: in-use flag and write generation (R63, R68). -/
def Engine.mark (x : Engine) (ts : List Nat) (inUse : Bool) : Engine :=
  ts.foldl (fun y t => y.setTile t { y.tile t with inUse := (inUse && !(y.tile t).key), gen := (y.tile t).gen + 1 }) x

/-- Elements of `sz` bytes written from element `off` of a tile or span (R31, R67, R68). -/
def Engine.putElems (x : Engine) (t sz off : Nat) (vs : List Nat) : Engine :=
  let bs := (vs.map (leBytes sz)).flatten
  if bs.isEmpty then x
  else ({ x with tf := memPut x.tf 0 ((x.tile t).base * 64 + off * sz) bs }).mark (x.touched t (off * sz) bs.length) true

/-- Zero rows of a tile or span without clearing its flags (R141). -/
def Engine.zeroElems (x : Engine) (t sz off cnt : Nat) : Engine :=
  ({ x with tf := memClear x.tf ((x.tile t).base * 64 + off * sz) (cnt * sz) }).mark (x.touched t (off * sz) (cnt * sz)) true

/-- Drop latches that tag a tile of the list (R63). -/
def Engine.unlatch (x : Engine) (ts : List Nat) : Engine :=
  let keep (l : Option LatchTag) : Option LatchTag :=
    match l with
    | some g => if ts.contains g.tile then none else some g
    | none => none
  { x with latch0 := keep x.latch0, latch1 := keep x.latch1 }

/-- Fill a tile or span with zeros, clear its in-use flags (R68, R79). -/
def Engine.zeroTile (x : Engine) (t : Nat) : Engine :=
  let v := x.tile t
  ({ x with tf := memClear x.tf (v.base * 64) (v.len * v.size) }).mark (x.members t) false

/-- Limb `k` (counted from the tile's first) of a chain in a tile. -/
def Engine.limb (x : Engine) (c : Chain) (t k : Nat) : List Nat := x.elems t c.esz (k * c.n) c.n

/-- The key state of the tiles of a span (R70); fill tag and contents with it. -/
def Engine.setKey (x : Engine) (t : Nat) (k : KeyState) (tag : Word64) : Engine :=
  (x.members t).foldl (fun y m => y.setTile m { y.tile m with kst := k, tag := tag, fill := if k = .empty then none else (y.tile m).fill }) x

/-- What a fill into a key tile keeps beside its tag (R72, R75): the KFILL's word and the argument-slot word of the header. -/
def Engine.setFill (x : Engine) (t : Nat) (w : Nat) (l : Word64) : Engine :=
  (x.members t).foldl (fun y m => y.setTile m { y.tile m with fill := some (w, l) }) x

/-- Release a key tile as TREL does (R133, R143). -/
def Engine.releaseKey (x : Engine) (t : Nat) : Engine :=
  ((x.setKey t .empty 0).mark (x.members t) false).unlatch (x.members t)

/-! ### Tile configuration (R65, R66, R80) -/

/-- A configuration of a tile, as TCFG and TILE_CFGn give it. -/
structure TileCfg where
  base : Nat
  span : Nat
  key : Bool
  rows : Nat
  rowb : Nat

def TileCfg.len (v : TileCfg) : Nat := if v.span = 1 then 2 else if v.span = 2 then 4 else 1
def TileCfg.size (v : TileCfg) : Nat := v.rows * v.rowb * 64

/-- The byte ranges [lo, hi) of two runs overlap. -/
def overlap (lo hi lo' hi' : Nat) : Bool := decide (lo < hi') && decide (lo' < hi)

/-- The tiles that a configuration of tile n replaces: its span now, and the span it forms (R66). -/
def Engine.replaced (x : Engine) (n : Nat) (v : TileCfg) : List Nat :=
  (List.range (max (if (x.tile n).cfg then (x.tile n).len else 1) (if v.rows = 0 then 1 else v.len))).map (n + ·)

/-- R65 and R66 for a configuration of tile n: no member is named, and ROWS = 0 unconfigures. Every configured tile outside the new span
counts in the overlap test, a member of the span that the configuration dissolves too (R80 checks before it applies). -/
def Engine.cfgOk (x : Engine) (n : Nat) (v : TileCfg) : Bool :=
  if (x.tile n).member then false
  else if v.rows = 0 then decide (v.span < 3)
  else
    let k := v.len
    let s := v.size
    let lo := v.base * 64
    decide (v.span < 3) && decide (v.rows ≤ 64) && decide (1 ≤ v.rowb) && decide (v.rowb ≤ 128) && decide (s ≤ 262144) &&
      decide (lo + k * s ≤ 0x200000) && n % k == 0 &&
      (List.range 32).all (fun t =>
        let y := x.tile t
        !y.cfg || (decide (n ≤ t) && decide (t < n + k)) || !overlap lo (lo + k * s) (y.base * 64) (y.base * 64 + y.size))

/-- Apply a configuration that meets R65: members, zero fill, latches (R66, R80). ROWS = 0 fills the former size (R126). -/
def Engine.cfgApply (x : Engine) (n : Nat) (v : TileCfg) : Engine :=
  let old := x.replaced n v
  let was := x.tile n
  let gone := old.foldl (fun y t => y.setTile t { gen := (y.tile t).gen + 1 }) (x.unlatch old)
  if v.rows = 0 then { gone with tf := memClear gone.tf (was.base * 64) (was.len * was.size) }
  else
    let put (y : Engine) (m : Nat) : Engine :=
      y.setTile (n + m) { cfg := true, base := v.base + m * v.size / 64, span := if m = 0 then v.span else 0, member := m != 0,
                          key := v.key, rows := v.rows, rowb := v.rowb, gen := (y.tile (n + m)).gen }
    let y := (List.range v.len).foldl put gone
    { y with tf := memClear y.tf (v.base * 64) (v.len * v.size) }

/-! ## Free values in tiles -/

/-- Elements, each free where the element of the sources beside it is at or above its modulus (R31). -/
def State.orFree (s : State) (off : Nat) (bad : List Bool) (vs : List Nat) : List Nat :=
  ((List.range vs.length).zip (bad.zip vs)).map fun p => if p.2.1 then s.free (off + p.1) else p.2.2

/-- n free elements. -/
def State.freeList (s : State) (off n : Nat) : List Nat := (List.range n).map fun i => s.free (off + i)

/-! ## Argument slots and handles (R127, R273, R276) -/

/-- Where an argument slot points. -/
inductive Loc where
  | va (a : Nat)
  | sp (h off : Nat)
  deriving DecidableEq, Repr

/-- A location `d` bytes further on. -/
def Loc.plus : Loc → Nat → Loc
  | .va a, d => .va (a + d)
  | .sp h o, d => .sp h (o + d)

/-- A location's address, for alignment and for records: a virtual address or a buffer offset. -/
def Loc.addr : Loc → Nat
  | .va a => a
  | .sp _ o => o

/-- The word of an argument slot that names this location (R127). -/
def Loc.word : Loc → Word64
  | .va a => BitVec.ofNat 64 a
  | .sp h o => BitVec.ofNat 64 (1 <<< 63 ||| h <<< 56 ||| o)

/-- The location that an argument slot's word names; none with a nonzero reserved bit (R127). -/
def locOf (w : Nat) : Option Loc :=
  if fld w 62 1 ≠ 0 ∨ fld w 48 8 ≠ 0 then none
  else if bit w 63 then (if fld w 23 25 ≠ 0 then none else some (.sp (fld w 56 6) (fld w 0 23)))
  else if fld w 56 6 ≠ 0 then none
  else some (.va (fld w 0 48))

/-- A run of handle h of engine e as a DPA, when R276 allows it. -/
def State.handleDpa (s : State) (e h off n : Nat) : Option Nat :=
  let v := (tget (s.gal (e / 4)).ht (64 * (e % 4) + h) 0).toNat
  if bit v 63 ∧ fld v 52 10 = (s.eng e).tenant ∧ off + n ≤ fld v 0 12 * 4096 then
    some (spDpa e (fld v 16 11 * 4096 + off))
  else none

/-- Read n bytes at a location of engine e (R127, R276, R279): the bytes before the first failure. -/
def State.locRead (s : State) (e : Nat) (l : Loc) (hint n : Nat) : State × Bytes × RunFail :=
  match l with
  | .va a => s.vRead (some (e / 4)) (s.eng e).tenant hint a n
  | .sp h off =>
    match s.handleDpa e h off n with
    | some d =>
      match s.devRead hint d n with
      | (s, .ok b) => (s, b, none)
      | (s, .error c) => (s, [], some (off, c))
    | none => (s, [], some (off, .shape))

/-- The run of a command has written n bytes of memory at a target (R427). -/
def State.noteOut (s : State) (e : Nat) (t : Target) (n : Nat) : State :=
  match (s.eng e).slot with
  | some k => if n = 0 then s else { s with outs := tset s.outs k ((t, n) :: tget s.outs k []) }
  | none => s

/-- Engine e writes elements of `unit` bytes of its tenant's virtual space. -/
def State.vaWrite (s : State) (e hint a unit : Nat) (bs : Bytes) : State × RunFail :=
  match s.vWrite (some (e / 4)) (s.eng e).tenant hint a unit bs with
  | (s, none) => (s.noteOut e (.va a) bs.length, none)
  | (s, some (x, c)) => (s.noteOut e (.va a) ((x - a) / unit * unit), some (x, c))

/-- Engine e writes memory at a DPA; a failure is reported at the offset given. -/
def State.dpaWrite (s : State) (e hint d off : Nat) (bs : Bytes) : State × RunFail :=
  match s.devWrite hint d bs with
  | (s, none) => (s.noteOut e (.dpa d) bs.length, none)
  | (s, some c) => (s, some (off, c))

/-- Write a run of elements of `unit` bytes at a location of engine e. -/
def State.locWrite (s : State) (e : Nat) (l : Loc) (hint unit : Nat) (bs : Bytes) : State × RunFail :=
  match l with
  | .va a => s.vaWrite e hint a unit bs
  | .sp h off =>
    match s.handleDpa e h off bs.length with
    | some d => s.dpaWrite e hint d off bs
    | none => (s, some (off, .shape))

/-- A target d bytes further on. -/
def Target.plus : Target → Nat → Target
  | .tf b, d => .tf (b + d)
  | .dpa b, d => .dpa (b + d)
  | .va a, d => .va (a + d)
  | .rwin dev w o, d => .rwin dev w (o + d)

/-- What a location is for the whole of a transfer: a buffer lies where its handle puts it at the start (R276). -/
def State.locTarget (s : State) (e : Nat) : Loc → Target
  | .va a => .va a
  | .sp h off => .dpa (spDpa e (fld (tget (s.gal (e / 4)).ht (64 * (e % 4) + h) 0).toNat 16 11 * 4096 + off))

/-- Read n bytes of memory at a target: the bytes before the first failure. -/
def State.atRead (s : State) (e : Nat) (t : Target) (hint n : Nat) : State × Bytes × RunFail :=
  match t with
  | .va a => s.vRead (some (e / 4)) (s.eng e).tenant hint a n
  | .dpa d =>
    match s.devRead hint d n with
    | (s, .ok b) => (s, b, none)
    | (s, .error c) => (s, [], some (d, c))
  | _ => (s, [], some (0, .shape))

/-- Write a run of elements of `unit` bytes of memory at a target. -/
def State.atWrite (s : State) (e : Nat) (t : Target) (hint unit : Nat) (bs : Bytes) : State × RunFail :=
  match t with
  | .va a => s.vaWrite e hint a unit bs
  | .dpa d => s.dpaWrite e hint d d bs
  | _ => (s, some (0, .shape))

/-- Argument slot a of engine e (R127, R509). -/
def State.argSlot (s : State) (e a : Nat) : State × Except Code Loc :=
  match s.vRead (some (e / 4)) (s.eng e).tenant 0 ((s.eng e).argBase.toNat + 8 * a) 8 with
  | (s, b, none) =>
    match locOf (ofLe b) with
    | some l => (s, .ok l)
    | none => (s, .error .badCommand)
  | (s, _, some (_, c)) => (s, .error c)

/-! ## Descriptors (R47-R52, R102, R103) -/

def Desc.w (d : Desc) (k : Nat) : Nat := d.getD k 0
def Desc.dver (d : Desc) : Nat := fld (d.w 0) 56 8
def Desc.scheme (d : Desc) : Nat := fld (d.w 0) 52 4
def Desc.wfmt (d : Desc) : Nat := fld (d.w 0) 48 4
def Desc.layoutC (d : Desc) : Bool := bit (d.w 0) 47
def Desc.polys (d : Desc) : Nat := fld (d.w 0) 40 4
def Desc.logn (d : Desc) : Nat := fld (d.w 0) 35 5
def Desc.chain (d : Desc) : Nat := fld (d.w 0) 30 5
def Desc.level (d : Desc) : Nat := fld (d.w 0) 24 6
def Desc.tenant (d : Desc) : Nat := fld (d.w 0) 14 10
def Desc.mont (d : Desc) : Bool := bit (d.w 0) 3
def Desc.ntt (d : Desc) : Bool := bit (d.w 0) 2
def Desc.poisoned (d : Desc) : Bool := bit (d.w 0) 1
def Desc.spent (d : Desc) : Bool := bit (d.w 0) 0
def Desc.scale (d : Desc) : Nat := fld (d.w 1) 32 32
def Desc.noise (d : Desc) : Nat := fld (d.w 1) 16 16
def Desc.lweDim (d : Desc) : Nat := fld (d.w 1) 0 16
def Desc.ptmod (d : Desc) : Nat := d.w 3
def Desc.off (d : Desc) (p : Nat) : Nat := d.w (5 + p)

/-- Bytes of a stored element (R40). -/
def fmtBytes (wfmt : Nat) : Nat := if wfmt = 0 then 8 else if wfmt = 1 then 6 else 4

/-- Elements of a polynomial (R48). -/
def Desc.elts (d : Desc) : Nat := if d.scheme = 4 then d.lweDim + 1 else (d.level + 1) * 2 ^ d.logn

/-- Bytes of a polynomial (R48). -/
def Desc.polySize (d : Desc) : Nat := d.elts * fmtBytes d.wfmt

/-- The shape conditions of R49 (step 6 of R103), with R43, R47, R48 and R56. -/
def Desc.shapeOk (d : Desc) (valid : Bool) (c : Chain) : Bool :=
  let sch := d.scheme
  let ring := sch != 4
  let wide := decide (sch ≤ 3)
  valid &&
    (if wide then decide (2 ≤ d.polys) && decide (d.polys ≤ 3) else if ring then decide (2 ≤ d.polys) && decide (d.polys ≤ 8) else d.polys == 1) &&
    (if ring then d.logn == c.logn && decide (d.level < c.l)
     else d.logn == 0 && d.level == 0 && decide (256 ≤ d.lweDim) && decide (d.lweDim ≤ 4096) && c.l == 1 && c.k == 0 && !d.layoutC) &&
    (ring || d.scale == 0) && (sch == 1 || d.scale == 0) && (sch != 1 || d.noise == 0) && (!ring || d.lweDim == 0) &&
    (if sch == 2 || sch == 3 then decide (2 ≤ d.ptmod) && decide (d.ptmod < 2 ^ 60) else d.ptmod == 0) &&
    (if wide then !c.split && decide (d.wfmt ≤ 1) else c.split && d.wfmt == 2) &&
    (d.wfmt != 1 || (!d.layoutC && (List.range (d.level + 1)).all fun i => decide (c.q i < 2 ^ 48))) &&
    d.w 4 == d.polys * d.polySize &&
    (List.range 8).all (fun p =>
      if p < d.polys then d.off p % 128 == 0 && decide (128 ≤ d.off p) else d.off p == 0) &&
    (List.range d.polys).all (fun p => (List.range p).all fun r =>
      !overlap (d.off p) (d.off p + d.polySize) (d.off r) (d.off r + d.polySize))

/-- The checks of R49 on a descriptor read at an aligned address, in the order of R103; a prepared output skips the test of
POISONED and SPENT and may have DVER 0. -/
def State.checkDesc (s : State) (tenant : Nat) (d : Desc) (source : Bool) : Option Code :=
  if fld (d.w 0) 44 3 ≠ 0 ∨ fld (d.w 0) 4 10 ≠ 0 ∨ d.w 14 ≠ 0 ∨ d.w 15 ≠ 0 then some .badCommand
  else if d.dver ≠ 1 ∧ (source ∨ d.dver ≠ 0) then some .badCommand
  else if d.tenant ≠ tenant then some .tenantMismatch
  else if source ∧ (d.poisoned ∨ d.spent) then some .poisonedInput
  else if d.scheme = 0 ∨ 5 < d.scheme ∨ 2 < d.wfmt then some .badCommand
  else if d.shapeOk (s.chainOk d.chain) (s.chainOf d.chain) then none
  else some .shape

/-- Stored elements of a run of bytes (R40). -/
def eltsOf (w : Nat) : Nat → Bytes → List Nat
  | 0, _ => []
  | k + 1, b => ofLe (b.take w) :: eltsOf w k (b.drop w)

/-- A read descriptor and the location of its first byte, or the code that ends the reading (R49, R103, R127, R509). -/
def State.readDesc (s : State) (e slot : Nat) (source : Bool) : State × Except (Code × Option Loc) (Loc × Desc) :=
  match s.argSlot e slot with
  | (s, .error c) => (s, .error (c, none))
  | (s, .ok l) =>
    if l.addr % 128 ≠ 0 then (s, .error (.shape, some l))
    else
      match s.locRead e l 0 128 with
      | (s, _, some (_, c)) => (s, .error (c, some l))
      | (s, b, none) =>
        let d : Desc := eltsOf 8 16 b
        match s.checkDesc (s.eng e).tenant d source with
        | some c => (s, .error (c, some l))
        | none => (s, .ok (l, d))

/-- Write a descriptor: W1 to W15, then W0, whose POISONED and SPENT never clear (R51). -/
def State.descAt (s : State) (e : Nat) (t : Target) (d : Desc) : State × RunFail :=
  match s.atWrite e (t.plus 8) 0 8 (((d.drop 1).map (leBytes 8)).flatten) with
  | (s, some f) => (s, some f)
  | (s, none) =>
    match s.atRead e t 0 8 with
    | (s, _, some f) => (s, some f)
    | (s, b, none) => s.atWrite e t 0 8 (leBytes 8 (d.w 0 ||| fld (ofLe b) 0 2))

/-- Write a descriptor at a location (R51). -/
def State.writeDesc (s : State) (e : Nat) (l : Loc) (d : Desc) : State × RunFail :=
  match l with
  | .va a => s.descAt e (.va a) d
  | .sp h off =>
    match s.handleDpa e h off 128 with
    | some a => s.descAt e (.dpa a) d
    | none => (s, some (off, .shape))

/-- The sequence number of the command that an engine runs; zero without one (R52; log entry 17). -/
def State.cmdSeq (s : State) (e : Nat) : Nat :=
  match (s.eng e).slot with
  | some n => fld (s.slotJ n).entry.toNat 64 64
  | none => 0

/-- The poisoned descriptor of R102. -/
def poisonedWords (tenant seq : Nat) : Desc :=
  (1 <<< 56 ||| tenant <<< 14 ||| 2) :: (List.replicate 12 0 ++ [seq, 0, 0])

/-- The write of a descriptor at a location would fail (R50, R102): it cannot be reached, or the codeword of W0 and of W1 to W7, which no
one write covers, is uncorrectable (R292). -/
def State.descBad (s : State) (e : Nat) (l : Loc) : Bool :=
  match l with
  | .va a =>
    match s.xlateAll (some (e / 4)) (s.eng e).tenant a 128 true with
    | (t, runs, none) => runs.any fun r => t.ueIn r.2.1 64
    | (_, _, some _) => true
  | .sp h off => (s.handleDpa e h off 128).isNone

/-- Write the poisoned descriptor of R102 at a location; nothing where it is misaligned or the write would fail. The answer names the
location written. -/
def State.poisonAt (s : State) (e : Nat) (l : Loc) : State × Option Word64 :=
  if l.addr % 128 ≠ 0 ∨ s.descBad e l then (s, none)
  else
    match s.writeDesc e l (poisonedWords (s.eng e).tenant (s.cmdSeq e)) with
    | (s, none) => (s, some l.word)
    | (s, some _) => (s, none)

/-- Write the poisoned descriptor at the output that an argument slot names (R102). -/
def State.poisonOut (s : State) (e slot : Nat) : State × Option Word64 :=
  match s.argSlot e slot with
  | (s, .ok l) => s.poisonAt e l
  | (s, .error _) => (s, none)

/-- Bytes of stored elements (R40). -/
def eltBytes (w : Nat) (vs : List Nat) : Bytes := (vs.map (leBytes w)).flatten

/-- The noise budget of R172 and R194 against a prepared descriptor: true when TST must refuse. -/
def Desc.noiseRefused (d : Desc) (c : Chain) : Bool :=
  let b : Int := ((List.range (d.level + 1)).foldl (fun acc i => acc + f16 (c.q i)) 0 : Nat)
  match d.scheme with
  | 2 => decide (b - (l16 d.ptmod : Int) - 16 ≤ (d.noise : Int))
  | 3 => decide (b - 16 ≤ (d.noise : Int))
  | 4 | 5 => decide (b - 80 ≤ (d.noise : Int))
  | _ => false

/-! ## Stream instruction fields (R244-R260) -/

/-- The opcode of a stream instruction (R244). -/
def sopOf (w : Nat) : Nat := fld w 59 5

/-- The place that an SRC or DST word names; none for a reserved form (R245). -/
def placeOf (w : Nat) (dst : Bool) : Option Place :=
  match fld w 56 3 with
  | 0 => if fld w 32 19 = 0 then some (.tile (fld w 51 5) (fld w 0 32)) else none
  | 1 => if fld w 32 18 = 0 then some (.sp (fld w 50 6) (fld w 0 32)) else none
  | 2 => some (.mem (fld w 48 8) (fld w 0 48))
  | 3 => if fld w 19 36 = 0 then some (.hsp (fld w 55 1) (fld w 0 19)) else none
  | 4 => if dst then some (.rwin (fld w 44 12) (fld w 36 8) (fld w 0 36)) else none
  | _ => none

/-- A stream instruction word passes the decode of R244 (a second word of NFILL is not asked). -/
def sopOk (w : Nat) : Bool :=
  match sopOf w with
  | 0x01 => (placeOf w false).isSome
  | 0x02 => (placeOf w true).isSome
  | 0x03 => true
  | 0x04 =>
    let lo := fld w 28 28
    let hi := fld w 0 28
    fld w 56 3 == 0 && (decide (lo < hi) || (lo == 0 && hi == 0))
  | 0x05 => fld w 0 35 == 0
  | 0x06 => fld w 0 34 == 0 && fld w 39 2 != 3 && decide (fld w 34 3 < 6)
  | 0x07 => fld w 16 32 == 0 && decide (fld w 56 3 < 5) && fld w 54 2 != 3
  | 0x08 => if bit w 58 then fld w 0 22 == 0 else fld w 0 24 == 0
  | 0x09 => fld w 0 12 == 0
  | 0x0A =>
    match fld w 57 2 with
    | 0 | 1 => fld w 0 41 == 0
    | 2 => fld w 0 22 == 0
    | _ => false
  | _ => false

/-- The words of a slot decode under R244, an NFILL taking two words (R259). -/
def sopsOk : List Nat → Bool
  | [] => true
  | w :: r =>
    if sopOf w = 9 then
      match r with
      | [] => false
      | _ :: r' => sopOk w && sopsOk r'
    else sopOk w && sopsOk r

/-- The opcodes of a slot's instructions, the second word of an NFILL left out. -/
def sopsOf : List Nat → List Nat
  | [] => []
  | w :: r => if sopOf w = 9 then (match r with | [] => [9] | _ :: r' => 9 :: sopsOf r') else sopOf w :: sopsOf r

/-- NINSTR of a slot header (R239). -/
def hdrNinstr (h : Nat) : Nat := fld h 48 5

/-- A slot's 32 words pass the image check of R240, with the slot rules of R258, R259 and R260. -/
def slotWordsOk (ws : List Nat) : Bool :=
  let h := ws.getD 0 0
  if fld h 56 8 = 0 then ws.all fun w => w == 0
  else
    let n := hdrNinstr h
    let body := (ws.drop 1).take n
    let ops := sopsOf body
    fld h 56 8 == 1 && fld h 53 3 == 0 && decide (1 ≤ n) && decide (n ≤ 16) && decide (fld h 46 2 < 2) && fld h 0 45 == 0 &&
      (ws.drop (n + 1)).all (fun w => w == 0) && sopsOk body &&
      (!ops.contains 8 || n == 1) &&
      (!ops.contains 9 || ops.all fun o => o == 9) &&
      (!ops.contains 10 || (!ops.contains 6 && (body.all fun w => sopOf w != 7 || fld w 56 3 == 0)))

end Sys2Proof.Machine
end

