-- ==== Sys2Proof/Machine/Engine.lean ====
section
/-! DEFINITION. Issue and retirement of engine instructions (R91-R104, R123), the tile instructions without a transfer,
the scalar and ordering instructions. -/

namespace Sys2Proof.Machine

open Sys2Proof

/-! ## What the engine's streams hold -/

def Stream.slot (x : Stream) (n : Nat) : Slot := tget x.slots n {}
def Stream.setSlot (x : Stream) (n : Nat) (v : Slot) : Stream := { x with slots := tset x.slots n v }
def Stream.ent (x : Stream) (n : Nat) : Ent := tget x.ents n {}
def Stream.setEnt (x : Stream) (n : Nat) (v : Ent) : Stream := { x with ents := tset x.ents n v }

/-- The lowest free transfer entry (R131; the choice is the model's, log entry 14). -/
def Stream.freeEnt (x : Stream) : Option Nat := (List.range 4).find? fun n => (x.ent n).kind == .free

/-- Word k of a slot's image (R239). -/
def Slot.word (x : Slot) (k : Nat) : Nat := (x.words.getD k 0).toNat

/-- Element size of a MOVE (R248). -/
def mvEs (w : Nat) : Nat := if bit w 41 then 4 else 8
/-- Run length of a MOVE (R248). -/
def mvRun (w : Nat) : Nat := fld w 42 17 + 1

/-- The least and the greatest index that a nest with these strides and a run produces (R248). -/
def nestRange (lvls : List (Nat × Int)) (run : Nat) : Int × Int :=
  lvls.foldl (fun r l =>
    let top : Int := ((l.1 : Int) - 1) * l.2
    (r.1 + min 0 top, r.2 + max 0 top)) (0, (run : Int) - 1)

def Slot.srcLvls (x : Slot) : List (Nat × Int) := (List.range 4).map fun k => let l := tget x.lvls k {}; (l.count, l.ss)
def Slot.dstLvls (x : Slot) : List (Nat × Int) := (List.range 4).map fun k => let l := tget x.lvls k {}; (l.count, l.ds)

/-- The byte range [lo, hi), counted from its base, of one side of a MOVE. -/
def Slot.sideRange (x : Slot) (w : Nat) (source : Bool) : Int × Int :=
  let r := nestRange (if source then x.srcLvls else x.dstLvls) (mvRun w)
  let r := match (if source then x.clamp else none) with
    | some (lo, hi) => (min (max r.1 (lo : Int)) ((hi : Int) - 1), max (min r.2 ((hi : Int) - 1)) (lo : Int))
    | none => r
  (r.1 * mvEs w, (r.2 + 1) * mvEs w)

/-- The tile file bytes that a slot's MOVE in progress reads or writes, or its NFILL writes (R265). -/
def State.slotTf (s : State) (e n : Nat) : List (Int × Int) :=
  let x := (s.strm e).slot n
  if x.ent.isSome && sopOf (x.word (x.pc + 1)) == 6 then
    let side (p : Option Place) (source : Bool) : List (Int × Int) :=
      match p with
      | some (.tile t off) =>
        let b : Int := ((s.eng e).tile t).base * 64 + off
        let r := x.sideRange (x.word (x.pc + 1)) source
        [(b + r.1, b + r.2)]
      | _ => []
    side x.src true ++ side x.dst false
  else if x.ent.isSome && sopOf (x.word (x.pc + 1)) == 9 then
    let t := fld (x.word (x.pc + 1)) 54 5
    let b : Int := ((s.eng e).tile t).base * 64
    [(b, b + ((s.eng e).tile t).len * ((s.eng e).tile t).size)]
  else []

/-- A stream transfer or a key fill refers to one of the tiles (R80, R265). -/
def State.streamRef (s : State) (e : Nat) (ts : List Nat) : Bool :=
  let x := s.eng e
  ts.any fun t =>
    let v := x.tile t
    v.cfg && (v.kst == .filling || (List.range 4).any fun n => (s.slotTf e n).any fun r =>
      decide (r.1 < ((v.base * 64 + v.size : Nat) : Int)) && decide (((v.base * 64 : Nat) : Int) < r.2))

/-- Every stream transfer that the program started has delivered its tokens (R110, R113, R265): no slot is RUNNING, PARKED,
HALTED or DRAINING. A token that still lies in Q14 before an ARMED slot has started none (DESIGN CHOICE log entry 109). -/
def State.streamsQuiet (s : State) (e : Nat) : Bool :=
  (List.range 4).all fun n =>
    match ((s.strm e).slot n).st with
    | .running | .parked | .halted | .draining => false
    | _ => true

/-! ## Issue (R91, R93, R97, R101, R109, R120, R123) -/

/-- The word of the STOP that PC = NINSTR counts as (R113): no wait and no token. -/
def stopWord : BitVec 128 := BitVec.ofNat 128 (0x02 <<< 120 ||| 0xFFF <<< 108)

/-- The instruction at the program counter (R111, R113). -/
def Engine.fetch (x : Engine) : BitVec 128 := if x.pc < x.prog.length then x.prog.getD x.pc 0 else stopWord

/-- What an instruction's own part receives at issue: its word, its fields with the limb fields indexed (R109), its index
and sequence number, the poison that it removed and the value of the last token removed. -/
structure Iss where
  w : BitVec 128
  i : Ins
  pc : Nat
  seq : Nat
  poison : Bool
  value : Word16

/-- What an instruction's own part answers: a fault and what its record names (R87, R420), or its result. -/
structure Res where
  fault : Option Code := none
  tile : Option Nat := none
  detail1 : Nat := 0
  done : Bool := true
  result : Option Word64 := none
  mark : Option Word64 := none
  rescMark : Bool := false
  sslot : Option Word64 := none

/-- A fault without a tile. -/
def Res.bad (c : Code) : Res := { fault := some c }

/-- The span heads that an instruction reads and writes (R93, R142, R143). -/
def Engine.rw (x : Engine) (i : Ins) : List Nat × List Nat :=
  let h (t : Nat) : Nat := x.head t
  let ring (n : Nat) : List Nat := (List.range n).map fun m => h (i.srcb + m * (x.tile i.srcb).len)
  match i.opc with
  | 0x09 | 0x0B => ([], [h i.dst])
  | 0x0A => ([h i.srca], [])
  | 0x10 | 0x11 | 0x12 => ([h i.srca, h i.srcb], [h i.dst])
  | 0x13 => ([h i.srca, h i.srcb, h i.srcc], [h i.dst])
  | 0x14 | 0x20 | 0x21 | 0x22 | 0x28 | 0x29 | 0x2A | 0x38 | 0x3B | 0x3D => ([h i.srca], [h i.dst])
  | 0x2B => if i.mop then ([], [h i.srca, h i.dst]) else ([h i.srca], [h i.dst])
  | 0x30 => ([], [h i.srca, h i.dst, h i.srcc] ++ ring (i.im 50 2 + 1))
  | 0x39 | 0x3C => ([h i.srca], h i.dst :: ring (i.im 46 2 + 1))
  | 0x3A => ([h i.srca], h i.dst :: ring (i.im 46 2 + 1))
  | _ => ([], [])

/-- The engine may issue at all: RUNNING, ON, not halted, window not full, below STOP_CNT, and no instruction that holds
the issue stage (R80, R91, R92, R110, R113, R117, R125). -/
def State.canIssue (s : State) (e : Nat) : Bool :=
  let x := s.eng e
  let h := s.hdr (.engine e)
  x.st == .running && h.pstate == .on && !h.halt && !x.inReset && decide (x.window.length < 32) && x.ringOp.isNone &&
    (x.stopCnt == 0 || decide (x.issued < x.stopCnt)) &&
    x.window.all fun v =>
      let i := insOf v.word
      !(i.opc == 0x08 && v.fault.isNone && !v.skipped) && !((i.opc == 0x02 || i.opc == 0x4A) && !v.done) &&
        !(v.xfer.isSome && i.mop && !v.done)

/-- The tiles that an issued, unretired instruction names as a source or destination, whatever became of it (R80), a ring with them. -/
def WinEnt.names (v : WinEnt) : List Nat :=
  ((match opUse (insOf v.word).opc with
    | some (d, a, b, c, _, _) =>
      let i := insOf v.word
      [(d, i.dst), (a, i.srca), (b, i.srcb), (c, i.srcc)].filter Prod.fst |>.map Prod.snd
    | none => []) ++ v.reads ++ v.writes)

/-- The interlock of R93, and the further waits of a TCFG (R80) and of a TREL of an operand tile (R265). -/
def State.interlock (s : State) (e : Nat) (i : Ins) : Bool :=
  let x := s.eng e
  let rw := x.rw i
  let free := x.window.all fun v =>
    !(v.writes.any fun t => rw.1.contains t || rw.2.contains t) && !(v.reads.any fun t => rw.2.contains t)
  if i.opc = 0x08 then
    let ts := x.replaced i.dst { base := 0, span := i.im 43 2, key := false, rows := i.im 35 7, rowb := 0 }
    let named (l : List Nat) : Bool := l.any fun t => (t :: x.members t).any fun m => ts.contains m
    x.window.all (fun v => !named v.names) && !s.streamRef e ts
  else if i.opc = 0x0B ∧ !(x.tile i.dst).key then free && !s.streamRef e (x.members i.dst)
  else free

/-- How the tokens of an instruction stand: each queue holds as many as the instruction removes (R91, R156). -/
def Engine.tokensReady (x : Engine) (i : Ins) : Bool :=
  i.waits.all fun q => decide (i.waits.count q ≤ (x.queue q).length)

/-- Remove the tokens of an instruction: the engine, the poison removed and the value of the last token (R91, R101). -/
def Engine.takeTokens (x : Engine) (i : Ins) : Engine × Bool × Word16 :=
  i.waits.foldl (fun a q =>
    match a.1.queue q with
    | t :: _ => (a.1.pop q, a.2.1 || t.poison, t.value)
    | [] => a) (x, false, 0)

/-- The value that an instruction's token carries (R99): its sequence number, or a TEMIT's immediate, whatever becomes of it. -/
def Ins.tokenValue (i : Ins) (seq : Nat) : Word16 := BitVec.ofNat 16 (if i.opc = 0x49 then i.im 0 16 else seq)

/-- The chain that an instruction names (R38): an opcode with limb fields names one. -/
def Ins.named (i : Ins) : Option Nat :=
  match opUse i.opc with
  | some (_, _, _, _, true, _) => some i.chain
  | _ => none

/-- An issued instruction enters the window (R92, R100): its own part has run with this result. -/
def State.enter (s : State) (e : Nat) (x : Iss) (rw : List Nat × List Nat) (xfer : Option Nat) (r : Res) : State :=
  let v : WinEnt :=
    { seq := x.seq, word := x.w, pc := x.pc, llo := x.i.llo, lhi := x.i.lhi, value := x.i.tokenValue x.seq, poison := x.poison || r.fault.isSome,
      fault := r.fault, tile := r.tile, detail1 := BitVec.ofNat 64 r.detail1, done := r.done, reads := rw.1, writes := rw.2,
      chain := x.i.named, xfer := xfer, result := r.result, mark := r.mark, rescMark := r.rescMark, sslot := r.sslot }
  let y := s.eng e
  s.setEng e { y with window := y.window ++ [v] }

/-- The next instruction takes its sequence number and the program counter moves past it (R92, R111). -/
def Engine.take (x : Engine) : Engine := { x with issued := x.issued + 1, pc := x.pc + 1 }

/-- The argument slot that names the output ciphertext of an instruction (R129, R142, R147). -/
def Ins.outSlot (i : Ins) : Option Nat :=
  match i.opc with
  | 0x0A => some (i.im 52 8)
  | 0x30 => if i.mop then some (i.im 8 8) else none
  | 0x2B => if i.mop then some (i.im 40 8) else none
  | _ => none

/-- The word of the argument slot that a TST or RESC with DESC = 1 names as its first source (R130, R174). -/
def State.sslotWord (s : State) (e : Nat) (i : Ins) : Option Word64 :=
  if i.opc = 0x0A ∧ i.im 47 1 = 1 then
    match s.argSlot e (i.im 39 8) with
    | (_, .ok l) => some l.word
    | (_, .error _) => none
  else none

/-- The outcome of the stages before an instruction's own part (R123). -/
inductive Issued where
  | stay (s : State)
  | go (s : State) (x : Iss)

/-- Stages 1 to 3 of R123 for the instruction at the program counter, when `mine` takes its opcode: decode (R120, R97),
waiting (R91), tokens and poison (R101, R102). An instruction that must wait leaves the state as it is. -/
def State.issue (s : State) (e : Nat) (mine : Nat → Bool) : Issued :=
  let x := s.eng e
  let w := x.fetch
  let i := insOf w
  if !mine i.opc ∨ !s.canIssue e then .stay s
  else
    let iss (p : Bool) (v : Word16) (i : Ins) : Iss := { w := w, i := i, pc := x.pc, seq := x.issued + 1, poison := p, value := v }
    let fail (c : Code) : State :=
      let t := s.setEng e x.take
      t.enter e (iss false 0 i) ([], []) none { fault := some c, sslot := t.sslotWord e i }
    if i.malformed (s.chainOk i.chain && (s.chainOf i.chain).split) then .stay (fail .badCommand)
    else if i.badQueue then .stay (fail .shape)
    else if !x.tokensReady i ∨ !s.interlock e i then .stay s
    else
      let t := x.takeTokens i
      let skip := t.2.1 && !i.pp
      if i.holdsEntry ∧ !skip ∧ (s.strm e).freeEnt.isNone then .stay s
      else if skip then
        let s := s.setEng e t.1.take
        let ss := s.sslotWord e i
        let t := match i.outSlot with
          | some a => s.poisonOut e a
          | none => (s, none)
        let y := t.1.eng e
        .stay (t.1.setEng e { y with window := y.window ++ [{
          seq := x.issued + 1, word := w, pc := x.pc, value := i.tokenValue (x.issued + 1), poison := true, skipped := true,
          chain := i.named, done := i.opc != 0x02, sslot := ss, result := if i.opc = 0x0A ∧ i.im 47 1 = 1 then t.2 else none }] })
      else
        let add := if i.idx = 0 then 0 else (x.ctv i.idx).toNat
        .go (s.setEng e t.1.take) (iss t.2.1 t.2.2 { i with llo := i.llo + add, lhi := i.lhi + add })

/-! ## Issue checks (R83, R121) -/

/-- The tiles that an instruction names, in field order, each with what it may be: a destination (an operand tile), a
source (an operand tile, or a key tile that is FULL). -/
def Ins.tiles (i : Ins) : List (Nat × Bool) :=
  match opUse i.opc with
  | some (d, a, b, c, _, _) =>
    (if d then [(i.dst, true)] else []) ++ (if a then [(i.srca, false)] else []) ++ (if b then [(i.srcb, false)] else []) ++
      (if c then [(i.srcc, false)] else [])
  | none => []

/-- The first tile named that is unconfigured or a span member, or that breaks R71 (R83). -/
def Engine.badTile (x : Engine) (i : Ins) : Option Nat :=
  (i.tiles.find? fun td =>
    !x.named td.1 || ((x.tile td.1).key && (td.2 || (x.tile td.1).kst != .full))).map Prod.fst

/-- The limb fields break R83, R109 or R121: the chain is not valid, the range is empty or out of range, or BASIS = 1 is not
accepted. -/
def State.badLimbs (s : State) (i : Ins) : Bool :=
  let c := s.chainOf i.chain
  !s.chainOk i.chain || decide (63 < i.llo) || decide (63 < i.lhi) || decide (i.lhi < i.llo) ||
    (if i.basis then decide (c.k ≤ i.lhi) else decide (c.l ≤ i.lhi)) ||
    (i.basis && [0x09, 0x0A, 0x2B, 0x29, 0x2A, 0x30].contains i.opc)

/-- The checks of R83 that every instruction with tiles and limbs shares: none when they pass. -/
def State.issueCheck (s : State) (e : Nat) (i : Ins) : Option Res :=
  match (s.eng e).badTile i with
  | some t => some { fault := some .shape, tile := some t }
  | none => if s.badLimbs i then some (.bad .shape) else none

/-- A fault with SHAPE on a tile. -/
def Res.shape (t : Nat) : Res := { fault := some .shape, tile := some t }

/-- An instruction whose own part is done at issue: it is checked (R83), its own part runs or faults, and it enters the
window. -/
def State.issueRun (s : State) (e opc : Nat) (check : Bool) (body : State → Iss → State × Res) : State :=
  match s.issue e (fun o => o == opc) with
  | .stay s => s
  | .go s x =>
    let rw := (s.eng e).rw x.i
    match (if check then s.issueCheck e x.i else none) with
    | some r => s.enter e x rw none r
    | none =>
      let t := body s x
      t.1.enter e x rw none t.2

/-! ## Retirement (R92, R98-R101, R113, R174) -/

/-- The Sump record of an instruction fault (R100, R420). -/
def State.faultRecord (s : State) (e : Nat) (v : WinEnt) (c : Code) : SumpRec :=
  let x := s.eng e
  let opc := fld v.word.toNat 120 8
  { code := c.byte, cls := if c = .eccUncorrectable then 6 else 0, unit := 0, place := BitVec.ofNat 8 (e % 4),
    tenant := some (Fin.ofNat 1024 x.tenant), op := BitVec.ofNat 8 opc, slot := x.slot.map (Fin.ofNat 8192),
    disp := match x.slot with | some n => BitVec.ofNat 16 (s.slotJ n).disp | none => 0,
    fpc := BitVec.ofNat 32 v.pc, detail0 := faultInfoImage c opc v.tile v.pc, detail1 := v.detail1 }

/-- A spend mark as the supervisor and the journal keep it: the argument-slot word of the descriptor, and for one in a scratchpad buffer
the engine whose handle it is, in [53:48] (the spec gives the mark no form; log entry 106). -/
def markOf (e : Nat) (w : Word64) : Word64 := if w.getLsbD 63 then w ||| BitVec.ofNat 64 (e <<< 48) else w

/-- n spend marks of the engine's command: at most 16 in all, collected by the gallery supervisor (R174). -/
def State.addMarks (s : State) (e n : Nat) (m : Option Word64) : State :=
  match m, (s.eng e).slot with
  | some w, some k =>
    let g := s.gal (e / 4)
    s.setGal (e / 4) { g with marks := tset g.marks k ((tget g.marks k [] ++ List.replicate n (markOf e w)).take 16) }
  | _, _ => s

/-- The spend marks that the retirement of a window entry makes (R174): a TST with DESC = 1 makes those of every refused RESC before it
that has none yet. -/
def State.retireMarks (s : State) (e : Nat) (v : WinEnt) : State :=
  let x := s.eng e
  let opc := fld v.word.toNat 120 8
  let s := s.addMarks e 1 v.mark
  if v.rescMark then s.setEng e { s.eng e with rescPending := x.rescPending + 1 }
  else if x.rescPending ≠ 0 ∧ opc = 0x0A ∧ bit v.word.toNat 47 then
    let s := s.addMarks e x.rescPending v.sslot
    s.setEng e { s.eng e with rescPending := 0 }
  else s

/-- The oldest window entry retires (R92, R98): its token enters, its fault is recorded. The token of an instruction that faults because
its EMIT names one of Q8 to Q13 enters that very queue (DESIGN CHOICE log entry 107). -/
def State.retireHead (s : State) (e : Nat) (v : WinEnt) (rest : List WinEnt) : State :=
  let x := s.eng e
  let i := insOf v.word
  let x1 := { x with window := rest, retired := v.seq }
  let x2 := if i.emit = 15 then x1 else x1.push i.emit { value := v.value, poison := v.poison }
  let x3 := match v.fault with
    | some c => if v.silent then x2 else
        { x2 with faultInfo := faultInfoImage c i.opc v.tile v.pc, lastCode := c.byte,
                  firstFault := match x.firstFault with | some f => some f | none => some c }
    | none => x2
  let x4 := { x3 with anySkip := x.anySkip || v.skipped || v.silent,
                      result := match v.result with | some w => w | none => x.result,
                      sinceTest := x.sinceTest.map (· + 1) }
  let rec1 := s.faultRecord e v
  let s1 := (s.setEng e x4).event (.engine e) 2 1
  let s2 := if v.skipped || v.silent then s1.event (.engine e) 0x0B 1 else s1
  let s3 := match v.fault with
    | some c => if v.silent then s2 else
        let s' := s2.sumpPut (e / 4) (rec1 c)
        if c = Code.shape then s'.event (.engine e) 0x0A 1 else s'
    | none => s2
  s3.retireMarks e v

/-- The program's status for the command (R113). -/
def Engine.status (x : Engine) : Code :=
  match x.firstFault with
  | some c => c
  | none => if x.anySkip then .poisonedInput else .ok

/-- The oldest window entry has completed; a FENCE completes when it is the oldest and the program's stream transfers have
delivered their tokens (R110). A STOP retires only through STOP. -/
def State.headDone (s : State) (e : Nat) (v : WinEnt) : Bool :=
  match fld v.word.toNat 120 8 with
  | 0x02 => v.done
  | 0x4A => v.done || s.streamsQuiet e
  | _ => v.done

/-- INSTRUCTION_RETIRE (R92, R98-R101): the oldest issued instruction retires once it has completed and its token has
room. -/
def execInstructionRetire (e : Fin 64) (s : State) : Out :=
  match (s.eng e).window with
  | [] => .next s
  | v :: rest =>
    let emit := fld v.word.toNat 108 4
    if s.headDone e v && (emit == 15 || (s.eng e).room emit) then .next (s.retireHead e v rest) else .next s

/-! ## NOP, STOP, FENCE -/

/-- NOP (R125): nothing but its waits and its token. An undefined opcode issues here too and faults with BAD_COMMAND
(R120). -/
def execNop (e : Fin 64) (s : State) : Out :=
  match s.issue e (fun o => o == 0x01 || (opUse o).isNone) with
  | .stay s => .next s
  | .go s x => .next (s.enter e x ([], []) none {})

/-- The program ends (R113, R265): ARMED slots are disarmed, STATE becomes IDLE, the status is reported. -/
def State.endProgram (s : State) (e : Nat) : State :=
  let y := s.strm e
  let slots := (List.range 4).foldl (fun (z : Stream) n => if (z.slot n).st = .armed then z.setSlot n {} else z) y
  let s := s.setStrm e slots
  let x := s.eng e
  s.setEng e { x with st := .idle, ended := some x.status }

/-- STOP (R113): it issues once its waits are met; when it is the oldest instruction and every transfer has delivered its
tokens it retires and the program ends. PC = NINSTR counts as a STOP. A STOP that itself faults, malformed or by R97, retires as a fault
and ends no program (DESIGN CHOICE log entry 108). -/
def execStop (e : Fin 64) (s : State) : Out :=
  let s1 : State :=
    match s.issue e (fun o => o == 0x02) with
    | .stay s => s
    | .go s x => s.enter e x ([], []) none { done := false }
  match (s1.eng e).window with
  | [v] =>
    let emit := fld v.word.toNat 108 4
    if fld v.word.toNat 120 8 = 0x02 ∧ !v.done ∧ s1.streamsQuiet e ∧ (emit = 15 ∨ (s1.eng e).room emit) then
      .next ((s1.retireHead e v []).endProgram e)
    else .next s1
  | _ => .next s1

/-- FENCE (R110): it issues, and completes when every earlier instruction has retired and the program's transfers have
delivered their tokens. -/
def execFence (e : Fin 64) (s : State) : Out := .next (s.issueRun e 0x4A false fun s _ => (s, { done := false }))

/-! ## TCFG, TREL -/

/-- The configuration that a TCFG immediate holds (R126). -/
def Ins.tileCfg (i : Ins) : TileCfg :=
  { base := i.im 45 15, span := i.im 43 2, key := i.im 42 1 == 1, rows := i.im 35 7, rowb := i.im 27 8 }

/-- TCFG (R80, R81, R126). -/
def execTcfg (e : Fin 64) (s : State) : Out :=
  .next (s.issueRun e 0x08 false fun s x =>
    let y := s.eng e
    if y.cfgOk x.i.dst x.i.tileCfg then (s.setEng e (y.cfgApply x.i.dst x.i.tileCfg), {}) else (s, Res.shape x.i.dst))

/-- The fill that is being written into a released key tile stops (R133, R218): its unwritten bytes are discarded, its token comes due once,
with poison, and the next fill goes to the next ring tile. -/
def State.cancelFill (s : State) (e t : Nat) : State :=
  let y := s.strm e
  s.setStrm e ((List.range 4).foldl (fun (z : Stream) n =>
    let x := z.slot n
    match x.kf with
    | some k =>
      if k.cur = some t then
        z.setSlot n { x with kf := some { k with cur := none, asm := k.asm.tail, next := k.next + 1,
                                                 due := [{ value := BitVec.ofNat 16 k.next, poison := true }] } }
      else z
    | none => z) y)

/-- TREL (R68, R133): an operand tile is zeroed, a key tile becomes EMPTY. -/
def execTrel (e : Fin 64) (s : State) : Out :=
  .next (s.issueRun e 0x0B false fun s x =>
    let y := s.eng e
    if !y.named x.i.dst then (s, Res.shape x.i.dst)
    else if (y.tile x.i.dst).key then ((s.cancelFill e x.i.dst).setEng e (y.releaseKey x.i.dst), {})
    else (s.setEng e ((y.zeroTile x.i.dst).unlatch (y.members x.i.dst)), {}))

/-! ## Scalar instructions (R107, R108, R110, R155, R156) -/

/-- CNTI (R107). -/
def execCnti (e : Fin 64) (s : State) : Out :=
  .next (s.issueRun e 0x40 false fun s x =>
    let y := s.eng e
    let v : Word32 := BitVec.ofNat 32 (x.i.im 0 32)
    let t := x.i.im 56 4
    (s.setEng e (if t < 8 then { y with ct := tset y.ct t v } else { y with cp := tset y.cp (t - 8) v }), {}))

/-- CNTD (R107): CTn minus a signed 16-bit step, mod 2^32. -/
def execCntd (e : Fin 64) (s : State) : Out :=
  .next (s.issueRun e 0x41 false fun s x =>
    let y := s.eng e
    let t := x.i.im 57 3
    (s.setEng e { y with ct := tset y.ct t (y.ctv t - (BitVec.ofNat 16 (x.i.im 0 16)).signExtend 32) }, {}))

/-- The condition of a CMPB (R108, R155). -/
def cmpHolds (cond : Nat) (a b : Word32) : Bool :=
  match cond with
  | 0 => a == b
  | 1 => a != b
  | 2 => decide (a.toNat < b.toNat)
  | _ => decide (b.toNat ≤ a.toNat)

/-- CMPB (R108): a target at or above NINSTR faults with SHAPE. -/
def execCmpb (e : Fin 64) (s : State) : Out :=
  .next (s.issueRun e 0x42 false fun s x =>
    let y := s.eng e
    let target := x.i.im 0 12
    if y.prog.length ≤ target then (s, Res.bad .shape)
    else if cmpHolds (x.i.im 53 2) (y.ctv (x.i.im 57 3)) (y.cpv (x.i.im 55 2)) then (s.setEng e { y with pc := target }, {})
    else (s, {}))

/-- A TWAIT that has its WAIT-field tokens and finds Q15 empty after an export (R196): the supervisor sets the place's bit of
XPORT_PEND, writes XPORT_SEQ and raises XPORT; the interrupt reaches the function of the command's tenant. -/
def State.exportPending (s : State) (e : Nat) : State :=
  let x := s.eng e
  let i := insOf x.fetch
  let g := e / 4
  let y := s.gal g
  let ready := { i with opc := 0x01 }
  if i.opc = 0x48 ∧ i.im 56 4 = 15 ∧ s.canIssue e ∧ !i.malformed false ∧ !i.badQueue ∧ x.tokensReady ready ∧
      (x.queue 15).isEmpty ∧ !y.xportPend.getLsbD (e % 4) then
    let s := s.setGal g { y with xportPend := y.xportPend ||| BitVec.ofNat 4 (1 <<< (e % 4)),
                                 xportSeq := tset y.xportSeq (e % 4) (BitVec.ofNat 64 (s.cmdSeq e)) }
    let h := s.hdr (.gallery g)
    let s := s.setHdr (.gallery g) { h with irqSts := h.irqSts ||| 0x100 }
    match s.exportFn e with
    | some q => if h.irqEn.getLsbD 8 then s.msixTo q.1 q.2 0 else s
    | none => s
  else s

/-- TWAIT (R110, R156), with the wait of an export on Q15 (R196). -/
def execTwait (e : Fin 64) (s : State) : Out :=
  let s := s.exportPending e
  .next (s.issueRun e 0x48 false fun s x =>
    let y := s.eng e
    if x.i.im 55 1 = 1 then (s.setEng e { y with ct := tset y.ct (x.i.im 52 3) (x.value.setWidth 32) }, {}) else (s, {}))

/-- TEMIT (R99, R110): its token carries the immediate value. -/
def execTemit (e : Fin 64) (s : State) : Out :=
  .next (s.issueRun e 0x49 false fun s _ => (s, {}))

end Sys2Proof.Machine
end

