-- ==== Sys2Proof/Machine/EngineArith.lean ====
section
/-! DEFINITION. The arithmetic instructions of the engine that consume no key ring: element-wise operations, transforms,
automorphisms, basis and modulus handling, gadget digits, modulus switching, extraction (R134-R141, R149, R152, R154). -/

namespace Sys2Proof.Machine

open Sys2Proof

/-! ## Shared parts -/

/-- Limbs named (R124 n). -/
def Ins.n (i : Ins) : Nat := i.lhi + 1 - i.llo

/-- Passes of a limb in a tile (R124 Pl). -/
def Engine.passes (x : Engine) (c : Chain) (t : Nat) : Nat :=
  (rpl c (x.tile t).width).getD 0 * cdiv (x.tile t).width 4096

/-- The stage cycles of one limb transform (R124 G). -/
def gCycles (c : Chain) (pl : Nat) : Nat := c.logn * max 1 (cdiv pl 2)

/-- Two tiles have one shape (R136). -/
def Engine.sameShape (x : Engine) (a b : Nat) : Bool :=
  (x.tile a).rows == (x.tile b).rows && (x.tile a).rowb == (x.tile b).rowb && (x.tile a).span == (x.tile b).span

/-- The first of some tiles that does not hold `limbs` limbs of a chain (R67). -/
def Engine.notHolding (x : Engine) (c : Chain) (limbs : Nat) (ts : List Nat) : Option Nat := ts.find? fun t => !x.holds c t limbs

/-- Some element is at or above the modulus (R31: results are then undefined). -/
def anyBad (q : Nat) (a : List Nat) : Bool := a.any fun x => decide (q ≤ x)

/-- Write result elements to a tile from element `off`; the elements marked are free values (R31, log entry 2). -/
def State.putRes (s : State) (e t sz off : Nat) (bad : List Bool) (vs : List Nat) : State :=
  if bad.any id then
    ((s.setEng e ((s.eng e).putElems t sz off (s.orFree 0 bad vs))).drawn)
  else s.setEng e ((s.eng e).putElems t sz off vs)

/-- Write whole limbs, each with a mark that its values are free. -/
def State.putLimbs (s : State) (e t sz off : Nat) (ls : List (Bool × List Nat)) : State :=
  s.putRes e t sz off (ls.map fun l => List.replicate l.2.length l.1).flatten (ls.map Prod.snd).flatten

/-- Lane passes counted under event 0x09 (R508). -/
def State.lanePasses (s : State) (e n : Nat) : State := s.event (.engine e) 9 n

/-- The rounding inputs of an engine instruction (R224). -/
def State.rndOf (s : State) (e : Nat) (x : Iss) : Rnd :=
  { mode := x.i.rnd, seed := (s.eng e).rndLatched.toNat, chain := x.i.chain, seq := x.seq }

/-! ## Reuse latches (R62, R63) -/

/-- The tag of one pass of a tile or span: logical row and pass (R62). -/
def Engine.tag (x : Engine) (t row pass : Nat) : LatchTag :=
  let v := x.tile t
  let m := t + row / v.rows
  { tile := m, row := row % v.rows, pass := pass, gen := (x.tile m).gen }

/-- A run of passes of an operand through a latch: its tag afterwards, the passes served and those missed. -/
def Engine.through (x : Engine) (l : Option LatchTag) (t rows ppr : Nat) : Option LatchTag × Nat × Nat :=
  let hit := if l = some (x.tag t 0 0) then 1 else 0
  (some (x.tag t (rows - 1) (ppr - 1)), hit, rows * ppr - hit)

/-- The latches and the events 0x06 and 0x07 of an element-wise instruction (R62, R135). A scalar SRCB (SCAL = 1) is no operand read in
passes: it neither uses nor changes latch 0, and counts nothing (DESIGN CHOICE log entry 113). -/
def State.latchRun (s : State) (e : Nat) (i : Ins) (c : Chain) (scal : Bool) : State :=
  let x := s.eng e
  let go (s : State) (on : Bool) (l : Option LatchTag) (t : Nat) : State × Option LatchTag :=
    if on then
      let v := x.tile t
      let r := x.through l t (i.n * (rpl c v.width).getD 0) (cdiv v.width 4096)
      ((s.event (.engine e) 6 r.2.1).event (.engine e) 7 r.2.2, r.1)
    else (s, l)
  let a := go s (i.reuse % 2 == 1 && !scal) x.latch0 i.srcb
  let b := go a.1 (decide (2 ≤ i.reuse) && i.opc == 0x13) x.latch1 i.srcc
  b.1.setEng e { b.1.eng e with latch0 := a.2, latch1 := b.2 }

/-! ## Element-wise arithmetic (R134, R135) -/

/-- The element-wise result of one element (R134). -/
def ewOp (c : Chain) (ent opc a b d : Nat) : Nat :=
  let q := c.q ent
  match opc with
  | 0x10 => (a + b) % q
  | 0x11 => (a + (q - b)) % q
  | 0x12 => c.redc ent (a * b)
  | 0x13 => (c.redc ent (a * b) + d) % q
  | _ => (q - a) % q

/-- The tiles that an element-wise instruction must find in R67 (R135). -/
def Ins.ewTiles (i : Ins) : List Nat :=
  let scal := i.im 59 1 == 1
  [i.dst, i.srca] ++ (if i.opc = 0x14 ∨ scal then [] else [i.srcb]) ++ (if i.opc = 0x13 then [i.srcc] else [])

/-- The shape conditions of R135. -/
def Engine.ewShape (x : Engine) (i : Ins) (c : Chain) : Option Nat :=
  match x.notHolding c i.n i.ewTiles with
  | some t => some t
  | none =>
    match i.ewTiles.find? (fun t => (x.tile t).rowb != (x.tile i.dst).rowb) with
    | some t => some t
    | none => if i.opc ≠ 0x14 ∧ i.im 59 1 = 1 ∧ (x.tile i.srcb).lrows < i.n then some i.srcb else none

/-- The result limbs of an element-wise instruction, each element with its free mark (R31, R134). -/
def Engine.ewLimb (x : Engine) (i : Ins) (c : Chain) (k : Nat) : List (Bool × Nat) :=
  let ent := entryOf i.basis (i.llo + k)
  let q := c.q ent
  let a := x.limb c i.srca k
  let b :=
    if i.opc = 0x14 then List.replicate c.n 0
    else if i.im 59 1 = 1 then List.replicate c.n ((x.elems i.srcb c.esz (k * ((x.tile i.srcb).width / c.esz)) 1).getD 0 0)
    else x.limb c i.srcb k
  let d := if i.opc = 0x13 then x.limb c i.srcc k else List.replicate c.n 0
  List.zipWith (fun u vw => (decide (q ≤ u) || decide (q ≤ vw.1) || decide (q ≤ vw.2), ewOp c ent i.opc u vw.1 vw.2)) a (b.zip d)

/-- An element-wise instruction (R134). -/
def State.elementwise (s : State) (e opc : Nat) : State :=
  s.issueRun e opc true fun s x =>
    let y := s.eng e
    let c := s.chainOf x.i.chain
    match y.ewShape x.i c with
    | some t => (s, Res.shape t)
    | none =>
      let out := ((List.range x.i.n).map (y.ewLimb x.i c)).flatten
      let s := (s.latchRun e x.i c (x.i.im 59 1 == 1)).lanePasses e (x.i.n * y.passes c x.i.srca)
      (s.putRes e x.i.dst c.esz 0 (out.map Prod.fst) (out.map Prod.snd), {})

/-- MADD: A + B mod q (R134). -/
def execMadd (e : Fin 64) (s : State) : Out := .next (s.elementwise e 0x10)
/-- MSUB: A - B mod q (R134). -/
def execMsub (e : Fin 64) (s : State) : Out := .next (s.elementwise e 0x11)
/-- MMUL: redc(A · B) (R134). -/
def execMmul (e : Fin 64) (s : State) : Out := .next (s.elementwise e 0x12)
/-- MMAC: redc(A · B) + C mod q (R134). -/
def execMmac (e : Fin 64) (s : State) : Out := .next (s.elementwise e 0x13)
/-- MNEG: -A mod q (R134). -/
def execMneg (e : Fin 64) (s : State) : Out := .next (s.elementwise e 0x14)

/-! ## Transforms and automorphisms (R136, R137) -/

/-- A limb in the slot order that ORD selects (R136, R137): ORD swaps slot x and brv(x). -/
def ordSlots (c : Chain) (ord : Bool) (a : List Nat) : List Nat := if ord then permute c.n (brv c.logn) a else a

/-- An instruction that maps each limb of SRCA to a limb of DST. -/
def State.limbwise (s : State) (e opc : Nat) (cond : Engine → Ins → Chain → Option Nat) (passes : Engine → Ins → Chain → Nat)
    (f : Chain → Ins → Nat → List Nat → List Nat) : State :=
  s.issueRun e opc true fun s x =>
    let y := s.eng e
    let c := s.chainOf x.i.chain
    match y.notHolding c x.i.n [x.i.dst, x.i.srca] with
    | some t => (s, Res.shape t)
    | none =>
      if !y.sameShape x.i.dst x.i.srca then (s, Res.shape x.i.srca)
      else
        match cond y x.i c with
        | some t => (s, Res.shape t)
        | none =>
          let out := (List.range x.i.n).map fun k =>
            let ent := entryOf x.i.basis (x.i.llo + k)
            let a := y.limb c x.i.srca k
            (anyBad (c.q ent) a, f c x.i ent a)
          ((s.lanePasses e (passes y x.i c)).putLimbs e x.i.dst c.esz 0 out, {})

/-- NTT (R45, R136). -/
def execNtt (e : Fin 64) (s : State) : Out :=
  .next (s.limbwise e 0x20 (fun _ _ _ => none) (fun y i c => i.n * gCycles c (y.passes c i.srca)) fun c i ent a =>
    let ord := i.im 59 1 == 1
    ordSlots c ord (c.ntt ent (ordSlots c ord a)))

/-- INTT (R45, R136). -/
def execIntt (e : Fin 64) (s : State) : Out :=
  .next (s.limbwise e 0x21 (fun _ _ _ => none) (fun y i c => i.n * gCycles c (y.passes c i.srca)) fun c i ent a =>
    let ord := i.im 59 1 == 1
    ordSlots c ord (c.intt ent (ordSlots c ord a)))

/-- AUTO (R137, R253). -/
def execAuto (e : Fin 64) (s : State) : Out :=
  .next (s.limbwise e 0x22
    (fun _ i c =>
      let g := i.im 42 18
      if g % 2 = 0 ∨ 2 * c.n ≤ g ∨ i.dst = i.srca then some i.srca else none)
    (fun y i c => 2 * (i.n * y.passes c i.srca))
    fun c i ent a =>
      let g := i.im 42 18
      let ord := i.im 40 1 == 1
      let v := ordSlots c ord a
      ordSlots c ord (if i.im 41 1 = 1 then autoCoef (c.q ent) c.logn g v else permute c.n (rotSel c.logn g false) v))

/-! ## Basis and modulus handling (R138-R141) -/

/-- Limbs of a tile as plain residues: the entries they stand under, and whether some element is at or above its modulus. -/
def Engine.plain (x : Engine) (c : Chain) (t : Nat) (ents : List Nat) : Bool × List (List Nat) :=
  let rows := ((List.range ents.length).zip ents).map fun ke =>
    let a := x.limb c t ke.1
    (anyBad (c.q ke.2) a, a.map (c.redc ke.2))
  (rows.any Prod.fst, rows.map Prod.snd)

/-- Plain residues in Montgomery form. -/
def Chain.montRow (c : Chain) (ent : Nat) (a : List Nat) : List Nat := a.map (c.mont ent)

/-- BCONV (R138, R159). -/
def execBconv (e : Fin 64) (s : State) : Out :=
  .next (s.issueRun e 0x28 true fun s x =>
    let y := s.eng e
    let c := s.chainOf x.i.chain
    let tlo := x.i.im 53 7
    let thi := x.i.im 46 7
    let targets := (List.range (thi + 1 - tlo)).map (tlo + ·)
    if thi < tlo ∨ targets.any (fun t => !(decide (t < c.l) || (decide (64 ≤ t) && decide (t < 64 + c.k)))) then (s, Res.bad .shape)
    else
      match y.notHolding c x.i.n [x.i.srca], y.notHolding c targets.length [x.i.dst] with
      | some t, _ => (s, Res.shape t)
      | none, some t => (s, Res.shape t)
      | none, none =>
        if x.i.dst = x.i.srca then (s, Res.shape x.i.dst)
        else
          let set := (List.range x.i.n).map fun k => entryOf x.i.basis (x.i.llo + k)
          let src := y.plain c x.i.srca set
          let out := List.zipWith (fun t row => (src.1, c.montRow t row)) targets (c.bconv set src.2 targets)
          ((s.lanePasses e (y.passes c x.i.srca * x.i.n * (targets.length + 1))).putLimbs e x.i.dst c.esz 0 out, {}))

/-- MODUP (R139, R160). -/
def execModup (e : Fin 64) (s : State) : Out :=
  .next (s.issueRun e 0x29 true fun s x =>
    let y := s.eng e
    let c := s.chainOf x.i.chain
    let nsp := x.i.im 56 4 + 1
    let top := x.i.im 50 6
    if top < x.i.lhi ∨ c.l ≤ top ∨ c.k < nsp then (s, Res.bad .shape)
    else
      let targets := List.range (top + 1) ++ (List.range nsp).map (64 + ·)
      match y.notHolding c x.i.n [x.i.srca], y.notHolding c targets.length [x.i.dst] with
      | some t, _ => (s, Res.shape t)
      | none, some t => (s, Res.shape t)
      | none, none =>
        if x.i.dst = x.i.srca then (s, Res.shape x.i.dst)
        else
          let set := (List.range x.i.n).map (x.i.llo + ·)
          let src := y.plain c x.i.srca set
          let coef := List.zipWith c.intt set src.2
          let conv := c.bconv set coef targets
          let out := List.zipWith (fun t row =>
            if set.contains t then
              let a := y.limb c x.i.srca (t - x.i.llo)
              (anyBad (c.q t) a, a)
            else (src.1, c.montRow t (c.ntt t row))) targets conv
          let pl := y.passes c x.i.srca
          let g := gCycles c pl
          let t := targets.length - x.i.n
          ((s.lanePasses e (x.i.n * g + pl * x.i.n * (t + 1) + t * g)).putLimbs e x.i.dst c.esz 0 out, {}))

/-- MODDN (R140, R162). -/
def execModdn (e : Fin 64) (s : State) : Out :=
  .next (s.issueRun e 0x2A true fun s x =>
    let y := s.eng e
    let c := s.chainOf x.i.chain
    let nsp := x.i.im 56 4 + 1
    let t := x.i.lhi + 1
    if x.i.llo ≠ 0 ∨ c.k < nsp then (s, Res.bad .shape)
    else
      match y.notHolding c (t + nsp) [x.i.srca], y.notHolding c t [x.i.dst] with
      | some t, _ => (s, Res.shape t)
      | none, some t => (s, Res.shape t)
      | none, none =>
        if x.i.dst = x.i.srca then (s, Res.shape x.i.dst)
        else
          let ents := List.range t ++ (List.range nsp).map (64 + ·)
          let src := y.plain c x.i.srca ents
          let coef := List.zipWith c.intt ents src.2
          let down := c.moddn (s.rndOf e x) 64 nsp (coef.take t) (coef.drop t)
          let out := List.zipWith (fun k row => (src.1, c.montRow k (c.ntt k row))) (List.range t) down
          let pl := y.passes c x.i.srca
          let g := gCycles c pl
          ((s.lanePasses e (nsp * g + pl * nsp * (t + 1) + t * g + t * pl)).putLimbs e x.i.dst c.esz 0 out, {}))

/-- Lane passes of a RESC (R141, R508). -/
def rescPasses (c : Chain) (pl n : Nat) : Nat := gCycles c pl + (n - 1) * (gCycles c pl + pl)

/-- The tile form of RESC (R141, R161): the rows of the dropped limb are zeroed when DST is SRCA. -/
def State.rescTile (s : State) (e : Nat) (x : Iss) : State × Res :=
  let y := s.eng e
  let c := s.chainOf x.i.chain
  let top := x.i.lhi
  if x.i.llo ≠ 0 then (s, Res.bad .shape)
  else
    match y.notHolding c (top + 1) [x.i.srca], y.notHolding c (max top 1) [x.i.dst] with
    | some t, _ => (s, Res.shape t)
    | none, some t => (s, Res.shape t)
    | none, none =>
      if top = 0 then (s, { fault := some .levelExhausted, rescMark := true })
      else
        let ents := List.range (top + 1)
        let src := y.plain c x.i.srca ents
        let coef := List.zipWith c.intt ents src.2
        let out := List.zipWith (fun k row => (src.1, c.montRow k (c.ntt k row))) (List.range top) (c.rescale (s.rndOf e x) top top coef)
        let s := (s.lanePasses e (rescPasses c (y.passes c x.i.srca) (top + 1))).putLimbs e x.i.dst c.esz 0 out
        (if x.i.dst = x.i.srca then s.setEng e ((s.eng e).zeroElems x.i.dst c.esz (top * c.n) c.n) else s, {})

/-! ## Gadget digits, modulus switching, extraction (R149, R152, R154, R181, R182, R189) -/

/-- DCMP (R149, R181, R182). -/
def execDcmp (e : Fin 64) (s : State) : Out :=
  .next (s.issueRun e 0x38 true fun s x =>
    let y := s.eng e
    let c := s.chainOf x.i.chain
    let l := x.i.im 56 4
    let beta := x.i.im 51 5
    match y.notHolding c x.i.n [x.i.srca] with
    | some t => (s, Res.shape t)
    | none =>
      if !y.holds c x.i.dst (l * x.i.n) ∨ (y.tile x.i.dst).rowb ≠ (y.tile x.i.srca).rowb ∨ x.i.dst = x.i.srca then (s, Res.shape x.i.dst)
      else
        let r := s.rndOf e x
        let limb (k : Nat) : Bool × List (List Int) :=
          let i := x.i.llo + k
          let ent := entryOf x.i.basis i
          let q := c.q ent
          let a := y.limb c x.i.srca k
          (anyBad q a, ((List.range c.n).zip a).map fun jx =>
            let v := c.redc ent jx.2
            gadget x.i.rnd q l beta v (r.draw i jx.1 (v * 2 ^ (l * beta) % q)))
        let ds := (List.range x.i.n).map limb
        let out := ((List.range l).map fun d => ((List.range x.i.n).zip ds).map fun kd =>
          let ent := entryOf x.i.basis (x.i.llo + kd.1)
          (kd.2.1, kd.2.2.map fun g => c.mont ent (resOf (c.q ent) (g.getD d 0)))).flatten
        ((s.lanePasses e (x.i.n * y.passes c x.i.srca * (l + 1))).putLimbs e x.i.dst c.esz 0 out, {}))

/-- MSW (R154, R182). -/
def execMsw (e : Fin 64) (s : State) : Out :=
  .next (s.issueRun e 0x3D true fun s x =>
    let y := s.eng e
    let c := s.chainOf x.i.chain
    let m := x.i.im 55 5
    match y.notHolding c x.i.n [x.i.dst, x.i.srca] with
    | some t => (s, Res.shape t)
    | none =>
      if (List.range x.i.n).any fun k => decide (c.q (entryOf x.i.basis (x.i.llo + k)) ≤ 2 ^ m) then (s, Res.bad .shape)
      else
        let r := s.rndOf e x
        let out := (List.range x.i.n).map fun k =>
          let i := x.i.llo + k
          let ent := entryOf x.i.basis i
          let q := c.q ent
          let a := y.limb c x.i.srca k
          (anyBad q a, ((List.range c.n).zip a).map fun jx =>
            let v := c.redc ent jx.2
            c.mont ent (roundCut x.i.rnd (v * 2 ^ m) q (r.draw i jx.1 (v * 2 ^ m % q)) % 2 ^ m))
        ((s.lanePasses e (x.i.n * y.passes c x.i.srca)).putLimbs e x.i.dst c.esz 0 out, {}))

/-- The capacity of a tile or span in elements (R179). -/
def Engine.capacity (x : Engine) (t esz : Nat) : Nat := (x.tile t).lrows * ((x.tile t).width / esz)

/-- A record padded with zeros to whole rows (R179). -/
def padRecord (perRow : Nat) (r : List Nat) : List Nat := r ++ List.replicate (cdiv r.length perRow * perRow - r.length) 0

/-- The polynomials p = 0 to k in consecutive limbs of a tile. -/
def Engine.polys (x : Engine) (c : Chain) (t k : Nat) : List (List Nat) := (List.range (k + 1)).map (x.limb c t)

/-- SXTR (R152, R188, R189). -/
def execSxtr (e : Fin 64) (s : State) : Out :=
  .next (s.issueRun e 0x3B true fun s x =>
    let y := s.eng e
    let c := s.chainOf x.i.chain
    let coef := x.i.im 43 17
    let k := x.i.im 40 3
    if !c.split ∨ x.i.basis ∨ x.i.llo ≠ 0 ∨ x.i.lhi ≠ 0 ∨ c.n ≤ coef then (s, Res.bad .shape)
    else if !y.holds c x.i.srca (k + 1) then (s, Res.shape x.i.srca)
    else if x.i.dst = x.i.srca ∨ y.capacity x.i.dst c.esz < k * c.n + 1 then (s, Res.shape x.i.dst)
    else
      let q := c.q 0
      let ps := y.polys c x.i.srca k
      let out := sxtrOf q c.logn coef ps
      let bad := ps.any (anyBad q)
      let perRow := (y.tile x.i.dst).width / c.esz
      let padded := padRecord perRow out
      let marks := List.replicate out.length bad ++ List.replicate (padded.length - out.length) false
      ((s.lanePasses e ((k + 1) * y.passes c x.i.srca)).putRes e x.i.dst c.esz 0 marks padded, {}))

end Sys2Proof.Machine
end

