-- ==== Sys2Proof/Machine/EngineMem.lean ====
section
/-! DEFINITION. The instructions that move polynomials between tiles and memory through a transfer entry: TLD, TST, RESC, and
the completion of a transfer (R76-R79, R128-R132, R141, R147, R262, R509). -/

namespace Sys2Proof.Machine

open Sys2Proof

/-! ## Transfers of an instruction (R131, R262) -/

/-- How a transfer went on: its last row is written, it halted on a translation fault, or it failed. -/
inductive Fate where
  | done
  | halted
  | bad (c : Code) (tile : Option Nat)
  deriving DecidableEq, Repr

/-- The transfer entry of an engine's stream unit. -/
def State.xfer (s : State) (e n : Nat) : Ent := (s.strm e).ent n
def State.setXfer (s : State) (e n : Nat) (v : Ent) : State := s.setStrm e ((s.strm e).setEnt n v)

/-- The issued, unretired instruction with a sequence number. -/
def Engine.winOf (x : Engine) (seq : Nat) : Option WinEnt := x.window.find? fun v => v.seq == seq

/-- Change the window entry with a sequence number. -/
def State.modWin (s : State) (e seq : Nat) (f : WinEnt → WinEnt) : State :=
  let x := s.eng e
  s.setEng e { x with window := x.window.map fun v => if v.seq = seq then f v else v }

/-- An issued instruction faults after its issue (R100). -/
def State.winFault (s : State) (e seq : Nat) (c : Code) (tile : Option Nat) : State :=
  s.modWin e seq fun v => { v with fault := some c, poison := true, tile := tile }

/-- What an instruction's own part had received, from its window entry (R109). -/
def WinEnt.iss (v : WinEnt) : Iss :=
  { w := v.word, i := { insOf v.word with llo := v.llo, lhi := v.lhi }, pc := v.pc, seq := v.seq, poison := v.poison, value := 0 }

/-- The instruction that holds an entry. -/
def State.holder (s : State) (e n : Nat) : Iss :=
  match (s.eng e).winOf (s.xfer e n).seq with
  | some v => v.iss
  | none => { w := 0, i := insOf 0, pc := 0, seq := 0, poison := false, value := 0 }

/-- An entry halts on a translation fault (R262): its registers and XLAT, which the gallery's helper cores see in `mip` (R322). -/
def State.haltEnt (s : State) (e n : Nat) (write : Bool) (va : Nat) (pos : Pos) : State :=
  let s := s.setXfer e n { s.xfer e n with fault := true, write := write, va := BitVec.ofNat 64 va, pos := pos }
  (s.event (.stream e) 8 1).raise (.stream e) 0

/-- An instruction takes the lowest free entry (R131, log entry 14) and enters the window. -/
def State.hold (s : State) (e : Nat) (x : Iss) (v : Ent) : State × Nat :=
  let n := (s.strm e).freeEnt.getD 0
  let rw := (s.eng e).rw x.i
  ((s.setXfer e n { v with seq := x.seq }).enter e x rw (some n) { done := false }, n)

/-- The outcome of an instruction's transfer is noted in its entry and its window entry: a failure writes no descriptor
(R132). -/
def State.settle (s : State) (e n : Nat) (f : Fate) : State :=
  let v := s.xfer e n
  match f with
  | .halted => s
  | .done => s.setXfer e n { v with last := true }
  | .bad c t => (s.setXfer e n { v with last := true, cdesc := none, todo := [] }).winFault e v.seq c t

/-- 64-byte units of device memory that a run at a target touches (R267 events 0x02 and 0x03). -/
def State.units (s : State) (e ev : Nat) (t : Target) (n : Nat) : State :=
  match t with
  | .va a => if n = 0 then s else s.event (.stream e) ev ((a + n - 1) / 64 - a / 64 + 1)
  | _ => s

/-- Row and element within it of element k of a stream of `per` elements a row (R266). -/
def rowPos (per k : Nat) : Pos := { i0 := k / per, o := k % per }

/-- The element at a recorded row and element. -/
def Pos.elt (p : Pos) (per : Nat) : Nat := p.i0 * per + p.o

/-- Every byte of a body at a location can be reached, as far as a scratchpad handle bounds it (R276). -/
def State.reaches (s : State) (e : Nat) (l : Loc) (n : Nat) : Bool :=
  match l with
  | .va _ => true
  | .sp h off => (s.handleDpa e h off n).isSome

/-! ## Bodies (R42, R48, R76, R77, R179, R180) -/

/-- A descriptor of a ring scheme. -/
def Desc.ring (d : Desc) : Bool := d.scheme != 4

/-- Elements that TLD or TST moves. -/
def Ins.total (i : Ins) (c : Chain) (d : Desc) : Nat := if d.ring then i.n * c.n else d.lweDim + 1

/-- Byte offset, from the descriptor, of the first element that TLD or TST moves (R42). -/
def Ins.bodyOff (i : Ins) (c : Chain) (d : Desc) (poly : Nat) : Nat :=
  d.off poly + (if d.ring then i.llo * c.n * fmtBytes d.wfmt else 0)

/-- The chain entry of the element at memory index j of a transfer. -/
def Ins.entAt (i : Ins) (c : Chain) (d : Desc) (j : Nat) : Nat := if d.ring then i.llo + j / c.n else 0

/-- The tile element that memory element j of a transfer stands in (R76 step 4, R180). -/
def slotIdx (c : Chain) (d : Desc) (rev : Bool) (j : Nat) : Nat :=
  if d.ring then (if rev then j / c.n * c.n + brv c.logn (j % c.n) else j)
  else if j = d.lweDim then 0 else j + 1

/-- The memory element that a tile element receives; none for the zero tail of a record (R76, R179, R180). -/
def memIdx (c : Chain) (d : Desc) (rev : Bool) (k : Nat) : Option Nat :=
  if d.ring then some (if rev then k / c.n * c.n + brv c.logn (k % c.n) else k)
  else if k = 0 then some d.lweDim else if k ≤ d.lweDim then some (k - 1) else none

/-- Elements in a row of a tile. -/
def Engine.perRow (x : Engine) (c : Chain) (t : Nat) : Nat := (x.tile t).width / c.esz

/-- The conditions of R128 on a descriptor for the tile of TLD or TST, with R78 and R180. -/
def Engine.bodyFits (x : Engine) (i : Ins) (c : Chain) (d : Desc) (t poly : Nat) (rev : Bool) : Option Res :=
  if d.chain ≠ i.chain ∨ d.polys ≤ poly ∨ d.layoutC then some (.bad .shape)
  else if d.ring then
    if d.level < i.lhi then some (.bad .shape) else if !x.holds c t i.n then some (Res.shape t) else none
  else if i.llo ≠ 0 ∨ i.lhi ≠ 0 ∨ rev then some (.bad .shape)
  else if x.capacity t c.esz < d.lweDim + 1 then some (Res.shape t)
  else none

/-! ## TLD (R76, R79, R128, R132) -/

/-- Elements [first, first + vs.length) of a TLD's memory order, converted, go to their places in DST. -/
def Engine.tldPut (x : Engine) (i : Ins) (c : Chain) (d : Desc) (rev : Bool) (first : Nat) (vs : List Nat) : Engine :=
  if vs.isEmpty then x
  else if d.ring && !rev then x.putElems i.dst c.esz first vs
  else
    let lo := if d.ring then first / c.n * c.n else 0
    let hi := if d.ring then cdiv (first + vs.length) c.n * c.n
              else cdiv (d.lweDim + 1) (x.perRow c i.dst) * x.perRow c i.dst
    let cur := x.elems i.dst c.esz lo (hi - lo)
    let new := ((List.range (hi - lo)).zip cur).map fun kv =>
      match memIdx c d rev (lo + kv.1) with
      | some j => if first ≤ j ∧ j < first + vs.length then vs.getD (j - first) 0 else kv.2
      | none => 0
    x.putElems i.dst c.esz lo new

/-- A TLD moves its elements from number `first` on. -/
def State.tldRun (s : State) (e n first : Nat) : State :=
  let x := s.holder e n
  let c := s.chainOf x.i.chain
  match (s.xfer e n).src with
  | none => s
  | some (l, d) =>
    let w := fmtBytes d.wfmt
    let total := x.i.total c d
    let at_ := l.plus (x.i.bodyOff c d (x.i.im 49 3) + first * w)
    match s.atRead e at_ 0 ((total - first) * w) with
    | (s, b, f) =>
      let k := b.length / w
      let s := s.units e 2 at_ (k * w)
      let vs := eltsOf w k b
      let ve := (List.range k).zip vs
      if ve.any fun jv => decide (c.q (x.i.entAt c d (first + jv.1)) ≤ jv.2) then
        (s.setEng e ((s.eng e).zeroTile x.i.dst)).settle e n (.bad .shape (some x.i.dst))
      else
        let conv := ve.map fun jv => if d.mont then jv.2 else c.mont (x.i.entAt c d (first + jv.1)) jv.2
        let s := s.setEng e ((s.eng e).tldPut x.i c d (x.i.im 48 1 == 1) first conv)
        match f with
        | none => s.settle e n .done
        | some (va, .translationFault) => s.haltEnt e n false va (rowPos ((s.eng e).perRow c x.i.dst) (first + k))
        | some (_, cd) => (s.setEng e ((s.eng e).zeroTile x.i.dst)).settle e n (.bad cd none)

/-- Elements of a row of a TLD's tile. -/
def State.tldPer (s : State) (e n : Nat) : Nat :=
  let i := (s.holder e n).i
  (s.eng e).perRow (s.chainOf i.chain) i.dst

/-- TLD after its issue stages (R123, R128). -/
def State.tld (s : State) (e : Nat) (x : Iss) : State :=
  let rw := (s.eng e).rw x.i
  match s.issueCheck e x.i with
  | some r => s.enter e x rw none r
  | none =>
    match s.readDesc e (x.i.im 52 8) true with
    | (s, .error (c, _)) => s.enter e x rw none (.bad c)
    | (s, .ok (l, d)) =>
      let c := s.chainOf x.i.chain
      match (s.eng e).bodyFits x.i c d x.i.dst (x.i.im 49 3) (x.i.im 48 1 == 1) with
      | some r => s.enter e x rw none r
      | none =>
        if !s.reaches e (l.plus (x.i.bodyOff c d (x.i.im 49 3))) (x.i.total c d * fmtBytes d.wfmt) then
          s.enter e x rw none (.bad .shape)
        else
          let t := s.hold e x { kind := .tld, src := some (s.locTarget e l, d) }
          t.1.tldRun e t.2 0

/-- TLD (R128). -/
def execTld (e : Fin 64) (s : State) : Out :=
  match s.issue e (fun o => o == 0x09) with
  | .stay s => .next s
  | .go s x => .next (s.tld e x)

/-! ## Writes through an entry (R129, R132, R262) -/

/-- Write a body from element `pos` on: elements of `u` bytes in rows of `rowB`. The answer names the element reached, the
address and the code of a failure: before a halt every earlier element is written (R262), before another failure every earlier
row (R132). The units counted are those written (R267). -/
def State.bodyWrite (s : State) (e : Nat) (t : Target) (u rowB pos : Nat) (bs : Bytes) : State × Option (Nat × Nat × Code) :=
  let rest := bs.drop (pos * u)
  match t.plus (pos * u) with
  | .va a =>
    match s.xlateAll (some (e / 4)) (s.eng e).tenant a rest.length true with
    | (s, runs, none) =>
      match s.writeRuns 0 runs rest with
      | (s, none) => (s.units e 3 (.va a) rest.length, none)
      | (s, some (va, c)) => (s.units e 3 (.va a) (va - a), some (pos, va, c))
    | (s, runs, some (bad, c)) =>
      let got := bad - a
      let keep := if c = .translationFault then got / u * u else (pos * u + got) / rowB * rowB - pos * u
      match s.writeRuns 0 (runs.map fun r => (r.1, r.2.1, min r.2.2 (a + keep - r.1))) (rest.take keep) with
      | (s, none) => (s.units e 3 (.va a) keep, some (pos + keep / u, bad, c))
      | (s, some (va, c)) => (s.units e 3 (.va a) (va - a), some (pos, va, c))
  | t =>
    match s.atWrite e t 0 u rest with
    | (s, none) => (s, none)
    | (s, some (a, c)) => (s, some (pos, a, c))

/-- Do the writes of an entry in order, the first from element `pos`. -/
def State.todoGo (s : State) (e n : Nat) : List (Target × Nat × Nat × Bytes) → Nat → State × Fate
  | [], _ => (s.setXfer e n { s.xfer e n with todo := [] }, .done)
  | (t, u, rowB, bs) :: r, pos =>
    match s.bodyWrite e t u rowB pos bs with
    | (s, none) => s.todoGo e n r 0
    | (s, some (p, va, .translationFault)) =>
      ((s.setXfer e n { s.xfer e n with todo := (t, u, rowB, bs) :: r }).haltEnt e n true va (rowPos (rowB / u) p), .halted)
    | (s, some (_, _, c)) => (s, .bad c none)

/-- The writes of an entry from its recorded position. -/
def State.todoRun (s : State) (e n : Nat) : State × Fate :=
  let v := s.xfer e n
  s.todoGo e n v.todo (match v.todo with | (_, u, rowB, _) :: _ => v.pos.elt (rowB / u) | [] => 0)

/-! ## TST (R77, R129, R130, R172-R174) -/

/-- The body that a TST writes: its stored elements in memory order, with free values for elements at or above their modulus
(R31, R77). -/
def State.tstBody (s : State) (e : Nat) (i : Ins) (c : Chain) (d : Desc) : State × Bytes :=
  let total := i.total c d
  let rev := i.im 48 1 == 1
  let raw := (s.eng e).elems i.srca c.esz 0 total
  let mem := if d.ring && !rev then raw else (List.range total).map fun j => raw.getD (slotIdx c d rev j) 0
  let je := (List.range total).zip mem
  let bad := je.map fun jv => decide (c.q (i.entAt c d jv.1) ≤ jv.2)
  let vals := je.map fun jv => if d.mont then jv.2 else c.redc (i.entAt c d jv.1) jv.2
  if bad.any id then (s.drawn, eltBytes (fmtBytes d.wfmt) (s.orFree 0 bad vals)) else (s, eltBytes (fmtBytes d.wfmt) vals)

/-- Read the first ciphertext source of an output descriptor (R130): a poisoned input leaves a poisoned output (R50). -/
def State.firstSource (s : State) (e slot out : Nat) : State × Except Res (Loc × Desc) :=
  match s.readDesc e slot true with
  | (s, .ok ld) => (s, .ok ld)
  | (s, .error (.poisonedInput, _)) =>
    let t := s.poisonOut e out
    (t.1, .error { fault := some .poisonedInput, result := t.2 })
  | (s, .error (c, _)) => (s, .error (.bad c))

/-- TST after its issue stages (R123, R129, R130). -/
def State.tst (s : State) (e : Nat) (x : Iss) : State :=
  let rw := (s.eng e).rw x.i
  let desc := x.i.im 47 1 == 1
  let oslot := x.i.im 52 8
  let ss := s.sslotWord e x.i
  let stop (s : State) (r : Res) : State := s.enter e x rw none { r with sslot := ss }
  match s.issueCheck e x.i with
  | some r => stop s r
  | none =>
    if ((s.eng e).tile x.i.srca).key then stop s (Res.shape x.i.srca)
    else
      let source : State × Except Res (Option (Loc × Desc)) :=
        if desc then
          match s.firstSource e (x.i.im 39 8) oslot with
          | (s, .ok ld) => (s, .ok (some ld))
          | (s, .error r) => (s, .error r)
        else (s, .ok none)
      match source with
      | (s, .error r) => stop s r
      | (s, .ok src) =>
        match s.readDesc e oslot false with
        | (s, .error (c, _)) => stop s (.bad c)
        | (s, .ok (l, d)) =>
          let c := s.chainOf x.i.chain
          match (s.eng e).bodyFits x.i c d x.i.srca (x.i.im 49 3) (x.i.im 48 1 == 1) with
          | some r => stop s r
          | none =>
            if desc && d.noiseRefused c then
              let t := s.poisonAt e l
              stop t.1 { fault := some .noiseExhausted, mark := src.map fun p => p.1.word, result := t.2 }
            else
              let at_ := l.plus (x.i.bodyOff c d (x.i.im 49 3))
              if !s.reaches e at_ (x.i.total c d * fmtBytes d.wfmt) then stop s (.bad .shape)
              else
                let b := s.tstBody e x.i c d
                let w := fmtBytes d.wfmt
                let t := b.1.hold e x { kind := .tst, out := some (s.locTarget e l, d), outWord := l.word, cdesc := src.map fun p => p.2,
                                        todo := [(s.locTarget e at_, w, (b.1.eng e).perRow c x.i.srca * w, b.2)] }
                let s := t.1.modWin e x.seq fun v => { v with sslot := ss }
                let r := s.todoRun e t.2
                r.1.settle e t.2 r.2

/-- TST (R129). -/
def execTst (e : Fin 64) (s : State) : Out :=
  match s.issue e (fun o => o == 0x0A) with
  | .stay s => .next s
  | .go s x => .next (s.tst e x)

/-! ## Memory-operand streams (R146, R147) -/

/-- Bytes of limbs 0 to k - 1 of a polynomial from plain residues in evaluation order, stored as the output's format and MONT
flag say (R77). -/
def limbBytes (c : Chain) (d : Desc) (first : Nat) (ls : List (List Nat)) : Bytes :=
  (((List.range ls.length).zip ls).map fun kl =>
    eltBytes (fmtBytes d.wfmt) (if d.mont then kl.2.map (c.mont (first + kl.1)) else kl.2)).flatten

/-- Read limb `lam` of polynomial `poly` on from what has been read of it: plain residues (R76, R146, R147). -/
def State.mopRead (s : State) (e n poly lam : Nat) : State × Fate :=
  let x := s.holder e n
  let c := s.chainOf x.i.chain
  let v := s.xfer e n
  match v.src with
  | none => (s, .done)
  | some (l, d) =>
    let w := fmtBytes d.wfmt
    let first := v.got.length
    let at_ := l.plus (d.off poly + (lam * c.n + first) * w)
    match s.atRead e at_ 0 ((c.n - first) * w) with
    | (s, b, f) =>
      let k := b.length / w
      let s := s.units e 2 at_ (k * w)
      let vs := eltsOf w k b
      if anyBad (c.q lam) vs then (s, .bad .shape none)
      else
        let s := s.setXfer e n { s.xfer e n with got := v.got ++ (if d.mont then vs.map (c.redc lam) else vs) }
        match f with
        | none => (s, .done)
        | some (va, .translationFault) =>
          (s.haltEnt e n false va (rowPos ((s.eng e).perRow c x.i.srca) (lam * c.n + first + k)), .halted)
        | some (_, cd) => (s, .bad cd none)

/-- An entry goes on to its next limb: it reads again (R146, R147). -/
def State.nextLimb (s : State) (e n : Nat) : State :=
  let v := s.xfer e n
  s.setXfer e n { v with kind := .tld, limb := v.limb + 1, got := [], todo := [], pos := {} }

/-- Every element of a tile or span becomes a free value: the spec leaves its contents undefined (log entry 2). -/
def State.freeTile (s : State) (e t : Nat) : State :=
  let v := (s.eng e).tile t
  (s.setEng e ((s.eng e).putElems t 8 0 (s.freeList 0 (v.len * v.size / 8)))).drawn

/-- The checks that a memory-operand instruction makes on a source beside those of R49 (R146, R147). -/
def Desc.mopSourceOk (d : Desc) (i : Ins) (poly : Nat) : Bool :=
  d.chain == i.chain && decide (i.lhi ≤ d.level) && decide (poly < d.polys) && !d.layoutC && d.ntt

/-- The checks that a memory-operand instruction makes on its prepared output beside those of R49 (R146, R147). -/
def Desc.mopOutputOk (d : Desc) (i : Ins) (level polys : Nat) : Bool :=
  d.chain == i.chain && d.level == level && decide (polys ≤ d.polys) && !d.layoutC && d.ntt

/-! ## RESC (R141, R147) -/

/-- Lane passes that a RESC of memory operands has executed when `limbs` limbs of its source stand transformed (R141, R508). -/
def rescDone (c : Chain) (pl limbs : Nat) : Nat := if limbs = 0 then 0 else rescPasses c pl limbs

/-- The current limb of a RESC with MOP = 1: limb LHI is read and held first; each other limb is read, formed and written (R147). -/
def State.rescLimb (s : State) (e n : Nat) : State × Fate :=
  let x := s.holder e n
  let c := s.chainOf x.i.chain
  let top := x.i.lhi
  let k := (s.xfer e n).limb
  let lam := if k = 0 then top else k - 1
  match s.mopRead e n (x.i.im 48 3) lam with
  | (s, .done) =>
    let v := s.xfer e n
    let coef := c.intt lam v.got
    if k = 0 then (s.setXfer e n { v with kept := [coef] }, .done)
    else
      match v.out with
      | none => (s, .done)
      | some (t, d) =>
        let rows := (List.range (top + 1)).map fun i => if i = top then v.kept.getD 0 [] else if i = lam then coef else []
        let out := c.ntt lam ((c.rescale (s.rndOf e x) top top rows).getD lam [])
        let w := fmtBytes d.wfmt
        let s := s.setXfer e n { v with kind := .tst, pos := {}, got := [],
                                        todo := [(t.plus (d.off (x.i.im 37 3) + lam * c.n * w), w, (s.eng e).perRow c x.i.dst * w,
                                                  limbBytes c d lam [out])] }
        s.todoRun e n
  | r => r

/-- RESC with MOP = 1 goes on from where it is, limb by limb (R147); the first argument bounds the limbs left. -/
def State.rescGo (s : State) (e n : Nat) : Nat → State × Fate
  | 0 => (s, .done)
  | k + 1 =>
    let v := s.xfer e n
    let top := (s.holder e n).i.lhi
    match (if v.kind = .tst then s.todoRun e n else s.rescLimb e n) with
    | (s, .done) => if top ≤ v.limb then (s, .done) else (s.nextLimb e n).rescGo e n k
    | r => r

/-- A RESC with MOP = 1 ends: the passes that it executed count (R147, R508). -/
def State.rescEnd (s : State) (e n : Nat) (f : Fate) : State :=
  let x := s.holder e n
  let c := s.chainOf x.i.chain
  let v := s.xfer e n
  let limbs := v.limb + b2n (f == .done || v.kind == .tst)
  (s.lanePasses e (rescDone c ((s.eng e).passes c x.i.srca) limbs)).settle e n f

/-- RESC with MOP = 1: its work from where it is (R147). -/
def State.rescRun (s : State) (e n : Nat) : State :=
  match s.rescGo e n ((s.holder e n).i.lhi + 1) with
  | (s, .halted) => s
  | (s, f) => s.rescEnd e n f

/-- The issue conditions of RESC with MOP = 1 on its staging tiles (R147). -/
def Engine.rescStaging (x : Engine) (i : Ins) (c : Chain) : Option Nat :=
  if (x.tile i.srca).key ∨ !x.holds c i.srca 2 then some i.srca
  else if !x.holds c i.dst 1 ∨ i.srca = i.dst ∨ (x.tile i.srca).rowb ≠ (x.tile i.dst).rowb then some i.dst
  else none

/-- RESC with MOP = 1 after its issue stages (R147). Its descriptors are checked in the order ISLOT, SSLOT, OSLOT, which the spec does not
give (DESIGN CHOICE log entry 111); a LEVEL_EXHAUSTED refusal whose ISLOT cannot be read keeps that code and makes no mark (DESIGN CHOICE
log entry 112). -/
def State.rescMop (s : State) (e : Nat) (x : Iss) : State :=
  let rw := (s.eng e).rw x.i
  let c := s.chainOf x.i.chain
  let stop (s : State) (r : Res) : State := s.enter e x rw none r
  let oslot := x.i.im 40 8
  match (if x.i.llo ≠ 0 then some (Res.bad .shape) else ((s.eng e).rescStaging x.i c).map Res.shape) with
  | some r => stop s r
  | none =>
    if x.i.lhi = 0 then
      match s.argSlot e (x.i.im 51 8) with
      | (s, .ok l) => stop s { fault := some .levelExhausted, mark := some l.word }
      | (s, .error _) => stop s { fault := some .levelExhausted }
    else
      match s.firstSource e (x.i.im 51 8) oslot with
      | (s, .error r) => stop s { r with result := none }
      | (s, .ok (il, id)) =>
        if !id.mopSourceOk x.i (x.i.im 48 3) then stop s (.bad .shape)
        else
          let source : State × Except Res (Option Desc) :=
            if x.i.im 36 1 = 1 then
              match s.firstSource e (x.i.im 28 8) oslot with
              | (s, .ok ld) => (s, .ok (some ld.2))
              | (s, .error r) => (s, .error r)
            else (s, .ok none)
          match source with
          | (s, .error r) => stop s { r with result := none }
          | (s, .ok src) =>
            match s.readDesc e oslot false with
            | (s, .error (c, _)) => stop s (.bad c)
            | (s, .ok (l, d)) =>
              if !d.mopOutputOk x.i (x.i.lhi - 1) (x.i.im 37 3 + 1) then stop s (.bad .shape)
              else if x.i.im 36 1 = 1 ∧ d.noiseRefused c then
                stop (s.poisonAt e l).1 { fault := some .noiseExhausted, mark := some il.word }
              else if !s.reaches e (il.plus (id.off (x.i.im 48 3))) ((x.i.lhi + 1) * c.n * fmtBytes id.wfmt) ∨
                  !s.reaches e (l.plus (d.off (x.i.im 37 3))) (x.i.lhi * c.n * fmtBytes d.wfmt) then stop s (.bad .shape)
              else
                let t := s.hold e x { kind := .tld, src := some (s.locTarget e il, id), out := some (s.locTarget e l, d), cdesc := src }
                (((t.1.freeTile e x.i.srca).freeTile e x.i.dst)).rescRun e t.2

/-- RESC (R141, R147). -/
def execResc (e : Fin 64) (s : State) : Out :=
  match s.issue e (fun o => o == 0x2B) with
  | .stay s => .next s
  | .go s x =>
    let rw := (s.eng e).rw x.i
    match s.issueCheck e x.i with
    | some r => .next (s.enter e x rw none r)
    | none =>
      if x.i.mop then .next (s.rescMop e x)
      else
        let t := s.rescTile e x
        .next (t.1.enter e x rw none t.2)

/-! ## Completion (R130, R131) -/

/-- The output descriptor as the device writes it (R130). -/
def State.finalDesc (s : State) (e : Nat) (d src : Desc) : Desc :=
  let w0 := d.w 0 % 2 ^ 56
  let w0 := w0 - fld w0 14 10 <<< 14 + src.tenant <<< 14 + 1 <<< 56
  ((d.set 0 w0).set 2 (src.w 2)).set 13 (s.cmdSeq e)

/-- An earlier instruction of the program has body rows for the same output slot still to write (R130). -/
def State.earlierRows (s : State) (e : Nat) (v : WinEnt) : Bool :=
  (s.eng e).window.any fun u =>
    decide (u.seq < v.seq) && !u.done &&
      (match u.xfer with | some m => !(s.xfer e m).last | none => false) &&
      (insOf u.word).outSlot.isSome && (insOf u.word).outSlot == (insOf v.word).outSlot

/-- TRANSFER_COMPLETE (R131): a transfer whose last row is written writes its output descriptor (R130), completes its
instruction and frees its entry. -/
def execTransferComplete (e : Fin 64) (x : Fin 4) (s : State) : Out :=
  let n := s.xfer e x
  if !n.last then .next s
  else
    match (s.eng e).winOf n.seq with
    | none => .next (s.setXfer e x {})
    | some v =>
      let finish (s : State) (f : WinEnt → WinEnt) : Out :=
        .next ((s.modWin e n.seq fun v => { f v with done := true }).setXfer e x {})
      match n.out, n.cdesc with
      | some (t, d), some src =>
        if s.earlierRows e v then .next s
        else
          match s.descAt e t (s.finalDesc e d src) with
          | (s, none) => finish s fun v => if fld v.word.toNat 120 8 = 0x0A then { v with result := some n.outWord } else v
          | (s, some (_, c)) => finish s fun v => { v with fault := some c, poison := true }
      | _, _ => finish s id

end Sys2Proof.Machine
end

