-- ==== Sys2Proof/Machine/EngineKey.lean ====
section
/-! DEFINITION. The instructions that consume a key ring: KSW, EXTP, BROT, KPACK, and the token of each later ring tile
(R142-R146, R150-R153, R164-R168, R183-R190, R216, R217). -/

namespace Sys2Proof.Machine

open Sys2Proof

/-! ## Evaluation-key headers (R201, R202) -/

/-- The 256 bytes of an evaluation-key header. -/
abbrev KeyHdr := Bytes

def KeyHdr.at_ (h : KeyHdr) (o n : Nat) : Nat := ofLe ((h.drop o).take n)
def KeyHdr.ktype (h : KeyHdr) : Nat := h.at_ 1 1
def KeyHdr.wfmt (h : KeyHdr) : Nat := h.at_ 2 1
def KeyHdr.mont (h : KeyHdr) : Bool := bit (h.at_ 3 1) 0
def KeyHdr.keep (h : KeyHdr) : Bool := bit (h.at_ 3 1) 1
def KeyHdr.dnum (h : KeyHdr) : Nat := h.at_ 4 1
def KeyHdr.nsp (h : KeyHdr) : Nat := h.at_ 5 1
def KeyHdr.gk (h : KeyHdr) : Nat := h.at_ 6 1
def KeyHdr.tenant (h : KeyHdr) : Nat := h.at_ 10 2
def KeyHdr.ksi (h : KeyHdr) : Nat := h.at_ 0x10 4
def KeyHdr.fprint (h : KeyHdr) : Nat := h.at_ 0x18 8
def KeyHdr.bodyLen (h : KeyHdr) : Nat := h.at_ 0x28 8
def KeyHdr.seed (h : KeyHdr) : Bytes := (h.drop 0x30).take 32

/-- Every byte that R201 does not list, and every reserved bit, is zero. -/
def KeyHdr.clear (h : KeyHdr) : Bool :=
  h.at_ 14 2 == 0 && h.at_ 0x24 4 == 0 && ((h.drop 0x50).all fun b => b == 0) && decide (h.at_ 3 1 < 4) && decide (h.at_ 10 2 < 1024)

/-- The ring of the header is the chain's: LOGN, L and K. -/
def KeyHdr.ofChain (h : KeyHdr) (c : Chain) : Bool := h.at_ 7 1 == c.logn && h.at_ 8 1 == c.l && h.at_ 9 1 == c.k

/-- Bytes of a limb row of the stored half. -/
def KeyHdr.rowBytes (h : KeyHdr) (c : Chain) : Nat := c.n * fmtBytes h.wfmt

/-- BODY_LEN as R202 gives it. -/
def KeyHdr.bodyOk (h : KeyHdr) (c : Chain) : Bool :=
  h.bodyLen == (match h.ktype with
    | 1 => h.dnum * (c.l + h.nsp) * h.rowBytes c
    | 2 => (h.gk + 1) * h.dnum * h.rowBytes c
    | _ => h.dnum * h.rowBytes c)

/-! ## Key rings (R143) -/

/-- KR of an instruction. -/
def Ins.kr (i : Ins) : Nat := if i.opc = 0x30 then i.im 50 2 + 1 else i.im 46 2 + 1

/-- Head of ring tile m. -/
def Engine.ringTile (x : Engine) (i : Ins) (m : Nat) : Nat := i.srcb + m * (x.tile i.srcb).len

/-- Every tile of a key tile or span is FULL. -/
def Engine.full (x : Engine) (t : Nat) : Bool := (x.members t).all fun m => (x.tile m).kst == .full

/-- The ring rules of R143: the first tile that breaks them. -/
def Engine.badRing (x : Engine) (i : Ins) : Option Nat :=
  match (List.range i.kr).find? (fun m =>
    let t := x.ringTile i m
    decide (32 ≤ t) || !x.named t || !(x.tile t).key || !x.sameShape t i.srcb) with
  | some m => some (x.ringTile i m)
  | none => if x.full i.srcb then none else some i.srcb

/-- WAIT0 names a queue among Q8 to Q11 (R143). -/
def Ins.ringQueue (i : Ins) : Bool := decide (8 ≤ i.wait0) && decide (i.wait0 ≤ 11)

/-- A tile is a ring tile. -/
def Engine.inRing (x : Engine) (i : Ins) (t : Nat) : Bool := (List.range i.kr).any fun m => x.ringTile i m == t

/-! ## The fields of the four instructions -/

def Ins.dnum (i : Ins) : Nat := i.im 57 3 + 1
def Ins.nsp (i : Ins) : Nat := i.im 53 4 + 1
def Ins.rs (i : Ins) : Bool := i.im 52 1 == 1
def Ins.levels (i : Ins) : Nat := i.im 56 4
def Ins.beta (i : Ins) : Nat := i.im 51 5
def Ins.gk (i : Ins) : Nat := i.im 48 3
def Ins.cnt (i : Ins) : Nat := i.im 34 12 + 1
def Ins.ldim (i : Ins) : Nat := i.im 21 13

/-- Lane passes of a KSW that has used f of its fills (R165, R168, R508): the transforms of step 1, and for each fill its conversion, its
transform and its products, with the closing work of each target that they complete. -/
def kswDone (c : Chain) (i : Ins) (pl f : Nat) : Nat :=
  let lhi := i.lhi
  let nsp := i.nsp
  let r := b2n i.rs
  let dd := c.active i.dnum lhi
  let targets := kswTargets lhi nsp i.rs
  let full := f / dd
  let q := full - nsp
  let special := if nsp ≤ full then 2 * nsp else 0
  let t := lhi + 1 + f + special + 2 * q + r * (2 * q)
  let conv := ((List.range f).map fun j =>
    let dig := c.digit i.dnum lhi (j % dd)
    (if j < dd then dig.length else 0) + (if dig.contains (targets.getD (j / dd) 0) then 0 else dig.length)).sum
  let m := conv + 2 * f + special + q * (2 * nsp + 2) + r * (2 * (q - 1))
  t * gCycles c pl + m * pl

/-- Lane passes of a KSW that runs to its end, with the copies out of its staging (R166, R168, R508). -/
def kswPasses (c : Chain) (i : Ins) (pl : Nat) (srcaIsDst : Bool) : Nat :=
  kswDone c i pl (c.kswFills i.dnum i.lhi i.nsp) + (if srcaIsDst && !i.mop then (i.lhi + 1 - b2n i.rs) * pl else 0)

/-- Passes of a ring consumer's tile. -/
def Engine.ringPl (x : Engine) (c : Chain) (i : Ins) : Nat := x.passes c (if i.opc = 0x30 ∨ i.opc = 0x39 then i.srca else i.dst)

/-- Lane passes of a ring consumer that has used f of its fills (R150, R151, R153, R508; DEDUCED log entry 105: the work that its fills so
far make possible, in the order of its steps). -/
def Engine.ringDone (x : Engine) (c : Chain) (i : Ins) (f : Nat) : Nat :=
  let pl := x.ringPl c i
  let g := gCycles c pl
  let k1 := i.gk + 1
  let fill := i.levels * g + (i.levels + 1) * pl + k1 * i.levels * pl
  match i.opc with
  | 0x30 => kswDone c i pl f
  | 0x39 => f * fill
  | 0x3A => k1 * pl + f * fill
  | _ => i.cnt * i.levels * k1 * pl * cdiv (f + 1) 1024

/-- Lane passes of a ring consumer that runs to its end (R150, R151, R153, R508). -/
def Engine.ringPasses (x : Engine) (c : Chain) (i : Ins) : Nat :=
  let pl := x.ringPl c i
  let k1 := i.gk + 1
  match i.opc with
  | 0x30 => kswPasses c i pl (i.srca == i.dst)
  | 0x39 => x.ringDone c i k1 + k1 * gCycles c pl
  | 0x3A => x.ringDone c i k1 + k1 * gCycles c pl + k1 * pl
  | _ => x.ringDone c i i.ldim + k1 * gCycles c pl

/-! ## Consuming a ring -/

/-- Limbs of a fill (R184, R207). -/
def Ins.fillLimbs (i : Ins) : Nat := if i.opc = 0x30 then 2 else i.levels * (i.gk + 1)

/-- The rows of the fill in a ring tile as plain residues, and whether some element is at or above its modulus: the stored and
the regenerated row of a switching key, or the rows of R184. -/
def Engine.fillRows (x : Engine) (c : Chain) (i : Ins) (t idx : Nat) : Bool × List (List Nat) :=
  let ent := if i.opc = 0x30 then (kswTargets i.lhi i.nsp i.rs).getD (idx / c.active i.dnum i.lhi) 0 else 0
  let rows := (List.range i.fillLimbs).map (x.limb c t)
  (rows.any (anyBad (c.q ent)), rows.map fun r => r.map (c.redc ent))

/-- The passes of a ring tile through latch 0, with their events (R62; DEDUCED log entry 113: each pass of a fill once). The tile's release
then drops the latch (R143). -/
def State.ringLatch (s : State) (e : Nat) (i : Ins) (t : Nat) : State :=
  if i.reuse % 2 = 0 then s
  else
    let x := s.eng e
    let v := x.tile t
    let r := x.through x.latch0 t (i.fillLimbs * (rpl (s.chainOf i.chain) v.width).getD 0) (cdiv v.width 4096)
    let s := s.setEng e { x with latch0 := r.1 }
    (s.event (.engine e) 6 r.2.1).event (.engine e) 7 r.2.2

/-- Read the next ring tile and release it (R143). -/
def State.ringFill (s : State) (e : Nat) (i : Ins) : State :=
  match (s.eng e).ringOp with
  | none => s
  | some r =>
    let t := (s.eng e).ringTile i (r.fills.length % i.kr)
    let s := s.ringLatch e i t
    let x := s.eng e
    let f := x.fillRows (s.chainOf i.chain) i t r.fills.length
    s.setEng e { x.releaseKey t with ringOp := some { r with fills := r.fills ++ [f.2], bad := r.bad || f.1 } }

/-- The tiles zero-filled when a ring consumer stops (R143, R146, R167). -/
def Ins.ringDests (i : Ins) : List Nat := if i.opc = 0x30 then [i.dst, i.srcc, i.srca] else [i.dst]

/-- A ring consumer stops: destinations zero and released, a memory output poisoned, the passes executed counted (R143, R146, R508). -/
def State.ringStop (s : State) (e : Nat) (v : WinEnt) (fault : Option (Code × Nat)) : State :=
  let i := v.iss.i
  let x := s.eng e
  let used := (x.ringOp.map fun r => r.fills.length).getD 0
  let s := s.lanePasses e (x.ringDone (s.chainOf i.chain) i used)
  let s := s.setEng e (i.ringDests.foldl (fun (y : Engine) t => y.zeroTile t) { x with ringOp := none })
  let s := match v.xfer with
    | some n => ((s.poisonOut e (i.im 8 8)).1).setXfer e n {}
    | none => s
  s.modWin e v.seq fun u => match fault with
    | some (c, t) => { u with done := true, poison := true, fault := some c, tile := some t }
    | none => { u with done := true, poison := true, silent := true }

/-- Limbs written as plain residues, in Montgomery form, or free where the operation met undefined elements. -/
def State.putPlain (s : State) (e t : Nat) (c : Chain) (bad : Bool) (ls : List (List Nat)) : State :=
  s.putLimbs e t c.esz 0 (((List.range ls.length).zip ls).map fun kl => (bad, kl.2.map (c.mont kl.1)))

/-- The end of a tile-form KSW (R165, R166): both components, the cleared limb of RS, and SRCA undefined unless it is DST. With SRCC equal
to SRCA, which no rule forbids, the spec states neither result: both components are free values (DESIGN CHOICE log entry 110). -/
def State.kswFinish (s : State) (e : Nat) (x : Iss) (r : RingOp) : State :=
  let c := s.chainOf x.i.chain
  let i := x.i
  let fills := r.fills.map fun f => (f.getD 0 [], f.getD 1 [])
  let out := c.ksw (s.rndOf e x) i.dnum i.lhi i.nsp i.rs r.src fills
  let bad := r.bad || i.srcc == i.srca
  let s := (s.putPlain e i.dst c bad (out.getD 0 [])).putPlain e i.srcc c bad (out.getD 1 [])
  let z (s : State) (t : Nat) : State := if i.rs then s.setEng e ((s.eng e).zeroElems t c.esz (i.lhi * c.n) c.n) else s
  let s := z (z s i.dst) i.srcc
  if i.srca = i.dst then s else s.freeTile e i.srca

/-- The end of EXTP, BROT or KPACK (R186, R187, R190). -/
def State.extFinish (s : State) (e : Nat) (x : Iss) (r : RingOp) : State :=
  let c := s.chainOf x.i.chain
  let i := x.i
  let q := c.q 0
  let out :=
    match i.opc with
    | 0x39 => c.extp i.levels i.beta i.gk r.src r.fills
    | 0x3A =>
      let turned := r.src.map fun p => List.zipWith (fun a b => (a + (q - b)) % q) (mulX q c.logn r.rot p) p
      List.zipWith (addRow q) r.src (c.extp i.levels i.beta i.gk turned r.fills)
    | _ => c.kpack i.levels i.beta i.gk i.ldim r.src r.fills
  s.putLimbs e i.dst c.esz 0 (out.map fun p => (r.bad, p.map (c.mont 0)))

/-- A tile-form ring consumer that has its last fill ends. -/
def State.ringEnd (s : State) (e : Nat) (v : WinEnt) : State :=
  match (s.eng e).ringOp with
  | none => s
  | some r =>
    if r.fills.length < r.total then s
    else
      let x := v.iss
      let s := s.lanePasses e ((s.eng e).ringPasses (s.chainOf x.i.chain) x.i)
      let s := if x.i.opc = 0x30 then s.kswFinish e x r else s.extFinish e x r
      (s.setEng e { s.eng e with ringOp := none }).modWin e v.seq fun u => { u with done := true }

/-! ## KSW with memory operands (R146) -/

/-- The writes of the output limb that the fills read so far complete: one limb of each component, none before the first
q target is complete and none for q_LHI under RS. -/
def State.kswRows (s : State) (e : Nat) (x : Iss) (r : RingOp) (l : Target) (d : Desc) : List (Target × Nat × Nat × Bytes) :=
  let c := s.chainOf x.i.chain
  let i := x.i
  let dd := c.active i.dnum i.lhi
  let f := r.fills.length
  if f % dd ≠ 0 ∨ f / dd ≤ i.nsp then []
  else
    let t := (kswTargets i.lhi i.nsp i.rs).getD (f / dd - 1) 0
    if i.rs ∧ t = i.lhi then []
    else
      let fills := r.fills.map fun g => (g.getD 0 [], g.getD 1 [])
      let out := c.ksw (s.rndOf e x) i.dnum i.lhi i.nsp i.rs r.src fills
      let w := fmtBytes d.wfmt
      (List.range 2).map fun p =>
        let vals := (out.getD p []).getD t []
        (l.plus (d.off p + t * c.n * w), w, (s.eng e).perRow c i.srca * w,
          if r.bad then eltBytes w (s.freeList (p * c.n) c.n) else limbBytes c d t [vals])

/-- Lane passes that a KSW with MOP = 1 has executed: step 1 limb by limb, then its fills (R508, log entry 105). -/
def State.kswMopDone (s : State) (e n : Nat) : Nat :=
  let x := s.holder e n
  let c := s.chainOf x.i.chain
  let pl := (s.eng e).ringPl c x.i
  let v := s.xfer e n
  match (s.eng e).ringOp with
  | some r => if r.fills.isEmpty then (v.limb + b2n (v.kind == .tst)) * gCycles c pl else kswDone c x.i pl r.fills.length
  | none => 0

/-- A KSW with MOP = 1 ends, at its last fill or on a memory fault (R146): the passes that it executed count (R508). -/
def State.kswEnd (s : State) (e n : Nat) (f : Fate) : State :=
  let s := s.lanePasses e (s.kswMopDone e n)
  (s.setEng e { s.eng e with ringOp := none }).settle e n f

/-- The writes of the fills so far go on; the last one ends the KSW (R146). -/
def State.kswWrites (s : State) (e n : Nat) : State :=
  match s.todoRun e n with
  | (s, .done) =>
    match (s.eng e).ringOp with
    | some r => if r.fills.length < r.total then s else s.kswEnd e n .done
    | none => s
  | (s, .halted) => s
  | (s, f) => s.kswEnd e n f

/-- KSW with MOP = 1 goes on after a fill: it writes what the fill completes, and ends with its last fill. -/
def State.kswAfter (s : State) (e n : Nat) : State :=
  match (s.eng e).ringOp, (s.xfer e n).out with
  | some r, some (t, d) =>
    let todo := s.kswRows e (s.holder e n) r t d
    (s.drawn.setXfer e n { s.xfer e n with kind := .tst, pos := {}, todo := todo }).kswWrites e n
  | _, _ => s

/-- One source limb of a KSW with MOP = 1: read, kept, and written in coefficient order to the working buffer, whose contents are undefined
afterwards, so that free values are written to it (R146, log entry 2). -/
def State.kswLimb (s : State) (e n : Nat) : State × Fate :=
  let x := s.holder e n
  let c := s.chainOf x.i.chain
  let lam := (s.xfer e n).limb
  match s.mopRead e n (x.i.im 16 3) lam with
  | (s, .done) =>
    let v := s.xfer e n
    let todo := match (s.eng e).ringOp.bind RingOp.wbuf with
      | some t => [(t.plus (lam * c.n * c.esz), c.esz, (s.eng e).perRow c x.i.srca * c.esz, eltBytes c.esz (s.freeList 0 c.n))]
      | none => []
    (s.drawn.setXfer e n { v with kind := .tst, pos := {}, got := [], kept := v.kept ++ [v.got], todo := todo }).todoRun e n
  | r => r

/-- The source limbs of a KSW with MOP = 1, from where it is; the first argument bounds the limbs left. -/
def State.kswSource (s : State) (e n : Nat) : Nat → State × Fate
  | 0 => (s, .done)
  | k + 1 =>
    let v := s.xfer e n
    match (if v.kind = .tst then s.todoRun e n else s.kswLimb e n) with
    | (s, .done) => if (s.holder e n).i.lhi ≤ v.limb then (s, .done) else (s.nextLimb e n).kswSource e n k
    | r => r

/-- KSW with MOP = 1 goes on: source, working buffer, first fill, then the outputs of each fill (R146). -/
def State.kswRun (s : State) (e n : Nat) : State :=
  let x := s.holder e n
  match (s.eng e).ringOp with
  | none => s
  | some r =>
    if r.fills.isEmpty then
      match s.kswSource e n (x.i.lhi + 1) with
      | (s, .done) =>
        let s := s.setEng e { s.eng e with ringOp := some { r with src := (s.xfer e n).kept } }
        (s.ringFill e x.i).kswAfter e n
      | (s, .halted) => s
      | (s, f) => s.kswEnd e n f
    else s.kswWrites e n

/-! ## KSW (R142, R144, R164-R168, R216, R217) -/

/-- B_SPH (R146, R166). -/
def Ins.bSph (i : Ins) (c : Chain) : Nat :=
  let r := b2n i.rs
  (2 * i.nsp + 2 * r + (if !i.mop && i.dst == i.srca then i.lhi + 1 - r else 0)) * c.n * c.esz

/-- The issue conditions of KSW (R142, R143, R146, R167). A LEVEL_EXHAUSTED refusal whose CSLOT cannot be read keeps that code and makes
no mark (DESIGN CHOICE log entry 112). -/
def State.kswCheck (s : State) (e : Nat) (i : Ins) : Option Res :=
  let x := s.eng e
  let c := s.chainOf i.chain
  let ops := [i.srca, i.dst, i.srcc]
  if !i.ringQueue then some (.bad .shape)
  else
    match x.badRing i with
    | some t => some (Res.shape t)
    | none =>
      match ops.find? (fun t => (x.tile t).key) with
      | some t => some (Res.shape t)
      | none =>
        if i.dst = i.srcc ∨ x.inRing i i.dst then some (Res.shape i.dst)
        else if x.inRing i i.srcc then some (Res.shape i.srcc)
        else if i.llo ≠ 0 ∨ c.k < i.nsp then some (.bad .shape)
        else if i.mop ∧ (i.srca = i.dst ∨ i.srca = i.srcc) then some (Res.shape i.srca)
        else if !i.mop ∧ i.im 0 27 ≠ 0 then some (.bad .shape)
        else
          match x.notHolding c (if i.mop then 1 else i.lhi + 1) ops, ops.find? (fun t => (x.tile t).rowb != (x.tile i.srca).rowb) with
          | some t, _ => some (Res.shape t)
          | none, some t => some (Res.shape t)
          | none, none =>
            if (x.tile i.srcb).rowb ≠ (x.tile i.srca).rowb ∨ !x.holds c i.srcb 2 then some (Res.shape i.srcb)
            else if (s.handleDpa e (i.im 28 6) 0 (i.bSph c)).isNone then some (.bad .shape)
            else if i.rs ∧ i.lhi = 0 then
              some { fault := some .levelExhausted,
                     mark := match s.argSlot e (i.im 34 8) with | (_, .ok l) => some l.word | (_, .error _) => none }
            else none

/-- The refusals of a CSLOT descriptor (R167). -/
def Desc.cslotOk (d : Desc) (i : Ins) : Bool := decide (1 ≤ d.scheme) && decide (d.scheme ≤ 3) && d.chain == i.chain && decide (i.lhi ≤ d.level)

/-- Check 4 of R144 on a header (R216). -/
def State.kswHeader (s : State) (e : Nat) (i : Ins) (d : Desc) (addr : Nat) (h : KeyHdr) : Option Res :=
  let c := s.chainOf i.chain
  let x := s.eng e
  if h.at_ 0 1 ≠ 1 ∨ !h.clear ∨ h.ktype ≠ 1 then some (.bad .badCommand)
  else if h.tenant ≠ x.tenant then some (.bad .tenantMismatch)
  else if h.fprint ≠ d.w 2 ∨ fld addr 8 40 ≠ fld (x.tile i.srcb).tag.toNat 8 40 then
    some { fault := some .keyMismatch, detail1 := addr }
  else if h.dnum ≠ i.dnum ∨ h.nsp ≠ i.nsp ∨ !h.ofChain c ∨ h.gk ≠ 0 ∨ !h.bodyOk c then some (.bad .shape)
  else none

/-- What the checks of KSW leave: the source descriptor of CSLOT, and with MOP = 1 the source, the output and the working
buffer. -/
structure KswArgs where
  cl : Loc
  cd : Desc
  mem : Option (Loc × Desc × Loc × Desc × Loc)

/-- Check 3 of R144 on the memory operands (R146). -/
def State.kswMem (s : State) (e : Nat) (i : Ins) (cl : Loc) (cd : Desc) : State × Except Res KswArgs :=
  if !i.mop then (s, .ok { cl := cl, cd := cd, mem := none })
  else
    let oslot := i.im 8 8
    match s.firstSource e (i.im 19 8) oslot with
    | (s, .error r) => (s, .error { r with result := none })
    | (s, .ok (il, id)) =>
      if !id.mopSourceOk i (i.im 16 3) then (s, .error (.bad .shape))
      else
        match s.readDesc e oslot false with
        | (s, .error (c, _)) => (s, .error (.bad c))
        | (s, .ok (l, d)) =>
          if !d.mopOutputOk i (i.lhi - b2n i.rs) 2 then (s, .error (.bad .shape))
          else
            match s.argSlot e (i.im 0 8) with
            | (s, .error c) => (s, .error (.bad c))
            | (s, .ok wl) =>
              if wl.addr % 4096 ≠ 0 then (s, .error (.bad .shape))
              else (s, .ok { cl := cl, cd := cd, mem := some (il, id, l, d, wl) })

/-- Checks 3 and 4 of R144. -/
def State.kswArgs (s : State) (e : Nat) (i : Ins) : State × Except Res KswArgs :=
  let source : State × Except Res (Loc × Desc) :=
    if i.mop then s.firstSource e (i.im 34 8) (i.im 8 8)
    else
      match s.readDesc e (i.im 34 8) true with
      | (s, .ok ld) => (s, .ok ld)
      | (s, .error (c, _)) => (s, .error (.bad c))
  match source with
  | (s, .error r) => (s, .error { r with result := none })
  | (s, .ok (cl, cd)) =>
    if !cd.cslotOk i then (s, .error (.bad .shape))
    else
      match s.kswMem e i cl cd with
      | (s, .error r) => (s, .error r)
      | (s, .ok a) =>
        match s.argSlot e (i.im 42 8) with
        | (s, .error c) => (s, .error (.bad c))
        | (s, .ok kl) =>
          match s.locRead e kl 0 256 with
          | (s, _, some (_, c)) => (s, .error (.bad c))
          | (s, h, none) =>
            match s.kswHeader e i cd kl.addr h with
            | some r => (s, .error r)
            | none => (s, .ok a)

/-- n bytes of device memory become free values: the spec leaves their contents undefined (log entry 2). -/
def State.freeMem (s : State) (a n : Nat) : State :=
  ({ s with mem := memPut s.mem 0 a ((List.range n).map fun k => BitVec.ofNat 8 (s.free k)) }).drawn

/-- The SPH buffer's contents are undefined once KSW uses it (R166). -/
def State.useSph (s : State) (e : Nat) (i : Ins) : State :=
  let n := i.bSph (s.chainOf i.chain)
  match s.handleDpa e (i.im 28 6) 0 n with
  | some a => s.freeMem a n
  | none => s

/-- KSW after its issue stages (R123, R144). -/
def State.ksw (s : State) (e : Nat) (x : Iss) : State :=
  let rw := (s.eng e).rw x.i
  let i := x.i
  let c := s.chainOf i.chain
  let stop (s : State) (r : Res) : State := s.enter e x rw none r
  match (match s.issueCheck e i with | some r => some r | none => s.kswCheck e i) with
  | some r => stop s r
  | none =>
    match s.kswArgs e i with
    | (s, .error r) => stop s r
    | (s, .ok a) =>
      let total := c.kswFills i.dnum i.lhi i.nsp
      match a.mem with
      | some (il, id, l, d, wl) =>
        if (a.cd.scheme = 2 ∨ a.cd.scheme = 3) ∧ (d.scheme = 2 ∨ d.scheme = 3) ∧ d.noiseRefused c then
          stop (s.poisonAt e l).1 { fault := some .noiseExhausted, mark := some a.cl.word }
        else if !s.reaches e (il.plus (id.off (i.im 16 3))) ((i.lhi + 1) * c.n * fmtBytes id.wfmt) ∨
            !s.reaches e wl ((i.lhi + 1) * c.n * c.esz) ∨ !s.reaches e l (d.off 0 + d.polySize) ∨
            !s.reaches e l (d.off 1 + d.polySize) then stop s (.bad .shape)
        else
          let op : RingOp := { seq := x.seq, word := x.w, src := [], total := total, rot := 0, bad := false, fills := [],
                               wbuf := some (s.locTarget e wl) }
          let s := (((s.useSph e i).freeTile e i.srca).freeTile e i.dst).freeTile e i.srcc
          let s := s.setEng e { s.eng e with ringOp := some op }
          let t := s.hold e x { kind := .tld, src := some (s.locTarget e il, id), out := some (s.locTarget e l, d), cdesc := some a.cd }
          t.1.kswRun e t.2
      | none =>
        let src := (s.eng e).plain c i.srca (List.range (i.lhi + 1))
        let op : RingOp := { seq := x.seq, word := x.w, src := src.2, total := total, rot := 0, bad := src.1, fills := [], wbuf := none }
        let s := (s.useSph e i)
        let s := s.setEng e { s.eng e with ringOp := some op }
        (s.ringFill e i).enter e x rw none { done := false }

/-- KSW (R142). -/
def execKsw (e : Fin 64) (s : State) : Out :=
  match s.issue e (fun o => o == 0x30) with
  | .stay s => .next s
  | .go s x => .next (s.ksw e x)

/-! ## EXTP, BROT, KPACK (R150, R151, R153, R184-R190) -/

/-- The issue conditions that EXTP, BROT and KPACK share (R148, R185, R188): `fills` of them for one instruction. -/
def State.extCheck (s : State) (e : Nat) (i : Ins) (fills : Nat) : Option Res :=
  let x := s.eng e
  let c := s.chainOf i.chain
  if !i.ringQueue ∨ !c.split ∨ i.basis ∨ i.llo ≠ 0 ∨ i.lhi ≠ 0 ∨ fills % i.kr ≠ 0 then some (.bad .shape)
  else
    match x.badRing i with
    | some t => some (Res.shape t)
    | none =>
      if !x.holds c i.srcb (i.levels * (i.gk + 1)) then some (Res.shape i.srcb)
      else if !x.holds c i.dst (i.gk + 1) ∨ x.inRing i i.dst then some (Res.shape i.dst)
      else none

/-- A ring consumer of R185 begins: it keeps its source and reads ring tile 0. -/
def State.extStart (s : State) (e : Nat) (x : Iss) (fills rot : Nat) (bad : Bool) (src : List (List Nat)) : State :=
  let rw := (s.eng e).rw x.i
  let op : RingOp := { seq := x.seq, word := x.w, src := src, total := fills, rot := rot, bad := bad, fills := [], wbuf := none }
  let s := (s.setEng e { s.eng e with ringOp := some op }).enter e x rw none { done := false }
  let s := if fills = 0 then s else s.ringFill e x.i
  match (s.eng e).winOf x.seq with
  | some v => s.ringEnd e v
  | none => s

/-- EXTP (R150, R186). -/
def execExtp (e : Fin 64) (s : State) : Out :=
  match s.issue e (fun o => o == 0x39) with
  | .stay s => .next s
  | .go s x =>
    let i := x.i
    let y := s.eng e
    let c := s.chainOf i.chain
    match (match s.issueCheck e i with | some r => some r | none => s.extCheck e i (i.gk + 1)) with
    | some r => .next (s.enter e x (y.rw i) none r)
    | none =>
      if !y.sameShape i.srca i.dst then .next (s.enter e x (y.rw i) none (Res.shape i.srca))
      else
        let src := y.plain c i.srca (List.replicate (i.gk + 1) 0)
        .next (s.extStart e x (i.gk + 1) 0 src.1 src.2)

/-- BROT (R151, R187): the rotation is the residue at element I + CT(CIX) of SRCA's record. -/
def execBrot (e : Fin 64) (s : State) : Out :=
  match s.issue e (fun o => o == 0x3A) with
  | .stay s => .next s
  | .go s x =>
    let i := x.i
    let y := s.eng e
    let c := s.chainOf i.chain
    let step := i.im 34 12 + (if i.im 31 3 = 0 then 0 else (y.ctv (i.im 31 3)).toNat)
    match (match s.issueCheck e i with | some r => some r | none => s.extCheck e i (i.gk + 1)) with
    | some r => .next (s.enter e x (y.rw i) none r)
    | none =>
      if i.srca = i.dst ∨ (y.tile i.srca).key ∨ y.capacity i.srca c.esz ≤ step then
        .next (s.enter e x (y.rw i) none (Res.shape i.srca))
      else
        let src := y.plain c i.dst (List.replicate (i.gk + 1) 0)
        let a := (y.elems i.srca c.esz step 1).getD 0 0
        .next (s.extStart e x (i.gk + 1) (c.redc 0 a) (src.1 || decide (c.q 0 ≤ a)) src.2)

/-- KPACK (R153, R190). -/
def execKpack (e : Fin 64) (s : State) : Out :=
  match s.issue e (fun o => o == 0x3C) with
  | .stay s => .next s
  | .go s x =>
    let i := x.i
    let y := s.eng e
    let c := s.chainOf i.chain
    match (match s.issueCheck e i with | some r => some r | none => s.extCheck e i i.ldim) with
    | some r => .next (s.enter e x (y.rw i) none r)
    | none =>
      let per := y.perRow c i.srca
      let w := cdiv (i.ldim + 1) per
      if c.n < i.cnt then .next (s.enter e x (y.rw i) none (.bad .shape))
      else if (y.tile i.srca).lrows < i.cnt * w then .next (s.enter e x (y.rw i) none (Res.shape i.srca))
      else
        let recs := (List.range i.cnt).map fun r => y.elems i.srca c.esz (r * w * per) (i.ldim + 1)
        .next (s.extStart e x i.ldim 0 (recs.any (anyBad (c.q 0))) (recs.map fun r => r.map (c.redc 0)))

/-- RING_TOKEN_TAKE (R143): the running ring consumer removes one further token from WAIT0 and uses the next ring tile. -/
def execRingTokenTake (e : Fin 64) (s : State) : Out :=
  let x := s.eng e
  match x.ringOp with
  | none => .next s
  | some r =>
    match x.winOf r.seq with
    | none => .next s
    | some v =>
      let i := v.iss.i
      let busy : Bool := match v.xfer with
        | some n => (s.xfer e n).fault || !(s.xfer e n).todo.isEmpty || (s.xfer e n).last
        | none => false
      match x.queue i.wait0 with
      | [] => .next s
      | t :: _ =>
        if busy || r.fills.isEmpty then .next s
        else
          let s := s.setEng e (x.pop i.wait0)
          let tile := x.ringTile i (r.fills.length % i.kr)
          if t.poison then .next (s.ringStop e v none)
          else if !x.full tile then .next (s.ringStop e v (some (.shape, tile)))
          else
            let s := s.ringFill e i
            match v.xfer with
            | some n => .next (s.kswAfter e n)
            | none => .next (s.ringEnd e v)

end Sys2Proof.Machine
end

