-- ==== Sys2Proof/Machine/Access.lean ====
section
/-! DEFINITION. What every register write passes before its own effect: the rights of a function, a takeover scan, a freeze,
the block's power state (R473, R476, R483, R489). -/

namespace Sys2Proof.Machine

open Sys2Proof

/-- A refused access is recorded on its page. DETAIL is block-specific and the spec gives no value for it here: a free value
(R469, log entry 2). -/
def State.refuse (s : State) (p : Page) (c : Code) : State := (s.recordErr p c (s.free 0)).drawn

/-- The physical function, or a virtual function of tenant t (R384, R473). -/
def State.mayUse (s : State) (port fn t : Nat) : Bool := fn == 0 || (s.fn port fn).tenant == t

/-- The half of a lost controller waits for the survivor's takeover scan (R419, R489). -/
def State.scanHolds (s : State) (c : Ctl) : Bool := (s.mgmt c).lost && s.geode.scan

/-- Writes to a page wait for a takeover scan (R489). -/
def State.heldPage (s : State) (p : Page) : Bool := (p.half.map s.scanHolds).getD false

/-- Pages whose writes the controller that holds the ownership epoch applies (R19, R474). -/
def Page.ofHolder : Page → Bool
  | .dev | .journal | .lie => true
  | _ => false

/-- No controller holds the epoch, so nobody applies a write of device-wide state (R19, R474; log entry 104). -/
def State.leaderless (s : State) (p : Page) : Bool := p.ofHolder && s.geode.holder.isNone

/-- A write to a block register is applied unless it waits for a takeover scan, the function has no right to it, management
is frozen, nobody holds the epoch, or the block is not ON (R19, R473, R476, R483, R489). -/
def State.gate (s : State) (p : Page) (allowed : Bool) (k : State → State) : State :=
  if s.heldPage p then s
  else if !allowed then s.refuse p .permission
  else if s.geode.frozen then s.refuse p .divergence
  else if s.leaderless p then s
  else if !s.blkOn p then s.refuse p .badCommand
  else k s

/-- A write that the supervisors apply themselves goes on while the block is ON (R476). -/
def State.inner (s : State) (p : Page) (k : State → State) : State := if s.blkOn p then k s else s.refuse p .badCommand

/-! ## The hosts' memory and interrupts (R358, R359) -/

/-- Bytes written into the memory of the host at a port, with a function's requester ID. Where an IDE stream covers the function, the request
travels in it: the link stream covers every function; which ones a selective stream covers is not stated, a free value (R355, R358; log
entry 122). -/
def State.hostPut (s : State) (port fn a : Nat) (bs : Bytes) : State :=
  let p := s.port port
  let ide := p.ideLink || (p.ideSel != 0 && s.free 0 % 2 == 1)
  { s.drawn with hostOut := memPut s.hostOut 0 (2 ^ 64 * port + a % 2 ^ 64) bs, hostReq := (port, fn, ide) }

end Sys2Proof.Machine
end

