-- ==== Sys2Proof/Machine/ErrorLog.lean ====
section
/-! DEFINITION. Error records: from the Sumps and the blocks to the error rings of both hosts (R420-R424, R432, R511). -/

namespace Sys2Proof.Machine

open Sys2Proof

/-! ## Forming a record (R422-R424) -/

/-- A record whose source is a block. -/
def Page.errRec (p : Page) (cls : Cls) (code : Code) : ErrRec :=
  { cls := cls, code := code, btype := p.type, binst := p.place.1, bloc := p.place.2 }

/-- A class that a full buffer gives up (R424). -/
def Cls.low : Cls → Bool
  | .tenant | .corrected => true
  | _ => false

/-- A class that asserts ERR_N (R511). -/
def Cls.severe : Cls → Bool
  | .lost | .divergence => true
  | _ => false

/-- The first record of a class that may be given up leaves a buffer, if there is one (R424). -/
def dropLow : List ErrRec → Option (List ErrRec)
  | [] => none
  | r :: l => if r.cls.low then some l else (dropLow l).map (r :: ·)

/-- A counter of lost records, saturating (R432 ERQ_LOST). -/
def bumpLost (v : Word32) : Word32 := if v = 0xFFFFFFFF#32 then v else v + 1

/-- A record joins a controller's buffer of 1,024 records (R424). -/
def Mgmt.buffer (m : Mgmt) (r : ErrRec) : Mgmt :=
  if m.buf.length < 1024 then { m with buf := m.buf ++ [r] }
  else if r.cls.low then { m with erqLost := bumpLost m.erqLost }
  else
    match dropLow m.buf with
    | some l => { m with buf := l ++ [r], erqLost := bumpLost m.erqLost }
    | none => { m with erqLost := bumpLost m.erqLost, severe := true }

/-- A record takes its RSEQ from the epoch holder and waits for both rings (R422). -/
def State.bufferErr (s : State) (r : ErrRec) : State :=
  let r := { r with rseq := s.dev.rseq + 1 }
  { s with dev := { s.dev with rseq := s.dev.rseq + 1 }, mgmtW := s.mgmtW.buffer r, mgmtE := s.mgmtE.buffer r }

/-- Two records of one source and one code (R424). -/
def ErrRec.same (a b : ErrRec) : Bool :=
  a.btype == b.btype && a.binst == b.binst && a.bloc == b.bloc && a.code == b.code

/-- A record is raised: a CORRECTED one merges with the first of its source and code until its interval ends (R424). -/
def State.logErr (s : State) (r : ErrRec) : State :=
  if r.cls = .corrected then
    let d := s.dev
    if (d.merges.any fun m => m.rcd.same r) then
      let bump (m : Merge) : Merge :=
        if m.rcd.same r then { m with rcd := { m.rcd with count := min (m.rcd.count + 1) 0xFFFFFFFF } } else m
      { s with dev := { d with merges := d.merges.map bump } }
    else { s with dev := { d with merges := d.merges ++ [{ id := d.mergeId, rcd := r }], mergeId := d.mergeId + 1 } }
  else s.bufferErr r

/-- SEQ of the entry that a journal slot holds (R361). -/
def JSlot.seq (x : JSlot) : Nat := fld x.entry.toNat 64 64
/-- The tenant, flags and deadline budget of the entry that a slot holds (R361). -/
def JSlot.tenant (x : JSlot) : Nat := fld x.entry.toNat 32 10
def JSlot.irq (x : JSlot) : Bool := bit x.entry.toNat 8
def JSlot.dep (x : JSlot) : Bool := bit x.entry.toNat 9
def JSlot.opc (x : JSlot) : Nat := fld x.entry.toNat 0 8
def JSlot.cq (x : JSlot) : Nat := fld x.entry.toNat 24 4
def JSlot.prog (x : JSlot) : Nat := fld x.entry.toNat 128 64
def JSlot.args (x : JSlot) : Nat := fld x.entry.toNat 192 64
def JSlot.budget (x : JSlot) : Nat := fld x.entry.toNat 256 64

/-- SEQ, PORT, FUNC, RING and DISP of a journal slot for a record (R422). -/
def State.cmdOf (s : State) (slot : Nat) : Word64 × Nat × Nat × Nat × Nat :=
  let x := s.slotJ slot
  (BitVec.ofNat 64 x.seq, x.port, x.fn, x.ring, x.disp)

/-! ## Frozen contexts (R428) -/

/-- DPA of slot n in copy A or B (R370). -/
def Journal.copyDpa (j : Journal) (b : Bool) (n : Nat) : Nat := (if b then j.baseB else j.baseA).toNat + 512 * n

/-- Index of a submission ring in the ring table; a completion ring is 16 further (R375). -/
def ringIdx (p f n : Nat) : Nat := (64 * p + f) * 32 + n

/-- The tenants of a frozen slot: those that its two copies name (R428). -/
def State.frozenTenants (s : State) : List Nat :=
  (s.journal.frozen.filter (· < 8192)).flatMap fun n =>
    [fld (s.num (s.journal.copyDpa false n + 4) 2) 0 10, fld (s.num (s.journal.copyDpa true n + 4) 2) 0 10]

/-- Nothing of a frozen context executes (R428): a command's tenant, or its ring. -/
def State.slotFrozen (s : State) (n : Nat) : Bool :=
  let x := s.slotJ n
  s.journal.frozen.contains n || s.frozenTenants.contains x.tenant || s.journal.frozen.contains (8192 + ringIdx x.port x.fn x.ring)

/-- Engine e runs a command of a frozen context. -/
def State.engFrozen (s : State) (e : Nat) : Bool := match (s.eng e).slot with | some n => s.slotFrozen n | none => false

/-! ## The Sump (R420, R421) -/

/-- The block that a Sump record's UNIT and PLACE name (R420, R463). -/
def sumpPage (g : Nat) (r : SumpRec) : Page :=
  let p := r.place.toNat
  match r.unit.toNat with
  | 0 => .engine (4 * g + p)
  | 1 => .stream (4 * g + p)
  | 2 => .helper (2 * g + p)
  | 3 => .vec g
  | 4 => .drip g
  | 5 => .msg (8 * g + p)
  | _ => .gallery g

/-- The error record of a Sump record (R422). -/
def State.sumpErr (s : State) (g : Nat) (r : SumpRec) : ErrRec :=
  { (sumpPage g r).errRec (Cls.ofNum r.cls.toNat) (Code.ofNum r.code.toNat) with
    tenant := r.tenant.map (·.val), d0 := r.detail0, d1 := r.detail1,
    cmd := r.slot.map fun n =>
      let c := s.cmdOf n.val
      (c.1, c.2.1, c.2.2.1, c.2.2.2.1, r.disp.toNat) }

/-- SUMP_RECORD (R420, R421). -/
def execSumpRecord (g : Fin 16) (r : SumpRec) (s : State) : Out := .next (s.sumpPut g r)

/-- SUMP_DRAIN (R421, R422): the oldest record of a gallery becomes an error record; the records of a lost half wait for the
survivor's scan (R430). -/
def execSumpDrain (g : Fin 16) (s : State) : Out :=
  if s.heldPage (.gallery g) ∨ (s.mgmtW.lost ∧ s.mgmtE.lost) then .next s
  else
    match (s.gal g).sump with
    | [] => .next s
    | r :: l => .next ((s.setGal g { s.gal g with sump := l }).logErr (s.sumpErr g r))

/-- MERGE_INTERVAL_EXPIRE (R424): the merged record is posted with its count. -/
def execMergeIntervalExpire (id : Nat) (s : State) : Out :=
  match s.dev.merges.find? fun m => m.id == id with
  | none => .next s
  | some m => .next ({ s with dev := { s.dev with merges := s.dev.merges.filter fun x => x.id != id } }.bufferErr m.rcd)

/-! ## The error rings (R422, R432) -/

/-- The port that a controller's error ring serves (R422). -/
def portOf : Ctl → Nat
  | .W => 0
  | .E => 1

/-- The 64 bytes of a record (R422). -/
def ErrRec.image (r : ErrRec) (wall : Word64) (phase : Bool) : Bytes :=
  let c := r.cmd.getD (0, 0, 0, 0, 0)
  leBytes 8 r.rseq ++ leBytes 1 r.cls.num ++ leBytes 1 r.code.num ++ leBytes 2 r.btype ++ leBytes 1 r.binst ++
    leBytes 1 r.bloc ++ leBytes 2 (match r.tenant with | some t => 2 ^ 15 + t | none => 0) ++ leBytes 8 c.1.toNat ++
    leBytes 1 c.2.1 ++ leBytes 1 c.2.2.1 ++ leBytes 2 c.2.2.2.1 ++ leBytes 4 c.2.2.2.2 ++ leBytes 8 r.d0.toNat ++
    leBytes 8 r.d1.toNat ++ leBytes 8 wall.toNat ++ leBytes 7 r.count ++
    leBytes 1 (b2n phase + 2 * b2n r.cmd.isSome)

/-- The error ring takes a record: EN, no failed posting write, and room before the host's head (R360, R432). -/
def Mgmt.canPost (m : Mgmt) : Bool :=
  m.erqEn && !m.erqErr && m.erqSize != 0 && (m.erqTail + 1) % m.erqSize != m.erqHead % m.erqSize

/-- Nothing can be posted at a port: its link is down, or no controller serves it (R418, R422, R495). -/
def State.unserved (s : State) (p : Nat) : Bool := !(s.port p).up || (s.port p).perst || (s.mgmtW.lost && s.mgmtE.lost)

/-- ERROR_RECORD_POST (R422): the oldest buffered record of a controller's port is written into its ring. A failed write sets
ERR; the record stays buffered and posting waits for EN (log entry 19). -/
def execErrorRecordPost (c : Ctl) (hostOk : Bool) (s : State) : Out :=
  let m := s.mgmt c
  match m.buf with
  | [] => .next s
  | r :: l =>
    if !m.canPost ∨ s.scanHolds c ∨ s.unserved (portOf c) then .next s
    else if !hostOk then .next (s.setMgmt c { m with erqErr := true })
    else
      let wrap := m.erqTail + 1 == m.erqSize
      let s1 := s.hostPut (portOf c) 0 (m.erqBase.toNat + 64 * m.erqTail) (r.image (s.fn (portOf c) 0).wall m.erqPhase)
      let s2 := s1.setMgmt c { m with
        buf := l, erqTail := if wrap then 0 else m.erqTail + 1, erqPhase := m.erqPhase ^^ wrap,
        shown := if r.cls.severe then m.shown ++ [m.erqTail] else m.shown }
      .next (s2.msixTo (portOf c) 0 m.erqIv)

/-- Writes of the error-ring registers are served in a freeze, and wait for a takeover scan (R483, R489). -/
def State.erqGate (s : State) (c : Ctl) (k : State → State) : State := if s.heldPage (.mgmt c) then s else k s

/-- A write of ERQ_CTL (R360, R432). -/
def State.erqCtl (s : State) (c : Ctl) (val : Nat) : State :=
  let m := s.mgmt c
  let en := bit val 31
  let iv := fld val 0 6
  if en && !m.erqEn then
    if m.erqSize < 64 ∨ 65536 < m.erqSize then s.refuse (.mgmt c) .badCommand
    else s.setMgmt c { m with erqEn := true, erqIv := iv, erqErr := false, erqTail := 0, erqHead := 0, erqPhase := true,
                              shown := [] }
  else s.setMgmt c { m with erqEn := en, erqIv := iv }

/-- ERQ_EN_WRITE (R432). -/
def execErqEnWrite (c : Ctl) (val : Word32) (s : State) : Out := .next (s.erqGate c fun s => s.erqCtl c val.toNat)

/-- A ring index lies in [lo, hi) counted around a ring of n entries. -/
def ringBetween (n lo hi i : Nat) : Bool := decide ((i + n - lo) % n < (hi + n - lo) % n)

/-- A write of ERQ_HEAD (R360, R432, R511): a value at or above SIZE is ignored; the records that the head passes are no
longer pending. -/
def State.erqHeadPut (s : State) (c : Ctl) (val : Nat) : State :=
  let m := s.mgmt c
  let h := fld val 0 17
  if m.erqSize ≤ h then s.refuse (.mgmt c) .badCommand
  else s.setMgmt c { m with erqHead := h, shown := m.shown.filter fun i => !ringBetween m.erqSize m.erqHead h i }

/-- ERQ_HEAD_WRITE (R432). -/
def execErqHeadWrite (c : Ctl) (val : Word32) (s : State) : Out := .next (s.erqGate c fun s => s.erqHeadPut c val.toNat)

/-- A controller's ring keeps a LOST or DIVERGENCE record pending (R511). -/
def Mgmt.pendingSevere (m : Mgmt) : Bool := (m.buf.any fun r => r.cls.severe) || (m.erqEn && !m.shown.isEmpty)

/-- ERR_N is asserted (R511). -/
def State.errN (s : State) : Bool :=
  s.mgmtW.pendingSevere || s.mgmtE.pendingSevere || s.pins.lost0 || s.pins.lost1 || s.pins.lostL || s.pins.lostO

end Sys2Proof.Machine
end

