-- ==== Sys2Proof/Machine/StreamUnit.lean ====
section
/-! DEFINITION. Stream slots: their image, their start, their settings, and what every slot step shares (R238-R247, R252,
R254). -/

namespace Sys2Proof.Machine

open Sys2Proof

/-! ## A slot's program -/

/-- Instructions of a slot (R239 NINSTR). -/
def Slot.ninstr (x : Slot) : Nat := hdrNinstr (x.word 0)

/-- The instruction at PC (R266: PC counts from 0, word 1 is the first instruction). -/
def Slot.instr (x : Slot) : Nat := x.word (x.pc + 1)

/-- A slot that executes: RUNNING, or DRAINING (R241). -/
def Slot.live (x : Slot) : Bool := x.st == .running || x.st == .draining

def State.slotOf (s : State) (e n : Nat) : Slot := (s.strm e).slot n
def State.setSlotOf (s : State) (e n : Nat) (x : Slot) : State := s.setStrm e ((s.strm e).setSlot n x)

/-- The stream unit of an engine works: it is ON, and its engine runs, stops, halts or saves. -/
def State.strmLive (s : State) (e : Nat) : Bool :=
  s.blkOn (.stream e) && !(s.eng e).inReset &&
    match (s.eng e).st with
    | .running | .stopped | .halted | .saving => true
    | _ => false

/-- The slot's entry is released (R243). -/
def State.dropEnt (s : State) (e n : Nat) : State :=
  let x := s.slotOf e n
  match x.ent with
  | some k => (s.setXfer e k {}).setSlotOf e n { x with ent := none }
  | none => s

/-- A slot that moves data holds an entry: it has one, or takes the lowest free one; none: it waits (R243, log entry 14). A
draining slot needs none. -/
def State.needEnt (s : State) (e n : Nat) : Option State :=
  let x := s.slotOf e n
  if x.st = .draining ∨ x.ent.isSome then some s
  else
    match (s.strm e).freeEnt with
    | some k => some ((s.setXfer e k { kind := .slot, slot := n }).setSlotOf e n { x with ent := some k })
    | none => none

/-- A slot that has finished its last instruction and whose tokens and transfers have been delivered becomes ARMED again or DONE (R241, R243). -/
def State.slotDone (s : State) (e n : Nat) : State :=
  let x := s.slotOf e n
  if x.pc < x.ninstr ∨ !x.out.isEmpty ∨ x.kf.isSome ∨ x.pos.isSome ∨ (s.dev.transfers.any fun t => t.eng == e && t.slot == n) then s
  else
    let again := fld (x.word 0) 46 2 == 0 && bit (x.word 0) 45
    (s.dropEnt e n).setSlotOf e n
      { words := x.words, st := if again then .armed else .done, pc := if again then 0 else x.pc, xcount := x.xcount }

/-- A slot step: the slot executes, every token before this instruction has been delivered, its instruction has this opcode,
and it holds an entry where it needs one. -/
def State.slotStep (s : State) (e n sop : Nat) (k : State → State) : State :=
  let x := s.slotOf e n
  if s.strmLive e && x.live && decide (x.pc < x.ninstr) && x.out.isEmpty && sopOf x.instr == sop then
    match s.needEnt e n with
    | some s => k s
    | none => s
  else s

/-- A setting takes effect and the slot goes on (R241, R244). -/
def State.slotSet (s : State) (e n sop : Nat) (f : Slot → Nat → Slot) : State :=
  s.slotStep e n sop fun s =>
    let x := s.slotOf e n
    (s.setSlotOf e n { f x x.instr with pc := x.pc + 1 }).slotDone e n

/-- The Sump record of a slot's failure (R252, R420). DETAIL0 of a stream unit is not stated: a free value. -/
def State.slotRecord (s : State) (e pc sop : Nat) (c : Code) (d1 : Nat) : SumpRec :=
  let x := s.eng e
  { code := c.byte, cls := if c = .eccUncorrectable then 6 else 0, unit := 1, place := BitVec.ofNat 8 (e % 4),
    tenant := some (Fin.ofNat 1024 x.tenant), op := BitVec.ofNat 8 sop, slot := x.slot.map (Fin.ofNat 8192),
    disp := match x.slot with | some n => BitVec.ofNat 16 (s.slotJ n).disp | none => 0,
    fpc := BitVec.ofNat 32 pc, detail0 := BitVec.ofNat 64 (s.free 0), detail1 := BitVec.ofNat 64 d1 }

/-- A slot fails: one Sump record, and it drains without an entry (R252, R243; log entry 20). -/
def State.slotFail (s : State) (e n sop : Nat) (c : Code) (d1 : Nat) : State :=
  let x := s.slotOf e n
  let s := (s.sumpPut (e / 4) (s.slotRecord e x.pc sop c d1)).drawn
  (s.setSlotOf e n { s.slotOf e n with st := .draining }).dropEnt e n

/-! ## The stream image (R239, R240, R363) -/

/-- The 32 words of each slot, as numbers. -/
def imageSlots (b : Bytes) : List (List Nat) := (List.range 4).map fun k => eltsOf 8 32 (b.drop (256 * k))

/-- The words of a slot with the ENGINE field of an EMIT with TGT 1 or 2 after a MEM destination resolved through the run's
engines; none where a field is at or above NENG (R363). -/
def remapEmits (engs : List Nat) : Bool → List Nat → Option (List Nat)
  | _, [] => some []
  | d, w :: r =>
    let d' := if sopOf w = 2 then fld w 56 3 == 2 else d
    let tgt := fld w 54 2
    if sopOf w = 7 ∧ d ∧ (tgt = 1 ∨ tgt = 2) then
      match engs[fld w 48 6]? with
      | some k => (remapEmits engs d' r).map ((w - fld w 48 6 <<< 48 + k <<< 48) :: ·)
      | none => none
    else (remapEmits engs d' r).map (w :: ·)

/-- The engines through which a run resolves its EMITs; none without EMAP (R363). -/
def State.emapOf (s : State) (e : Nat) : Option (List Nat) :=
  match (s.eng e).slot with
  | some n =>
    match tget s.journal.runs n none with
    | some r => if r.emap then some r.engines else none
    | none => none
  | none => none

/-- One slot of an image, checked and resolved (R240, R363). -/
def slotImage (emap : Option (List Nat)) (ws : List Nat) : Option (List Nat) :=
  if !slotWordsOk ws then none
  else
    match emap with
    | some engs => if (sopsOf ((ws.drop 1).take (hdrNinstr (ws.getD 0 0)))).contains 9 then some ws else remapEmits engs false ws
    | none => some ws

/-- Read and check the stream image at SIMG_BASE: the words of each slot, none used where SIMG_BASE is zero (R240). -/
def State.readImage (s : State) (e : Nat) : State × Except Code (List (List Nat)) :=
  let a := (s.strm e).simgBase.toNat
  if a = 0 then (s, .ok [])
  else if a % 1024 ≠ 0 then (s, .error .badCommand)
  else
    match s.vRead (some (e / 4)) (s.eng e).tenant 0 a 1024 with
    | (s, b, none) =>
      match (imageSlots b).mapM (slotImage (s.emapOf e)) with
      | some l => (s, .ok l)
      | none => (s, .error .badCommand)
    | (s, _, some (_, c)) => (s, .error c)

/-- The slot that an image's words make, before it starts (R239, R244). -/
def slotOfWords (ws : List Nat) : Slot := { words := ws.map (BitVec.ofNat 64) }

/-- The slots at START: START = 1 runs, START = 0 is armed (R241). -/
def startSlot (ws : List Nat) : Slot :=
  let h := ws.getD 0 0
  if fld h 56 8 = 0 then {} else { slotOfWords ws with st := if fld h 46 2 = 1 then .running else .armed }

/-- The stream unit loads an image: every entry free, every slot as at START; a running slot takes an entry (R241, R243). -/
def State.loadSlots (s : State) (e : Nat) (img : List (List Nat)) : State :=
  let y := s.strm e
  let s := s.setStrm e { y with slots := (List.range 4).map (fun n => (n, startSlot (img.getD n []))), ents := [] }
  (List.range 4).foldl (fun t n => if (t.slotOf e n).st = .running then (t.needEnt e n).getD t else t) s

/-! ## SLOT_START (R241, R242, R243) -/

/-- Iterations of one turn of level l (R248). -/
def Slot.below (x : Slot) (l : Nat) : Nat := (List.range l).foldl (fun p k => p * (tget x.lvls k {}).count) 1

/-- Iterations before a position (R248). -/
def Slot.iter (x : Slot) (p : Pos) : Nat := p.i0 + x.below 1 * p.i1 + x.below 2 * p.i2 + x.below 3 * p.i3

/-- The position of iteration t. -/
def Slot.posAt (x : Slot) (t o : Nat) : Pos :=
  let c (k : Nat) : Nat := (tget x.lvls k {}).count
  { i0 := t % c 0, i1 := t / x.below 1 % c 1, i2 := t / x.below 2 % c 2, i3 := t / x.below 3, o := o }

/-- GATE of a MOVE (R248). -/
def mvGate (w : Nat) : Nat := fld w 34 3

/-- A Q14 token is removed before iteration t (R248). -/
def Slot.gateAt (x : Slot) (t : Nat) : Bool :=
  let g := mvGate x.instr
  if g = 0 then false else if g = 5 then t == 0 else t % x.below (g - 1) == 0

/-- The slot waits on Q14: ARMED, PARKED at a gate, or draining at one (R242, R252). -/
def Slot.waits (x : Slot) : Bool :=
  match x.st with
  | .armed | .parked => true
  | .draining =>
    x.out.isEmpty && sopOf x.instr == 6 && (match x.pos with | some p => !x.passed && x.gateAt (x.iter p) | none => false)
  | _ => false

/-- The head token of Q14 goes to this slot: no lower-numbered slot waits (R242). -/
def State.q14For (s : State) (e n : Nat) : Option Token :=
  if (List.range n).any fun k => (s.slotOf e k).waits then none else ((s.eng e).queue 14).head?

/-- The engine starts no slot while it saves (R73, R106). -/
def State.strmStarts (s : State) (e : Nat) : Bool :=
  s.strmLive e && (s.eng e).st != .saving && !(s.hdr (.stream e)).halt

/-- SLOT_START (R241, R242): an ARMED slot removes the head of Q14 and runs, or drains on poison (R104). -/
def execSlotStart (e : Fin 64) (n : Fin 4) (s : State) : Out :=
  let x := s.slotOf e n
  if x.st ≠ .armed ∨ !s.strmStarts e then .next s
  else
    match s.q14For e n with
    | none => .next s
    | some t =>
      let s := s.setEng e ((s.eng e).pop 14)
      let s := s.setSlotOf e n { x with st := if t.poison then .draining else .running }
      .next (((s.needEnt e n).getD s).slotDone e n)

/-! ## Settings (R244-R247, R254) -/

/-- SRC (R245). -/
def execSrc (e : Fin 64) (n : Fin 4) (s : State) : Out := .next (s.slotSet e n 1 fun x w => { x with src := placeOf w false })

/-- DST (R245). -/
def execDst (e : Fin 64) (n : Fin 4) (s : State) : Out := .next (s.slotSet e n 2 fun x w => { x with dst := placeOf w true })

/-- LOOP (R246). -/
def execLoop (e : Fin 64) (n : Fin 4) (s : State) : Out :=
  .next (s.slotSet e n 3 fun x w =>
    let l : Lvl := { count := fld w 40 17 + 1, ss := signed 20 (fld w 20 20), ds := signed 20 (fld w 0 20) }
    { x with lvls := tset x.lvls (fld w 57 2) l })

/-- CLAMP (R247). -/
def execClamp (e : Fin 64) (n : Fin 4) (s : State) : Out :=
  .next (s.slotSet e n 4 fun x w =>
    { x with clamp := if fld w 0 56 = 0 then none else some (fld w 28 28, fld w 0 28) })

/-- XFORM (R254). -/
def execXform (e : Fin 64) (n : Fin 4) (s : State) : Out :=
  .next (s.slotSet e n 5 fun x w => { x with xform := some (fld w 41 18, fld w 36 5, bit w 35) })

end Sys2Proof.Machine
end

