-- ==== Sys2Proof/Machine/DripUnit.lean ====
section
/-! DEFINITION. Key fills, noise fills and the Drip (R201-R222, R232-R237, R258, R259, R507). -/

namespace Sys2Proof.Machine

open Sys2Proof

/-! ## The fields of KFILL and NFILL (R258, R259) -/

def kfKind (w : Nat) : Bool := bit w 58
def kfHslot (w : Nat) : Nat := fld w 50 8
def kfRing (w : Nat) : Nat := fld w 45 5
def kfKr (w : Nat) : Nat := fld w 43 2 + 1
def kfChain (w : Nat) : Nat := fld w 38 5
def kfLhi (w : Nat) : Nat := fld w 32 6
def kfNsp (w : Nat) : Nat := fld w 28 4 + 1
def kfDnum (w : Nat) : Nat := fld w 25 3 + 1
def kfRs (w : Nat) : Bool := bit w 24
def kfCount (w : Nat) : Nat := fld w 25 13 + 1
def kfFpe (w : Nat) : Nat := fld w 22 3 + 1

/-- Fills that a KFILL delivers in all (R208, R258). -/
def kfTotal (c : Chain) (w : Nat) : Nat :=
  if kfKind w then kfCount w * kfFpe w else c.kswFills (kfDnum w) (kfLhi w) (kfNsp w)

/-- Head of ring tile m of a KFILL. -/
def Engine.kfTile (x : Engine) (w m : Nat) : Nat := kfRing w + m * (x.tile (kfRing w)).len

/-- Logical rows that a ring tile of these fills needs (R184, R207), in limbs. -/
def fillLimbs (w : Nat) (h : KeyHdr) : Nat := if kfKind w then h.dnum * (h.gk + 1) else 2

/-- Every ring tile is a key tile of one shape (R258). -/
def Engine.kfRingOk (x : Engine) (w : Nat) : Bool :=
  (List.range (kfKr w)).all fun m =>
    let t := x.kfTile w m
    decide (t < 32) && x.named t && (x.tile t).key && x.sameShape t (kfRing w)

/-- The refusals of R258 that need no header. -/
def State.kfRefused (s : State) (e w : Nat) : Bool :=
  let c := s.chainOf (kfChain w)
  let x := s.eng e
  !s.chainOk (kfChain w) || (!kfKind w && (decide (c.l ≤ kfLhi w) || decide (c.k < kfNsp w))) ||
    decide (65535 < kfTotal c w) || !x.kfRingOk w || (!kfKind w && !x.holds c (kfRing w) 2)

/-- FPE differs from GK + 1 for KTYPE 0x02, or from 1 for KTYPE 0x03 (R258). -/
def kfFpeBad (w : Nat) (h : KeyHdr) : Bool :=
  kfKind w && ((h.ktype == 2 && kfFpe w != h.gk + 1) || (h.ktype == 3 && kfFpe w != 1))

/-- FPE or the ring does not suit a header's entries (R258; the capacity of R184 needs a header of one of these types). -/
def Engine.kfEntryBad (x : Engine) (c : Chain) (w : Nat) (h : KeyHdr) : Bool :=
  kfFpeBad w h || (kfKind w && (h.ktype == 2 || h.ktype == 3) && !x.holds c (kfRing w) (fillLimbs w h))

/-- WFMT is of the chain's mode, and under P48 every modulus of the key's rows lies below 2^48 (R43, R211). -/
def KeyHdr.fmtOk (h : KeyHdr) (c : Chain) : Bool :=
  let ents := if h.ktype = 1 then List.range c.l ++ (List.range h.nsp).map (64 + ·) else [0]
  if c.split then h.wfmt == 2
  else h.wfmt == 0 || (h.wfmt == 1 && ents.all fun k => decide (c.q k < 2 ^ 48))

/-- The checks of R211 on a header. -/
def KeyHdr.check (h : KeyHdr) (c : Chain) (w tenant : Nat) : Option Code :=
  if h.at_ 0 1 ≠ 1 ∨ !h.clear ∨ (if kfKind w then h.ktype ≠ 2 ∧ h.ktype ≠ 3 else h.ktype ≠ 1) then some .badCommand
  else if h.tenant ≠ tenant then some .tenantMismatch
  else if !h.ofChain c ∨ !h.fmtOk c ∨ (h.ktype = 1 ∧ (h.dnum ≠ kfDnum w ∨ h.nsp ≠ kfNsp w)) ∨
      (if h.ktype = 1 then h.gk ≠ 0 else h.gk < 1 ∨ 7 < h.gk) ∨ !h.bodyOk c then some .shape
  else none

/-! ## Records and tokens -/

/-- The Sump record of a fill operation (R507). -/
def State.fillRecord (s : State) (e pc sop : Nat) (c : Code) (d0 d1 : Nat) : SumpRec :=
  { s.slotRecord e pc sop c d1 with detail0 := BitVec.ofNat 64 d0 }

/-- A fill operation's record goes to the Sump. -/
def State.fillFault (s : State) (e n sop : Nat) (c : Code) (d0 d1 : Nat) : State :=
  s.sumpPut (e / 4) (s.fillRecord e (s.slotOf e n).pc sop c d0 d1)

def State.setKf (s : State) (e n : Nat) (k : KFill) : State := s.setSlotOf e n { s.slotOf e n with kf := some k }

/-- Address of the header of an operation (R507 DETAIL1). -/
def KFill.addr (k : KFill) : Nat := ((locOf k.hdrVa.toNat).map Loc.addr).getD 0

/-- The Drip of an engine's gallery takes fills: ON, no test running, a core enabled (R221, R219). -/
def State.dripReady (s : State) (e : Nat) : Bool :=
  s.blkOn (.drip (e / 4)) && !(s.drip (e / 4)).busy && (s.drip (e / 4)).coreEn != 0

/-! ## KFILL (R208, R211, R258) -/

/-- Read the header at a location and check it; an unreadable one fails with the code of its read (R211, R509). -/
def State.kfHeader (s : State) (e w : Nat) (l : Loc) (first : Bool) : State × Except Code KeyHdr :=
  let c := s.chainOf (kfChain w)
  match s.locRead e l 0 256 with
  | (s, _, some (_, cd)) => (s, .error cd)
  | (s, h, none) =>
    if first ∧ (s.eng e).kfEntryBad c w h then (s, .error .shape)
    else
      match KeyHdr.check h c w (s.eng e).tenant with
      | some cd => (s, .error cd)
      | none => if (s.eng e).kfEntryBad c w h then (s, .error .shape) else (s, .ok h)

/-- KFILL starts: its refusals, its header and its checks. A draining slot only emits its tokens, with poison (R104, R210). The record of a
refusal names the header's address, which the argument slot holds (R507). -/
def State.kfillStart (s : State) (e n : Nat) : State :=
  let x := s.slotOf e n
  let w := x.instr
  let c := s.chainOf (kfChain w)
  let total := kfTotal c w
  let bare := !s.chainOk (kfChain w) || decide (65535 < total)
  let k : KFill := { total := if bare then 0 else total }
  let fail (s : State) (cd : Code) (a : Nat) (l : Word64) : State :=
    (s.fillFault e n 8 cd 0xFFFFFFFF a).setKf e n { k with failed := true, hdrVa := l }
  if x.st = .draining then s.setKf e n { k with failed := true }
  else
    match s.argSlot e (kfHslot w) with
    | (s, .error cd) => fail s (if s.kfRefused e w then .shape else cd) 0 0
    | (s, .ok l) =>
      if s.kfRefused e w then fail s .shape l.addr l.word
      else
        match s.kfHeader e w l true with
        | (s, .error cd) => fail s cd l.addr l.word
        | (s, .ok h) => s.setKf e n { k with hdrVa := l.word, hdr := h, stride := 256 + cdiv h.bodyLen 256 * 256 }

/-- KFILL (R258). -/
def execKfill (e : Fin 64) (n : Fin 4) (s : State) : Out :=
  .next (s.slotStep e n 8 fun s =>
    if (s.slotOf e n).kf.isSome ∨ !s.dripReady e then s else s.kfillStart e n)

/-! ## KEY_FILL_DELIVER (R202, R205-R209, R212, R184) -/

/-- The message of a mask segment (R205). -/
def maskMsg (h : KeyHdr) (dig limb v : Nat) : Bytes :=
  h.seed ++ leBytes 4 h.ksi ++ leBytes 4 dig ++ leBytes 2 limb ++ leBytes 2 v

/-- What the Drip draws for rows: words, rejected words, permutations and segments (R213, R219, R222). -/
structure Drawn where
  words : Nat := 0
  rejects : Nat := 0
  perms : Nat := 0
  segs : Nat := 0
  deriving DecidableEq, Repr

/-- One segment more, of so many words and rejected words: 25 permutations and one for every further 21 words (R213). -/
def Drawn.seg (a : Drawn) (words rejects : Nat) : Drawn :=
  { words := a.words + words, rejects := a.rejects + rejects, perms := a.perms + max 25 (cdiv words 21), segs := a.segs + 1 }

def Drawn.add (a b : Drawn) : Drawn :=
  { words := a.words + b.words, rejects := a.rejects + b.rejects, perms := a.perms + b.perms, segs := a.segs + b.segs }

/-- A mask row as residues, with what was drawn for it (R205, R206). -/
def maskRow (c : Chain) (ent : Nat) (h : KeyHdr) (dig : Nat) : List Nat × Drawn :=
  (List.range (c.n / 512)).foldl
    (fun acc v =>
      let r := dripSegment (c.ent ent).dripLimit (c.q ent) 512 dripFuel (keccakState 168 0x1F (maskMsg h dig ent v)) [] (0, 0)
      (acc.1 ++ r.1, acc.2.seg r.2.1 r.2.2)) ([], {})

/-- A row of a fill: from the stored half at a byte offset, or a mask row with its DIG. -/
inductive FillRow where
  | stored (off : Nat)
  | mask (dig : Nat)
  deriving DecidableEq, Repr

/-- Fill k of an operation: the chain entry of its rows, its rows in tile order, its tag without the header's address (R184,
R205, R207-R209). -/
def fillPlan (c : Chain) (w : Nat) (h : KeyHdr) (k : Nat) : Nat × List FillRow × Nat :=
  let rb := h.rowBytes c
  if kfKind w then
    let f := k % kfFpe w
    let rows := (List.range h.dnum).map fun r =>
      FillRow.stored (if h.ktype = 2 then (f * h.dnum + r) * rb else r * rb) ::
        (List.range h.gk).map fun j => FillRow.mask (if h.ktype = 2 then j <<< 16 ||| f <<< 8 ||| r else j <<< 16 ||| r)
    (0, rows.flatten, f <<< 49)
  else
    let dd := c.active (kfDnum w) (kfLhi w)
    let ent := (kswTargets (kfLhi w) (kfNsp w) (kfRs w)).getD (k / dd) 0
    let d := k % dd
    let lam := if ent < 64 then ent else c.l + (ent - 64)
    (ent, [.stored ((d * (c.l + h.nsp) + lam) * rb), .mask d],
      (if ent < 64 then ent <<< 58 ||| ent <<< 52 else 63 <<< 58 ||| (ent - 64) <<< 52) ||| d <<< 49)

/-- Where an access counts as one of device memory (R267). -/
def Loc.side : Loc → Target
  | .va a => .va a
  | .sp _ o => .dpa o

/-- The rows of a fill as tile elements, with what was drawn for them, or the code of R212. -/
def State.fillRead (s : State) (e ent : Nat) (c : Chain) (h : KeyHdr) (body : Loc) :
    List FillRow → State × Except Code (List Nat × Drawn)
  | [] => (s, .ok ([], {}))
  | .mask dig :: r =>
    let m := maskRow c ent h dig
    match s.fillRead e ent c h body r with
    | (s, .ok (vs, a)) => (s, .ok (m.1.map (c.mont ent) ++ vs, m.2.add a))
    | (s, .error cd) => (s, .error cd)
  | .stored off :: r =>
    match s.locRead e (body.plus off) (if h.keep then 2 else 1) (h.rowBytes c) with
    | (s, _, some (_, cd)) => (s, .error cd)
    | (s, b, none) =>
      let s := s.units e 2 (body.plus off).side (h.rowBytes c)
      let vs := eltsOf (fmtBytes h.wfmt) c.n b
      if vs.any fun v => decide (c.q ent ≤ v) then (s, .error .shape)
      else
        match s.fillRead e ent c h body r with
        | (s, .ok (ws, x)) => (s, .ok ((if h.mont then vs else vs.map (c.mont ent)) ++ ws, x))
        | (s, .error cd) => (s, .error cd)

/-- The Drip's counters after what was drawn (R213, R219, R222). -/
def State.dripCount (s : State) (g : Nat) (a : Drawn) : State :=
  let d := s.drip g
  let s := s.setDrip g { d with words := d.words + a.words, rejects := d.rejects + a.rejects }
  (((s.event (.drip g) 2 a.perms).event (.drip g) 3 a.words).event (.drip g) 4 a.rejects).event (.drip g) 5 a.segs

/-- One fill delivered to an engine (R219, R222). -/
def State.fillCount (s : State) (e : Nat) : State :=
  let d := s.drip (e / 4)
  (s.setDrip (e / 4) { d with fills := tset d.fills (e % 4) (tget d.fills (e % 4) 0 + 1) }).event (.drip (e / 4)) 6 1

/-- The header of the entry that fill k begins (R208, R211). -/
def KFill.entryLoc (k : KFill) (w i : Nat) : Loc :=
  ((locOf k.hdrVa.toNat).getD (.va 0)).plus (if kfKind w then i / kfFpe w * k.stride else 0)

/-- Bytes of a fill in its ring tile (R184, R207). -/
def kfBytes (c : Chain) (w : Nat) (h : KeyHdr) : Nat := fillLimbs w h * c.n * c.esz

/-- Bytes that an engine's fills hold in its assembly buffer (R214). -/
def State.abufBytes (s : State) (e : Nat) : Nat :=
  ((List.range 4).map fun n =>
    let x := s.slotOf e n
    match x.kf with
    | some k => (k.asm.map fun a => a.vals.length * (s.chainOf (kfChain x.instr)).esz).sum
    | none => 0).sum

/-- The next fill not yet assembled is put together: its entry's header where it begins one, its stored and its mask rows (R205, R208,
R211, R212, R214). -/
def State.assemble (s : State) (e n : Nat) (k : KFill) : State :=
  let w := (s.slotOf e n).instr
  let c := s.chainOf (kfChain w)
  let i := k.next + k.asm.length
  let l := k.entryLoc w i
  let put (s : State) (k : KFill) (a : AsmFill) : State := s.setKf e n { k with asm := k.asm ++ [a] }
  let rows (s : State) (k : KFill) : State :=
    let p := fillPlan c w k.hdr i
    let a : AsmFill := { loc := l.word, tag := BitVec.ofNat 64 (p.2.2 ||| fld l.addr 8 40 <<< 8) }
    match s.fillRead e p.1 c k.hdr (l.plus 256) p.2.1 with
    | (s, .error cd) => put s k { a with bad := some cd }
    | (s, .ok (vs, d)) =>
      let g := e / 4
      let bs := eltBytes c.esz vs
      let s := s.setDrip g { s.drip g with abuf := tset (s.drip g).abuf (e % 4) (bs.drop (bs.length - 65536)) }
      put (s.dripCount g d) k { a with vals := vs }
  if kfKind w ∧ i ≠ 0 ∧ i % kfFpe w = 0 then
    match s.kfHeader e w l false with
    | (s, .error cd) => put s k { loc := l.word, tag := 0, bad := some cd, stop := true }
    | (s, .ok h) => rows s { k with hdr := h }
  else rows s k

/-- The ring tile of the fill that is to be delivered next. -/
def State.ringTile (s : State) (e n : Nat) (k : KFill) : Nat :=
  (s.eng e).kfTile (s.slotOf e n).instr (k.next % kfKr (s.slotOf e n).instr)

/-- Every tile of a ring tile is EMPTY (R71). -/
def Engine.ringEmpty (x : Engine) (t : Nat) : Bool :=
  x.named t && (x.tile t).key && (x.members t).all fun m => (x.tile m).kst == .empty

/-- The fill that is to be delivered next begins on its EMPTY ring tile, which is FILLING from then on and holds its tag (R70, R72). -/
def State.fillBegin (s : State) (e n : Nat) (k : KFill) : State :=
  match k.asm with
  | a :: _ =>
    let t := s.ringTile e n k
    if k.cur.isNone ∧ a.bad.isNone ∧ (s.eng e).ringEmpty t then
      (s.setEng e (((s.eng e).setKey t .filling a.tag).setFill t (s.slotOf e n).instr a.loc)).setKf e n { k with cur := some t }
    else s
  | [] => s

/-- Address of the header that an assembled fill names. -/
def AsmFill.addr (a : AsmFill) : Nat := ((locOf a.loc.toNat).map Loc.addr).getD 0

/-- The fill at the head of the assembled ones ends: its tile is FULL, or EMPTY and zero with a record; its token comes due; a header
that failed ends the operation (R70, R210-R212). -/
def State.fillEnd (s : State) (e n : Nat) (k : KFill) (t : Nat) : State :=
  let tok (bad : Bool) : Token := { value := BitVec.ofNat 16 k.next, poison := bad }
  let after : KFill := { k with asm := k.asm.tail, cur := none, next := k.next + 1 }
  match k.asm with
  | [] => s
  | a :: _ =>
    match a.bad with
    | some cd =>
      let s := s.fillFault e n 8 cd k.next a.addr
      if a.stop then s.setKf e n { k with asm := [], cur := none, failed := true }
      else (s.setEng e (((s.eng e).zeroTile t).setKey t .empty 0)).setKf e n { after with due := [tok true] }
    | none =>
      let x := ((s.eng e).putElems t (s.chainOf (kfChain (s.slotOf e n).instr)).esz 0 a.vals).setKey t .full a.tag
      ((s.setEng e (x.setFill t (s.slotOf e n).instr a.loc)).fillCount e).setKf e n { after with due := [tok false] }

/-- A key-fill operation that still delivers fills. -/
def State.kfLive (s : State) (e n : Nat) (k : KFill) : Bool :=
  s.strmLive e && !k.failed && decide (k.next < k.total) && s.dripReady e && (s.slotOf e n).live && (s.eng e).st != .saving

/-- KEY_FILL_DELIVER (R208): the next fill is written into its ring tile, once that is EMPTY and the last token has entered its queue; it
is assembled first where the Drip had not done so ahead (R214). -/
def execKeyFillDeliver (e : Fin 64) (n : Fin 4) (s : State) : Out :=
  match (s.slotOf e n).kf with
  | none => .next s
  | some k =>
    let t := s.ringTile e n k
    if !s.kfLive e n k || !k.due.isEmpty || !(k.cur == some t || (s.eng e).ringEmpty t) then .next s
    else
      let s := if k.asm.isEmpty then s.assemble e n k else s
      match (s.slotOf e n).kf with
      | some k => .next (s.fillEnd e n k t)
      | none => .next s

/-- An operation's next fill is assembled ahead while the engine's buffer has room; one larger than the buffer only when its ring tile is
EMPTY (R214). -/
def State.assembles (s : State) (e n : Nat) (k : KFill) : Bool :=
  let w := (s.slotOf e n).instr
  let b := kfBytes (s.chainOf (kfChain w)) w k.hdr
  s.kfLive e n k && decide (k.next + k.asm.length < k.total) && !(k.asm.any fun a => a.stop) &&
    (if b ≤ 65536 then decide (s.abufBytes e + b ≤ 65536)
     else k.asm.isEmpty && s.abufBytes e == 0 && k.due.isEmpty && (s.eng e).ringEmpty (s.ringTile e n k))

/-- What the Drip does for one slot in a cycle of an idle block (R208, R214, R215, R222; log entry 119): a fill is assembled ahead, the
next one begins on its ring tile, or waits for it. -/
def State.kfCycle (s : State) (e n : Nat) : State :=
  match (s.slotOf e n).kf with
  | none => s
  | some k =>
    let s := if s.assembles e n k then (s.assemble e n k).event (.drip (e / 4)) 1 1 else s
    match (s.slotOf e n).kf with
    | none => s
    | some k =>
      if !s.kfLive e n k || !k.due.isEmpty || k.asm.isEmpty || k.cur.isSome then s
      else if (s.eng e).ringEmpty (s.ringTile e n k) then s.fillBegin e n k
      else (s.event (.engine e) 8 1).event (.drip (e / 4)) 9 1

/-! ## FILL_TOKEN_EMIT (R210, R234) -/

/-- A token enters the slot's own queue Q(8 + s), if it has room. -/
def State.pushOwn (s : State) (e n : Nat) (t : Token) (k : State → State) : State :=
  let x := s.eng e
  if x.room (8 + n) then k (s.setEng e (x.push (8 + n) t)) else s

/-- FILL_TOKEN_EMIT (R210): the next due token of a key fill or noise fill enters Q(8 + s): a fill's token, the poisoned token
of a fill that will not come, the closing token. -/
def execFillTokenEmit (e : Fin 64) (n : Fin 4) (s : State) : Out :=
  let x := s.slotOf e n
  if !s.strmLive e then .next s
  else
    match x.kf, x.out with
    | some k, _ =>
      match k.due with
      | t :: r => .next (s.pushOwn e n t fun s => s.setKf e n { k with due := r })
      | [] =>
        if k.total ≤ k.next then
          .next (s.pushOwn e n { value := 0xFFFF, poison := k.failed } fun s =>
            (s.setSlotOf e n { s.slotOf e n with kf := none, pc := x.pc + 1 }).slotDone e n)
        else if k.failed then
          .next (s.pushOwn e n { value := BitVec.ofNat 16 k.next, poison := true } fun s =>
            s.setKf e n { k with next := k.next + 1 })
        else .next s
    | none, m :: r =>
      if sopOf x.instr = 9 then
        .next (s.pushOwn e n m.tok fun s =>
          (s.setSlotOf e n { s.slotOf e n with out := r, pc := x.pc + 2 }).slotDone e n)
      else .next s
    | none, [] => .next s

/-! ## NFILL (R232-R236) -/

/-- The number of ones among n bits of w from bit lo. -/
def ones (w lo n : Nat) : Nat := ((List.range n).filter fun k => bit w (lo + k)).length

/-- One coefficient from one word (R233). -/
def noiseElt (dist param w : Nat) : Int :=
  if dist = 0 then ((w >>> (64 - param) : Nat) : Int) - (2 ^ (param - 1) : Nat)
  else (ones w 0 param : Int) - (ones w param param : Nat)

/-- The integer polynomial of a noise fill (R232). -/
def noisePoly (nk : Bytes) (nonce pidx dist param n : Nat) : List Int :=
  ((List.range (n / 512)).map fun v =>
    (wordsOf 512 (shake256
      (nk ++ leBytes 8 nonce ++ leBytes 2 pidx ++ leBytes 1 dist ++ leBytes 1 param ++ leBytes 2 v) 4096)).map
      (noiseElt dist param)).flatten

/-- The noise key of an engine's slot (R231). -/
def State.nkOf (s : State) (e : Nat) : Bytes := tget (s.drip (e / 4)).nk (e % 4) []

/-- The failures of R236, in the order of its table. -/
def State.nfillBad (s : State) (e w : Nat) : Option Code :=
  let x := s.eng e
  let c := s.chainOf (fld w 49 5)
  let dst := fld w 54 5
  let llo := fld w 42 6
  let lhi := fld w 36 6
  let dist := fld w 34 2
  let param := fld w 28 6
  if 1 < dist ∨ param < 1 ∨ (if dist = 0 then 62 else 32) < param ∨ fld w 0 12 ≠ 0 then some .badCommand
  else if bit w 48 ∨ !s.chainOk (fld w 49 5) ∨ !x.named dst ∨ (x.tile dst).key ∨ lhi < llo ∨ c.l ≤ lhi ∨
      !x.holds c dst (lhi + 1 - llo) then some .shape
  else if (s.nkOf e).all fun b => b == 0 then some .permission
  else none

/-- A noise fill, up to its token (R232-R236). A draining slot only emits the token, with poison (R252). -/
def State.nfillRun (s : State) (e n : Nat) : State :=
  let x := s.slotOf e n
  let w := x.instr
  let pidx := fld w 12 16
  let dst := fld w 54 5
  let tok (s : State) (bad : Bool) : State :=
    s.setSlotOf e n { s.slotOf e n with out := [{ eng := e, q := 8 + n, tok := { value := BitVec.ofNat 16 pidx, poison := bad } }] }
  if x.st = .draining then tok s true
  else
    match s.nfillBad e w with
    | some c =>
      let y := s.eng e
      let s := if y.named dst ∧ !(y.tile dst).key then s.setEng e (y.zeroTile dst) else s
      tok (s.fillFault e n 9 c 0xFFFFFFFF 0) true
    | none =>
      let c := s.chainOf (fld w 49 5)
      let llo := fld w 42 6
      let lhi := fld w 36 6
      let es := noisePoly (s.nkOf e) (x.word (x.pc + 2)) pidx (fld w 34 2) (fld w 28 6) c.n
      let rows := (List.range (lhi + 1 - llo)).map fun k =>
        es.map fun v => c.mont (llo + k) (v % (c.q (llo + k) : Int)).toNat
      let segs := c.n / 512
      let s := s.setEng e ((s.eng e).putElems dst c.esz 0 rows.flatten)
      tok (s.dripCount (e / 4) { words := 512 * segs, perms := 31 * segs, segs := segs }) false

/-- NFILL (R259). -/
def execNfill (e : Fin 64) (n : Fin 4) (s : State) : Out :=
  .next (s.slotStep e n 9 fun s => if s.dripReady e then s.nfillRun e n else s)

/-! ## The Drip's cores (R218, R219, R221) -/

/-- A corrected-error record of the Drip, with the cores concerned (R218, R420, R507). -/
def State.dripFault (s : State) (g : Nat) (cores : BitVec 40) : State :=
  s.sumpPut g { code := Code.internal.byte, cls := 1, unit := 4, place := 0, tenant := none, op := 0, slot := none, disp := 0,
                fpc := 0, detail0 := cores.setWidth 64, detail1 := 0 }

/-- Fills accepted and not delivered for engine place j, those of a restore with them; an operation that only emits its tokens has none
(R219 PEND). -/
def State.dripPend (s : State) (g j : Nat) : Nat :=
  (s.eng (4 * g + j)).refills.length +
  ((List.range 4).map fun n =>
    match ((s.strm (4 * g + j)).slot n).kf with
    | some k => if k.failed then 0 else k.total - k.next
    | none => 0).sum

/-- Fills that a Drip has assembled and not delivered. -/
def State.asmCount (s : State) (g : Nat) : Nat :=
  ((List.range 16).map fun i => match (s.slotOf (4 * g + i / 4) (i % 4)).kf with | some k => k.asm.length | none => 0).sum

/-- What the Drip has assembled and not delivered is dropped (R24, R218): the fills are assembled again. -/
def State.dropAsm (s : State) (g : Nat) : State :=
  (List.range 16).foldl (fun s i =>
    let e := 4 * g + i / 4
    let x := s.slotOf e (i % 4)
    match x.kf with
    | some k => if k.asm.isEmpty then s else s.setKf e (i % 4) { k with asm := [] }
    | none => s) s

/-- Some engine of the gallery has fills pending. -/
def State.dripBusy (s : State) (g : Nat) : Bool := (List.range 4).any fun j => s.dripPend g j != 0

/-- A SELFTEST write (R221). -/
def State.dripTest (s : State) (g : Nat) : State :=
  let d := s.drip g
  if s.dripBusy g ∨ d.busy then s.refuse (.drip g) .badCommand else s.setDrip g { d with busy := true, done := false }

/-- DRIP_SELFTEST (R221). -/
def execDripSelftest (g : Fin 16) (s : State) : Out := .next (s.gate (.drip g) true fun s => s.dripTest g)

/-- DRIP_SELFTEST_END (R221): the enabled cores that failed are disabled; a Drip that was STARTING is ON, or stops when EN
reads 0 (R477). -/
def execDripSelftestEnd (g : Fin 16) (failed : BitVec 40) (s : State) : Out :=
  let d := s.drip g
  if !d.busy then .next s
  else
    let bad := failed &&& d.coreEn
    let s := s.setDrip g { d with busy := false, done := true, nfail := ones bad.toNat 0 40, coreFail := d.coreFail ||| bad,
                                  coreEn := d.coreEn &&& ~~~bad }
    let s := if bad = 0 then s else s.dripFault g bad
    let h := s.hdr (.drip g)
    .next (if h.pstate = .starting then s.setHdr (.drip g) { h with pstate := if h.en then .on else .stopping } else s)

/-- DRIP_CORE_PARITY_ERROR (R218): the segment is recomputed elsewhere, the core is disabled. -/
def execDripCoreParityError (g : Fin 16) (core : Fin 40) (s : State) : Out :=
  let d := s.drip g
  let m : BitVec 40 := BitVec.ofNat 40 (1 <<< core.val)
  if d.coreEn &&& m = 0 then .next s
  else .next ((s.setDrip g { d with coreFail := d.coreFail ||| m, coreEn := d.coreEn &&& ~~~m }).dripFault g m)

/-- A write of CORE_EN (R219). -/
def State.coreEnPut (s : State) (g : Nat) (val : Nat) : State :=
  let d := s.drip g
  s.setDrip g { d with coreEn := BitVec.ofNat 40 val &&& ~~~d.coreFail }

/-- DRIP_CORE_EN_WRITE (R219). -/
def execDripCoreEnWrite (g : Fin 16) (val : Word64) (s : State) : Out :=
  .next (s.gate (.drip g) true fun s => s.coreEnPut g val.toNat)

end Sys2Proof.Machine
end

