-- ==== Sys2Proof/Machine/EngineCtl.lean ====
section
/-! DEFINITION. The engine's controls: start, stop points, save and restore, tile configuration writes, the debug window,
export answers (R73-R75, R82, R88, R89, R106, R111-R118, R197, R198, R229, R264). -/

namespace Sys2Proof.Machine

open Sys2Proof

/-! ## ENGINE_START (R111-R113) -/

/-- The 64-byte header of a program image passes its check (R111, R112): NINSTR and STOPAT. -/
def progHeader (tenant : Nat) (h : Bytes) : Option (Nat × Nat) :=
  let at_ (o n : Nat) : Nat := ofLe ((h.drop o).take n)
  let n := at_ 4 4
  if at_ 0 2 = 1 ∧ at_ 2 2 = 0 ∧ 1 ≤ n ∧ n ≤ 4096 ∧ at_ 8 2 = tenant ∧ ((h.drop 0x0A).take 6).all (fun b => b == 0) ∧
      ((h.drop 0x18).all fun b => b == 0) then some (n, at_ 0x10 8)
  else none

/-- The instructions of an image (R111). -/
def progWords : Nat → Bytes → List (BitVec 128)
  | 0, _ => []
  | k + 1, b => BitVec.ofNat 128 (ofLe (b.take 16)) :: progWords k (b.drop 16)

/-- Read and check a program image: its header and its instructions, or the code. A base that is not a multiple of 64 fails
the header check (log entry 21); an image that cannot be read ends with the code of its read (DESIGN CHOICE log entry 115). -/
def State.readProg (s : State) (e base : Nat) : State × Except Code (Nat × List (BitVec 128)) :=
  if base % 64 ≠ 0 then (s, .error .badCommand)
  else
    match s.vRead (some (e / 4)) (s.eng e).tenant 0 base 64 with
    | (s, _, some (_, c)) => (s, .error c)
    | (s, h, none) =>
      match progHeader (s.eng e).tenant h with
      | none => (s, .error .badCommand)
      | some (n, stopat) =>
        match s.vRead (some (e / 4)) (s.eng e).tenant 0 (base + 64) (16 * n) with
        | (s, _, some (_, c)) => (s, .error c)
        | (s, b, none) => (s, .ok (stopat, progWords n b))

/-- A failed start: IDLE, LAST_CODE and the command's status hold the code, one record (R112, R240). -/
def State.startFail (s : State) (e : Nat) (c : Code) : State :=
  let x := s.eng e
  (s.setEng e { x with st := .idle, lastCode := c.byte, ended := some c }).sumpPut (e / 4)
    { code := c.byte, cls := if c = .eccUncorrectable then 6 else 0, unit := 0, place := BitVec.ofNat 8 (e % 4),
      tenant := some (Fin.ofNat 1024 x.tenant), op := 0, slot := x.slot.map (Fin.ofNat 8192),
      disp := match x.slot with | some n => BitVec.ofNat 16 (s.slotJ n).disp | none => 0,
      fpc := 0, detail0 := x.faultInfo, detail1 := 0 }

/-- A recorded token enters its queue behind those before it, or waits for room (R96, R403). -/
def State.replayTok (s : State) (e q : Nat) (k : Token) : State :=
  if (s.eng e).room q ∧ !(s.dev.replayW.any fun w => w.1 == e && w.2.1 == q) then s.setEng e ((s.eng e).push q k)
  else { s with dev := { s.dev with replayW := s.dev.replayW ++ [(e, q, k)] } }

/-- The tokens recorded for a re-dispatched command enter its engine's queues at START, in their original order (R403). -/
def State.replayToks (s : State) (e : Nat) : State :=
  match (s.eng e).slot with
  | none => s
  | some n =>
    if (s.slotJ n).disp < 2 then s
    else s.dev.dedup.foldl (fun t d =>
      match d.tok with
      | some (g, q, k) => if d.slot = some n ∧ g = e then t.replayTok e q k else t
      | none => t) s

/-- The recorded tokens that wait enter their queues as these have room, unless the engine is saved, saves, restores or is held in reset
(R24, R96, R349). -/
def State.replayDrain (s : State) : State :=
  s.dev.replayW.foldl (fun t w =>
    let x := t.eng w.1
    if x.st = .saving ∨ x.st = .saved ∨ x.st = .restoring ∨ x.inReset then { t with dev := { t.dev with replayW := t.dev.replayW ++ [w] } }
    else t.replayTok w.1 w.2.1 w.2.2) { s with dev := { s.dev with replayW := [] } }

/-- What START clears before it reads the program (R112, R229). -/
def State.clearRun (s : State) (e : Nat) : State :=
  let x := s.eng e
  s.setEng e { x with faultInfo := 0, retired := 0, issued := 0, pc := 0, ct := [], cp := [], queues := [],
                      window := [], ringOp := none, firstFault := none, anySkip := false, ended := none, result := 0,
                      rescPending := 0, rndLatched := x.rndSeed, prog := [], stopNow := false }

/-- START in state IDLE (R112, R240): clear, check, load, run. -/
def State.startEngine (s : State) (e : Nat) : State :=
  match (s.clearRun e).readProg e (s.eng e).progBase.toNat with
  | (s, .error c) => s.startFail e c
  | (s, .ok (stopat, ws)) =>
    match s.readImage e with
    | (s, .error c) => s.startFail e c
    | (s, .ok img) =>
      let y := s.eng e
      let s := s.setEng e { y with prog := ws, st := .running, stopCnt := if stopat = 0 then y.stopCnt else stopat }
      (s.replayToks e).loadSlots e img

/-- A write of START: bit 0 starts the program in state IDLE (R112). -/
def State.startWrite (s : State) (e val : Nat) : State :=
  if !bit val 0 ∨ s.engFrozen e then s
  else if (s.eng e).st ≠ .idle ∨ (s.eng e).inReset then s.refuse (.engine e) .badCommand
  else s.startEngine e

/-- ENGINE_START (R112). -/
def execEngineStart (e : Fin 64) (val : Word32) (s : State) : Out :=
  .next (s.inner (.engine e) fun s => s.startWrite e val.toNat)

/-! ## Stop points (R117, R118) and HALT (R466) -/

/-- A slot that waits on Q14 has delivered its tokens (R117, R264): none is due, none rides on a transfer. -/
def State.waitsClean (s : State) (e n : Nat) : Bool :=
  let x := s.slotOf e n
  x.waits && x.out.isEmpty && !(s.dev.transfers.any fun t => t.eng == e && t.slot == n)

/-- No transfer that a retired instruction started still moves data or holds tokens (R117): slots that wait on Q14 do not
count, nor do slots that START itself started. -/
def State.startedQuiet (s : State) (e : Nat) : Bool :=
  (List.range 4).all fun n =>
    let x := s.slotOf e n
    match x.st with
    | .running | .halted | .draining | .parked => fld (x.word 0) 46 2 == 1 || s.waitsClean e n
    | _ => true

/-- A write of STOP_CNT (R117, R118): k at or below RETIRED stops issue at once. -/
def State.stopCntPut (s : State) (e val : Nat) : State :=
  let x := s.eng e
  s.setEng e { x with stopCnt := val, stopNow := x.st == .running && val != 0 && decide (val ≤ x.retired),
                      st := if x.st = .stopped ∧ (val = 0 ∨ x.retired < val) then .running else x.st }

/-- STOP_CNT_WRITE (R117, R118). -/
def execStopCntWrite (port : Fin 2) (fn : Fin 64) (e : Fin 64) (val : Word64) (s : State) : Out :=
  .next (s.gate (.engine e) (s.mayUse port fn (s.eng e).tenant) fun s => s.stopCntPut e val.toNat)

/-- ENGINE_STOPPED (R117): instruction k has retired and the transfers have delivered their tokens; after a write of k at or below
RETIRED, the window is empty. -/
def execEngineStopped (e : Fin 64) (s : State) : Out :=
  let x := s.eng e
  if x.st = .running ∧ x.stopCnt ≠ 0 ∧ (if x.stopNow then x.window = [] else x.stopCnt ≤ x.retired ∧ s.startedQuiet e = true) then
    .next (s.setEng e { x with st := .stopped, stopNow := false })
  else .next s

/-- ENGINE_HALTED (R466): HALT is set and the window is empty. -/
def execEngineHalted (e : Fin 64) (s : State) : Out :=
  let x := s.eng e
  if (s.hdr (.engine e)).halt ∧ (x.st = .running ∨ x.st = .stopped) ∧ x.window = [] then
    .next (s.setEng e { x with st := .halted })
  else .next s

/-- A write of BLK_CTL.HALT (R466): a HALTED engine whose HALT clears runs on. -/
def State.setHalt (s : State) (p : Page) (b : Bool) : State :=
  let s := s.setHdr p { s.hdr p with halt := b }
  match p with
  | .engine e => if !b && (s.eng e).st == .halted then s.setEng e { s.eng e with st := .running } else s
  | _ => s

/-! ## RND_SEED (R229) -/

/-- A write of RND_SEED (R229). -/
def State.rndSeedPut (s : State) (e : Nat) (val : Word64) : State :=
  let x := s.eng e
  if x.st = .idle ∨ x.st = .saved then s.setEng e { x with rndSeed := val } else s.refuse (.engine e) .badCommand

/-- RND_SEED_WRITE (R229). -/
def execRndSeedWrite (e : Fin 64) (val : Word64) (s : State) : Out :=
  .next (s.inner (.engine e) fun s => s.rndSeedPut e val)

/-! ## TILE_CFG_WRITE (R64, R82) -/

/-- The configuration that a write of TILE_CFG holds (R64). -/
def cfgOfWord (v : Nat) : TileCfg :=
  { base := fld v 32 15, span := fld v 27 2, key := bit v 25, rows := fld v 16 7, rowb := fld v 0 8 }

/-- A write of TILE_CFG (R82): taken in IDLE, STOPPED or HALTED, as a TCFG would; it waits while an issued instruction, a stream transfer
or a key fill refers to the tiles (R80), and the writes after it wait behind it. -/
def State.tileCfgPut (s : State) (e n val : Nat) : State :=
  let x := s.eng e
  let v := cfgOfWord val
  let ts := x.replaced n v
  if x.st ≠ .idle ∧ x.st ≠ .stopped ∧ x.st ≠ .halted then s.refuse (.engine e) .badCommand
  else if !x.cfgW.isEmpty ∨ s.streamRef e ts ∨ x.window.any (fun w => w.names.any fun t => (t :: x.members t).any fun m => ts.contains m) then
    s.setEng e { x with cfgW := x.cfgW ++ [(n, val)] }
  else if x.cfgOk n v then s.setEng e (x.cfgApply n v)
  else s.refuse (.engine e) .badCommand

/-- The writes of TILE_CFG that wait are tried again, in order (R80, R82). -/
def State.cfgDrain (s : State) (e : Nat) : State :=
  (s.eng e).cfgW.foldl (fun t p => t.tileCfgPut e p.1 p.2) (s.setEng e { s.eng e with cfgW := [] })

/-- TILE_CFG_WRITE (R82). -/
def execTileCfgWrite (_port : Fin 2) (fn : Fin 64) (e : Fin 64) (n : Fin 32) (val : Word64) (s : State) : Out :=
  .next (s.gate (.engine e) (fn == 0) fun s => s.tileCfgPut e n val.toNat)

/-! ## DBG_WIN (R89) -/

/-- Bytes of the window as DBG_SEL selects them (R89). -/
def Engine.dbgBytes (x : Engine) (off n : Nat) : Nat :=
  let v := x.dbgSel.toNat
  let t := x.tile (fld v 24 5)
  let row := fld v 8 6
  let lo := fld v 0 2 * 2048 + off
  if !t.cfg ∨ t.rows ≤ row then 0
  else ofLe ((List.range n).map fun k =>
    if lo + k < t.width then memGet x.tf 0 (t.base * 64 + row * t.width + lo + k) else 0)

/-- A read of the window (R89): data only while STOPPED or HALTED. -/
def State.dbgRead (s : State) (e off n : Nat) : State :=
  let x := s.eng e
  if x.st = .stopped ∨ x.st = .halted then { s with lastRead := x.dbgBytes off n }
  else { s.refuse (.engine e) .permission with lastRead := 0 }

/-- DBG_WIN_READ (R89, R471, R473, R476). -/
def execDbgWinRead (port : Fin 2) (fn : Fin 64) (e : Fin 64) (off : Fin 2048) (size : Nat) (s : State) : Out :=
  if (size ≠ 4 ∧ size ≠ 8) ∨ off.val % size ≠ 0 then .next { s.refuse .dev .badCommand with lastRead := 0 }
  else if !s.mayUse port fn (s.eng e).tenant then .next { s.refuse (.engine e) .permission with lastRead := 0 }
  else if !s.blkOn (.engine e) then .next { s with lastRead := 0 }
  else .next (s.dbgRead e off size)

/-! ## Reset of an engine (R218, R237, R265, R374, R430) -/

/-- Entries on their way into an engine: tokens formed or due and not entered, fills assembled and not written, transfers without their
COMPL (R24; log entry 118). -/
def State.crossing (s : State) (e : Nat) : Nat :=
  ((List.range 4).map fun n =>
    let x := s.slotOf e n
    x.out.length + (match x.kf with | some k => k.due.length + k.asm.length | none => 0)).sum +
    (s.dev.transfers.filter fun t => t.eng == e).length + (s.dev.replayW.filter fun w => w.1 == e).length

/-- Engine reset: its program, tiles, slots, entries, transfers, fills and noise key are gone, counted where they were on their way (R24);
its scratchpad slice is zero and untagged (R275); the export bit clears. The counts that outlive a run stay (R412, R413). -/
def State.resetEngine (s : State) (e : Nat) : State :=
  let x := s.eng e
  let g := e / 4
  let s := s.countErrs (.engine e) (s.crossing e)
  let s := { s with dev := { s.dev with replayW := s.dev.replayW.filter fun w => w.1 != e } }
  let s := s.setEng e { sinceTest := x.sinceTest, corrBase := x.corrBase, inReset := x.inReset }
  let s := s.setStrm e { simgBase := (s.strm e).simgBase }
  let s := { s with dev := { s.dev with transfers := s.dev.transfers.filter fun x => x.eng != e } }
  let d := s.drip g
  let s := s.setDrip g { d with nk := tdel d.nk (e % 4), abuf := tdel d.abuf (e % 4) }
  let y := s.gal g
  (s.zeroRun (spDpa e 0) 0x800000).setGal g { y with
    tags := y.tags.filter (fun p => p.1 / 2048 != e % 4), xportPend := y.xportPend &&& ~~~(BitVec.ofNat 4 (1 <<< (e % 4))) }

/-! ## ENGINE_SAVE, SAVE_COMPLETE (R73, R74, R88, R106, R115, R264) -/

/-- Operand tiles whose in-use flag is set, in ascending order. -/
def Engine.inUseTiles (x : Engine) : List Nat := (List.range 32).filter fun t => (x.tile t).cfg && (x.tile t).inUse

/-- Bytes of a save area (R74, R88). -/
def Engine.saveBytes (x : Engine) : Nat := 4096 + (x.inUseTiles.map fun t => (x.tile t).size).sum + 256

/-- A write of SAVE_CTL.SAVE (R88). -/
def State.saveWrite (s : State) (e : Nat) : State :=
  let x := s.eng e
  if (x.st = .running ∨ x.st = .stopped ∨ x.st = .halted) ∧ inHbm x.saveBase.toNat x.saveBytes then
    s.setEng e { x with st := .saving }
  else s.refuse (.engine e) .badCommand

/-- ENGINE_SAVE (R73, R88). -/
def execEngineSave (e : Fin 64) (s : State) : Out := .next (s.inner (.engine e) fun s => s.saveWrite e)

/-- A slot whose operation is a key fill: a save abandons it (R264). -/
def Slot.isKfill (x : Slot) : Bool := sopOf x.instr == 8

/-- No transfer of the engine is outstanding, key fills aside (R73, R264). -/
def State.saveQuiet (s : State) (e : Nat) : Bool :=
  !(s.dev.transfers.any fun x => x.eng == e) && (List.range 4).all fun n =>
    let x := s.slotOf e n
    match x.st with
    | .running => x.isKfill
    | .draining => x.isKfill || s.waitsClean e n
    | .halted => false
    | .parked => x.out.isEmpty
    | _ => true

/-- An engine's program or stream programs use Q12 or Q13 (R106): a WAIT or TWAIT names one, or an EMIT of a slot goes to one. -/
def State.usesFar (s : State) (e : Nat) : Bool :=
  ((s.eng e).prog.any fun w => (insOf w).waits.any fun q => q == 12 || q == 13) ||
    (List.range 4).any fun n =>
      let x := s.slotOf e n
      (List.range x.ninstr).any fun k => sopOf (x.word (k + 1)) == 7 && fld (x.word (k + 1)) 54 2 != 0

/-- The engines that are preempted with an engine: those of its run, where the command uses Q12 or Q13 on any of them (R106). -/
def State.group (s : State) (e : Nat) : List Nat :=
  match (s.eng e).slot with
  | some n =>
    match tget s.journal.runs n none with
    | some r => if r.engines.any s.usesFar then r.engines else [e]
    | none => [e]
  | none => [e]

/-- The whole group has stopped issue and every transfer between its engines has delivered its tokens (R106). -/
def State.groupQuiet (s : State) (e : Nat) : Bool :=
  (s.group e).all fun f => f == e || ((s.eng f).st != .running && s.saveQuiet f)

/-- Bytes that TILE_INUSE reads: bit n for tile n. -/
def Engine.inUseMask (x : Engine) : Nat := (x.inUseTiles.map fun t => 1 <<< t).sum

/-- Key tiles that are FULL or FILLING (R74 REFILL). -/
def Engine.refillTiles (x : Engine) : List Nat := (List.range 32).filter fun t => (x.tile t).key && (x.tile t).kst != .empty

/-- A token as a save area holds it (R115). -/
def Token.image (t : Token) : Nat := b2n t.poison <<< 16 ||| t.value.toNat

/-- The header of a save area (R74, R115). -/
def Engine.saveHeader (x : Engine) : Bytes :=
  let tiles := List.range 32
  let refill := x.refillTiles
  let q (n : Nat) : List Token := x.queue n
  leBytes 4 1 ++ leBytes 4 x.tenant ++ leBytes 8 x.retired ++ leBytes 4 x.inUseMask ++
    leBytes 4 ((refill.map fun t => 1 <<< t).sum) ++ zeros 8 ++
    (tiles.map fun t => leBytes 8 (tileCfgImage (x.tile t))).flatten ++
    (tiles.map fun t => leBytes 8 (if refill.contains t then (x.tile t).tag.toNat else 0)).flatten ++ zeros 224 ++
    leBytes 4 x.pc ++ leBytes 4 x.prog.length ++ leBytes 8 x.progBase.toNat ++ leBytes 8 x.argBase.toNat ++
    leBytes 8 x.stopCnt ++ ((List.range 8).map fun n => leBytes 4 (x.ctv n).toNat).flatten ++
    ((List.range 4).map fun n => leBytes 4 (x.cpv n).toNat).flatten ++ zeros 48 ++
    ((List.range 16).map fun n => leBytes 1 (q n).length).flatten ++ zeros 112 ++
    ((List.range 16).map fun n =>
      ((q n).map fun t => leBytes 4 t.image).flatten ++ zeros (64 - 4 * (q n).length)).flatten ++ zeros 2048

/-- The stream record of a save area (R264). -/
def Stream.saveRecord (x : Stream) : Bytes :=
  leBytes 8 x.simgBase.toNat ++ zeros 56 ++
    ((List.range 4).map fun n =>
      let v := x.slot n
      let p := v.pos.getD {}
      leBytes 1 v.st.num ++ leBytes 1 (v.pc % 16) ++ zeros 6 ++ leBytes 8 (posAImage v.pc p).toNat ++
        leBytes 8 (posBImage p).toNat ++ leBytes 4 ((v.kf.map fun k => k.next + b2n k.cur.isSome).getD 0) ++ zeros 4).flatten ++ zeros 64

/-- The images of the tiles in use (R74). -/
def Engine.saveImages (x : Engine) : Bytes :=
  (x.inUseTiles.map fun t => memRun x.tf 0 ((x.tile t).base * 64) (x.tile t).size).flatten

/-- SAVE_COMPLETE (R73): the engine and its group are quiet; the save area is written, the engine scrubbed, its key fills
abandoned, its noise key zeroed and its export bit cleared (R198, R218, R231). -/
def execSaveComplete (e : Fin 64) (s : State) : Out :=
  let x := s.eng e
  if x.st ≠ .saving ∨ x.window ≠ [] ∨ x.ringOp.isSome ∨ !s.saveQuiet e ∨ !s.groupQuiet e then .next s
  else
    let y := s.strm e
    let g := e.val / 4
    let kept : SavedProg :=
      { place := e.val % 4, slot := x.slot, launch := x.launch, firstFault := x.firstFault, anySkip := x.anySkip, result := x.result,
        rescPending := x.rescPending,
        kfs := (List.range 4).filterMap fun n => (y.slot n).kf.map fun k => (n, { k with asm := [] }),
        fills := (List.range 32).filterMap fun t => (x.tile t).fill.map fun f => (t, f),
        xcounts := (List.range 4).map fun n => (n, (y.slot n).xcount) }
    let s := (s.devWrite 0 x.saveBase.toNat (x.saveHeader ++ x.saveImages ++ y.saveRecord)).1
    let s := s.setEng e { x with tiles := [], tf := [], latch0 := none, latch1 := none, st := .saved, queues := [] }
    let s := s.setStrm e { simgBase := y.simgBase }
    let d := s.drip g
    let s := s.setDrip g { d with nk := tdel d.nk (e % 4), abuf := tdel d.abuf (e % 4) }
    let z := s.gal g
    .next (s.setGal g { z with xportPend := z.xportPend &&& ~~~(BitVec.ofNat 4 (1 <<< (e.val % 4))),
                               saved := tset z.saved x.saveBase.toNat kept })

/-! ## ENGINE_RESTORE, RESTORE_COMPLETE (R75, R88, R115, R264, R466) -/

/-- The fields of a save area's header. -/
structure SaveHdr where
  tenant : Nat
  retired : Nat
  inUse : Nat
  refill : Nat
  cfg : List Nat
  tags : List Nat
  pc : Nat
  ninstr : Nat
  progBase : Nat
  argBase : Nat
  stopCnt : Nat
  ct : List Nat
  cp : List Nat
  queues : List (List Token)

/-- The header that 4,096 bytes spell; none where SVER is not 1 (R75). -/
def saveHdrOf (b : Bytes) : Option SaveHdr :=
  let at_ (o n : Nat) : Nat := ofLe ((b.drop o).take n)
  if at_ 0 4 ≠ 1 then none
  else some
    { tenant := at_ 4 2, retired := at_ 8 8, inUse := at_ 0x10 4, refill := at_ 0x14 4,
      cfg := (List.range 32).map fun t => at_ (0x20 + 8 * t) 8, tags := (List.range 32).map fun t => at_ (0x120 + 8 * t) 8,
      pc := at_ 0x300 4, ninstr := at_ 0x304 4, progBase := at_ 0x308 8, argBase := at_ 0x310 8, stopCnt := at_ 0x318 8,
      ct := (List.range 8).map fun n => at_ (0x320 + 4 * n) 4, cp := (List.range 4).map fun n => at_ (0x340 + 4 * n) 4,
      queues := (List.range 16).map fun n =>
        (List.range (min (at_ (0x380 + n) 1) 16)).map fun k =>
          let v := at_ (0x400 + 64 * n + 4 * k) 4
          { value := BitVec.ofNat 16 (fld v 0 16), poison := bit v 16 } }

/-- The tile configurations of a save area on an empty tile file; none where they violate R65 (R75), or where they are no image that the
registers of a valid configuration read as: a reserved bit, a member without its head (DESIGN CHOICE log entry 114). -/
def cfgRestore (words : List Nat) : Option Engine :=
  let heads := (List.range 32).filter fun t => bit (words.getD t 0) 24 && !bit (words.getD t 0) 26
  let x : Option Engine := heads.foldl (fun (a : Option Engine) t =>
    match a with
    | some y => if y.cfgOk t (cfgOfWord (words.getD t 0)) then some (y.cfgApply t (cfgOfWord (words.getD t 0))) else none
    | none => none) (some {})
  match x with
  | some y => if (List.range 32).all fun t => tileCfgImage (y.tile t) == words.getD t 0 then some y else none
  | none => none

/-- The tile file with the saved images in place: tiles of INUSE in ascending order (R75). -/
def imagesRestore (x : Engine) : List Nat → Bytes → Engine
  | [], _ => x
  | t :: r, b =>
    let v := x.tile t
    imagesRestore (({ x with tf := memPut x.tf 0 (v.base * 64) (b.take v.size) }).setTile t { v with inUse := true }) r
      (b.drop v.size)

/-- A slot put back by a restore: its settings, state and position (R264). -/
def slotRestore (ws : List Nat) (rec_ : Bytes) (kept : Option SavedProg) (n : Nat) : Slot :=
  let at_ (o k : Nat) : Nat := ofLe ((rec_.drop (0x40 + 32 * n + o)).take k)
  let st := SlotState.ofNum (at_ 0 1)
  let pc := at_ 1 1
  let x := slotOfWords ws
  let x := (List.range pc).foldl (fun (x : Slot) k =>
    let w := x.word (k + 1)
    match sopOf w with
    | 1 => { x with src := placeOf w false }
    | 2 => { x with dst := placeOf w true }
    | 3 => { x with lvls := tset x.lvls (fld w 57 2) { count := fld w 40 17 + 1, ss := signed 20 (fld w 20 20), ds := signed 20 (fld w 0 20) } }
    | 4 => { x with clamp := if fld w 0 56 = 0 then none else some (fld w 28 28, fld w 0 28) }
    | 5 => { x with xform := some (fld w 41 18, fld w 36 5, bit w 35) }
    | _ => x) x
  { x with
    st := if fld (ws.getD 0 0) 56 8 = 0 then .unused else st, pc := pc,
    pos := if st = .parked ∨ (st = .draining ∧ sopOf (x.word (pc + 1)) = 6) then some (posOf (at_ 8 8) (at_ 16 8)) else none,
    kf := if sopOf (x.word 1) = 8 ∧ (st = .running ∨ st = .draining) then
        let k := (kept.bind fun k => (k.kfs.find? fun p => p.1 == n).map Prod.snd).getD {}
        some { k with next := at_ 24 4 - b2n k.cur.isSome }
      else none,
    xcount := (kept.map fun k => tget k.xcounts n 0).getD 0 }

/-- A refused restore: the code in FAULT_INFO, nothing else (R75). -/
def State.restoreFail (s : State) (e : Nat) (c : Code) : State :=
  let x := s.eng e
  s.setEng e { x with faultInfo := faultInfoImage c 0 none 0 }

/-- The noise key of the engine's tenant goes into the Drip's slot (R231). -/
def State.loadNk (s : State) (e : Nat) : State :=
  let d := s.drip (e / 4)
  s.setDrip (e / 4) { d with nk := tset d.nk (e % 4) (s.ctx (s.eng e).tenant).nk }

/-- What the gallery supervisor kept of the program that the engine's save area holds (R115, R174, R264). -/
def State.keptOf (s : State) (e : Nat) : Option SavedProg :=
  tget ((s.gal (e / 4)).saved.map fun p => (p.1, some p.2)) (s.eng e).saveBase.toNat none

/-- The stream unit and the command's slot as a save area names them, before the image is read (R264). -/
def State.restoreStream (s : State) (e : Nat) (rec_ : Bytes) : State :=
  (s.setStrm e { s.strm e with simgBase := BitVec.ofNat 64 (ofLe (rec_.take 8)) }).setEng e
    { s.eng e with slot := (s.keptOf e).bind SavedProg.slot }

/-- Every check of a restore has passed: the engine and its stream unit hold what was saved (R75, R115, R264); the supervisor has written
the seed bound to its command and the tenant's noise key (R228, R229, R231). -/
def State.restorePut (s : State) (e : Nat) (h : SaveHdr) (y : Engine) (ws : List (BitVec 128)) (images rec_ : Bytes)
    (img : List (List Nat)) : State :=
  let x := s.eng e
  let kept := s.keptOf e
  let z := imagesRestore y ((List.range 32).filter fun t => bit h.inUse t) images
  let heads := (List.range 32).filter fun n => bit h.refill n && !(z.tile n).member
  let tiles := heads.foldl (fun (z : Engine) n => z.setKey n .filling (BitVec.ofNat 64 (h.tags.getD n 0))) z
  let seed := match kept.bind SavedProg.slot with | some n => (s.slotJ n).seed | none => x.rndSeed
  let tiles := heads.foldl (fun (z : Engine) n =>
    match (kept.bind fun k => (k.fills.find? fun p => p.1 == n).map Prod.snd) with
    | some f => z.setFill n f.1 f.2
    | none => z) tiles
  let t := s.setEng e { x with
    tiles := tiles.tiles, tf := tiles.tf, latch0 := none, latch1 := none, st := .restoring,
    progBase := BitVec.ofNat 64 h.progBase, argBase := BitVec.ofNat 64 h.argBase, stopCnt := h.stopCnt,
    retired := h.retired, issued := h.retired, pc := h.pc, rndSeed := seed, rndLatched := seed, stopNow := false,
    ct := (List.range 8).map fun n => (n, BitVec.ofNat 32 (h.ct.getD n 0)),
    cp := (List.range 4).map fun n => (n, BitVec.ofNat 32 (h.cp.getD n 0)),
    queues := (List.range 16).map fun n => (n, h.queues.getD n []), prog := ws, window := [], ringOp := none,
    firstFault := (kept.bind SavedProg.firstFault), anySkip := (kept.map SavedProg.anySkip).getD false,
    ended := none, result := (kept.map SavedProg.result).getD 0,
    rescPending := (kept.map SavedProg.rescPending).getD 0, slot := kept.bind SavedProg.slot,
    launch := (kept.map SavedProg.launch).getD x.launch,
    refills := heads.map fun n => (n, BitVec.ofNat 64 (h.tags.getD n 0)) }
  let t := t.setStrm e { simgBase := BitVec.ofNat 64 (ofLe (rec_.take 8)),
                         slots := (List.range 4).map fun n => (n, slotRestore (img.getD n []) rec_ kept n) }
  let p := t.hdr (.engine e)
  (t.setHdr (.engine e) { p with halt := true }).loadNk e

/-- Bytes of the tile images of a save area (R74). -/
def SaveHdr.imageBytes (h : SaveHdr) (y : Engine) : Nat :=
  (((List.range 32).filter fun t => bit h.inUse t).map fun t => (y.tile t).size).sum

/-- A restore whose header has been read (R75, R115). -/
def State.restoreFrom (s : State) (e : Nat) (h : SaveHdr) (y : Engine) : State :=
  let imgLen := h.imageBytes y
  match s.devRead 0 ((s.eng e).saveBase.toNat + 4096) (imgLen + 256) with
  | (s, .error c) => s.restoreFail e c
  | (s, .ok b) =>
    match s.readProg e h.progBase with
    | (s, .error c) => s.restoreFail e c
    | (s, .ok (_, ws)) =>
      if ws.length ≠ h.ninstr then s.restoreFail e .badCommand
      else
        match (s.restoreStream e (b.drop imgLen)).readImage e with
        | (_, .error c) => s.restoreFail e c
        | (t, .ok img) => t.restorePut e h y ws b (b.drop imgLen) img

/-- A write of SAVE_CTL.RESTORE (R75, R88). -/
def State.restoreWrite (s : State) (e : Nat) : State :=
  let x := s.eng e
  if (x.st ≠ .idle ∧ x.st ≠ .saved) ∨ !inHbm x.saveBase.toNat 4096 then s.refuse (.engine e) .badCommand
  else
    match s.devRead 0 x.saveBase.toNat 4096 with
    | (s, .error c) => s.restoreFail e c
    | (s, .ok b) =>
      match saveHdrOf b with
      | none => s.restoreFail e .badCommand
      | some h =>
        match (if h.tenant = x.tenant then cfgRestore h.cfg else none) with
        | none => s.restoreFail e .badCommand
        | some y => s.restoreFrom e h y

/-- ENGINE_RESTORE (R75, R88). -/
def execEngineRestore (e : Fin 64) (s : State) : Out := .next (s.inner (.engine e) fun s => s.restoreWrite e)

/-- The lowest slot whose key fill feeds a tile. -/
def State.fillSlot (s : State) (e t : Nat) : Option Nat :=
  (List.range 4).find? fun n =>
    let w := (s.slotOf e n).word 1
    sopOf w == 8 && (List.range (kfKr w)).any fun m => (s.eng e).kfTile w m == t

/-- The chain entry, the rows and nothing else of the fill that a tag names (R184, R207, R209). -/
def tagPlan (c : Chain) (w : Nat) (h : KeyHdr) (tag : Nat) : Nat × List FillRow :=
  let d := fld tag 49 3
  if kfKind w then ((fillPlan c w h d).1, (fillPlan c w h d).2.1)
  else
    let lo := fld tag 58 6
    let hi := fld tag 52 6
    let ent := if hi < lo then 64 + hi else lo
    let lam := if ent < 64 then ent else c.l + (ent - 64)
    (ent, [.stored ((d * (c.l + h.nsp) + lam) * h.rowBytes c), .mask d])

/-- The KFILL word and the header's location by which a fill of a restore is reissued: what the tile keeps beside its tag, or what the
slot that feeds it says now (R75; log entry 22). -/
def State.refillFrom (s : State) (e t : Nat) (tag : Word64) : Option (Nat × Loc) :=
  match ((s.eng e).tile t).fill with
  | some f => (locOf f.2.toNat).map fun l => (f.1, l)
  | none =>
    match s.fillSlot e t with
    | some n =>
      let w := (s.slotOf e n).word 1
      let addr := fld tag.toNat 8 40 <<< 8
      some (w, match s.argSlot e (kfHslot w) with | (_, .ok (.sp h _)) => .sp h addr | _ => .va addr)
    | none => none

/-- A key fill reissued by a restore: the tile ends FULL with the bytes that its tag names, counted as any fill. One that fails leaves its
tile EMPTY and zero with a record, and the restore goes on; the bytes of a tag that no KFILL is known for are free values (R75, R212,
R219, R222; log entry 22). -/
def State.refill (s : State) (e t : Nat) (tag : Word64) : State :=
  let sl := ((List.range 4).find? fun n => match (s.slotOf e n).kf with | some k => k.cur == some t | none => false)
  let n := ((sl <|> s.fillSlot e t).getD 0)
  match s.refillFrom e t tag with
  | none =>
    let x := s.eng e
    let v := x.tile t
    let bs := (List.range (v.len * v.size)).map fun i => BitVec.ofNat 8 (s.free i)
    ((s.setEng e (({ x with tf := memPut x.tf 0 (v.base * 64) bs }).setKey t .full tag)).fillCount e).drawn
  | some (w, l) =>
    let c := s.chainOf (kfChain w)
    let d0 := match (s.slotOf e n).kf with | some k => k.next | none => 0
    let fail (s : State) (cd : Code) : State :=
      (s.setEng e (((s.eng e).zeroTile t).setKey t .empty 0)).fillFault e n 8 cd d0 l.addr
    match s.locRead e l 0 256 with
    | (s, _, some (_, cd)) => fail s cd
    | (s, h, none) =>
      let p := tagPlan c w h tag.toNat
      match s.fillRead e p.1 c h (l.plus 256) p.2 with
      | (s, .error cd) => fail s cd
      | (s, .ok (vs, d)) =>
        ((s.dripCount (e / 4) d).setEng e (((s.eng e).putElems t c.esz 0 vs).setKey t .full tag)).fillCount e

/-- A reissued fill that completes one which was FILLING at the save has its token due once (R75, R212). -/
def State.refillToken (s : State) (e n : Nat) : State :=
  match (s.slotOf e n).kf with
  | some k =>
    match k.cur with
    | some t =>
      s.setKf e n { k with cur := none, next := k.next + 1,
                           due := k.due ++ [{ value := BitVec.ofNat 16 k.next, poison := ((s.eng e).tile t).kst != .full }] }
    | none => s
  | none => s

/-- A key fill put back without its header reads it again (R211, R264). -/
def State.resumeKf (s : State) (e n : Nat) : State :=
  match (s.slotOf e n).kf with
  | some k =>
    if k.hdr.isEmpty && !k.failed then
      let s := (s.setSlotOf e n { s.slotOf e n with kf := none }).kfillStart e n
      match (s.slotOf e n).kf with
      | some k' => s.setKf e n { k' with next := k.next }
      | none => s
    else s
  | none => s

/-- RESTORE_COMPLETE (R75): every refill is done, key-fill slots hold an entry again, the engine is HALTED. -/
def execRestoreComplete (e : Fin 64) (s : State) : Out :=
  let x := s.eng e
  if x.st ≠ .restoring ∨ (!x.refills.isEmpty ∧ !s.dripReady e) then .next s
  else
    let s := x.refills.foldl (fun t p => t.refill e p.1 p.2) s
    let s := (List.range 4).foldl (fun t n => t.refillToken e n) s
    let s := s.setEng e { s.eng e with st := .halted, refills := [] }
    .next ((List.range 4).foldl
      (fun t n => (if (t.slotOf e n).st = .running then (t.needEnt e n).getD t else t).resumeKf e n) s)

/-! ## HSIG_WRITE (R197, R198) -/

/-- A write of HSIG (R197, R198, R200). -/
def State.hsigPut (s : State) (port fn g val : Nat) : State :=
  let j := fld val 32 2
  let e := 4 * g + j
  let y := s.gal g
  if !s.mayUse port fn (s.eng e).tenant then s.refuse (.gallery g) .permission
  else if !y.xportPend.getLsbD j ∨ fld val 48 16 ≠ fld (tget y.xportSeq j 0).toNat 0 16 then s.refuse (.gallery g) .badCommand
  else
    let s := s.setEng e ((s.eng e).push 15 { value := BitVec.ofNat 16 (fld val 0 16), poison := bit val 16 })
    s.setGal g { y with xportPend := y.xportPend &&& ~~~(BitVec.ofNat 4 (1 <<< j)) }

/-- HSIG_WRITE (R197). -/
def execHsigWrite (port : Fin 2) (fn : Fin 64) (g : Fin 16) (val : Word64) (s : State) : Out :=
  .next (s.gate (.gallery g) true fun s => s.hsigPut port fn g val.toNat)

end Sys2Proof.Machine
end

