-- ==== Sys2Proof/Machine/LinkUnit.lean ====
section
/-! DEFINITION. Peer links below the transfers: flits, credits, replay, bundles, routes, forwarding (R388-R390, R395-R400).
The payload of a link-local flit is in a form of the model's own (log entry 125). -/

namespace Sys2Proof.Machine

open Sys2Proof

/-! ## Flits (R389) -/

/-- TYPE codes of R389. -/
def tyIdle : Nat := 0
def tyWrite : Nat := 1
def tyToken : Nat := 2
def tyCompl : Nat := 3
def tyWait : Nat := 4
def tyRelease : Nat := 5
def tyAck : Nat := 8
def tyNak : Nat := 9
def tyCredit : Nat := 0xA
def tyIdent : Nat := 0xB
def tyMgmt : Nat := 0xC

/-- A link-local flit: zero in DEST, SRC, TTL and BSN; ACK and NAK carry their LSEQ, CREDIT its VC (R389, R390). -/
def localFlit (ty : Nat) (vc : Bool) (lseq : BitVec 12) (payload : Bytes) : Flit :=
  { type := ty, hdr := { vc := vc, ttl := 0, dest := 0, src := 0, bsn := 0, lseq := lseq }, payload := payload }

/-- An end-to-end flit before it takes its sequence numbers (R389). -/
def endFlit (ty ttl dest src : Nat) (payload : Bytes) : Flit :=
  { type := ty, payload := payload,
    hdr := { vc := false, ttl := Fin.ofNat 64 ttl, dest := Fin.ofNat 4096 dest, src := Fin.ofNat 4096 src, bsn := 0, lseq := 0 } }

/-- A flit is handed to a link's wire, as the 512 bytes of its image (R388; R407 event 0x01). -/
def State.wirePut (s : State) (n : Nat) (f : Flit) : State :=
  let s := s.event (.link n) 1 1
  let x := s.link n
  s.setLink n { x with wire := x.wire ++ [f], sent := flitImage f }

/-- Credit of a virtual channel (R390). -/
def Link.credit (x : Link) (vc : Bool) : Nat := if vc then x.credit1 else x.credit0
def Link.addCredit (x : Link) (vc : Bool) (k : Nat) : Link :=
  if vc then { x with credit1 := x.credit1 + k } else { x with credit0 := x.credit0 + k }
def Link.useCredit (x : Link) (vc : Bool) : Link :=
  if vc then { x with credit1 := x.credit1 - 1 } else { x with credit0 := x.credit0 - 1 }

/-! ## Bundles (R395-R397) -/

/-- The device's own ID, when valid (R398). -/
def Dev.ownId (d : Dev) : Option Nat := if d.devId.getLsbD 31 then some (fld d.devId.toNat 0 12) else none

/-- The partner's device ID, when valid (R406). -/
def Link.partnerId (x : Link) : Option Nat :=
  if x.partnerDevId.getLsbD 31 then some (fld x.partnerDevId.toNat 0 12) else none

/-- An ACTIVE link may carry a flit: its role allows it (R395), and its version has a WAIT flit (R393). -/
def State.linkCarries (s : State) (n : Nat) (f : Flit) : Bool :=
  let x := s.link n
  let ends : List (Option Nat) := [some f.hdr.src.val, some f.hdr.dest.val]
  x.st == .active && (f.type != tyWait || x.pver == 2) &&
    (x.roleEff == 1 || (x.roleEff == 2 && ((s.dev.ownId.isSome && ends.contains s.dev.ownId) ||
      (x.partnerId.isSome && ends.contains x.partnerId))))

/-- ACTIVE links of a bundle that may carry a flit. -/
def State.bundleLinks (s : State) (b : Nat) (f : Flit) : List Nat :=
  (List.range 64).filter fun n => (s.link n).bundleEff == b && s.linkCarries n f

/-- The link with the most credit free, the lowest of equals (R397). -/
def State.mostCredit (s : State) (vc : Bool) : List Nat → Option Nat
  | [] => none
  | n :: r =>
    match s.mostCredit vc r with
    | none => some n
    | some m => if (s.link n).credit vc < (s.link m).credit vc then some m else some n

/-- The link that carries a flit of a bundle now: of those that may and that have credit and room in their replay buffer of 512, the one with
the most credit free (R390, R397). -/
def State.linkFor (s : State) (b : Nat) (f : Flit) : Option Nat :=
  s.mostCredit f.hdr.vc ((s.bundleLinks b f).filter fun n =>
    (s.link n).credit f.hdr.vc != 0 && decide ((s.link n).replay.length < 512))

/-- A flit leaves on a link: on a credit, with the link's next LSEQ, held for replay (R390). -/
def State.sendLink (s : State) (n : Nat) (f : Flit) : State :=
  let x := s.link n
  let f := { f with hdr := { f.hdr with lseq := x.txLseq } }
  (s.setLink n { x.useCredit f.hdr.vc with replay := x.replay ++ [f], txLseq := x.txLseq + 1 }).wirePut n f

/-- The first flit of each virtual channel: the flits of one channel stay in order (R397). -/
def firstOfVc : List Flit → List Flit
  | [] => []
  | f :: r => f :: ((r.find? fun g => g.hdr.vc != f.hdr.vc).toList)

/-- The flit of a list that leaves next, with its link. -/
def State.sendable (s : State) (b : Nat) (l : List Flit) : Option (Flit × Nat) :=
  (firstOfVc l).findSome? fun f => (s.linkFor b f).map fun n => (f, n)

/-- A bundle sends what it may: flits of a link that went down keep their BSNs and go first; forwarded and local flits alternate and take the
bundle's next BSN (R397, R400). The first argument bounds the flits. -/
def State.pumpGo (s : State) (b : Nat) : Nat → State
  | 0 => s
  | k + 1 =>
    let y := s.bundle b
    match s.sendable b y.resend with
    | some (f, n) => ((s.setBundle b { y with resend := y.resend.erase f }).sendLink n f).pumpGo b k
    | none =>
      let of_ (fwd : Bool) : Option (Bool × Flit × Nat) :=
        (s.sendable b ((y.tx.filter fun p => p.1 == fwd).map Prod.snd)).map fun p => (fwd, p)
      match (of_ (!y.lastFwd)).orElse fun _ => of_ y.lastFwd with
      | some (fwd, f, n) =>
        ((s.setBundle b { y with tx := y.tx.erase (fwd, f), lastFwd := fwd, txBsn := y.txBsn + 1 }).sendLink n
          { f with hdr := { f.hdr with bsn := y.txBsn } }).pumpGo b k
      | none => s

/-- A bundle sends what it may (R390, R397). -/
def State.pump (s : State) (b : Nat) : State := s.pumpGo b ((s.bundle b).resend.length + (s.bundle b).tx.length)

/-- A flit enters a bundle, forwarded or this device's own; none: no link of it may carry it (R397, R400). -/
def State.bundleSend (s : State) (b : Nat) (fwd : Bool) (f : Flit) : Option State :=
  if s.bundleLinks b f = [] then none
  else
    let y := s.bundle b
    some ((s.setBundle b { y with tx := y.tx ++ [(fwd, f)] }).pump b)

/-- A bundle is up while a link of it is ACTIVE (R396). -/
def State.bundleUp (s : State) (b : Nat) : Bool :=
  (List.range 64).any fun n => (s.link n).st == .active && (s.link n).bundleEff == b

/-! ## Routes (R399, R400) -/

/-- The route of a destination: the bundle and how VC is set; the entry of the device's own ID is ignored (R399, R400). -/
def State.routeTo (s : State) (dest : Nat) : Option (Nat × Nat) :=
  if s.dev.ownId = some dest then none
  else
    match s.dev.routes.find? fun p => p.1 == dest with
    | none => none
    | some (_, r) =>
      if s.bundleUp r.pri then some (r.pri, r.vcop)
      else
        match r.alt with
        | some a => if s.bundleUp a then some (a, r.avcop) else none
        | none => none

/-- VCOP and AVCOP (R399). -/
def vcAfter (op : Nat) (vc : Bool) : Bool := if op = 1 then true else if op = 2 then false else vc

/-- A flit leaves towards its destination, forwarded or this device's own; none: no route or no link carries it (R399, R400). -/
def State.sendOn (s : State) (fwd : Bool) (f : Flit) : Option State :=
  match s.routeTo f.hdr.dest.val with
  | none => none
  | some (b, op) => s.bundleSend b fwd { f with hdr := { f.hdr with vc := vcAfter op f.hdr.vc } }

/-- An error record whose class, DETAIL0 and DETAIL1, and code where none is given, the spec does not state: free values. -/
def State.freeErr (s : State) (p : Page) (c : Option Code) : State :=
  let code := c.getD (Code.ofNum (s.free 1 % 256))
  let r := { p.errRec (Cls.ofNum (s.free 0 % 7)) code with d0 := BitVec.ofNat 64 (s.free 2), d1 := BitVec.ofNat 64 (s.free 3) }
  s.drawn.logErr r

/-- A flit that came on a link is discarded, counted, and reported (R400). -/
def State.dropFlit (s : State) (n : Nat) : State := (s.event (.link n) 8 1).freeErr (.link n) none

/-- A flit for another device is forwarded (R400). -/
def State.forward (s : State) (n : Nat) (f : Flit) : State :=
  if f.hdr.ttl.val ≤ 1 then s.dropFlit n
  else
    match s.sendOn true { f with hdr := { f.hdr with ttl := Fin.ofNat 64 (f.hdr.ttl.val - 1) } } with
    | some t => t.event (.link n) 6 1
    | none => s.dropFlit n

/-- Flits that no link of their bundle may carry any more go by the route as it now is (R397, R405). -/
def State.reroute (s : State) (n : Nat) (fs : List (Bool × Flit)) : State :=
  fs.foldl (fun t p => match t.sendOn p.1 p.2 with | some u => u | none => t.dropFlit n) s

/-- A link has left ACTIVE for good: its unacknowledged flits are resent on the bundle's other links with their BSNs, and what the bundle can no
longer carry goes elsewhere (R397). -/
def State.linkLost (s : State) (n : Nat) : State :=
  let x := s.link n
  let b := x.bundleEff
  let s := s.setLink n { x with replay := [], lastReplay := none }
  let y := s.bundle b
  let can (f : Flit) : Bool := !(s.bundleLinks b f).isEmpty
  let old := x.replay ++ y.resend
  let s := s.setBundle b { y with resend := old.filter can, tx := y.tx.filter fun p => can p.2 }
  (s.pump b).reroute n (((old.filter fun f => !can f).map fun f => (true, f)) ++ y.tx.filter fun p => !can p.2)

/-! ## Acknowledgement and replay (R390) -/

/-- The flits from the one with this LSEQ on; none where it is not there. -/
def fromLseq (l : BitVec 12) : List Flit → Option (List Flit)
  | [] => none
  | f :: r => if f.hdr.lseq = l then some (f :: r) else fromLseq l r

/-- A link takes link-local flits (R394). -/
def Link.hears (x : Link) : Bool := x.st == .found || x.st == .active

/-- A link-local flit arrives (R407 event 0x02). -/
def State.heard (s : State) (n : Nat) (k : State → State) : State :=
  if (s.link n).hears then k (s.event (.link n) 2 1) else s

/-- ACK (R390): every flit up to the acknowledged LSEQ is freed. -/
def execAck (n : Fin 64) (lseq : BitVec 12) (s : State) : Out :=
  .next (s.heard n fun s =>
    let x := s.link n
    match fromLseq lseq x.replay with
    | none => s
    | some l => (s.setLink n { x with replay := l.tail }).pump x.bundleEff)

/-- NAK (R390): every flit from the expected LSEQ on is sent again. -/
def execNak (n : Fin 64) (lseq : BitVec 12) (s : State) : Out :=
  .next (s.heard n fun s =>
    let x := s.link n
    match fromLseq lseq x.replay with
    | none => s
    | some l =>
      let times := match x.lastReplay with | some (k, c) => if k = lseq then c + 1 else 1 | none => 1
      let y := { x with lastReplay := some (lseq, times), replays := x.replays + BitVec.ofNat 64 l.length }
      let t := (s.setLink n y).event (.link n) 3 l.length
      l.foldl (fun t f => t.wirePut n f) t)

/-- CREDIT (R390). -/
def execCredit (n : Fin 64) (vc : Bool) (count : Nat) (s : State) : Out :=
  .next (s.heard n fun s => (s.setLink n ((s.link n).addCredit vc count)).pump (s.link n).bundleEff)

/-- IDLE (R389). -/
def execIdle (n : Fin 64) (s : State) : Out := .next (s.heard n id)

/-- MGMT (R389): the spec gives its payload no effect on the state. -/
def execMgmt (n : Fin 64) (_payload : Bytes) (s : State) : Out := .next (s.heard n id)

/-- FLIT_CRC_FAIL (R390): NAK with the LSEQ expected. How many codewords failed FEC is not stated: a free count. -/
def execFlitCrcFail (n : Fin 64) (s : State) : Out :=
  .next (if (s.link n).hears then
    let s := s.event (.link n) 4 1
    let x := s.link n
    let t := (s.setLink n { x with fecUncorr := x.fecUncorr + BitVec.ofNat 64 (s.free 0) }).drawn
    t.wirePut n (localFlit tyNak false x.rxLseq [])
  else s)

/-! ## Reception (R390, R395, R397) -/

/-- The flits that a bundle may now deliver, in BSN order, from those held; the number bounds them. -/
def drainHeld : Nat → Word16 → List (Nat × Flit) → List (Nat × Flit) × Word16 × List (Nat × Flit)
  | 0, b, h => ([], b, h)
  | k + 1, b, h =>
    match h.find? fun p => p.2.hdr.bsn == b with
    | none => ([], b, h)
    | some p =>
      let r := drainHeld k (b + 1) (h.filter fun q => q.2.hdr.bsn != b)
      (p :: r.1, r.2.1, r.2.2)

/-- An end-to-end flit arrives on a link: taken in LSEQ order, acknowledged and its credit returned (R390; at once: log entry
39), then put in BSN order with a window of 4,096 (R397). The answer lists what the bundle delivers, with the link of each. -/
def State.receive (s : State) (n : Nat) (f : Flit) : State × List (Nat × Flit) :=
  let x := s.link n
  if x.st ≠ .active then (s, [])
  else
    let s := s.event (.link n) 2 1
    let x := s.link n
    if f.hdr.lseq ≠ x.rxLseq then (s, [])
    else
      let s := s.setLink n { x with rxLseq := x.rxLseq + 1 }
      let s := s.wirePut n (localFlit tyAck false f.hdr.lseq [])
      let s := s.wirePut n (localFlit tyCredit f.hdr.vc 0 [1])
      let b := x.bundleEff
      let y := s.bundle b
      let ahead := (f.hdr.bsn - y.rxBsn).toNat
      if 4096 ≤ ahead ∨ (y.held.any fun p => p.2.hdr.bsn == f.hdr.bsn) then (s, [])
      else
        let h := y.held ++ [(n, f)]
        let r := drainHeld h.length y.rxBsn h
        (s.setBundle b { y with rxBsn := r.2.1, held := r.2.2 }, r.1)

end Sys2Proof.Machine
end

