-- ==== Sys2Proof/Machine/Transfers.lean ====
section
/-! DEFINITION. Transfers between devices: windows, the delivery table, tokens, completion, resending, release (R298, R300,
R349, R389, R401-R404). -/

namespace Sys2Proof.Machine

open Sys2Proof

/-! ## Payloads (R389) -/

def writePayload (xid : Word64) (win srcTenant off : Nat) (data : Bytes) : Bytes :=
  leBytes 8 xid.toNat ++
    leBytes 8 ((win % 256) <<< 56 ||| (srcTenant % 1024) <<< 46 ||| (data.length % 512) <<< 37 ||| off % 2 ^ 36) ++ data

def tokenPayload (xid : Word64) (win engine : Nat) (q13 poison : Bool) (value : Word16) (bytes : Word64) : Bytes :=
  leBytes 8 xid.toNat ++
    leBytes 8 ((win % 256) <<< 56 ||| (engine % 64) <<< 48 ||| b2n q13 <<< 47 ||| b2n poison <<< 16 ||| value.toNat) ++
    leBytes 8 bytes.toNat

def complPayload (xid : Word64) (status : Byte) : Bytes := leBytes 8 xid.toNat ++ [status]

def waitPayload (xid : Word64) : Bytes := leBytes 8 xid.toNat

def releasePayload (srcDev slot : Nat) : Bytes := leBytes 8 ((srcDev % 4096) <<< 52 ||| slot % 8192)

/-- The 8-byte word at a payload's offset. -/
def Flit.at8 (f : Flit) (o : Nat) : Nat := ofLe ((f.payload.drop o).take 8)

/-! ## The source (R401, R404) -/

/-- The XID of a slot's transfer (R401). -/
def State.xidOf (s : State) (e n : Nat) : Word64 :=
  let x := s.eng e
  BitVec.ofNat 64 (s.dev.ownId.getD 0 <<< 52 ||| x.slot.getD 0 <<< 39 ||| (x.launch % 4) <<< 37 ||| n <<< 35 |||
    (s.slotOf e n).xcount % 2 ^ 35)

/-- Transfers of a slot that have not been delivered. -/
def State.inFlight (s : State) (e n : Nat) : List Transfer := s.dev.transfers.filter fun t => t.eng == e && t.slot == n

/-- Change the transfer with an XID. -/
def State.modTransfer (s : State) (xid : Word64) (f : Transfer → Transfer) : State :=
  { s with dev := { s.dev with transfers := s.dev.transfers.map fun t => if t.xid = xid then f t else t } }

/-- The tokens that follow a slot's delivered transfers come due in order; the slot may have finished. -/
def State.flushDone (s : State) (e n : Nat) : State :=
  let run := (s.inFlight e n).takeWhile fun t => t.done
  let gone := run.map fun t => t.xid
  let s := { s with dev := { s.dev with transfers := s.dev.transfers.filter fun t => !(gone.contains t.xid) } }
  let x := s.slotOf e n
  (s.setSlotOf e n { x with out := x.out ++ (run.map fun t => t.own).flatten }).slotDone e n

/-- A transfer ends: OK, or the slot drains with the code and the tokens that follow carry poison (R252, R404). -/
def State.endTransfer (s : State) (t : Transfer) (c : Code) : State :=
  if c = .ok then (s.modTransfer t.xid fun t => { t with done := true }).flushDone t.eng t.slot
  else
    let s := s.modTransfer t.xid fun t =>
      { t with done := true, own := t.own.map fun m => { m with tok := { m.tok with poison := true } } }
    let s := if (s.slotOf t.eng t.slot).st = .draining then s else s.slotFail t.eng t.slot 6 c (s.free 1)
    s.flushDone t.eng t.slot

/-- A transfer whose COMPL may arrive. -/
def State.awaiting (s : State) (xid : Word64) : Option Transfer :=
  s.dev.transfers.find? fun t => t.xid == xid && !t.done && decide (t.tries ≠ 0)

/-- A COMPL (R401, R402, R404): QUEUE_WOULD_BLOCK leaves the transfer to be sent again after E2E_LIMIT; one that belongs to no
transfer is discarded (R405). -/
def State.takeCompl (s : State) (xid : Word64) (status : Nat) : State :=
  match s.awaiting xid with
  | none => s
  | some t => if Code.ofNum status = .queueWouldBlock then s else s.endTransfer t (Code.ofNum status)

/-- A transfer whose path is lost (R404; where an attempt would be sent: log entry 41). -/
def State.peerLost (s : State) (t : Transfer) : State := (s.endTransfer t .peerLost).freeErr .dev (some .peerLost)

/-- A destination that can be reached: this device, or one with a route whose bundle is up. -/
def State.reachable (s : State) (dest : Nat) : Bool := s.dev.ownId == some dest || (s.routeTo dest).isSome

/-! ## The destination (R300, R402, R403) -/

/-- The open window that a flit's source may use (R300). -/
def State.winFor (s : State) (win src : Nat) : Option Win :=
  match tget s.dev.wins win none with
  | some w => if !w.closing && w.srcs.any (fun r => decide (r.1 ≤ src) && decide (src ≤ r.2)) then some w else none
  | none => none

/-- Every run of an accepted write goes to its home slice; a codeword that is uncorrectable there is reported by the stack (R292, R300). -/
def State.writeEach (s : State) : List (Nat × Nat × Nat) → Bytes → State
  | [], _ => s
  | (_, d, m) :: r, bs => (s.devWrite 0 d (bs.take m)).1.writeEach r (bs.drop m)

/-- A window write (R300): refused, it changes no byte; accepted, all of it goes on. -/
def State.windowWrite (s : State) (win src srcTenant off : Nat) (data : Bytes) : State × Bool :=
  match s.winFor win src with
  | none => (s, false)
  | some w =>
    if w.srcTenant ≠ srcTenant ∨ w.pages * 65536 < off + data.length then (s, false)
    else
      match s.xlateAll none w.tenant (w.base + off) data.length true with
      | (s, _, some _) => (s, false)
      | (s, runs, none) =>
        (s.writeEach runs data, true)

/-- Entries of the delivery table with an XID. -/
def State.delivered (s : State) (xid : Word64) : Option Dedup := s.dev.dedup.find? fun d => d.xid == xid

/-- The 16 bytes of one entry of the delivery table in HBM change: which, and their layout beside the XID, is not stated
(free values, log entry 40). -/
def State.dedupBytes (s : State) (head : Bytes) : State :=
  let a := s.dev.dedupBase.toNat + 16 * (s.free 0 % 4096)
  let tail := (List.range (16 - head.length)).map fun i => BitVec.ofNat 8 (s.free (1 + i))
  ((s.devWrite 0 a (head ++ tail)).1).drawn

/-- An entry joins the delivery table (R402). -/
def State.dedupPut (s : State) (d : Dedup) : State :=
  let s := { s with dev := { s.dev with dedup := s.dev.dedup ++ [d], refused := s.dev.refused.filter fun x => x != d.xid } }
  s.dedupBytes (leBytes 8 d.xid.toNat)

/-- A WRITE flit is applied (R300, R402): one whose XID is in the table is discarded; a refusal is kept for the COMPL and
reported once for each transfer. -/
def State.takeWrite (s : State) (p : Page) (src : Nat) (f : Flit) : State :=
  let xid : Word64 := BitVec.ofNat 64 (f.at8 0)
  let w := f.at8 8
  if (s.delivered xid).isSome then s
  else
    match s.windowWrite (fld w 56 8) src (fld w 46 10) (fld w 0 36) ((f.payload.drop 16).take (fld w 37 9)) with
    | (s, true) => s
    | (s, false) =>
      if s.dev.refused.contains xid then s
      else ({ s with dev := { s.dev with refused := s.dev.refused ++ [xid] } }).freeErr p none

/-- A flit of this device's own starts with TTL = HOP_BUDGET and VC 0 (R400). -/
def State.ownFlit (s : State) (ty dest : Nat) (payload : Bytes) : Flit :=
  endFlit ty s.dev.hopBudget dest (s.dev.ownId.getD 0) payload

/-- A flit of this device's own leaves; one without a route is discarded and reported (R400). -/
def State.sendOut (s : State) (f : Flit) : State :=
  match s.sendOn false f with
  | some t => t
  | none => s.freeErr .dev none

/-- COMPL and WAIT go to the source of a transfer (R402); to this device itself they are consumed here (R400). -/
def State.answerCompl (s : State) (dest : Nat) (xid : Word64) (c : Code) : State :=
  if s.dev.ownId = some dest then s.takeCompl xid c.num else s.sendOut (s.ownFlit tyCompl dest (complPayload xid c.byte))

def State.answerWait (s : State) (dest : Nat) (xid : Word64) : State :=
  if s.dev.ownId = some dest then s
  else
    match s.sendOn false (s.ownFlit tyWait dest (waitPayload xid)) with
    | some t => t
    | none => s

/-- An engine is saved, saves or restores (R349, R402). -/
def Engine.away (x : Engine) : Bool := x.st == .saving || x.st == .saved || x.st == .restoring

/-- A token waits while its engine is saved, saves or restores (R349, R402) or is held in reset (R24), its queue is full (R96), or
recorded tokens wait before it (R403). -/
def State.tokWaits (s : State) (e q : Nat) : Bool :=
  let x := s.eng e
  x.away || x.inReset || !x.room q ||
    s.dev.replayW.any fun w => w.1 == e && w.2.1 == q

/-- An earlier token still waits for the same queue (R22, R105). -/
def WaitTok.before (v : WaitTok) (l : List WaitTok) : Bool := (l.takeWhile fun u => u != v).any fun u => u.eng == v.eng && u.q == v.q

/-- A token enters its queue, is recorded and answered with OK (R402). -/
def State.enterTok (s : State) (v : WaitTok) : State :=
  let x := s.eng v.eng
  let s := s.setEng v.eng (x.push v.q v.tok)
  let s := s.dedupPut { xid := v.xid, status := .ok, slot := x.slot, tok := some (v.eng, v.q, v.tok) }
  s.answerCompl v.dest v.xid .ok

/-- The token of a TOKEN flit; none where ENGINE, VALUE and QSEL are zero without poison (R401). -/
def Flit.tok (f : Flit) : Option (Nat × Nat × Token) :=
  let w := f.at8 8
  let t : Token := { value := BitVec.ofNat 16 (fld w 0 16), poison := bit w 16 }
  if fld w 48 6 = 0 ∧ !bit w 47 ∧ !t.poison ∧ t.value = 0 then none
  else some (fld w 48 6, if bit w 47 then 13 else 12, t)

/-- A TOKEN flit (R105, R402): answered from the table when it is a repeat; PERMISSION after a refused write, a window that no
longer allows it, or an engine of another tenant; otherwise delivered, or kept until its engine takes it. -/
def State.takeToken (s : State) (src : Nat) (f : Flit) : State :=
  let xid : Word64 := BitVec.ofNat 64 (f.at8 0)
  let tok := f.tok
  match s.dev.dedup.find? fun d => d.xid == xid && (d.tok == tok || d.status != .ok) with
  | some d => s.answerCompl src xid d.status
  | none =>
    if s.dev.waitToks.any fun v => v.xid == xid && some (v.eng, v.q, v.tok) == tok then s
    else if 4096 ≤ s.dev.dedup.length then s.answerCompl src xid .queueWouldBlock
    else
      let own := match tok with | some (e, _, _) => (s.eng e).slot | none => none
      let refuse := (s.dedupPut { xid := xid, status := .permission, slot := own, tok := none }).answerCompl src xid .permission
      match s.winFor (fld (f.at8 8) 56 8) src with
      | none => refuse
      | some w =>
        if s.dev.refused.contains xid then refuse
        else
          match tok with
          | none => (s.dedupPut { xid := xid, status := .ok, slot := none, tok := none }).answerCompl src xid .ok
          | some (e, q, t) =>
            if (s.eng e).tenant ≠ w.tenant then refuse
            else
              let v : WaitTok := { xid := xid, dest := src, eng := e, q := q, tok := t }
              if s.tokWaits e q ∨ v.before s.dev.waitToks then { s with dev := { s.dev with waitToks := s.dev.waitToks ++ [v] } } else s.enterTok v

/-- RELEASE (R403): the table's entries of a source's journal slot are freed. -/
def State.takeRelease (s : State) (srcDev slot : Nat) : State :=
  let mine (x : Word64) : Bool := fld x.toNat 52 12 == srcDev && fld x.toNat 39 13 == slot
  let gone := s.dev.dedup.filter fun d => mine d.xid
  let s := { s with dev := { s.dev with dedup := s.dev.dedup.filter fun d => !mine d.xid } }
  gone.foldl (fun t _ => t.dedupBytes []) s

/-- A flit for this device is consumed (R400). -/
def State.consume (s : State) (p : Page) (f : Flit) : State :=
  let src := f.hdr.src.val
  if f.type = tyWrite then s.takeWrite p src f
  else if f.type = tyToken then s.takeToken src f
  else if f.type = tyCompl then s.takeCompl (BitVec.ofNat 64 (f.at8 0)) (ofLe ((f.payload.drop 8).take 1))
  else if f.type = tyRelease then s.takeRelease (fld (f.at8 0) 52 12) (fld (f.at8 0) 0 13)
  else s

/-- A bundle delivers a flit that came on link n: consumed here, discarded by an EDGE link, or forwarded (R395, R400). -/
def State.deliver (s : State) (n : Nat) (f : Flit) : State :=
  if s.dev.ownId = some f.hdr.dest.val then s.consume (.link n) f
  else if (s.link n).roleEff = 2 then s.event (.link n) 8 1
  else s.forward n f

/-- An end-to-end flit arrives on link n. -/
def State.arrive (s : State) (n : Nat) (f : Flit) : State :=
  let r := s.receive n f
  r.2.foldl (fun t p => t.deliver p.1 p.2) r.1

/-- The flit that a command spells. -/
def flitOf (ty : Nat) (h : FlitHdr) (payload : Bytes) : Flit := { type := ty, hdr := h, payload := payload }

/-! ## Commands -/

/-- WRITE (R402). -/
def execWrite (n : Fin 64) (h : FlitHdr) (xid : Word64) (win : Fin 256) (srcTenant : Fin 1024) (off : Nat) (data : Bytes)
    (s : State) : Out :=
  .next (s.arrive n (flitOf tyWrite h (writePayload xid win srcTenant off data)))

/-- TOKEN (R402). -/
def execToken (n : Fin 64) (h : FlitHdr) (xid : Word64) (win : Fin 256) (engine : Fin 64) (q13 poison : Bool) (value : Word16)
    (bytes : Word64) (s : State) : Out :=
  .next (s.arrive n (flitOf tyToken h (tokenPayload xid win engine q13 poison value bytes)))

/-- COMPL (R401). -/
def execCompl (n : Fin 64) (h : FlitHdr) (xid : Word64) (status : Byte) (s : State) : Out :=
  .next (s.arrive n (flitOf tyCompl h (complPayload xid status)))

/-- WAIT (R401): the timer of the transfer starts again; timers are commands here (E2E_TIMEOUT). -/
def execWait (n : Fin 64) (h : FlitHdr) (xid : Word64) (s : State) : Out :=
  .next (s.arrive n (flitOf tyWait h (waitPayload xid)))

/-- RELEASE (R403). -/
def execRelease (n : Fin 64) (h : FlitHdr) (srcDev : Fin 4096) (slot : Fin 8192) (s : State) : Out :=
  .next (s.arrive n (flitOf tyRelease h (releasePayload srcDev slot)))

/-- WAIT_TIMER (R402): a waiting token is delivered when its engine takes it and none waits before it (R105); while its engine is saved,
saves or restores, WAIT goes to its source. -/
def execWaitTimer (xid : Word64) (s : State) : Out :=
  match s.dev.waitToks.find? fun v => v.xid == xid with
  | none => .next s
  | some v =>
    if s.tokWaits v.eng v.q ∨ v.before s.dev.waitToks then .next (if (s.eng v.eng).away then s.answerWait v.dest xid else s)
    else
      let s := { s with dev := { s.dev with waitToks := s.dev.waitToks.filter fun u => u != v } }
      .next (if 4096 ≤ s.dev.dedup.length then s.answerCompl v.dest xid .queueWouldBlock else s.enterTok v)

/-- A flit of this device's own goes to its destination, which may be this device (R400). -/
def State.originate (s : State) (f : Flit) : State :=
  let f := s.ownFlit f.type f.hdr.dest.val f.payload
  if s.dev.ownId = some f.hdr.dest.val then s.consume .dev f
  else
    match s.sendOn false f with
    | some t => t
    | none => s

/-- E2E_TIMEOUT (R404): the transfer is sent again in full, or ends with PEER_LOST. -/
def execE2eTimeout (xid : Word64) (s : State) : Out :=
  match s.awaiting xid with
  | none => .next s
  | some t =>
    if s.dev.e2eTries ≤ t.tries ∨ !s.reachable t.dest then .next (s.peerLost t)
    else .next (t.flits.foldl (fun u f => u.originate f) (s.modTransfer xid fun t => { t with tries := t.tries + 1 }))

end Sys2Proof.Machine
end

