-- ==== Sys2Proof/Machine/Links.lean ====
section
/-! DEFINITION. Peer links: training, identity, roles, loss; the route store and the device ID (R391-R399, R405, R406). -/

namespace Sys2Proof.Machine

open Sys2Proof

/-! ## Training (R391, R394) -/

/-- LINK.IRQ_STS bits (R406). -/
def irqFound : Nat := 0
def irqDown : Nat := 1
def irqWidth : Nat := 2

/-- A link enters TRAINING: ROLE clears, and the identity of an ACTIVE link is kept for the comparison of R394. DOWN_CAUSE is
written where the link leaves ACTIVE; the cause is the one given, or a free value where the spec names none (R406). -/
def State.train (s : State) (n : Nat) (cause : Option Nat) : State :=
  let x := s.link n
  let act := x.st = .active
  let y := { x with
    st := .training, roleEff := 0, pver := 0, nonceOut := [], nonceIn := [], laneLocked := 0, trained := true,
    retrains := if x.trained then x.retrains + 1 else x.retrains,
    downCause := if act then cause.getD (s.free 0 % 256) else x.downCause,
    lastReplay := none,
    before := if act then some (x.roleEff, x.partnerFp, x.partnerDevId, x.partnerLink) else x.before }
  let s := if act ∧ cause.isNone then s.drawn else s
  s.setLink n y

/-- A training attempt ends without the link, or the link is disabled (R394, R405, R406): its flits go elsewhere. -/
def State.linkStop (s : State) (n : Nat) (st : LinkState) (cause : Nat) : State :=
  let x := s.link n
  let had := x.before.isSome || x.st = .active
  let s := s.setLink n { x with st := st, downCause := cause, retrain := false, roleEff := 0, before := none, width := 0, lanes := 0 }
  let s := s.linkLost n
  let s := if st = .down then s.raise (.link n) irqDown else s
  (if had ∧ st = .down then s.logErr ((Page.link n).errRec .degraded (Code.ofNum (s.free 0 % 256))) else s).drawn

/-- The lanes that training selects, by those that pass (R391): all four, lanes 0-1, lanes 2-3, or the lowest. -/
def lanesOf (pass : BitVec 4) : BitVec 4 :=
  if pass = 0xF then 0xF
  else if pass &&& 0x3 = 0x3 then 0x3
  else if pass &&& 0xC = 0xC then 0xC
  else if pass.getLsbD 0 then 1 else if pass.getLsbD 1 then 2 else if pass.getLsbD 2 then 4 else if pass.getLsbD 3 then 8 else 0

/-- The width that training selects (R391). -/
def widthOf (pass : BitVec 4) : Nat := if pass = 0xF then 4 else if pass = 0 then 0 else
  if lanesOf pass = 0x3 ∨ lanesOf pass = 0xC then 2 else 1

/-- A fresh value of the Geode's generator (R435). -/
def State.geodeDraw (s : State) (len : Nat) : State × Bytes :=
  ({ s with geode := { s.geode with drawn := s.geode.drawn + 1 } }, Config.geodeRandom s.geode.drawn len)

/-- PVER_SUP at stepping B0 (R393). -/
def pverSup : Nat := 0x6

/-- The link sends its nonce, and advertises its PVER_SUP with it, and waits for the partner's (R392, R393). The place of both in the flit is the
model's own form: a number of the piece, PVER_SUP, the bytes (log entry 125). -/
def State.sendNonce (s : State) (n : Nat) : State :=
  let r := s.geodeDraw 32
  let s := r.1.setLink n { r.1.link n with nonceOut := r.2 }
  s.wirePut n (localFlit tyIdent false 0 ([0, BitVec.ofNat 8 pverSup] ++ r.2))

/-- LINK_TRAIN_COMPLETE (R391, R394, R406). -/
def execLinkTrainComplete (n : Fin 64) (signal : Bool) (pass : BitVec 4) (s : State) : Out :=
  let x := s.link n
  if x.st ≠ .training then .next s
  else
    let pass := if signal then pass else 0
    let w := widthOf pass
    let y := { x with laneLocked := pass, laneFailed := ~~~pass }
    let t := s.setLink n y
    if !signal then .next (t.linkStop n .down 2)
    else if w = 0 then .next (t.linkStop n .down 3)
    else if w < x.minw then .next (t.linkStop n .down 5)
    else
      let t := t.setLink n { y with st := .ident, width := w, lanes := lanesOf pass }
      let t := if w ≠ x.width then t.raise (.link n) irqWidth else t
      let t := if w < x.width then
          (t.logErr ((Page.link n).errRec .degraded (Code.ofNum (t.free 0 % 256)))).drawn
        else t
      .next (t.sendNonce n)

/-- LINK_DOWN_RETRY (R394). -/
def execLinkDownRetry (n : Fin 64) (s : State) : Out :=
  if (s.link n).st = .down ∧ (s.link n).en then .next (s.train n none) else .next s

/-- LANE_LOCK_LOSS (R391): a lane that is locked and in use loses its lock. One that is locked but not in use just loses it (log entry 126). -/
def execLaneLockLoss (n : Fin 64) (lane : Fin 4) (s : State) : Out :=
  let x := s.link n
  let locked := x.laneLocked &&& ~~~(BitVec.ofNat 4 (1 <<< lane.val))
  let t := if x.lanes.getLsbD lane.val then s.train n none else s
  match x.st with
  | .ident | .found | .active =>
    if x.laneLocked.getLsbD lane.val then .next (t.setLink n { t.link n with laneLocked := locked }) else .next s
  | _ => .next s

/-- REPLAY_LIMIT (R390, R391). -/
def execReplayLimit (n : Fin 64) (s : State) : Out :=
  match (s.link n).lastReplay with
  | some (_, c) => if 8 ≤ c ∧ (s.link n).st = .active then .next (s.train n (some 4)) else .next s
  | none => .next s

/-! ## Roles and LINK.CTL (R394-R396, R406) -/

/-- The other ACTIVE links of a bundle. -/
def State.bundleOthers (s : State) (n b : Nat) : List Nat :=
  (List.range 64).filter fun m => m != n && (s.link m).st == .active && (s.link m).bundleEff == b

/-- The link would join links of another partner in one bundle, or be its 33rd link (R396; the 33rd: log entry 126). -/
def State.bundleClash (s : State) (n b : Nat) : Bool :=
  ((s.bundleOthers n b).any fun m => (s.link m).partnerFp != (s.link n).partnerFp) || decide (32 ≤ (s.bundleOthers n b).length)

/-- A write of ROLE (R394, R396, R406). -/
def State.rolePut (s : State) (n role : Nat) : State :=
  let x := s.link n
  match x.st with
  | .found | .active =>
    if role = 0 then
      if x.st = .active then
        let t := s.setLink n { x with st := .found, roleEff := 0, downCause := s.free 0 % 256 }
        (t.linkLost n).drawn
      else s
    else if s.bundleClash n x.bundle then s.refuse (.link n) .badCommand
    else
      let s := if x.st = .active ∧ x.bundleEff ≠ x.bundle then (s.setLink n { x with st := .found }).linkLost n else s
      (s.setLink n { s.link n with st := .active, roleEff := role, bundleEff := x.bundle }).pump x.bundle
  | _ => if role = 0 then s else s.refuse (.link n) .badCommand

/-- A write of LINK.CTL (R406): a reserved value of ROLE or MINW discards it whole. Roles are device-wide state: with no holder of the epoch
nobody gives one (R19, log entry 104). -/
def State.linkCtlPut (s : State) (n v : Nat) : State :=
  let minw := fld v 0 3
  let role := fld v 8 2
  if role = 3 ∨ (minw ≠ 1 ∧ minw ≠ 2 ∧ minw ≠ 4) then s.refuse (.link n) .badCommand
  else
    let x := s.link n
    let en := bit v 31
    let s := s.setLink n { x with minw := minw, bundle := fld v 16 4, en := en }
    let again (s : State) : State := if bit v 30 then s.setLink n { s.link n with retrain := true } else s
    let put (s : State) : State := if s.geode.holder.isNone then s else s.rolePut n role
    if en ∧ x.st = .disabled then again (put (s.train n none))
    else if !en ∧ x.st ≠ .disabled then put (s.linkStop n .disabled 1)
    else if en ∧ bit v 30 then again ((put s).train n none)
    else put s

/-- LINK.CTL as it reads (R406). -/
def Link.ctl (x : Link) : Nat :=
  b2n x.en <<< 31 ||| b2n x.retrain <<< 30 ||| (x.bundle % 16) <<< 16 ||| (x.roleEff % 4) <<< 8 ||| x.minw % 8

/-- A write of LINK.CTL by the physical function (R406). -/
def State.linkCtlWrite (s : State) (n v : Nat) : State := s.gate (.link n) true fun s => s.linkCtlPut n v

/-- LINK_ENABLE (R391): the write sets EN. -/
def execLinkEnable (n : Fin 64) (val : Word32) (s : State) : Out := .next (s.linkCtlWrite n (val ||| 0x80000000#32).toNat)

/-- LINK_DISABLE (R405): the write clears EN. -/
def execLinkDisable (n : Fin 64) (val : Word32) (s : State) : Out := .next (s.linkCtlWrite n (val &&& 0x7FFFFFFF#32).toNat)

/-- LINK_RETRAIN (R391): RETRAIN is written, the other fields as they read. -/
def execLinkRetrain (n : Fin 64) (s : State) : Out := .next (s.linkCtlWrite n ((s.link n).ctl ||| 1 <<< 30))

/-- LINK_ROLE_WRITE (R395). -/
def execLinkRoleWrite (n : Fin 64) (val : Word32) (s : State) : Out := .next (s.linkCtlWrite n val.toNat)

/-! ## Identity (R392-R394, R440) -/

/-- The firmware measurement (R440). -/
def State.fm (s : State) : Bytes := sha3_512 (s.geode.digests.getD Config.bootDigests)

/-- The seed of the identity key (R434): DBG is the debug identity. -/
def State.identSeed (s : State) : Bytes :=
  (shake256 ("KYTIDENT".toList.map (fun c => BitVec.ofNat 8 c.toNat) ++ Config.uds ++ [if s.geode.debug then 1 else 0]) 32)

/-- A signature by the device identity key (R435). -/
def State.identSign (s : State) (digest : Bytes) : State × Bytes :=
  ({ s with geode := { s.geode with drawn := s.geode.drawn + 1 } }, Config.mlDsaSign s.identSeed digest s.geode.drawn)

/-- This device's identity block for link n (R392). -/
def State.identBlock (s : State) (n : Nat) : State × Bytes :=
  let x := s.link n
  let devId := match s.dev.ownId with | some d => 2 ^ 15 + d | none => 0
  let body := [0x01, 0xB0, BitVec.ofNat 8 n, 0] ++ leBytes 2 devId ++ zeros 2 ++ Config.mlDsaPublic s.identSeed ++ s.fm ++
    x.nonceOut ++ x.nonceIn
  let r := s.identSign (sha3_512 body)
  (r.1, body ++ r.2)

/-- The first 8 bytes of the SHA3-512 digest of some bytes, as a number (R392, R434, R444). -/
def fp64 (b : Bytes) : Word64 := BitVec.ofNat 64 (ofLe ((sha3_512 b).take 8))

/-- A partner's block verifies against the nonce that this device sent (R392). -/
def identOk (nonceOut b : Bytes) : Bool :=
  b.length == 7355 && ((b.drop 2696).take 32 == nonceOut) &&
    Config.mlDsaVerify ((b.drop 8).take 2592) (sha3_512 (b.take 2728)) (b.drop 2728)

/-- The highest version that a PVER_SUP offers (R393). -/
def topVersion (sup : Nat) : Nat := if sup = 0 then 0 else Nat.log2 sup

/-- A verified block (R392-R394): it is stored and reported, the version is chosen, and the link stops in FOUND or goes back to
ACTIVE. -/
def State.identTaken (s : State) (n : Nat) (b : Bytes) (pver : Nat) : State :=
  let s := (s.devWrite 0 (s.link n).idBuf.toNat b).1
  let x := s.link n
  let dev := ofLe ((b.drop 4).take 2)
  let y := { x with
    partnerFp := fp64 ((b.drop 8).take 2592), partnerLink := fld (ofLe ((b.drop 2).take 1)) 0 6,
    partnerDevId := BitVec.ofNat 32 ((if bit dev 15 then 2 ^ 31 else 0) + fld dev 0 12) }
  let s := (s.setLink n y).raise (.link n) irqFound
  let v := min (topVersion pverSup) (topVersion pver)
  if v = 0 ∨ !bit pverSup v ∨ !bit pver v then s.linkStop n .version 7
  else
    match x.before with
    | none => s.setLink n { s.link n with st := .found, pver := v, retrain := false }
    | some (role, fp, d, l) =>
      if fp = y.partnerFp ∧ d = y.partnerDevId ∧ l = y.partnerLink ∧ !s.bundleClash n x.bundleEff then
        let z := { s.link n with st := .active, pver := v, retrain := false, before := none, roleEff := role }
        let s := s.setLink n z
        let s := (s.setLink n { z with replays := z.replays + BitVec.ofNat 64 z.replay.length }).event (.link n) 3 z.replay.length
        (z.replay.foldl (fun t f => t.wirePut n f) s).pump z.bundleEff
      else
        let s := s.setLink n { s.link n with st := .found, pver := v, retrain := false, before := none, downCause := if fp = y.partnerFp ∧ d = y.partnerDevId ∧ l = y.partnerLink then s.free 0 % 256 else 8 }
        (s.linkLost n).drawn

/-- The IDENT flits of an identity block with this device's PVER_SUP before it, 495 bytes in each (R388, R392, R393, log entry 125). -/
def identPieces (b : Bytes) : List Flit :=
  let all := BitVec.ofNat 8 pverSup :: b
  (List.range ((all.length + 494) / 495)).map fun k =>
    localFlit tyIdent false 0 (BitVec.ofNat 8 (k + 1) :: (all.drop (495 * k)).take 495)

/-- IDENT (R392-R394). A block comes whole in one command. -/
def execIdent (n : Fin 64) (i : IdentFlit) (s : State) : Out :=
  if (s.link n).st ≠ .ident then .next s
  else
    let s := s.event (.link n) 2 1
    match i with
    | .nonce b =>
      let s := s.setLink n { s.link n with nonceIn := b }
      let r := s.identBlock n
      .next ((identPieces r.2).foldl (fun s f => s.wirePut n f) r.1)
    | .block b pver =>
      if identOk (s.link n).nonceOut b then .next (s.identTaken n b pver.toNat) else .next (s.linkStop n .untrusted 6)

/-! ## Routes and the device ID (R398, R399) -/

/-- The fields of a route entry (R399). -/
def routeOf (w : Nat) : Route :=
  { pri := fld w 56 4, alt := if bit w 55 then some (fld w 51 4) else none, vcop := fld w 49 2, avcop := fld w 47 2,
    hops := fld w 41 6 }

/-- Some link is assigned to a bundle (R396, R399). -/
def State.bundleUsed (s : State) (b : Nat) : Bool := (List.range 64).any fun n => (s.link n).bundle == b

/-- An entry that does not stop GO (R399). -/
def State.routeOk (s : State) (w : Nat) : Bool :=
  let r := routeOf w
  fld w 60 3 == 0 && fld w 0 41 == 0 && decide (r.hops ≤ s.dev.hopBudget) && r.vcop != 3 && r.avcop != 3 &&
    (!bit w 63 || (s.bundleUsed r.pri && (match r.alt with | some a => s.bundleUsed a | none => true)))

/-- The table that the entries from number d on make; none where one stops GO (R399). -/
def State.routesFrom (s : State) : Nat → List Nat → Option (Tbl Route)
  | _, [] => some []
  | d, w :: r =>
    if s.dev.ownId = some d then s.routesFrom (d + 1) r
    else if !s.routeOk w then none
    else (s.routesFrom (d + 1) r).map fun t => if bit w 63 then (d, routeOf w) :: t else t

/-- A write of ROUTE_SET (R399); one while BUSY is ignored and recorded (log entry 42). -/
def State.routeSetPut (s : State) (v : Nat) : State :=
  if !bit v 0 then s
  else if s.dev.routeNew.isSome then s.refuse .dev .badCommand
  else
    let no (s : State) : State := { s with dev := { s.dev with routeRefused := true } }
    if s.dev.ownId.isNone then no s
    else
      match s.devRead 0 s.dev.routeBase.toNat 32768 with
      | (s, .error _) => no s
      | (s, .ok b) =>
        match s.routesFrom 0 (eltsOf 8 4096 b) with
        | none => no s
        | some t => { s with dev := { s.dev with routeRefused := false, routeNew := some t } }

/-- ROUTE_SET (R399). -/
def execRouteSet (val : Word32) (s : State) : Out := .next (s.gate .dev true fun s => s.routeSetPut val.toNat)

/-- ROUTE_SET_COMPLETE (R399): lookups use the new store. -/
def execRouteSetComplete (s : State) : Out :=
  match s.dev.routeNew with
  | none => .next s
  | some t => .next { s with dev := { s.dev with routes := t, routeNew := none } }

/-- A write of DEV_ID (R398, R405). -/
def State.devIdPut (s : State) (v : Word32) : State :=
  if (List.range 64).any fun n => (s.link n).st == .active then s.refuse .dev .badCommand
  else { s with dev := { s.dev with devId := v &&& 0x80000FFF#32 } }

/-- DEV_ID_WRITE (R398). -/
def execDevIdWrite (val : Word32) (s : State) : Out := .next (s.gate .dev true fun s => s.devIdPut val)

end Sys2Proof.Machine
end

