-- ==== Sys2Proof/Machine/Rings.lean ====
section
/-! DEFINITION. The rings of the message endpoints and the watch over their CI (R332, R345, R348, R352). -/

namespace Sys2Proof.Machine

open Sys2Proof

/-! ## Endpoints (R332) -/

def epEngine (ep : Nat) : Nat := 4 * (ep / 8) + ep % 8
def epHelper (ep : Nat) : Nat := 2 * (ep / 8) + (ep % 8 - 4)
def epVec (ep : Nat) : Nat := ep / 8
def epOfEngine (e : Nat) : Nat := 8 * (e / 4) + e % 4
def epOfHelper (h : Nat) : Nat := 8 * (h / 2) + 4 + h % 2
def epOfVec (g : Nat) : Nat := 8 * g + 6

def epIsEngine (ep : Nat) : Bool := decide (ep % 8 < 4)
def epIsHelper (ep : Nat) : Bool := decide (ep % 8 = 4) || decide (ep % 8 = 5)
def epIsVec (ep : Nat) : Bool := decide (ep % 8 = 6)

/-! ## Rings (R345-R348, R351) -/

def ringValid (v : Nat) : Bool := bit v 63
def ringHandle (v : Nat) : Nat := fld v 56 6
def ringSize (v : Nat) : Nat := (fld v 32 8 + 1) * 4096
def ringBase (v : Nat) : Nat := fld v 0 23

def Msg.ring (m : Msg) (r : Nat) : Nat := (tget m.rings r 0).toNat

/-- DPA of a ring's control line: an engine's ring lies in a handle's buffer, which must belong to it (R345, R349). -/
def State.ringDpa (s : State) (ep v : Nat) : Option Nat :=
  if epIsEngine ep then s.handleDpa (epEngine ep) (ringHandle v) (ringBase v) (ringSize v)
  else some (hpDpa (epHelper ep) (ringBase v))

/-- OFF and LAP of PI and CI (R345). -/
def ixOff (v : Nat) : Nat := fld v 0 24
def ixLap (v : Nat) : Bool := bit v 31
def ixOf (lap : Bool) (off : Nat) : Nat := b2n lap <<< 31 ||| off

/-- The index after n bytes from v: at the end of the data area, offset 0 with LAP inverted (R347, R348). -/
def ixNext (v n d : Nat) : Nat := if ixOff v + n = d then ixOf (!ixLap v) 0 else ixOf (ixLap v) (ixOff v + n)

/-- The index after the record at an index of a ring (R346, R348). -/
def State.ixAfter (s : State) (base size v : Nat) : Nat := ixNext v (s.num (base + 64 + ixOff v + 8) 4) (size - 64)

/-- A value is one of the record boundaries from v to PI; the first argument bounds the records (R348). -/
def State.ixReach (s : State) (base size pi goal : Nat) : Nat → Nat → Bool
  | 0, v => v == goal
  | k + 1, v => v == goal || (v != pi && s.ixReach base size pi goal k (s.ixAfter base size v))

/-- MSG.FAULT (R352): `ch` is the channel or queue, 4-7 for replies. -/
def msgFault (code : Code) (rx : Bool) (ch handler peer : Nat) : Word64 :=
  BitVec.ofNat 64 (code.num <<< 56 ||| b2n rx <<< 51 ||| b2n (decide (4 ≤ ch)) <<< 50 ||| (ch % 4) <<< 48 |||
    (handler % 4096) <<< 8 ||| peer % 128)

def State.setFault (s : State) (ep : Nat) (v : Word64) : State := s.setMsg ep { s.msg ep with fault := v }

/-- A CI outside the occupied part of queue q's ring, or at no record boundary, stops delivery into the ring (R348). HANDLER and PEER of the
fault are not stated: free values (log entry 61). -/
def State.stopRing (s : State) (ep q : Nat) : State :=
  let m := s.msg ep
  (s.setMsg ep { m with stopped := if m.stopped.contains q then m.stopped else m.stopped ++ [q],
                        fault := msgFault .badCommand true q (s.free 0) (s.free 1) }).drawn

/-- A CI of a gallery's rings that this write changed is checked, whoever wrote it: `old` is the state before (R348). -/
def State.ringsSeen (s old : State) (g : Nat) : State :=
  (List.range 48).foldl (fun s k =>
    let ep := 8 * g + k / 8
    let q := k % 8
    let v := (s.msg ep).ring q
    if !ringValid v ∨ (s.msg ep).stopped.contains q then s
    else
      match s.ringDpa ep v with
      | none => s
      | some base =>
        let a := old.num (base + 8) 8
        let b := s.num (base + 8) 8
        if a = b ∨ old.ixReach base (ringSize v) (old.num base 8) b 16384 a then s else s.stopRing ep q) s

end Sys2Proof.Machine
end

