-- ==== Sys2Proof/Machine/StreamMove.lean ====
section
/-! DEFINITION. MOVE, its gates and tokens, EMIT and SQZ, and the service of halted transfers (R238-R263, R401). -/

namespace Sys2Proof.Machine

open Sys2Proof

/-! ## Places (R245, R249, R276, R302) -/

/-- The bytes [lo, hi) of the tile file lie in configured operand tiles; the first argument bounds the tiles crossed. -/
def Engine.tfCover (x : Engine) : Nat → Nat → Nat → Bool
  | 0, lo, hi => decide (hi ≤ lo)
  | k + 1, lo, hi =>
    if hi ≤ lo then true
    else
      match (List.range 32).find? fun t =>
          let v := x.tile t
          v.cfg && !v.key && decide (v.base * 64 ≤ lo) && decide (lo < v.base * 64 + v.size) with
      | some t => x.tfCover k ((x.tile t).base * 64 + (x.tile t).size) hi
      | none => false

/-- A place resolved as a target for offsets counted from `lo` bytes before or after its base, its bytes [lo, hi) from its base checked
(R245, R249, R276, R302). -/
def State.resolve (s : State) (e : Nat) (p : Place) (lo hi : Int) : State × Except Code Target :=
  let x := s.eng e
  let n := (hi - lo).toNat
  match p with
  | .tile t off =>
    let b : Int := ((x.tile t).base * 64 + off : Nat) + lo
    if (x.tile t).cfg ∧ 0 ≤ b ∧ x.tfCover 33 b.toNat (b.toNat + n) then (s, .ok (.tf b.toNat)) else (s, .error .shape)
  | .sp h off =>
    let o : Int := (off : Int) + lo
    match (if 0 ≤ o then s.handleDpa e h o.toNat n else none) with
    | some d => (s, .ok (.dpa d))
    | none => (s, .error .shape)
  | .mem a off =>
    match s.argSlot e a with
    | (s, .error c) => (s, .error c)
    | (s, .ok (.va v)) => if 0 ≤ (v + off : Nat) + lo then (s, .ok (.va ((v + off : Nat) + lo).toNat)) else (s, .error .shape)
    | (s, .ok (.sp h o)) =>
      let o : Int := (o + off : Nat) + lo
      match (if 0 ≤ o then s.handleDpa e h o.toNat n else none) with
      | some d => (s, .ok (.dpa d))
      | none => (s, .error .shape)
  | .hsp i off =>
    let h := 2 * (e / 4) + i
    let o : Int := (off : Int) + lo
    if o < 0 ∨ 0x80000 < o + n then (s, .error .shape)
    else if (s.helper h).tenant ≠ x.tenant then (s, .error .permission)
    else (s, .ok (.dpa (hpDpa h o.toNat)))
  | .rwin dev win off =>
    let o : Int := (off : Int) + lo
    let ok :=
      if s.dev.ownId = some dev then
        match s.winFor win dev with
        | some w => w.srcTenant == x.tenant && decide (o + n ≤ (w.pages * 65536 : Nat))
        | none => false
      else true
    if ok ∧ 0 ≤ o then (s, .ok (.rwin dev win o.toNat)) else (s, .error .permission)

/-- The byte address that a target's alignment is judged by. -/
def Target.base : Target → Nat
  | .tf b | .dpa b | .va b | .rwin _ _ b => b

/-- Two targets lie in one space of this device. -/
def Target.same : Target → Target → Bool
  | .tf _, .tf _ | .dpa _, .dpa _ | .va _, .va _ => true
  | _, _ => false

/-- Read n bytes at an offset of a target. -/
def State.tgtRead (s : State) (e : Nat) (t : Target) (hint off n : Nat) : State × Bytes × RunFail :=
  match t with
  | .tf b => (s, memRun (s.eng e).tf 0 (b + off) n, none)
  | .dpa b =>
    match s.devRead 0 (b + off) n with
    | (s, .ok r) => (s, r, none)
    | (s, .error c) => (s, [], some (b + off, c))
  | .va b => s.vRead (some (e / 4)) (s.eng e).tenant hint (b + off) n
  | .rwin _ _ _ => (s, [], none)

/-- Operand tiles that a run of the tile file touches. -/
def Engine.tilesAt (x : Engine) (a n : Nat) : List Nat :=
  (List.range 32).filter fun t => (x.tile t).cfg && overlap a (a + n) ((x.tile t).base * 64) ((x.tile t).base * 64 + (x.tile t).size)

/-- Write elements of `unit` bytes at an offset of a target of this device; tiles written get their in-use flag (R250). -/
def State.tgtWrite (s : State) (e : Nat) (t : Target) (hint off unit : Nat) (bs : Bytes) : State × RunFail :=
  match t with
  | .tf b =>
    if bs.isEmpty then (s, none)
    else
      let x := s.eng e
      (s.setEng e (({ x with tf := memPut x.tf 0 (b + off) bs }).mark (x.tilesAt (b + off) bs.length) true), none)
  | .dpa b => s.dpaWrite e 0 (b + off) (b + off) bs
  | .va b => s.vaWrite e hint (b + off) unit bs
  | .rwin _ _ _ => (s, none)

/-! ## The start of a MOVE (R249, R251, R254) -/

/-- HINT and XF of a MOVE (R248). -/
def mvHint (w : Nat) : Nat := fld w 37 2
def mvXf (w : Nat) : Nat := fld w 39 2

/-- The EMITs that belong to the MOVE at PC (R251). -/
def Slot.emits (x : Slot) : List Nat :=
  ((List.range (x.ninstr - (x.pc + 1))).map fun k => x.word (x.pc + 2 + k)).takeWhile fun w => sopOf w == 7

/-- A source of ROT or REV (R254). -/
def Place.local : Place → Bool
  | .tile _ _ | .sp _ _ | .hsp _ _ => true
  | _ => false

def Place.isMem : Place → Bool
  | .mem _ _ => true
  | _ => false

def Place.isRwin : Place → Bool
  | .rwin _ _ _ => true
  | _ => false

/-- R254 for a MOVE with XF. -/
def Slot.xfOk (x : Slot) (w : Nat) (src : Place) : Bool :=
  if mvXf w = 0 then true
  else
    x.clamp.isNone && src.local &&
      (mvXf w == 2 ||
        match x.xform with
        | some (g, logn, _) =>
          g % 2 == 1 && decide (1 ≤ g) && decide (g < 2 ^ (logn + 1)) && decide (10 ≤ logn) && decide (logn ≤ 17) &&
            mvRun w == 2 ^ logn
        | none => false)

/-- A local engine that an EMIT names has another tenant (R251). -/
def State.emitForeign (s : State) (e w : Nat) : Bool := fld w 54 2 != 0 && (s.eng (fld w 48 6)).tenant != (s.eng e).tenant

/-- The start check of a MOVE: its source and destination, each from the least index that the nest produces on, or the code (R249). A
destination index below 0 in device memory below virtual address 0 is no byte of memory (SHAPE; DESIGN CHOICE log entry 120). -/
def State.moveCheck (s : State) (e : Nat) (x : Slot) : State × Except Code (Target × Target) :=
  let w := x.instr
  match x.src, x.dst with
  | some src, some dst =>
    let rs := x.sideRange w true
    let rd := x.sideRange w false
    let hint := mvHint w
    if !x.xfOk w src ∨ (hint ≠ 0 ∧ !src.isMem ∧ !dst.isMem) ∨ (hint = 3 ∧ dst.isMem) ∨ rs.1 < 0 then (s, .error .shape)
    else
      match s.resolve e src rs.1 rs.2 with
      | (s, .error c) => (s, .error c)
      | (s, .ok a) =>
        match s.resolve e dst rd.1 rd.2 with
        | (s, .error c) => (s, .error c)
        | (s, .ok b) =>
          if a.base % mvEs w ≠ 0 ∨ b.base % mvEs w ≠ 0 then (s, .error .shape)
          else if !dst.isRwin ∧ x.emits.any (fun w => s.emitForeign e w) then (s, .error .permission)
          else (s, .ok (a, b))
  | _, _ => (s, .error .shape)

/-! ## One stretch of iterations, up to a gate or an emission (R248) -/

/-- Iterations of the nest. -/
def Slot.total (x : Slot) : Nat := x.below 4

/-- Source and destination element indices of iteration t (R248). -/
def Slot.idxOf (x : Slot) (t : Nat) : Int × Int :=
  let p := x.posAt t 0
  let l (k : Nat) : Lvl := tget x.lvls k {}
  ((p.i0 : Int) * (l 0).ss + p.i1 * (l 1).ss + p.i2 * (l 2).ss + p.i3 * (l 3).ss,
    (p.i0 : Int) * (l 0).ds + p.i1 * (l 1).ds + p.i2 * (l 2).ds + p.i3 * (l 3).ds)

/-- Element o of a run comes from this index of its source run (R248, R253). -/
def Slot.sel (x : Slot) (w o : Nat) : Nat :=
  match mvXf w with
  | 1 => (match x.xform with | some (g, logn, ord) => rotSel logn g ord o | none => o)
  | 2 => mvRun w - 1 - o
  | _ => o

/-- Source elements of the elements from o on of iteration t, counted from the least that the nest produces (R247, R248). -/
def Slot.srcIdx (x : Slot) (w t o : Nat) : List Nat :=
  let b := (x.idxOf t).1
  let low := (x.sideRange w true).1 / mvEs w
  (List.range (mvRun w - o)).map fun k =>
    let i : Int := b + x.sel w (o + k)
    match x.clamp with
    | some (lo, hi) => (min (max i (lo : Int)) ((hi : Int) - 1) - low).toNat
    | none => (i - low).toNat

/-- The first destination element of iteration t, counted from the least that the nest produces (R248). -/
def Slot.dstIdx (x : Slot) (w t : Nat) : Nat := ((x.idxOf t).2 - (x.sideRange w false).1 / mvEs w).toNat

/-- The EMITs of a MOVE that emit after iteration t (R251). -/
def Slot.emitsAfter (x : Slot) (t : Nat) : List Nat :=
  x.emits.filter fun w => if fld w 56 3 = 0 then t + 1 == x.total else (t + 1) % x.below (fld w 56 3 - 1) == 0

/-- The end of the stretch that starts at iteration t: the first iteration after it that follows an emission or a gate, or the
nest's end. The number bounds the search. -/
def Slot.stretch (x : Slot) : Nat → Nat → Nat
  | 0, t => t
  | k + 1, t => if x.total ≤ t + 1 then x.total else if (x.emitsAfter t).isEmpty ∧ !x.gateAt (t + 1) then x.stretch k (t + 1) else t + 1

/-- Byte runs of the source and the destination over iterations t0 to t1 - 1, the first from element o. -/
def spanOf (es : Nat) (xs : List Nat) : Nat × Nat :=
  let lo := xs.foldl min (xs.headD 0)
  (lo * es, (xs.foldl max 0 + 1 - lo) * es)

/-- Runs merged into requests (R255): start, length and how many runs each holds. `b` is the address of offset 0. -/
def mergeRuns (b : Nat) : List (Nat × Nat) → List (Nat × Nat × Nat) → List (Nat × Nat × Nat)
  | [], acc => acc.reverse
  | (lo, n) :: r, (plo, pn, k) :: acc =>
    if pn ≤ 256 * k ∧ n ≤ 256 ∧ plo + pn = lo ∧ (b + plo) / 4096 = (b + lo + n - 1) / 4096 then mergeRuns b r ((plo, pn + n, k + 1) :: acc)
    else mergeRuns b r ((lo, n, 1) :: (plo, pn, k) :: acc)
  | (lo, n) :: r, [] => mergeRuns b r [(lo, n, 1)]

/-- The requests of one side: merged only in device memory (R255), with the events of R267. -/
def requestsOf (t : Target) (runs : List (Nat × Nat)) : List (Nat × Nat × Nat) :=
  match t with
  | .va b => mergeRuns b runs []
  | _ => runs.map fun r => (r.1, r.2, 1)

/-- Events of a request (R267): units moved, requests merged, runs absorbed. -/
def State.reqEvents (s : State) (e ev : Nat) (t : Target) (r : Nat × Nat × Nat) : State :=
  match t with
  | .va b =>
    let s := s.units e ev (.va (b + r.1)) r.2.1
    if 1 < r.2.2 then (s.event (.stream e) 4 1).event (.stream e) 5 r.2.2 else s
  | _ => s

/-- Read requests in order up to the first failure. -/
def State.readReqs (s : State) (e : Nat) (t : Target) (hint : Nat) : List (Nat × Nat × Nat) → State × Bytes × RunFail
  | [] => (s, [], none)
  | r :: rest =>
    match (s.reqEvents e 2 t r).tgtRead e t hint r.1 r.2.1 with
    | (s, b, some f) => (s, b, some f)
    | (s, b, none) =>
      let u := s.readReqs e t hint rest
      (u.1, b ++ u.2.1, u.2.2)

/-- Write requests in order up to the first failure: the elements written, and the failure. -/
def State.writeReqs (s : State) (e : Nat) (t : Target) (hint es : Nat) : List (Nat × Nat × Nat) → Bytes → State × Nat × RunFail
  | [], _ => (s, 0, none)
  | r :: rest, bs =>
    let part := bs.take r.2.1
    match (s.reqEvents e 3 t r).tgtWrite e t hint r.1 es part with
    | (s, some (a, c)) => (s, (a - (t.base + r.1)) / es, some (a, c))
    | (s, none) =>
      let u := s.writeReqs e t hint es rest (bs.drop r.2.1)
      (u.1, part.length / es + u.2.1, u.2.2)

/-- The elements, in order, that a prefix of the runs' bytes gives, up to the first that it lacks. -/
def pickElts (es : Nat) : List (List Nat) → Bytes → List Bytes
  | [], _ => []
  | xs :: r, b =>
    let sp := spanOf es xs
    let have_ := b.take sp.2
    let got := (xs.takeWhile fun i => decide (i * es + es ≤ sp.1 + have_.length)).map fun i => (have_.drop (i * es - sp.1)).take es
    if have_.length < sp.2 then got else got ++ pickElts es r (b.drop sp.2)

/-- How a stretch went: everything moved, a translation fault (write?, address) or another code. -/
inductive MoveEnd where
  | done
  | halt (write : Bool) (va : Nat)
  | bad (c : Code) (va : Nat)

/-- Source and destination of a stretch share bytes of one space. -/
def clash (a b : Target) (ra rb : Nat × Nat) : Bool :=
  a.same b && overlap (a.base + ra.1) (a.base + ra.1 + ra.2) (b.base + rb.1) (b.base + rb.1 + rb.2)

/-- The span of a list of byte runs. -/
def hull (runs : List (Nat × Nat)) : Nat × Nat :=
  let lo := runs.foldl (fun m r => min m r.1) (runs.headD (0, 0)).1
  (lo, (runs.foldl (fun m r => max m (r.1 + r.2)) 0) - lo)

/-- Destination runs cut to the bytes that there are. -/
def cutRuns : List (Nat × Nat) → Nat → List (Nat × Nat)
  | [], _ => []
  | r :: l, n => if n = 0 then [] else (r.1, min r.2 n) :: cutRuns l (n - min r.2 n)

/-! ## Remote transfers of a MOVE (R257, R401) -/

/-- Start a transfer of a slot (R401). -/
def State.openTransfer (s : State) (e n dest : Nat) : State :=
  let t : Transfer := { xid := s.xidOf e n, eng := e, slot := n, dest := dest, flits := [], tries := 0, own := [], done := false }
  let x := s.slotOf e n
  let s := s.setSlotOf e n { x with xcount := x.xcount + 1 }
  { s with dev := { s.dev with transfers := s.dev.transfers ++ [t] } }

/-- The transfer to which a slot's MOVE still adds. -/
def State.openOf (s : State) (e n : Nat) : Option Transfer := (s.inFlight e n).find? fun t => t.tries == 0

/-- A flit joins a transfer and leaves. -/
def State.addFlit (s : State) (xid : Word64) (f : Flit) : State :=
  (s.modTransfer xid fun t => { t with flits := t.flits ++ [f] }).originate f

/-- WRITE flits of a run: at most 480 bytes each (R389). The first argument bounds them. -/
def writeFlits (xid : Word64) (dest win tenant : Nat) : Nat → Nat → Bytes → List Flit
  | 0, _, _ => []
  | k + 1, off, bs =>
    if bs.isEmpty then []
    else endFlit tyWrite 0 dest 0 (writePayload xid win tenant off (bs.take 480)) :: writeFlits xid dest win tenant k (off + 480) (bs.drop 480)

/-- A slot may start one more transfer: at most 16 are in flight (R401). -/
def State.mayOpen (s : State) (e n : Nat) : Bool := (s.openOf e n).isSome || decide ((s.inFlight e n).length < 16)

/-- The data of iterations goes out in WRITE flits of the slot's transfer. -/
def State.sendData (s : State) (e n dest win off : Nat) (runs : List (Nat × Nat)) (bs : Bytes) : State :=
  if bs.isEmpty then s
  else
    let s := if (s.openOf e n).isSome then s else s.openTransfer e n dest
    match s.openOf e n with
    | none => s
    | some t =>
      let go := runs.foldl (fun (p : State × Bytes) r =>
        let fs := writeFlits t.xid dest win (s.eng e).tenant (r.2 / 480 + 1) (off + r.1) (p.2.take r.2)
        (fs.foldl (fun u f => u.addFlit t.xid f) p.1, p.2.drop r.2)) (s, bs)
      go.1

/-- Data bytes that a transfer's WRITE flits carry (R389). -/
def Transfer.dataBytes (t : Transfer) : Nat := (t.flits.map fun f => if f.type = tyWrite then fld (f.at8 8) 37 9 else 0).sum

/-- A transfer ends at an emission: its TOKEN flits, and the tokens of the slot's own queue wait for its COMPL (R401). -/
def State.closeTransfer (s : State) (e n dest win : Nat) (ws : List Nat) (poison : Bool) : State :=
  let s := if (s.openOf e n).isSome then s else s.openTransfer e n dest
  match s.openOf e n with
  | none => s
  | some t =>
    let far := ws.filter fun w => fld w 54 2 != 0
    let own := (ws.filter fun w => fld w 54 2 == 0).map fun w =>
      ({ eng := e, q := 8 + n, tok := { value := BitVec.ofNat 16 (fld w 0 16), poison := poison } } : Emission)
    let tok (eng : Nat) (q13 p : Bool) (v : Nat) : Flit :=
      endFlit tyToken 0 dest 0 (tokenPayload t.xid win eng q13 p (BitVec.ofNat 16 v) (BitVec.ofNat 64 t.dataBytes))
    let fs := if far.isEmpty then [tok 0 false false 0] else far.map fun w => tok (fld w 48 6) (fld w 54 2 == 2) poison (fld w 0 16)
    let s := s.modTransfer t.xid fun t => { t with own := own, tries := 1 }
    let slotJ := (s.eng e).slot
    let s := match slotJ with
      | some k => if s.dev.released.contains (k, dest) then s
                  else { s with dev := { s.dev with released := s.dev.released ++ [(k, dest)] } }
      | none => s
    if s.reachable dest then fs.foldl (fun u f => u.addFlit t.xid f) s
    else
      let s := s.modTransfer t.xid fun t => { t with flits := t.flits ++ fs }
      s.peerLost t

/-! ## Tokens (R105, R251) -/

/-- The tokens of EMITs into queues of this device; one for an engine of another tenant is never formed (R251, R449; log
entry 49). -/
def State.localToks (s : State) (e n : Nat) (ws : List Nat) (poison : Bool) : List Emission :=
  (ws.filter fun w => !s.emitForeign e w).map fun w =>
    { eng := if fld w 54 2 = 0 then e else fld w 48 6, q := if fld w 54 2 = 0 then 8 + n else 11 + fld w 54 2,
      tok := { value := BitVec.ofNat 16 (fld w 0 16), poison := poison } }

/-- The tokens of an emission point come due: through the transfer of an RWIN destination, or into queues of this device. -/
def State.emitToks (s : State) (e n : Nat) (ws : List Nat) (poison : Bool) : State :=
  let x := s.slotOf e n
  match x.dst with
  | some (.rwin dev win _) => s.closeTransfer e n dev win ws poison
  | _ => s.setSlotOf e n { x with out := x.out ++ s.localToks e n ws poison }

/-! ## MOVE (R248-R257) -/

/-- After iteration t1 - 1: the tokens of that point, then the next iteration, or the end of the MOVE and of its EMITs. -/
def State.moveNext (s : State) (e n t1 : Nat) : State :=
  let x := s.slotOf e n
  let ws := x.emitsAfter (t1 - 1)
  let last := x.total ≤ t1
  let y := if last then { x with pos := none, passed := false, ends := none, pc := x.pc + 1 + x.emits.length }
           else { x with pos := some (x.posAt t1 0), passed := false }
  let s := s.setSlotOf e n y
  let remote : Bool := match x.dst with | some p => p.isRwin | none => false
  let drain := x.st == .draining
  let s := if ws.isEmpty then
      (if last && remote && (s.openOf e n).isSome then s.emitToks e n [] drain else s)
    else s.emitToks e n ws drain
  if last then s.slotDone e n else s

/-- How a read or write failure ends a stretch. -/
def moveEndOf (write : Bool) (f : Nat × Code) : MoveEnd := if f.2 = .translationFault then .halt write f.1 else .bad f.2 f.1

/-- Source element i of the elements of iteration t that start at o is overwritten by another element of that iteration, and the order of
the two is not fixed (R248). -/
def Slot.selfHit (x : Slot) (w : Nat) (a b : Target) (t : Nat) (k i : Nat) : Bool :=
  let es := mvEs w
  let at_ := a.base + es * i
  let d := b.base + es * x.dstIdx w t
  a.same b && decide (d ≤ at_) && decide (at_ < d + es * mvRun w) && decide (at_ ≠ d + es * k)

/-- Elements of an iteration from o on as read; one that the iteration itself overwrites through another element is a free value (R248,
log entry 48). -/
def State.freeHits (s : State) (x : Slot) (w : Nat) (a b : Target) (t o : Nat) (els : List Bytes) : List Bytes :=
  ((List.range els.length).zip ((x.srcIdx w t o).zip els)).map fun p =>
    if x.selfHit w a b t (o + p.1) p.2.1 then (List.range (mvEs w)).map fun i => BitVec.ofNat 8 (s.free (8 * (o + p.1) + i)) else p.2.2

/-- One iteration from element o on (R248): how many elements it wrote and how it ended. -/
def State.moveIter (s : State) (e n : Nat) (a b : Target) (t o : Nat) : State × Nat × MoveEnd :=
  let x := s.slotOf e n
  let w := x.instr
  let es := mvEs w
  let xs := x.srcIdx w t o
  match s.readReqs e a (mvHint w) [((spanOf es xs).1, (spanOf es xs).2, 1)] with
  | (s, bs, f) =>
    let els := s.freeHits x w a b t o (pickElts es [xs] bs)
    match s.drawn.writeReqs e b (mvHint w) es [((x.dstIdx w t + o) * es, els.length * es, 1)] els.flatten with
    | (s, k, some g) => (s, k, moveEndOf true g)
    | (s, k, none) => (s, k, match f with | some g => moveEndOf false g | none => .done)

/-- Iterations one after another up to the first that does not end (R248). -/
def State.moveIters (s : State) (e n : Nat) (a b : Target) : List (Nat × Nat) → State × Nat × MoveEnd
  | [] => (s, 0, .done)
  | p :: r =>
    match s.moveIter e n a b p.1 p.2 with
    | (s, k, .done) =>
      let u := s.moveIters e n a b r
      (u.1, k + u.2.1, u.2.2)
    | u => u

/-- The merged requests of a side, counted (R255, R267). -/
def State.mergeEvents (s : State) (e : Nat) (t : Target) (runs : List (Nat × Nat)) : State :=
  (requestsOf t runs).foldl (fun s r => if 1 < r.2.2 then (s.event (.stream e) 4 1).event (.stream e) 5 r.2.2 else s) s

/-- The data of a stretch, from element o of iteration t0 (R248, R255, R262): where it stopped, counted in elements from there. Iterations
whose sources another iteration of the stretch may overwrite go one by one; others go in merged requests. -/
def State.moveData (s : State) (e n : Nat) (a b : Target) (t0 o t1 : Nat) : State × Nat × MoveEnd :=
  let x := s.slotOf e n
  let w := x.instr
  let es := mvEs w
  let hint := mvHint w
  let its := (List.range (t1 - t0)).map fun k => (t0 + k, if k = 0 then o else 0)
  let xss := its.map fun p => x.srcIdx w p.1 p.2
  let druns := its.map fun p => ((x.dstIdx w p.1 + p.2) * es, (mvRun w - p.2) * es)
  let sruns := xss.map (spanOf es)
  if clash a b (hull sruns) (hull druns) then
    match s.moveIters e n a b its with
    | (s, k, .done) => ((s.mergeEvents e a sruns).mergeEvents e b druns, k, .done)
    | u => u
  else
    match s.readReqs e a hint (requestsOf a sruns) with
    | (s, bs, f) =>
      let els := pickElts es xss bs
      let bs := els.flatten
      let cut := cutRuns druns bs.length
      let wrote : State × Nat × RunFail :=
        match b with
        | .rwin dev win off => (s.sendData e n dev win off cut bs, els.length, none)
        | _ => s.writeReqs e b hint es (requestsOf b cut) bs
      match wrote, f with
      | (s, k, some g), _ => (s, k, moveEndOf true g)
      | (s, k, none), some g => (s, k, moveEndOf false g)
      | (s, k, none), none => (s, k, .done)

/-! ## Reading ahead (R296, R297) -/

/-- The 256-byte lines of device memory, in the order of R248, of the source elements of iterations t0 to t1 - 1, the first from o. -/
def Slot.lines (x : Slot) (a t0 o t1 : Nat) : List Nat :=
  let w := x.instr
  let ls := ((List.range (t1 - t0)).map fun k => (x.srcIdx w (t0 + k) (if k = 0 then o else 0)).map fun i => (a + mvEs w * i) / 256).flatten
  ls.foldr (fun l r => if r.head? = some l then r else l :: r) []

/-- The first iteration after t whose gate is still to be passed, or the end of the nest: no line beyond it is read ahead (R296). The
number bounds the search. -/
def Slot.gateEnd (x : Slot) : Nat → Nat → Nat
  | 0, t => t
  | k + 1, t => if x.total ≤ t + 1 then x.total else if x.gateAt (t + 1) then t + 1 else x.gateEnd k (t + 1)

/-- The lines that a MOVE from MEM had read ahead, after k elements of a stretch from element o of iteration t0: those of the elements
moved were used, of which some had not arrived; when the entry has stopped, some of the lines after them, 128 at most, were read and are
discarded, a failure among them without report. How far the unit is ahead, and what arrived in time, are free values (R296, R297). -/
def State.readAhead (s : State) (e n : Nat) (a : Target) (t0 o t1 k : Nat) (stopped : Bool) : State :=
  match a with
  | .va v =>
    let x := s.slotOf e n
    let run := mvRun x.instr
    let used := (x.lines v t0 o t1).length - (if stopped then (x.lines v (t0 + (o + k) / run) ((o + k) % run) t1).length else 0)
    let rest := if stopped then x.lines v (t0 + (o + k) / run) ((o + k) % run) (x.gateEnd x.total t0) else []
    let ahead := rest.take (s.free 1 % (min 128 rest.length + 1))
    let s := ((s.event (.stream e) 0xA (used + ahead.length)).event (.stream e) 0xB used).event (.stream e) 0xC (s.free 0 % (used + 1))
    (ahead.foldl (fun t l => (t.tgtRead e (.va 0) (mvHint x.instr) (256 * l) 256).1) s).drawn
  | _ => s

/-- One stretch of a MOVE whose gate has been passed. -/
def State.moveGo (s : State) (e n : Nat) (p : Pos) : State :=
  let x := s.slotOf e n
  let t0 := x.iter p
  let t1 := x.stretch x.total t0
  match x.st, x.ends with
  | .running, some (a, b) =>
    let remote : Bool := match b with | .rwin _ _ _ => true | _ => false
    if remote ∧ !s.mayOpen e n then s
    else
      match s.moveData e n a b t0 p.o t1 with
      | (s, k, .done) => (s.readAhead e n a t0 p.o t1 k false).moveNext e n t1
      | (s, k, .halt write va) =>
        let at_ := p.o + k
        let run := mvRun x.instr
        let q := x.posAt (t0 + at_ / run) (at_ % run)
        let s := s.readAhead e n a t0 p.o t1 k true
        let y := s.slotOf e n
        let s := s.setSlotOf e n { y with st := .halted, pos := some q, passed := true }
        match y.ent with
        | some m => s.haltEnt e m write va q
        | none => s
      | (s, k, .bad c va) => (s.readAhead e n a t0 p.o t1 k true).slotFail e n 6 c va
  | _, _ => s.moveNext e n t1

/-- MOVE (R248-R252): its start check, then a stretch of iterations; at a gate the slot parks and releases its entry (R243). A CI of a
message ring that it writes is checked (R348). -/
def execMove (e : Fin 64) (n : Fin 4) (s : State) : Out :=
  .next ((s.slotStep e n 6 fun s =>
    let x := s.slotOf e n
    let p := x.pos.getD {}
    let s : State :=
      if x.st = .running ∧ x.ends.isNone then
        match s.moveCheck e x with
        | (s, .ok ab) => s.setSlotOf e n { s.slotOf e n with ends := some ab, pos := some p }
        | (s, .error c) => (s.setSlotOf e n { s.slotOf e n with pos := some p }).slotFail e n 6 c 0
      else s.setSlotOf e n { x with pos := some p }
    let x := s.slotOf e n
    if !x.passed && x.gateAt (x.iter p) then
      if x.st = .running then (s.setSlotOf e n { x with st := .parked }).dropEnt e n else s
    else s.moveGo e n p).ringsSeen s (e / 4))

/-- SLOT_GATE_RESUME (R242, R243, R248, R252): a slot at a gate removes the head of Q14 and goes on; poison makes it drain. -/
def execSlotGateResume (e : Fin 64) (n : Fin 4) (s : State) : Out :=
  let x := s.slotOf e n
  if !x.waits ∨ x.st = .armed ∨ !s.strmStarts e then .next s
  else
    match s.q14For e n with
    | none => .next s
    | some t =>
      let s := s.setEng e ((s.eng e).pop 14)
      let st := if t.poison || x.st == .draining then SlotState.draining else .running
      .next (s.setSlotOf e n { x with st := st, passed := true })

/-! ## EMIT (R251) -/

/-- A token of this device enters its queue when that has room and no recorded token waits before it; an engine whose context is saved, or
that is held in reset, takes none (R24, R349, R403). -/
def State.canTake (s : State) (e : Nat) (m : Emission) : Bool :=
  let x := s.eng m.eng
  x.room m.q && !x.inReset && (m.eng == e || (x.st != .saved && x.st != .restoring)) &&
    !(s.dev.replayW.any fun w => w.1 == m.eng && w.2.1 == m.q)

/-- EMIT (R251): the oldest token that is due enters its queue; a slot that has none due forms the tokens of the EMIT it has
reached. -/
def execEmit (e : Fin 64) (n : Fin 4) (s : State) : Out :=
  let x := s.slotOf e n
  match x.out with
  | m :: r =>
    if s.strmLive e ∧ s.canTake e m then
      let s := s.setEng m.eng ((s.eng m.eng).push m.q m.tok)
      .next ((s.setSlotOf e n { s.slotOf e n with out := r }).slotDone e n)
    else .next s
  | [] =>
    .next (s.slotStep e n 7 fun s =>
      let x := s.slotOf e n
      let w := x.instr
      let remote : Bool := match x.dst with | some p => p.isRwin | none => false
      if remote ∧ !s.mayOpen e n then s
      else
        let s := if x.st = .running ∧ !remote ∧ s.emitForeign e w then s.slotFail e n 7 .permission 0 else s
        let y := s.slotOf e n
        ((s.setSlotOf e n { y with pc := y.pc + 1 }).emitToks e n [w] (y.st == .draining)).slotDone e n)

/-! ## SQZ (R260) -/

/-- SQZ fails: it drains, a poisoned input leaves a poisoned output (R252, R260). -/
def State.sqzFail (s : State) (e n : Nat) (c : Code) (va : Nat) : State :=
  let s := s.slotFail e n 0xA c va
  let x := s.slotOf e n
  (s.setSlotOf e n { x with pc := x.pc + 1, pos := none, ends := none }).slotDone e n

/-- SQZ halts on a translation fault at its element k, of `per` elements a row (R262). -/
def State.sqzHalt (s : State) (e n per k : Nat) (write : Bool) (va : Nat) : State :=
  let x := s.slotOf e n
  let s := s.setSlotOf e n { x with st := .halted, pos := some (rowPos per k) }
  match x.ent with
  | some m => s.haltEnt e m write va (rowPos per k)
  | none => s

def State.sqzDone (s : State) (e n : Nat) : State :=
  let x := s.slotOf e n
  (s.setSlotOf e n { x with pc := x.pc + 1, pos := none, ends := none }).slotDone e n

/-- The destination index of source element k of a polynomial's copy: index i · N + j and index j · (LEVEL + 1) + i correspond (R42,
R260). -/
def sqzTo (mode n lims k : Nat) : Nat :=
  if mode = 0 then k % n * lims + k / n else k % lims * n + k / lims

/-- The output descriptor of SQZ (R260): LAYOUT changed, the offsets as written, WSEQ the command's. -/
def sqzDesc (d : Desc) (seq : Nat) : Desc :=
  let w0 := if d.layoutC then d.w 0 - 1 <<< 47 else d.w 0 + 1 <<< 47
  let d1 := (List.range d.polys).foldl (fun (v : Desc) p => v.set (5 + p) (128 + p * d.polySize)) d
  (d1.set 0 w0).set 13 seq

/-- A copy of `total` elements of es bytes, source element k at byte src k of a and at byte dst k of b. -/
structure SqzMap where
  es : Nat
  total : Nat
  src : Nat → Nat
  dst : Nat → Nat

/-- Source element k shares bytes with what the copy writes, other than with its own copy: which comes first is not stated. -/
def SqzMap.hit (m : SqzMap) (a b : Target) (k : Nat) : Bool :=
  let at_ := a.base + m.src k
  a.same b && decide (at_ ≠ b.base + m.dst k) &&
    (List.range m.total).any fun i => overlap at_ (at_ + m.es) (b.base + m.dst i) (b.base + m.dst i + m.es)

/-- Elements of a Squeeze copy from number k on, one strided access each, up to the first failure: its element, whether it is a write, its
address and code. An element that the copy itself may have overwritten is a free value (R260-R263, log entry 121). -/
def State.sqzGo (s : State) (e : Nat) (m : SqzMap) (a b : Target) : Nat → Nat → State × Option (Nat × Bool × Nat × Code)
  | 0, _ => (s, none)
  | r + 1, k =>
    match (s.units e 2 (a.plus (m.src k)) m.es).tgtRead e a 0 (m.src k) m.es with
    | (s, _, some (va, c)) => (s, some (k, false, va, c))
    | (s, bs, none) =>
      let bs := if m.hit a b k then (List.range m.es).map fun i => BitVec.ofNat 8 (s.free (8 * k + i)) else bs
      match (s.units e 3 (b.plus (m.dst k)) m.es).tgtWrite e b 0 (m.dst k) m.es bs with
      | (s, some (va, c)) => (s, some (k, true, va, c))
      | (s, none) => s.sqzGo e m a b r (k + 1)

/-- The Squeeze copy of a slot goes on from element k: `fin` follows its last element. -/
def State.sqzRun (s : State) (e n per k : Nat) (m : SqzMap) (a b : Target) (fin : State → State) : State :=
  match s.sqzGo e m a b (m.total - k) k with
  | (s, none) => fin s.drawn
  | (s, some (i, write, va, c)) =>
    if c = .translationFault then s.drawn.sqzHalt e n per i write va else s.drawn.sqzFail e n c va

/-- The copy of the bodies of modes 0 and 1, one polynomial after another (R260). -/
def sqzBodies (d : Desc) : SqzMap :=
  let u := fmtBytes d.wfmt
  { es := u, total := d.polys * d.elts,
    src := fun k => d.off (k / d.elts) + u * (k % d.elts),
    dst := fun k => 128 + k / d.elts * d.polySize + u * sqzTo (if d.layoutC then 1 else 0) (2 ^ d.logn) (d.level + 1) (k % d.elts) }

/-- SQZ, modes L to C and C to L, its start: both descriptors' places and the source descriptor are kept in the entry (R260, R276). -/
def State.sqzConvert (s : State) (e n : Nat) : State × Option (Target × Desc × Target) :=
  let w := (s.slotOf e n).instr
  let oslot := fld w 41 8
  match s.readDesc e (fld w 49 8) true with
  | (s, .error (c, _)) => ((if c = .poisonedInput then (s.poisonOut e oslot).1 else s).sqzFail e n c 0, none)
  | (s, .ok (l, d)) =>
    if d.scheme = 4 ∨ d.wfmt = 1 ∨ d.layoutC ≠ (fld w 57 2 == 1) then (s.sqzFail e n .shape 0, none)
    else
      match s.argSlot e oslot with
      | (s, .error c) => (s.sqzFail e n c 0, none)
      | (s, .ok ol) =>
        if ol.addr % 128 ≠ 0 ∨ !s.reaches e ol (128 + d.polys * d.polySize) ∨
            (List.range d.polys).any (fun p => !s.reaches e (l.plus (d.off p)) d.polySize) then (s.sqzFail e n .shape ol.addr, none)
        else (s, some (s.locTarget e l, d, s.locTarget e ol))

/-- The copy of modes 0 and 1 from element k on, and its descriptor (R51, R260). -/
def State.sqzBody (s : State) (e n k : Nat) (a : Target) (d : Desc) (b : Target) : State :=
  s.sqzRun e n (2 ^ d.logn) k (sqzBodies d) a b fun s =>
    match s.descAt e b (sqzDesc d (s.cmdSeq e)) with
    | (s, some (va, c)) => s.sqzFail e n c va
    | (s, none) => s.sqzDone e n

/-- SQZ, mode TRANS, its start: both sides as resolved (R260, R276). -/
def State.sqzTrans (s : State) (e n : Nat) : State × Option (Target × Target) :=
  let x := s.slotOf e n
  let w := x.instr
  let len : Int := ((fld w 40 17 + 1) * (fld w 23 17 + 1) * (if bit w 22 then 4 else 8) : Nat)
  let okPlace (p : Place) : Bool := match p with | .mem _ _ | .sp _ _ | .hsp _ _ => true | _ => false
  match x.src, x.dst with
  | some sp, some dp =>
    if !okPlace sp ∨ !okPlace dp then (s.sqzFail e n .shape 0, none)
    else
      match s.resolve e sp 0 len with
      | (s, .error c) => (s.sqzFail e n c 0, none)
      | (s, .ok a) =>
        match s.resolve e dp 0 len with
        | (s, .error c) => (s.sqzFail e n c 0, none)
        | (s, .ok b) => (s, some (a, b))
  | _, _ => (s.sqzFail e n .shape 0, none)

/-- The copy of mode TRANS from element k on (R260). -/
def State.sqzMatrix (s : State) (e n k : Nat) (a b : Target) : State :=
  let w := (s.slotOf e n).instr
  let rows := fld w 40 17 + 1
  let cols := fld w 23 17 + 1
  let es := if bit w 22 then 4 else 8
  s.sqzRun e n cols k { es := es, total := rows * cols, src := fun k => es * k, dst := fun k => es * (k % cols * rows + k / cols) } a b
    fun s => s.sqzDone e n

/-- The engine's Squeeze path is busy with another slot's copy (R261). -/
def State.sqzBusy (s : State) (e n : Nat) : Bool :=
  (List.range 4).any fun k => k != n && (let x := s.slotOf e k; x.pos.isSome && sopOf x.instr == 0xA)

/-- SQZ (R260, R261): it waits for the Squeeze path with its entry held; a draining slot moves nothing; one that a fault halted goes on
where it stopped (R263). -/
def execSqz (e : Fin 64) (n : Fin 4) (s : State) : Out :=
  .next (s.slotStep e n 0xA fun s =>
    let x := s.slotOf e n
    let trans := fld x.instr 57 2 == 2
    let m := x.ent.getD 0
    if x.st = .draining then s.sqzDone e n
    else if s.sqzBusy e n then s
    else
      match x.pos with
      | some p =>
        if trans then
          match x.ends with
          | some (a, b) => s.sqzMatrix e n (p.elt (fld x.instr 23 17 + 1)) a b
          | none => s
        else
          match (s.xfer e m).src, (s.xfer e m).out with
          | some (a, d), some (b, _) => s.sqzBody e n (p.elt (2 ^ d.logn)) a d b
          | _, _ => s
      | none =>
        if trans then
          match s.sqzTrans e n with
          | (s, some (a, b)) => (s.setSlotOf e n { s.slotOf e n with ends := some (a, b) }).sqzMatrix e n 0 a b
          | (s, none) => s
        else
          match s.sqzConvert e n with
          | (s, some (a, d, b)) =>
            (s.setXfer e m { s.xfer e m with src := some (a, d), out := some (b, d) }).sqzBody e n 0 a d b
          | (s, none) => s)

/-! ## Fault service (R262, R263, R266) -/

/-- An entry that a fault halted goes on from its recorded element (R263). -/
def State.entResume (s : State) (e m : Nat) : State :=
  let v := s.xfer e m
  let s := s.setXfer e m { v with fault := false }
  if v.kind = .slot then
    let x := s.slotOf e v.slot
    s.setSlotOf e v.slot { x with st := .running }
  else
    match (s.holder e m).i.opc with
    | 0x09 => s.tldRun e m (v.pos.elt (s.tldPer e m))
    | 0x2B => s.rescRun e m
    | 0x30 => s.kswRun e m
    | _ =>
      let r := s.todoRun e m
      r.1.settle e m r.2

/-- The tiles that a slot's current MOVE writes are zero-filled and their in-use flags clear (R263): those that some run of its nest
touches. -/
def State.zeroDst (s : State) (e n : Nat) : State :=
  let x := s.slotOf e n
  let es := mvEs x.instr
  match x.ends with
  | some (_, .tf b) =>
    let y := s.eng e
    let hit (t : Nat) : Bool := (List.range x.total).any fun k =>
      (y.tilesAt (b + es * x.dstIdx x.instr k) (es * mvRun x.instr)).contains t
    s.setEng e (((List.range 32).filter hit).foldl (fun y t => y.zeroTile t) y)
  | _ => s

/-- A halted entry ends (R132, R263). -/
def State.entAbort (s : State) (e m : Nat) : State :=
  let v := s.xfer e m
  let s := s.setXfer e m { v with fault := false }
  if v.kind = .slot then
    let sop := sopOf (s.slotOf e v.slot).instr
    if sop = 0xA then (s.setSlotOf e v.slot { s.slotOf e v.slot with st := .running }).sqzFail e v.slot .translationFault v.va.toNat
    else (s.zeroDst e v.slot).slotFail e v.slot sop .translationFault v.va.toNat
  else
    let i := (s.holder e m).i
    let s := if i.opc = 0x09 then s.setEng e ((s.eng e).zeroTile i.dst) else s
    let f : Fate := .bad .translationFault none
    if i.opc = 0x30 then s.kswEnd e m f else if i.opc = 0x2B then s.rescEnd e m f else s.settle e m f

/-- A write of ENT_CTL (R263, R266): both bits, or an entry that is not halted, are refused; no bit does nothing. -/
def State.entCtl (s : State) (e m v : Nat) : State :=
  if (bit v 0 ∧ bit v 1) ∨ !(s.xfer e m).fault then s.refuse (.stream e) .badCommand
  else if bit v 0 then s.entResume e m
  else if bit v 1 then s.entAbort e m
  else s

/-- ENT_RESUME (R263). -/
def execEntResume (e : Fin 64) (x : Fin 4) (s : State) : Out := .next (s.gate (.stream e) true fun s => s.entCtl e x 1)

/-- ENT_ABORT (R263). -/
def execEntAbort (e : Fin 64) (x : Fin 4) (s : State) : Out := .next (s.gate (.stream e) true fun s => s.entCtl e x 2)

end Sys2Proof.Machine
end

