-- ==== Sys2Proof/Machine/ChainOps.lean ====
section
/-! DEFINITION. Modulus chain tables: validation, clearing, draining (R33-R38, R157, R158). -/

namespace Sys2Proof.Machine

open Sys2Proof

/-- DPA of chain table n (R33). -/
def State.chainDpa (s : State) (n : Nat) : Nat := s.dev.chainBase.toNat + n * 0x10000

/-- A word of a table's bytes. -/
def word8 (b : Bytes) (o : Nat) : Nat := ofLe ((b.drop o).take 8)

/-- Modulus entry i of a table (R35). -/
def modEntOf (b : Bytes) (i : Nat) : ModEnt :=
  let o := 0x40 + 64 * i
  { q := word8 b o, qneg := word8 b (o + 8), r2 := word8 b (o + 16), psiM := word8 b (o + 24), psiInvM := word8 b (o + 32),
    nInvM := word8 b (o + 40), dripLimit := word8 b (o + 48) }

/-- The chain that a table's 65,536 bytes spell (R33-R35, R157). -/
def chainOfBytes (b : Bytes) : Chain :=
  { split := (b.getD 1 0).toNat == 1, logn := (b.getD 2 0).toNat, l := (b.getD 3 0).toNat, k := (b.getD 4 0).toNat,
    ents := (List.range 80).map fun i => (i, modEntOf b i),
    inv := (List.range 6400).map fun i => (i, word8 b (0x1440 + 8 * i)) }

/-- Entry i of a chain is used (R33). -/
def Chain.used (c : Chain) (i : Nat) : Bool := if i < 64 then decide (i < c.l) else decide (i - 64 < c.k)

/-- A modulus lies in its mode's range (R29). -/
def Chain.qRange (c : Chain) (q : Nat) : Bool :=
  if c.split then decide (2 ^ 12 < q) && decide (q < 2 ^ 30) else decide (2 ^ 20 < q) && decide (q < 2 ^ 60)

/-- The N-th power of x in Montgomery arithmetic, by LOGN squarings: each is the unique representative that R32 gives. -/
def Chain.montPowN (c : Chain) (e x : Nat) : Nat → Nat
  | 0 => x
  | k + 1 => c.montPowN e (c.redc e (x * x)) k

/-- The checks of R36 on a used entry. A split table's QNEG at or above 2^32 is refused: R35 says that those bits are zero, R36 names no
check of them (DESIGN CHOICE log entry 116). -/
def Chain.entOk (c : Chain) (i : Nat) : Bool :=
  let v := c.ent i
  let q := v.q
  let r := c.radix
  c.qRange q && q % (2 * c.n) == 1 && decide (v.qneg < r) && v.qneg * q % r == r - 1 &&
    decide (v.r2 < q) && decide (v.psiM < q) && decide (v.psiInvM < q) && decide (v.nInvM < q) && v.r2 == r * r % q &&
    c.montPowN i v.psiM c.logn == (q - 1) * r % q && c.redc i (v.psiM * v.psiInvM) == r % q &&
    v.nInvM * c.n % q == r % q && v.dripLimit == 2 ^ 64 / q * q

/-- Word INV[a][b] passes (R157, R158). -/
def Chain.invOk (c : Chain) (a b : Nat) : Bool :=
  if a = b ∨ !c.used a ∨ !c.used b then c.invw a b == 0
  else c.invw a b * (c.q a % c.q b) % c.q b == c.radix % c.q b

/-- Every byte of a run of a table is zero. -/
def zeroAt (b : Bytes) (o n : Nat) : Bool := ((b.drop o).take n).all fun x => x == 0

/-- The conditions of R36 and R158 on a table's bytes. -/
def chainTableOk (b : Bytes) : Bool :=
  let c := chainOfBytes b
  b.getD 0 0 == 1 && decide ((b.getD 1 0).toNat < 2) && decide (10 ≤ c.logn) && decide (c.logn ≤ 17) && decide (1 ≤ c.l) &&
    decide (c.l ≤ 64) && decide (c.k ≤ 16) && zeroAt b 5 0x3B && zeroAt b 0xDC40 0x23C0 &&
    (List.range 80).all (fun i =>
      if c.used i then c.entOk i && zeroAt b (0x40 + 64 * i + 0x38) 8 else zeroAt b (0x40 + 64 * i) 64) &&
    (List.range 80).all (fun i => (List.range 80).all fun j => c.invOk i j) &&
    (List.range 80).all (fun i => (List.range i).all fun j => !c.used i || !c.used j || c.q i != c.q j)

/-- Chain n is set: its table is checked and copied (R36). -/
def State.chainSet (s : State) (n : Nat) : State :=
  if s.dev.chainValid.getLsbD n ∨ s.dev.chainBusy.getLsbD n ∨ !inHbm (s.chainDpa n) 0x10000 then s.recordErr .dev .badCommand n
  else
    match s.devRead 0 (s.chainDpa n) 0x10000 with
    | (s, .error c) => s.recordErr .dev c n
    | (s, .ok b) =>
      if chainTableOk b then
        { s with dev := { s.dev with chains := tset s.dev.chains n (chainOfBytes b),
                                     chainValid := s.dev.chainValid ||| BitVec.ofNat 32 (1 <<< n) } }
      else s.recordErr .dev .badCommand n

/-- Unretired instructions that name chain n, by engine and sequence number (R38). -/
def State.chainUsers (s : State) (n : Nat) : List (Nat × Nat) :=
  ((List.range 64).map fun e => ((s.eng e).window.filter fun v => v.chain == some n).map fun v => (e, v.seq)).flatten

/-- Chain n is cleared: VALID at once, BUSY until its instructions have retired (R38). -/
def State.chainClr (s : State) (n : Nat) : State :=
  let d := s.dev
  let refs := (s.chainUsers n).map fun p => (n, p.1, p.2)
  { s with dev := { d with
      chainValid := d.chainValid &&& ~~~(BitVec.ofNat 32 (1 <<< n)), chainBusy := d.chainBusy ||| BitVec.ofNat 32 (1 <<< n),
      chainRefs := (d.chainRefs.filter fun r => r.1 != n) ++ refs } }

/-- A key fill under chain n runs (R38, DEDUCED log entry 53). -/
def State.chainFill (s : State) (n : Nat) : Bool :=
  (List.range 64).any fun e => (List.range 4).any fun k =>
    let x := s.slotOf e k
    match x.kf with
    | some f => !f.failed && kfChain x.instr == n
    | none => false

/-- The bits of a 32-bit mask, lowest first. -/
def bitsOf (v : Nat) : List Nat := (List.range 32).filter fun b => bit v b

/-- CHAIN_SET (R36). -/
def execChainSet (n : Fin 32) (s : State) : Out := .next (s.gate .dev true fun s => s.chainSet n)

/-- CHAIN_CLR (R38). -/
def execChainClr (n : Fin 32) (s : State) : Out := .next (s.gate .dev true fun s => s.chainClr n)

/-- CHAIN_DRAIN_COMPLETE (R38): the instructions that named the chain before the clear have retired. -/
def execChainDrainComplete (n : Fin 32) (s : State) : Out :=
  let d := s.dev
  let users := s.chainUsers n
  if (d.chainRefs.any fun r => r.1 == n.val && users.contains (r.2.1, r.2.2)) ∨ s.chainFill n then .next s
  else .next { s with dev := { d with chainBusy := d.chainBusy &&& ~~~(BitVec.ofNat 32 (1 <<< n.val)),
                                      chainRefs := d.chainRefs.filter fun r => r.1 != n.val } }

end Sys2Proof.Machine
end

