-- ==== Sys2Proof/Machine/Memory.lean ====
section
/-! DEFINITION. Handles, translation invalidation, the Flowstone cache, HBM correction and failure, windows, BAR2
(R273-R275, R281-R293, R298, R299, R357, R414, R416). -/

namespace Sys2Proof.Machine

open Sys2Proof

/-! ## Handles (R273-R275) -/

/-- The handle entry of engine e. -/
def State.handle (s : State) (e h : Nat) : Nat := (tget (s.gal (e / 4)).ht (64 * (e % 4) + h) 0).toNat

/-- Fields of a handle entry (R273). -/
def hTenant (v : Nat) : Nat := fld v 52 10
def hBase (v : Nat) : Nat := fld v 16 11
def hSize (v : Nat) : Nat := fld v 0 12

/-- The valid entries that engine e has, and those that it gets when their zero fills end (R274, R275; log entry 57). -/
def State.handlesOf (s : State) (e : Nat) : List Nat :=
  ((List.range 64).map (s.handle e) ++
    ((s.gal (e / 4)).htNew.filter fun p => p.1 / 64 == e % 4).map fun p => p.2.val.toNat).filter fun o => bit o 63

/-- The write is discarded (R274). -/
def State.handleBad (s : State) (e v h : Nat) : Bool :=
  let x := s.eng e
  let old := s.handle e h
  bit v 62 || fld v 27 25 != 0 || fld v 12 4 != 0 ||
    (bit v 63 && (hSize v == 0 || decide (2048 < hBase v + hSize v) ||
      (s.handlesOf e).any fun o =>
        hTenant o != hTenant v && overlap (hBase o) (hBase o + hSize o) (hBase v) (hBase v + hSize v))) ||
    ((x.st == .running || x.st == .saving || x.st == .restoring) && (hTenant old == x.tenant || hTenant v == x.tenant))

/-- Blocks of a new entry's range that another tenant owns (R275): tags hold the tenant plus one, or 0. -/
def State.foreignBlocks (s : State) (e v : Nat) : List Nat :=
  ((List.range (hSize v)).map fun k => hBase v + k).filter fun b =>
    let t := tget (s.gal (e / 4)).tags (2048 * (e % 4) + b) 0
    t != 0 && t != hTenant v + 1

/-- The new entry takes effect: foreign blocks zero, every block tagged (R275). -/
def State.handleTake (s : State) (e h : Nat) (v : Word64) : State :=
  let n := v.toNat
  let s := if bit n 63 then (s.foreignBlocks e n).foldl (fun t b => t.zeroRun (spDpa e (b * 4096)) 4096) s else s
  let y := s.gal (e / 4)
  let tags := if bit n 63 then
      (List.range (hSize n)).foldl (fun t k => tset t (2048 * (e % 4) + hBase n + k) (hTenant n + 1)) y.tags
    else y.tags
  s.setGal (e / 4) { y with ht := tset y.ht (64 * (e % 4) + h) v, tags := tags, htNew := tdel y.htNew (64 * (e % 4) + h) }

/-- A write of a handle entry by a function (R274, R275). -/
def State.handlePut (s : State) (port fn e h : Nat) (v : Word64) : State :=
  let y := s.gal (e / 4)
  if s.handleBad e v.toNat h then s.refuse (.gallery (e / 4)) .badCommand
  else if bit v.toNat 63 ∧ s.foreignBlocks e v.toNat ≠ [] then
    s.setGal (e / 4) { y with htNew := tset y.htNew (64 * (e % 4) + h) { val := v, port := port, fn := fn } }
  else s.handleTake e h v

/-- The zero fill of a handle write of this function runs (R275). -/
def State.fillHolds (s : State) (port fn : Nat) : Bool :=
  (List.range 16).any fun g => (s.gal g).htNew.any fun p => p.2.port == port && p.2.fn == fn

/-- The entry's zero fill runs (R275). -/
def State.fillRuns (s : State) (e h : Nat) : Bool := (s.gal (e / 4)).htNew.any fun p => p.1 == 64 * (e % 4) + h

/-- An access of a function waits behind its handle write whose zero fill runs, or behind one that waits there already (R275, R475). -/
def State.behindFill (s : State) (port : Fin 2) (fn : Fin 64) : Bool :=
  s.fillHolds port fn || s.dev.waitW.any fun w => w.port == port && w.fn == fn

/-- A write waits behind a zero fill; a handle write waits for the fill of its own entry too (log entry 57). -/
def State.waitsFill (s : State) (a : Access) (entry : Option (Nat × Nat)) : Bool :=
  s.behindFill a.port a.fn || (match entry with | some (e, h) => s.fillRuns e h | none => false)

/-- A write joins those that wait (R475). -/
def State.waitFill (s : State) (a : Access) : State := { s with dev := { s.dev with waitW := s.dev.waitW ++ [a] } }

/-- HTj_h of engine e as a function addresses it (R273, R472, R473). -/
def handleOff (fn e h : Nat) : Nat :=
  (if fn = 0 then (Page.gallery (e / 4)).key else 0xD0 + e / 4) * 4096 + 0x800 + 0x200 * (e % 4) + 8 * h

/-- HANDLE_WRITE (R274, R275). -/
def execHandleWrite (port : Fin 2) (fn : Fin 64) (e : Fin 64) (h : Fin 64) (val : Word64) (s : State) : Out :=
  let a : Access := { port := port, fn := fn, off := handleOff fn e h, size := 8, val := val }
  if s.waitsFill a (some (e.val, h.val)) then .next (s.waitFill a)
  else .next (s.gate (.gallery (e / 4)) (fn == 0) fun s => s.handlePut port fn e h val)

/-! ## Translation invalidation (R281) -/

/-- A write of TLB_INV (R281). -/
def State.tlbInvPut (s : State) (v : Word64) : State :=
  if s.dev.tlbInv.isSome then s.refuse .dev .badCommand else { s with dev := { s.dev with tlbInv := some v } }

/-- TLB_INV (R281). -/
def execTlbInv (val : Word64) (s : State) : Out := .next (s.gate .dev true fun s => s.tlbInvPut val)

/-- A cached translation that an invalidation drops (R281). -/
def tlbDrops (v : Nat) (t : Nat × Nat × Nat × Word64) : Bool :=
  let lo := fld v 16 32 * 65536
  t.1 == fld v 54 10 && (bit v 53 || overlap t.2.1 (t.2.1 + 2 ^ t.2.2.1) lo (lo + (fld v 0 16 + 1) * 65536))

/-- A tenant's translations leave every gallery's cache. -/
def State.dropTlb (s : State) (v : Nat) : State :=
  s.each 16 fun s g => s.setGal g { s.gal g with tlb := (s.gal g).tlb.filter fun t => !tlbDrops v t }

/-- TLB_INV_COMPLETE (R281). -/
def execTlbInvComplete (s : State) : Out :=
  match s.dev.tlbInv with
  | none => .next s
  | some v => .next (({ s with dev := { s.dev with tlbInv := none } }).dropTlb v.toNat)

/-! ## HBM correction (R290-R293) -/

/-- Pseudo-channel of a DPA (R288). -/
def pcOf (a : Nat) : Nat := fld a 11 6 ^^^ fld a 17 6

/-- Pins of a pseudo-channel that are declared failed (R291). -/
def Hbmc.declared (x : Hbmc) (pc : Nat) : BitVec 36 := tget x.pinFail pc 0
def pinCount (v : BitVec 36) : Nat := ((List.range 36).filter fun i => v.getLsbD i).length

/-- Unknown symbol errors of a codeword: those outside the declared pins (R290). -/
def Hbmc.unknown (x : Hbmc) (pc : Nat) (errs : List (Fin 36)) : List Nat :=
  ((errs.map fun e => e.val).eraseDups).filter fun i => !(x.declared pc).getLsbD i

/-- The line that a slice holds over codeword w. -/
def State.lineOver (s : State) (w : Nat) : Option Line := (s.flow (stackOf (w * 64) / 2)).line (w / 4 * 256)

/-- Codeword w is uncorrectable in HBM, whatever its slice holds (R292, R293). -/
def State.hbmUe (s : State) (w : Nat) : Bool :=
  match (s.lineOver w).bind fun l => l.shadow.find? fun p => p.1 == w % 4 with
  | some p => p.2.2
  | none => s.ue.contains w

/-- Codeword w of HBM holds other bytes, or has become uncorrectable; a line that its slice holds keeps its own (R293). -/
def State.hbmSet (s : State) (w : Nat) (b : Bytes) (bad : Bool) : State :=
  match s.lineOver w with
  | some l =>
    let c := stackOf (w * 64) / 2
    let f := s.flow c
    let l' := { l with shadow := (l.shadow.filter fun p => p.1 != w % 4) ++ [(w % 4, b, bad)] }
    s.setFlow c { f with sets := tset f.sets (flowSet l.dpa) ((tget f.sets (flowSet l.dpa) []).map fun x => if x.dpa = l.dpa then l' else x) }
  | none =>
    { s with mem := memPut s.mem 0 (w * 64) b,
             ue := if bad then (if s.ue.contains w then s.ue else s.ue ++ [w]) else s.ue.filter fun x => x != w }

/-- The bytes of codeword w in HBM. -/
def State.hbmBytes (s : State) (w : Nat) : Bytes :=
  match (s.lineOver w).bind fun l => l.shadow.find? fun p => p.1 == w % 4 with
  | some p => p.2.1
  | none => s.bytes (w * 64) 64

/-- Symbols of a pseudo-channel are corrected: counted by position, and the codeword is rewritten (R291, R292, R295). -/
def State.corrected (s : State) (a : Nat) (bad : List Nat) : State :=
  let n := stackOf a
  let x := s.hbmc n
  let pc := pcOf (a % 2 ^ 36)
  let corr := bad.foldl (fun c i => tset c (36 * pc + i) (min 256 (tget c (36 * pc + i) 0 + 1))) x.corr
  let s := (s.setHbmc n { x with corr := corr }).event (.hbmc n) 4 bad.length
  if bad = [] then s else s.hbmTraffic a 2 1

/-- A pattern of u unknown errors over e erased symbols that lies beyond the code may decode as another codeword: two codewords differ in
5 symbols or more, 4 being check symbols (R290, R292; DEDUCED log entry 103). -/
def mayMisread (u e : Nat) : Bool := decide (5 ≤ e + u + (4 - e) / 2)

/-- A codeword is read from HBM with these symbols in error (R290-R292): corrected and counted, or beyond the code: then the
decoder finds it uncorrectable, or takes another codeword for it where that is possible, which one being free. -/
def State.codeRead (s : State) (w : Nat) (errs : List (Fin 36)) : State :=
  let a := w * 64
  let x := s.hbmc (stackOf a)
  let pc := pcOf (a % 2 ^ 36)
  let bad := x.unknown pc errs
  let e := pinCount (x.declared pc)
  if s.hbmUe w then s
  else if 2 * bad.length + e ≤ 4 then s.corrected a bad
  else if !mayMisread bad.length e ∨ s.free 0 % 2 = 0 then (s.hbmSet w (s.hbmBytes w) true).drawn
  else
    let took := ((List.range ((4 - e) / 2)).map fun i => s.free (65 + i) % 37).filter fun i => i < 36 && !(x.declared pc).getLsbD i
    ((s.hbmSet w ((List.range 64).map fun i => BitVec.ofNat 8 (s.free (1 + i))) false).corrected a took.dedup).drawn

/-- PIN_DECLARE (R291): a position that has reached 256 corrections, while fewer than three pins are declared. -/
def execPinDeclare (n : Fin 8) (pc : Fin 64) (sym : Fin 36) (s : State) : Out :=
  let x := s.hbmc n
  let d := x.declared pc
  if tget x.corr (36 * pc.val + sym.val) 0 < 256 ∨ d.getLsbD sym ∨ 3 ≤ pinCount d then .next s
  else
    let d' := d ||| BitVec.ofNat 36 (1 <<< sym.val)
    let t := s.setHbmc n { x with pinFail := tset x.pinFail pc d', repair := tset x.repair pc d' }
    .next ((t.logErr ((Page.hbmc n).errRec .degraded (Code.ofNum (s.free 0 % 256)))).drawn)

/-- PATROL_SCRUB (R293): HBM's own codeword is read, whatever its slice holds. -/
def execPatrolScrub (n : Fin 8) (cw : Nat) (errs : List (Fin 36)) (s : State) : Out :=
  let x := s.hbmc n
  if x.scrubHours = 0 ∨ x.failed ∨ x.selfRefresh ∨ 2 ^ 30 ≤ cw then .next s
  else
    let w := n.val * 2 ^ 30 + cw
    let t := (((s.event (.hbmc n) 6 1).hbmTraffic (w * 64) 1 1)).codeRead w errs
    .next (if t.hbmUe w then t.foundUe (w * 64) else t)

/-! ## A failed stack (R414, R416) -/

/-- A journal copy is lost with its stack (R416). -/
def State.copyLost (s : State) (n : Nat) : State :=
  let j := s.journal
  let lose (s : State) (base : Word64) : State :=
    (s.logErr { Page.journal.errRec .degraded (Code.ofNum (s.free 0 % 256)) with d0 := base }).drawn
  let a := !j.lostA && stackOf j.baseA.toNat == n
  let b := !j.lostB && stackOf j.baseB.toNat == n
  if !j.en then s
  else
    let s := { s with journal := { j with lostA := j.lostA || a, lostB := j.lostB || b } }
    let s := if a then lose s j.baseA else s
    if b then lose s j.baseB else s

/-- STACK_FAIL (R414). -/
def execStackFail (n : Fin 8) (s : State) : Out :=
  let x := s.hbmc n
  if x.failed then .next s
  else
    let t := s.setHbmc n { x with failed := true }
    .next (((t.logErr ((Page.hbmc n).errRec .lost (Code.ofNum (s.free 0 % 256)))).drawn).copyLost n)

/-! ## The Flowstone cache (R283-R287) -/

/-- Codewords that a request reads from HBM, first to last (R283). -/
def State.hbmReads (s : State) (hint a n : Nat) (write : Bool) : List Nat :=
  ((linesOf a n).map fun l =>
    if ((s.flow (stackOf l / 2)).line l).isSome then []
    else (missReads hint l a n write).map fun p => l / 64 + p).flatten

/-- The codewords that a request reads from HBM, each with its symbols in error (R290). -/
def State.codesRead (s : State) (r : FlowReq) : State :=
  ((s.hbmReads r.hint r.dpa r.len r.data.isSome).zip r.errs).foldl (fun t p => t.codeRead p.1 p.2) s

/-- FLOW_REQUEST (R283-R286, R290-R292): a request at the home slice of its lines. -/
def execFlowRequest (c : Fin 4) (r : FlowReq) (s : State) : Out :=
  if r.len = 0 ∨ !inHbm r.dpa r.len ∨ (linesOf r.dpa r.len).any (fun l => stackOf l / 2 != c.val) ∨ (r.hint = 3 ∧ r.data.isSome) then .next s
  else
    let s := s.codesRead r
    match r.data with
    | some b => .next (s.devWrite r.hint r.dpa b).1
    | none =>
      match s.devRead r.hint r.dpa r.len with
      | (s, .ok b) => .next { s with lastRead := ofLe b }
      | (s, .error _) => .next { s with lastRead := 0 }

/-- Lines that a slice holds. -/
def Flow.lines (f : Flow) : List Line := (f.sets.map fun p => p.2).flatten

/-- A write of FLUSH (R287). -/
def State.flushPut (s : State) (c v : Nat) : State :=
  let f := s.flow c
  if f.busy then s.refuse (.flow c) .badCommand
  else s.setFlow c { f with busy := true, flush := some (bit v 0, bit v 1), flushLines := f.lines.map fun l => l.dpa }

/-- FLOW_FLUSH (R287). -/
def execFlowFlush (c : Fin 4) (val : Word32) (s : State) : Out := .next (s.gate (.flow c) true fun s => s.flushPut c val.toNat)

/-- A flush's work (R287): WB writes dirty lines to HBM, INV with WB invalidates the lines that were present at its start. A failed
stack takes no line back (R414). -/
def State.flushRun (s : State) (c : Nat) (wb inv : Bool) (lines : List Nat) : State :=
  let f := s.flow c
  let of_ (l : Line) : Bool := wb && lines.contains l.dpa
  let clean (l : Line) : Line := if (s.hbmc (stackOf l.dpa)).failed then l else l.clean
  let gone := f.lines.filter fun l => of_ l && inv
  let sets := f.sets.map fun p => (p.1, (p.2.map fun l => if of_ l then clean l else l).filter fun l => !(of_ l && inv))
  let t := (f.lines.filter of_).foldl State.wroteBack s
  let t := gone.foldl (fun t l => t.restoreShadow l.dpa l.clean.shadow) t
  t.setFlow c { f with sets := sets, busy := false, flush := none, flushLines := [] }

/-- FLOW_FLUSH_COMPLETE (R287). -/
def execFlowFlushComplete (c : Fin 4) (s : State) : Out :=
  let f := s.flow c
  match f.flush with
  | none => .next s
  | some (wb, inv) => .next (s.flushRun c wb inv f.flushLines)

/-! ## Windows (R298, R299) -/

/-- The window that 32 bytes of the table spell; none where a check of R299 fails. -/
def State.winOf (s : State) (b : Bytes) : Option Win :=
  let at_ (o n : Nat) : Nat := ofLe ((b.drop o).take n)
  let srcs := (List.range 4).map fun k => at_ (0x10 + 4 * k) 4
  let on := srcs.filter fun v => bit v 31
  let w : Win := { base := at_ 0 8, pages := fld (at_ 8 4) 0 20 + 1, tenant := fld (at_ 0xC 2) 0 10, srcTenant := fld (at_ 0xE 2) 0 10,
                   srcs := on.map fun v => (fld v 0 12, fld v 16 12) }
  if 2 ^ 48 ≤ w.base ∨ w.base % 65536 ≠ 0 ∨ fld (at_ 8 4) 20 12 ≠ 0 ∨ fld (at_ 0xC 2) 10 6 ≠ 0 ∨ fld (at_ 0xE 2) 10 6 ≠ 0 ∨
      srcs.any (fun v => fld v 28 3 != 0 || fld v 12 4 != 0) ∨ (s.ctx w.tenant).st ≠ .live ∨ w.srcs = [] ∨
      w.srcs.any (fun r => decide (r.2 < r.1)) then none
  else some w

/-- OPEN of a window (R299). -/
def State.winOpen (s : State) (i : Nat) : State :=
  if (tget s.dev.wins i none).isSome then s.recordErr .dev .badCommand i
  else
    match s.devRead 0 (s.dev.winBase.toNat + 32 * i) 32 with
    | (s, .error c) => s.recordErr .dev c i
    | (s, .ok b) =>
      match s.winOf b with
      | none => s.recordErr .dev .badCommand i
      | some w => { s with dev := { s.dev with wins := tset s.dev.wins i (some w) } }

/-- CLOSE of a window stops acceptance at once (R299). -/
def State.winClose (s : State) (i : Nat) : State :=
  match tget s.dev.wins i none with
  | none => s
  | some w => { s with dev := { s.dev with wins := tset s.dev.wins i (some { w with closing := true }) } }

/-- WINDOW_OPEN (R299). -/
def execWindowOpen (w : Fin 256) (s : State) : Out := .next (s.gate .dev true fun s => s.winOpen w)

/-- WINDOW_CLOSE (R299). -/
def execWindowClose (w : Fin 256) (s : State) : Out := .next (s.gate .dev true fun s => s.winClose w)

/-- WINDOW_CLOSE_COMPLETE (R299): every accepted write has completed. -/
def execWindowCloseComplete (w : Fin 256) (s : State) : Out :=
  match tget s.dev.wins w none with
  | some x => if x.closing then .next { s with dev := { s.dev with wins := tset s.dev.wins w none } } else .next s
  | none => .next s

/-! ## BAR2 (R357) -/

/-- A read of a host's, of a physical function by DPA or of a virtual function by the address of its tenant. -/
def State.hostRead (s : State) (tenant : Option Nat) (a n : Nat) : State × Except Code Bytes :=
  match tenant with
  | none => s.devRead 0 a n
  | some t =>
    match s.vRead none t 0 a n with
    | (s, b, none) => (s, .ok b)
    | (s, _, some (_, c)) => (s, .error c)

/-- A write of a host's: all of it, or nothing and the code. -/
def State.hostWrite (s : State) (tenant : Option Nat) (a : Nat) (b : Bytes) : State × Option Code :=
  match tenant with
  | none => s.devWrite 0 a b
  | some t =>
    match s.xlateAll none t a b.length true with
    | (s, _, some (_, c)) => (s, some c)
    | (s, runs, none) =>
      match s.writeRuns 0 runs b with
      | (s, none) => (s, none)
      | (s, some (_, c)) => (s, some c)

/-- BAR2_ACCESS (R356, R357): offsets beyond the BAR reach nothing of it. -/
def execBar2Access (port : Fin 2) (fn : Fin 64) (off len : Nat) (data : Option Bytes) (s : State) : Out :=
  let size := if fn.val = 0 then 2 ^ 30 else 2 ^ 28
  let tenant := if fn.val = 0 then none else some (s.fn port fn).tenant
  let a := (s.fn port fn).apBase.toNat + off
  if size < off + len then .next s
  else
    match data with
    | some b =>
      match s.hostWrite tenant a b with
      | (s, none) => .next s
      | (s, some c) => .next (s.refuse (.pciep port fn) c)
    | none =>
      match s.hostRead tenant a len with
      | (s, .ok b) => .next { s with lastRead := ofLe b }
      | (s, .error c) => .next { s.refuse (.pciep port fn) c with lastRead := 256 ^ len - 1 }

end Sys2Proof.Machine
end

