-- ==== Sys2Proof/Machine/Messages.lean ====
section
/-! DEFINITION. Messages between endpoints: routing, the bounded wait, reply reservations, rings, and the MSG page's own
registers (R332-R354). -/

namespace Sys2Proof.Machine

open Sys2Proof

/-! ## Endpoints (R332) -/

/-- The page of an endpoint's unit. -/
def epUnit (ep : Nat) : Page :=
  if epIsEngine ep then .engine (epEngine ep) else if epIsHelper ep then .helper (epHelper ep) else .vec (epVec ep)

/-- The tenant of an endpoint; a vector endpoint has none of its own (R335). -/
def State.epTenant (s : State) (ep : Nat) : Option Nat :=
  if epIsEngine ep then some (s.eng (epEngine ep)).tenant else if epIsHelper ep then some (s.helper (epHelper ep)).tenant else none

/-- The tenant that a sender sends for: a vector engine's is its handler's, and one without a handler (the reply to an invalid entry, R314)
sends for none and passes the test of tenants (R313, R335). -/
def State.sendTenant (s : State) (ep : Nat) : Option Nat :=
  if epIsVec ep then (s.vec (epVec ep)).run.map Handler.tenant else s.epTenant ep

/-- The destination unit takes messages: not in reset, disabled or OFF (R335). -/
def State.epUp (s : State) (ep : Nat) : Bool :=
  s.blkOn (epUnit ep) && !(epIsEngine ep && (s.eng (epEngine ep)).inReset)

/-- The island whose cycles bound an endpoint's wait (R343). -/
def epIsland (ep : Nat) : Nat := if epIsHelper ep then islHelper (ep / 8) else islEngine (ep / 8)

/-- An engine whose context moves takes no delivery (R349). -/
def State.epPaused (s : State) (ep : Nat) : Bool :=
  epIsEngine ep &&
    match (s.eng (epEngine ep)).st with
    | .saving | .saved | .restoring => true
    | _ => false

/-! ## The header (R334) -/

def mHandler (h : Nat) : Nat := fld h 52 12
def mTag (h : Nat) : Nat := fld h 44 8
def mDest (h : Nat) : Nat := fld h 37 7
def mSrc (h : Nat) : Nat := fld h 30 7
def mRreq (h : Nat) : Bool := bit h 29
def mRing (h : Nat) : Bool := bit h 25
def mStatus (h : Nat) : Nat := fld h 16 8
def mLen (h : Nat) : Nat := fld h 0 16

/-- The header as delivered: HANDLER of the route, SRC and RING filled in (R334, R336). -/
def deliveredHdr (h handler src : Nat) (ring : Bool) : Word64 :=
  BitVec.ofNat 64 ((handler % 4096) <<< 52 ||| fld h 37 15 <<< 37 ||| (src % 128) <<< 30 ||| fld h 26 4 <<< 26 |||
    b2n ring <<< 25 ||| fld h 0 25)

/-- The header of a reply that a unit makes itself (R313, R327, R349). -/
def replyHdr (handler tag dest : Nat) (status : Code) (len : Nat) : Word64 :=
  BitVec.ofNat 64 ((handler % 4096) <<< 52 ||| (tag % 256) <<< 44 ||| (dest % 128) <<< 37 ||| status.num <<< 16 ||| len % 65536)

/-! ## Queues, counters, faults -/

def Msg.queue (m : Msg) (q : Nat) : List QMsg := tget m.queues q []
def Msg.setQueue (m : Msg) (q : Nat) (l : List QMsg) : Msg := { m with queues := tset m.queues q l }
def Msg.send (m : Msg) (ch : Nat) : Option SendMsg := tget m.sending ch none

/-- Counter k of channel c grows by n and saturates (R354). -/
def Msg.count (m : Msg) (c k n : Nat) : Msg :=
  { m with chcnt := tset m.chcnt (4 * c + k) (BitVec.ofNat 64 (min ((tget m.chcnt (4 * c + k) 0).toNat + n) (2 ^ 64 - 1))) }

/-- Unreserved entries of reply queue c (R341). -/
def Msg.credit (m : Msg) (c : Nat) : Nat := 16 - (m.resv.filter fun r => r.c == c).length

/-- The reservation that a reply of `src` with a TAG fills: it is bound to the pair (src, TAG); one of the reply's own index comes before
others (R341, R342; log entry 61). -/
def Msg.resvFor (m : Msg) (src c tag : Nat) : Option Resv :=
  let mine := m.resv.filter fun r => r.dest == src && r.tag == tag && !r.filled
  match mine.find? fun r => r.c == c with
  | some r => some r
  | none => mine.head?

/-! ## Rings (R345-R347) -/

/-- Where a record of r bytes goes: whether a pad record comes first, its offset, the new PI; none: it waits (R347). -/
def ringPlace (pi ci d r : Nat) : Option (Bool × Nat × Nat) :=
  let same := ixLap pi == ixLap ci
  if (same ∧ r ≤ d - ixOff pi) ∨ (!same ∧ r ≤ ixOff ci - ixOff pi) then some (false, ixOff pi, ixNext pi r d)
  else if same ∧ r ≤ ixOff ci then some (true, 0, ixOf (!ixLap pi) r)
  else none

/-- Bytes of the record of a payload (R346). -/
def recordLen (n : Nat) : Nat := (16 + n + 63) / 64 * 64

/-- Write a record into the ring whose control line is at `base`; none where it does not fit. The bytes that round the record
up are free (R346, R347). -/
def State.ringPut (s : State) (base size : Nat) (hdr : Word64) (payload : Bytes) : Option (State × Nat) :=
  let d := size - 64
  let r := recordLen payload.length
  let pi := s.num base 8
  match ringPlace pi (s.num (base + 8) 8) d r with
  | none => none
  | some (pad, off, pi') =>
    let s :=
      if pad then (s.devWrite 0 (base + 64 + ixOff pi) (leBytes 8 0 ++ leBytes 8 (2 ^ 63 ||| (d - ixOff pi)))).1 else s
    let rest := s.freeBytes (r - 16 - payload.length)
    let s := (s.devWrite 0 (base + 64 + off) (leBytes 8 hdr.toNat ++ leBytes 8 r ++ payload ++ rest)).1.drawn
    some ((s.devWrite 0 base (leBytes 8 pi')).1, off)

/-! ## Delivery (R335-R349) -/

/-- Where a message of channel ch goes: destination, queue, handler; or the refusal of its header. A reply goes to the reply queue of its
request's index (R335, R336). -/
def State.msgRoute (s : State) (ep ch h : Nat) : Except Code (Nat × Nat × Nat) :=
  let static := decide (ch < 4) && (s.msg ep).routeMode.getLsbD ch
  if fld h 26 3 ≠ 0 ∨ bit h 24 ∨ mSrc h ≠ 0 ∨ mRing h ∨ (static ∧ (mHandler h ≠ 0 ∨ bit h 37)) then .error .badCommand
  else if static then
    let e := (tget (s.msg ep).rt (fld h 38 6) 0).toNat
    if bit e 63 then .ok (fld e 40 7, fld e 48 2, fld e 0 12) else .error .badCommand
  else if 4 ≤ ch then
    .ok (mDest h, (match (s.msg (mDest h)).resvFor ep (ch - 4) (mTag h) with | some r => 4 + r.c | none => ch), mHandler h)
  else .ok (mDest h, ch, mHandler h)

/-- The message needs a record in a ring of its receiver (R333). -/
def needsRecord (n : Nat) : Bool := decide (256 < n)

/-- The checks of R335 and R348 on a message, in the order of the table: destination, queue and handler, or the code. -/
def State.msgCheck (s : State) (ep ch h n : Nat) : Except Code (Nat × Nat × Nat) :=
  match s.msgRoute ep ch h with
  | .error c => .error c
  | .ok (dst, q, handler) =>
    let m := s.msg dst
    let v := m.ring q
    let reply := decide (4 ≤ ch)
    let priv := epIsHelper ep && (s.helper (epHelper ep)).priv
    if dst % 8 = 7 then .error .badCommand
    else if (reply ∧ 256 < n) ∨ (epIsVec dst ∧ 248 < n) ∨
        (needsRecord n ∧ (!ringValid v ∨ ringSize v - 64 < recordLen n)) then .error .badCommand
    else if !reply ∧ mRreq h ∧ epIsEngine dst then .error .badCommand
    else if reply ∧ (m.resvFor ep (ch - 4) (mTag h)).isNone then .error .badCommand
    else if !epIsVec dst ∧ (s.sendTenant ep).isSome ∧ s.epTenant dst ≠ s.sendTenant ep ∧ !priv then .error .permission
    else if !s.epUp dst then .error .aborted
    else if m.stopped.contains q then .error .badCommand
    else if ringValid v ∧ (s.ringDpa dst v).isNone then .error .permission
    else .ok (dst, q, handler)

/-- The first reservation that a reply fills or a removal ends, changed (R341, R342). -/
def modResv (p : Resv → Bool) (f : Resv → Option Resv) : List Resv → List Resv
  | [] => []
  | r :: l => if p r then (match f r with | some x => x :: l | none => l) else r :: modResv p f l

/-- A reply is removed from reply queue c: its reservation ends (R341). -/
def Msg.release (m : Msg) (c src tag : Nat) : Msg :=
  { m with resv := modResv (fun r => r.c == c && r.dest == src && r.tag == tag && r.filled) (fun _ => none) m.resv }

/-- The head message of queue q leaves it (R338, R341). -/
def State.msgPop (s : State) (ep q : Nat) : State :=
  let m := s.msg ep
  match m.queue q with
  | [] => s
  | x :: l =>
    let m := m.setQueue q l
    s.setMsg ep (if 4 ≤ q then m.release (q - 4) (mSrc x.hdr.toNat) (mTag x.hdr.toNat) else m)

/-- A token of an endpoint into Q12 or Q13 of its engine (R338, R344); none where it must wait. -/
def State.epToken (s : State) (ep : Nat) (q13 : Bool) (t : Token) : Option State :=
  let e := epEngine ep
  let q := if q13 then 13 else 12
  if s.tokWaits e q then none else some (s.setEng e ((s.eng e).push q t))

/-- An engine's endpoint moves the head message of queue q: its record into the ring, then its token (R338). A message whose
ring is not its engine's any more is refused (R349). -/
def State.moveHead (s : State) (ep q : Nat) : State :=
  let m := s.msg ep
  match m.queue q with
  | [] => s
  | x :: l =>
    let h := x.hdr.toNat
    let v := m.ring q
    if s.epPaused ep ∨ !ringValid v ∨ m.stopped.contains q then s
    else
      match x.ringOff with
      | some _ =>
        match s.epToken ep (m.tokq.getLsbD q) ⟨BitVec.ofNat 16 (mHandler h), decide (4 ≤ q) && mStatus h != 0⟩ with
        | some s => s.msgPop ep q
        | none => s
      | none =>
        match s.ringDpa ep v with
        | none => (s.setFault ep (msgFault .permission true q (mHandler h) (mSrc h))).msgPop ep q
        | some base =>
          match s.ringPut base (ringSize v) x.hdr x.payload with
          | none => s
          | some (s, off) =>
            let s := s.setMsg ep ((s.msg ep).setQueue q ({ x with payload := [], ringOff := some off } :: l))
            match s.epToken ep (m.tokq.getLsbD q) ⟨BitVec.ofNat 16 (mHandler h), decide (4 ≤ q) && mStatus h != 0⟩ with
            | some s => s.msgPop ep q
            | none => s

/-- An engine's endpoint moves what it can of queue q (R338). -/
def State.moveQueue (s : State) (ep q : Nat) : State := if epIsEngine ep then s.each 16 fun s _ => s.moveHead ep q else s

/-- A message whose payload needs a record has room for it; the earlier messages of an engine's queue have their records
(R337, R347). -/
def State.ringRoom (s : State) (dst q n : Nat) : Bool :=
  if !needsRecord n then true
  else
    let v := (s.msg dst).ring q
    (((s.msg dst).queue q).all fun x => !epIsEngine dst || x.ringOff.isSome) &&
      match s.ringDpa dst v with
      | some base => (ringPlace (s.num base 8) (s.num (base + 8) 8) (ringSize v - 64) (recordLen n)).isSome
      | none => false

/-- A message enters queue q of its receiver (R333, R338, R354). -/
def State.enqueue (s : State) (ep dst q h handler : Nat) (payload : Bytes) : State :=
  let v := (s.msg dst).ring q
  let hdr := deliveredHdr h handler ep (needsRecord payload.length || epIsEngine dst)
  let put (s : State) (x : QMsg) : State :=
    let m := s.msg dst
    (s.setMsg dst ((m.setQueue q (m.queue q ++ [x])).count q 1 1)).moveQueue dst q
  if needsRecord payload.length then
    match (s.ringDpa dst v).bind fun base => s.ringPut base (ringSize v) hdr payload with
    | some (s, off) => put s { hdr := hdr, payload := [], ringOff := some off }
    | none => s
  else put s { hdr := hdr, payload := payload, ringOff := none }

/-- A reply that R335 admits, sent on reply channel c, is enqueued at once into its reservation, in the reply queue of its request's index,
or discarded where the unit that held it was reset (R336, R342, R349). -/
def State.deliverReply (s : State) (ep dst c h : Nat) (payload : Bytes) : State :=
  let m := s.msg dst
  match m.resvFor ep c (mTag h) with
  | none => s
  | some r =>
    if r.dead then s.setMsg dst { m with resv := modResv (fun x => x == r) (fun _ => none) m.resv }
    else
      (s.setMsg dst { m with resv := modResv (fun x => x == r) (fun r => some { r with filled := true }) m.resv }).enqueue ep dst (4 + r.c) h
        (mHandler h) payload

/-- A refusal is recorded in the sender's MSG.FAULT (R335, R352). -/
def State.msgRefused (s : State) (ep ch h : Nat) (c : Code) : State :=
  let dst := match s.msgRoute ep ch h with | .ok (d, _, _) => d | .error _ => mDest h
  s.setFault ep (msgFault c false ch (mHandler h) dst)

/-- Send a reply (R342): the code that its sender receives. -/
def State.sendReply (s : State) (ep c : Nat) (hdr : Word64) (payload : Bytes) : State × Code :=
  let h := hdr.toNat
  match s.msgCheck ep (4 + c) h payload.length with
  | .error e => (s.msgRefused ep (4 + c) h e, e)
  | .ok (dst, _, _) =>
    let s := s.deliverReply ep dst c h payload
    (s.setMsg ep ((s.msg ep).count (4 + c) 0 1), .ok)

/-- The reply that a unit makes for a request that asked for one: its code and payload go to the requester's queue of the
request's index. HANDLER is not stated: a free value (R313, R327, R349). -/
def State.autoReply (s : State) (ep c : Nat) (req : Word64) (status : Code) (payload : Bytes) : State :=
  if mRreq req.toNat then
    (s.sendReply ep c (replyHdr (s.free 0) (mTag req.toNat) (mSrc req.toNat) status payload.length) payload).1.drawn
  else s

/-- Every message queued at an endpoint is discarded and counted; the requests that asked for a reply get one with ABORTED
(R349). -/
def State.dropMessages (s : State) (ep : Nat) : State :=
  let m := s.msg ep
  let n := ((List.range 8).map fun q => (m.queue q).length).sum
  let s := s.setMsg ep { m with queues := [], resv := m.resv.filter fun r => !r.filled, syncDue := true }
  let s := s.countErrs (.msg ep) n
  (List.range 4).foldl (fun s c =>
    (m.queue c).foldl (fun s x =>
      if mRreq x.hdr.toNat then
        let h := replyHdr (s.free 0) (mTag x.hdr.toNat) (mSrc x.hdr.toNat) .aborted 0
        (s.deliverReply ep (mSrc x.hdr.toNat) c h.toNat []).drawn
      else s) s) s

/-- A write of ENG.TENANT (R85): at a change of tenant the Drip zeroes the engine's noise-key slot and its assembly buffer (R218, R231), and
the messages queued at its endpoint are discarded (R349). -/
def State.engTenantPut (s : State) (e t : Nat) : State :=
  let x := s.eng e
  if x.tenant = t then s
  else
    let d := s.drip (e / 4)
    let s := s.setDrip (e / 4) { d with nk := tdel d.nk (e % 4), abuf := tdel d.abuf (e % 4) }
    (s.setEng e { x with tenant := t }).dropMessages (epOfEngine e)

/-- The unit of an endpoint is reset: its messages go, its sends end, its reservations stay for replies that are discarded
(R349). -/
def State.resetEndpoint (s : State) (ep : Nat) : State :=
  let s := s.dropMessages ep
  let m := s.msg ep
  s.setMsg ep { m with resv := m.resv.map fun r => { r with dead := true }, sending := [] }

/-- At the next enable of an endpoint's unit its rings are made empty: PI = CI (R349). -/
def State.syncRings (s : State) (ep : Nat) : State :=
  let m := s.msg ep
  if !m.syncDue then s
  else
    (List.range 8).foldl (fun s q =>
      let v := m.ring q
      if ringValid v then
        match s.ringDpa ep v with
        | some base => (s.devWrite 0 base (s.bytes (base + 8) 8)).1
        | none => s
      else s) (s.setMsg ep { m with syncDue := false })

/-! ## Sends (R324, R343, R344) -/

/-- A helper core's instruction is complete: the next one is at pc + n, or the handler of an interrupt taken meanwhile (R343); minstret
counts it, and a core whose RUN was cleared halts (R318, R324, R329, R330). -/
def State.helperDone (s : State) (h rd : Nat) (v : Word64) (n : Nat) : State :=
  let x := s.helper h
  (s.setHelper h { x with
    x := if rd = 0 then x.x else tset x.x rd v, pc := if x.held then x.pc else x.pc + BitVec.ofNat 64 n, blocked := false, wfi := false,
    ktWait := none, held := false, csr := tset x.csr 0xB02 (tget x.csr 0xB02 0 + 1),
    running := x.running && x.run }).event (.helper h) 2 1

/-- The outbound ring's record: STATUS written, CI past it (R344, R346). -/
def State.oringDone (s : State) (ep c : Nat) (code : Code) : State :=
  let v := (s.msg ep).ring (8 + c)
  match (if ringValid v then s.ringDpa ep v else none) with
  | none => s
  | some base =>
    let ci := s.num (base + 8) 8
    let s' := (s.devWrite 0 (base + 64 + ixOff ci + 13) [code.byte]).1
    (s'.devWrite 0 (base + 8) (leBytes 8 (s.ixAfter base (ringSize v) ci))).1

/-- The token of an engine's ended send, as soon as it has room (R344). -/
def State.sendToken (s : State) (ep ch : Nat) : State :=
  match (s.msg ep).send ch with
  | some m =>
    match m.ended with
    | some code =>
      match s.epToken ep ((s.msg ep).tokq.getLsbD (8 + ch)) ⟨BitVec.ofNat 16 (mHandler m.hdr.toNat), code != .ok⟩ with
      | some s => s.setMsg ep { s.msg ep with sending := tset (s.msg ep).sending ch none }
      | none => s
    | none => s
  | none => s

/-- The Sump record of an engine's refused send (R344, R420). -/
def State.sendRecord (s : State) (ep : Nat) (c : Code) : SumpRec :=
  let x := s.eng (epEngine ep)
  { code := c.byte, cls := 0, unit := 5, place := BitVec.ofNat 8 (ep % 8), tenant := some (Fin.ofNat 1024 x.tenant), op := 0,
    slot := x.slot.map (Fin.ofNat 8192),
    disp := match x.slot with | some n => BitVec.ofNat 16 (s.slotJ n).disp | none => 0,
    fpc := 0, detail0 := (s.msg ep).fault, detail1 := BitVec.ofNat 64 (s.free 0) }

/-- A send has ended with a code: the sender learns it, SENT counts a send without refusal, SSTALL the cycles that it waited
(R324, R344, R354). -/
def State.endSend (s : State) (ep ch : Nat) (m : SendMsg) (code : Code) : State :=
  let y := ((s.msg ep).count ch 2 (s.cyc (epIsland ep) - m.at_)).count ch 0 (if code = .ok then 1 else 0)
  if epIsEngine ep then
    let s := s.setMsg ep { y with sending := tset y.sending ch (some { m with ended := some code }) }
    let s := if code = .ok then s else (s.sumpPut (ep / 8) (s.sendRecord ep code)).drawn
    (s.oringDone ep ch code).sendToken ep ch
  else (s.setMsg ep { y with sending := tset y.sending ch none }).helperDone (epHelper ep) m.rd (BitVec.ofNat 64 code.num) 4

/-- A sender has the reply credit that its request needs (R341, R343). -/
def State.hasCredit (s : State) (ep ch h : Nat) : Bool := !mRreq h || decide (0 < (s.msg ep).credit ch)

/-- Another request arrived before at queue q of dst, and waits for its entry or its ring space: it is served first (R349). -/
def State.overtakes (s : State) (dst q : Nat) (arr : Option Nat) : Bool :=
  (List.range 128).any fun ep => (List.range 4).any fun ch =>
    match (s.msg ep).send ch with
    | some y =>
      (match s.msgCheck ep ch y.hdr.toNat y.payload.length with
       | .ok (d, r, _) => d == dst && r == q
       | .error _ => false) && y.ended.isNone && s.hasCredit ep ch y.hdr.toNat &&
        (match y.arr, arr with
         | some a, some b => decide (a < b)
         | some _, none => true
         | none, _ => false)
    | none => false

/-- The request of a channel is checked, and enqueued when its three resources are there and no earlier one waits for them; otherwise it
waits, or is refused where the limit has passed (R335, R343, R349). -/
def State.routeRequest (s : State) (ep ch : Nat) (x : SendMsg) : State :=
  let h := x.hdr.toNat
  match s.msgCheck ep ch h x.payload.length with
  | .error c => (s.msgRefused ep ch h c).endSend ep ch x c
  | .ok (dst, q, handler) =>
    let s := s.moveQueue dst q
    let ready := !s.epPaused dst && decide (((s.msg dst).queue q).length < 16) && s.ringRoom dst q x.payload.length &&
      s.hasCredit ep ch h && !s.overtakes dst q x.arr
    if ready then
      let s :=
        if mRreq h then s.setMsg ep { s.msg ep with resv := (s.msg ep).resv ++ [{ c := ch, dest := dst, tag := mTag h }] } else s
      (s.enqueue ep dst q h handler x.payload).endSend ep ch x .ok
    else if (s.msg ep).sendWaitLimit ≤ s.cyc (epIsland ep) - x.at_ then
      (s.msgRefused ep ch h .queueWouldBlock).endSend ep ch x .queueWouldBlock
    else if x.arr.isSome then s
    else
      let n := (s.msg dst).arrivals
      let s := s.setMsg dst { s.msg dst with arrivals := n + 1 }
      s.setMsg ep { s.msg ep with sending := tset (s.msg ep).sending ch (some { x with arr := some n }) }

/-- MESSAGE_DELIVER (R335-R349): the message that waits at a channel goes to its receiver. A request channel also names the
receiving queue that an engine's endpoint moves into its ring, and the token of a send that has ended (R338, R344). -/
def execMessageDeliver (ep : Fin 128) (ch : Fin 8) (s : State) : Out :=
  let s := (s.moveQueue ep ch).sendToken ep ch
  match (s.msg ep).send ch with
  | none => .next s
  | some x => if x.ended.isSome then .next s else .next (s.routeRequest ep ch x)

/-- A KTEMIT into queue q of engine e: its status, or it waits for at most SEND_WAIT_LIMIT cycles (R326). -/
def State.ktGo (s : State) (h e q : Nat) (t : Token) (rd : Nat) : State :=
  let x := s.helper h
  let y := s.eng e
  let now := s.cyc (islHelper (h / 2))
  let done (s : State) (c : Code) : State := s.helperDone h rd (BitVec.ofNat 64 c.num) 4
  if y.tenant ≠ x.tenant then done s .permission
  else if y.st = .idle ∨ y.inReset ∨ !s.blkOn (.engine e) then done s .aborted
  else if s.tokWaits e q then
    if (s.msg (epOfHelper h)).sendWaitLimit ≤ now - (if x.ktWait.isSome then x.ktAt else now) then done s .queueWouldBlock
    else s.setHelper h { x with ktWait := some (e, q, t, rd), ktAt := if x.ktWait.isSome then x.ktAt else now }
  else done (s.setEng e (y.push q t)) .ok

/-- A KTEMIT that waits is tried again (R326). -/
def State.ktRetry (s : State) (h : Nat) : State :=
  match (s.helper h).ktWait with
  | some (e, q, t, rd) => s.ktGo h e q t rd
  | none => s

/-- SEND_WAIT_EXPIRE (R326, R343): SEND_WAIT_LIMIT cycles have passed since the send. -/
def execSendWaitExpire (ep : Fin 128) (ch : Fin 8) (s : State) : Out :=
  let late (at_ : Nat) : Bool := decide ((s.msg ep).sendWaitLimit ≤ s.cyc (epIsland ep) - at_)
  match (s.msg ep).send ch with
  | none => .next (if epIsHelper ep && late (s.helper (epHelper ep)).ktAt then s.ktRetry (epHelper ep) else s)
  | some x => .next (if x.ended.isNone && late x.at_ then s.routeRequest ep ch x else s)

/-- OUTBOUND_SEND (R344): the next new record of an engine's outbound ring is sent; a pad record is passed (R346, R348). -/
def execOutboundSend (e : Fin 64) (c : Fin 4) (s : State) : Out :=
  let ep := epOfEngine e
  let m := s.msg ep
  let v := m.ring (8 + c)
  if (m.send c).isSome ∨ !ringValid v ∨ s.epPaused ep ∨ !s.epUp ep then .next s
  else
    match s.ringDpa ep v with
    | none => .next s
    | some base =>
      let pi := s.num base 8
      let ci := s.num (base + 8) 8
      if pi = ci then .next s
      else
        let at_ := base + 64 + ixOff ci
        if bit (s.num (at_ + 8) 8) 63 then .next (s.devWrite 0 (base + 8) (leBytes 8 (s.ixAfter base (ringSize v) ci))).1
        else
          let h := BitVec.ofNat 64 (s.num at_ 8)
          .next (s.setMsg ep { m with
            sending := tset m.sending c (some { hdr := h, payload := s.bytes (at_ + 16) (mLen h.toNat), rd := 0,
                                                at_ := s.cyc (epIsland ep) }) })

/-- RING_CI_WRITE (R348): the receiver writes CI. A value outside the occupied part or not at a record boundary stops delivery
into the ring. -/
def execRingCiWrite (ep : Fin 128) (q : Fin 8) (ci : Word64) (s : State) : Out :=
  let m := s.msg ep
  let v := m.ring q
  if !ringValid v then .next s
  else
    match s.ringDpa ep v with
    | none => .next s
    | some base =>
      let ok := s.ixReach base (ringSize v) (s.num base 8) ci.toNat 16384 (s.num (base + 8) 8)
      let s := (s.devWrite 0 (base + 8) (leBytes 8 ci.toNat)).1
      if ok then .next (s.moveQueue ep q) else .next (s.stopRing ep q)

/-! ## MSG registers (R350, R351, R353) -/

/-- The rights of a function on a MSG page (R350). -/
def State.mayMsg (s : State) (port fn ep : Nat) : Bool :=
  fn == 0 || (epIsEngine ep && s.mayUse port fn (s.eng (epEngine ep)).tenant)

/-- Ring register r exists at an endpoint (R350, R351). -/
def ringExists (ep r : Nat) : Bool := epIsEngine ep || (epIsHelper ep && decide (r < 4))

/-- A RINGq or ORINGc value is well formed for its endpoint, whether or not it sets VALID (R351). -/
def State.ringOk (s : State) (ep v : Nat) : Bool :=
  !bit v 62 && fld v 40 16 == 0 && fld v 23 9 == 0 && ringBase v % 4096 == 0 && (epIsEngine ep || ringHandle v == 0) &&
    (if epIsEngine ep then (s.ringDpa ep v).isSome else decide (ringBase v + ringSize v ≤ 0x80000))

/-- Queue q is empty and its ring holds no record (R349). -/
def State.ringIdle (s : State) (ep q : Nat) : Bool :=
  let v := (s.msg ep).ring q
  ((s.msg ep).queue q).isEmpty &&
    (!ringValid v || match s.ringDpa ep v with | some base => s.num base 8 == s.num (base + 8) 8 | none => true)

/-- A write of ring register r: 0-7 RINGq, 8-11 ORINGc (R349, R351). -/
def State.ringPutReg (s : State) (ep r : Nat) (val : Word64) : State :=
  let v := val.toNat
  if !ringExists ep r then s
  else if !s.ringOk ep v ∨ (r < 8 ∧ !s.ringIdle ep r) then s.refuse (.msg ep) .badCommand
  else
    let m := s.msg ep
    let s := s.setMsg ep { m with rings := tset m.rings r val, stopped := m.stopped.filter fun x => x != r }
    if ringValid v then
      match s.ringDpa ep v with
      | some base => (s.devWrite 0 base (zeros 16)).1
      | none => s
    else s

/-- MSG_RING_WRITE (R351). -/
def execMsgRingWrite (port : Fin 2) (fn : Fin 64) (ep : Fin 128) (r : Fin 12) (val : Word64) (s : State) : Out :=
  if ep.val % 8 = 7 then .next s
  else .next (s.gate (.msg ep) (s.mayMsg port fn ep) fun s => s.ringPutReg ep r val)

/-- The unit of an endpoint is not running (R353). -/
def State.epStill (s : State) (ep : Nat) : Bool :=
  if epIsEngine ep then (s.eng (epEngine ep)).st == .idle || (s.eng (epEngine ep)).st == .saved
  else if epIsHelper ep then !(s.helper (epHelper ep)).run
  else (s.vec (epVec ep)).run.isNone

/-- A write of RTn (R353). Reserved bits are ignored (R9). -/
def State.routeEntryPut (s : State) (ep n : Nat) (val : Word64) : State :=
  if !s.epStill ep then s.refuse (.msg ep) .badCommand
  else
    let m := s.msg ep
    s.setMsg ep { m with rt := tset m.rt n (val &&& 0x80037F0000000FFF#64) }

/-- ROUTE_ENTRY_WRITE (R353). -/
def execRouteEntryWrite (port : Fin 2) (fn : Fin 64) (ep : Fin 128) (n : Fin 64) (val : Word64) (s : State) : Out :=
  if ep.val % 8 = 7 then .next s
  else .next (s.gate (.msg ep) (s.mayMsg port fn ep) fun s => s.routeEntryPut ep n val)

end Sys2Proof.Machine
end

