-- ==== Sys2Proof/Machine/Vector.lean ====
section
/-! DEFINITION. The vector engine: dispatch, its instructions, the end of a handler (R303-R314, R328, R330). -/

namespace Sys2Proof.Machine

open Sys2Proof

/-! ## Registers and fields (R304, R306) -/

/-- Scalar register r: S0 reads as zero (R304). -/
def Vec.sreg (x : Vec) (r : Nat) : Nat := if r = 0 then 0 else (tget x.s r 0).toNat

/-- A write of scalar register r: S0 ignores it (R304). -/
def Vec.setS (x : Vec) (r v : Nat) : Vec := if r = 0 then x else { x with s := tset x.s r (BitVec.ofNat 64 v) }

def Vec.mk_ (x : Vec) (n : Nat) : BitVec 4096 := tget x.mks n 0

def vD (w : Nat) : Nat := fld w 51 5
def vA (w : Nat) : Nat := fld w 46 5
def vB (w : Nat) : Nat := fld w 41 5
def vC (w : Nat) : Nat := fld w 36 5
def vW32 (w : Nat) : Bool := bit w 35
def vBs (w : Nat) : Bool := bit w 34
def vMs (w : Nat) : Nat := fld w 32 2
def vMf (w : Nat) : Bool := bit w 31
def vRnd (w : Nat) : Nat := fld w 28 3
def vImm (w lo n : Nat) : Nat := fld (fld w 0 28) lo n

/-- Bytes of an element (R306). -/
def vE (w : Nat) : Nat := if vW32 w then 4 else 8
/-- Bits of an element. -/
def vBits (w : Nat) : Nat := if vW32 w then 32 else 64

/-- The opcodes and the bits of IMM that each one uses (R307, R312). -/
def vecImmUsed (opc : Nat) : Option Nat :=
  match opc with
  | 0x01 | 0x02 | 0x0B | 0x0C | 0x10 | 0x11 | 0x12 | 0x13 | 0x14 => some 0
  | 0x08 | 0x09 => some 0xFFFFFFF
  | 0x0A => some 0xFFF
  | 0x18 | 0x21 => some (if opc = 0x18 then 0xF else 0xC00007F)
  | 0x19 | 0x1A | 0x1B | 0x30 | 0x31 => some 3
  | 0x20 => some 0xFFE0000
  | 0x22 => some 0xF
  | 0x28 => some 0xFFFFC03
  | _ => none

/-- An instruction that ends its handler with BAD_COMMAND: undefined opcode, reserved bits, a reserved RND code, k of VRSH outside
1-32 (R307, R310). -/
def vecBad (w : Nat) : Bool :=
  let opc := fld w 56 8
  match vecImmUsed opc with
  | none => true
  | some m =>
    (fld w 0 28 &&& (0xFFFFFFF - m)) != 0 || decide (2 < vRnd w) || (vRnd w != 0 && opc != 0x20 && opc != 0x21) ||
      (opc == 0x21 && (vImm w 0 6 == 0 || decide (32 < vImm w 0 6)))

/-! ## The end of a handler (R313, R314) -/

/-- VEC.FAULT_INFO (R328). -/
def vecFaultInfo (c : Code) (opc pc : Nat) : Word64 :=
  BitVec.ofNat 64 (c.num <<< 56 ||| (opc % 256) <<< 48 ||| pc % 4096)

/-- The reply of an ending handler, then the engine is free (R313). -/
def State.vecEnd (s : State) (g : Nat) (r : Handler) (status : Code) (payload : Bytes) : State :=
  let s := s.autoReply (epOfVec g) r.queue r.hdr status payload
  let x := s.vec g
  s.setVec g { x with run := none, lastTenant := r.tenant, lastFaulted := status != .ok, handled := x.handled + 1 }

/-- A handler ends at once with a code: FAULT_INFO, one Sump record, the reply (R314). The address concerned is that of a
failing memory access, otherwise a free value (R420). -/
def State.vecFault (s : State) (g : Nat) (r : Handler) (opc : Nat) (c : Code) (va : Option Nat) : State :=
  let info := vecFaultInfo c opc r.pc
  let s := s.setVec g { s.vec g with faultInfo := info }
  let s := (s.sumpPut g
    { code := c.byte, cls := if c = .eccUncorrectable then 6 else 0, unit := 3, place := 0,
      tenant := some (Fin.ofNat 1024 r.tenant), op := BitVec.ofNat 8 opc, slot := none, disp := 0,
      fpc := BitVec.ofNat 32 r.pc, detail0 := info, detail1 := BitVec.ofNat 64 (va.getD (s.free 0)) }).drawn
  (s.vecEnd g r c []).event (.vec g) 7 1

/-- How an instruction ends: with the next one, with a jump, with a fault, or with the end of its handler. -/
inductive VEnd where
  | go | jump (pc : Nat) | fault (c : Code) (va : Option Nat) | ret
  deriving DecidableEq, Repr

/-! ## Operands (R302, R305) -/

/-- Bytes [a, a + n) of the scratchpad address that a register holds: the DPA, or the fault. -/
def State.vecSp (s : State) (g tenant v unit n : Nat) : Except Code Nat :=
  let h := 2 * g + fld v 19 1
  let off := fld v 0 19
  if bit v 63 ∨ fld v 20 43 ≠ 0 ∨ off % unit ≠ 0 ∨ 0x80000 < off + n then .error .shape
  else if (s.helper h).tenant ≠ tenant then .error .permission
  else .ok (hpDpa h off)

/-- The instruction at the handler's PC (R306, R313), or the code that ends the handler. -/
def State.vecFetch (s : State) (g : Nat) (r : Handler) : Except Code Nat :=
  match s.vecSp g r.tenant (r.prog / 0x80000 * 0x80000 + (r.prog % 0x80000 + 8 * r.pc)) 8 8 with
  | .error .permission => .error .permission
  | .error _ => .error .badCommand
  | .ok a => if r.prog % 0x80000 + 8 * r.pc + 8 ≤ 0x80000 then .ok (s.num a 8) else .error .badCommand

/-- Run the instruction of opcode `opc` when it is the next one of the running handler (R307), also while the block stops (R479). A word without an opcode of its own, or
that cannot be fetched, is VNOP's. -/
def State.vecRun (s : State) (g opc : Nat) (body : State → Handler → Nat → State × VEnd) : State :=
  match (s.vec g).run with
  | none => s
  | some r =>
    if (s.hdr (.vec g)).pstate ≠ .on ∧ (s.hdr (.vec g)).pstate ≠ .stopping then s
    else
      match s.vecFetch g r with
      | .error c => if opc = 1 then s.vecFault g r 0 c none else s
      | .ok w =>
        let mine := fld w 56 8 == opc || (opc == 1 && (vecImmUsed (fld w 56 8)).isNone)
        if !mine then s
        else if vecBad w then s.vecFault g r (fld w 56 8) .badCommand none
        else
          match body s r w with
          | (s, .fault c va) => s.vecFault g r opc c va
          | (s, e) =>
            let s := s.event (.vec g) 2 1
            let s := if 0x10 ≤ opc then s.event (.vec g) 3 (s.vec g).vl else s
            let x := s.vec g
            let x := { x with vseq := x.vseq + 1 }
            match e with
            | .jump pc => s.setVec g { x with run := some { r with pc := pc } }
            | .ret => (s.setVec g x).vecEnd g r .ok (leBytes 8 (x.sreg 1))
            | _ => s.setVec g { x with run := some { r with pc := r.pc + 1 } }

/-- Change the vector engine's registers and go on. -/
def State.vecReg (s : State) (g : Nat) (f : Vec → Vec) : State × VEnd := (s.setVec g (f (s.vec g)), .go)

/-- A vector operand: the elements of register r, or of the scalar itself. -/
def State.vecIn (s : State) (g : Nat) (h : Handler) (w r n : Nat) : Except Code (Nat × List Nat) :=
  match s.vecSp g h.tenant ((s.vec g).sreg r) (vE w) (n * vE w) with
  | .ok a => .ok (a, eltsOf (vE w) n (s.bytes a (n * vE w)))
  | .error c => .error c

/-- Two runs meet and do not start together: which elements the instruction reads after writing them is not stated. -/
def runsClash (n a b : Nat) : Bool := a != b && overlap a (a + n) b (b + n)

/-- Open value i of a vector instruction: a function of its word, the handler's registers and the values at hand (R315). -/
def State.vecOpen (s : State) (g w : Nat) (vs : List Nat) (i : Nat) : Nat :=
  let x := s.vec g
  Config.vecOpen w ((List.range 32).map x.sreg ++ [x.vl, x.q.toNat, x.vseq] ++ ((List.range 4).map fun n => (x.mk_ n).toNat) ++ vs) i

/-- Write the elements of a vector result that MS selects (R306); `clash`: they lie over bytes that the instruction also reads
(log entry 58): open values, which depend only on the instruction, its registers and the values that it reads (R315). A CI of a message ring that it writes is checked
(R348). -/
def State.vecOut (s : State) (g w dst : Nat) (clash : Bool) (vs : List Nat) : State :=
  let e := vE w
  let vs := if clash then (List.range vs.length).map (s.vecOpen g w vs) else vs
  let t :=
    if vMs w = 0 then (s.devWrite 0 dst (eltBytes e vs)).1
    else
      let m := (s.vec g).mk_ (vMs w)
      ((List.range vs.length).zip vs).foldl
        (fun s iv => if m.getLsbD iv.1 then (s.devWrite 0 (dst + iv.1 * e) (leBytes e iv.2)).1 else s) s
  t.ringsSeen s g

/-- The B operand of an element-wise instruction: elements, or the value of register B in every place (R306). Its run is given
when it has one. -/
def State.vecInB (s : State) (g : Nat) (h : Handler) (w n : Nat) : Except Code (Option Nat × List Nat) :=
  if vBs w then .ok (none, List.replicate n ((s.vec g).sreg (vB w)))
  else
    match s.vecIn g h w (vB w) n with
    | .ok (a, v) => .ok (some a, v)
    | .error c => .error c

/-! ## Modular arithmetic (R308) -/

/-- q meets R308 for the element width and MF. -/
def vecQOk (w q : Nat) : Bool :=
  (q == 0 || (decide (2 ≤ q) && decide (q < if vW32 w then 2 ^ 31 else 2 ^ 61))) && (!vMf w || q % 2 == 1)

/-- A value reduced mod q, or mod 2^EW-width where q is 0. -/
def vmod (w q x : Nat) : Nat := if q = 0 then x % 2 ^ vBits w else x % q

/-- −q^(−1) mod 2^64 for an odd q, by Newton's steps (R32). -/
def negInv (q : Nat) : Nat :=
  let m := 2 ^ 64
  let inv := (List.range 6).foldl (fun x _ => x * (2 + m - q * x % m) % m) 1
  (m - inv) % m

/-- A product as MF asks for it. -/
def vmul (w q a b : Nat) : Nat :=
  let t := vmod w q a * vmod w q b
  if vMf w then redc t q (negInv q % 2 ^ vBits w) (2 ^ vBits w) else vmod w q t

/-- An element-wise modular instruction of up to three sources. -/
def State.vecModular (s : State) (g opc srcs : Nat) (f : Nat → Nat → Nat → Nat → Nat → Nat) : State :=
  s.vecRun g opc fun s h w =>
    let x := s.vec g
    let n := x.vl
    let q := x.q.toNat
    if !vecQOk w q then (s, .fault .shape none)
    else
      let none_ : Except Code (Option Nat × List Nat) := .ok (none, List.replicate n 0)
      let b := if srcs ≤ 1 then none_ else s.vecInB g h w n
      let c := if srcs ≤ 2 then none_ else (s.vecIn g h w (vC w) n).map fun p => (some p.1, p.2)
      match s.vecIn g h w (vA w) n, b, c, s.vecSp g h.tenant (x.sreg (vD w)) (vE w) (n * vE w) with
      | .error c, _, _, _ => (s, .fault c none)
      | _, .error c, _, _ => (s, .fault c none)
      | _, _, .error c, _ => (s, .fault c none)
      | _, _, _, .error c => (s, .fault c none)
      | .ok (aa, as), .ok (ba, bs), .ok (ca, cs), .ok d =>
        let clash := ([some aa, ba, ca].filterMap id).any fun p => runsClash (n * vE w) p d
        (s.vecOut g w d clash ((as.zip (bs.zip cs)).map fun t => f w q t.1 t.2.1 t.2.2), .go)

/-! ## The instructions (R307) -/

/-- VNOP (R307). -/
def execVnop (g : Fin 16) (s : State) : Out := .next (s.vecRun g 0x01 fun s _ _ => (s, .go))

/-- VRET (R313). -/
def execVret (g : Fin 16) (s : State) : Out := .next (s.vecRun g 0x02 fun s _ _ => (s, .ret))

/-- A sign-extended 28-bit IMM as a 64-bit number. -/
def vSimm (w : Nat) : Nat := (signed 28 (fld w 0 28) % (2 ^ 64 : Int)).toNat

/-- VSI (R307). -/
def execVsi (g : Fin 16) (s : State) : Out := .next (s.vecRun g 0x08 fun s _ w => s.vecReg g fun x => x.setS (vD w) (vSimm w))

/-- VSADD (R307). -/
def execVsadd (g : Fin 16) (s : State) : Out :=
  .next (s.vecRun g 0x09 fun s _ w => s.vecReg g fun x =>
    x.setS (vD w) (x.sreg (vA w) + if vBs w then x.sreg (vB w) else vSimm w))

/-- VBNZ (R307): the test is of the value SD − 1. -/
def execVbnz (g : Fin 16) (s : State) : Out :=
  .next (s.vecRun g 0x0A fun s _ w =>
    let x := (s.vec g).setS (vD w) ((s.vec g).sreg (vD w) + (2 ^ 64 - 1))
    (s.setVec g x, if x.sreg (vD w) ≠ 0 then .jump (vImm w 0 12) else .go))

/-- VSETVL (R307). -/
def execVsetvl (g : Fin 16) (s : State) : Out :=
  .next (s.vecRun g 0x0B fun s _ w => s.vecReg g fun x =>
    let n := min (x.sreg (vA w)) 4096
    { x with vl := n }.setS (vD w) n)

/-- VSETQ (R307). -/
def execVsetq (g : Fin 16) (s : State) : Out :=
  .next (s.vecRun g 0x0C fun s _ w => s.vecReg g fun x => { x with q := BitVec.ofNat 64 (x.sreg (vA w)) })

/-- VADD (R307, R308). -/
def execVadd (g : Fin 16) (s : State) : Out :=
  .next (s.vecModular g 0x10 2 fun w q a b _ => vmod w q (vmod w q a + vmod w q b))

/-- VSUB (R307, R308). -/
def execVsub (g : Fin 16) (s : State) : Out :=
  .next (s.vecModular g 0x11 2 fun w q a b _ => vmod w q (vmod w q a + ((if q = 0 then 2 ^ vBits w else q) - vmod w q b)))

/-- VMUL (R307, R308). -/
def execVmul (g : Fin 16) (s : State) : Out := .next (s.vecModular g 0x12 2 fun w q a b _ => vmul w q a b)

/-- VMAC (R307, R308). -/
def execVmac (g : Fin 16) (s : State) : Out :=
  .next (s.vecModular g 0x13 3 fun w q a b c => vmod w q (vmul w q a b + vmod w q c))

/-- VNEG (R307, R308). -/
def execVneg (g : Fin 16) (s : State) : Out :=
  .next (s.vecModular g 0x14 1 fun w q a _ _ => vmod w q ((if q = 0 then 2 ^ vBits w else q) - vmod w q a))

/-- COND of VCMP (R307). -/
def vecCond (c a b : Nat) : Bool :=
  match c with
  | 0 => a == b
  | 1 => a != b
  | 2 => decide (a < b)
  | _ => decide (b ≤ a)

/-- A mask from its bits, bit 0 first. -/
def maskOf (l : List Bool) : BitVec 4096 := BitVec.ofNat 4096 (l.foldr (fun b acc => b2n b + 2 * acc) 0)

/-- VCMP (R307): bits at VL and above are cleared. -/
def execVcmp (g : Fin 16) (s : State) : Out :=
  .next (s.vecRun g 0x18 fun s h w =>
    let n := (s.vec g).vl
    match s.vecIn g h w (vA w) n, s.vecInB g h w n with
    | .error c, _ => (s, .fault c none)
    | _, .error c => (s, .fault c none)
    | .ok (_, as), .ok (_, bs) =>
      s.vecReg g fun x =>
        { x with mks := tset x.mks (vImm w 0 2) (maskOf (List.zipWith (vecCond (vImm w 2 2)) as bs)) })

/-- VSEL (R307). -/
def execVsel (g : Fin 16) (s : State) : Out :=
  .next (s.vecRun g 0x19 fun s h w =>
    let x := s.vec g
    let n := x.vl
    match s.vecIn g h w (vA w) n, s.vecInB g h w n, s.vecSp g h.tenant (x.sreg (vD w)) (vE w) (n * vE w) with
    | .error c, _, _ => (s, .fault c none)
    | _, .error c, _ => (s, .fault c none)
    | _, _, .error c => (s, .fault c none)
    | .ok (aa, as), .ok (ba, bs), .ok d =>
      let m := x.mk_ (vImm w 0 2)
      let clash := ([some aa, ba].filterMap id).any fun p => runsClash (n * vE w) p d
      (s.vecOut g w d clash (((List.range n).zip (as.zip bs)).map fun t => if m.getLsbD t.1 then t.2.1 else t.2.2), .go))

/-- VMKLD (R307). Bits at VL and above are not stated: open values (R315). -/
def execVmkld (g : Fin 16) (s : State) : Out :=
  .next (s.vecRun g 0x1A fun s h w =>
    let x := s.vec g
    match s.vecSp g h.tenant (x.sreg (vA w)) 1 ((x.vl + 7) / 8) with
    | .error c => (s, .fault c none)
    | .ok a =>
      let v := s.num a ((x.vl + 7) / 8) % 2 ^ x.vl
      let v := v + s.vecOpen g w [v] 0 * 2 ^ x.vl
      (s.setVec g { x with mks := tset x.mks (vImm w 0 2) (BitVec.ofNat 4096 v) }, .go))

/-- VMKST (R307). -/
def execVmkst (g : Fin 16) (s : State) : Out :=
  .next (s.vecRun g 0x1B fun s h w =>
    let x := s.vec g
    match s.vecSp g h.tenant (x.sreg (vD w)) 1 ((x.vl + 7) / 8) with
    | .error c => (s, .fault c none)
    | .ok d => ((s.devWrite 0 d (leBytes ((x.vl + 7) / 8) (x.mk_ (vImm w 0 2)).toNat)).1.ringsSeen s g, .go))

/-- The draw of a stochastic vector rounding: `k` bits for element i with cut word c (R310). -/
def State.vecDraw (s : State) (g sel i c k : Nat) : Nat :=
  rhash (s.eng (4 * g + sel)).rndLatched.toNat 0 255 (i % 2 ^ 17) ((s.vec g).vseq + 1) c k

/-- STOCH names an engine place of another tenant (R310). -/
def State.vecSeedBad (s : State) (g : Nat) (h : Handler) (w sel : Nat) : Bool :=
  vRnd w == 2 && (s.eng (4 * g + sel)).tenant != h.tenant

/-- VDIG (R309). A digit of no bits is not stated: open values (R315). -/
def execVdig (g : Fin 16) (s : State) : Out :=
  .next (s.vecRun g 0x20 fun s h w =>
    let x := s.vec g
    let n := x.vl
    let q := x.q.toNat
    let l := vImm w 24 4
    let beta := vImm w 19 5
    let sel := vImm w 17 2
    if !vecQOk w q ∨ q = 0 ∨ (if vW32 w then 30 else 60) < l * beta then (s, .fault .shape none)
    else if s.vecSeedBad g h w sel then (s, .fault .permission none)
    else
      match s.vecIn g h w (vA w) n, s.vecSp g h.tenant (x.sreg (vD w)) (vE w) (l * n * vE w) with
      | .error c, _ => (s, .fault c none)
      | _, .error c => (s, .fault c none)
      | .ok (a, as), .ok d =>
        let digs := ((List.range n).zip as).map fun iv =>
          let v := iv.2 % q
          gadget (vRnd w) q l beta v (s.vecDraw g sel iv.1 (v * 2 ^ (l * beta) % q) 32)
        let clash := beta == 0 || (a != d && overlap a (a + n * vE w) d (d + l * n * vE w))
        ((List.range l).foldl (fun s k =>
          s.vecOut g w (d + k * n * vE w) clash (digs.map fun ds => resOf q (ds.getD k 0))) s, .go))

/-- VRSH (R310). -/
def execVrsh (g : Fin 16) (s : State) : Out :=
  .next (s.vecRun g 0x21 fun s h w =>
    let x := s.vec g
    let n := x.vl
    let k := vImm w 0 6
    let sel := vImm w 26 2
    if s.vecSeedBad g h w sel then (s, .fault .permission none)
    else
      match s.vecIn g h w (vA w) n, s.vecSp g h.tenant (x.sreg (vD w)) (vE w) (n * vE w) with
      | .error c, _ => (s, .fault c none)
      | _, .error c => (s, .fault c none)
      | .ok (a, as), .ok d =>
        let one (i v : Nat) : Nat :=
          let sv : Int := if bit w 6 then signed (vBits w) v else v
          let c := v % 2 ^ k
          let up : Int :=
            if vRnd w = 0 then (if 2 ^ (k - 1) ≤ c then 1 else 0)
            else if vRnd w = 2 then (if s.vecDraw g sel i c k < c then 1 else 0)
            else 0
          ((sv / (2 ^ k : Nat) + up) % (2 ^ vBits w : Nat)).toNat
        (s.vecOut g w d (runsClash (n * vE w) a d) (((List.range n).zip as).map fun iv => one iv.1 iv.2), .go))

/-- The running sums of R311: element values with their segment bits, from an accumulator. -/
def scanGo (w q : Nat) (excl : Bool) : Nat → List (Nat × Bool) → List Nat
  | _, [] => []
  | acc, (a, start) :: r =>
    let acc := if start then 0 else acc
    let sum := vmod w q (acc + a)
    (if excl then acc else sum) :: scanGo w q excl sum r

/-- VSCAN (R311). -/
def execVscan (g : Fin 16) (s : State) : Out :=
  .next (s.vecRun g 0x22 fun s h w =>
    let x := s.vec g
    let n := x.vl
    if !vecQOk w x.q.toNat then (s, .fault .shape none)
    else
      match s.vecIn g h w (vA w) n, s.vecSp g h.tenant (x.sreg (vD w)) (vE w) (n * vE w) with
      | .error c, _ => (s, .fault c none)
      | _, .error c => (s, .fault c none)
      | .ok (a, as), .ok d =>
        let m := x.mk_ (vImm w 1 2)
        let vs := scanGo w x.q.toNat (bit w 0) 0 (((List.range n).zip as).map fun iv => (iv.2, bit w 3 && m.getLsbD iv.1))
        (s.vecOut g w d (runsClash (n * vE w) a d) vs, .go))

/-! ## Memory (R305, R312) -/

/-- The virtual address that a register holds: bits [62:48] zero, aligned to the element (R305). -/
def vecVa (v unit : Nat) : Except Code Nat := if fld v 48 15 ≠ 0 ∨ fld v 0 48 % unit ≠ 0 then .error .shape else .ok (fld v 0 48)

/-- 64-byte units that a run meets. -/
def unitsOf (a n : Nat) : Nat := if n = 0 then 0 else (a + n - 1) / 64 - a / 64 + 1

/-- Read n bytes at the scratchpad or virtual address v: the bytes before the first failure, and the failure with its address. -/
def State.vecRead (s : State) (g tenant hint unit v n : Nat) : State × Bytes × Option (Code × Option Nat) :=
  if bit v 63 then
    match vecVa v unit with
    | .error c => (s, [], some (c, none))
    | .ok a =>
      let r := (s.event (.vec g) 4 (unitsOf a n)).vRead (some g) tenant hint a n
      (r.1, r.2.1, r.2.2.map fun f => (f.2, some f.1))
  else
    match s.vecSp g tenant v unit n with
    | .error c => (s, [], some (c, none))
    | .ok a => (s, s.bytes a n, none)

/-- Rows of a matrix, up to the first failure (R312). -/
def State.vecRows (s : State) (g tenant hint unit base stride n : Nat) :
    List Nat → State × List (List Nat) × Option (Code × Option Nat)
  | [] => (s, [], none)
  | r :: l =>
    match s.vecRead g tenant hint unit (base + r * stride) n with
    | (s, _, some f) => (s, [], some f)
    | (s, b, none) =>
      let t := s.vecRows g tenant hint unit base stride n l
      (t.1, eltsOf unit (n / unit) b :: t.2.1, t.2.2)

/-- Runs of n bytes, one for each of `cnt` strides, all in one scratchpad. -/
def State.vecSpan (s : State) (g tenant v unit stride cnt n : Nat) : Except Code (List Nat) :=
  if stride % unit ≠ 0 ∧ 1 < cnt then .error .shape
  else
    match s.vecSp g tenant v unit ((cnt - 1) * stride + n) with
    | .error c => .error c
    | .ok a => .ok ((List.range cnt).map fun b => a + b * stride)

/-- The accumulators of one batch after all rows (R312). -/
def vmvAcc (w q : Nat) (init : List Nat) (dig : List Nat) (rows : List (List Nat)) : List Nat :=
  ((dig.zip rows).foldl (fun acc dr => List.zipWith (fun x m => x + vmul w q dr.1 m) acc dr.2) (init.map (vmod w q))).map (vmod w q)

/-- VMV (R312): nothing is written when a row cannot be read. -/
def execVmv (g : Fin 16) (s : State) : Out :=
  .next (s.vecRun g 0x28 fun s h w =>
    let x := s.vec g
    let n := x.vl
    let e := vE w
    let q := x.q.toNat
    let rcnt := vImm w 14 14 + 1
    let bat := vImm w 11 3 + 1
    let c := x.sreg (vC w)
    let rstr := fld c 40 24
    let mv := x.sreg (vB w)
    if !vecQOk w q ∨ (!vBs w ∧ rstr % e ≠ 0 ∧ 1 < rcnt) then (s, .fault .shape none)
    else
      match s.vecSpan g h.tenant (x.sreg (vD w)) e (fld c 0 20) bat (n * e),
          s.vecSpan g h.tenant (x.sreg (vA w)) e (fld c 20 20) bat (rcnt * e) with
      | .error f, _ => (s, .fault f none)
      | _, .error f => (s, .fault f none)
      | .ok accs, .ok digs =>
        let sp := !vBs w && !bit mv 63
        match (if sp then s.vecSp g h.tenant mv e ((rcnt - 1) * rstr + n * e) else .ok 0) with
        | .error f => (s, .fault f none)
        | .ok ma =>
          match (if vBs w then (s, List.replicate rcnt (List.replicate n mv), none)
                 else s.vecRows g h.tenant (vImm w 0 2) e mv rstr (n * e) (List.range rcnt)) with
          | (s, _, some f) => (s, .fault f.1 f.2)
          | (s, rows, none) =>
            let meets (a : Nat) : Bool :=
              (digs.any fun p => overlap a (a + n * e) p (p + rcnt * e)) ||
                (sp && overlap a (a + n * e) ma (ma + (rcnt - 1) * rstr + n * e)) ||
                decide (1 < (accs.filter fun p => overlap a (a + n * e) p (p + n * e)).length)
            let clash := accs.any meets
            let outs := (accs.zip digs).map fun ad =>
              let init := if bit w 10 then List.replicate n 0 else eltsOf e n (s.bytes ad.1 (n * e))
              (ad.1, vmvAcc w q init (eltsOf e rcnt (s.bytes ad.2 (rcnt * e))) rows)
            (outs.foldl (fun s ao => s.vecOut g w ao.1 clash ao.2) s, .go))

/-- VLD (R305, R307): the elements read before a failure are written. -/
def execVld (g : Fin 16) (s : State) : Out :=
  .next (s.vecRun g 0x30 fun s h w =>
    let x := s.vec g
    let e := vE w
    let av := x.sreg (vA w)
    match s.vecSp g h.tenant (x.sreg (vD w)) e (x.vl * e) with
    | .error c => (s, .fault c none)
    | .ok d =>
      let sp := if bit av 63 then none else (s.vecSp g h.tenant av e (x.vl * e)).toOption
      match s.vecRead g h.tenant (vImm w 0 2) e av (x.vl * e) with
      | (s, b, f) =>
        let clash := (sp.map fun a => runsClash (x.vl * e) a d).getD false
        let s := s.vecOut g w d clash (eltsOf e (b.length / e) b)
        (s, match f with | some f => .fault f.1 f.2 | none => .go))

/-- Write the elements that MS selects into a tenant's memory, in order, up to the first failure. -/
def State.vecStore (s : State) (g tenant hint e : Nat) (m : Option (BitVec 4096)) (a : Nat) (vs : List Nat) : State × RunFail :=
  match m with
  | none => s.vWrite (some g) tenant hint a e (eltBytes e vs)
  | some k =>
    ((List.range vs.length).zip vs).foldl (fun sf iv =>
      match sf with
      | (s, some f) => (s, some f)
      | (s, none) => if k.getLsbD iv.1 then s.vWrite (some g) tenant hint (a + iv.1 * e) e (leBytes e iv.2) else (s, none)) (s, none)

/-- VST (R305, R307). -/
def execVst (g : Fin 16) (s : State) : Out :=
  .next (s.vecRun g 0x31 fun s h w =>
    let x := s.vec g
    let e := vE w
    let dv := x.sreg (vD w)
    match s.vecIn g h w (vA w) x.vl with
    | .error c => (s, .fault c none)
    | .ok (a, vs) =>
      if bit dv 63 then
        match vecVa dv e with
        | .error c => (s, .fault c none)
        | .ok va =>
          match s.vecStore g h.tenant (vImm w 0 2) e (if vMs w = 0 then none else some (x.mk_ (vMs w))) va vs with
          | (s, some f) => (s, .fault f.2 (some f.1))
          | (s, none) => (s, .go)
      else
        match s.vecSp g h.tenant dv e (x.vl * e) with
        | .error c => (s, .fault c none)
        | .ok d => (s.vecOut g w d (runsClash (x.vl * e) a d) vs, .go))

/-! ## Dispatch (R313) -/

/-- Payload word w of a message. -/
def payWord (b : Bytes) (w : Nat) : Nat := ofLe ((b.drop (8 * w)).take 8)

/-- A handler entry that a sender may run: VALID, the sender's tenant, zero reserved bits and an aligned program address
(R313). -/
def vecEntryOk (e : Nat) (tenant : Option Nat) : Bool :=
  bit e 63 && tenant == some (fld e 52 10) && bit e 62 == false && fld e 20 32 == 0 && fld e 0 3 == 0

/-- A message is dispatched: its entry, then its payload in S1-S31 and everything else zero (R313). -/
def State.vecTake (s : State) (g q : Nat) (m : QMsg) : State :=
  let h := m.hdr.toNat
  let x := s.vec g
  let off := fld x.htabBase.toNat 3 16 * 8 + 8 * mHandler h
  let e := if off + 8 ≤ 0x80000 then s.num (hpDpa (2 * g) off) 8 else 0
  let t := s.epTenant (mSrc h)
  let r : Handler := { hdr := m.hdr, queue := q, tenant := t.getD 0, prog := fld e 0 20, pc := 0 }
  if !vecEntryOk e t then s.vecFault g r 0 .badCommand none
  else
    s.setVec g { x with
      s := (List.range 31).map (fun w => (w + 1, BitVec.ofNat 64 (payWord m.payload w))), vl := 0, q := 0, mks := [], vseq := 0,
      run := some r, lastTenant := r.tenant }

/-- VEC_DISPATCH (R313): the head message of the lowest-numbered request queue that is not empty. -/
def execVecDispatch (g : Fin 16) (s : State) : Out :=
  let ep := epOfVec g
  if (s.vec g).run.isSome ∨ !s.blkOn (.vec g) ∨ (s.hdr (.vec g)).halt then .next s
  else
    match (List.range 4).find? fun q => !((s.msg ep).queue q).isEmpty with
    | none => .next s
    | some q =>
      match (s.msg ep).queue q with
      | [] => .next s
      | m :: _ => .next ((s.msgPop ep q).vecTake g q m)

/-- VEC_HANDLER_TIMEOUT (R314, R328): the handler is longer than HLIMIT. -/
def execVecHandlerTimeout (g : Fin 16) (s : State) : Out :=
  match (s.vec g).run with
  | none => .next s
  | some r =>
    if (s.vec g).hlimit = 0 then .next s
    else
      let opc := match s.vecFetch g r with | .ok w => fld w 56 8 | .error _ => 0
      .next (s.vecFault g r opc .aborted none)

end Sys2Proof.Machine
end

