-- ==== Sys2Proof/Machine/HelperOps.lean ====
section
/-! DEFINITION. The helper cores: their controls, Xkmsg, message dispatch and kmhost (R302, R318-R329). The base instruction
set is in Machine/Riscv.lean. -/

namespace Sys2Proof.Machine

open Sys2Proof

/-- Register xr of a helper core. -/
def Helper.xr (x : Helper) (r : Nat) : Word64 := if r = 0 then 0 else tget x.x r 0

def Helper.csrOf (x : Helper) (n : Nat) : Word64 := tget x.csr n 0

/-- mip as a helper core reads it (R322): KMSG while a request waits, WATCH, XLAT while an engine of the gallery has it. -/
def State.mipOf (s : State) (h : Nat) : Word64 :=
  let g := h / 2
  let kmsg := (List.range 4).any fun q => !((s.msg (epOfHelper h)).queue q).isEmpty
  let xlat := (List.range 4).any fun j => (s.hdr (.stream (4 * g + j))).irqSts.getLsbD 0
  (s.helper h).csrOf 0x344 ||| (if kmsg then 0x10000 else 0) ||| if xlat then 0x40000 else 0

/-- The core waits in a KSEND or a KTEMIT (R326, R343). -/
def State.helperWaits (s : State) (h : Nat) : Bool :=
  (s.helper h).ktWait.isSome || (List.range 8).any fun c => ((s.msg (epOfHelper h)).send c).isSome

/-- The core runs and stands at an instruction boundary: no KSEND or KTEMIT of it waits (R343). A KRECV that blocks, and a WFI, are
boundaries at which a dispatch or an interrupt is taken (R325). -/
def State.helperReady (s : State) (h : Nat) : Bool :=
  s.blkOn (.helper h) && (s.helper h).run && (s.helper h).running && !s.helperWaits h

/-- The core executes its next instruction: it stands neither in a KRECV nor in a WFI (R325, R339). -/
def State.helperFree (s : State) (h : Nat) : Bool := s.helperReady h && !(s.helper h).blocked && !(s.helper h).wfi

/-- The machine-mode trap entry of the RISC-V privileged architecture (R318, log entry 59): mepc, mcause and mtval are written, MIE goes to
MPIE and is cleared, MPP is machine mode; pc goes to `target`. -/
def Helper.enter (x : Helper) (epc cause tval target : Word64) : Helper :=
  let st := (x.csrOf 0x300).toNat
  let st' := (st &&& (2 ^ 64 - 1 - 0x1888)) ||| b2n (bit st 3) <<< 7 ||| 0x1800
  { x with csr := tset (tset (tset (tset x.csr 0x300 (BitVec.ofNat 64 st')) 0x341 epc) 0x342 cause) 0x343 tval, pc := target,
           blocked := false, wfi := false }

/-- A synchronous exception of a helper core (R318, R319). -/
def State.helperTrap (s : State) (h cause : Nat) (tval : Word64) : State :=
  let x := s.helper h
  s.setHelper h (x.enter x.pc (BitVec.ofNat 64 cause) tval ((x.csrOf 0x305) &&& ~~~3#64))

/-- The first address of a run that lies outside the core's own scratchpad (R319). -/
def ownMiss (a n : Nat) : Option Nat :=
  if n = 0 then none else if 0x80000 ≤ a then some a else if 0x80000 < a + n then some 0x80000 else none

/-- The bytes that a received message puts into its buffer (R325, R338). -/
def QMsg.image (m : QMsg) : Bytes :=
  match m.ringOff with
  | some off => leBytes 8 (off % 2 ^ 24)
  | none => m.payload

/-! ## Controls (R302, R329) -/

/-- A write of HELPER.TENANT (R302, R329, R349). -/
def State.helperTenantPut (s : State) (h v : Nat) : State :=
  let x := s.helper h
  let busy : Bool := match (s.vec (h / 2)).run with | some r => r.tenant == x.tenant | none => false
  if x.run || x.running || busy then s.refuse (.helper h) .badCommand
  else
    let t := fld v 0 10
    let s := if t = x.tenant then s else s.dropMessages (epOfHelper h)
    (s.setHelper h { s.helper h with tenant := t }).zeroRun (hpDpa h 0) 0x80000

/-- HELPER_TENANT_WRITE (R302, R329). -/
def execHelperTenantWrite (h : Fin 32) (val : Word32) (s : State) : Out :=
  .next (s.gate (.helper h) true fun s => s.helperTenantPut h val.toNat)

/-- A write of HELPER.CTL (R329): RUN starts the core at BOOT_PC, giving up a KSEND or KTEMIT that still waited, or halts it at an
instruction boundary; PRIV changes only while the core stands. -/
def State.helperCtl (s : State) (h v : Nat) : State :=
  let x := s.helper h
  let run := bit v 0
  let priv := bit v 1
  if priv ≠ x.priv ∧ (x.run ∨ x.running) then s.refuse (.helper h) .badCommand
  else if run && !x.run then
    (s.setMsg (epOfHelper h) { s.msg (epOfHelper h) with sending := [] }).setHelper h { x with
      run := true, running := true, priv := priv, pc := BitVec.ofNat 64 (fld x.bootPc.toNat 1 18 * 2), x := [],
      csr := tset x.csr 0x304 0, de := false, inh := false, wfi := false, blocked := false, lr := none, ktWait := none, held := false }
  else s.setHelper h { x with run := run, priv := priv, running := x.running && (run || s.helperWaits h) }

/-- HELPER_RUN_WRITE (R329). -/
def execHelperRunWrite (h : Fin 32) (val : Word32) (s : State) : Out :=
  .next (s.gate (.helper h) true fun s => s.helperCtl h val.toNat)

/-! ## Xkmsg (R323-R327) -/

/-- KSEND (R324): a reply goes at once; a request leaves and waits at its channel for the router (R342, R343). -/
def State.ksend (s : State) (h rd rs1 rs2 queue : Nat) (reply : Bool) : State :=
  let x := s.helper h
  let hdr := x.xr rs2
  let a := (x.xr rs1).toNat
  let n := mLen hdr.toNat
  match ownMiss a n with
  | some b => s.helperTrap h 5 (BitVec.ofNat 64 b)
  | none =>
    let payload := s.bytes (hpDpa h a) n
    let ep := epOfHelper h
    if reply then
      let r := s.sendReply ep queue hdr payload
      r.1.helperDone h rd (BitVec.ofNat 64 r.2.num) 4
    else
      let m := s.msg ep
      s.setMsg ep { m with
        sending := tset m.sending queue (some { hdr := hdr, payload := payload, rd := rd, at_ := s.cyc (epIsland ep) }) }

/-- KSEND (R324). -/
def execKsend (h : Fin 32) (rd rs1 rs2 : Fin 32) (queue : Fin 4) (reply : Bool) (s : State) : Out :=
  .next (if s.helperFree h then s.ksend h rd rs1 rs2 queue reply else s)

/-- KRECV of queue q, 4-7 for replies (R325): it blocks while the queue is empty. -/
def State.krecv (s : State) (h rd rs1 q : Nat) : State :=
  let x := s.helper h
  let ep := epOfHelper h
  match (s.msg ep).queue q with
  | [] => s.setHelper h { x with blocked := true, recv := (rd, rs1, q) }
  | m :: _ =>
    let a := (x.xr rs1).toNat
    match ownMiss a m.image.length with
    | some b => s.helperTrap h 7 (BitVec.ofNat 64 b)
    | none => (((s.msgPop ep q).devWriteBy (some h) 0 (hpDpa h a) m.image).1.ringsSeen (s.msgPop ep q) (h / 2)).helperDone h rd m.hdr 4

/-- KRECV (R325). A core that blocks in a KRECV has no other instruction to execute (R339). -/
def execKrecv (h : Fin 32) (rd rs1 : Fin 32) (queue : Fin 4) (reply : Bool) (s : State) : Out :=
  let q := (if reply then 4 else 0) + queue.val
  let x := s.helper h
  .next (if s.helperFree h || (s.helperReady h && x.blocked && x.recv == (rd.val, rs1.val, q)) then s.krecv h rd rs1 q else s)

/-- KTEMIT (R326): operands with other bits set are refused, and nothing is delivered (R9). -/
def State.ktemit (s : State) (h rd rs1 rs2 : Nat) : State :=
  let x := s.helper h
  let a := (x.xr rs1).toNat
  let v := (x.xr rs2).toNat
  if 8 ≤ a ∨ 2 ^ 17 ≤ v then s.helperDone h rd (BitVec.ofNat 64 Code.badCommand.num) 4
  else s.ktGo h (4 * (h / 2) + a % 4) (if bit a 2 then 13 else 12) ⟨BitVec.ofNat 16 v, bit v 16⟩ rd

/-- KTEMIT (R326). One that waits tries again. -/
def execKtemit (h : Fin 32) (rd rs1 rs2 : Fin 32) (s : State) : Out :=
  .next (if (s.helper h).ktWait.isSome then s.ktRetry h else if s.helperFree h then s.ktemit h rd rs1 rs2 else s)

/-- KHRET (R327): outside a handler it is an illegal instruction, whose mtval is free. -/
def State.khret (s : State) (h : Nat) : State :=
  let x := s.helper h
  if !x.inh then (s.helperTrap h 2 (BitVec.ofNat 64 (s.free 0))).drawn
  else (s.setHelper h { x with inh := false, pc := x.kmepc }).helperDone h 0 0 0

/-- KHRET (R327). -/
def execKhret (h : Fin 32) (s : State) : Out := .next (if s.helperFree h then s.khret h else s)

/-- The message that a dispatch takes: the head of the lowest-numbered request queue that holds one (R327). -/
def State.dispatchable (s : State) (h : Nat) : Option (Nat × QMsg) :=
  (List.range 4).findSome? fun q => ((s.msg (epOfHelper h)).queue q).head?.map fun m => (q, m)

/-- A dispatch at an instruction boundary (R327), also out of a KRECV that blocks, to which KHRET returns (R325). -/
def State.helperDispatch (s : State) (h : Nat) : State :=
  let x := s.helper h
  if !s.helperReady h ∨ !x.de ∨ x.inh then s
  else
    match s.dispatchable h with
    | none => s
    | some (q, m) =>
      let ep := epOfHelper h
      let at_ := x.kmhtab.toNat / 8 * 8 + 8 * mHandler m.hdr.toNat
      let e := if at_ + 8 ≤ 0x80000 then s.num (hpDpa h at_) 8 else 0
      let s := s.msgPop ep q
      if !bit e 63 then (s.refuse (.helper h) .badCommand).autoReply ep q m.hdr .badCommand []
      else
        let s := (s.devWriteBy (some h) 0 (hpDpa h (fld x.kmbuf.toNat 8 11 * 256)) m.image).1.ringsSeen s (h / 2)
        (s.setHelper h { s.helper h with
          kmhdr := m.hdr, kmepc := x.pc, inh := true, pc := BitVec.ofNat 64 (fld e 1 18 * 2), blocked := false,
          wfi := false }).event (.helper h) 7 1

/-- HELPER_DISPATCH (R327). -/
def execHelperDispatch (h : Fin 32) (s : State) : Out := .next (s.helperDispatch h)

/-- A write of kmhost (R322): MBOX, and the MBOX interrupt. -/
def State.kmhost (s : State) (h : Nat) (val : Word64) : State :=
  (s.setHelper h { s.helper h with mbox := val.setWidth 32 }).raise (.helper h) 0

/-- KMHOST_WRITE (R322). -/
def execKmhostWrite (h : Fin 32) (val : Word64) (s : State) : Out :=
  .next (if s.helperFree h then (s.kmhost h val).helperDone h 0 0 4 else s)

end Sys2Proof.Machine
end

