-- ==== Sys2Proof/Machine/JournalOps.lean ====
section
/-! DEFINITION. The work journal's shared operations: rings and pairs, slot records in both copies, frozen contexts, dispatch
again, commit, spend marks (R360-R383, R415-R417, R425-R428). -/

namespace Sys2Proof.Machine

open Sys2Proof

/-! ## Counts and codes -/

/-- The cycles from count a to count c of one island (R26). -/
def spanOfCounts (a c : Nat) : Nat := (c + 2 ^ 64 - a % 2 ^ 64) % 2 ^ 64

/-- A supervisor has latched an instant for a slot. -/
def latched (t : Tbl Nat) (n : Nat) : Bool := t.any fun p => p.1 == n

/-- STATE of R371. -/
def JState.num : JState → Nat
  | .free => 0 | .accepted => 1 | .committed => 2 | .posting => 3 | .posted => 4

/-- STATE by its code (R371); an undefined code counts as FREE. -/
def JState.ofNum (n : Nat) : JState :=
  match n with
  | 1 => .accepted | 2 => .committed | 3 => .posting | 4 => .posted | _ => .free

/-- The islands beside the Geode are out of reset: PWRGD and SYS_RST_N are high, an image runs, no thermal trip, no lost OSC_25M
(R437, R455, R495, R499, R502). -/
def State.outOfReset (s : State) : Bool :=
  s.pins.pwrgd && s.pins.sysRst && !s.pins.thermtrip && !s.pins.oscDead && !s.geode.boardTest && !s.geode.recovery

/-- The half of a gallery. -/
def halfOfGallery (g : Nat) : Ctl := if g < 8 then .W else .E

/-! ## Rings (R360, R375, R378) -/

def State.sqOf (s : State) (p f n : Nat) : Sq := tget (s.fn p f).sq n {}
def State.cqOf (s : State) (p f n : Nat) : Cq := tget (s.fn p f).cq n {}

/-- A ring-table entry is written in both copies (R375). -/
def State.ringSave (s : State) (i : Nat) (v : RingEnt) : State :=
  { s with journal := { s.journal with ringA := tset s.journal.ringA i v, ringB := tset s.journal.ringB i v } }

def State.putSq (s : State) (p f n : Nat) (x : Sq) : State :=
  (s.setFn p f { s.fn p f with sq := tset (s.fn p f).sq n x }).ringSave (ringIdx p f n) (.sq x)

def State.putCq (s : State) (p f n : Nat) (x : Cq) : State :=
  (s.setFn p f { s.fn p f with cq := tset (s.fn p f).cq n x }).ringSave (ringIdx p f n + 16) (.cq x)

/-- The next index of a ring of n entries (R360). -/
def ringNext (i n : Nat) : Nat := if i + 1 = n then 0 else i + 1

/-- The other ring of a failover pair (R378): both name each other, with one tenant and, once both have taken entries, one completion ring
index. -/
def State.partner (s : State) (p f n : Nat) : Option (Nat × Nat) :=
  let x := s.sqOf p f n
  let y := s.sqOf (1 - p) x.pfn n
  let sameCq := x.cqUsed.isNone || y.cqUsed.isNone || x.cqUsed == y.cqUsed
  if x.pair ∧ y.pair ∧ y.pfn = f ∧ (s.fn p f).tenant = (s.fn (1 - p) x.pfn).tenant ∧ sameCq then some (1 - p, x.pfn) else none

/-- One name for the two rings of a pair, also after a takeover: its sequence space (R378). -/
def State.ringKey (s : State) (p f n : Nat) : Nat × Nat × Nat :=
  match (s.sqOf p f n).movedTo, s.partner p f n with
  | some (q, g), _ => (q, g, n)
  | none, some (q, g) => if q < p ∧ (s.sqOf q g n).movedTo ≠ some (p, f) then (q, g, n) else (p, f, n)
  | none, none => (p, f, n)

def State.slotRing (s : State) (x : JSlot) : Nat × Nat × Nat := s.ringKey x.port x.fn x.ring

/-- Slots in use whose commands came on a ring. -/
def State.ringSlots (s : State) (k : Nat × Nat × Nat) : List (Nat × JSlot) :=
  s.journal.slots.filter fun p => p.2.st != .free && s.slotRing p.2 == k

/-- Where a command's ring is served now: its own port and function, or the partner that a takeover moved it to (R379, R383). -/
def State.servedAt (s : State) (x : JSlot) : Nat × Nat := (s.sqOf x.port x.fn x.ring).movedTo.getD (x.port, x.fn)

/-- The SEQ due after one is posted: the next number, past a rewrite of NEXT (R364, R368). -/
def Sq.posted (x : Sq) (seq : Word64) : Sq :=
  match x.jumps with
  | (a, b) :: r => if a = seq + 1 then { x with nextPost := some b, jumps := r } else { x with nextPost := some (seq + 1) }
  | [] => { x with nextPost := some (seq + 1) }

/-- The host rewrites NEXT (R364): with every accepted command posted, the next one accepted is the next one due. -/
def Sq.rewrite (x : Sq) (v : Word64) : Sq :=
  if x.nextPost = none ∨ (x.nextPost = some x.next ∧ x.jumps = []) then { x with next := v, nextPost := none }
  else { x with next := v, jumps := x.jumps ++ [(x.next, v)] }

/-! ## Slot records (R370, R371, R376) -/

/-- The 512 bytes of a slot (R371). -/
def JSlot.image (x : JSlot) : Bytes :=
  leBytes 64 x.entry.toNat ++ leBytes 1 x.st.num ++ [x.status.byte] ++ leBytes 1 x.port ++ leBytes 1 x.fn ++ leBytes 1 x.ring ++
    leBytes 1 x.home ++ leBytes 2 x.disp ++ leBytes 8 x.seed.toNat ++ leBytes 8 x.tAccept ++ leBytes 8 x.tStart ++
    leBytes 8 x.tCommit ++ leBytes 8 x.result.toNat ++
    leBytes 4 (b2n x.phase <<< 31 ||| b2n x.late <<< 30 ||| x.idx % 2 ^ 17) ++ zeros 4 ++ leBytes 8 x.wall.toNat ++
    (((List.range 16).map fun k => leBytes 8 (x.marks.getD k 0).toNat).flatten) ++ leBytes 8 x.elapsed ++ zeros 248

/-- A slot from its bytes (R371). -/
def JSlot.ofBytes (b : Bytes) : JSlot :=
  let at_ (o n : Nat) : Nat := ofLe ((b.drop o).take n)
  { entry := BitVec.ofNat 512 (at_ 0 64), st := JState.ofNum (at_ 0x40 1), status := Code.ofNum (at_ 0x41 1), port := at_ 0x42 1 % 2,
    fn := at_ 0x43 1 % 64, ring := at_ 0x44 1 % 16, home := at_ 0x45 1 % 16, disp := at_ 0x46 2,
    seed := BitVec.ofNat 64 (at_ 0x48 8), tAccept := at_ 0x50 8, tStart := at_ 0x58 8, tCommit := at_ 0x60 8,
    result := BitVec.ofNat 64 (at_ 0x68 8), phase := bit (at_ 0x70 4) 31, late := bit (at_ 0x70 4) 30, idx := fld (at_ 0x70 4) 0 17,
    wall := BitVec.ofNat 64 (at_ 0x78 8),
    marks := ((List.range 16).map fun k => BitVec.ofNat 64 (at_ (0x80 + 8 * k) 8)).filter fun m => m != 0,
    elapsed := at_ 0x100 8 }

/-- The controller writes a slot's record in both copies, or in the one that is left (R370, R416). -/
def State.putSlot (s : State) (n : Nat) (x : JSlot) : State :=
  let s := s.setSlotJ n x
  let j := s.journal
  let s := if j.lostA then s else (s.devWrite 0 (j.copyDpa false n) x.image).1
  if j.lostB then s else (s.devWrite 0 (j.copyDpa true n) x.image).1

/-- What reading a slot's record in both copies gives (R376, R417, R428). -/
inductive SlotRead where
  | ok (x : JSlot) | lost | differ (off : Nat)
  deriving DecidableEq, Repr

/-- The offset of the first byte that differs. -/
def firstDiff : Nat → Bytes → Bytes → Option Nat
  | _, [], [] => none
  | o, x :: a, y :: b => if x = y then firstDiff (o + 1) a b else some o
  | o, _, _ => some o

/-- A slot's record read in both copies: one that is uncorrectable in one copy is taken from the other and rewritten
(R376). -/
def State.readSlot (s : State) (n : Nat) : State × SlotRead :=
  let j := s.journal
  let a := j.copyDpa false n
  let b := j.copyDpa true n
  let ra := if j.lostA then (s, Except.error Code.eccUncorrectable) else s.devRead 0 a 512
  let rb := if j.lostB then (ra.1, Except.error Code.eccUncorrectable) else ra.1.devRead 0 b 512
  let s := rb.1
  match ra.2, rb.2 with
  | .ok x, .ok y =>
    match firstDiff 0 x y with
    | none => (s, .ok (JSlot.ofBytes x))
    | some o => (s, .differ o)
  | .ok x, .error _ => (if j.lostB then s else ((s.devWrite 0 b x).1.event .journal 8 1), .ok (JSlot.ofBytes x))
  | .error _, .ok y => (if j.lostA then s else ((s.devWrite 0 a y).1.event .journal 8 1), .ok (JSlot.ofBytes y))
  | .error _, .error _ => (s, .lost)

/-! ## Frozen contexts (R428, R429) -/

/-- The engines of a command's run. -/
def State.runEngines (s : State) (n : Nat) : List Nat :=
  (List.range 64).filter fun e => (s.eng e).slot == some n

/-- HALT of the engines that run commands of frozen contexts (R428), or its end when they resume. -/
def State.haltFrozen (s : State) (was : List Nat) : State :=
  s.each 64 fun s e =>
    if s.engFrozen e then s.setHalt (.engine e) true else if was.contains e then s.setHalt (.engine e) false else s

/-- The engines that a freeze holds in HALTED. -/
def State.heldEngines (s : State) : List Nat :=
  (List.range 64).filter s.engFrozen

/-- Clean copies of an item differ: its context stops, and one DIVERGENCE record is raised (R376, R428). -/
def State.freezeItem (s : State) (i off : Nat) : State :=
  if s.journal.frozen.contains i then s
  else
    let s := { s with journal := { s.journal with frozen := s.journal.frozen ++ [i] } }
    let d0 := if i < 8192 then i else 0x8000 + (i - 8192)
    let s := s.logErr { Page.journal.errRec .divergence .divergence with d0 := BitVec.ofNat 64 d0, d1 := BitVec.ofNat 64 off }
    s.haltFrozen []

/-! ## Runs (R372-R374) -/

/-- Reset of an engine with its message endpoint (R265, R349, R374). -/
def State.resetUnit (s : State) (e : Nat) : State := (s.resetEndpoint (epOfEngine e)).resetEngine e

/-- Saved contexts of a command are discarded (R411). -/
def State.dropSaved (s : State) (n : Nat) : State :=
  s.each 16 fun s g => s.setGal g { s.gal g with saved := (s.gal g).saved.filter fun p => p.2.slot != some n }

/-- What the supervisors keep for a run of slot n is dropped: marks, start and commit instants, and arrival order (R374, R380). -/
def State.dropRun (s : State) (n : Nat) : State :=
  let s := s.each 16 fun s g =>
    s.setGal g { s.gal g with
      marks := tdel (s.gal g).marks n, tStart := tdel (s.gal g).tStart n, tCommit := tdel (s.gal g).tCommit n,
      arrivals := (s.gal g).arrivals.filter fun p => p.1 != n }
  { s with journal := { s.journal with runs := tdel s.journal.runs n } }

/-- Every engine of a command's run is reset and its saved contexts go (R374, R411, R427). -/
def State.resetRun (s : State) (n : Nat) : State :=
  (((s.runEngines n).foldl State.resetUnit s).dropSaved n).dropRun n

/-- LOST_SLOT_STOP (R417): the next completion of the ring is for an accepted SEQ that no slot holds; posting stops and one LOST record is
raised, whose code, dispatch count and details are not stated: free values (log entry 65). -/
def State.lostStop (s : State) (p f n : Nat) : State :=
  let q := s.sqOf p f n
  match q.nextPost with
  | none => s
  | some d =>
    if q.lostStop ∨ q.movedTo.isSome ∨ (d = q.next ∧ q.jumps = []) ∨
        (s.ringSlots (s.ringKey p f n)).any (fun y => y.2.seq == d.toNat) then s
    else
      ((s.putSq p f n { q with lostStop := true }).logErr
        { Page.journal.errRec .lost (Code.ofNum (s.free 0 % 256)) with
          cmd := some (d, p, f, n, s.free 3 % 2 ^ 16), d0 := BitVec.ofNat 64 (s.free 1), d1 := BitVec.ofNat 64 (s.free 2) }).drawn

/-- Every ring whose next completion has lost its slot stops (R417). -/
def State.lostStops (s : State) : State :=
  s.fns.foldl (fun s p => p.2.sq.foldl (fun s q => s.lostStop (p.1 / 64) (p.1 % 64) q.1) s) s

/-- A slot that cannot be read in either copy is lost (R417). -/
def State.loseSlot (s : State) (n : Nat) : State := (s.setSlotJ n {}).lostStops

/-- COMMAND_REDISPATCH (R374): the run's engines are reset, and an ACCEPTED command waits for its next dispatch from its
record. -/
def State.redispatch (s : State) (n : Nat) : State :=
  let s := s.resetRun n
  if (s.slotJ n).st ≠ .accepted then s
  else
    match s.readSlot n with
    | (s, .ok _) => s.event .journal 6 1
    | (s, .differ o) => s.freezeItem n o
    | (s, .lost) => s.loseSlot n

/-! ## Commit (R373, R174, R403, R415) -/

/-- A spend mark is applied: SPENT in the marked descriptor, as one 8-byte write; another version or tenant leaves it unchanged
(R51, R174). -/
def State.applyMark (s : State) (tenant : Nat) (m : Word64) : State :=
  let w := m.toNat
  match (if bit w 63 then some (Loc.sp (fld w 56 6) (fld w 0 23)) else locOf w) with
  | none => s
  | some (.va a) =>
    match s.vRead none tenant 0 a 8 with
    | (s, b, none) =>
      let w := ofLe b
      if fld w 56 8 = 1 ∧ fld w 14 10 = tenant then (s.vWrite none tenant 0 a 8 (leBytes 8 (w ||| 1))).1 else s
    | (s, _, some _) => s
  | some (.sp h off) =>
    match s.handleDpa (fld w 48 6) h off 128 with
    | some d =>
      let w := s.num d 8
      if fld w 56 8 = 1 ∧ fld w 14 10 = tenant then (s.devWrite 0 d (leBytes 8 (w ||| 1))).1 else s
    | none => s

/-- A command that completes on data beyond its code (R415). The record's source and details are not stated: the journal, free
details (log entry 62). -/
def State.uncorrectedRecord (s : State) (n : Nat) : State :=
  let x := s.slotJ n
  if x.status = .eccUncorrectable then
    (s.logErr { Page.journal.errRec .uncorrected .eccUncorrectable with
      tenant := some x.tenant, cmd := some (s.cmdOf n), d0 := BitVec.ofNat 64 (s.free 0), d1 := BitVec.ofNat 64 (s.free 1) }).drawn
  else s

/-- RELEASE goes to every device that the command's transfers went to (R403). -/
def State.releasePeers (s : State) (n : Nat) : State :=
  let mine := s.dev.released.filter fun p => p.1 == n
  let s := { s with dev := { s.dev with released := s.dev.released.filter fun p => p.1 != n } }
  match s.dev.ownId with
  | none => s
  | some own =>
    mine.foldl (fun s p => s.originate (endFlit tyRelease 0 p.2 0 (releasePayload own n))) s

/-- The LATE record of a command, by its home gallery's supervisor (R426). -/
def State.lateRecord (s : State) (n : Nat) : State :=
  let x := s.slotJ n
  s.sumpPut x.home
    { code := Code.late.byte, cls := 3, unit := 6, place := 0, tenant := some (Fin.ofNat 1024 x.tenant), op := 0,
      slot := some (Fin.ofNat 8192 n), disp := BitVec.ofNat 16 x.disp, fpc := 0, detail0 := BitVec.ofNat 64 x.tAccept,
      detail1 := BitVec.ofNat 64 (x.tAccept + x.budget) }

/-- The status of a command's run: of its only engine, or of the first faulting engine in the order in which the Sump received their
records (R113). -/
def State.runStatus (s : State) (n : Nat) (r : Run) : Code :=
  let codes := r.engines.map fun e => (e, ((s.eng e).ended).getD .ok)
  let bad := codes.filter fun p => p.2 != .ok
  match ((s.gal r.gallery).arrivals.filter fun a => a.1 == n && a.2.1 == (s.slotJ n).disp % 2 ^ 16).findSome? fun a =>
      bad.find? fun p => p.1 % 4 == a.2.2 with
  | some p => p.2
  | none => ((bad.head?).map Prod.snd).getD .ok

/-- A command commits (R373 steps 1 and 2): the record in both copies, then the marks; its engines are free again. -/
def State.commitSlot (s : State) (n : Nat) (status : Code) (result : Word64) (marks : List Word64) (start commit : Nat) : State :=
  let x := s.slotJ n
  let late := x.budget != 0 && decide (x.budget < spanOfCounts x.tAccept commit)
  let engines := s.runEngines n
  let s := s.putSlot n { x with st := .committed, status := status, result := result, marks := marks, tStart := start,
                                tCommit := commit, late := x.late || late }
  let s := if late && !x.late then s.lateRecord n else s
  let s := marks.foldl (fun s m => s.applyMark x.tenant m) s
  let s := engines.foldl (fun s e => s.setEng e { s.eng e with slot := none, ended := none }) s
  let s := (((s.event .journal 3 1).uncorrectedRecord n).releasePeers n).dropRun n
  { s with outs := tdel s.outs n }

/-- Bytes of memory that an aborted command has written are undefined: free values (R427). -/
def State.undefRun (s : State) (tenant : Nat) (o : Target × Nat) : State :=
  let runs : List (Nat × Nat × Nat) :=
    match o.1 with
    | .va a => (s.xlateAll none tenant a o.2 true).2.1
    | .dpa d => [(0, d, o.2)]
    | _ => []
  runs.foldl (fun s r => { s.drawn with mem := memPut s.mem 0 r.2.1 (s.freeBytes r.2.2) }) s

/-- All that the runs of a command have written is undefined (R427). -/
def State.undefOuts (s : State) (n : Nat) : State :=
  let s := (tget s.outs n []).foldl (fun s o => s.undefRun (s.slotJ n).tenant o) s
  { s with outs := tdel s.outs n }

/-- A command is committed with ABORTED, RESULT zero and no marks (R427, R429). A start instant that no run gave is free. -/
def State.abortSlot (s : State) (n : Nat) : State :=
  let g := (s.slotJ n).home
  let start := tget (s.gal g).tStart n (s.free 0)
  (((s.resetRun n).undefOuts n).commitSlot n .aborted 0 [] start (s.engCycles g)).drawn

/-! ## Slots in turn (R368, R371) -/

/-- A Sump record that names the slot waits to be drained (R371). -/
def State.sumpNames (s : State) (n : Nat) : Bool :=
  (List.range 16).any fun g => (s.gal g).sump.any fun r => r.slot == some (Fin.ofNat 8192 n)

def State.pendOf (s : State) (n : Nat) : Option Pend := (s.journal.pend.find? fun p => p.1 == n).map Prod.snd

/-- The slot that the next entry takes: a FREE one, then the least recently posted one (R371). -/
def State.nextSlot (s : State) : Option Nat :=
  match (List.range 8192).find? fun n => (s.slotJ n).st == .free && (s.pendOf n).isNone with
  | some n => some n
  | none => s.journal.postedOrder.find? fun n => !s.sumpNames n

/-- A slot is taken: what its earlier command left is gone. -/
def State.takeSlot (s : State) (n : Nat) (x : JSlot) (p : Pend) : State :=
  let s := { s with journal := { s.journal with
    postedOrder := s.journal.postedOrder.filter fun m => m != n, pend := tset s.journal.pend n p } }
  let s := s.setSlotJ n x
  s.each 16 fun s g => s.setGal g { s.gal g with
    tAccept := tdel (s.gal g).tAccept n, tStart := tdel (s.gal g).tStart n, tCommit := tdel (s.gal g).tCommit n }

/-- A slot whose completion has been posted (R371, R373). -/
def State.slotPosted (s : State) (n : Nat) : State :=
  let s := s.putSlot n { s.slotJ n with st := .posted }
  ({ s with journal := { s.journal with postedOrder := (s.journal.postedOrder.filter fun m => m != n) ++ [n] } }).event .journal 4 1

/-- The 32 bytes of a completion (R367). -/
def JSlot.completion (x : JSlot) : Bytes :=
  let sat (v : Nat) : Nat := min v 0xFFFFFFFF
  leBytes 8 x.seq ++ leBytes 8 x.wall.toNat ++ leBytes 4 (sat (spanOfCounts x.tAccept x.tStart)) ++
    leBytes 4 (sat (spanOfCounts x.tStart x.tCommit)) ++ leBytes 6 x.result.toNat ++ [x.status.byte] ++
    leBytes 1 (b2n x.phase ||| b2n x.late <<< 1 ||| b2n (decide (1 < x.disp)) <<< 2)

end Sys2Proof.Machine
end

