-- ==== Sys2Proof/Machine/HostOps.lean ====
section
/-! DEFINITION. The host ports: doorbells, ring controls, entries, acceptance, dispatch, commit, posting, restart, takeover,
queries, resets of functions, deadlines, aborts (R355-R386, R417, R425-R429). -/

namespace Sys2Proof.Machine

open Sys2Proof

/-! ## Doorbells and ring controls (R360, R383) -/

/-- SQ_DOORBELL (R360): a doorbell of a ring without EN is ignored (R383). -/
def execSqDoorbell (port : Fin 2) (fn : Fin 64) (n : Fin 16) (tail : Word32) (s : State) : Out :=
  let x := s.sqOf port fn n
  if !x.en then .next s
  else if x.size ≤ tail.toNat then .next (s.refuse (.pciep port fn) .badCommand)
  else .next (s.putSq port fn n { x with tail := tail.toNat })

/-- CQ_DOORBELL (R360, R375). -/
def execCqDoorbell (port : Fin 2) (fn : Fin 64) (n : Fin 16) (head : Word32) (s : State) : Out :=
  let x := s.cqOf port fn n
  if !x.en then .next s
  else if x.size ≤ head.toNat then .next (s.refuse (.pciep port fn) .badCommand)
  else .next (s.putCq port fn n { x with head := head.toNat })

/-- A ring size in its range (R360). -/
def ringSizeOk (n : Nat) : Bool := decide (16 ≤ n) && decide (n ≤ 65536)

/-- An entry of the ring that is being accepted was read before the ring starts again or is reset (R360, R383). -/
def State.stalePend (s : State) (p f n : Nat) : State :=
  { s with journal := { s.journal with pend := s.journal.pend.map fun q =>
      let y := s.slotJ q.1
      if y.port = p ∧ y.fn = f ∧ y.ring = n then (q.1, { q.2 with stale := true }) else q } }

/-- A write of SQn_CTL (R360, R384). -/
def State.sqCtl (s : State) (p f n v : Nat) : State :=
  let x := s.sqOf p f n
  let en := bit v 31
  if en && !x.en && !ringSizeOk x.size then s.refuse (.pciep p f) .badCommand
  else
    let y := { x with en := en, pair := bit v 15, pfn := fld v 8 6 }
    if en && !x.en then (s.stalePend p f n).putSq p f n { y with head := 0, tail := 0, err := false, cqUsed := none } else s.putSq p f n y

/-- SQ_EN_WRITE (R360, R364). -/
def execSqEnWrite (port : Fin 2) (fn : Fin 64) (n : Fin 16) (val : Word32) (s : State) : Out :=
  .next (s.gate (.pciep port fn) true fun s => s.sqCtl port fn n val.toNat)

/-- A write of CQn_CTL (R360, R383): after an FLR an unchanged ring goes on from its recorded tail. -/
def State.cqCtl (s : State) (p f n v : Nat) : State :=
  let x := s.cqOf p f n
  let en := bit v 31
  if en && !x.en then
    if !ringSizeOk x.size then s.refuse (.pciep p f) .badCommand
    else
      let fresh := { x with en := true, iv := fld v 0 6, err := false, tail := 0, phase := true, head := 0, flr := none }
      match x.flr with
      | some (base, size, tail, phase) =>
        s.putCq p f n (if base = x.base ∧ size = x.size then { fresh with tail := tail, phase := phase, head := tail } else fresh)
      | none => s.putCq p f n fresh
  else s.putCq p f n { x with en := en, iv := fld v 0 6 }

/-- CQ_EN_WRITE (R360). -/
def execCqEnWrite (port : Fin 2) (fn : Fin 64) (n : Fin 16) (val : Word32) (s : State) : Out :=
  .next (s.gate (.pciep port fn) true fun s => s.cqCtl port fn n val.toNat)

/-! ## Entries (R361, R364, R365) -/

/-- An entry of the ring is being accepted. -/
def State.accepting (s : State) (p f n : Nat) : Bool :=
  s.journal.pend.any fun q =>
    let y := s.slotJ q.1
    y.port == p && y.fn == f && y.ring == n

/-- The ring may be fetched from (R360, R364, R371, R378, R379, R428). -/
def State.canFetch (s : State) (p f n : Nat) : Bool :=
  let x := s.sqOf p f n
  let pairOk :=
    match s.partner p f n with
    | some (q, g) =>
      !(s.journal.foBusy && s.journal.foFrom == p) && (x.active || (!(s.sqOf q g n).active && !s.accepting q g n))
    | none => true
  let frozen := s.journal.frozen.contains (8192 + ringIdx p f n) || (f != 0 && s.frozenTenants.contains (s.fn p f).tenant)
  s.outOfReset && s.journal.en && !s.journal.restart && (s.port p).up && !(s.port p).perst && x.en && !x.err && x.head != x.tail &&
    pairOk && !frozen && !s.accepting p f n

/-- The refusal of an entry and the DPA of its ARGS, which a walk finds (R280, R365, R444). -/
def State.entryCheck (s : State) (port fn : Nat) (w : Nat) : State × Code × Nat :=
  let opc := fld w 0 8
  let tenant := fld w 32 10
  let prog := fld w 128 64
  let args := fld w 192 64
  if (opc ≠ 1 ∧ opc ≠ 2) ∨ fld w 10 6 ≠ 0 ∨ fld w 28 4 ≠ 0 ∨ fld w 42 22 ≠ 0 ∨ fld w 320 192 ≠ 0 then (s, .badCommand, 0)
  else if fld w 16 8 ≠ 1 then (s, .version, 0)
  else if (fn ≠ 0 ∧ tenant ≠ (s.fn port fn).tenant) ∨ (s.ctx tenant).st ≠ .live then (s, .tenantMismatch, 0)
  else if opc = 2 then (if prog ≠ 0 ∨ args ≠ 0 then (s, .badCommand, 0) else (s, .ok, 0))
  else if args % 2048 ≠ 0 then (s, .badCommand, 0)
  else
    match s.walkDpa tenant args false with
    | (s, .ok d) => (s, .ok, d)
    | (s, .error c) => (s, c, 0)

/-- The entry at a ring's head, by its SEQ (R364): a duplicate is consumed; one ahead, or one whose completion ring has no EN, stops
the ring; the expected one is checked and its record is written next. -/
def State.takeEntry (s : State) (p f n : Nat) (entry : BitVec 512) : State :=
  let w := entry.toNat
  let x := s.sqOf p f n
  let seq := fld w 64 64
  if seq < x.next.toNat then (s.putSq p f n { x with head := ringNext x.head x.size }).event .journal 5 1
  else if x.next.toNat < seq ∨ !(s.cqOf p f (fld w 24 4)).en then
    (s.putSq p f n { x with err := true }).refuse (.pciep p f) .badCommand
  else
    match s.nextSlot with
    | none => s
    | some m =>
      let c := s.entryCheck p f w
      c.1.takeSlot m { entry := entry, port := p, fn := f, ring := n } { refusal := c.2.1, argsDpa := c.2.2 }

/-- RUN (R361, R365): an entry of OPC 0x01, or of an undefined one, which is refused. -/
def execRun (port : Fin 2) (fn : Fin 64) (n : Fin 16) (entry : BitVec 512) (s : State) : Out :=
  if fld entry.toNat 0 8 ≠ 2 ∧ s.canFetch port fn n then .next (s.takeEntry port fn n entry) else .next s

/-- MARK (R361, R365, R368): an entry of OPC 0x02. -/
def execMark (port : Fin 2) (fn : Fin 64) (n : Fin 16) (entry : BitVec 512) (s : State) : Out :=
  if fld entry.toNat 0 8 = 2 ∧ s.canFetch port fn n then .next (s.takeEntry port fn n entry) else .next s

/-! ## Acceptance (R366, R371, R372) -/

/-- An engine takes work: not FAILED or in self-test, not held in reset, ON (R372, R409, R412). -/
def State.working (s : State) (e : Nat) : Bool :=
  let g := s.gal (e / 4)
  s.blkOn (.engine e) && !(s.eng e).inReset && !g.failed.getLsbD (e % 4) && !g.testing.getLsbD (e % 4)

/-- A working engine that runs nothing. -/
def State.idleEngine (s : State) (e : Nat) : Bool :=
  s.working e && (s.eng e).st == .idle && (s.eng e).slot.isNone && !(s.hdr (.engine e)).halt

def enginesOf (g : Nat) : List Nat := (List.range 4).map (4 * g + ·)
def State.workingIn (s : State) (g : Nat) : Nat := ((enginesOf g).filter s.working).length
def State.idleIn (s : State) (g : Nat) : List Nat := (enginesOf g).filter s.idleEngine

/-- NENG of a launch block as the choice of the home gallery reads it: the block is checked only at dispatch, so a byte that
cannot be read, or lies outside 1-4, counts as 1, and the look at it is no access of its own (R365, R372; log entry 63). -/
def State.peekNeng (s : State) (x : JSlot) : Nat :=
  match (s.walk x.tenant (x.prog + 2) false).2 with
  | .ok (base, sz, _) =>
    let n := s.num (base + (x.prog + 2) % 2 ^ sz) 1
    if 1 ≤ n ∧ n ≤ 4 then n else 1
  | .error _ => 1

/-- The gallery with the most idle working engines, the lowest number first (R372). -/
def State.mostIdle (s : State) : List Nat → Option Nat
  | [] => none
  | g :: r =>
    match s.mostIdle r with
    | some h => if (s.idleIn g).length < (s.idleIn h).length then some h else some g
    | none => some g

/-- HOME_GALLERY_CHOICE (R372) of a RUN: the cavern's gallery with the most idle working engines, unless none of the cavern has NENG working
ones; none where no gallery has them. -/
def State.homeGallery (s : State) (x : JSlot) (argsDpa : Nat) : Option Nat :=
  let need := s.peekNeng x
  let c := stackOf argsDpa / 2
  let cavern := (List.range 4).map (4 * c + ·)
  if cavern.any fun g => decide (need ≤ s.workingIn g) then s.mostIdle cavern
  else (List.range 16).find? fun g => decide (need ≤ s.workingIn g)

/-- Rings of a failed port that a takeover moves (R378, R379). -/
def State.pairedRings (s : State) (p : Nat) : List (Nat × Nat × Nat × Nat) :=
  (List.range 64).flatMap fun f => (List.range 16).filterMap fun n => (s.partner p f n).map fun q => (f, n, q.1, q.2)

/-- A takeover acts (R379): NEXT goes to the partner rings, which become ACTIVE; vector 0 of the surviving PF is raised. A ring whose
partner is ACTIVE already stays. -/
def State.moveRings (s : State) (from_ : Nat) : State :=
  let s := (s.pairedRings from_).foldl (fun s r =>
    let x := s.sqOf from_ r.1 r.2.1
    let y := s.sqOf r.2.2.1 r.2.2.2 r.2.1
    if y.active then s
    else
      (s.putSq from_ r.1 r.2.1 { x with active := false, movedTo := some (r.2.2.1, r.2.2.2) }).putSq r.2.2.1 r.2.2.2 r.2.1
        { y with next := x.next, nextPost := x.nextPost, jumps := x.jumps, lostStop := x.lostStop, cqUsed := x.cqUsed, active := true,
                 movedTo := none }) s
  ({ s with journal := { s.journal with foBusy := false, foPort := 1 - from_ } }).msixTo (1 - from_) 0 0

/-- An entry of a failed port's paired rings is being accepted (R383). -/
def State.acceptsOn (s : State) (p : Nat) : Bool :=
  s.journal.pend.any fun q => let y := s.slotJ q.1; y.port == p && (s.partner p y.fn y.ring).isSome

/-- A takeover waits for the acceptance in progress on an old ring, and then acts (R383). -/
def State.takeover (s : State) (from_ : Nat) : State :=
  if s.acceptsOn from_ then { s with journal := { s.journal with foBusy := true, foFrom := from_ } } else s.moveRings from_

/-- COMMAND_ACCEPT (R365, R366, R372): the record is in both copies; NEXT and the head advance, and the acknowledgement is
written. The head of a ring that was started again since does not advance, and a ring that an FLR reset has no address to write to
(R358, R360). -/
def execCommandAccept (slot : Fin 8192) (s : State) : Out :=
  match s.pendOf slot with
  | none => .next s
  | some p =>
    let x := s.slotJ slot
    let run := x.opc == 1 && p.refusal == .ok
    let home := if run then s.homeGallery x p.argsDpa else none
    let code := if run && home.isNone then .aborted else p.refusal
    let c := s.ctx x.tenant
    let y := { x with
      st := if code = .ok then .accepted else .committed, status := code, home := home.getD (8 * x.port),
      seed := if c.st = .live then c.rseed else 0 }
    let s := { s with journal := { s.journal with pend := tdel s.journal.pend slot } }
    let s := s.putSlot slot y
    let q := s.sqOf x.port x.fn x.ring
    let q := { q with
      head := if p.stale then q.head else ringNext q.head q.size, next := q.next + 1,
      nextPost := some (q.nextPost.getD (BitVec.ofNat 64 x.seq)), cqUsed := some x.cq,
      active := q.active || (s.partner x.port x.fn x.ring).isSome }
    let s := s.putSq x.port x.fn x.ring q
    let s := if p.stale && !q.en then s else s.hostPut x.port x.fn q.ack.toNat (leBytes 8 x.seq ++ leBytes 4 q.head ++ zeros 4)
    let s := s.event .journal 1 1
    let s := if p.refusal = .ok then s else s.event .journal 2 1
    let s := if code = .ok then s else (s.event .journal 3 1).uncorrectedRecord slot
    .next (if s.journal.foBusy && !s.acceptsOn s.journal.foFrom then s.moveRings s.journal.foFrom else s)

/-- ACCEPTANCE_NOTICE (R28, R372): the home gallery's supervisor latches the acceptance instant, which is the commit instant of a
refusal too. -/
def execAcceptanceNotice (slot : Fin 8192) (s : State) : Out :=
  let x := s.slotJ slot
  let g := s.gal x.home
  if (x.st ≠ .accepted ∧ x.st ≠ .committed) ∨ latched g.tAccept slot then .next s
  else
    let t := s.engCycles x.home
    if x.st = .accepted then
      .next ((s.setGal x.home { g with tAccept := tset g.tAccept slot t }).putSlot slot { x with tAccept := t })
    else
      .next ((s.setGal x.home { g with tAccept := tset g.tAccept slot t, tStart := tset g.tStart slot t,
                                       tCommit := tset g.tCommit slot t }).putSlot slot
        { x with tAccept := t, tStart := t, tCommit := t })

/-! ## Dispatch (R362, R363, R372) -/

/-- Dispatch and commit of a command wait: reset, the restart scan, a takeover scan of its half, a frozen context (R375, R419,
R428). -/
def State.workHeld (s : State) (n : Nat) : Bool :=
  !s.outOfReset || s.journal.restart || s.scanHolds (halfOfGallery (s.slotJ n).home) || s.slotFrozen n

/-- DEP is met: no command with SEQ − 1 of the ring waits to commit (R372). -/
def State.depMet (s : State) (x : JSlot) : Bool :=
  !x.dep || (s.ringSlots (s.slotRing x)).all fun y => !(y.2.seq + 1 == x.seq && y.2.st == .accepted)

/-- The launch block of a command, checked (R362, R363): NENG, EMAP and the images of its engines, or the code. -/
def State.launchBlock (s : State) (x : JSlot) : State × Except Code (Bool × List (Nat × Nat)) :=
  if x.prog % 128 ≠ 0 then (s, .error .badCommand)
  else
    match s.vRead none x.tenant 0 x.prog 128 with
    | (s, _, some (_, c)) => (s, .error c)
    | (s, b, none) =>
      let at_ (o n : Nat) : Nat := ofLe ((b.drop o).take n)
      let neng := at_ 2 1
      let emap := bit (at_ 3 1) 0
      if at_ 0 2 ≠ 1 ∨ neng = 0 ∨ 4 < neng ∨ at_ 3 1 / 2 ≠ 0 ∨ at_ 4 2 ≠ x.tenant ∨ !zeroAt b 6 10 ∨
          !zeroAt b (0x10 + 16 * neng) (128 - (0x10 + 16 * neng)) ∨ (1 < neng ∧ !emap) then (s, .error .badCommand)
      else (s, .ok (emap, (List.range neng).map fun i => (at_ (0x10 + 16 * i) 8, at_ (0x18 + 16 * i) 8)))

/-- The gallery that takes the run: the home gallery, or the lowest one with enough idle working engines (R372). -/
def State.runGallery (s : State) (home need : Nat) : Option Nat :=
  (home :: List.range 16).find? fun g => decide (need ≤ (s.idleIn g).length)

/-- The supervisor sets an engine up for a run (R229, R231, R349, R362). -/
def State.setUpEngine (s : State) (n : Nat) (x : JSlot) (i : Nat) (e : Nat) (prog simg : Nat) : State :=
  let s := s.engTenantPut e x.tenant
  let s := s.setEng e { s.eng e with
    progBase := BitVec.ofNat 64 prog, argBase := BitVec.ofNat 64 (x.args + 2048 * i), tenant := x.tenant, rndSeed := x.seed,
    slot := some n, launch := i, ended := none }
  (s.setStrm e { s.strm e with simgBase := BitVec.ofNat 64 simg }).loadNk e

/-- COMMAND_DISPATCH (R19, R372, R483), by the holder of the epoch: the lowest idle working engines of the gallery take the launch engines in order. A launch block that
fails its check ends the run with the code (R365). -/
def execCommandDispatch (slot : Fin 8192) (s : State) : Out :=
  let x := s.slotJ slot
  if x.st ≠ .accepted ∨ x.opc ≠ 1 ∨ (tget s.journal.runs slot none).isSome ∨ s.geode.frozen ∨ s.geode.holder.isNone ∨ s.workHeld slot ∨ !s.depMet x then .next s
  else
    match s.launchBlock x with
    | (s, .error c) =>
      .next { s with journal := { s.journal with
        runs := tset s.journal.runs slot (some { gallery := x.home, engines := [], emap := false, fail := some c }) } }
    | (t, .ok (emap, imgs)) =>
      match t.runGallery x.home imgs.length with
      | none => .next s
      | some g =>
        let es := (t.idleIn g).take imgs.length
        let x := { x with disp := (x.disp + 1) % 2 ^ 16 }
        let t := t.putSlot slot x
        let t := { t with journal := { t.journal with
          runs := tset t.journal.runs slot (some { gallery := g, engines := es, emap := emap }) } }
        .next (((List.range imgs.length).zip (es.zip imgs)).foldl
          (fun s v => s.setUpEngine slot x v.1 v.2.1 v.2.2.1 v.2.2.2) t)

/-- START_NOTICE (R380): the home gallery's supervisor latches the start instant of the run. -/
def execStartNotice (slot : Fin 8192) (s : State) : Out :=
  let x := s.slotJ slot
  match tget s.journal.runs slot none with
  | none => .next s
  | some r =>
    if r.engines = [] ∨ x.st ≠ .accepted ∨ s.workHeld slot ∨ latched (s.gal x.home).tStart slot then .next s
    else .next (s.setGal x.home { s.gal x.home with tStart := tset (s.gal x.home).tStart slot (s.engCycles x.home) })

/-! ## Commit (R368, R373, R380) -/

/-- The command may commit: its run has ended on every engine, or its launch block failed, or it is a MARK and every earlier
command of its ring has committed (R113, R365, R368, R373). -/
def State.mayCommit (s : State) (n : Nat) : Bool :=
  let x := s.slotJ n
  x.st == .accepted && !s.workHeld n &&
    if x.opc = 2 then
      (s.ringSlots (s.slotRing x)).all fun y => !(decide (y.2.seq < x.seq) && y.2.st == .accepted)
    else
      match tget s.journal.runs n none with
      | none => false
      | some r => r.fail.isSome || r.engines.all fun e => (s.eng e).slot == some n && (s.eng e).ended.isSome

/-- COMMIT_NOTICE (R380): the home gallery's supervisor latches the commit instant. -/
def execCommitNotice (slot : Fin 8192) (s : State) : Out :=
  let x := s.slotJ slot
  let g := s.gal x.home
  let started := match tget s.journal.runs slot none with | some r => r.engines.isEmpty || latched g.tStart slot | none => true
  if !s.mayCommit slot ∨ !latched g.tAccept slot ∨ !started ∨ latched g.tCommit slot then .next s
  else .next (s.setGal x.home { g with tCommit := tset g.tCommit slot (s.engCycles x.home) })

/-- COMMAND_COMMIT (R373). A command without a run has no stated start instant: a free value (log entry 64). -/
def execCommandCommit (slot : Fin 8192) (s : State) : Out :=
  let x := s.slotJ slot
  let g := s.gal x.home
  if !s.mayCommit slot ∨ !latched g.tCommit slot then .next s
  else
    let start := tget g.tStart slot (s.free 0)
    let commit := tget g.tCommit slot 0
    match tget s.journal.runs slot none with
    | none => .next (s.commitSlot slot .ok 0 [] start commit).drawn
    | some r =>
      match r.fail with
      | some c => .next (s.commitSlot slot c 0 [] start commit).drawn
      | none =>
        let result : Word64 := match r.engines.head? with | some e => BitVec.ofNat 64 (fld (s.eng e).result.toNat 0 48) | none => 0
        .next (s.commitSlot slot (s.runStatus slot r) result ((tget (s.gal r.gallery).marks slot []).take 16) start commit).drawn

/-! ## Posting (R359, R367, R368, R373, R417) -/

/-- The completion ring takes an entry: EN, no failed posting write, and not the entry just before the host's head (R360). -/
def Cq.canPost (q : Cq) : Bool := q.en && !q.err && q.size != 0 && ringNext q.tail q.size != q.head % q.size

/-- A posting write failed at the host (R359, R384): a ring error of the function, recorded on its page and sent to its vector 0. Its code is
not stated: a free value (log entry 123). -/
def State.ringError (s : State) (p f : Nat) : State := ((s.refuse (.pciep p f) (Code.ofNum (s.free 1 % 256))).msixTo p f 0).drawn

/-- COMPLETION_POST (R368, R373): in its turn and with space, the position and WALL are recorded, the completion is written and read
back, and the vector is raised. -/
def execCompletionPost (slot : Fin 8192) (hostOk : Bool) (s : State) : Out :=
  let x := s.slotJ slot
  let at_ := s.servedAt x
  let p := at_.1
  let f := at_.2
  let sq := s.sqOf p f x.ring
  let held := s.workHeld slot || s.scanHolds (ctlOfPort p) || (s.journal.foBusy && s.journal.foFrom == p)
  if (x.st ≠ .committed ∧ x.st ≠ .posting) ∨ held ∨ sq.lostStop then .next s
  else
    let due := (sq.nextPost.map BitVec.toNat).getD x.seq
    if x.seq ≠ due then .next s
    else
      let q := s.cqOf p f x.cq
      if !q.canPost ∨ s.unserved p then .next s
      else
        let y := { x with st := .posting, phase := q.phase, idx := q.tail,
                          wall := if x.st = .posting then x.wall else (s.fn p f).wall }
        let s := s.putSlot slot y
        if !hostOk then .next ((s.putCq p f x.cq { q with err := true }).ringError p f)
        else
          let s := s.hostPut p f (q.base.toNat + 32 * q.tail) y.completion
          let s := s.putCq p f x.cq { q with tail := ringNext q.tail q.size, phase := q.phase ^^ (q.tail + 1 == q.size) }
          let s := s.putSq p f x.ring (sq.posted (BitVec.ofNat 64 x.seq))
          let s := (s.slotPosted slot).lostStop p f x.ring
          .next (if x.irq then s.msixTo p f q.iv else s)

/-! ## The restart scan (R375, R376, R381) -/

/-- A slot that the scan or a resolution finds, by its state (R375, R381): an ACCEPTED command that had been dispatched is dispatched again
(R374, R386); a COMMITTED one keeps its instants. A POSTED slot that an entry in acceptance had taken before the reset is the first to be reused again (R371). -/
def State.restartSlot (s : State) (n : Nat) (x : JSlot) : State :=
  let s := s.setSlotJ n x
  match x.st with
  | .accepted =>
    let t := (s.engCycles x.home + (2 ^ 64 - x.elapsed % 2 ^ 64)) % 2 ^ 64
    let overdue := x.budget != 0 && decide (x.budget < x.elapsed) && !x.late
    let y := { x with tAccept := t, late := x.late || overdue }
    let g := s.gal x.home
    let s := (s.setGal x.home { g with tAccept := tset g.tAccept n t }).putSlot n y
    let s := if x.disp = 0 then s else s.event .journal 6 1
    if overdue then s.lateRecord n else s
  | .committed =>
    let g := s.gal x.home
    x.marks.foldl (fun s m => s.applyMark x.tenant m) (s.setGal x.home { g with tAccept := tset g.tAccept n x.tAccept })
  | .posting =>
    let at_ := s.servedAt x
    let q := s.cqOf at_.1 at_.2 x.cq
    let s := s.hostPut at_.1 at_.2 (q.base.toNat + 32 * x.idx) x.completion
    let s := if q.tail = x.idx then
        s.putCq at_.1 at_.2 x.cq { q with tail := ringNext q.tail q.size, phase := q.phase ^^ (q.tail + 1 == q.size) } else s
    let sq := s.sqOf at_.1 at_.2 x.ring
    (s.putSq at_.1 at_.2 x.ring (sq.posted (BitVec.ofNat 64 x.seq))).slotPosted n
  | .posted =>
    let o := s.journal.postedOrder
    if o.contains n then s else { s with journal := { s.journal with postedOrder := n :: o } }
  | .free => s

/-- One slot of the scan (R375, R376, R428). -/
def State.scanSlot (s : State) (n : Nat) : State :=
  match s.readSlot n with
  | (s, .ok x) => s.restartSlot n x
  | (s, .differ o) => s.freezeItem n o
  | (s, .lost) => s.setSlotJ n {}

/-- A ring's registers come back from the ring table (R375). The layout of its entries is not stated: which byte of two that differ is the
first is a free value (R428, log entry 128). -/
def State.ringRestore (s : State) (i : Nat) : State :=
  let j := s.journal
  let p := i / 32 / 64
  let f := i / 32 % 64
  let a := tget j.ringA i .none
  if a ≠ tget j.ringB i .none then (s.freezeItem (8192 + i) (s.free 0)).drawn
  else
    match a with
    | .sq x => s.setFn p f { s.fn p f with sq := tset (s.fn p f).sq (i % 16) x }
    | .cq x => s.setFn p f { s.fn p f with cq := tset (s.fn p f).cq (i % 16) x }
    | .none => s

/-- JOURNAL_RESTART_SCAN (R375): after a reset that kept HBM, rings come back and every slot is read and acted on. -/
def execJournalRestartScan (s : State) : Out :=
  if !s.journal.restart ∨ !s.outOfReset then .next s
  else
    let s := (s.journal.ringA.map Prod.fst).foldl State.ringRestore s
    let s := (s.each 8192 State.scanSlot).lostStops
    .next { s with journal := { s.journal with restart := false } }

/-! ## JOURNAL registers (R370, R379, R385) -/

/-- The bases of R370: 2 MiB alignment, copy A on stacks 0-3, copy B on stacks 4-7. -/
def Journal.basesOk (j : Journal) : Bool :=
  let a := j.baseA.toNat
  let b := j.baseB.toNat
  a % 0x200000 == 0 && b % 0x200000 == 0 && decide (a + 0x400000 ≤ 2 ^ 38) && decide (2 ^ 38 ≤ b) && decide (b + 0x400000 ≤ 2 ^ 39)

/-- A write of JOURNAL.CTL (R370, R416): on EN the records in use are written to both bases. -/
def State.journalCtl (s : State) (v : Nat) : State :=
  let j := s.journal
  if bit v 0 && !j.en then
    if !j.basesOk then s.refuse .journal .badCommand
    else
      let s := { s with journal := { j with
        en := true, lostA := (s.hbmc (stackOf j.baseA.toNat)).failed, lostB := (s.hbmc (stackOf j.baseB.toNat)).failed } }
      (j.slots.filter fun p => p.2.st != .free).foldl (fun s p => s.putSlot p.1 p.2) s
  else { s with journal := { j with en := bit v 0 } }

/-- JOURNAL_ENABLE (R370). -/
def execJournalEnable (_port : Fin 2) (val : Word32) (s : State) : Out :=
  .next (s.gate .journal true fun s => s.journalCtl val.toNat)

/-- A write of JOURNAL.TAKEOVER by the PF of a port (R379). -/
def State.takeoverPut (s : State) (port v : Nat) : State :=
  let from_ := fld v 0 1
  if !bit v 31 then s
  else if s.journal.foBusy ∨ from_ = port ∨ s.pairedRings from_ = [] then s.refuse .journal .badCommand
  else s.takeover from_

/-- JOURNAL_TAKEOVER (R379). -/
def execJournalTakeover (port : Fin 2) (val : Word32) (s : State) : Out :=
  .next (s.gate .journal true fun s => s.takeoverPut port val.toNat)

/-- FAILOVER_TIMEOUT (R379): the port's link has been down for DOWN_MS. -/
def execFailoverTimeout (port : Fin 2) (s : State) : Out :=
  let p := s.port port
  if p.up ∨ p.downMs = 0 ∨ !p.downTimer ∨ s.journal.foBusy ∨ s.pairedRings port = [] then .next s
  else .next ((s.setPort port { p with downTimer := false }).takeover port)

/-- PCIE_LINK_DOWN (R379, R384): the time of DOWN_MS begins. -/
def execPcieLinkDown (port : Fin 2) (s : State) : Out :=
  let p := s.port port
  if !p.up then .next s else .next (s.setPort port { p with up := false, downTimer := true })

/-- A query (R385): the slot that holds the ring's SEQ. -/
def State.query (s : State) (v : Nat) : State :=
  let j := s.journal
  let want := j.slots.find? fun p =>
    p.2.st != .free && p.2.port == fld v 24 1 && p.2.fn == fld v 16 6 && p.2.ring == fld v 0 4 && p.2.seq == j.qseq.toNat
  let res :=
    match want with
    | some (_, x) => 2 ^ 63 ||| 2 ^ 62 ||| x.st.num <<< 56 ||| x.status.num <<< 48 ||| fld x.result.toNat 0 48
    | none => 2 ^ 63
  { s with journal := { j with qres := BitVec.ofNat 64 res } }

/-- A write of JOURNAL.QRING (R385). -/
def State.qringPut (s : State) (v : Nat) : State :=
  if fld v 25 6 ≠ 0 ∨ fld v 22 2 ≠ 0 ∨ fld v 4 12 ≠ 0 ∨ (bit v 31 ∧ s.journal.qbusy) then s.refuse .journal .badCommand
  else if bit v 31 then s.query v else s

/-- JOURNAL_QUERY (R385). -/
def execJournalQuery (val : Word32) (s : State) : Out := .next (s.gate .journal true fun s => s.qringPut val.toNat)

/-! ## Function level reset (R383) -/

/-- FLR (R383): fetching and posting of the function's rings stop and their registers reset, except NEXT; where each completion ring
stood is recorded. -/
def execFlr (port : Fin 2) (fn : Fin 64) (s : State) : Out :=
  .next ((s.each 16 fun s n =>
    let x := s.sqOf port fn n
    let q := s.cqOf port fn n
    let mark := match q.flr with | some v => some v | none => if q.size = 0 then none else some (q.base, q.size, q.tail, q.phase)
    let s := (s.stalePend port fn n).putSq port fn n
      { next := x.next, nextPost := x.nextPost, jumps := x.jumps, lostStop := x.lostStop, movedTo := x.movedTo }
    s.putCq port fn n { flr := mark }))

/-! ## Deadlines and aborts (R417, R425-R427) -/

/-- DEADLINE_EXPIRE (R426): the home gallery's counter has reached a + B + 1 and the command has not committed; one LATE record. -/
def execDeadlineExpire (slot : Fin 8192) (s : State) : Out :=
  let x := s.slotJ slot
  if x.st ≠ .accepted ∨ x.budget = 0 ∨ x.late ∨ !latched (s.gal x.home).tAccept slot ∨
      spanOfCounts x.tAccept (s.engCycles x.home) ≤ x.budget then .next s
  else .next ((s.putSlot slot { x with late := true }).lateRecord slot)

/-- The slot of a ring's SEQ by its bits [47:0] (R432). -/
def State.slotOfSeq (s : State) (p f n seq : Nat) : Option Nat :=
  (s.journal.slots.find? fun y =>
    y.2.st != .free && y.2.port == p && y.2.fn == f && y.2.ring == n && y.2.seq % 2 ^ 48 == seq).map Prod.fst

/-- A command for a lost slot (R417): it is committed with ABORTED and posted in its turn. Its completion ring, home and instants are not
known any more: free values. -/
def State.abortLost (s : State) (p f n : Nat) (seq : Word64) : Option State :=
  s.nextSlot.map fun m =>
    let cq := s.free 0 % 16
    let e : BitVec 512 := BitVec.ofNat 512 (seq.toNat <<< 64 ||| cq <<< 24)
    let s' := s.takeSlot m {} { refusal := .aborted, argsDpa := 0 }
    let s' := { s' with journal := { s'.journal with pend := tdel s'.journal.pend m } }
    let home := s.free 3 % 16
    let g := s'.gal home
    let s' := (s'.setGal home { g with tAccept := tset g.tAccept m (s.free 4) }).putSlot m
      { entry := e, st := .committed, status := .aborted, port := p, fn := f, ring := n, home := home, tAccept := s.free 4,
        tStart := s.free 1, tCommit := s.free 2 }
    ((s'.putSq p f n { s'.sqOf p f n with lostStop := false }).event .journal 3 1).drawn

/-- A write of MGMT.CMD_ABORT: its outcome (R427, R432). A command of a frozen context commits nothing, so its abort is refused
(R428; log entry 65). -/
def State.cmdAbort (s : State) (c : Ctl) (v : Nat) : State :=
  let p := fld v 62 1
  let f := fld v 56 6
  let n := fld v 52 4
  let seq := fld v 0 48
  let out (s : State) (k : Nat) : State := s.setMgmt c { s.mgmt c with abortSts := k }
  if !bit v 63 then s
  else if (s.mgmt c).abortBusy ∨ s.journal.foBusy ∨ s.geode.scan then s.refuse (.mgmt c) .badCommand
  else
    match s.slotOfSeq p f n seq with
    | some m =>
      if (s.slotJ m).st = .accepted then (if s.slotFrozen m then out s 4 else out (s.abortSlot m) 1) else out s 2
    | none =>
      let q := s.sqOf p f n
      match q.nextPost with
      | some w =>
        if q.lostStop ∧ w.toNat % 2 ^ 48 = seq then (match s.abortLost p f n w with | some s => out s 3 | none => out s 4)
        else out s 4
      | none => out s 4

/-- CMD_ABORT (R427). -/
def execCmdAbort (c : Ctl) (val : Word64) (s : State) : Out := .next (s.gate (.mgmt c) true fun s => s.cmdAbort c val.toNat)

/-! ## Items that disagree (R429) -/

/-- A frozen item is resolved: it is frozen no more, and its context resumes when no item of it remains frozen (R429). -/
def State.resolveItem (s : State) (port : Nat) (ring : Bool) (item : Nat) (f : State → Nat → State) : State :=
  let i := if ring then 8192 + item else item
  let j := s.journal
  if !j.frozen.contains i then s.refuse (.mgmt (ctlOfPort port)) .badCommand
  else
    let was := s.heldEngines
    let s := f s i
    let s := { s with journal := { s.journal with frozen := s.journal.frozen.filter fun k => k != i,
                                                  resolved := s.journal.resolved ++ [i] } }
    s.haltFrozen was

/-- The chosen copy is written over the other, and the item is handled by its state (R375, R429). -/
def State.keepCopy (s : State) (b : Bool) (i : Nat) : State :=
  let j := s.journal
  if i < 8192 then
    let bytes := s.bytes (j.copyDpa b i) 512
    let s := (s.devWrite 0 (j.copyDpa (!b) i) bytes).1
    let x := JSlot.ofBytes bytes
    let live := (s.slotJ i).st == .accepted && x.st == .accepted && !s.journal.restart
    if live then (s.setSlotJ i { x with tAccept := (s.slotJ i).tAccept }).event .journal 6 1 else s.restartSlot i x
  else
    let k := i - 8192
    let v := tget (if b then j.ringB else j.ringA) k .none
    (s.ringSave k v).ringRestore k

/-- RESOLVE_KEEP_A (R429). -/
def execResolveKeepA (port : Fin 2) (ring : Bool) (item : Fin 8192) (s : State) : Out :=
  .next (s.gate (.mgmt (ctlOfPort port)) true fun s => s.resolveItem port ring item fun s i => s.keepCopy false i)

/-- RESOLVE_KEEP_B (R429). -/
def execResolveKeepB (port : Fin 2) (ring : Bool) (item : Fin 8192) (s : State) : Out :=
  .next (s.gate (.mgmt (ctlOfPort port)) true fun s => s.resolveItem port ring item fun s i => s.keepCopy true i)

/-- A frozen item is discarded (R429): a slot's command is committed with ABORTED, or left alone if POSTED; a ring is disabled. -/
def State.discardItem (s : State) (i : Nat) : State :=
  if i < 8192 then
    match (s.slotJ i).st with
    | .posted | .free => s
    | _ => s.abortSlot i
  else
    let k := i - 8192
    let p := k / 32 / 64
    let f := k / 32 % 64
    if k % 32 < 16 then s.putSq p f (k % 16) { s.sqOf p f (k % 16) with en := false }
    else s.putCq p f (k % 16) { s.cqOf p f (k % 16) with en := false }

/-- RESOLVE_DISCARD (R429). -/
def execResolveDiscard (port : Fin 2) (ring : Bool) (item : Fin 8192) (s : State) : Out :=
  .next (s.gate (.mgmt (ctlOfPort port)) true fun s => s.resolveItem port ring item fun s i => s.discardItem i)

end Sys2Proof.Machine
end

