-- ==== Sys2Proof/Machine/Errors.lean ====
section
/-! DEFINITION. Engine failures and self-tests, the management controllers' heartbeats, their loss, and the ownership epoch
(R409-R413, R418, R430, R431, R480-R484). -/

namespace Sys2Proof.Machine

open Sys2Proof

/-! ## Engine failures (R410-R413) -/

/-- A gallery supervisor's record about one of its engines; the spec states no code for it: a free value (log entry 66). -/
def State.engineNote (s : State) (e : Nat) (cls : Cls) : State :=
  (s.sumpPut (e / 4)
    { code := (Code.ofNum (s.free 0 % 256)).byte, cls := BitVec.ofNat 8 cls.num, unit := 0, place := BitVec.ofNat 8 (e % 4),
      tenant := none, op := 0, slot := none, disp := 0, fpc := 0, detail0 := BitVec.ofNat 64 (s.free 1),
      detail1 := BitVec.ofNat 64 (s.free 2) }).drawn

/-- The record of a failed check (R411): class CORRECTED, code INTERNAL, the command's slot and dispatch count. The instruction and its
address are not stated: free values (log entry 66). -/
def State.checkRecord (s : State) (e : Nat) : State :=
  let x := s.eng e
  (s.sumpPut (e / 4)
    { code := Code.internal.byte, cls := 1, unit := 0, place := BitVec.ofNat 8 (e % 4),
      tenant := x.slot.map fun _ => Fin.ofNat 1024 x.tenant, op := BitVec.ofNat 8 (s.free 0), slot := x.slot.map (Fin.ofNat 8192),
      disp := match x.slot with | some n => BitVec.ofNat 16 (s.slotJ n).disp | none => 0, fpc := BitVec.ofNat 32 (s.free 1),
      detail0 := x.faultInfo, detail1 := BitVec.ofNat 64 (s.free 2) }).drawn

/-- Commands that ran on an engine, or whose context an engine saved (R411). -/
def State.failedSlots (s : State) (e : Nat) : List Nat :=
  ((s.eng e).slot.toList ++
    (s.gal (e / 4)).saved.filterMap fun p => if p.2.place = e % 4 then p.2.slot else none).eraseDups

/-- The engine fails again before 2^24 instructions since it returned (R412). -/
def Engine.failsAgain (x : Engine) : Bool :=
  match x.sinceTest with
  | some k => decide (k < 2 ^ 24)
  | none => false

/-- Bit j of a health field. -/
def placeBit (e : Nat) : BitVec 4 := BitVec.ofNat 4 (1 <<< (e % 4))

/-- An engine failure (R411, R412): one record; the engine is held in reset and tests itself, or is FAILED; the other engines of its
runs are reset, and their commands wait for their next dispatch. -/
def State.engineFail (s : State) (e : Nat) : State :=
  let x := s.eng e
  if x.inReset ∨ !s.blkOn (.engine e) then s
  else
    let slots := s.failedSlots e
    let s := (s.checkRecord e).resetUnit e
    let s := s.setEng e { s.eng e with inReset := true }
    let g := s.gal (e / 4)
    let s :=
      if x.failsAgain then (s.setGal (e / 4) { g with failed := g.failed ||| placeBit e }).engineNote e .degraded
      else s.setGal (e / 4) { g with testing := g.testing ||| placeBit e }
    slots.foldl State.redispatch s

/-- ENGINE_CHECK_FAIL (R410, R411). -/
def execEngineCheckFail (e : Fin 64) (s : State) : Out := .next (s.engineFail e)

/-- HANDSHAKE_TIMEOUT (R410): an engine failure. -/
def execHandshakeTimeout (e : Fin 64) (s : State) : Out := .next (s.engineFail e)

/-- ENGINE_SELFTEST_END (R412): back to service, or FAILED. -/
def execEngineSelftestEnd (e : Fin 64) (pass : Bool) (s : State) : Out :=
  let g := s.gal (e.val / 4)
  let b := placeBit e
  if !g.testing.getLsbD (e.val % 4) then .next s
  else if pass then
    .next (((s.setGal (e.val / 4) { g with testing := g.testing &&& ~~~b, failed := g.failed &&& ~~~b }).setEng e
      { s.eng e with inReset := false, sinceTest := some 0 }).engineNote e .corrected)
  else
    .next ((s.setGal (e.val / 4) { g with testing := g.testing &&& ~~~b, failed := g.failed ||| b }).engineNote e .degraded)

/-- ERR_CNT_THRESHOLD (R410, R413): single errors of the engine's memories were corrected, and ERR_CNT has risen by 4,096 or more within
2^30 cycles; how many more is free (log entry 127). One record. -/
def execErrCntThreshold (e : Fin 64) (s : State) : Out :=
  let due := (s.eng e).corrBase + 4096
  let c := (s.hdr (.engine e)).errCnt.toNat
  if !s.blkOn (.engine e) then .next s
  else
    let s := if c < due then (s.countErrs (.engine e) (due - c + s.free 0)).drawn else s
    .next ((s.setEng e { s.eng e with corrBase := (s.hdr (.engine e)).errCnt.toNat }).engineNote e .corrected)

/-- One bit of a write of ENG_RETEST (R412, R430, R431). -/
def State.retest (s : State) (g j : Nat) : State :=
  let x := s.gal g
  if !x.failed.getLsbD j ∨ x.testing.getLsbD j then s.refuse (.gallery g) .badCommand
  else (s.resetUnit (4 * g + j)).setGal g { s.gal g with testing := x.testing ||| placeBit j }

/-- A write of ENG_RETEST (R431). -/
def State.engRetestPut (s : State) (g v : Nat) : State := s.each 4 fun s j => if bit v j then s.retest g j else s

/-- ENG_RETEST (R412). -/
def execEngRetest (g : Fin 16) (val : Word32) (s : State) : Out := .next (s.inner (.gallery g) fun s => s.engRetestPut g val.toNat)

/-! ## The ownership epoch (R480-R484) -/

/-- The caverns of a controller's half. -/
def cavernsOf : Ctl → List Nat
  | .W => [0, 1]
  | .E => [2, 3]

/-- The Geode grants the next epoch to a controller (R480). The other one, unless it is lost, mirrors it. -/
def State.grant (s : State) (c : Ctl) : State :=
  let ep := s.geode.epoch + 1
  let s := { s with geode := { s.geode with epoch := ep, holder := some c, claimW := none, claimE := none } }
  let s := s.setMgmt c { s.mgmt c with role := if s.geode.frozen then .frozen else .holder, epoch := ep }
  let o := s.mgmt (Ctl.other c)
  if o.lost ∨ o.reloading then s else s.setMgmt (Ctl.other c) { o with role := if s.geode.frozen then .frozen else .mirror, epoch := ep }

/-- A controller demotes itself to MIRROR and reloads the device-wide state; a CORRECTED record is raised (R482). Its code is not
stated: a free value (log entry 67). -/
def State.demote (s : State) (c : Ctl) : State :=
  let s := s.setMgmt c { s.mgmt c with role := .mirror, reloading := true }
  (s.logErr { (Page.mgmt c).errRec .corrected (Code.ofNum (s.free 0 % 256)) with
    d0 := BitVec.ofNat 64 (s.free 1), d1 := BitVec.ofNat 64 (s.free 2) }).drawn

/-- Management freezes (R483): one DIVERGENCE record with the epoch in DETAIL0 and zero in DETAIL1. -/
def State.freezeMgmt (s : State) : State :=
  let s := { s with geode := { s.geode with frozen := true }, mgmtW := { s.mgmtW with role := .frozen },
                    mgmtE := { s.mgmtE with role := .frozen } }
  s.logErr { Page.geode.errRec .divergence .divergence with d0 := s.geode.epoch }

/-- The claim of holdership that the Geode last saw from a controller. -/
def Geode.claim (g : Geode) : Ctl → Option Word64
  | .W => g.claimW
  | .E => g.claimE

def Geode.setClaim (g : Geode) (c : Ctl) (v : Option Word64) : Geode :=
  match c with
  | .W => { g with claimW := v }
  | .E => { g with claimE := v }

/-- A claim of holdership (R482): below the current epoch it is refused; two at one epoch freeze management. -/
def State.claimCheck (s : State) (c : Ctl) (epoch : Word64) : State :=
  if epoch.toNat < s.geode.epoch.toNat then s.demote c
  else if s.geode.frozen then s
  else
    let s := { s with geode := s.geode.setClaim c (some epoch) }
    if s.geode.claim (Ctl.other c) = some epoch then s.freezeMgmt else s

/-- The first heartbeats after a cold reset: epoch 1 goes to W when both have reported (R480). -/
def State.bootBeat (s : State) (c : Ctl) : State :=
  let s := s.setMgmt c { s.mgmt c with beat := true }
  if s.mgmtW.beat && s.mgmtE.beat then { s.grant .W with geode := { (s.grant .W).geode with bootWait := false } } else s

/-- HEARTBEAT (R418, R480, R482). -/
def execHeartbeat (c : Ctl) (epoch : Word64) (holds : Bool) (s : State) : Out :=
  if !s.outOfReset then .next s
  else if s.geode.bootWait then .next (s.bootBeat c)
  else
    let s := s.setMgmt c { s.mgmt c with beat := true }
    .next (if holds then s.claimCheck c epoch else s)

/-! ## A lost controller (R418) -/

/-- The survivor serves the lost half's cavern managers through their secondary ports (R418, R488). -/
def State.takeCaverns (s : State) (lost : Ctl) : State :=
  let cs := cavernsOf lost
  let s := cs.foldl (fun s c => s.setCavern c { s.cavern c with primaryUp := false, secondary := true }) s
  let o := Ctl.other lost
  s.setMgmt o { s.mgmt o with secondary := (s.mgmt o).secondary ||| BitVec.ofNat 4 ((cs.map fun c => 1 <<< c).sum) }

/-- A controller that has reloaded serves its own half again. -/
def State.returnCaverns (s : State) (c : Ctl) : State :=
  let cs := cavernsOf c
  let s := cs.foldl (fun s c => s.setCavern c { s.cavern c with primaryUp := true, secondary := false }) s
  let o := Ctl.other c
  s.setMgmt o { s.mgmt o with secondary := (s.mgmt o).secondary &&& ~~~(BitVec.ofNat 4 ((cs.map fun c => 1 <<< c).sum)) }

/-- The Geode declares a controller lost (R418): a DEGRADED record; the survivor holds the epoch, takes the caverns and starts its
scan. With no survivor nobody holds the epoch (log entry 68). -/
def State.controllerLost (s : State) (c : Ctl) : State :=
  let o := Ctl.other c
  if (s.mgmt c).lost ∨ s.geode.bootWait ∨ !s.outOfReset then s
  else
    let s := s.setMgmt c { s.mgmt c with lost := true, beat := false, reloading := false }
    if (s.mgmt o).lost then { s with geode := { s.geode with holder := none } }
    else
      let s := (s.logErr { (Page.mgmt c).errRec .degraded (Code.ofNum (s.free 0 % 256)) with
        d0 := BitVec.ofNat 64 (s.free 1), d1 := BitVec.ofNat 64 (s.free 2) }).drawn
      let s := s.takeCaverns c
      let s := if s.geode.holder = some o then s else s.grant o
      { s with geode := { s.geode with scan := true } }

/-- CONTROLLER_LOST (R418): ten missed heartbeats. -/
def execControllerLost (c : Ctl) (s : State) : Out := .next (s.controllerLost c)

/-- CONTROLLER_FAULT_REPORT (R418): a controller reports a fault in itself. -/
def execControllerFaultReport (c : Ctl) (s : State) : Out := .next (s.controllerLost c)

/-- MIRROR_RELOAD_COMPLETE (R482): the demoted controller mirrors the holder and serves its own half again, once a takeover scan of
that half has ended. -/
def execMirrorReloadComplete (c : Ctl) (s : State) : Out :=
  let m := s.mgmt c
  if !m.reloading ∨ s.scanHolds c then .next s
  else
    let s := s.setMgmt c { m with role := if s.geode.frozen then .frozen else .mirror, reloading := false, lost := false,
                                  beat := true, epoch := s.geode.epoch }
    .next (if m.lost then s.returnCaverns c else s)

/-- A write of EPOCH_RESOLVE (R483, R484): with GO in a freeze, the controller that KEEP names gets the next epoch and the other one
demotes itself. -/
def State.epochResolvePut (s : State) (v : Nat) : State :=
  if !bit v 31 then s
  else if !s.geode.frozen then s.refuse .dev .badCommand
  else
    let c : Ctl := if bit v 0 then .E else .W
    let s := { s with geode := { s.geode with frozen := false } }
    (s.demote (Ctl.other c)).grant c

/-- EPOCH_RESOLVE (R484). -/
def execEpochResolve (val : Word32) (s : State) : Out := .next (s.epochResolvePut val.toNat)

end Sys2Proof.Machine
end

