-- ==== Sys2Proof/Machine/LieOps.lean ====
section
/-! DEFINITION. The long-integer engine: its arithmetic on any operands, its checks, its compute cycles, GO, ABORT and completion
(R450-R454). -/

namespace Sys2Proof.Machine

open Sys2Proof

/-! ## P-384 (R450): the curve's constants are those of NIST SP 800-186 (PRESUMED, log entry 69) -/

def p384P : Nat := 2 ^ 384 - 2 ^ 128 - 2 ^ 96 + 2 ^ 32 - 1
def p384B : Nat := 0xb3312fa7e23ee7e4988e056be3f82d19181d9c6efe8141120314088f5013875ac656398d8a2ed19d2a85c8edd3ec2aef
def p384N : Nat := 0xffffffffffffffffffffffffffffffffffffffffffffffffc7634d81f4372ddf581a0db248b0a77aecec196accc52973
def p384Gx : Nat := 0xaa87ca22be8b05378eb1c71ef320ad746e1d3b628ba79b9859f741e082542a385502f25dbf55296c3a545e3872760ab7
def p384Gy : Nat := 0x3617de4a96262c6f5d9e98bf9292dc29f8f41dbd289a147ce9da3113b5f0b8c00a60b1ce1d7e819d7a431d7c90ea0e5f

/-- Product, sum and difference modulo p. -/
def fm (a b : Nat) : Nat := a * b % p384P
def fa (a b : Nat) : Nat := (a + b) % p384P
def fs (a b : Nat) : Nat := (a + (p384P - b % p384P)) % p384P

/-- A point in Jacobian coordinates: (X / Z², Y / Z³); Z = 0 is infinity. -/
structure Jac where
  x : Nat
  y : Nat
  z : Nat
  deriving DecidableEq, Repr

/-- Twice a point of y² = x³ − 3x + b. -/
def Jac.dbl (a : Jac) : Jac :=
  let d := fm a.z a.z
  let g := fm a.y a.y
  let be := fm a.x g
  let al := fm 3 (fm (fs a.x d) (fa a.x d))
  let x := fs (fm al al) (fm 8 be)
  { x := x, y := fs (fm al (fs (fm 4 be) x)) (fm 8 (fm g g)), z := fm 2 (fm a.y a.z) }

/-- The sum of two points. -/
def Jac.add (a b : Jac) : Jac :=
  if a.z = 0 then b
  else if b.z = 0 then a
  else
    let z1 := fm a.z a.z
    let z2 := fm b.z b.z
    let u := fm a.x z2
    let s := fm a.y (fm b.z z2)
    let h := fs (fm b.x z1) u
    let r := fs (fm b.y (fm a.z z1)) s
    if h = 0 then (if r = 0 then a.dbl else { x := 1, y := 1, z := 0 })
    else
      let hh := fm h h
      let v := fm u hh
      let hhh := fm h hh
      let x := fs (fs (fm r r) hhh) (fm 2 v)
      { x := x, y := fs (fm r (fs v x)) (fm s hhh), z := fm (fm a.z b.z) h }

/-- k · P by the low `n` bits of k, the most significant first. -/
def Jac.mul (p : Jac) (k : Nat) : Nat → Jac → Jac
  | 0, acc => acc
  | n + 1, acc => Jac.mul p k n (if bit k n then acc.dbl.add p else acc.dbl)

/-- ECMUL (R450, R451): a · (x, y), or none where an operand fails a check or the result is infinity. -/
def ecMul (a x y : Nat) : Option (Nat × Nat) :=
  if a = 0 ∨ p384N ≤ a ∨ p384P ≤ x ∨ p384P ≤ y ∨ fm y y ≠ fa (fs (fm x (fm x x)) (fm 3 x)) p384B then none
  else
    let r := Jac.mul { x := x, y := y, z := 1 } a 384 { x := 1, y := 1, z := 0 }
    if r.z = 0 then none
    else
      let zi := powModBits 384 r.z (p384P - 2) p384P
      let zz := fm zi zi
      some (fm r.x zz, fm r.y (fm zz zi))

/-! ## Operations on words (R450-R452) -/

/-- The number that little-endian words spell. -/
def ofWords (l : List Word64) : Nat := l.foldr (fun x acc => x.toNat + 2 ^ 64 * acc) 0

/-- The n-word form of a number. -/
def toWords (n v : Nat) : List Word64 := (List.range n).map fun i => BitVec.ofNat 64 (v >>> (64 * i))

/-- The value of the first n words. -/
def valOf (n : Nat) (l : List Word64) : Nat := ofWords (l.take n)

/-- M of R451: odd, not 1, its most significant word not zero. -/
def modulusOk (nw m : Nat) : Bool := m % 2 == 1 && m != 1 && decide (2 ^ (64 * (nw - 1)) ≤ m)

/-- MODMUL's value (R450), or none where an operand fails its check (R451). -/
def lieModMul (nw a b m : Nat) : Option Nat := if modulusOk nw m ∧ a < m ∧ b < m then some (a * b % m) else none

/-- MODEXP's value (R450, R452: all 64 · EW exponent bits), or none where an operand fails its check (R451). -/
def lieModExp (nw ew a b m : Nat) : Option Nat :=
  if modulusOk nw m ∧ a < m then some (powModBits (64 * ew) a b m) else none

/-- M(k) of R452. -/
def lieM (k : Nat) : Nat := (k * k + 1) / 2 + 4 * k + 16

/-- Compute cycles (R452). -/
def lieCycles (op : LieOp) (nw ew : Nat) : Nat :=
  match op with
  | .modmul => 3 * lieM nw + 528
  | .modexp => (128 * ew + 4) * lieM nw + 512
  | .ecmul => 10112 * lieM 6 + 512

/-- OPC of R450. -/
def LieOp.num : LieOp → Nat
  | .modmul => 1 | .modexp => 2 | .ecmul => 3

/-- The registers describe the operation (R451): no reserved bit, lengths in range, none for ECMUL. -/
def Lie.argsOk (x : Lie) (op : LieOp) : Bool :=
  let nw := fld x.len.toNat 0 9
  let ew := fld x.len.toNat 16 9
  fld x.op.toNat 8 24 == 0 && fld x.len.toNat 9 7 == 0 && fld x.len.toNat 25 7 == 0 &&
    match op with
    | .modmul => decide (1 ≤ nw) && decide (nw ≤ 256)
    | .modexp => decide (1 ≤ nw) && decide (nw ≤ 256) && decide (1 ≤ ew) && decide (ew ≤ 256)
    | .ecmul => x.len == 0

/-- The outcome of an operation: its code and the words that it writes (R451, R452). -/
def lieOut (n : Nat) (v : Option Nat) : Code × List Word64 :=
  match v with
  | some v => (.ok, toWords n v)
  | none => (.lieFail, toWords n 0)

/-! ## GO, ABORT, completion (R451-R453) -/

/-- GO (R450, R451): a register fault is refused and nothing is fetched; `words` are the operands fetched, none where the host failed a
read, which ends in ABORTED without compute. -/
def State.lieGo (s : State) (port : Nat) (op : LieOp) (words : Option (List Word64)) (res : Nat → Nat → List Word64 → Option Nat) :
    State :=
  let x := s.lie
  let nw := fld x.len.toNat 0 9
  let ew := fld x.len.toNat 16 9
  if x.busy ∨ x.geode ∨ !x.argsOk op then s.refuse .lie .badCommand
  else
    let n := if op = .ecmul then 12 else nw
    match words with
    | none => { s with lie := { x with busy := true, owner := port, out := some (.aborted, [], x.cycles) } }
    | some w =>
      let r := lieOut n (res nw ew w)
      { s with lie := { x with busy := true, owner := port, out := some (r.1, r.2, lieCycles op nw ew), work := w } }

/-- The operands of a GO: none when the host failed a read of any of them. -/
def join3 (a b m : Option (List Word64)) : Option (List Word64 × List Word64 × List Word64) :=
  match a, b, m with
  | some a, some b, some m => some (a, b, m)
  | _, _, _ => none

/-- A GO whose register OP names another operation is not this command. -/
def State.lieStart (s : State) (op : LieOp) (k : State → State) : State :=
  if fld s.lie.op.toNat 0 8 = op.num then s.gate .lie true k else s

/-- A GO of MODMUL with the operands fetched (R450). -/
def State.goModmul (s : State) (port : Nat) (a b m : Option (List Word64)) : State :=
  s.lieGo port .modmul ((join3 a b m).map fun v => v.1 ++ v.2.1 ++ v.2.2) fun nw _ _ =>
    match join3 a b m with
    | some v => lieModMul nw (valOf nw v.1) (valOf nw v.2.1) (valOf nw v.2.2)
    | none => none

/-- A GO of MODEXP with the operands fetched (R450). -/
def State.goModexp (s : State) (port : Nat) (a b m : Option (List Word64)) : State :=
  s.lieGo port .modexp ((join3 a b m).map fun v => v.1 ++ v.2.1 ++ v.2.2) fun nw ew _ =>
    match join3 a b m with
    | some v => lieModExp nw ew (valOf nw v.1) (valOf ew v.2.1) (valOf nw v.2.2)
    | none => none

/-- A GO of ECMUL with the operands fetched (R450): the result is X ‖ Y. -/
def State.goEcmul (s : State) (port : Nat) (a b : Option (List Word64)) : State :=
  s.lieGo port .ecmul ((join3 a b (some [])).map fun v => v.1 ++ v.2.1) fun _ _ _ =>
    match join3 a b (some []) with
    | some v => (ecMul (valOf 6 v.1) (valOf 6 v.2.1) (valOf 6 (v.2.1.drop 6))).map fun r => r.1 + 2 ^ 384 * r.2
    | none => none

/-- MODMUL (R450). -/
def execModmul (port : Fin 2) (a b m : Option (List Word64)) (s : State) : Out :=
  .next (s.lieStart .modmul fun s => s.goModmul port a b m)

/-- MODEXP (R450). -/
def execModexp (port : Fin 2) (a b m : Option (List Word64)) (s : State) : Out :=
  .next (s.lieStart .modexp fun s => s.goModexp port a b m)

/-- ECMUL (R450). -/
def execEcmul (port : Fin 2) (a b : Option (List Word64)) (s : State) : Out :=
  .next (s.lieStart .ecmul fun s => s.goEcmul port a b)

/-- A GO whose operands lie in host memory, which this model does not hold: they are free values (log entry 83). -/
def State.goFree (s : State) (port : Nat) : State :=
  let x := s.lie
  let nw := fld x.len.toNat 0 9
  let ew := fld x.len.toNat 16 9
  let w (k n : Nat) : Option (List Word64) := some ((List.range n).map fun i => BitVec.ofNat 64 (s.free (k + i)))
  match fld x.op.toNat 0 8 with
  | 1 => (s.goModmul port (w 0 nw) (w nw nw) (w (2 * nw) nw)).drawn
  | 2 => (s.goModexp port (w 0 nw) (w nw ew) (w (nw + ew) nw)).drawn
  | 3 => (s.goEcmul port (w 0 6) (w 6 12)).drawn
  | _ => s.refuse .lie .badCommand

/-- A completion (R451, R453): working memory is zero, CODE is set and DONE is raised. -/
def State.lieDone (s : State) (code : Code) (cycles : Nat) : State :=
  ({ s with lie := { s.lie with busy := false, code := code.byte, cycles := cycles, out := none, work := [] } }).raise .lie 0

/-- A write of CTL.ABORT (R453): ignored while the engine is idle or runs a Geode operation. How many result bytes were already written is
free, and they are undefined: free values. -/
def State.lieAbortPut (s : State) : State :=
  let x := s.lie
  if !x.busy ∨ x.geode then s
  else
    let n := 8 * (match x.out with | some (_, w, _) => w.length | none => 0)
    let k := s.free 0 % (n + 1)
    let s := if k = 0 then s else s.hostPut x.owner 0 x.rAddr.toNat ((s.freeBytes (k + 1)).drop 1)
    s.drawn.lieDone .aborted x.cycles

/-- LIE_ABORT (R453). -/
def execLieAbort (s : State) : Out := .next (s.gate .lie true State.lieAbortPut)

/-- LIE_COMPLETE (R451, R452): the result is written at R_ADDR; a write that the host fails completes with ABORTED. -/
def execLieComplete (hostOk : Bool) (s : State) : Out :=
  let x := s.lie
  match x.out with
  | none => .next s
  | some (code, w, cycles) =>
    if !x.busy ∨ x.geode ∨ !s.blkOn .lie then .next s
    else if code = .aborted then .next (s.lieDone .aborted cycles)
    else if !hostOk then .next (s.lieDone .aborted cycles)
    else .next ((s.hostPut x.owner 0 x.rAddr.toNat ((w.map fun v => leBytes 8 v.toNat).flatten)).lieDone code cycles)

/-- An operation of the Geode has run (R453): it raises no host interrupt. -/
def State.lieGeode (s : State) (op : LieOp) (nw ew : Nat) (ok : Bool) : State :=
  { s with lie := { s.lie with code := (if ok then Code.ok else Code.lieFail).byte, cycles := lieCycles op nw ew } }

end Sys2Proof.Machine
end

