-- ==== Sys2Proof/Machine/GeodeOps.lean ====
section
/-! DEFINITION. The Geode's requests over its mailboxes and the sideband: certificates, reports, sessions, contexts, rollback, flash,
owner, debug unlock; the DOE mailbox (R355, R433-R461, R481, R483, R485, R486). -/

namespace Sys2Proof.Machine

open Sys2Proof

/-! ## Mailboxes and responses (R442, R485, R486) -/

def State.mbox (s : State) (p : Nat) : Mbox := tget s.geode.mbox p {}
def State.setMbox (s : State) (p : Nat) (m : Mbox) : State :=
  { s with geode := { s.geode with mbox := tset s.geode.mbox p m } }

/-- A response (R442): the 16-byte header and the payload. -/
def respBytes (mver : Byte) (opc : Nat) (code : Code) (tag : Word64) (payload : Bytes) : Bytes :=
  [mver, BitVec.ofNat 8 opc, code.byte, 0] ++ leBytes 4 payload.length ++ leBytes 8 tag.toNat ++ payload

/-- A response over the sideband (R486): a vendor defined message of the PCI vendor ID. -/
def sidebandMsg (b : Bytes) : Bytes :=
  [0x7E, BitVec.ofNat 8 (Config.pciVendorId.toNat / 256), BitVec.ofNat 8 Config.pciVendorId.toNat] ++ b

/-- A response is written at RSP_ADDR, STS is set and the mailbox's interrupt is raised; one larger than RSP_MAX becomes a header-only
response with BAD_COMMAND (R442). Over the sideband it is sent (R486). -/
def State.respond (s : State) (r : MReq) (mver : Byte) (opc : Nat) (code : Code) (payload : Bytes) : State :=
  let full := respBytes mver opc code r.tag payload
  match r.via with
  | .sideband => { s with sideband := sidebandMsg full, geode := { s.geode with sbBusy := false } }
  | .mbox p =>
    let m := s.mbox p
    let big := decide (m.rspMax.toNat < full.length)
    let out := if big then respBytes mver opc .badCommand r.tag [] else full
    ((s.hostPut p 0 m.rspAddr.toNat out).setMbox p
      { m with busy := false, code := (if big then Code.badCommand else code).byte, rspLen := out.length }).raise .geode p

/-- A response with a code and no payload. -/
def State.answer (s : State) (r : MReq) (opc : Nat) (code : Code) : State := s.respond r r.mver opc code []

/-- The Geode runs: its standby rails are up; in BOARD_TEST it serves nothing (R455, R486, R493; log entry 71). -/
def State.geodeUp (s : State) : Bool := s.pins.standby && !s.geode.boardTest

/-- A port's functions answer: the islands run and its link is up. -/
def State.portServes (s : State) (p : Nat) : Bool := s.outOfReset && (s.port p).up && !(s.port p).perst

/-- What a request meets before its own meaning: a mailbox or sideband that is busy, its length, the sideband's opcodes, its version,
an unlock, a freeze (R442, R443, R457, R483, R485, R486). -/
def State.request (s : State) (r : MReq) (opc : Nat) (side recov : Bool) (k : State → State) : State :=
  let common (s : State) : State :=
    if r.mver ≠ 1 then s.respond r 1 opc .version [0x02, 0, 0, 0]
    else if s.geode.unlock.isSome then s.answer r opc .aborted
    else if s.geode.frozen ∧ 2 < opc then s.answer r opc .divergence
    else k s
  if !s.geodeUp then s
  else
    match r.via with
    | .mbox p =>
      if !s.portServes p then s
      else if (s.mbox p).busy then
        let s := s.answer r opc .badCommand
        s.setMbox p { s.mbox p with busy := true }
      else if 65536 < (s.mbox p).reqLen.toNat ∨ 65536 < 16 + r.payload.length then s.answer r opc .badCommand
      else common s
    | .sideband =>
      if s.geode.sbBusy then { s with sideband := sidebandMsg (respBytes r.mver opc .queueWouldBlock r.tag []) }
      else if !side ∨ (s.geode.recovery ∧ !recov) then s.answer r opc .badCommand
      else common s

/-- Part of a payload as a number. -/
def pnum (r : MReq) (o n : Nat) : Nat := ofLe ((r.payload.drop o).take n)
/-- Part of a payload. -/
def ppart (r : MReq) (o n : Nat) : Bytes := (r.payload.drop o).take n

/-! ## Identity, certificates, reports (R434, R435, R440, R441) -/

/-- The identity public key. -/
def State.identKey (s : State) : Bytes := Config.mlDsaPublic s.identSeed

/-- IDENT_FP (R434, R461): zero in BOARD_TEST. -/
def State.identFp (s : State) : Word64 := if s.geode.boardTest then 0 else fp64 s.identKey

/-- GET_CERTS (R441, R443). -/
def execGetCerts (r : MReq) (s : State) : Out :=
  .next (s.request r 0x01 true true fun s =>
    if r.payload ≠ [] then s.answer r 0x01 .badCommand
    else s.respond r 1 0x01 .ok (s.identKey ++ Config.certChain))

/-- The report's bytes before its signature (R441). -/
def State.report (s : State) (nonce : Bytes) (tenant : Option Nat) : Bytes :=
  let g := s.geode
  ([0x01, if tenant.isSome then 0x02 else 0x01] : Bytes) ++
    leBytes 2 (b2n g.debug ||| b2n g.fallback <<< 1 ||| b2n g.imageB <<< 2 ||| b2n g.boardTest <<< 3) ++
    leBytes 2 (match s.dev.ownId with | some d => 2 ^ 15 + d | none => fld s.dev.devId.toNat 0 12) ++
    leBytes 2 (match tenant with | some t => 2 ^ 15 + t | none => 0) ++ leBytes 8 s.identFp.toNat ++ nonce ++ s.fm ++
    g.digests.getD Config.bootDigests ++ ((List.range 16).map fun i => BitVec.ofNat 8 (tget g.arb i 0)) ++
    (match tenant with | some t => (let c := s.ctx t; if c.t = [] then zeros 64 else c.t) | none => zeros 64)

/-- ATTEST (R441, R443): over the sideband a device report only. -/
def execAttest (r : MReq) (s : State) : Out :=
  .next (s.request r 0x02 true true fun s =>
    let t := pnum r 32 2
    let tenant := if bit t 15 then some (fld t 0 10) else none
    if r.payload.length ≠ 34 ∨ fld t 10 5 ≠ 0 ∨ (r.via = .sideband ∧ tenant.isSome) then s.answer r 0x02 .badCommand
    else
      let body := s.report (ppart r 0 32) tenant
      match s.identSign (sha3_512 body) with
      | (s, sig) => s.respond r 1 0x02 .ok (body ++ sig))

/-! ## Sessions (R445-R448) -/

/-- PT_ROOT is a table of R277 (R444). -/
def ptRootOk (v : Nat) : Bool := v % 4096 == 0 && inHbm v 4096

/-- Open sessions (R445). -/
def State.sessions (s : State) : Nat := (s.geode.ctx.filter fun p => p.2.ses.isSome).length

/-- A number from big-endian bytes, and its form in n bytes. -/
def ofBe (b : Bytes) : Nat := ofLe b.reverse
def beBytes (n v : Nat) : Bytes := (leBytes n v).reverse

/-- A point in SEC 1 uncompressed form. -/
def sec1 (p : Nat × Nat) : Bytes := 0x04 :: (beBytes 48 p.1 ++ beBytes 48 p.2)

/-- ASCII bytes. -/
def ascii (t : String) : Bytes := t.toList.map fun c => BitVec.ofNat 8 c.toNat

/-- The fields of an OPEN are in form (R9, R444, R445). -/
def openOk (r : MReq) : Bool :=
  r.payload.length == 568 && decide (pnum r 0 2 < 1024) && decide (pnum r 2 1 < 2) && zeroAt r.payload 3 5 && ptRootOk (pnum r 8 8) &&
    (bit (pnum r 2 1) 0 || zeroAt r.payload 0x38 512)

/-- OPEN_RSP up to its signature (R445). -/
def openRsp (tenant sid : Nat) (identFp ownerFp : Word64) (cnonce gnonce fm ek : Bytes) (q : Nat × Nat) : Bytes :=
  leBytes 2 tenant ++ leBytes 2 sid ++ zeros 4 ++ leBytes 8 identFp.toNat ++ leBytes 8 ownerFp.toNat ++ cnonce ++ gnonce ++ fm ++ ek ++
    sec1 q ++ zeros 7

/-- The Geode opens a session (R445). -/
def State.openSession (s : State) (r : MReq) : State :=
  let t := pnum r 0 2
  let owner := bit (pnum r 2 1) 0
  let n := if owner then ppart r 0x38 512 else []
  let ownerFp := if owner then fp64 n else 0
  match s.geodeDraw 64 with
  | (s, seed) =>
    match s.geodeDraw 48 with
    | (s, db) =>
      match s.geodeDraw 32 with
      | (s, gnonce) =>
        let kem := Config.mlKemKeyGen seed
        let d := ofBe db % (p384N - 1) + 1
        let q := (ecMul d p384Gx p384Gy).getD (0, 0)
        let s := s.lieGeode .ecmul 0 0 true
        let c := s.ctx t
        let sid := (c.sid + 1) % 2 ^ 16
        let body := openRsp t sid s.identFp ownerFp (ppart r 0x18 32) gnonce s.fm kem.1 q
        let ses : Session := { sid := sid, ptRoot := BitVec.ofNat 64 (pnum r 8 8), rseed := BitVec.ofNat 64 (pnum r 0x10 8),
                               owner := owner, ownerN := n, openRsp := body, dk := kem.2, dg := d }
        match (s.setCtx t { c with sid := sid, ses := some ses }).identSign (sha3_512 body) with
        | (s, sig) => s.respond r 1 0x10 .ok (body ++ sig)

/-- SESSION_OPEN (R445): it waits while a host operation holds the long-integer engine (R453). -/
def execSessionOpen (r : MReq) (s : State) : Out :=
  .next (s.request r 0x10 false false fun s =>
    let c := s.ctx (pnum r 0 2)
    if !openOk r ∨ c.st ≠ .free then s.answer r 0x10 .badCommand
    else if c.ses.isNone ∧ 32 ≤ s.sessions then s.answer r 0x10 .queueWouldBlock
    else if s.lie.busy then s
    else s.openSession r)

/-- What FINISH derives and opens (R447, R448): CS and CONF, or none on any failure. -/
def finishOpen (ses : Session) (p : Bytes) : Option (Bytes × Bytes × Bytes) :=
  let part (o n : Nat) : Bytes := (p.drop o).take n
  let aad := p.take 0x690
  let t := sha3_512 (ses.openRsp ++ aad)
  let q := part 0x628 97
  if q.take 1 ≠ [0x04] then none
  else
    match ecMul ses.dg (ofBe ((q.drop 1).take 48)) (ofBe (q.drop 49)) with
    | none => none
    | some e =>
      if ses.owner ∧ !Config.rsaPssVerify ses.ownerN t (part 0x6D0 512) then none
      else
        let k := shake256 (ascii "KYTSESS1" ++ Config.mlKemDecaps ses.dk (part 0x008 1568) ++ beBytes 48 e.1 ++ t) 32
        (Config.aesGcmOpen k (part 0x690 12) aad (part 0x69C 32) (part 0x6BC 16)).map fun cs =>
          (cs, shake256 (ascii "KYTCONF1" ++ k ++ t) 16, t)

/-- The noise key of a context (R230). -/
def noiseKey (cs : Bytes) (tenant : Nat) : Bytes := shake256 (ascii "KYTNOISE" ++ cs ++ leBytes 2 tenant) 32

/-- The operations on the long-integer engine that a FINISH runs, in order (R448, R451): d_G · Q_C, then OSIG to the power 65,537. -/
def State.finishLie (s : State) (ses : Session) (p : Bytes) : State :=
  let part (o n : Nat) : Nat := ofBe ((p.drop o).take n)
  let point := (ecMul ses.dg (part 0x629 48) (part 0x659 48)).isSome
  let s := s.lieGeode .ecmul 0 0 point
  if point ∧ ses.owner then
    s.lieGeode .modexp 64 1 (lieModExp 64 1 (part 0x6D0 512) 65537 (ofBe ses.ownerN)).isSome
  else s

/-- SESSION_FINISH (R446-R448, R460): it waits for the long-integer engine and for a holder of the epoch. -/
def execSessionFinish (r : MReq) (s : State) : Out :=
  .next (s.request r 0x11 false false fun s =>
    let t := pnum r 0 2
    let c := s.ctx t
    if r.payload.length ≠ 2256 ∨ 1024 ≤ t ∨ !zeroAt r.payload 4 4 ∨ !zeroAt r.payload 0x689 7 ∨ !zeroAt r.payload 0x6CC 4 then
      s.answer r 0x11 .badCommand
    else
      match c.ses with
      | none => s.answer r 0x11 .badCommand
      | some ses =>
        if ses.sid ≠ pnum r 2 2 ∨ (!ses.owner ∧ !zeroAt r.payload 0x6D0 512) then s.answer r 0x11 .badCommand
        else if s.lie.busy ∨ s.geode.holder.isNone then s
        else
          match finishOpen ses r.payload with
          | none => ((s.setCtx t { c with ses := none }).finishLie ses r.payload).answer r 0x11 .permission
          | some v =>
            let fresh : Ctx := { c with
              st := .live, ptRoot := ses.ptRoot, rseed := ses.rseed, ownerFp := if ses.owner then fp64 ses.ownerN else 0,
              t := v.2.2, cs := v.1, nk := noiseKey v.1 t, ses := none }
            ((s.setCtx t fresh).finishLie ses r.payload).respond r 1 0x11 .ok (leBytes 2 t ++ leBytes 2 ses.sid ++ v.2.1))

/-- SESSION_EXPIRE (R445): ten minutes after its OPEN a session is gone. -/
def execSessionExpire (tenant : Fin 1024) (s : State) : Out :=
  .next (s.setCtx tenant { s.ctx tenant with ses := none })

/-! ## Contexts (R444, R449) -/

/-- CTX_SET (R443, R444): of a live context, as R444 says of acceptance (log entry 73). -/
def execCtxSet (r : MReq) (s : State) : Out :=
  .next (s.request r 0x12 false false fun s =>
    let t := pnum r 0 2
    let mask := pnum r 2 2
    let c := s.ctx t
    if r.payload.length ≠ 24 ∨ 1024 ≤ t ∨ 4 ≤ mask ∨ !zeroAt r.payload 4 4 ∨ c.st ≠ .live ∨ (bit mask 0 ∧ !ptRootOk (pnum r 8 8)) then
      s.answer r 0x12 .badCommand
    else if s.geode.holder.isNone then s
    else
      (s.setCtx t { c with
        ptRoot := if bit mask 0 then BitVec.ofNat 64 (pnum r 8 8) else c.ptRoot,
        rseed := if bit mask 1 then BitVec.ofNat 64 (pnum r 0x10 8) else c.rseed }).answer r 0x12 .ok)

/-- Each accepted command of a tenant is POSTED or has been moved under FLR (R383). -/
def State.tenantQuiet (s : State) (t : Nat) : Bool :=
  s.journal.slots.all fun p =>
    let x := p.2
    x.tenant != t || (x.st == .free && (s.pendOf p.1).isNone) || x.st == .posted || (s.cqOf x.port x.fn x.cq).flr.isSome

/-- Zero every noise-key slot that holds a key (R231, R449). -/
def State.zeroNk (s : State) (nk : Bytes) : State :=
  s.each 16 fun s g =>
    let d := s.drip g
    s.setDrip g { d with nk := d.nk.filter fun p => p.2 != nk }

/-- Zero-fill the scratchpad blocks tagged with a tenant and reset their tags (R275, R449). -/
def State.zeroTagged (s : State) (t : Nat) : State :=
  s.each 16 fun s g =>
    let x := s.gal g
    let mine := (x.tags.filter fun p => p.2 == t + 1).map Prod.fst
    let s := mine.foldl (fun s k => s.zeroRun (spDpa (4 * g + k / 2048) (k % 2048 * 4096)) 4096) s
    s.setGal g { x with tags := x.tags.filter fun p => p.2 != t + 1 }

/-- A destruction acts (R449, in its order) and is answered. -/
def State.destroyCtx (s : State) (t : Nat) (r : MReq) : State :=
  let c := s.ctx t
  let s := { s with dev := { s.dev with wins := s.dev.wins.filter fun p => !(p.2.any fun w : Win => w.tenant == t) } }
  let s := if c.nk = [] then s else s.zeroNk c.nk
  let s := s.zeroTagged t
  let s := s.each 32 fun s h => if (s.helper h).tenant = t then s.zeroRun (hpDpa h 0) 0x80000 else s
  let s := s.each 16 fun s g => s.setGal g { s.gal g with tlb := (s.gal g).tlb.filter fun e => e.1 != t }
  let s := s.setCtx t { s.ctx t with cs := [], nk := [], t := [], st := .free }
  s.answer r 0x13 .ok

/-- A request is in progress (R442, R486). -/
def State.holdReq (s : State) (r : MReq) : State :=
  match r.via with
  | .mbox p => s.setMbox p { s.mbox p with busy := true }
  | .sideband => { s with geode := { s.geode with sbBusy := true } }

/-- CTX_DESTROY (R383, R449, R460): DESTROYING at once, an open session is discarded; the rest waits for the tenant's commands, and
then goes on while the block idles (log entry 74). -/
def execCtxDestroy (r : MReq) (s : State) : Out :=
  .next (s.request r 0x13 false false fun s =>
    let t := pnum r 0 2
    if r.payload.length ≠ 2 ∨ 1024 ≤ t then s.answer r 0x13 .badCommand
    else if s.geode.holder.isNone then s
    else
      let s := s.setCtx t { s.ctx t with st := .destroying, ses := none }
      if s.tenantQuiet t then s.destroyCtx t r
      else { s.holdReq r with geode := { (s.holdReq r).geode with destroying := s.geode.destroying ++ [(t, r)] } })

/-- Destructions that wait act once their tenants are quiet (R383). -/
def State.destroyWaiting (s : State) : State :=
  s.geode.destroying.foldl (fun s p =>
    if s.tenantQuiet p.1 then
      ({ s with geode := { s.geode with destroying := s.geode.destroying.filter fun q => q != p } }).destroyCtx p.1 p.2
    else s) s

/-- CTX_QUERY (R443, R444): the public fields, in the order of the table. -/
def execCtxQuery (r : MReq) (s : State) : Out :=
  .next (s.request r 0x14 false false fun s =>
    let t := pnum r 0 2
    let c := s.ctx t
    let st := match c.st with | .free => 0 | .live => 1 | .destroying => 2
    if r.payload.length ≠ 2 ∨ 1024 ≤ t then s.answer r 0x14 .badCommand
    else s.respond r 1 0x14 .ok (Config.ctxState st :: (leBytes 8 c.ptRoot.toNat ++ leBytes 8 c.rseed.toNat ++
      leBytes 8 c.ownerFp.toNat ++ (if c.t = [] then zeros 64 else c.t))))

/-! ## Rollback, flash, owner (R439, R443, R460, R504) -/

/-- ROLLBACK_COMMIT (R439): ARB[CIDX] of the running image rises to its SVN. -/
def execRollbackCommit (r : MReq) (s : State) : Out :=
  .next (s.request r 0x30 false false fun s =>
    let g := s.geode
    if r.payload ≠ [] ∨ g.fallback then s.answer r 0x30 .badCommand
    else ({ s with geode := { g with arb := tset g.arb g.cidx (max (tget g.arb g.cidx 0) g.svn) } }).answer r 0x30 .ok)

/-- An image runs (R437, R455, R495). -/
def State.imageRuns (s : State) : Bool := s.pins.pwrgd && !s.geode.recovery && !s.geode.boardTest

/-- A byte of the boot flash (R504). -/
def Geode.flashAt (g : Geode) (a : Nat) : Byte := if g.wiped.contains (a / 65536) then memGet g.flash 0xFF a else Config.flashByte a

/-- n bytes of the boot flash. -/
def Geode.flashRun (g : Geode) (a n : Nat) : Bytes := (List.range n).map fun i => g.flashAt (a + i)

/-- Erase a sector at its first write (R443). -/
def Geode.erase (g : Geode) (sector : Nat) : Geode :=
  let g := { g with wiped := if g.wiped.contains sector then g.wiped else g.wiped ++ [sector] }
  if g.erased.contains sector then g
  else { g with flash := memClear g.flash (65536 * sector) 65536, erased := g.erased ++ [sector] }

/-- The 64 KiB sectors that a run touches. -/
def sectorsOf (a n : Nat) : List Nat := if n = 0 then [] else (List.range ((a + n - 1) / 65536 - a / 65536 + 1)).map (a / 65536 + ·)

/-- FLASH_WRITE (R443): not to the slot of the running image. -/
def execFlashWrite (r : MReq) (s : State) : Out :=
  .next (s.request r 0x31 true true fun s =>
    let slot := pnum r 0 1
    let off := pnum r 4 4
    let data := r.payload.drop 8
    if r.payload.length < 8 ∨ 1 < slot ∨ !zeroAt r.payload 1 3 ∨ 61440 < data.length ∨ 0x2000000 < off + data.length then
      s.answer r 0x31 .badCommand
    else if s.imageRuns ∧ (slot == 1) = s.geode.imageB then s.answer r 0x31 .permission
    else
      let a := 0x2000000 * slot + off
      let g := (sectorsOf a data.length).foldl Geode.erase s.geode
      ({ s with geode := { g with flash := memPut g.flash 0xFF a data } }).answer r 0x31 .ok)

/-- OWNER_SET (R443): key, preferred slot, and the current owner's signature when one is set. -/
def execOwnerSet (r : MReq) (s : State) : Out :=
  .next (s.request r 0x32 false false fun s =>
    let key := ppart r 0 2592
    let pref := pnum r 2592 1
    let cur := s.geode.ownerKey
    if r.payload.length ≠ (if cur = [] then 2593 else 2593 + 4627) ∨ 1 < pref then s.answer r 0x32 .badCommand
    else if cur ≠ [] ∧ !Config.ownerVerify cur (ppart r 0 2593) (r.payload.drop 2593) then s.answer r 0x32 .permission
    else ({ s with geode := { s.geode with ownerKey := key, preferB := pref == 1 } }).answer r 0x32 .ok)

/-! ## Debug unlock (R456-R459) -/

/-- DEBUG_CHALLENGE (R456). -/
def execDebugChallenge (r : MReq) (s : State) : Out :=
  .next (s.request r 0x40 true false fun s =>
    if r.payload ≠ [] then s.answer r 0x40 .badCommand
    else
      match s.geodeDraw 32 with
      | (s, c) =>
        ({ s with geode := { s.geode with challenge := some c } }).respond r 1 0x40 .ok (c ++ leBytes 8 s.identFp.toNat))

/-- CHALLENGE_EXPIRE (R456). -/
def execChallengeExpire (s : State) : Out := .next { s with geode := { s.geode with challenge := none } }

/-- A token of R456 for a challenge, signed by a key. -/
def tokenOk (tok key challenge : Bytes) (identFp : Word64) : Bool :=
  tok.take 1 == [0x01] && (tok.drop 1).head?.any (fun b => decide (b.toNat < 4)) && zeroAt tok 2 6 &&
    ((tok.drop 8).take 8 == leBytes 8 identFp.toNat) && ((tok.drop 16).take 32 == challenge) &&
    Config.mlDsaVerify key (sha3_512 (tok.take 48)) (tok.drop 48)

/-- Both tokens of an unlock pass (R456): the vendor token with its key, then the owner token with the same SCOPE. -/
def State.tokensOk (s : State) (p : Bytes) : Bool :=
  let vendor := p.take 4675
  let key := (p.drop 4675).take 2592
  let owner := p.drop 7267
  match s.geode.challenge with
  | none => false
  | some c =>
    tokenOk vendor key c s.identFp && (sha3_512 key == Config.dbgkeyHash) && !s.geode.ownerKey.isEmpty &&
      tokenOk owner s.geode.ownerKey c s.identFp && ((vendor.drop 1).take 1 == (owner.drop 1).take 1)

/-- Step 1 of R457: HALT on every engine, helper core and vector engine. -/
def State.haltAll (s : State) : State :=
  let s := s.each 64 fun s e => s.setHalt (.engine e) true
  let s := s.each 32 fun s h => s.setHalt (.helper h) true
  s.each 16 fun s g => s.setHalt (.vec g) true

/-- Steps 2 to 4 of R457: HBM, tile files, scratchpads, Flowstone slices, assembly buffers, noise keys, the long-integer engine's
memory, session state; every journal slot reads FREE. -/
def State.zeroize (s : State) : State :=
  { s with
    mem := [], ue := [], flows := s.flows.map fun p => (p.1, { p.2 with sets := [], busy := false, flush := none, flushLines := [] }),
    engines := s.engines.map fun p => (p.1, { p.2 with tf := [] }),
    drips := s.drips.map fun p => (p.1, { p.2 with nk := [], abuf := [] }), lie := { s.lie with work := [] },
    journal := { s.journal with slots := [], postedOrder := [], pend := [], runs := [], frozen := [] },
    geode := { s.geode with ctx := s.geode.ctx.map fun p => (p.1, { p.2 with ses := none }) } }

/-- Steps 2 to 6 of R457: the device is zeroized, the debug identity derived, the scopes opened; the request is answered. -/
def State.unlockFinish (s : State) : State :=
  match s.geode.unlock with
  | none => s
  | some (scope, r) =>
    let s := s.zeroize
    ({ s with geode := { s.geode with unlock := none, debug := true, scope := scope } }).answer r 0x41 .ok

/-- DEBUG_UNLOCK (R456, R457): an accepted one halts the engines and cores; its later steps go on while the block idles (log entry
74). -/
def execDebugUnlock (r : MReq) (s : State) : Out :=
  .next (s.request r 0x41 true false fun s =>
    if r.payload.length ≠ 11942 then s.answer r 0x41 .badCommand
    else
      let ok := s.tokensOk r.payload
      let t := { s with geode := { s.geode with challenge := none } }
      if s.geode.ctx.any fun p => p.2.st != .free then t.answer r 0x41 .badCommand
      else if !ok then t.answer r 0x41 .permission
      else
        let t := t.haltAll.holdReq r
        { t with geode := { t.geode with unlock := some (BitVec.ofNat 2 (pnum r 1 1), r) } })

/-! ## The DOE mailbox (R355) -/

/-- DOE_REQUEST (R355): the Geode answers as responder; IDE_KM starts and stops the port's streams. -/
def execDoeRequest (port : Fin 2) (r : DoeReq) (s : State) : Out :=
  if !s.geodeUp ∨ !s.portServes port then .next s
  else
    let x := s.port port
    let t := { s with geode := { s.geode with drawn := s.geode.drawn + 1 } }
    match r with
    | .spdm m => .next (t.setPort port { x with doe := Config.doeResponse m s.geode.drawn })
    | .ideKm start stream =>
      let y := { x with doe := Config.doeResponse [if start then 1 else 0] s.geode.drawn }
      match stream with
      | none => .next (t.setPort port { y with ideLink := start })
      | some i =>
        let b : BitVec 8 := BitVec.ofNat 8 (1 <<< i.val)
        .next (t.setPort port { y with ideSel := if start then x.ideSel ||| b else x.ideSel &&& ~~~b })

end Sys2Proof.Machine
end

