-- ==== Sys2Proof/Machine/Sideband.lean ====
section
/-! DEFINITION. The sideband's MCTP control messages (R486). The forms of the responses are those of DSP0236 1.3 (PRESUMED, log entry
75): completion code, then the response data. -/

namespace Sys2Proof.Machine

open Sys2Proof

/-- A control message is served one at a time (R486): during another request it gets a header-only response. -/
def State.mctp (s : State) (k : State → State) : State :=
  if !s.geodeUp then s
  else if s.geode.sbBusy then { s with sideband := respBytes 1 0 .queueWouldBlock 0 [] }
  else k s

/-- A control response: message type 0x00, the command's code, a completion code and data. -/
def State.control (s : State) (cmd done : Byte) (data : Bytes) : State := { s with sideband := [0x00, cmd, done] ++ data }

/-- SET_ENDPOINT_ID (R486): the null and the broadcast ID are no endpoint's. -/
def execSetEndpointId (eid : Byte) (s : State) : Out :=
  .next (s.mctp fun s =>
    if eid = 0x00 ∨ eid = 0xFF then s.control 0x01 0x02 []
    else ({ s with geode := { s.geode with eid := eid } }).control 0x01 0x00 [0x00, eid, 0x00])

/-- GET_ENDPOINT_ID (R486). -/
def execGetEndpointId (s : State) : Out := .next (s.mctp fun s => s.control 0x02 0x00 [s.geode.eid, 0x00, 0x00])

/-- GET_ENDPOINT_UUID (R486). -/
def execGetEndpointUuid (s : State) : Out := .next (s.mctp fun s => s.control 0x03 0x00 Config.mctpUuid)

/-- GET_MCTP_VERSION_SUPPORT (R486): version 1.3 of the base and of control messages. -/
def execGetMctpVersionSupport (msgType : Byte) (s : State) : Out :=
  .next (s.mctp fun s =>
    if msgType = 0xFF ∨ msgType = 0x00 then s.control 0x04 0x00 [0x01, 0xF1, 0xF3, 0xFF, 0x00] else s.control 0x04 0x80 [])

/-- GET_MESSAGE_TYPE_SUPPORT (R486): beside control, vendor defined PCI. -/
def execGetMessageTypeSupport (s : State) : Out := .next (s.mctp fun s => s.control 0x05 0x00 [0x01, 0x7E])

/-- GET_VENDOR_DEFINED_MESSAGE_SUPPORT (R486): one set, the PCI vendor ID; the version of the messages is R485's. -/
def execGetVendorDefinedMessageSupport (selector : Byte) (s : State) : Out :=
  .next (s.mctp fun s =>
    if selector ≠ 0 then s.control 0x06 0x02 []
    else s.control 0x06 0x00 [0xFF, 0x00, BitVec.ofNat 8 (Config.pciVendorId.toNat / 256), BitVec.ofNat 8 Config.pciVendorId.toNat,
      0x00, 0x01])

end Sys2Proof.Machine
end

