-- ==== Sys2Proof/Machine/TapOps.lean ====
section
/-! DEFINITION. The IEEE 1149.1 TAP (R455, R495). -/

namespace Sys2Proof.Machine

open Sys2Proof

/-- An instruction of the TAP takes effect unless TRST_N holds it in Test-Logic-Reset (R495). -/
def State.tapDo (s : State) (x : Tap) : State := if s.tap.trst then s else { s with tap := x }

/-- IDCODE (R455): version, part number, manufacturer, and the fixed bit 0 of IEEE 1149.1. -/
def idcodeWord : Word32 := BitVec.ofNat 32 (0xB <<< 28 ||| 0x9640 <<< 12 ||| Config.tapManufacturer.toNat <<< 1 ||| 1)

/-- An instruction that selects a data register and drives nothing. -/
def Tap.select (x : Tap) (i : TapInstr) (dr : Word32) : Tap := { x with ir := i, dr := dr, driven := false, hiz := false }

/-- BYPASS (R455): the one-bit bypass register captures 0. -/
def execBypass (s : State) : Out := .next (s.tapDo (s.tap.select .bypass 0))

/-- IDCODE (R455). -/
def execIdcode (s : State) : Out := .next (s.tapDo (s.tap.select .idcode idcodeWord))

/-- SAMPLE_PRELOAD (R455): the boundary register captures the pins, whose levels the model does not hold: a free value. -/
def execSamplePreload (s : State) : Out :=
  .next (if s.tap.trst then s else (s.tapDo (s.tap.select .samplePreload (BitVec.ofNat 32 (s.free 0)))).drawn)

/-- EXTEST, CLAMP and HIGHZ act only in BOARD_TEST (R455). -/
def State.boardTestDo (s : State) (x : Tap) : State := if s.geode.boardTest then s.tapDo x else s

/-- EXTEST (R455): the boundary register drives the outputs and captures the pins. -/
def execExtest (s : State) : Out :=
  .next (if s.tap.trst ∨ !s.geode.boardTest then s
    else (s.boardTestDo { s.tap with ir := .extest, dr := BitVec.ofNat 32 (s.free 0), driven := true, hiz := false }).drawn)

/-- TAP_CLAMP (R455): the outputs keep the boundary register's values while the bypass register is selected. -/
def execTapClamp (s : State) : Out := .next (s.boardTestDo { s.tap with ir := .clamp, dr := 0, driven := true, hiz := false })

/-- HIGHZ (R455): the outputs float while the bypass register is selected. -/
def execHighz (s : State) : Out := .next (s.boardTestDo { s.tap with ir := .highz, dr := 0, driven := false, hiz := true })

/-- TAP_RESET (R495): while TRST_N is asserted the TAP is held in Test-Logic-Reset. -/
def execTapReset (asserted : Bool) (s : State) : Out :=
  .next { s with tap := if asserted then { trst := true } else { s.tap with trst := false } }

end Sys2Proof.Machine
end

