-- ==== Sys2Proof/Machine/Blocks.lean ====
section
/-! DEFINITION. Power states of the blocks: EN, RST and HALT of BLK_CTL, and the ends of STARTING and STOPPING (R466, R476-R479,
R489). -/

namespace Sys2Proof.Machine

open Sys2Proof

/-- EN is read-only and reads 1 (R466). -/
def Page.fixedEn : Page → Bool
  | .dev | .geode | .mgmt _ | .journal | .pciep _ _ => true
  | _ => false

/-- A block is not OFF. -/
def State.notOff (s : State) (p : Page) : Bool := (s.hdr p).pstate != .off

/-- The block pages of a gallery (R479). -/
def galleryPages (g : Nat) : List Page :=
  [.drip g, .vec g, .helper (2 * g), .helper (2 * g + 1)] ++ (List.range 4).map (fun j => Page.engine (4 * g + j)) ++
    (List.range 4).map (fun j => Page.stream (4 * g + j)) ++ (List.range 7).map (fun k => Page.msg (8 * g + k))

/-- The engines, stream units, Drips, helpers and vector engines of a cavern (R479). -/
def cavernUsers (c : Nat) : List Page :=
  (List.range 4).flatMap fun k =>
    let g := 4 * c + k
    [.drip g, .vec g, .helper (2 * g), .helper (2 * g + 1)] ++ (List.range 4).map (fun j => Page.engine (4 * g + j)) ++
      (List.range 4).map (fun j => Page.stream (4 * g + j))

/-- EN ← 0 is refused (R479). -/
def State.stopRefused (s : State) (p : Page) : Bool :=
  match p with
  | .engine e => (s.eng e).st != .idle && (s.eng e).st != .saved
  | .stream e => s.notOff (.engine e)
  | .drip g => s.dripBusy g
  | .gallery g => (galleryPages g).any s.notOff
  | .flow c => (cavernUsers c).any s.notOff
  | .hbmc n => s.notOff (.flow (n / 2))
  | .cavern c => (List.range 4).any fun k => s.notOff (.gallery (4 * c + k))
  | _ => false

/-- A block enters STARTING; a Drip starts its self-test (R221, R477). -/
def State.startBlock (s : State) (p : Page) (en : Bool) : State :=
  let s := s.setHdr p { s.hdr p with en := en, pendingEnable := false, pstate := .starting }
  match p with
  | .drip g => s.setDrip g { s.drip g with busy := true, done := false }
  | _ => s

/-- EN ← 1 (R477, R478). -/
def State.enableBlock (s : State) (p : Page) : State :=
  let h := s.hdr p
  if p.fixedEn then s
  else
    match h.pstate with
    | .off => s.startBlock p true
    | .stopping => s.setHdr p { h with en := true, pendingEnable := true }
    | _ => s.setHdr p { h with en := true }

/-- EN ← 0 (R477, R479, R489). -/
def State.disableBlock (s : State) (p : Page) : State :=
  let h := s.hdr p
  if p.fixedEn then s
  else
    match h.pstate with
    | .on => if s.stopRefused p then s.refuse p .badCommand else s.setHdr p { h with en := false, pstate := .stopping }
    | .starting => s.setHdr p { h with en := false }
    | _ => s.setHdr p { h with en := false, pendingEnable := false }

/-- A write of a page's BLK_CTL through the control tree (R476, R483, R489); a reserved page ignores it (R471). -/
def State.blkWrite (s : State) (key : Nat) (k : State → Page → State) : State :=
  match Page.ofKey key with
  | none => s
  | some p => if s.heldPage p then s else if s.geode.frozen then s.refuse p .divergence else k s p

/-- BLOCK_ENABLE (R477, R478). -/
def execBlockEnable (page : Fin 16384) (s : State) : Out := .next (s.blkWrite page State.enableBlock)

/-- BLOCK_DISABLE (R477, R479). -/
def execBlockDisable (page : Fin 16384) (s : State) : Out := .next (s.blkWrite page State.disableBlock)

/-- A write of HALT (R466); the engines of a frozen context stay halted (R428). -/
def State.haltBlock (s : State) (halt : Bool) (p : Page) : State :=
  let held : Bool := match p with | .engine e => s.heldEngines.contains e | _ => false
  if !halt && held then s else s.setHalt p halt

/-- BLOCK_HALT (R466). -/
def execBlockHalt (page : Fin 16384) (halt : Bool) (s : State) : Out := .next (s.blkWrite page fun s p => s.haltBlock halt p)

/-! ## STOPPING and STARTING (R478, R479) -/

/-- The work of STOPPING has ended (R479). -/
def State.stopReady (s : State) (p : Page) : Bool :=
  match p with
  | .vec g => (s.vec g).run.isNone
  | _ => true

/-- What STOPPING does (R479). -/
def State.stopWork (s : State) (p : Page) : State :=
  match p with
  | .engine e => (s.setEng e { s.eng e with tf := [], latch0 := none, latch1 := none }).dropMessages (epOfEngine e)
  | .drip g => (s.setDrip g { s.drip g with abuf := [], nk := [] }).dropAsm g
  | .vec g => s.dropMessages (epOfVec g)
  | .helper h => (s.setHelper h { s.helper h with running := false, wfi := false, blocked := false }).dropMessages (epOfHelper h)
  | .msg ep => s.dropMessages ep
  | .flow c => s.flushRun c true true ((s.flow c).lines.map fun l => l.dpa)
  | .hbmc n => s.setHbmc n { s.hbmc n with selfRefresh := true }
  | .link n => if (s.link n).st = .disabled then s else s.linkStop n .disabled 1
  | .lie => s.lieAbortPut
  | _ => s

/-- BLOCK_STOP_COMPLETE (R478, R479): the drain ends and the block is OFF; with PENDING_ENABLE it starts in the next cycle. -/
def execBlockStopComplete (page : Fin 16384) (s : State) : Out :=
  match Page.ofKey page with
  | none => .next s
  | some p =>
    if (s.hdr p).pstate ≠ .stopping ∨ !s.stopReady p then .next s
    else
      let s := s.stopWork p
      .next (s.setHdr p { s.hdr p with pstate := .off })

/-- What a block does as it enters ON (R349, R479). -/
def State.startWork (s : State) (p : Page) : State :=
  match p with
  | .hbmc n => s.setHbmc n { s.hbmc n with selfRefresh := false }
  | .link n => if (s.link n).en ∧ (s.link n).st = .disabled then s.train n none else s
  | .engine e => s.syncRings (epOfEngine e)
  | .helper h => s.syncRings (epOfHelper h)
  | .vec g => s.syncRings (epOfVec g)
  | .msg ep => s.syncRings ep
  | _ => s

/-- STARTING ends (R477): ON, or STOPPING when EN now reads 0. -/
def State.startDone (s : State) (p : Page) : State :=
  let h := s.hdr p
  if h.en then (s.setHdr p { h with pstate := .on, pendingEnable := false }).startWork p
  else s.setHdr p { h with pstate := .stopping, pendingEnable := false }

/-- A Drip is ON only after its self-test (R221, R479). -/
def State.startWaits (s : State) (p : Page) : Bool :=
  match p with
  | .drip g => (s.drip g).busy
  | _ => false

/-- BLOCK_START_COMPLETE (R477, R479). A block that reads OFF with PENDING_ENABLE has passed its one cycle by then (R478). -/
def execBlockStartComplete (page : Fin 16384) (s : State) : Out :=
  match Page.ofKey page with
  | none => .next s
  | some p =>
    let h := s.hdr p
    if h.pstate = .off ∧ h.pendingEnable then .next (s.startBlock p true)
    else if h.pstate ≠ .starting ∨ s.startWaits p then .next s
    else .next (s.startDone p)

/-- One cycle after OFF, a block with PENDING_ENABLE is STARTING (R478). -/
def State.pendingStarts (s : State) : State :=
  (s.hdrs.filter fun p => p.2.pstate == .off && p.2.pendingEnable).foldl (fun s p =>
    match Page.ofKey p.1 with
    | some q => s.startBlock q true
    | none => s) s

/-! ## RST (R24, R265, R349, R477) -/

/-- Commands whose work a reset of an engine or of its stream unit discards are dispatched again (R24, R411; log entry 76). -/
def State.resetWork (s : State) (e : Nat) : State :=
  let slots := s.failedSlots e
  slots.foldl State.redispatch (s.resetUnit e)

/-- Dirty lines of a slice are discarded: HBM keeps what it holds (R24). -/
def State.dropLines (s : State) (c : Nat) : State :=
  (s.flow c).lines.foldl (fun s l => s.restoreShadow l.dpa l.shadow) s

/-- The registers of a block return to reset values and its work is gone (R477). What is no register of the block stays (log entry
76). -/
def State.resetBlock (s : State) (p : Page) : State :=
  match p with
  | .engine e =>
    let s := s.resetWork e
    s.setEng e { s.eng e with corrBase := 0 }
  | .stream e =>
    let s := s.resetWork e
    s.setStrm e {}
  | .drip g => ((s.countErrs (.drip g) (s.asmCount g)).setDrip g {}).dropAsm g
  | .vec g => (s.resetEndpoint (epOfVec g)).setVec g {}
  | .helper h => (s.resetEndpoint (epOfHelper h)).setHelper h {}
  | .msg ep =>
    let s := s.resetEndpoint ep
    s.setMsg ep { resv := (s.msg ep).resv }
  | .gallery g =>
    let x := s.gal g
    s.setGal g { saved := x.saved, tags := x.tags, testing := x.testing, failed := x.failed, marks := x.marks, arrivals := x.arrivals,
                 tAccept := x.tAccept, tStart := x.tStart, tCommit := x.tCommit }
  | .flow c => (s.dropLines c).setFlow c {}
  | .hbmc n =>
    let x := s.hbmc n
    s.setHbmc n { pinFail := x.repair, corr := x.corr, repair := x.repair, failed := x.failed, refresh2x := x.refresh2x }
  | .cavern c => s.setCavern c { s.cavern c with spbank := [] }
  | .link n =>
    let s := if (s.link n).st = .disabled then s else s.linkStop n .disabled 1
    s.setLink n { wire := (s.link n).wire }
  | .lie => { s with lie := {} }
  | .dev =>
    let d := s.dev
    { s with dev := { rseq := d.rseq, merges := d.merges, mergeId := d.mergeId, prochot := d.prochot, critical := d.critical,
                      watts := d.watts, temp := d.temp, hbmTemp := d.hbmTemp, limiting := d.limiting, released := d.released,
                      chainRefs := d.chainRefs, dedup := d.dedup } }
  | .geode => { s with geode := { s.geode with mbox := [], unlock := none, challenge := none, destroying := [] } }
  | .mgmt c =>
    let m := s.mgmt c
    s.setMgmt c { role := m.role, epoch := m.epoch, mseq := m.mseq, secondary := m.secondary, buf := m.buf, lost := m.lost,
                  beat := m.beat, reloading := m.reloading, held := m.held }
  | .journal =>
    let j := s.journal
    { s with journal := { slots := j.slots, postedOrder := j.postedOrder, runs := j.runs, frozen := j.frozen, resolved := j.resolved,
                          ringA := j.ringA, ringB := j.ringB } }
  | .pciep p f =>
    let s := s.each 16 fun s n => (s.putSq p f n {}).putCq p f n {}
    s.setFn p f {}

/-- RST ← 1 (R477, R489): any transition is abandoned; the block passes through OFF and starts again if EN is 1. -/
def State.rstBlock (s : State) (p : Page) : State :=
  let h := s.hdr p
  let en := h.en || p.fixedEn
  let s := s.setHdr p { en := en, halt := h.halt, pstate := .off }
  let s := s.resetBlock p
  if en then s.startBlock p true else s

/-- BLOCK_RESET (R477). -/
def execBlockReset (page : Fin 16384) (s : State) : Out := .next (s.blkWrite page State.rstBlock)

end Sys2Proof.Machine
end

