-- ==== Sys2Proof/Machine/Power.lean ====
section
/-! DEFINITION. Resets, bring-up, reference clocks, power and temperature, and what a cycle of an idle block brings (R437, R438,
R458, R459, R480, R493-R506). -/

namespace Sys2Proof.Machine

open Sys2Proof

/-! ## Held islands (R495) -/

/-- Headers of all pages OFF, the Geode's kept (R495). -/
def State.allOff (s : State) : Tbl Hdr :=
  (List.range 0x800).filterMap fun k =>
    match Page.ofKey k with
    | some .geode => some (k, s.hdr .geode)
    | some _ => some (k, { en := false, pstate := .off })
    | none => none

/-- The Drips start with their known-answer test: each reads STARTING and takes no fill until the test has ended (R221). -/
def State.dripsStart (s : State) : State :=
  s.each 16 fun s g =>
    (s.setDrip g { s.drip g with busy := true, done := false }).setHdr (.drip g) { s.hdr (.drip g) with pstate := .starting }

/-- Every island but the Geode's runs again, from its units' reset values: every block is ON at the end, but for the Drips, which run their
self-test (R221, R495, R505; log entry 1). -/
def State.islandsStart (s : State) : State :=
  ({ s with hdrs := [(1, s.hdr .geode)], cycles := [(islGeode, s.cyc islGeode)] }).dripsStart

/-! ## Warm entry and warm reset (R381, R495, R496) -/

/-- Both copies of each ACCEPTED slot take its elapsed count (R381): zero before its acceptance instant is latched (log entry 124). -/
def State.recordElapsed (s : State) : State :=
  (s.journal.slots.filter fun p => p.2.st == .accepted).foldl (fun s p =>
    let e := if latched (s.gal p.2.home).tAccept p.1 then spanOfCounts p.2.tAccept (s.engCycles p.2.home) else 0
    s.putSlot p.1 { p.2 with elapsed := e }) s

/-- Warm entry (R496): acceptance stops, engines are reset so that their commands are dispatched again, slices are flushed with WB, stacks
enter self-refresh. -/
def State.warmEntry (s : State) : State :=
  let s := s.recordElapsed
  let s := { s with journal := { s.journal with
    pend := [], runs := [], slots := s.journal.slots.filter fun p => (s.pendOf p.1).isNone } }
  let s := s.each 64 State.resetUnit
  let s := s.each 4 fun s c => s.flushRun c true false ((s.flow c).lines.map fun l => l.dpa)
  s.each 8 fun s n => s.setHbmc n { s.hbmc n with selfRefresh := true }

/-- A link through a reset: what the host gave stays (R19; log entry 77). -/
def Link.warm (x : Link) : Link :=
  { en := x.en, minw := x.minw, bundle := x.bundle, partnerDevId := x.partnerDevId, partnerLink := x.partnerLink, partnerFp := x.partnerFp,
    idBuf := x.idBuf, wire := x.wire }

/-- The islands beside the Geode are held in reset: their units go back to reset values. HBM, the device-wide state and the journal stay
(R19, R375, R495; log entry 77). -/
def State.holdReset (s : State) : State :=
  { s with
    hdrs := s.allOff,
    engines := [], streams := [], vecs := [], helpers := [], msgs := [], drips := [], bundles := [], fns := [],
    galleries := [], lie := {},
    flows := s.flows.map fun p => (p.1, { sets := [] }),
    hbmcs := s.hbmcs.map fun p =>
      (p.1, { pinFail := p.2.repair, repair := p.2.repair, failed := p.2.failed, selfRefresh := p.2.selfRefresh }),
    caverns := s.caverns.map fun p => (p.1, { step := p.2.step, throttle := p.2.throttle, hbm95 := p.2.hbm95, episode := p.2.episode,
                                              hold := p.2.hold }),
    links := s.links.map fun p => (p.1, p.2.warm),
    ports := s.ports.map fun p => (p.1, { up := false, perst := p.2.perst }),
    dev := { s.dev with chainBusy := 0, chainRefs := [], tlbInv := none, routeNew := none, waitToks := [], replayW := [], waitW := [], transfers := [],
                        refused := [], released := [], merges := [] },
    journal := { s.journal with qres := 0, qbusy := false, foBusy := false },
    mgmtW := { role := .starting, epoch := s.mgmtW.epoch }, mgmtE := { role := .starting, epoch := s.mgmtE.epoch },
    geode := { s.geode with mbox := [], challenge := none, scan := false, frozen := false, claimW := none, claimE := none,
                            destroying := [] } }

/-- SYS_RST_ASSERT (R381, R495, R496, R506). -/
def execSysRstAssert (s : State) : Out :=
  if !s.pins.sysRst then .next s
  else
    let t := { s with pins := { s.pins with sysRst := false } }
    .next (if s.outOfReset then { s.warmEntry.holdReset with pins := t.pins } else t)

/-- The Geode repeats an unlock's zeroization that a warm reset interrupted (R459): the device comes up with no live context, no open
window, an empty journal, zero memories and its normal identity. -/
def State.unlockResume (s : State) : State :=
  let s := s.zeroize
  { s with journal := { s.journal with en := false, ringA := [], ringB := [], restart := false },
           dev := { s.dev with wins := [] },
           geode := { s.geode with ctx := [], unlock := none, debug := false, scope := 0, sbBusy := false } }

/-- A port trains: to ×16, ×8, ×4, ×2 or ×1 and a speed of 1-5 (R355). What its partner reaches is not stated: free values. -/
def State.portTrain (s : State) (p : Nat) (up : Bool) (x : Port) : State :=
  let width := match s.free 0 % 5 with | 0 => 16 | 1 => 8 | 2 => 4 | 3 => 2 | _ => 1
  (s.setPort p { x with up := up, width := width, speed := 1 + s.free 1 % 5, downTimer := !up }).drawn

/-- The ports train, unless PERSTn_N holds them (R495). -/
def State.portsTrain (s : State) : State := s.each 2 fun s p => s.portTrain p (!(s.port p).perst) (s.port p)

/-- Enabled links train (R391). -/
def State.linksTrain (s : State) : State := s.each 64 fun s n => if (s.link n).en then s.train n none else s

/-- Stacks leave self-refresh, retrain and reload their pin declarations (R505). -/
def State.hbmTrain (s : State) : State :=
  { s with hbmcs := s.hbmcs.map fun p => (p.1, { p.2 with pinFail := p.2.repair, selfRefresh := false }) }

/-- The epoch is granted again from the Geode's record (R480, R496). -/
def State.regrant (s : State) : State :=
  let s := { s with mgmtW := { s.mgmtW with beat := true }, mgmtE := { s.mgmtE with beat := true } }
  match s.geode.holder with
  | some c => s.grant c
  | none => s

/-- SYS_RST_RELEASE (R375, R459, R495): islands restart from the running image and the restart scan is due. -/
def execSysRstRelease (s : State) : Out :=
  if s.pins.sysRst then .next s
  else
    let t := { s with pins := { s.pins with sysRst := true } }
    if !t.outOfReset then .next t
    else
      let t := { t with journal := { t.journal with restart := t.journal.en } }
      let t := if t.geode.unlock.isSome then t.unlockResume else t
      let t := t.islandsStart.hbmTrain.portsTrain.linksTrain
      .next (if t.geode.bootWait then t else t.regrant)

/-! ## Boot images (R436-R438) -/

/-- A number in the header of the image at a flash offset (R436). -/
def Geode.imgNum (g : Geode) (base o n : Nat) : Nat := ofLe (g.flashRun (base + o) n)

/-- Digest D_i of an image's component i (R436). -/
def Geode.imgDigest (g : Geode) (base i : Nat) : Bytes :=
  sha3_512 (g.flashRun (base + g.imgNum base (0x10 + 16 * i) 8) (g.imgNum base (0x18 + 16 * i) 8))

/-- The five digests. -/
def Geode.imgDigests (g : Geode) (base : Nat) : Bytes := ((List.range 5).map (g.imgDigest base)).flatten

/-- Flash offset of an image: A, or B. -/
def imgBase (b : Bool) : Nat := if b then 0x2000000 else 0

/-- A component lies inside its image's 32 MiB. -/
def Geode.imgFits (g : Geode) (base : Nat) : Bool :=
  (List.range 5).all fun i => decide (g.imgNum base (0x10 + 16 * i) 8 + g.imgNum base (0x18 + 16 * i) 8 ≤ 0x2000000)

/-- The conditions of R437. -/
def Geode.imgValid (g : Geode) (b : Bool) : Bool :=
  let a := imgBase b
  let key := g.flashRun (a + 0x80) 2592
  g.imgNum a 0 4 == 0x4B59494D && g.imgNum a 4 2 == 1 && decide (g.imgNum a 6 1 < 16) && g.imgFits a &&
    (sha3_512 key == Config.fwkeyHash) &&
    Config.mlDsaVerify key (sha3_512 (g.flashRun a 0xAA0 ++ g.imgDigests a)) (g.flashRun (a + 0xAA0) 4627) &&
    decide (tget g.arb (g.imgNum a 6 1) 0 ≤ g.imgNum a 7 1)

/-- The image that the Geode selects (R437): true for B. -/
def Geode.imgChoice (g : Geode) : Option Bool :=
  let svn (b : Bool) : Nat := g.imgNum (imgBase b) 7 1
  match g.imgValid false, g.imgValid true with
  | false, false => none
  | true, false => some false
  | false, true => some true
  | true, true => some (if svn false = svn true then g.preferB else decide (svn false < svn true))

/-- The Geode runs an image and waits for the controllers' first heartbeats (R437, R438, R461, R480). -/
def Geode.runImage (g : Geode) (b fallback : Bool) : Geode :=
  let a := imgBase b
  { g with imageB := b, svn := g.imgNum a 7 1, cidx := g.imgNum a 6 1, digests := some (g.imgDigests a), fallback := fallback,
           recovery := false, bootWait := true, epoch := 0, holder := none }

/-- No valid image runs (R437, R438, R461). -/
def Geode.recover (g : Geode) : Geode :=
  { g with recovery := true, imageB := false, svn := 0, cidx := 0, fallback := false, digests := some Config.recoveryDigests, bootWait := false,
           holder := none }

/-! ## Cold reset and bring-up (R493-R497, R505) -/

/-- What the Geode keeps without power or through a cold reset: the flash, the fuses, the owner record. -/
def Geode.cold (g : Geode) : Geode :=
  { flash := g.flash, wiped := g.wiped, arb := g.arb, ownerKey := g.ownerKey, preferB := g.preferB, drawn := g.drawn, epoch := 0,
    holder := none }

/-- The machine after a cold reset, with the Geode as given: HBM and scratchpads are zero, every slot is FREE, pin declarations are
reloaded (R505). What stands outside the device, and the TAP, stays. -/
def State.coldState (s : State) (g : Geode) (pins : Pins) : State :=
  { geode := g, pins := pins, tap := s.tap, hostOut := s.hostOut, msix := s.msix, lastRead := s.lastRead, sideband := s.sideband,
    freeCtr := s.freeCtr, pending := s.pending,
    hbmcs := s.hbmcs.map fun p => (p.1, { pinFail := p.2.repair, repair := p.2.repair, failed := false }),
    links := s.links.map fun p => (p.1, { wire := p.2.wire }),
    ports := s.ports.map fun p => (p.1, { perst := p.2.perst, up := !p.2.perst }),
    mgmtW := { role := .starting, epoch := 0, beat := false }, mgmtE := { role := .starting, epoch := 0, beat := false } }

/-- The same with every block OFF: no image runs, or SYS_RST_N is low. -/
def State.darken (s : State) : State :=
  { s with hdrs := s.allOff, ports := s.ports.map fun p => (p.1, { p.2 with up := false }) }

/-- STANDBY_POWER_UP (R493, R497): the Geode leaves power-on reset and serves the sideband. -/
def execStandbyPowerUp (s : State) : Out :=
  if s.pins.standby then .next s
  else .next ((s.coldState s.geode.cold { s.pins with standby := true, pwrgd := false }).darken)

/-- PWRGD_RISE (R437, R455, R491, R495, R505): straps are sampled; BOARD_TEST, RECOVERY, or the selected image and full bring-up. -/
def execPwrgdRise (testMode : Bool) (smbAddr : Fin 8) (s : State) : Out :=
  if s.pins.pwrgd ∨ !s.pins.standby then .next s
  else
    let pins := { s.pins with pwrgd := true, testMode := testMode, smbAddr := smbAddr.val, thermtrip := false, oscDead := false,
                              smbAlert := false }
    let g := s.geode.cold
    if testMode then .next ((s.coldState { g with boardTest := true } pins).darken)
    else
      match g.imgChoice with
      | none => .next ((s.coldState g.recover pins).darken)
      | some b =>
        let t := s.coldState (g.runImage b false) pins
        .next (if pins.sysRst then t.dripsStart.portsTrain else t.darken)

/-- The other image starts once more, or RECOVERY; without a second image a controller that did report takes epoch 1 (R438, R480). -/
def State.bootFails (s : State) : State :=
  let g := s.geode
  let other := !g.imageB
  if g.fallback then { s with geode := g.recover }.darken
  else if g.imgValid other then (s.coldState ({ g.cold with debug := g.debug }.runImage other true) s.pins).dripsStart.portsTrain
  else
    let one (c : Ctl) : State :=
      let s := { s with geode := { g with bootWait := false } }
      (s.grant c).controllerLost (Ctl.other c)
    if s.mgmtW.beat then one .W else if s.mgmtE.beat then one .E else { s with geode := g.recover }.darken

/-- BOOT_HEARTBEAT_TIMEOUT (R438): 2 s without both first heartbeats. -/
def execBootHeartbeatTimeout (s : State) : Out := if s.geode.bootWait then .next s.bootFails else .next s

/-- PWRGD_FALL (R494-R496): warm entry runs while VDD_HBM is good; then every island is held in cold reset and THERMTRIP_N is
released. -/
def execPwrgdFall (hbmGood : Bool) (s : State) : Out :=
  if !s.pins.pwrgd then .next s
  else
    let s := if hbmGood && s.outOfReset then s.warmEntry else s
    .next ((s.coldState s.geode.cold { s.pins with pwrgd := false, thermtrip := false }).darken)

/-! ## Ports (R495, R506) -/

/-- PERST_ASSERT (R495, R506): the port goes down; paired rings fail over when DOWN_MS elapses. -/
def execPerstAssert (port : Fin 2) (s : State) : Out :=
  let p := s.port port
  if p.perst then .next s
  else .next (s.setPort port { p with perst := true, up := false, downTimer := p.up || p.downTimer })

/-- PERST_RELEASE (R375, R495): the port trains, its functions reset, its rings come back from the ring table. -/
def execPerstRelease (port : Fin 2) (s : State) : Out :=
  if !(s.port port).perst then .next s
  else
    let s := { s with fns := s.fns.filter fun p => p.1 / 64 != port.val }
    let s := s.portTrain port (s.outOfReset && !(if port = 0 then s.pins.lost0 else s.pins.lost1)) {}
    let mine := (s.journal.ringA.map Prod.fst).filter fun i => i / 2048 == port.val
    .next (if s.outOfReset then mine.foldl State.ringRestore s else s)

/-! ## Reference clocks (R499, R511) -/

/-- REFERENCE_CLOCK_LOSS (R499). -/
def execReferenceClockLoss (r : RefClk) (s : State) : Out :=
  match r with
  | .refclk p =>
    let s := { s with pins := if p = 0 then { s.pins with lost0 := true } else { s.pins with lost1 := true } }
    let x := s.port p
    if x.up then .next (s.setPort p { x with up := false, downTimer := true }) else .next s
  | .lref =>
    let s := { s with pins := { s.pins with lostL := true } }
    .next (s.each 64 fun s n =>
      match (s.link n).st with
      | .disabled => s
      | .down => s.setLink n { s.link n with downCause := 2 }
      | _ => s.linkStop n .down 2)
  | .osc25m =>
    let pins := { s.pins with lostO := true, oscDead := true, smbAlert := true }
    if s.pins.pwrgd then
      let t := s.holdReset
      .next { t with pins := pins, ports := s.ports, fns := s.fns, mem := [], ue := [],
                     hdrs := t.hdrs.map fun h => if 0x100 ≤ h.1 ∧ h.1 < 0x180 then (h.1, tget s.hdrs h.1 {}) else h }
    else .next { s with pins := pins }

/-- REFERENCE_CLOCK_RESTORE (R511): the loss no longer holds ERR_N asserted. -/
def execReferenceClockRestore (r : RefClk) (s : State) : Out :=
  let x := s.pins
  .next { s with pins :=
    match r with
    | .refclk p => if p = 0 then { x with lost0 := false } else { x with lost1 := false }
    | .lref => { x with lostL := false }
    | .osc25m => { x with lostO := false } }

/-! ## Power and temperature (R500-R503) -/

/-- A thermal condition holds a cavern, or every cavern (R502). -/
def State.thermal (s : State) (c : Nat) : Bool :=
  let x := s.cavern c
  x.throttle || x.hbm95 || x.hold || s.dev.critical || s.dev.prochot

/-- The caverns run at some step below the fastest (R503 LIMITING). -/
def State.limited (s : State) : Bool := (List.range 4).any fun c => (s.cavern c).step != 0

/-- The cavern with the largest value, the lower index first. -/
def maxCavern (f : Nat → Nat) : List Nat → Option Nat
  | [] => none
  | c :: r =>
    match maxCavern f r with
    | some d => if f c < f d then some d else some c
    | none => some c

/-- POWER_EVALUATION (R500): one step of one cavern. -/
def State.evaluate (s : State) (w : Nat → Nat) : State :=
  let d := s.dev
  let p := min d.pwrLimit d.coolCap
  if d.pwrLimit = 0 ∨ d.coolCap = 0 then s
  else
    let free := (List.range 4).filter fun c => !s.thermal c
    if p < d.watts then
      match maxCavern w free with
      | some c => s.setCavern c { s.cavern c with step := min ((s.cavern c).step + 1) 12 }
      | none => s
    else if d.watts * 100 < p * 95 then
      match maxCavern (fun c => (s.cavern c).step) free with
      | some c => s.setCavern c { s.cavern c with step := (s.cavern c).step - 1 }
      | none => s
    else s

/-- POWER_EVALUATION (R500, R503): by the epoch holder, every 1 ms. -/
def execPowerEvaluation (watts w0 w1 w2 w3 : Nat) (s : State) : Out :=
  if !s.outOfReset ∨ s.geode.holder.isNone then .next s
  else
    let s := { s with dev := { s.dev with watts := watts } }
    let s := s.evaluate fun c => match c with | 0 => w0 | 1 => w1 | 2 => w2 | _ => w3
    .next { s with dev := { s.dev with limiting := s.limited } }

/-- A cavern's step is lowered by a thermal action, to at most step k (0 fastest): one DEGRADED record per episode (R502). -/
def State.coolTo (s : State) (c k : Nat) : State :=
  let x := s.cavern c
  let k := min k 12
  let s := s.setCavern c { x with step := max x.step k, hold := true, episode := x.episode || decide (x.step < k) }
  if x.step < k ∧ !x.episode then
    (s.logErr { (Page.cavern c).errRec .degraded (Code.ofNum (s.free 0 % 256)) with
      d0 := BitVec.ofNat 64 (s.free 1), d1 := BitVec.ofNat 64 (s.free 2) }).drawn
  else s

/-- Every cavern goes to step 12 (R502). -/
def State.coolAll (s : State) : State := s.each 4 fun s c => s.coolTo c 12

def State.setTemp (s : State) (die : Nat) (t : Word16) : State :=
  { s with dev := { s.dev with temp := tset s.dev.temp die t } }
def State.setHbmTemp (s : State) (n : Nat) (t : Word16) : State :=
  { s with dev := { s.dev with hbmTemp := tset s.dev.hbmTemp n t } }

/-- A temperature in 1/16 °C is at or above a number of degrees (R503). -/
def atLeast (t : Word16) (deg : Nat) : Bool := decide (16 * deg ≤ t.toNat)

/-- THROTTLE_TEMP_REACHED (R502). -/
def execThrottleTempReached (c : Fin 4) (temp : Word16) (s : State) : Out :=
  let s := s.setTemp c temp
  .next (if s.outOfReset ∧ atLeast temp s.dev.throtTemp then s.setCavern c { s.cavern c with throttle := true, hold := true } else s)

/-- HBM_TEMP_85 (R502): the stack's refresh rate doubles. -/
def execHbmTemp85 (n : Fin 8) (temp : Word16) (s : State) : Out :=
  let s := s.setHbmTemp n temp
  .next (if atLeast temp 85 then s.setHbmc n { s.hbmc n with refresh2x := true } else s)

/-- HBM_TEMP_95 (R502): the stack's cavern starts lowering its step. -/
def execHbmTemp95 (n : Fin 8) (temp : Word16) (s : State) : Out :=
  let s := s.setHbmTemp n temp
  let c := n.val / 2
  .next (if s.outOfReset ∧ atLeast temp 95 then
    (s.setHbmc n { s.hbmc n with refresh2x := true }).setCavern c { s.cavern c with hbm95 := true, hold := true } else s)

/-- CRITICAL_TEMP (R502). -/
def execCriticalTemp (die : Fin 5) (temp : Word16) (s : State) : Out :=
  let s := s.setTemp die temp
  .next (if s.outOfReset ∧ atLeast temp 105 then { s with dev := { s.dev with critical := true } }.coolAll else s)

/-- PROCHOT_ASSERT (R502, R503). -/
def execProchotAssert (s : State) : Out :=
  let s := { s with pins := { s.pins with prochotLow := true }, dev := { s.dev with prochot := true } }
  .next (if s.outOfReset then s.coolAll else s)

/-- PROCHOT_DEASSERT (R503, R506): a limit written meanwhile takes effect. -/
def execProchotDeassert (s : State) : Out :=
  let d := s.dev
  .next { s with pins := { s.pins with prochotLow := false },
                 dev := { d with prochot := false, pwrLimit := d.pwrLimitNew.getD d.pwrLimit, pwrLimitNew := none } }

/-- THERMAL_STEP (R502): every 100 µs under a condition of its own the cavern lowers one step. -/
def execThermalStep (c : Fin 4) (s : State) : Out :=
  let x := s.cavern c
  .next (if s.outOfReset ∧ (x.throttle ∨ x.hbm95) then s.coolTo c (x.step + 1) else s)

/-- THERMAL_CLEAR (R502): clear for 10 ms, the cavern is R500's again; PROCHOT_N low is no cleared condition. -/
def execThermalClear (c : Fin 4) (s : State) : Out :=
  if s.dev.prochot then .next s
  else
    let s := s.setCavern c { s.cavern c with throttle := false, hbm95 := false, episode := false, hold := false }
    let cool (s : State) (n : Nat) : State :=
      if atLeast (tget s.dev.hbmTemp n 0) 85 then s else s.setHbmc n { s.hbmc n with refresh2x := false }
    let s := cool (cool s (2 * c.val)) (2 * c.val + 1)
    .next { s with dev := { s.dev with critical := false } }

/-- THERMTRIP (R502): latched until cold reset; the islands are held in reset without warm entry; a LOST record goes out on the sideband.
Its other fields are not stated: free values (log entry 79). -/
def execThermtrip (die : Fin 5) (temp : Word16) (s : State) : Out :=
  let s := s.setTemp die temp
  if !atLeast temp 115 ∨ !s.pins.pwrgd then .next s
  else
    let r : ErrRec := { Page.dev.errRec .lost (Code.ofNum (s.free 0 % 256)) with
      d0 := BitVec.ofNat 64 (s.free 1), d1 := BitVec.ofNat 64 (s.free 2) }
    let t := s.holdReset.drawn
    .next { t with pins := { t.pins with thermtrip := true, smbAlert := true }, mem := [], ue := [],
                   sideband := sidebandMsg (r.image 0 true) }

end Sys2Proof.Machine
end

