-- ==== Sys2Proof/Machine/RegMap.lean ====
section
/-! DEFINITION. The register pages as BAR0 shows them: the page maps of the functions, the registers of each page with their widths,
the rights of virtual functions, and what each register reads as (R85, R200, R219, R266, R272-R274, R281, R294, R328, R350-R354,
R384, R385, R398, R406, R431, R432, R454, R461-R473, R487, R488, R503). -/

namespace Sys2Proof.Machine

open Sys2Proof

/-! ## Page maps (R472, R473) -/

/-- The page at a BAR0 offset of a function; none where it is reserved (R472, R473). -/
def pageAt (port fn off : Nat) : Option Page :=
  let k := off / 4096
  if fn = 0 then Page.ofKey k
  else if k = 0 then some (.pciep port fn)
  else if 0x10 ≤ k ∧ k < 0x50 then some (.engine (k - 0x10))
  else if 0x50 ≤ k ∧ k < 0x90 then some (.stream (k - 0x50))
  else if 0x90 ≤ k ∧ k < 0xD0 then some (.msg (epOfEngine (k - 0x90)))
  else if 0xD0 ≤ k ∧ k < 0xE0 then some (.gallery (k - 0xD0))
  else none

/-! ## Register maps: rows of first offset, last offset, stride, width in bytes -/

abbrev RegRow := Nat × Nat × Nat × Nat

/-- The common header (R462). -/
def hdrMap : List RegRow := [(0x000, 0x004, 4, 4), (0x008, 0x008, 8, 8), (0x010, 0x028, 4, 4), (0x030, 0x03C, 4, 4), (0x040, 0x058, 8, 8)]

/-- The block's own registers. -/
def Page.map : Page → List RegRow
  | .dev => [(0x100, 0x108, 4, 4), (0x110, 0x110, 8, 8), (0x118, 0x124, 4, 4), (0x130, 0x130, 8, 8), (0x138, 0x138, 4, 4),
      (0x140, 0x140, 8, 8), (0x148, 0x148, 4, 4), (0x160, 0x17C, 4, 4), (0x180, 0x184, 4, 4), (0x188, 0x188, 8, 8),
      (0x190, 0x19C, 4, 4), (0x1A0, 0x1A0, 8, 8), (0x1C0, 0x1C0, 8, 8), (0x1C8, 0x1CC, 4, 4), (0x200, 0x210, 4, 4),
      (0x220, 0x230, 4, 4), (0x240, 0x25C, 4, 4)]
  | .geode => [(0x100, 0x100, 4, 4), (0x110, 0x11C, 4, 4), (0x120, 0x120, 8, 8), (0x140, 0x148, 8, 8), (0x150, 0x15C, 4, 4),
      (0x180, 0x188, 8, 8), (0x190, 0x19C, 4, 4), (0x200, 0x27C, 4, 4), (0x280, 0x280, 4, 4)]
  | .mgmt _ => [(0x100, 0x100, 4, 4), (0x108, 0x108, 8, 8), (0x110, 0x114, 4, 4), (0x400, 0x400, 8, 8), (0x408, 0x414, 4, 4),
      (0x418, 0x420, 8, 8), (0x428, 0x428, 4, 4), (0x430, 0x434, 4, 4)]
  | .journal => [(0x100, 0x108, 8, 8), (0x110, 0x114, 4, 4), (0x120, 0x120, 8, 8), (0x128, 0x128, 4, 4), (0x130, 0x130, 8, 8),
      (0x140, 0x144, 4, 4)]
  | .lie => [(0x100, 0x104, 4, 4), (0x108, 0x120, 8, 8), (0x128, 0x12C, 4, 4), (0x130, 0x130, 8, 8)]
  | .pciep _ f =>
    (if f = 0 then [(0x100, 0x110, 4, 4)] else [(0x180, 0x180, 4, 4)]) ++
      [(0x188, 0x190, 8, 8), (0x200, 0x3E0, 32, 8), (0x208, 0x3E8, 32, 4), (0x20C, 0x3EC, 32, 4), (0x210, 0x3F0, 32, 8),
       (0x218, 0x3F8, 32, 8), (0x400, 0x5E0, 32, 8), (0x408, 0x5E8, 32, 4), (0x40C, 0x5EC, 32, 4), (0x410, 0x5F0, 32, 4),
       (0x418, 0x5F8, 32, 4)]
  | .link _ => [(0x100, 0x114, 4, 4), (0x118, 0x120, 8, 8), (0x128, 0x12C, 4, 4), (0x130, 0x140, 8, 8), (0x148, 0x148, 4, 4)]
  | .cavern _ => [(0x100, 0x100, 4, 4), (0x800, 0xFFC, 4, 4)]
  | .flow _ => [(0x100, 0x108, 4, 4)]
  | .hbmc _ => [(0x100, 0x100, 4, 4), (0x108, 0x308, 8, 8)]
  | .gallery _ => [(0x100, 0x100, 8, 8), (0x110, 0x114, 4, 4), (0x180, 0x180, 4, 4), (0x188, 0x188, 8, 8), (0x1A0, 0x1B8, 8, 8),
      (0x1C0, 0x1CC, 4, 4), (0x800, 0xFF8, 8, 8)]
  | .drip _ => [(0x100, 0x108, 8, 8), (0x110, 0x11C, 4, 4), (0x120, 0x148, 8, 8)]
  | .vec _ => [(0x100, 0x108, 4, 4), (0x110, 0x120, 8, 8)]
  | .helper _ => [(0x100, 0x118, 4, 4), (0x120, 0x120, 8, 8)]
  | .engine _ => [(0x100, 0x108, 4, 4), (0x110, 0x118, 8, 8), (0x120, 0x124, 4, 4), (0x128, 0x130, 8, 8), (0x138, 0x138, 4, 4),
      (0x140, 0x150, 8, 8), (0x158, 0x158, 4, 4), (0x160, 0x160, 4, 4), (0x168, 0x168, 8, 8), (0x180, 0x180, 4, 4),
      (0x200, 0x2F8, 8, 8), (0x300, 0x31C, 4, 4), (0x320, 0x32C, 4, 4), (0x340, 0x37C, 4, 4), (0x800, 0xFF8, 8, 8)]
  | .stream _ => [(0x100, 0x100, 8, 8), (0x108, 0x108, 4, 4), (0x110, 0x13C, 4, 4), (0x140, 0x198, 8, 8)]
  | .msg ep =>
    [(0x100, 0x10C, 4, 4), (0x110, 0x110, 8, 8), (0x180, 0x180, 8, 8), (0x200, 0x3F8, 8, 8), (0x400, 0x4F8, 8, 8)] ++
      (if epIsEngine ep then [(0x118, 0x118, 4, 4), (0x120, 0x158, 8, 8), (0x160, 0x178, 8, 8)]
       else if epIsHelper ep then [(0x120, 0x138, 8, 8)] else [])

/-- The register that a row holds at an offset: its first byte and its width. -/
def rowAt (o : Nat) (r : RegRow) : Option (Nat × Nat) :=
  let d := (o - r.1) % r.2.2.1
  if r.1 ≤ o ∧ o < r.2.1 + r.2.2.2 ∧ d < r.2.2.2 then some (o - d, r.2.2.2) else none

/-- The register at a page offset; none where it is reserved. -/
def Page.regAt (p : Page) (o : Nat) : Option (Nat × Nat) := (hdrMap ++ p.map).findSome? (rowAt o)

/-- An access has a size and alignment of R471. -/
def accessOk (off size : Nat) : Bool := (size == 4 || size == 8) && off % size == 0

/-! ## Virtual functions (R85, R200, R266, R274, R350, R384, R473) -/

/-- Registers of a page that a VF reads and writes as its chapter gives, by their first offset. -/
def vfReads (p : Page) (o : Nat) : Bool :=
  match p with
  | .pciep _ _ => true
  | .engine _ => o != 0x120 && o != 0x148 && o != 0x150 && o != 0x158
  | .stream _ => !(decide (0x120 ≤ o) && decide (o < 0x130))
  | .msg _ => o != 0x104
  | .gallery _ => o == 0x180 || (decide (0x1A0 ≤ o) && decide (o < 0x1C0)) || decide (0x800 ≤ o)
  | _ => false

def vfWrites (p : Page) (o : Nat) : Bool :=
  match p with
  | .pciep _ _ => o != 0x180
  | .engine _ => o == 0x128 || o == 0x180
  | .msg _ => o == 0x108 || o == 0x118 || (decide (0x120 ≤ o) && decide (o < 0x180)) || (decide (0x200 ≤ o) && decide (o < 0x400))
  | .gallery _ => o == 0x188
  | _ => false

/-- The page is the function's own, or its tenant's for now. -/
def State.ownsPage (s : State) (port fn : Nat) (p : Page) : Bool :=
  match p with
  | .pciep q f => decide (q = port ∧ f = fn)
  | .engine e | .stream e => s.mayUse port fn (s.eng e).tenant
  | .msg ep => s.mayMsg port fn ep
  | .gallery _ => true
  | _ => false

/-- Header registers that a VF sees on a page other than its own PCIEP page (R473). -/
def vfHeader (o : Nat) : Bool := decide (o < 0x10) || o == 0x14

/-- The bits that a page's IRQ_STS, IRQ_EN and IRQ_SET hold: ERR, and those of the block's chapter; the others are reserved (R9, R196, R262,
R322, R406, R442, R451, R468). -/
def Page.irqBits : Page → Word32
  | .gallery _ => 0x80000100
  | .stream _ | .helper _ | .lie => 0x80000001
  | .geode => 0x80000003
  | .link _ => 0x80000007
  | _ => 0x80000000

/-- What an access meets: it is served, it reads zero and writes nothing in silence, or it is recorded as PERMISSION. -/
inductive Right where
  | served | silent | denied
  deriving DecidableEq, Repr

/-- The rights of a function at a register (R461, R473); a VF's write of any register of an ENGINE or STREAM page that its table does not
open to it is recorded (R85, R266). -/
def State.right (s : State) (port fn : Nat) (p : Page) (o : Nat) (write : Bool) : Right :=
  if fn = 0 then
    match p with
    | .geode => if 0x140 ≤ o ∧ o < 0x1C0 ∧ (o - 0x140) / 0x40 ≠ port then .denied else .served
    | _ => .served
  else if !s.ownsPage port fn p then .denied
  else if o < 0x100 then
    match p with
    | .pciep _ _ => .served
    | .engine _ | .stream _ => if write then .denied else if vfHeader o then .served else .silent
    | _ => if vfHeader o then .served else .silent
  else if (if write then vfWrites p o else vfReads p o) then .served
  else .denied

/-! ## The header's contents (R463-R470) -/

/-- BLK_CAP (R220, R328, R465). -/
def Page.cap : Page → Nat
  | .engine _ => 512
  | .gallery _ => 4
  | .flow _ => 64
  | .journal => 8192
  | .pciep _ _ => 63
  | .drip _ => 64 <<< 16 ||| 40
  | .vec _ => 0x1000 <<< 16 ||| 128
  | .helper _ => 8 <<< 16 ||| 512
  | _ => 0

/-- Work is in progress in a block (R467; log entry 80). -/
def State.busyBlk (s : State) (p : Page) : Bool :=
  match p with
  | .engine e => (match (s.eng e).st with | .running | .saving | .restoring => true | _ => false)
  | .stream e => (List.range 4).any fun n => (s.xfer e n).kind != .free
  | .drip g => s.dripBusy g || (s.drip g).busy
  | .vec g => (s.vec g).run.isSome
  | .helper h => (s.helper h).running
  | .msg ep => (List.range 8).any fun c => ((s.msg ep).send c).isSome
  | .flow c => (s.flow c).busy
  | .gallery g => !(s.gal g).htNew.isEmpty || (s.gal g).testing != 0
  | .link n => (match (s.link n).st with | .training | .ident => true | _ => false)
  | .lie => s.lie.busy
  | .journal => s.journal.restart || s.journal.qbusy || s.journal.foBusy || (s.journal.runs.any fun r => r.2.isSome)
  | .dev => s.dev.tlbInv.isSome || s.dev.chainBusy != 0 || s.dev.routeNew.isSome
  | .geode => (s.mbox 0).busy || (s.mbox 1).busy || s.geode.sbBusy || s.geode.unlock.isSome
  | .mgmt c => (s.mgmt c).abortBusy || (s.mgmt c).reloading
  | _ => false

/-- The block has work that HALT can stop (R466; log entry 80). -/
def Page.halts : Page → Bool
  | .engine _ | .stream _ | .vec _ | .helper _ => true
  | _ => false

/-- BLK_STS of a page (R467). -/
def State.blkSts (s : State) (p : Page) : Nat :=
  let h := s.hdr p
  blkStsImage (h.halt && p.halts && !s.busyBlk p) h.pendingEnable (h.errFirst.getLsbD 31) (s.busyBlk p) h.pstate

/-- A header register's value (R462). -/
def State.regHdr (s : State) (p : Page) (o : Nat) : Nat :=
  let h := s.hdr p
  match o with
  | 0x000 => p.type <<< 16 ||| (p.place.1 % 256) <<< 8 ||| p.place.2 % 256
  | 0x004 => 0x010000B0
  | 0x008 => p.cap
  | 0x010 => b2n h.halt <<< 2 ||| b2n (h.en || p.fixedEn)
  | 0x014 => s.blkSts p
  | 0x018 => h.irqSts.toNat
  | 0x01C => h.irqEn.toNat
  | 0x024 => h.errFirst.toNat
  | 0x028 => h.errCnt.toNat
  | _ =>
    if 0x040 ≤ o then (tget h.cntVal ((o - 0x040) / 8) 0).toNat
    else if 0x030 ≤ o then (tget h.cntSel ((o - 0x030) / 4) 0).toNat
    else 0

/-! ## The blocks' own registers -/

/-- STATE of R394. -/
def LinkState.num : LinkState → Nat
  | .disabled => 0 | .down => 1 | .training => 2 | .ident => 3 | .found => 4 | .active => 5 | .untrusted => 6 | .version => 7

/-- ROLE of R488. -/
def Role.num : Role → Nat
  | .mirror => 0 | .holder => 1 | .frozen => 2 | .starting => 3

/-- Bits 0 to n − 1 by a predicate. -/
def bitMask (n : Nat) (f : Nat → Bool) : Nat := ((List.range n).map fun b => b2n (f b) <<< b).sum

/-- n fields of a width, the first lowest. -/
def fieldsOf (n width : Nat) (f : Nat → Nat) : Nat := ((List.range n).map fun i => (f i % 2 ^ width) <<< (width * i)).sum

/-- DEV.PWR_STS (R503). -/
def State.pwrSts (s : State) : Nat :=
  let d := s.dev
  b2n d.limiting <<< 31 ||| b2n ((List.range 4).any s.thermal) <<< 30 ||| b2n d.prochot <<< 29 |||
    b2n (d.pwrLimit == 0 || d.coolCap == 0) <<< 28 ||| d.watts % 2 ^ 16

/-- DEV (R487, R398, R503). -/
def State.regDev (s : State) (o : Nat) : Nat :=
  let d := s.dev
  match o with
  | 0x100 => 64 <<< 24 ||| 16 <<< 16 ||| 4
  | 0x104 => 512 <<< 16 ||| 32 <<< 8 ||| 8
  | 0x108 => 1024
  | 0x110 => d.chainBase.toNat
  | 0x120 => d.chainValid.toNat
  | 0x124 => d.chainBusy.toNat
  | 0x138 => b2n d.tlbInv.isSome
  | 0x140 => d.winBase.toNat
  | 0x180 => d.devId.toNat
  | 0x184 => d.hopBudget
  | 0x188 => d.routeBase.toNat
  | 0x194 => b2n d.routeRefused <<< 1 ||| b2n d.routeNew.isSome
  | 0x198 => d.e2eLimit.toNat
  | 0x19C => d.e2eTries
  | 0x1A0 => d.dedupBase.toNat
  | 0x1C0 => s.geode.epoch.toNat
  | 0x1C8 => b2n s.geode.frozen <<< 31 ||| (match s.geode.holder with | none => 0 | some .W => 1 | some .E => 2)
  | 0x200 => d.pwrLimitNew.getD d.pwrLimit
  | 0x204 => d.coolCap
  | 0x208 => s.pwrSts
  | 0x20C => fieldsOf 4 8 fun c => (s.cavern c).step % 16
  | 0x210 => d.throtTemp
  | _ =>
    if 0x160 ≤ o ∧ o < 0x180 then bitMask 32 fun b => (tget d.wins (32 * ((o - 0x160) / 4) + b) none).isSome
    else if 0x220 ≤ o ∧ o < 0x234 then (tget d.temp ((o - 0x220) / 4) 0).toNat
    else if 0x240 ≤ o ∧ o < 0x260 then (tget d.hbmTemp ((o - 0x240) / 4) 0).toNat
    else 0

/-- GEODE (R461). -/
def State.regGeode (s : State) (o : Nat) : Nat :=
  let g := s.geode
  if o = 0x100 then
    b2n g.debug <<< 31 ||| b2n g.boardTest <<< 30 ||| b2n g.recovery <<< 29 ||| b2n g.fallback <<< 28 ||| b2n g.imageB <<< 8 |||
      g.svn % 256
  else if 0x110 ≤ o ∧ o < 0x120 then fieldsOf 4 8 fun b => tget g.arb ((o - 0x110) + b) 0
  else if o = 0x120 then s.identFp.toNat
  else if 0x140 ≤ o ∧ o < 0x1C0 then
    let m := s.mbox ((o - 0x140) / 0x40)
    match (o - 0x140) % 0x40 with
    | 0x00 => m.reqAddr.toNat
    | 0x08 => m.rspAddr.toNat
    | 0x10 => m.reqLen.toNat
    | 0x14 => m.rspMax.toNat
    | 0x1C => b2n m.busy <<< 31 ||| m.code.toNat <<< 16 ||| m.rspLen % 2 ^ 16
    | _ => 0
  else if 0x200 ≤ o ∧ o < 0x280 then bitMask 32 fun b => (s.ctx (32 * ((o - 0x200) / 4) + b)).st == .live
  else if o = 0x280 then (g.ctx.filter fun p => p.2.st != .free).length
  else 0

/-- The lowest-numbered frozen item (R432): slots are 0-8,191, ring-table entries follow. -/
def State.frozenItem (s : State) : Nat :=
  match s.journal.frozen with
  | [] => 0
  | i :: r =>
    let m := r.foldl min i
    1 <<< 31 ||| b2n (decide (8192 ≤ m)) <<< 30 ||| m % 8192

/-- MGMT (R432, R488). -/
def State.regMgmt (s : State) (c : Ctl) (o : Nat) : Nat :=
  let m := s.mgmt c
  match o with
  | 0x100 => m.role.num
  | 0x108 => m.epoch.toNat
  | 0x110 => m.mseq.toNat
  | 0x114 => m.secondary.toNat
  | 0x400 => m.erqBase.toNat
  | 0x408 => m.erqSize
  | 0x40C => b2n m.erqEn <<< 31 ||| b2n m.erqErr <<< 30 ||| m.erqIv % 64
  | 0x410 => b2n m.erqPhase <<< 31 ||| m.erqTail % 2 ^ 17
  | 0x414 => m.erqHead
  | 0x418 => b2n m.severe <<< 63 ||| m.erqLost.toNat
  | 0x428 => b2n m.abortBusy <<< 31 ||| m.abortSts % 8
  | 0x434 => s.frozenItem
  | _ => 0

/-- JOURNAL (R385). -/
def State.regJournal (s : State) (o : Nat) : Nat :=
  let j := s.journal
  match o with
  | 0x100 => j.baseA.toNat
  | 0x108 => j.baseB.toNat
  | 0x110 => b2n j.en
  | 0x114 =>
    (j.slots.filter fun p => p.2.st != .free && p.2.st != .posted).length % 2 ^ 14 <<< 16 ||| b2n (!j.frozen.isEmpty) <<< 2 |||
      b2n j.restart <<< 1 ||| b2n (j.en && !j.restart)
  | 0x120 => j.qseq.toNat
  | 0x130 => j.qres.toNat
  | 0x144 => b2n j.foBusy <<< 1 ||| j.foPort % 2
  | _ => 0

/-- LIE (R454). -/
def State.regLie (s : State) (o : Nat) : Nat :=
  let x := s.lie
  match o with
  | 0x100 => fld x.op.toNat 0 8
  | 0x104 => fld x.len.toNat 16 9 <<< 16 ||| fld x.len.toNat 0 9
  | 0x108 => x.aAddr.toNat
  | 0x110 => x.bAddr.toNat
  | 0x118 => x.mAddr.toNat
  | 0x120 => x.rAddr.toNat
  | 0x12C => b2n x.busy <<< 31 ||| b2n x.geode <<< 30 ||| x.code.toNat <<< 8
  | 0x130 => x.cycles
  | _ => 0

/-- PCIEP (R384). -/
def State.regPciep (s : State) (p f o : Nat) : Nat :=
  let x := s.port p
  if 0x400 ≤ o then
    let q := s.cqOf p f ((o - 0x400) / 32)
    match (o - 0x400) % 32 with
    | 0x00 => q.base.toNat
    | 0x08 => q.size
    | 0x0C => b2n q.en <<< 31 ||| b2n q.err <<< 30 ||| q.iv % 64
    | 0x10 => b2n q.phase <<< 31 ||| q.tail % 2 ^ 17
    | 0x18 => q.head
    | _ => 0
  else if 0x200 ≤ o then
    let q := s.sqOf p f ((o - 0x200) / 32)
    match (o - 0x200) % 32 with
    | 0x00 => q.base.toNat
    | 0x08 => q.size
    | 0x0C => b2n q.en <<< 31 ||| b2n q.err <<< 30 ||| b2n q.pair <<< 15 ||| b2n q.active <<< 14 ||| (q.pfn % 64) <<< 8
    | 0x10 => q.ack.toNat
    | 0x18 => q.next.toNat
    | _ => 0
  else
    match o with
    | 0x100 => b2n x.up <<< 31 ||| (x.width % 32) <<< 16 ||| x.speed % 16
    | 0x104 => x.numVfs
    | 0x108 => 0x2
    | 0x10C => x.downMs
    | 0x110 => b2n x.ideLink <<< 8 ||| x.ideSel.toNat
    | 0x180 => (s.fn p f).tenant
    | 0x188 => (s.fn p f).wall.toNat
    | 0x190 => (s.fn p f).apBase.toNat
    | _ => 0

/-- LINK (R406). -/
def State.regLink (s : State) (n o : Nat) : Nat :=
  let x := s.link n
  match o with
  | 0x100 => (x.width % 8) <<< 16 ||| (x.bundleEff % 16) <<< 12 ||| (x.roleEff % 4) <<< 8 ||| x.st.num
  | 0x104 => x.ctl
  | 0x108 => 0x6
  | 0x10C => x.pver % 256
  | 0x110 => x.partnerDevId.toNat
  | 0x114 => x.partnerLink
  | 0x118 => x.partnerFp.toNat
  | 0x120 => x.idBuf.toNat
  | 0x128 => x.laneFailed.toNat <<< 4 ||| x.laneLocked.toNat
  | 0x12C => x.downCause % 256
  | 0x130 => x.fecCorr.toNat
  | 0x138 => x.fecUncorr.toNat
  | 0x140 => x.replays.toNat
  | 0x148 => x.retrains.toNat
  | _ => 0

/-- GALLERY (R200, R273, R431, R488). -/
def State.regGallery (s : State) (g o : Nat) : Nat :=
  let x := s.gal g
  if 0x800 ≤ o then (tget x.ht ((o - 0x800) / 8) 0).toNat
  else if 0x1A0 ≤ o ∧ o < 0x1C0 then (tget x.xportSeq ((o - 0x1A0) / 8) 0).toNat
  else
    match o with
    | 0x100 => s.engCycles g % 2 ^ 64
    | 0x110 => x.mseqW.toNat
    | 0x114 => x.mseqE.toNat
    | 0x180 => x.xportPend.toNat
    | 0x1C0 => x.sump.length <<< 16 ||| b2n x.sumpLostFlag
    | 0x1C4 => x.sumpLost.toNat
    | 0x1C8 => x.testing.toNat <<< 4 ||| x.failed.toNat
    | _ => 0

/-- DRIP (R219, R220). How much of an assembly buffer is in use while fills are pending is a matter of time: a free value. -/
def State.regDrip (s : State) (g o : Nat) : Nat :=
  let d := s.drip g
  if 0x130 ≤ o then tget d.fills ((o - 0x130) / 8) 0
  else
    match o with
    | 0x100 => d.coreEn.toNat
    | 0x108 => d.coreFail.toNat
    | 0x114 => d.nfail <<< 2 ||| b2n d.done <<< 1 ||| b2n d.busy
    | 0x118 => fieldsOf 4 8 fun j => s.dripPend g j
    | 0x11C => fieldsOf 4 8 fun j => if s.dripPend g j = 0 then 0 else s.free j % 65
    | 0x120 => d.words
    | 0x128 => d.rejects
    | _ => 0

/-- VEC (R328). -/
def State.regVec (s : State) (g o : Nat) : Nat :=
  let x := s.vec g
  match o with
  | 0x100 => x.htabBase.toNat
  | 0x104 =>
    ((match x.run with | some r => r.tenant | none => x.lastTenant) % 1024) <<< 16 ||| b2n x.lastFaulted <<< 1 ||| b2n x.run.isSome
  | 0x108 => x.hlimit.toNat
  | 0x110 => x.faultInfo.toNat
  | 0x118 => x.vseq
  | 0x120 => x.handled
  | _ => 0

/-- HELPER (R328). -/
def State.regHelper (s : State) (h o : Nat) : Nat :=
  let x := s.helper h
  match o with
  | 0x100 => b2n x.priv <<< 1 ||| b2n x.run
  | 0x104 => x.tenant
  | 0x108 => x.bootPc.toNat
  | 0x10C => ((x.csrOf 0x342).toNat % 256) <<< 8 ||| b2n x.blocked <<< 3 ||| b2n x.inh <<< 2 ||| b2n x.wfi <<< 1 ||| b2n x.running
  | 0x110 => x.watch.toNat
  | 0x114 => x.mbox.toNat
  | 0x118 => x.farSts.toNat
  | 0x120 => x.pc.toNat
  | _ => 0

/-- ENGINE (R85). -/
def State.regEngine (s : State) (e o : Nat) : Nat :=
  let x := s.eng e
  if 0x340 ≤ o then qstsImage (x.queue ((o - 0x340) / 4))
  else if 0x320 ≤ o then (x.cpv ((o - 0x320) / 4)).toNat
  else if 0x300 ≤ o then (x.ctv ((o - 0x300) / 4)).toNat
  else if 0x200 ≤ o then tileCfgImage (x.tile ((o - 0x200) / 8))
  else
    match o with
    | 0x100 => 0x200000
    | 0x104 => 0x800000
    | 0x108 => engStateImage x.lastCode x.st
    | 0x110 => x.progBase.toNat
    | 0x118 => x.argBase.toNat
    | 0x124 => x.tenant
    | 0x128 => x.stopCnt
    | 0x130 => x.retired
    | 0x138 => x.pc
    | 0x140 => x.faultInfo.toNat
    | 0x150 => x.saveBase.toNat
    | 0x160 => x.inUseMask
    | 0x168 => fieldsOf 32 2 fun t => (x.tile t).kst.num
    | 0x180 => x.dbgSel.toNat
    | _ => 0

/-- STREAM (R266). -/
def State.regStream (s : State) (e o : Nat) : Nat :=
  let x := s.strm e
  let ent (base w : Nat) : Ent := s.xfer e ((o - base) / w)
  if 0x180 ≤ o then (posBImage (ent 0x180 8).pos).toNat
  else if 0x160 ≤ o then
    let n := ent 0x160 8
    (posAImage (if n.kind = .slot then (x.slot n.slot).pc else 0) n.pos).toNat
  else if 0x140 ≤ o then (ent 0x140 8).va.toNat
  else if 0x130 ≤ o then entStsImage (ent 0x130 4)
  else if 0x120 ≤ o then 0
  else if 0x110 ≤ o then slotStsImage (x.slot ((o - 0x110) / 4))
  else if o = 0x108 then bitMask 4 fun n => (s.xfer e n).kind != .free
  else x.simgBase.toNat

/-- MSG (R350-R354). -/
def State.regMsg (s : State) (ep o : Nat) : Nat :=
  let m := s.msg ep
  if 0x400 ≤ o then (tget m.chcnt ((o - 0x400) / 8) 0).toNat
  else if 0x200 ≤ o then (tget m.rt ((o - 0x200) / 8) 0).toNat
  else if o = 0x180 then m.fault.toNat
  else if 0x120 ≤ o then m.ring ((o - 0x120) / 8)
  else
    match o with
    | 0x100 => (if epIsEngine ep then 0 else if epIsHelper ep then 1 else 2) <<< 8 ||| ep
    | 0x104 => m.sendWaitLimit
    | 0x108 => m.routeMode.toNat
    | 0x10C => fieldsOf 4 5 fun c => m.credit c
    | 0x110 => fieldsOf 8 8 fun q => (m.queue q).length
    | 0x118 => m.tokq.toNat
    | _ => 0

/-- What a register reads as; a WO register reads as zero (R10). -/
def State.readReg (s : State) (p : Page) (o : Nat) : Nat :=
  if o < 0x100 then s.regHdr p o
  else
    match p with
    | .dev => s.regDev o
    | .geode => s.regGeode o
    | .mgmt c => s.regMgmt c o
    | .journal => s.regJournal o
    | .lie => s.regLie o
    | .pciep p f => s.regPciep p f o
    | .link n => s.regLink n o
    | .cavern c =>
      if o = 0x100 then b2n (s.cavern c).primaryUp <<< 1 ||| b2n (s.cavern c).secondary
      else (tget (s.cavern c).spbank ((o - 0x800) / 4) 0).toNat
    | .flow c => (match o with | 0x100 => (s.flow c).keepWays | 0x108 => b2n (s.flow c).busy | _ => 0)
    | .hbmc n =>
      let x := s.hbmc n
      if o = 0x100 then x.scrubHours else if o = 0x108 then x.ueAddr.toNat else (tget x.pinFail ((o - 0x110) / 8) 0).toNat
    | .gallery g => s.regGallery g o
    | .drip g => s.regDrip g o
    | .vec g => s.regVec g o
    | .helper h => s.regHelper h o
    | .engine e => s.regEngine e o
    | .stream e => s.regStream e o
    | .msg ep => s.regMsg ep o

/-! ## Reads (R10, R471, R473, R476) -/

/-- A read clears an RC register (R10). -/
def State.clearRc (s : State) (p : Page) (o : Nat) : State :=
  match p with
  | .cavern c => if 0x800 ≤ o then s.setCavern c { s.cavern c with spbank := tset (s.cavern c).spbank ((o - 0x800) / 4) 0 } else s
  | .gallery g => if o = 0x1C4 then s.setGal g { s.gal g with sumpLost := 0, sumpLostFlag := false } else s
  | .mgmt c => if o = 0x418 then s.setMgmt c { s.mgmt c with erqLost := 0, severe := false } else s
  | .link n =>
    let x := s.link n
    match o with
    | 0x130 => s.setLink n { x with fecCorr := 0 }
    | 0x138 => s.setLink n { x with fecUncorr := 0 }
    | 0x140 => s.setLink n { x with replays := 0 }
    | 0x148 => s.setLink n { x with retrains := 0 }
    | _ => s
  | .msg ep => if 0x400 ≤ o then s.setMsg ep { s.msg ep with chcnt := tset (s.msg ep).chcnt ((o - 0x400) / 8) 0 } else s
  | .drip _ => if o = 0x11C then s.drawn else s
  | _ => s

/-- The value that a function sees: a VF reads another tenant's handle as zero (R274). -/
def State.seen (s : State) (port fn : Nat) (p : Page) (o : Nat) : Nat :=
  let v := s.readReg p o
  match p with
  | .gallery _ => if fn ≠ 0 ∧ 0x800 ≤ o ∧ fld v 52 10 ≠ (s.fn port fn).tenant then 0 else v
  | _ => v

/-- A read of `size` bytes at a BAR0 offset of a function; the value stands in `lastRead`. -/
def State.bar0Read (s : State) (port fn off size : Nat) : State :=
  let zero (s : State) : State := { s with lastRead := 0 }
  if !accessOk off size then zero (s.refuse .dev .badCommand)
  else
    match pageAt port fn off with
    | none => zero s
    | some p =>
      match p.regAt (off % 4096) with
      | none => zero s
      | some (o, w) =>
        if w < size then zero (s.refuse .dev .badCommand)
        else
          match s.right port fn p o false with
          | .denied => zero (s.refuse p .permission)
          | .silent => zero s
          | .served =>
            if 0x100 ≤ o ∧ !s.blkOn p then zero s
            else
              match p with
              | .engine e =>
                if 0x800 ≤ o then s.dbgRead e (off % 4096 - 0x800) size
                else { s with lastRead := fld (s.readReg p o) (8 * (off % 4096 - o)) (8 * size) }
              | _ =>
                let v := s.seen port fn p o
                { s.clearRc p o with lastRead := fld v (8 * (off % 4096 - o)) (8 * size) }

/-- Writes of a function through a port wait at the survivor for a takeover scan (R475, R489). -/
def State.heldOf (s : State) (port fn : Nat) : List Access :=
  (s.mgmtW.held ++ s.mgmtE.held).filter fun a => a.port == port && a.fn == fn

/-- RC_READ (R10, R471): a read of a register through BAR0, which clears an RC register. It waits behind a handle write of its
function whose zero fill runs, and behind a write of its function to the page that waits for a takeover scan (R275, R475). -/
def execRcRead (port : Fin 2) (fn : Fin 64) (off size : Nat) (s : State) : Out :=
  if s.behindFill port fn ∨ (s.heldOf port fn).any (fun a => pageAt port fn a.off == pageAt port fn off) then .next s
  else .next (s.bar0Read port fn off size)

end Sys2Proof.Machine
end

