-- ==== Sys2Proof/Machine/Regs.lean ====
section
/-! DEFINITION. Register writes through the control tree: the header, every block's registers, control messages, the takeover scan, and
the far accesses of a helper core (R10, R319-R321, R419, R462-R476, R483, R489, R510). -/

namespace Sys2Proof.Machine

open Sys2Proof

/-! ## The header (R462, R466-R470) -/

/-- A write of BLK_CTL (R466, R476, R477). -/
def State.blkCtlPut (s : State) (p : Page) (v : Nat) : State :=
  let s := s.haltBlock (bit v 2) p
  let s := if bit v 0 then s.enableBlock p else s.disableBlock p
  if bit v 1 then s.rstBlock p else s

/-- A write of CNT_SELn (R470): CLR zeroes the counter and reads 0. -/
def State.cntSelPut (s : State) (p : Page) (n : Nat) (v : Word32) : State :=
  let h := s.hdr p
  s.setHdr p { h with cntSel := tset h.cntSel n (v &&& 0x800000FF#32),
                      cntVal := if v.getLsbD 30 then tset h.cntVal n 0 else h.cntVal }

/-- A write of a header register (R10, R462). -/
def State.hdrPut (s : State) (p : Page) (o : Nat) (v : Word32) : State :=
  let h := s.hdr p
  let v := if 0x018 ≤ o ∧ o ≤ 0x020 then v &&& p.irqBits else v
  match o with
  | 0x010 => s.blkCtlPut p v.toNat
  | 0x018 => s.putHdr p { h with irqSts := h.irqSts &&& ~~~v }
  | 0x01C => s.putHdr p { h with irqEn := v }
  | 0x020 => s.putHdr p { h with irqSts := h.irqSts ||| v }
  | 0x024 => if v.getLsbD 31 then s.setHdr p { h with errFirst := h.errFirst &&& 0x7FFFFFFF#32 } else s
  | _ => if 0x030 ≤ o ∧ o < 0x040 then s.cntSelPut p ((o - 0x030) / 4) v else s

/-! ## The blocks' own registers -/

/-- A write of an address register: a value that breaks the alignment is discarded (R510). -/
def State.aligned (s : State) (p : Page) (v : Word64) (n : Nat) (t : State) : State :=
  if v.toNat % n = 0 then t else s.refuse p .badCommand

/-- A write of a field with a range: a value outside it is discarded (R398, R503). -/
def State.inRange (s : State) (v lo hi : Nat) (t : State) : State :=
  if lo ≤ v ∧ v ≤ hi then t else s.refuse .dev .badCommand

def State.withDev (s : State) (f : Dev → Dev) : State := { s with dev := f s.dev }

/-- A write of PWR_LIMIT (R503, R506): while PROCHOT_N governs, the new limit waits. -/
def State.pwrLimitPut (s : State) (v : Nat) : State :=
  s.inRange v 300 1200 (s.withDev fun d => if d.prochot then { d with pwrLimitNew := some v } else { d with pwrLimit := v })

/-- A write of WIN_CTL (R299): OPEN, then CLOSE (log entry 84). -/
def State.winCtlPut (s : State) (v : Nat) : State :=
  let s := if bit v 31 then s.winOpen (fld v 0 8) else s
  if bit v 30 then s.winClose (fld v 0 8) else s

/-- DEV (R487, R398, R503). -/
def State.putDev (s : State) (o : Nat) (v : Word64) : State :=
  let n := v.toNat
  match o with
  | 0x110 => s.aligned .dev v 0x200000 (s.withDev fun d => { d with chainBase := v })
  | 0x118 => (bitsOf n).foldl State.chainSet s
  | 0x11C => (bitsOf n).foldl State.chainClr s
  | 0x130 => s.tlbInvPut v
  | 0x140 => s.aligned .dev v 0x2000 (s.withDev fun d => { d with winBase := v })
  | 0x148 => s.winCtlPut n
  | 0x180 => s.devIdPut (v.setWidth 32)
  | 0x184 => s.inRange (fld n 0 6) 1 63 (s.withDev fun d => { d with hopBudget := fld n 0 6 })
  | 0x188 => s.aligned .dev v 0x8000 (s.withDev fun d => { d with routeBase := v })
  | 0x190 => s.routeSetPut n
  | 0x198 => s.withDev fun d => { d with e2eLimit := v.setWidth 32 }
  | 0x19C => s.inRange (fld n 0 4) 1 15 (s.withDev fun d => { d with e2eTries := fld n 0 4 })
  | 0x1A0 => s.aligned .dev v 0x10000 (s.withDev fun d => { d with dedupBase := v })
  | 0x1CC => s.epochResolvePut n
  | 0x200 => s.pwrLimitPut (fld n 0 16)
  | 0x204 => s.inRange (fld n 0 16) 300 1500 (s.withDev fun d => { d with coolCap := fld n 0 16 })
  | 0x210 => s.inRange (fld n 0 8) 85 103 (s.withDev fun d => { d with throtTemp := fld n 0 8 })
  | _ => s

/-- A GO of a mailbox whose request bytes are not this command's (R442, log entry 83): one written while BUSY is 1, or with a REQ_LEN
above 65,536, completes with BAD_COMMAND and a header-only response. -/
def State.mailGo (s : State) (p : Nat) : State :=
  let m := s.mbox p
  if m.busy ∨ 65536 < m.reqLen.toNat then
    let out := respBytes (BitVec.ofNat 8 (s.free 0)) (s.free 1) .badCommand (BitVec.ofNat 64 (s.free 2)) []
    (((s.hostPut p 0 m.rspAddr.toNat out).setMbox p { m with code := Code.badCommand.byte, rspLen := out.length }).raise .geode p).drawn
  else s

/-- GEODE (R461). -/
def State.putGeode (s : State) (o : Nat) (v : Word64) : State :=
  let p := (o - 0x140) / 0x40
  let m := s.mbox p
  if o < 0x140 ∨ 0x1C0 ≤ o then s
  else
    match (o - 0x140) % 0x40 with
    | 0x00 => s.aligned .geode v 64 (s.setMbox p { m with reqAddr := v })
    | 0x08 => s.aligned .geode v 64 (s.setMbox p { m with rspAddr := v })
    | 0x10 => s.setMbox p { m with reqLen := v.setWidth 32 }
    | 0x14 => s.setMbox p { m with rspMax := v.setWidth 32 }
    | 0x18 => if v.getLsbD 0 then s.mailGo p else s
    | _ => s

/-- A write of MGMT.RESOLVE (R429, R432). -/
def State.resolvePut (s : State) (c : Ctl) (n : Nat) : State :=
  let port := portOf c
  let item := fld n 0 13
  if !bit n 31 then s
  else
    match fld n 16 2 with
    | 0 => s.resolveItem port (bit n 30) item fun s i => s.keepCopy false i
    | 1 => s.resolveItem port (bit n 30) item fun s i => s.keepCopy true i
    | 2 => s.resolveItem port (bit n 30) item fun s i => s.discardItem i
    | _ => s.refuse (.mgmt c) .badCommand

/-- MGMT (R432). -/
def State.putMgmt (s : State) (c : Ctl) (o : Nat) (v : Word64) : State :=
  let m := s.mgmt c
  let n := v.toNat
  match o with
  | 0x400 =>
    if m.erqEn then s.refuse (.mgmt c) .badCommand else s.aligned (.mgmt c) v 4096 (s.setMgmt c { m with erqBase := v })
  | 0x408 => if m.erqEn then s.refuse (.mgmt c) .badCommand else s.setMgmt c { m with erqSize := fld n 0 17 }
  | 0x40C => s.erqCtl c n
  | 0x414 => s.erqHeadPut c n
  | 0x420 => s.cmdAbort c n
  | 0x430 => s.resolvePut c n
  | _ => s

/-- JOURNAL (R385): the bases are written only while EN is 0. -/
def State.putJournal (s : State) (port o : Nat) (v : Word64) : State :=
  let j := s.journal
  match o with
  | 0x100 => if j.en then s.refuse .journal .badCommand else { s with journal := { j with baseA := v } }
  | 0x108 => if j.en then s.refuse .journal .badCommand else { s with journal := { j with baseB := v } }
  | 0x110 => s.journalCtl v.toNat
  | 0x120 => { s with journal := { j with qseq := v } }
  | 0x128 => s.qringPut v.toNat
  | 0x140 => s.takeoverPut port v.toNat
  | _ => s

/-- A write of LIE.CTL (R451, R453). -/
def State.lieCtlPut (s : State) (port n : Nat) : State :=
  let s := if bit n 1 then s.lieAbortPut else s
  if bit n 0 then s.goFree port else s

/-- LIE (R454): its registers are written only while BUSY is 0. -/
def State.putLie (s : State) (port o : Nat) (v : Word64) : State :=
  let x := s.lie
  if o = 0x128 then s.lieCtlPut port v.toNat
  else if x.busy then s.refuse .lie .badCommand
  else
    match o with
    | 0x100 => { s with lie := { x with op := v.setWidth 32 } }
    | 0x104 => { s with lie := { x with len := v.setWidth 32 } }
    | 0x108 => s.aligned .lie v 8 { s with lie := { x with aAddr := v } }
    | 0x110 => s.aligned .lie v 8 { s with lie := { x with bAddr := v } }
    | 0x118 => s.aligned .lie v 8 { s with lie := { x with mAddr := v } }
    | 0x120 => s.aligned .lie v 8 { s with lie := { x with rAddr := v } }
    | _ => s

/-- A submission ring's registers (R383, R384): BASE, SIZE and NEXT are written only while EN is 0. -/
def State.putSqReg (s : State) (p f n o : Nat) (v : Word64) : State :=
  let x := s.sqOf p f n
  let pg := Page.pciep p f
  match o with
  | 0x00 => if x.en then s.refuse pg .badCommand else s.aligned pg v 4096 (s.putSq p f n { x with base := v })
  | 0x08 => if x.en then s.refuse pg .badCommand else s.putSq p f n { x with size := fld v.toNat 0 17 }
  | 0x0C => s.sqCtl p f n v.toNat
  | 0x10 => s.aligned pg v 16 (s.putSq p f n { x with ack := v })
  | 0x18 =>
    if x.en then s.refuse pg .badCommand
    else s.putSq p f n (x.rewrite v)
  | _ => s

/-- A completion ring's registers (R384). -/
def State.putCqReg (s : State) (p f n o : Nat) (v : Word64) : State :=
  let x := s.cqOf p f n
  match o with
  | 0x00 => s.aligned (.pciep p f) v 4096 (s.putCq p f n { x with base := v })
  | 0x08 => s.putCq p f n { x with size := fld v.toNat 0 17 }
  | 0x0C => s.cqCtl p f n v.toNat
  | _ => s

/-- PCIEP (R384). -/
def State.putPciep (s : State) (p f o : Nat) (v : Word64) : State :=
  let x := s.fn p f
  if 0x400 ≤ o then s.putCqReg p f ((o - 0x400) / 32) ((o - 0x400) % 32) v
  else if 0x200 ≤ o then s.putSqReg p f ((o - 0x200) / 32) ((o - 0x200) % 32) v
  else
    match o with
    | 0x10C => s.setPort p { s.port p with downMs := fld v.toNat 0 16 }
    | 0x180 => s.setFn p f { x with tenant := fld v.toNat 0 10 }
    | 0x188 => s.setFn p f { x with wall := v }
    | 0x190 => s.aligned (.pciep p f) v (if f = 0 then 2 ^ 30 else 2 ^ 28) (s.setFn p f { x with apBase := v })
    | _ => s

/-- LINK (R406). -/
def State.putLink (s : State) (n o : Nat) (v : Word64) : State :=
  match o with
  | 0x104 => s.linkCtlPut n v.toNat
  | 0x120 => s.aligned (.link n) v 0x2000 (s.setLink n { s.link n with idBuf := v })
  | _ => s

/-- GALLERY (R197, R273, R431). -/
def State.putGallery (s : State) (port fn g o : Nat) (v : Word64) : State :=
  if 0x800 ≤ o then s.handlePut port fn (4 * g + (o - 0x800) / 0x200) ((o - 0x800) / 8 % 64) v
  else if o = 0x188 then s.hsigPut port fn g v.toNat
  else if o = 0x1CC then s.engRetestPut g v.toNat
  else s

/-- DRIP (R219, R221). -/
def State.putDrip (s : State) (g o : Nat) (v : Word64) : State :=
  let d := s.drip g
  match o with
  | 0x100 => s.coreEnPut g v.toNat
  | 0x108 => s.setDrip g { d with coreFail := d.coreFail &&& ~~~(v.setWidth 40) }
  | 0x110 => if v.getLsbD 0 then s.dripTest g else s
  | _ => s

/-- VEC (R328). -/
def State.putVec (s : State) (g o : Nat) (v : Word64) : State :=
  let x := s.vec g
  match o with
  | 0x100 => s.setVec g { x with htabBase := v.setWidth 32 &&& 0x7FFF8#32 }
  | 0x108 => s.setVec g { x with hlimit := v.setWidth 32 }
  | _ => s

/-- HELPER (R302, R322, R328, R329). -/
def State.putHelper (s : State) (h o : Nat) (v : Word64) : State :=
  let x := s.helper h
  match o with
  | 0x100 => s.helperCtl h v.toNat
  | 0x104 => s.helperTenantPut h v.toNat
  | 0x108 => s.setHelper h { x with bootPc := v.setWidth 32 &&& 0x7FFFE#32 }
  | 0x110 => s.setHelper h { x with watch := v.setWidth 32 &&& 0x8007FFC0#32 }
  | _ => s

/-- A write of SAVE_CTL (R88). -/
def State.saveCtlPut (s : State) (e n : Nat) : State :=
  if bit n 0 ∧ bit n 1 then s.refuse (.engine e) .badCommand
  else if bit n 0 then s.saveWrite e
  else if bit n 1 then s.restoreWrite e
  else s

/-- ENGINE (R85). -/
def State.putEngine (s : State) (e o : Nat) (v : Word64) : State :=
  let x := s.eng e
  let n := v.toNat
  if 0x200 ≤ o then (if o < 0x300 then s.tileCfgPut e ((o - 0x200) / 8) n else s)
  else
    match o with
    | 0x110 => s.setEng e { x with progBase := v }
    | 0x118 => s.setEng e { x with argBase := v }
    | 0x120 => s.startWrite e n
    | 0x124 => s.engTenantPut e (fld n 0 10)
    | 0x128 => s.stopCntPut e n
    | 0x148 => s.rndSeedPut e v
    | 0x150 => s.aligned (.engine e) v 4096 (s.setEng e { x with saveBase := v })
    | 0x158 => s.saveCtlPut e n
    | 0x180 => s.setEng e { x with dbgSel := v.setWidth 32 &&& 0x1F003F03#32 }
    | _ => s

/-- STREAM (R266). -/
def State.putStream (s : State) (e o : Nat) (v : Word64) : State :=
  if o = 0x100 then s.setStrm e { s.strm e with simgBase := v }
  else if 0x120 ≤ o ∧ o < 0x130 then s.entCtl e ((o - 0x120) / 4) v.toNat
  else s

/-- MSG (R350-R353). -/
def State.putMsg (s : State) (ep o : Nat) (v : Word64) : State :=
  let m := s.msg ep
  if 0x400 ≤ o then s
  else if 0x200 ≤ o then s.routeEntryPut ep ((o - 0x200) / 8) v
  else if o = 0x180 then s
  else if 0x120 ≤ o then s.ringPutReg ep ((o - 0x120) / 8) v
  else
    match o with
    | 0x104 => s.setMsg ep { m with sendWaitLimit := fld v.toNat 0 24 }
    | 0x108 => s.setMsg ep { m with routeMode := v.setWidth 4 }
    | 0x118 => s.setMsg ep { m with tokq := v.setWidth 12 }
    | _ => s

/-- The effect of a write of a block's own register by a function; a write of a read-only register has none (R10). -/
def State.putReg (s : State) (port fn : Nat) (p : Page) (o : Nat) (v : Word64) : State :=
  match p with
  | .dev => s.putDev o v
  | .geode => s.putGeode o v
  | .mgmt c => s.putMgmt c o v
  | .journal => s.putJournal port o v
  | .lie => s.putLie port o v
  | .pciep p f => s.putPciep p f o v
  | .link n => s.putLink n o v
  | .cavern _ => s
  | .flow c =>
    match o with
    | 0x100 => s.setFlow c { s.flow c with keepWays := fld v.toNat 0 4 }
    | 0x104 => s.flushPut c v.toNat
    | _ => s
  | .hbmc n => if o = 0x100 then s.setHbmc n { s.hbmc n with scrubHours := fld v.toNat 0 16 } else s
  | .gallery g => s.putGallery port fn g o v
  | .drip g => s.putDrip g o v
  | .vec g => s.putVec g o v
  | .helper h => s.putHelper h o v
  | .engine e => s.putEngine e o v
  | .stream e => s.putStream e o v
  | .msg ep => s.putMsg ep o v

/-! ## The way of a write (R18, R419, R471, R473-R476, R483, R489) -/

/-- Writes that a freeze lets through: EPOCH_RESOLVE and the error-ring registers (R483). -/
def frozenOk (p : Page) (o : Nat) : Bool :=
  match p with
  | .dev => o == 0x1CC
  | .mgmt _ => decide (0x400 ≤ o) && decide (o < 0x420)
  | _ => false

/-- The gallery whose supervisor applies writes to a page (R474). -/
def Page.supervisor : Page → Option Nat
  | .gallery g | .drip g | .vec g => some g
  | .helper h => some (h / 2)
  | .engine e | .stream e => some (e / 4)
  | .msg ep => some (ep / 8)
  | _ => none

/-- The controller that an access through a port enters: the survivor serves a lost controller's port (R18, R418). -/
def State.entry (s : State) (port : Nat) : Ctl :=
  let c := ctlOfPort port
  if (s.mgmt c).lost then Ctl.other c else c

/-- The number after n: modulo 2^32, skipping 0 (R419). -/
def mseqNext (n : Word32) : Word32 := if n + 1 = 0 then 1 else n + 1

/-- The record that a supervisor keeps of a controller's messages (R419, R488). -/
def Gallery.mseq (x : Gallery) : Ctl → Word32
  | .W => x.mseqW
  | .E => x.mseqE
def Gallery.setMseq (x : Gallery) (c : Ctl) (n : Word32) : Gallery :=
  match c with
  | .W => { x with mseqW := n }
  | .E => { x with mseqE := n }

/-- A supervisor has already applied message n (R419). -/
def mseqOld (n record : Word32) : Bool := n - record == 0 || decide (2 ^ 31 ≤ (n - record).toNat)

/-- A write reaches the page's owner (R474-R476, R483). -/
def State.ownerPut (s : State) (port fn : Nat) (p : Page) (o : Nat) (v : Word64) : State :=
  if s.geode.frozen && !frozenOk p o then s.refuse p .divergence
  else if s.leaderless p && !frozenOk p o then s
  else if o < 0x100 then s.hdrPut p o (v.setWidth 32)
  else if !s.blkOn p then s.refuse p .badCommand
  else s.putReg port fn p o v

/-- A write through BAR0 whose page does not wait, up to its owner (R471, R473). -/
def State.bar0Put (s : State) (a : Access) (sent : State → Page → State) : State :=
  if !accessOk a.off a.size then s.refuse .dev .badCommand
  else
    match pageAt a.port a.fn a.off with
    | none => s
    | some p =>
      match p.regAt (a.off % 4096) with
      | none => s
      | some (o, w) =>
        if w ≠ a.size then s.refuse .dev .badCommand
        else
          match s.right a.port a.fn p o true with
          | .denied => s.refuse p .permission
          | .silent => s
          | .served => (sent s p).ownerPut a.port a.fn p o (if w = 4 then (a.val.setWidth 32).setWidth 64 else a.val)

/-- A write to a gallery's page is a numbered control message of the controller it enters, applied at once (R419). -/
def State.sendMessage (s : State) (c : Ctl) (p : Page) : State :=
  match p.supervisor with
  | none => s
  | some g =>
    let n := mseqNext (s.mgmt c).mseq
    (s.setMgmt c { s.mgmt c with mseq := n }).setGal g ((s.gal g).setMseq c n)

/-- The handle entry that an offset of a page holds (R273). -/
def entryAt (p : Option Page) (off : Nat) : Option (Nat × Nat) :=
  match p with
  | some (.gallery g) => if 0x800 ≤ off then some (4 * g + (off - 0x800) / 0x200, (off - 0x800) / 8 % 64) else none
  | _ => none

/-- A write waits behind a handle write of its function whose zero fill runs (R475); one to a block of a half whose controller is lost
waits at the survivor until the takeover scan ends, and later writes of its function wait behind it (R475, R489). -/
def State.bar0Write (s : State) (a : Access) : State :=
  let c := s.entry a.port
  let pg := pageAt a.port a.fn a.off
  if s.waitsFill a (entryAt pg (a.off % 4096)) then s.waitFill a
  else
    match pg with
    | none => s.bar0Put a fun s _ => s
    | some p =>
      if s.heldPage p ∨ s.heldOf a.port a.fn ≠ [] then s.setMgmt c { s.mgmt c with held := (s.mgmt c).held ++ [a] }
      else s.bar0Put a fun s p => s.sendMessage c p

/-- The writes that waited are issued again, in order; those that still must wait do (R475). -/
def State.fillDrain (s : State) : State :=
  s.dev.waitW.foldl State.bar0Write { s with dev := { s.dev with waitW := [] } }

/-- HANDLE_ZERO_FILL_DONE (R275): the entry takes effect, and the accesses behind it go on. -/
def execHandleZeroFillDone (e : Fin 64) (h : Fin 64) (s : State) : Out :=
  match (s.gal (e / 4)).htNew.find? fun p => p.1 == 64 * (e.val % 4) + h.val with
  | none => .next s
  | some p => .next (s.handleTake e h p.2.val).fillDrain

/-- REGISTER_WRITE (R10, R471, R474). -/
def execRegisterWrite (a : Access) (s : State) : Out := .next (s.bar0Write a)

/-- CONTROL_MESSAGE (R419): the supervisor of gallery g ignores a message that it has applied, and applies the write it carries
otherwise. -/
def execControlMessage (g : Fin 16) (c : Ctl) (num : Word32) (wr : Access) (s : State) : Out :=
  let x := s.gal g
  if mseqOld num (x.mseq c) then .next s
  else
    let m := s.mgmt c
    let s := s.setGal g (x.setMseq c num)
    let s := if mseqOld num m.mseq then s else s.setMgmt c { m with mseq := num }
    match pageAt wr.port wr.fn wr.off with
    | none => .next s
    | some p => .next (if p.supervisor = some g.val then s.bar0Put wr fun s _ => s else s)

/-- TAKEOVER_SCAN_COMPLETE (R419, R489): the writes held at the survivor are applied, in issue order. -/
def execTakeoverScanComplete (s : State) : Out :=
  if !s.geode.scan then .next s
  else
    let w := s.mgmtW.held ++ s.mgmtE.held
    let s := { s with geode := { s.geode with scan := false }, mgmtW := { s.mgmtW with held := [] },
                      mgmtE := { s.mgmtE with held := [] } }
    .next (w.foldl State.bar0Write s)

/-! ## Far accesses of a helper core (R319-R321) -/

/-- The page that the register window shows (R321). -/
def windowPage (h k : Nat) : Option Page :=
  let g := h / 2
  if k < 4 then some (.stream (4 * g + k))
  else if k < 8 then some (.engine (4 * g + (k - 4)))
  else if k = 8 then some (.vec g)
  else if k = 9 then some (.helper (2 * g + (1 - h % 2)))
  else if k = 10 then some (.gallery g)
  else none

/-- A byte of a page, read through the window. -/
def State.windowByte (s : State) (p : Page) (o : Nat) : Byte :=
  match p.regAt o with
  | none => 0
  | some (r, _) =>
    if 0x100 ≤ r ∧ !s.blkOn p then 0
    else
      match p with
      | .engine e =>
        if 0x800 ≤ r then
          (match (s.eng e).st with | .stopped | .halted => BitVec.ofNat 8 ((s.eng e).dbgBytes (o - 0x800) 1) | _ => 0)
        else BitVec.ofNat 8 (s.readReg p r >>> (8 * (o - r)))
      | _ => BitVec.ofNat 8 (s.readReg p r >>> (8 * (o - r)))

/-- A load from the window (R10, R321): an RC register is cleared, a DBG_WIN that shows nothing records PERMISSION (R89). -/
def State.windowLoad (s : State) (p : Page) (o n : Nat) : State × Nat :=
  let hidden : Bool :=
    match p with
    | .engine e => decide (0x800 < o + n) && s.blkOn p && (match (s.eng e).st with | .stopped | .halted => false | _ => true)
    | _ => false
  let s := if hidden then s.refuse p .permission else s
  let v := ofLe ((List.range n).map fun i => s.windowByte p (o + i))
  let regs := ((List.range n).filterMap fun i => (p.regAt (o + i)).map Prod.fst).dedup
  (regs.foldl (fun s r => s.clearRc p r) s, v)

/-- A store into the window (R321): only ENT_CTLn, STREAM.IRQ_STS and the VEC registers, each with its whole width. -/
def State.windowStore (s : State) (p : Page) (o n : Nat) (v : Word64) : State :=
  let may : Bool :=
    match p with
    | .stream _ => o == 0x018 || (decide (0x120 ≤ o) && decide (o < 0x130))
    | .vec _ => decide (0x100 ≤ o)
    | _ => false
  match p.regAt o with
  | none => s.refuse p .permission
  | some (r, w) => if !may ∨ r ≠ o ∨ w ≠ n then s.refuse p .permission else s.ownerPut 0 0 p o v

/-- The value that a load of n bytes leaves in a register. -/
def loadValue (n v : Nat) (sx : Bool) : Word64 :=
  if sx && bit v (8 * n - 1) then BitVec.ofNat 64 (v + (2 ^ 64 - 2 ^ (8 * n))) else BitVec.ofNat 64 v

/-- A run of the device's memory, loaded or stored by a helper core: the value of a load, or the refusal. -/
def State.farMem (s : State) (h d n : Nat) (store : Option Word64) : State × Except Code Nat :=
  match store with
  | none =>
    match s.devRead 0 d n with
    | (s, .ok b) => (s, .ok (ofLe b))
    | (s, .error c) => (s, .error c)
  | some v =>
    match s.devWriteBy (some h) 0 d (leBytes n v.toNat) with
    | (t, none) => (t.ringsSeen s (h / 2), .ok 0)
    | (t, some c) => (t, .error c)

/-- The outcome of a far access: a value, an access fault, or an access fault with its code in FAR_STS (R319). -/
inductive FarEnd where
  | value (v : Nat)
  | fault
  | coded (c : Code)
  deriving DecidableEq, Repr

def farEnd (r : State × Except Code Nat) : State × FarEnd :=
  match r with
  | (s, .ok v) => (s, .value v)
  | (s, .error c) => (s, .coded c)

/-- The access at an address of R319: in the own scratchpad at any address, elsewhere naturally aligned. -/
def State.farRun (s : State) (h a n : Nat) (store : Option Word64) : State × FarEnd :=
  let x := s.helper h
  let other := 2 * (h / 2) + (1 - h % 2)
  if n ≠ 1 ∧ n ≠ 2 ∧ n ≠ 4 ∧ n ≠ 8 then (s, .fault)
  else if a + n ≤ 0x80000 then farEnd (s.farMem h (hpDpa h a) n store)
  else if a % n ≠ 0 then (s, .fault)
  else
    match fld a 62 2 with
    | 0 =>
      if a < 0x100000 then
        if x.tenant = (s.helper other).tenant ∨ x.priv then farEnd (s.farMem h (hpDpa other (a - 0x80000)) n store)
        else (s, .coded .permission)
      else (s, .fault)
    | 1 =>
      if fld a 48 14 ≠ 0 then (s, .fault)
      else
        match s.xlate (some (h / 2)) x.tenant (fld a 0 48) store.isSome with
        | (s, .error c) => (s, .coded c)
        | (s, .ok d) => farEnd (s.farMem h d n store)
    | 2 =>
      let d := fld a 0 44
      if fld a 44 18 ≠ 0 ∨ !x.priv ∨ !inRegion d n then (s, .fault) else farEnd (s.farMem h d n store)
    | _ =>
      if !x.priv then (s, .fault)
      else
        match windowPage h (fld a 12 50) with
        | none => (s, .fault)
        | some p =>
          match store with
          | none => let r := s.windowLoad p (fld a 0 12) n; (r.1, .value r.2)
          | some v => (s.windowStore p (fld a 0 12) n v, .value 0)

/-- A load or store of a helper core, in an instruction of `len` bytes (R319-R321). -/
def State.farAccess (s : State) (h : Nat) (addr : Word64) (size : Nat) (store : Option Word64) (rd : Nat) (signed : Bool) (len : Nat) :
    State :=
  let cause := if store.isSome then 7 else 5
  match s.farRun h addr.toNat size store with
  | (s, .value v) => s.helperDone h (if store.isSome then 0 else rd) (loadValue size v signed) len
  | (s, .fault) => s.helperTrap h cause addr
  | (s, .coded c) => (s.setHelper h { s.helper h with farSts := c.byte }).helperTrap h cause addr

/-- HELPER_FAR_ACCESS (R319-R321). -/
def execHelperFarAccess (h : Fin 32) (addr : Word64) (size : Nat) (store : Option Word64) (rd : Fin 32) (signed short : Bool)
    (s : State) : Out :=
  .next (if s.helperFree h then s.farAccess h addr size store rd signed (if short then 2 else 4) else s)

end Sys2Proof.Machine
end

