-- ==== Sys2Proof/Machine/Dispatch.lean ====
section
/-! DEFINITION. One arm for each command: a direct call of its meaning. -/

namespace Sys2Proof.Machine

open Sys2Proof

def exec (i : Instr) (s : State) : Host.Outcome State Fault Refusal :=
  match i with
  | .registerWrite a => Sys2Proof.Machine.execRegisterWrite a s
  | .controlMessage g c num wr => Sys2Proof.Machine.execControlMessage g c num wr s
  | .acceptanceNotice slot => Sys2Proof.Machine.execAcceptanceNotice slot s
  | .startNotice slot => Sys2Proof.Machine.execStartNotice slot s
  | .commitNotice slot => Sys2Proof.Machine.execCommitNotice slot s
  | .chainSet n => Sys2Proof.Machine.execChainSet n s
  | .chainClr n => Sys2Proof.Machine.execChainClr n s
  | .chainDrainComplete n => Sys2Proof.Machine.execChainDrainComplete n s
  | .nop e => Sys2Proof.Machine.execNop e s
  | .stop e => Sys2Proof.Machine.execStop e s
  | .tcfg e => Sys2Proof.Machine.execTcfg e s
  | .tld e => Sys2Proof.Machine.execTld e s
  | .tst e => Sys2Proof.Machine.execTst e s
  | .trel e => Sys2Proof.Machine.execTrel e s
  | .madd e => Sys2Proof.Machine.execMadd e s
  | .msub e => Sys2Proof.Machine.execMsub e s
  | .mmul e => Sys2Proof.Machine.execMmul e s
  | .mmac e => Sys2Proof.Machine.execMmac e s
  | .mneg e => Sys2Proof.Machine.execMneg e s
  | .ntt e => Sys2Proof.Machine.execNtt e s
  | .intt e => Sys2Proof.Machine.execIntt e s
  | .auto e => Sys2Proof.Machine.execAuto e s
  | .bconv e => Sys2Proof.Machine.execBconv e s
  | .modup e => Sys2Proof.Machine.execModup e s
  | .moddn e => Sys2Proof.Machine.execModdn e s
  | .resc e => Sys2Proof.Machine.execResc e s
  | .ksw e => Sys2Proof.Machine.execKsw e s
  | .ringTokenTake e => Sys2Proof.Machine.execRingTokenTake e s
  | .dcmp e => Sys2Proof.Machine.execDcmp e s
  | .extp e => Sys2Proof.Machine.execExtp e s
  | .brot e => Sys2Proof.Machine.execBrot e s
  | .sxtr e => Sys2Proof.Machine.execSxtr e s
  | .kpack e => Sys2Proof.Machine.execKpack e s
  | .msw e => Sys2Proof.Machine.execMsw e s
  | .cnti e => Sys2Proof.Machine.execCnti e s
  | .cntd e => Sys2Proof.Machine.execCntd e s
  | .cmpb e => Sys2Proof.Machine.execCmpb e s
  | .twait e => Sys2Proof.Machine.execTwait e s
  | .temit e => Sys2Proof.Machine.execTemit e s
  | .fence e => Sys2Proof.Machine.execFence e s
  | .instructionRetire e => Sys2Proof.Machine.execInstructionRetire e s
  | .transferComplete e x => Sys2Proof.Machine.execTransferComplete e x s
  | .tileCfgWrite port fn e n val => Sys2Proof.Machine.execTileCfgWrite port fn e n val s
  | .engineStart e val => Sys2Proof.Machine.execEngineStart e val s
  | .engineSave e => Sys2Proof.Machine.execEngineSave e s
  | .saveComplete e => Sys2Proof.Machine.execSaveComplete e s
  | .engineRestore e => Sys2Proof.Machine.execEngineRestore e s
  | .restoreComplete e => Sys2Proof.Machine.execRestoreComplete e s
  | .stopCntWrite port fn e val => Sys2Proof.Machine.execStopCntWrite port fn e val s
  | .engineStopped e => Sys2Proof.Machine.execEngineStopped e s
  | .rndSeedWrite e val => Sys2Proof.Machine.execRndSeedWrite e val s
  | .dbgWinRead port fn e off size => Sys2Proof.Machine.execDbgWinRead port fn e off size s
  | .engineHalted e => Sys2Proof.Machine.execEngineHalted e s
  | .hsigWrite port fn g val => Sys2Proof.Machine.execHsigWrite port fn g val s
  | .slotStart e k => Sys2Proof.Machine.execSlotStart e k s
  | .src e k => Sys2Proof.Machine.execSrc e k s
  | .dst e k => Sys2Proof.Machine.execDst e k s
  | .loop e k => Sys2Proof.Machine.execLoop e k s
  | .clamp e k => Sys2Proof.Machine.execClamp e k s
  | .xform e k => Sys2Proof.Machine.execXform e k s
  | .move e k => Sys2Proof.Machine.execMove e k s
  | .slotGateResume e k => Sys2Proof.Machine.execSlotGateResume e k s
  | .emit e k => Sys2Proof.Machine.execEmit e k s
  | .kfill e k => Sys2Proof.Machine.execKfill e k s
  | .keyFillDeliver e k => Sys2Proof.Machine.execKeyFillDeliver e k s
  | .fillTokenEmit e k => Sys2Proof.Machine.execFillTokenEmit e k s
  | .nfill e k => Sys2Proof.Machine.execNfill e k s
  | .sqz e k => Sys2Proof.Machine.execSqz e k s
  | .entResume e x => Sys2Proof.Machine.execEntResume e x s
  | .entAbort e x => Sys2Proof.Machine.execEntAbort e x s
  | .dripSelftest g => Sys2Proof.Machine.execDripSelftest g s
  | .dripSelftestEnd g failed => Sys2Proof.Machine.execDripSelftestEnd g failed s
  | .dripCoreParityError g core => Sys2Proof.Machine.execDripCoreParityError g core s
  | .dripCoreEnWrite g val => Sys2Proof.Machine.execDripCoreEnWrite g val s
  | .handleWrite port fn e h val => Sys2Proof.Machine.execHandleWrite port fn e h val s
  | .handleZeroFillDone e h => Sys2Proof.Machine.execHandleZeroFillDone e h s
  | .tlbInv val => Sys2Proof.Machine.execTlbInv val s
  | .tlbInvComplete => Sys2Proof.Machine.execTlbInvComplete s
  | .flowRequest c r => Sys2Proof.Machine.execFlowRequest c r s
  | .flowFlush c val => Sys2Proof.Machine.execFlowFlush c val s
  | .flowFlushComplete c => Sys2Proof.Machine.execFlowFlushComplete c s
  | .pinDeclare k pc sym => Sys2Proof.Machine.execPinDeclare k pc sym s
  | .patrolScrub k cw errs => Sys2Proof.Machine.execPatrolScrub k cw errs s
  | .stackFail k => Sys2Proof.Machine.execStackFail k s
  | .windowOpen w => Sys2Proof.Machine.execWindowOpen w s
  | .windowClose w => Sys2Proof.Machine.execWindowClose w s
  | .windowCloseComplete w => Sys2Proof.Machine.execWindowCloseComplete w s
  | .bar2Access port fn off len data => Sys2Proof.Machine.execBar2Access port fn off len data s
  | .vnop g => Sys2Proof.Machine.execVnop g s
  | .vret g => Sys2Proof.Machine.execVret g s
  | .vsi g => Sys2Proof.Machine.execVsi g s
  | .vsadd g => Sys2Proof.Machine.execVsadd g s
  | .vbnz g => Sys2Proof.Machine.execVbnz g s
  | .vsetvl g => Sys2Proof.Machine.execVsetvl g s
  | .vsetq g => Sys2Proof.Machine.execVsetq g s
  | .vadd g => Sys2Proof.Machine.execVadd g s
  | .vsub g => Sys2Proof.Machine.execVsub g s
  | .vmul g => Sys2Proof.Machine.execVmul g s
  | .vmac g => Sys2Proof.Machine.execVmac g s
  | .vneg g => Sys2Proof.Machine.execVneg g s
  | .vcmp g => Sys2Proof.Machine.execVcmp g s
  | .vsel g => Sys2Proof.Machine.execVsel g s
  | .vmkld g => Sys2Proof.Machine.execVmkld g s
  | .vmkst g => Sys2Proof.Machine.execVmkst g s
  | .vdig g => Sys2Proof.Machine.execVdig g s
  | .vrsh g => Sys2Proof.Machine.execVrsh g s
  | .vscan g => Sys2Proof.Machine.execVscan g s
  | .vmv g => Sys2Proof.Machine.execVmv g s
  | .vld g => Sys2Proof.Machine.execVld g s
  | .vst g => Sys2Proof.Machine.execVst g s
  | .vecDispatch g => Sys2Proof.Machine.execVecDispatch g s
  | .vecHandlerTimeout g => Sys2Proof.Machine.execVecHandlerTimeout g s
  | .helperTenantWrite h val => Sys2Proof.Machine.execHelperTenantWrite h val s
  | .helperRunWrite h val => Sys2Proof.Machine.execHelperRunWrite h val s
  | .ksend h rd rs1 rs2 queue reply => Sys2Proof.Machine.execKsend h rd rs1 rs2 queue reply s
  | .krecv h rd rs1 queue reply => Sys2Proof.Machine.execKrecv h rd rs1 queue reply s
  | .ktemit h rd rs1 rs2 => Sys2Proof.Machine.execKtemit h rd rs1 rs2 s
  | .khret h => Sys2Proof.Machine.execKhret h s
  | .helperDispatch h => Sys2Proof.Machine.execHelperDispatch h s
  | .kmhostWrite h val => Sys2Proof.Machine.execKmhostWrite h val s
  | .messageDeliver ep ch => Sys2Proof.Machine.execMessageDeliver ep ch s
  | .sendWaitExpire ep ch => Sys2Proof.Machine.execSendWaitExpire ep ch s
  | .outboundSend e c => Sys2Proof.Machine.execOutboundSend e c s
  | .ringCiWrite ep q ci => Sys2Proof.Machine.execRingCiWrite ep q ci s
  | .msgRingWrite port fn ep r val => Sys2Proof.Machine.execMsgRingWrite port fn ep r val s
  | .routeEntryWrite port fn ep n val => Sys2Proof.Machine.execRouteEntryWrite port fn ep n val s
  | .sqDoorbell port fn n tail => Sys2Proof.Machine.execSqDoorbell port fn n tail s
  | .cqDoorbell port fn n head => Sys2Proof.Machine.execCqDoorbell port fn n head s
  | .sqEnWrite port fn n val => Sys2Proof.Machine.execSqEnWrite port fn n val s
  | .cqEnWrite port fn n val => Sys2Proof.Machine.execCqEnWrite port fn n val s
  | .run port fn n entry => Sys2Proof.Machine.execRun port fn n entry s
  | .mark port fn n entry => Sys2Proof.Machine.execMark port fn n entry s
  | .commandAccept slot => Sys2Proof.Machine.execCommandAccept slot s
  | .commandDispatch slot => Sys2Proof.Machine.execCommandDispatch slot s
  | .commandCommit slot => Sys2Proof.Machine.execCommandCommit slot s
  | .completionPost slot hostOk => Sys2Proof.Machine.execCompletionPost slot hostOk s
  | .journalRestartScan => Sys2Proof.Machine.execJournalRestartScan s
  | .journalEnable port val => Sys2Proof.Machine.execJournalEnable port val s
  | .journalTakeover port val => Sys2Proof.Machine.execJournalTakeover port val s
  | .failoverTimeout port => Sys2Proof.Machine.execFailoverTimeout port s
  | .journalQuery val => Sys2Proof.Machine.execJournalQuery val s
  | .flr port fn => Sys2Proof.Machine.execFlr port fn s
  | .deadlineExpire slot => Sys2Proof.Machine.execDeadlineExpire slot s
  | .cmdAbort c val => Sys2Proof.Machine.execCmdAbort c val s
  | .linkEnable n val => Sys2Proof.Machine.execLinkEnable n val s
  | .linkDisable n val => Sys2Proof.Machine.execLinkDisable n val s
  | .linkRetrain n => Sys2Proof.Machine.execLinkRetrain n s
  | .laneLockLoss n lane => Sys2Proof.Machine.execLaneLockLoss n lane s
  | .replayLimit n => Sys2Proof.Machine.execReplayLimit n s
  | .linkTrainComplete n signal pass => Sys2Proof.Machine.execLinkTrainComplete n signal pass s
  | .linkDownRetry n => Sys2Proof.Machine.execLinkDownRetry n s
  | .linkRoleWrite n val => Sys2Proof.Machine.execLinkRoleWrite n val s
  | .idle n => Sys2Proof.Machine.execIdle n s
  | .write n h xid win srcTenant off data => Sys2Proof.Machine.execWrite n h xid win srcTenant off data s
  | .token n h xid win engine q13 poison value bytes => Sys2Proof.Machine.execToken n h xid win engine q13 poison value bytes s
  | .compl n h xid status => Sys2Proof.Machine.execCompl n h xid status s
  | .wait n h xid => Sys2Proof.Machine.execWait n h xid s
  | .waitTimer xid => Sys2Proof.Machine.execWaitTimer xid s
  | .release n h srcDev slot => Sys2Proof.Machine.execRelease n h srcDev slot s
  | .ack n lseq => Sys2Proof.Machine.execAck n lseq s
  | .nak n lseq => Sys2Proof.Machine.execNak n lseq s
  | .credit n vc count => Sys2Proof.Machine.execCredit n vc count s
  | .ident n q => Sys2Proof.Machine.execIdent n q s
  | .mgmt n payload => Sys2Proof.Machine.execMgmt n payload s
  | .e2eTimeout xid => Sys2Proof.Machine.execE2eTimeout xid s
  | .routeSet val => Sys2Proof.Machine.execRouteSet val s
  | .routeSetComplete => Sys2Proof.Machine.execRouteSetComplete s
  | .devIdWrite val => Sys2Proof.Machine.execDevIdWrite val s
  | .engineCheckFail e => Sys2Proof.Machine.execEngineCheckFail e s
  | .handshakeTimeout e => Sys2Proof.Machine.execHandshakeTimeout e s
  | .engineSelftestEnd e pass => Sys2Proof.Machine.execEngineSelftestEnd e pass s
  | .errCntThreshold e => Sys2Proof.Machine.execErrCntThreshold e s
  | .engRetest g val => Sys2Proof.Machine.execEngRetest g val s
  | .heartbeat c epoch holds => Sys2Proof.Machine.execHeartbeat c epoch holds s
  | .controllerLost c => Sys2Proof.Machine.execControllerLost c s
  | .sumpRecord g r => Sys2Proof.Machine.execSumpRecord g r s
  | .sumpDrain g => Sys2Proof.Machine.execSumpDrain g s
  | .errorRecordPost c hostOk => Sys2Proof.Machine.execErrorRecordPost c hostOk s
  | .mergeIntervalExpire id => Sys2Proof.Machine.execMergeIntervalExpire id s
  | .erqEnWrite c val => Sys2Proof.Machine.execErqEnWrite c val s
  | .resolveKeepA port ring item => Sys2Proof.Machine.execResolveKeepA port ring item s
  | .resolveKeepB port ring item => Sys2Proof.Machine.execResolveKeepB port ring item s
  | .resolveDiscard port ring item => Sys2Proof.Machine.execResolveDiscard port ring item s
  | .epochResolve val => Sys2Proof.Machine.execEpochResolve val s
  | .getCerts r => Sys2Proof.Machine.execGetCerts r s
  | .attest r => Sys2Proof.Machine.execAttest r s
  | .sessionOpen r => Sys2Proof.Machine.execSessionOpen r s
  | .sessionFinish r => Sys2Proof.Machine.execSessionFinish r s
  | .sessionExpire tenant => Sys2Proof.Machine.execSessionExpire tenant s
  | .ctxSet r => Sys2Proof.Machine.execCtxSet r s
  | .ctxDestroy r => Sys2Proof.Machine.execCtxDestroy r s
  | .ctxQuery r => Sys2Proof.Machine.execCtxQuery r s
  | .rollbackCommit r => Sys2Proof.Machine.execRollbackCommit r s
  | .flashWrite r => Sys2Proof.Machine.execFlashWrite r s
  | .ownerSet r => Sys2Proof.Machine.execOwnerSet r s
  | .debugChallenge r => Sys2Proof.Machine.execDebugChallenge r s
  | .challengeExpire => Sys2Proof.Machine.execChallengeExpire s
  | .debugUnlock r => Sys2Proof.Machine.execDebugUnlock r s
  | .modmul port a b m => Sys2Proof.Machine.execModmul port a b m s
  | .modexp port a b m => Sys2Proof.Machine.execModexp port a b m s
  | .ecmul port a b => Sys2Proof.Machine.execEcmul port a b s
  | .lieAbort => Sys2Proof.Machine.execLieAbort s
  | .lieComplete hostOk => Sys2Proof.Machine.execLieComplete hostOk s
  | .setEndpointId eid => Sys2Proof.Machine.execSetEndpointId eid s
  | .getEndpointId => Sys2Proof.Machine.execGetEndpointId s
  | .getEndpointUuid => Sys2Proof.Machine.execGetEndpointUuid s
  | .getMctpVersionSupport msgType => Sys2Proof.Machine.execGetMctpVersionSupport msgType s
  | .getMessageTypeSupport => Sys2Proof.Machine.execGetMessageTypeSupport s
  | .getVendorDefinedMessageSupport selector => Sys2Proof.Machine.execGetVendorDefinedMessageSupport selector s
  | .bypass => Sys2Proof.Machine.execBypass s
  | .idcode => Sys2Proof.Machine.execIdcode s
  | .samplePreload => Sys2Proof.Machine.execSamplePreload s
  | .extest => Sys2Proof.Machine.execExtest s
  | .tapClamp => Sys2Proof.Machine.execTapClamp s
  | .highz => Sys2Proof.Machine.execHighz s
  | .tapReset asserted => Sys2Proof.Machine.execTapReset asserted s
  | .blockEnable page => Sys2Proof.Machine.execBlockEnable page s
  | .blockDisable page => Sys2Proof.Machine.execBlockDisable page s
  | .blockReset page => Sys2Proof.Machine.execBlockReset page s
  | .blockHalt page halt => Sys2Proof.Machine.execBlockHalt page halt s
  | .blockStartComplete page => Sys2Proof.Machine.execBlockStartComplete page s
  | .blockStopComplete page => Sys2Proof.Machine.execBlockStopComplete page s
  | .standbyPowerUp => Sys2Proof.Machine.execStandbyPowerUp s
  | .pwrgdRise testMode smbAddr => Sys2Proof.Machine.execPwrgdRise testMode smbAddr s
  | .bootHeartbeatTimeout => Sys2Proof.Machine.execBootHeartbeatTimeout s
  | .pwrgdFall hbmGood => Sys2Proof.Machine.execPwrgdFall hbmGood s
  | .sysRstAssert => Sys2Proof.Machine.execSysRstAssert s
  | .sysRstRelease => Sys2Proof.Machine.execSysRstRelease s
  | .perstAssert port => Sys2Proof.Machine.execPerstAssert port s
  | .perstRelease port => Sys2Proof.Machine.execPerstRelease port s
  | .referenceClockLoss r => Sys2Proof.Machine.execReferenceClockLoss r s
  | .powerEvaluation watts w0 w1 w2 w3 => Sys2Proof.Machine.execPowerEvaluation watts w0 w1 w2 w3 s
  | .throttleTempReached c temp => Sys2Proof.Machine.execThrottleTempReached c temp s
  | .hbmTemp85 k temp => Sys2Proof.Machine.execHbmTemp85 k temp s
  | .hbmTemp95 k temp => Sys2Proof.Machine.execHbmTemp95 k temp s
  | .criticalTemp die temp => Sys2Proof.Machine.execCriticalTemp die temp s
  | .prochotAssert => Sys2Proof.Machine.execProchotAssert s
  | .thermalStep c => Sys2Proof.Machine.execThermalStep c s
  | .thermalClear c => Sys2Proof.Machine.execThermalClear c s
  | .thermtrip die temp => Sys2Proof.Machine.execThermtrip die temp s
  | .rcRead port fn off size => Sys2Proof.Machine.execRcRead port fn off size s
  | .erqHeadWrite c val => Sys2Proof.Machine.execErqHeadWrite c val s
  | .flitCrcFail n => Sys2Proof.Machine.execFlitCrcFail n s
  | .pcieLinkDown port => Sys2Proof.Machine.execPcieLinkDown port s
  | .referenceClockRestore r => Sys2Proof.Machine.execReferenceClockRestore r s
  | .prochotDeassert => Sys2Proof.Machine.execProchotDeassert s
  | .controllerFaultReport c => Sys2Proof.Machine.execControllerFaultReport c s
  | .mirrorReloadComplete c => Sys2Proof.Machine.execMirrorReloadComplete c s
  | .takeoverScanComplete => Sys2Proof.Machine.execTakeoverScanComplete s
  | .doeRequest port r => Sys2Proof.Machine.execDoeRequest port r s
  | .helperFarAccess h addr size store rd signed short => Sys2Proof.Machine.execHelperFarAccess h addr size store rd signed short s

end Sys2Proof.Machine
end

