-- ==== Sys2Proof/Machine/Riscv.lean ====
section
/-! DEFINITION. The helper cores' own instructions (R318, R319, R322-R327): RV64IMAC with Zicsr and Zifencei and the Xkmsg extension, the
machine-mode CSRs, interrupts and WFI. The base instructions have no rows in the table: a core executes one of them in each cycle that passes
(log entry 59). -/

namespace Sys2Proof.Machine

open Sys2Proof

/-! ## Instruction words -/

/-- A field read as a signed number, as a register value. -/
def rvSx (bits v : Nat) : Word64 := BitVec.ofInt 64 (signed bits (v % 2 ^ bits))

def rvRd (w : Nat) : Nat := fld w 7 5
def rvF3 (w : Nat) : Nat := fld w 12 3
def rvRs1 (w : Nat) : Nat := fld w 15 5
def rvRs2 (w : Nat) : Nat := fld w 20 5
def rvF7 (w : Nat) : Nat := fld w 25 7
def rvImmI (w : Nat) : Word64 := rvSx 12 (fld w 20 12)
def rvImmS (w : Nat) : Word64 := rvSx 12 (fld w 25 7 * 32 + fld w 7 5)
def rvImmB (w : Nat) : Word64 := rvSx 13 (fld w 31 1 <<< 12 + fld w 7 1 <<< 11 + fld w 25 6 <<< 5 + fld w 8 4 <<< 1)
def rvImmU (w : Nat) : Word64 := rvSx 32 (fld w 12 20 <<< 12)
def rvImmJ (w : Nat) : Word64 := rvSx 21 (fld w 31 1 <<< 20 + fld w 12 8 <<< 12 + fld w 20 1 <<< 11 + fld w 21 10 <<< 1)

/-- Words of the formats I, R, S, B, U and J from their fields. -/
def rvI (op f3 rd rs1 imm : Nat) : Nat := (imm % 4096) <<< 20 + rs1 <<< 15 + f3 <<< 12 + rd <<< 7 + op
def rvR (op f3 f7 rd rs1 rs2 : Nat) : Nat := f7 <<< 25 + rs2 <<< 20 + rs1 <<< 15 + f3 <<< 12 + rd <<< 7 + op
def rvS (f3 rs1 rs2 imm : Nat) : Nat := fld imm 5 7 <<< 25 + rs2 <<< 20 + rs1 <<< 15 + f3 <<< 12 + fld imm 0 5 <<< 7 + 0x23
def rvB (f3 rs1 imm : Nat) : Nat :=
  fld imm 12 1 <<< 31 + fld imm 5 6 <<< 25 + rs1 <<< 15 + f3 <<< 12 + fld imm 1 4 <<< 8 + fld imm 11 1 <<< 7 + 0x63
def rvJ (rd imm : Nat) : Nat :=
  fld imm 20 1 <<< 31 + fld imm 1 10 <<< 21 + fld imm 11 1 <<< 20 + fld imm 12 8 <<< 12 + rd <<< 7 + 0x6F

/-- A signed field of a compressed instruction, widened to the field of n bits of its expansion. -/
def rvWiden (bits n v : Nat) : Nat := if bit v (bits - 1) then v + (2 ^ n - 2 ^ bits) else v

/-- The expansion of a compressed instruction of quadrant 0. -/
def rvExpand0 (c : Nat) : Option Nat :=
  let rd := 8 + fld c 2 3
  let rs := 8 + fld c 7 3
  let wImm := fld c 10 3 <<< 3 + fld c 6 1 <<< 2 + fld c 5 1 <<< 6
  let dImm := fld c 10 3 <<< 3 + fld c 5 2 <<< 6
  match fld c 13 3 with
  | 0 =>
    let imm := fld c 11 2 <<< 4 + fld c 7 4 <<< 6 + fld c 6 1 <<< 2 + fld c 5 1 <<< 3
    if imm = 0 then none else some (rvI 0x13 0 rd 2 imm)
  | 2 => some (rvI 0x03 2 rd rs wImm)
  | 3 => some (rvI 0x03 3 rd rs dImm)
  | 6 => some (rvS 2 rs rd wImm)
  | 7 => some (rvS 3 rs rd dImm)
  | _ => none

/-- The expansion of a compressed instruction of quadrant 1. -/
def rvExpand1 (c : Nat) : Option Nat :=
  let rd := fld c 7 5
  let rs := 8 + fld c 7 3
  let rt := 8 + fld c 2 3
  let u6 := fld c 12 1 <<< 5 + fld c 2 5
  let imm := rvWiden 6 12 u6
  let bImm := rvWiden 9 13 (fld c 12 1 <<< 8 + fld c 10 2 <<< 3 + fld c 5 2 <<< 6 + fld c 3 2 <<< 1 + fld c 2 1 <<< 5)
  match fld c 13 3 with
  | 0 => some (rvI 0x13 0 rd rd imm)
  | 1 => if rd = 0 then none else some (rvI 0x1B 0 rd rd imm)
  | 2 => some (rvI 0x13 0 rd 0 imm)
  | 3 =>
    if u6 = 0 then none
    else if rd = 2 then
      some (rvI 0x13 0 2 2 (rvWiden 10 12 (fld c 12 1 <<< 9 + fld c 6 1 <<< 4 + fld c 5 1 <<< 6 + fld c 3 2 <<< 7 + fld c 2 1 <<< 5)))
    else some (rvWiden 6 20 u6 <<< 12 + rd <<< 7 + 0x37)
  | 4 =>
    match fld c 10 2 with
    | 0 => some (rvI 0x13 5 rs rs u6)
    | 1 => some (rvI 0x13 5 rs rs (0x400 + u6))
    | 2 => some (rvI 0x13 7 rs rs imm)
    | _ =>
      match fld c 12 1, fld c 5 2 with
      | 0, 0 => some (rvR 0x33 0 0x20 rs rs rt)
      | 0, 1 => some (rvR 0x33 4 0 rs rs rt)
      | 0, 2 => some (rvR 0x33 6 0 rs rs rt)
      | 0, 3 => some (rvR 0x33 7 0 rs rs rt)
      | 1, 0 => some (rvR 0x3B 0 0x20 rs rs rt)
      | 1, 1 => some (rvR 0x3B 0 0 rs rs rt)
      | _, _ => none
  | 5 =>
    some (rvJ 0 (rvWiden 12 21 (fld c 12 1 <<< 11 + fld c 11 1 <<< 4 + fld c 9 2 <<< 8 + fld c 8 1 <<< 10 + fld c 7 1 <<< 6 +
      fld c 6 1 <<< 7 + fld c 3 3 <<< 1 + fld c 2 1 <<< 5)))
  | 6 => some (rvB 0 rs bImm)
  | _ => some (rvB 1 rs bImm)

/-- The expansion of a compressed instruction of quadrant 2. -/
def rvExpand2 (c : Nat) : Option Nat :=
  let rd := fld c 7 5
  let rs2 := fld c 2 5
  match fld c 13 3 with
  | 0 => some (rvI 0x13 1 rd rd (fld c 12 1 <<< 5 + fld c 2 5))
  | 2 => if rd = 0 then none else some (rvI 0x03 2 rd 2 (fld c 12 1 <<< 5 + fld c 4 3 <<< 2 + fld c 2 2 <<< 6))
  | 3 => if rd = 0 then none else some (rvI 0x03 3 rd 2 (fld c 12 1 <<< 5 + fld c 5 2 <<< 3 + fld c 2 3 <<< 6))
  | 4 =>
    if bit c 12 then
      if rs2 ≠ 0 then some (rvR 0x33 0 0 rd rd rs2) else if rd = 0 then some 0x00100073 else some (rvI 0x67 0 1 rd 0)
    else if rs2 ≠ 0 then some (rvR 0x33 0 0 rd 0 rs2)
    else if rd = 0 then none
    else some (rvI 0x67 0 0 rd 0)
  | 6 => some (rvS 2 2 rs2 (fld c 9 4 <<< 2 + fld c 7 2 <<< 6))
  | 7 => some (rvS 3 2 rs2 (fld c 10 3 <<< 3 + fld c 7 3 <<< 6))
  | _ => none

/-- The expansion of a compressed instruction (R318: the C extension of a core without floating point); none: illegal. -/
def rvExpand (c : Nat) : Option Nat :=
  match c % 4 with
  | 0 => rvExpand0 c
  | 1 => rvExpand1 c
  | 2 => rvExpand2 c
  | _ => none

/-! ## Arithmetic -/

/-- A 32-bit result, sign-extended. -/
def rvW (v : Nat) : Word64 := rvSx 32 (v % 2 ^ 32)

/-- The register-register operations of the base set; `alt`: SUB and SRA. -/
def rvAlu (f3 : Nat) (alt : Bool) (a b : Word64) : Word64 :=
  let sh := b.toNat % 64
  match f3 with
  | 0 => if alt then a - b else a + b
  | 1 => a <<< sh
  | 2 => BitVec.ofNat 64 (b2n (decide (a.toInt < b.toInt)))
  | 3 => BitVec.ofNat 64 (b2n (decide (a.toNat < b.toNat)))
  | 4 => a ^^^ b
  | 5 => if alt then a.sshiftRight sh else a >>> sh
  | 6 => a ||| b
  | _ => a &&& b

/-- The 32-bit operations ADDW, SUBW, SLLW, SRLW, SRAW. -/
def rvAluW (f3 : Nat) (alt : Bool) (a b : Word64) : Option Word64 :=
  let x := a.toNat % 2 ^ 32
  let sh := b.toNat % 32
  match f3 with
  | 0 => some (rvW (if alt then x + 2 ^ 64 - b.toNat else x + b.toNat))
  | 1 => some (rvW (x <<< sh))
  | 5 => some (if alt then BitVec.ofInt 64 (signed 32 x / (2 ^ sh : Nat)) else rvW (x >>> sh))
  | _ => none

/-- Division and remainder of the M extension, rounding towards zero; a divisor of 0 gives all ones and the dividend, and an overflow the
dividend and 0. -/
def rvDiv (f3 bits : Nat) (a b : Nat) : Int :=
  let sa := signed bits a
  let sb := signed bits b
  match f3 with
  | 4 => if b = 0 then -1 else sa.tdiv sb
  | 5 => if b = 0 then -1 else (a / b : Nat)
  | 6 => if b = 0 then sa else sa.tmod sb
  | _ => if b = 0 then (a : Int) else (a % b : Nat)

/-- The M extension. -/
def rvMul (f3 : Nat) (a b : Word64) : Word64 :=
  let high (p : Int) : Word64 := BitVec.ofInt 64 (p / (2 ^ 64 : Nat))
  match f3 with
  | 0 => a * b
  | 1 => high (a.toInt * b.toInt)
  | 2 => high (a.toInt * (b.toNat : Int))
  | 3 => high ((a.toNat : Int) * (b.toNat : Int))
  | k => BitVec.ofInt 64 (rvDiv k 64 a.toNat b.toNat)

/-- MULW, DIVW, DIVUW, REMW, REMUW. -/
def rvMulW (f3 : Nat) (a b : Word64) : Option Word64 :=
  let x := a.toNat % 2 ^ 32
  let y := b.toNat % 2 ^ 32
  match f3 with
  | 0 => some (rvW (x * y))
  | 1 | 2 | 3 => none
  | k => some (rvW (rvDiv k 32 x y % (2 ^ 32 : Nat)).toNat)

/-- A condition of a branch. -/
def rvTaken (f3 : Nat) (a b : Word64) : Option Bool :=
  match f3 with
  | 0 => some (a == b)
  | 1 => some (a != b)
  | 4 => some (decide (a.toInt < b.toInt))
  | 5 => some (decide (b.toInt ≤ a.toInt))
  | 6 => some (decide (a.toNat < b.toNat))
  | 7 => some (decide (b.toNat ≤ a.toNat))
  | _ => none

/-- The value that an AMO writes, from the old value and rs2, both of `bits` bits. -/
def rvAmo (f5 bits a b : Nat) : Option Nat :=
  match f5 with
  | 0x00 => some ((a + b) % 2 ^ bits)
  | 0x01 => some b
  | 0x04 => some (a ^^^ b)
  | 0x08 => some (a ||| b)
  | 0x0C => some (a &&& b)
  | 0x10 => some (if signed bits a ≤ signed bits b then a else b)
  | 0x14 => some (if signed bits b ≤ signed bits a then a else b)
  | 0x18 => some (min a b)
  | 0x1C => some (max a b)
  | _ => none

/-! ## CSRs (R318, R322, R327) -/

/-- The machine CSRs that hold what is written, with the bits that do: mstatus MIE and MPIE, mie, mtvec, mscratch, mepc, mcause, mtval, and
of mip the WATCH bit (log entry 59). -/
def rvCsrMask (n : Nat) : Option Word64 :=
  match n with
  | 0x300 => some 0x88
  | 0x304 => some 0x70888
  | 0x305 => some 0xFFFFFFFFFFFFFFFD
  | 0x340 | 0x342 | 0x343 => some 0xFFFFFFFFFFFFFFFF
  | 0x341 => some 0xFFFFFFFFFFFFFFFE
  | 0x344 => some 0x20000
  | _ => none

/-- A CSR that reads as a constant of the device. -/
def rvCsrConst (n : Nat) : Bool := n == 0x301 || (decide (0xF11 ≤ n) && decide (n ≤ 0xF15))

/-- A counter, event selector or inhibit register that this core does not have beside mcycle and minstret: zero, and writes do nothing. -/
def rvCsrZero (n : Nat) : Bool :=
  n == 0x320 || (decide (0x323 ≤ n) && decide (n ≤ 0x33F)) || (decide (0xB03 ≤ n) && decide (n ≤ 0xB1F))

/-- A CSR as helper core h reads it; none: it does not exist. mcycle is the island counter (R318); a read of kmhost is not stated: a free
value. -/
def State.rvCsrRead (s : State) (h n : Nat) : Option Word64 :=
  let x := s.helper h
  if rvCsrConst n then some (Config.helperId h n)
  else if rvCsrZero n then some 0
  else
    match n with
    | 0x300 => some (x.csrOf 0x300 ||| 0x1800)
    | 0x344 => some (s.mipOf h)
    | 0xB00 => some (BitVec.ofNat 64 (s.cyc (islHelper (h / 2))))
    | 0xB02 => some (x.csrOf 0xB02)
    | 0x7C0 => some (BitVec.ofNat 64 (b2n x.de + 2 * b2n x.inh))
    | 0x7C1 => some x.kmepc
    | 0x7C2 => some x.kmhdr
    | 0x7C3 => some x.kmbuf
    | 0x7C4 => some x.kmhtab
    | 0x7C5 => some (BitVec.ofNat 64 (s.free 0))
    | n => (rvCsrMask n).map fun _ => x.csrOf n

/-- A write of a CSR that exists. minstret counts the writing instruction after it. -/
def State.rvCsrWrite (s : State) (h n : Nat) (v : Word64) : State :=
  let x := s.helper h
  match n with
  | 0xB02 => s.setHelper h { x with csr := tset x.csr 0xB02 (v - 1) }
  | 0x7C0 => s.setHelper h { x with de := v.getLsbD 0 }
  | 0x7C1 => s.setHelper h { x with kmepc := v &&& ~~~1#64 }
  | 0x7C3 => s.setHelper h { x with kmbuf := v &&& 0x7FF00 }
  | 0x7C4 => s.setHelper h { x with kmhtab := v &&& 0x7FFF8 }
  | 0x7C5 => s.kmhost h v
  | n =>
    match rvCsrMask n with
    | some m => s.setHelper h { x with csr := tset x.csr n ((x.csrOf n &&& ~~~m) ||| (v &&& m)) }
    | none => s

/-! ## Execution -/

/-- An illegal instruction: exception 2, whose mtval is free (log entry 59). -/
def State.rvIllegal (s : State) (h : Nat) : State := (s.helperTrap h 2 (BitVec.ofNat 64 (s.free 0))).drawn

/-- rd takes a value and the next instruction follows, `len` bytes on. -/
def State.rvSet (s : State) (h rd len : Nat) (v : Word64) : State := s.helperDone h rd v len

/-- rd takes a value and the next instruction is at `target`. -/
def State.rvJump (s : State) (h rd : Nat) (v target : Word64) : State :=
  (s.setHelper h { s.helper h with pc := target &&& ~~~1#64 }).helperDone h rd v 0

/-- CSRRW, CSRRS, CSRRC and their immediate forms (Zicsr). -/
def State.rvCsrOp (s : State) (h w len : Nat) : State :=
  let x := s.helper h
  let n := fld w 20 12
  let f := rvF3 w
  let a := if 4 ≤ f then BitVec.ofNat 64 (rvRs1 w) else x.xr (rvRs1 w)
  let writes := f % 4 == 1 || rvRs1 w != 0
  match s.rvCsrRead h n with
  | none => s.rvIllegal h
  | some old =>
    if writes ∧ fld n 10 2 = 3 then s.rvIllegal h
    else
      let new := if f % 4 = 1 then a else if f % 4 = 2 then old ||| a else old &&& ~~~a
      let s := if n = 0x7C5 then s.drawn else s
      (if writes then s.rvCsrWrite h n new else s).rvSet h (rvRd w) len old

/-- ECALL, EBREAK, MRET and WFI of machine mode (R318, R327). The mtval of an EBREAK is free. -/
def State.rvSystem (s : State) (h w len : Nat) : State :=
  let x := s.helper h
  match w with
  | 0x00000073 => s.helperTrap h 11 0
  | 0x00100073 => (s.helperTrap h 3 (BitVec.ofNat 64 (s.free 0))).drawn
  | 0x30200073 =>
    let st := (x.csrOf 0x300).toNat
    let st' := (st &&& (2 ^ 64 - 1 - 0x88)) ||| b2n (bit st 7) <<< 3 ||| 0x80
    (s.setHelper h { x with csr := tset x.csr 0x300 (BitVec.ofNat 64 st') }).rvJump h 0 0 (x.csrOf 0x341)
  | 0x10500073 =>
    let s := s.rvSet h 0 len 0
    s.setHelper h { s.helper h with wfi := (s.helper h).running }
  | _ => s.rvIllegal h

/-- LR, SC and the AMOs (R319): in the own scratchpad only; elsewhere they raise an access fault. -/
def State.rvAtomic (s : State) (h w : Nat) : State :=
  let x := s.helper h
  let f5 := fld w 27 5
  let addr := x.xr (rvRs1 w)
  let a := addr.toNat
  let n := if rvF3 w = 2 then 4 else 8
  let rs2 := (x.xr (rvRs2 w)).toNat % 2 ^ (8 * n)
  let load := f5 == 2
  if (rvF3 w ≠ 2 ∧ rvF3 w ≠ 3) ∨ (load ∧ rvRs2 w ≠ 0) ∨ (!load ∧ f5 ≠ 3 ∧ (rvAmo f5 8 0 0).isNone) then s.rvIllegal h
  else if 0x80000 ≤ a then s.helperTrap h (if load then 5 else 7) addr
  else if a % n ≠ 0 then s.helperTrap h (if load then 4 else 6) addr
  else
    let old := s.num (hpDpa h a) n
    let put (s : State) (v : Nat) : State := (s.devWriteBy (some h) 0 (hpDpa h a) (leBytes n v)).1.ringsSeen s (h / 2)
    let keep := x.lr == some (a / 8 * 8)
    let ended (s : State) : State := s.setHelper h { s.helper h with lr := none }
    if load then (s.setHelper h { x with lr := some (a / 8 * 8) }).rvSet h (rvRd w) 4 (loadValue n old true)
    else if f5 = 3 then
      if keep then (put (ended s) rs2).rvSet h (rvRd w) 4 0 else (ended s).rvSet h (rvRd w) 4 1
    else
      match rvAmo f5 (8 * n) old rs2 with
      | some v => (put s v).rvSet h (rvRd w) 4 (loadValue n old true)
      | none => s.rvIllegal h

/-- A register-register instruction. -/
def State.rvOp (s : State) (h w len : Nat) (word : Bool) : State :=
  let x := s.helper h
  let a := x.xr (rvRs1 w)
  let b := x.xr (rvRs2 w)
  let f := rvF3 w
  let r : Option Word64 :=
    match rvF7 w with
    | 0x00 => if word then rvAluW f false a b else some (rvAlu f false a b)
    | 0x20 => if f = 0 ∨ f = 5 then (if word then rvAluW f true a b else some (rvAlu f true a b)) else none
    | 0x01 => if word then rvMulW f a b else some (rvMul f a b)
    | _ => none
  match r with
  | some v => s.rvSet h (rvRd w) len v
  | none => s.rvIllegal h

/-- A register-immediate instruction: shifts by a constant have the other bits of their immediate fixed. -/
def State.rvOpImm (s : State) (h w len : Nat) (word : Bool) : State :=
  let a := (s.helper h).xr (rvRs1 w)
  let f := rvF3 w
  let top := if word then fld w 25 7 else fld w 26 6 * 2
  let alt := f == 5 && top == 0x20
  if (f = 1 ∧ top ≠ 0) ∨ (f = 5 ∧ top ≠ 0 ∧ top ≠ 0x20) then s.rvIllegal h
  else
    match (if word then rvAluW f alt a (rvImmI w) else some (rvAlu f alt a (rvImmI w))) with
    | some v => s.rvSet h (rvRd w) len v
    | none => s.rvIllegal h

/-- An instruction of the custom-0 opcode (R323); any other encoding of it is illegal. -/
def State.rvXkmsg (s : State) (h w : Nat) : State :=
  match xkmsgOf (Fin.ofNat 32 h) w with
  | some (.ksend _ rd rs1 rs2 queue reply) => s.ksend h rd rs1 rs2 queue reply
  | some (.krecv _ rd rs1 queue reply) => s.krecv h rd rs1 ((if reply then 4 else 0) + queue.val)
  | some (.ktemit _ rd rs1 rs2) => s.ktemit h rd rs1 rs2
  | some (.khret _) => s.khret h
  | _ => s.rvIllegal h

/-- One instruction word at pc, of `len` bytes before expansion (R318). -/
def State.rvExec (s : State) (h w len : Nat) : State :=
  let x := s.helper h
  let rd := rvRd w
  let f := rvF3 w
  let a := x.xr (rvRs1 w)
  let next := x.pc + BitVec.ofNat 64 len
  match fld w 0 7 with
  | 0x37 => s.rvSet h rd len (rvImmU w)
  | 0x17 => s.rvSet h rd len (x.pc + rvImmU w)
  | 0x6F => s.rvJump h rd next (x.pc + rvImmJ w)
  | 0x67 => if f = 0 then s.rvJump h rd next (a + rvImmI w) else s.rvIllegal h
  | 0x63 =>
    match rvTaken f a (x.xr (rvRs2 w)) with
    | some true => s.rvJump h 0 0 (x.pc + rvImmB w)
    | some false => s.rvSet h 0 len 0
    | none => s.rvIllegal h
  | 0x03 => if f = 7 then s.rvIllegal h else s.farAccess h (a + rvImmI w) (2 ^ (f % 4)) none rd (decide (f < 4)) len
  | 0x23 => if 4 ≤ f then s.rvIllegal h else s.farAccess h (a + rvImmS w) (2 ^ f) (some (x.xr (rvRs2 w))) 0 false len
  | 0x13 => s.rvOpImm h w len false
  | 0x1B => s.rvOpImm h w len true
  | 0x33 => s.rvOp h w len false
  | 0x3B => s.rvOp h w len true
  | 0x2F => s.rvAtomic h w
  | 0x0F => if f ≤ 1 then s.rvSet h 0 len 0 else s.rvIllegal h
  | 0x73 => if f = 0 then s.rvSystem h w len else if f = 4 then s.rvIllegal h else s.rvCsrOp h w len
  | 0x0B => s.rvXkmsg h w
  | _ => s.rvIllegal h

/-- The core fetches its next instruction, from its own scratchpad only, and executes it (R318, R319). -/
def State.rvNext (s : State) (h : Nat) : State :=
  let a := (s.helper h).pc.toNat
  let fault (b : Nat) : State := s.helperTrap h 1 (BitVec.ofNat 64 b)
  if 0x80000 ≤ a + 1 then fault a
  else
    let c := s.num (hpDpa h a) 2
    if c % 4 ≠ 3 then
      match rvExpand c with
      | some w => s.rvExec h w 2
      | none => s.rvIllegal h
    else if 0x80000 ≤ a + 3 then fault (a + 2)
    else s.rvExec h (s.num (hpDpa h a) 4) 4

/-- The interrupt that a helper core takes next: the lowest-numbered pending bit that mie enables (R322; log entry 59). -/
def State.rvIrq (s : State) (h : Nat) : Option Nat :=
  let m := s.mipOf h &&& (s.helper h).csrOf 0x304
  (List.range 64).find? m.getLsbD

/-- Interrupts that mstatus.MIE enables are taken at an instruction boundary; out of a KRECV that blocks, mepc is the KRECV (R325). While
the core waits in a send, its instruction ends later and mepc is the one after it (R343). -/
def State.rvTakeIrq (s : State) (h : Nat) : State :=
  let x := s.helper h
  match s.rvIrq h with
  | some n =>
    if !(x.csrOf 0x300).getLsbD 3 then s.setHelper h { x with wfi := false }
    else
      let tvec := (x.csrOf 0x305).toNat
      let target := BitVec.ofNat 64 (tvec / 4 * 4 + if tvec % 4 = 1 then 4 * n else 0)
      let waits := s.helperWaits h
      let y := x.enter (if waits then x.pc + 4 else x.pc) (BitVec.ofNat 64 (2 ^ 63 + n)) 0 target
      s.setHelper h { y with held := waits }
  | none => s

/-- One cycle of a helper core (R318, R325-R327, R330, R343, R354): the counters of its state advance; a KTEMIT that waits is tried again; a
dispatch or an interrupt is taken, or the next instruction is executed. -/
def State.helperCycle (s : State) (h : Nat) : State :=
  let p : Page := .helper h
  let x := s.helper h
  let ep := epOfHelper h
  if !x.running ∨ !s.blkOn p then s
  else
    let s := s.event p 1 1
    let s := if s.helperWaits h then s.event p 5 1 else s
    let s := if x.blocked then (s.event p 6 1).setMsg ep (((s.event p 6 1).msg ep).count x.recv.2.2 3 1) else s
    let s := s.ktRetry h
    if s.helperWaits h then s.rvTakeIrq h
    else if !(s.helper h).run then s
    else
      let t := (s.helperDispatch h).rvTakeIrq h
      let y := t.helper h
      if y.wfi then t
      else if y.blocked then t.krecv h y.recv.1 y.recv.2.1 y.recv.2.2
      else t.rvNext h

end Sys2Proof.Machine
end

