-- ==== Sys2Proof/Machine/Idle.lean ====
section
/-! DEFINITION. What a cycle brings to a block whose queue of commands is empty (R25, R80, R90, R96, R214, R267, R275, R478). -/

namespace Sys2Proof.Machine

open Sys2Proof

/-- An issue cycle in which the next instruction waits for a token, or behind a TCFG that waits, is counted (R90); a queue of messages whose
tokens it waits for counts RBLOCK (R354). -/
def State.issueStall (s : State) (e : Nat) : State :=
  let x := s.eng e
  let i := insOf x.fetch
  if !s.canIssue e ∨ i.malformed (s.chainOk i.chain && (s.chainOf i.chain).split) ∨ i.badQueue then s
  else if !x.tokensReady i then
    let lacks (q : Nat) : Bool := decide ((x.queue q).length < i.waits.count q)
    let ep := epOfEngine e
    let m := s.msg ep
    let m := (List.range 8).foldl (fun m c => if ringValid (m.ring c) ∧ lacks (if m.tokq.getLsbD c then 13 else 12) then m.count c 3 1 else m) m
    (s.event (.engine e) 3 1).setMsg ep m
  else if i.opc = 0x08 ∧ !s.interlock e i then s.event (.engine e) 4 1
  else s

/-- What a cycle brings to an engine and its stream unit (R80, R90, R214, R267; log entries 7 and 119): its Drip assembles and begins fills,
TILE_CFG writes that waited are tried again, and the counters of cycles advance. -/
def State.engineCycle (s : State) (e : Nat) : State :=
  let s := (List.range 4).foldl (fun s n => s.kfCycle e n) (s.cfgDrain e)
  let s := if (s.eng e).st = .running then (s.event (.engine e) 1 1).issueStall e else s
  let s := if (List.range 4).any fun n => (s.xfer e n).kind != .free then s.event (.stream e) 1 1 else s
  let parked := ((List.range 4).filter fun n => (s.slotOf e n).st == .parked).length
  if parked = 0 then s else s.event (.stream e) 6 parked

/-- A cycle in which fetching pauses for want of a slot is counted (R371, R386). -/
def State.journalCycle (s : State) : State :=
  let waits : Bool := (List.range 128).any fun k => (s.fn (k / 64) (k % 64)).sq.any fun x => x.2.en && !x.2.err && x.2.head != x.2.tail
  if s.journal.en && waits && s.nextSlot.isNone then s.event .journal 7 1 else s

/-- Link cycles with a flit waiting and no credit, and cycles in which the reorder window holds back a flit that came on the link (R407). -/
def State.linkCycle (s : State) (n : Nat) : State :=
  let x := s.link n
  let y := s.bundle x.bundleEff
  let waits := x.st == .active && ((y.resend ++ y.tx.map Prod.snd).any fun f => s.linkCarries n f && x.credit f.hdr.vc == 0)
  let s := if waits then s.event (.link n) 5 1 else s
  if y.held.any fun p => p.1 == n then s.event (.link n) 9 1 else s

/-- One cycle on an empty queue (R25, R478; log entries 7 and 74): the islands' counters advance, a block one cycle past OFF starts,
engines, Drips, helper cores and accesses that wait go on, and the Geode goes on with an unlock and with destructions that wait, unless a reset holds the
islands (R458). -/
def State.idleCycle (s : State) : State :=
  let s := s.tick.pendingStarts
  let vecs (s : State) (g : Nat) : State := if (s.vec g).run.isSome then s.event (.vec g) 1 1 else s
  if s.outOfReset then (((s.each 64 State.engineCycle).each 32 State.helperCycle).each 16 vecs |>.each 64 State.linkCycle).journalCycle.replayDrain.fillDrain.unlockFinish.destroyWaiting else s

end Sys2Proof.Machine
end

