-- ==== Sys2Proof/WellFormed.lean ====
section
/-! DEFINITION. Well-formed commands: the sizes that the spec fixes for data that comes with a command. A command's meaning
does not ask for them: what the spec says of an ill-formed one is part of the meaning. -/

namespace Sys2Proof

/-- The bytes of a write are as many as its length says. -/
def dataFits (len : Nat) (data : Option Bytes) : Bool :=
  match data with
  | none => true
  | some b => b.length == len

/-- The command's data has the sizes that the spec fixes. -/
def Instr.wf : Instr → Bool
  | .registerWrite a => a.size == 4 || a.size == 8
  | .controlMessage _ _ num _ => num != 0
  | .dbgWinRead _ _ _ off size => (size == 4 || size == 8) && off.val % size == 0
  | .flowRequest _ r => dataFits r.len r.data && decide (0 < r.len)
  | .patrolScrub _ cw _ => decide (cw < 2 ^ 30)
  | .bar2Access _ _ _ len data => dataFits len data && decide (0 < len)
  | .write _ _ _ _ _ _ data => decide (1 ≤ data.length) && decide (data.length ≤ 480)
  | .ident _ (.nonce n) => n.length == 32
  | .helperFarAccess _ _ size _ _ _ _ => size == 1 || size == 2 || size == 4 || size == 8
  | .rcRead _ _ _ size => size == 4 || size == 8
  | _ => true

end Sys2Proof
end

