-- ==== Sys2Proof/Safety.lean ====
section
/-! DEFINITION. What claims about the block are stated in: when a page takes a write, when an instruction issues and what its issue
leaves, what a command leaves unchanged, and the ranges that registers keep. -/

namespace Sys2Proof.Machine

open Sys2Proof

/-- A page's registers take writes: no takeover scan holds them, management is not frozen, a controller holds the epoch where the page
needs one, the block is ON (R19, R476, R483, R489). -/
def State.takes (s : State) (p : Page) : Bool := !s.heldPage p && !s.geode.frozen && !s.leaderless p && s.blkOn p

/-- Accesses of a function through a port wait for nothing: no zero fill of its handle writes runs, and no write of it is held (R275, R475). -/
def State.direct (s : State) (port : Fin 2) (fn : Fin 64) : Prop := s.behindFill port fn = false ∧ s.heldOf port fn = []

/-- The instruction at engine e's program counter has the opcode and issues (R91, R123): s1 is the state with its tokens removed, its
number and index taken, x what its own part receives. -/
def Issues (s : State) (e opc : Nat) (s1 : State) (x : Iss) : Prop := s.issue e (fun o => o == opc) = .go s1 x

/-- The instruction has run: its entry follows the others in the window with its word, index and number, and it has no fault (R92,
R100). -/
def Ran (s t : State) (e : Nat) : Prop :=
  ∃ v, (t.eng e).window = (s.eng e).window ++ [v] ∧ v.word = (s.eng e).fetch ∧ v.pc = (s.eng e).pc ∧
    v.seq = (s.eng e).issued + 1 ∧ v.fault = none ∧ v.skipped = false ∧ (t.eng e).issued = (s.eng e).issued + 1

/-- The instruction holds transfer entry n (R131): of a kind, under its number. -/
def TakesEntry (s t : State) (e n : Nat) (k : EntKind) : Prop :=
  (t.xfer e n).kind = k ∧ (t.xfer e n).seq = (s.eng e).issued + 1 ∧ (t.eng e).issued = (s.eng e).issued + 1

/-- A tile holds a configuration that R65 admits, or none where ROWS is 0 (R64, R66). -/
def TileIs (y : Engine) (n : Nat) (v : TileCfg) : Prop :=
  (y.tile n).cfg = (v.rows != 0) ∧
    (v.rows ≠ 0 → (y.tile n).base = v.base ∧ (y.tile n).span = v.span ∧ (y.tile n).key = v.key ∧ (y.tile n).rows = v.rows ∧
      (y.tile n).rowb = v.rowb ∧ (y.tile n).member = false)

/-- A slot's instruction has the operation sop and may run: the slot executes, owes no token, and has an entry, needs none or finds a free
one (R241, R243). -/
def State.slotReady (s : State) (e n sop : Nat) : Bool :=
  let x := s.slotOf e n
  s.strmLive e && x.live && decide (x.pc < x.ninstr) && x.out.isEmpty && sopOf x.instr == sop && (s.needEnt e n).isSome

/-- The next instruction of the handler r that runs on vector engine g is the word w of opcode opc, and w is no word that ends its handler
(R306, R307, R313). -/
def VecAt (s : State) (g opc : Nat) (r : Handler) (w : Nat) : Prop :=
  (s.vec g).run = some r ∧ ((s.hdr (.vec g)).pstate = .on ∨ (s.hdr (.vec g)).pstate = .stopping) ∧ s.vecFetch g r = .ok w ∧
    fld w 56 8 = opc ∧ vecBad w = false

/-- The vector engine after an instruction that goes on at pc: one more instruction retired (R304, R307). -/
def Vec.next (x : Vec) (r : Handler) (pc : Nat) : Vec := { x with vseq := x.vseq + 1, run := some { r with pc := pc } }

/-- A vector result (R306): element i of the n elements at DPA d holds v i where the mask selects it and is unchanged elsewhere. -/
def VecResult (s t : State) (g w d n : Nat) (v : Nat → Nat) : Prop :=
  ∀ i, i < n → memRun t.mem 0 (d + i * vE w) (vE w) =
    if vMs w = 0 ∨ ((s.vec g).mk_ (vMs w)).getLsbD i = true then leBytes (vE w) (v i) else memRun s.mem 0 (d + i * vE w) (vE w)

/-- An end-to-end flit arrives in its turn for this device: on an ACTIVE link, with the LSEQ and the BSN expected next, nothing held back
(R390, R397, R400). -/
def InTurn (s : State) (n : Nat) (h : FlitHdr) : Prop :=
  (s.link n).st = .active ∧ h.lseq = (s.link n).rxLseq ∧ h.bsn = (s.bundle (s.link n).bundleEff).rxBsn ∧
    (s.bundle (s.link n).bundleEff).held = [] ∧ s.dev.ownId = some h.dest.val

/-- A mailbox request that meets no refusal before its own meaning: the Geode and the port serve, the mailbox is free, the lengths and the
version are right, no unlock runs, management is not frozen (R442, R443, R457, R483, R485). -/
def ReqReady (s : State) (r : MReq) (p : Fin 2) : Prop :=
  s.geodeUp = true ∧ r.via = .mbox p ∧ s.portServes p = true ∧ (s.mbox p).busy = false ∧
    (s.mbox p).reqLen.toNat ≤ 65536 ∧ 16 + r.payload.length ≤ 65536 ∧ r.mver = 1 ∧ s.geode.unlock = none ∧ s.geode.frozen = false

/-- The mailbox has its answer (R442): the response stands at RSP_ADDR with its code and length in STS and RSP_LEN and the interrupt raised;
one larger than RSP_MAX is a header with BAD_COMMAND. -/
def Answered (s t : State) (r : MReq) (p opc : Nat) (code : Code) (payload : Bytes) : Prop :=
  let big := decide ((s.mbox p).rspMax.toNat < 16 + payload.length)
  let c := if big then Code.badCommand else code
  let b := if big then [] else payload
  memRun t.hostOut 0 (2 ^ 64 * p + (s.mbox p).rspAddr.toNat) (16 + b.length) = respBytes 1 opc c r.tag b ∧ (t.mbox p).busy = false ∧
    (t.mbox p).code = c.byte ∧ (t.mbox p).rspLen = 16 + b.length ∧ (t.hdr .geode).irqSts.getLsbD p = true

/-- Every byte outside [a, a + n) of the device's memory reads as before. -/
def SameMemOutside (s t : State) (a n : Nat) : Prop := ∀ b, b < a ∨ a + n ≤ b → memGet t.mem 0 b = memGet s.mem 0 b

/-- No line of a Flowstone slice can bring back older bytes when it leaves: its stack works, and each part of which HBM holds other bytes is
dirty (R282, R284, R414). -/
def SlicesClean (s : State) : Prop :=
  ∀ c, ∀ l ∈ (s.flow c).lines, (s.hbmc (stackOf l.dpa)).failed = false ∧ ∀ p ∈ l.shadow, p.1 ∈ l.dirty

/-- The parts of the machine's state: the fields of `State`. -/
inductive Part where
  | mem | ue | hdrs | cycles | dev | geode | mgmtW | mgmtE | journal | lie | ports | fns | links | bundles | caverns
  | flows | hbmcs | galleries | drips | vecs | helpers | engines | streams | msgs | pins | tap | hostOut | hostReq | msix
  | lastRead | sideband | freeCtr | outs | pending
  deriving DecidableEq, Repr

/-- A part is the same in two states. -/
def Part.same (p : Part) (s t : State) : Prop :=
  match p with
  | .mem => t.mem = s.mem | .ue => t.ue = s.ue | .hdrs => t.hdrs = s.hdrs | .cycles => t.cycles = s.cycles
  | .dev => t.dev = s.dev | .geode => t.geode = s.geode | .mgmtW => t.mgmtW = s.mgmtW | .mgmtE => t.mgmtE = s.mgmtE
  | .journal => t.journal = s.journal | .lie => t.lie = s.lie | .ports => t.ports = s.ports | .fns => t.fns = s.fns
  | .links => t.links = s.links | .bundles => t.bundles = s.bundles | .caverns => t.caverns = s.caverns
  | .flows => t.flows = s.flows | .hbmcs => t.hbmcs = s.hbmcs | .galleries => t.galleries = s.galleries
  | .drips => t.drips = s.drips | .vecs => t.vecs = s.vecs | .helpers => t.helpers = s.helpers
  | .engines => t.engines = s.engines | .streams => t.streams = s.streams | .msgs => t.msgs = s.msgs | .pins => t.pins = s.pins
  | .tap => t.tap = s.tap | .hostOut => t.hostOut = s.hostOut | .hostReq => t.hostReq = s.hostReq | .msix => t.msix = s.msix | .lastRead => t.lastRead = s.lastRead
  | .sideband => t.sideband = s.sideband | .freeCtr => t.freeCtr = s.freeCtr | .outs => t.outs = s.outs | .pending => t.pending = s.pending

/-- Only the parts listed may differ. -/
def Changes (ps : List Part) (s t : State) : Prop := ∀ p : Part, p ∉ ps → p.same s t

/-- The parts that a command may change, by the rules of its meaning and of what it sets going; no command changes the queue. -/
def mayChange : Instr → List Part
  | .registerWrite _ | .controlMessage _ _ _ _ | .handleZeroFillDone _ _ | .takeoverScanComplete
  | .helperFarAccess _ _ _ _ _ _ _ =>
    [.mem, .ue, .hdrs, .dev, .geode, .mgmtW, .mgmtE, .journal, .lie, .ports, .fns, .links, .bundles, .caverns, .flows,
     .hbmcs, .galleries, .drips, .vecs, .helpers, .engines, .streams, .msgs, .hostOut, .hostReq, .msix, .freeCtr, .outs]
  | .acceptanceNotice _ | .deadlineExpire _ => [.mem, .ue, .hdrs, .journal, .flows, .hbmcs, .galleries, .helpers]
  | .startNotice _ | .commitNotice _ | .sumpRecord _ _ => [.galleries]
  | .chainSet _ | .windowOpen _ | .routeSet _ => [.mem, .ue, .hdrs, .dev, .flows, .hbmcs, .msix, .freeCtr]
  | .chainClr _ | .tlbInv _ | .windowClose _ | .devIdWrite _ => [.hdrs, .dev, .msix, .freeCtr]
  | .chainDrainComplete _ | .windowCloseComplete _ | .routeSetComplete => [.dev]
  | .nop _ | .tcfg _ | .cnti _ | .cntd _ | .cmpb _ | .temit _ | .fence _ | .engineStopped _ | .engineHalted _ => [.engines]
  | .stop _ | .transferComplete _ _ => [.mem, .ue, .hdrs, .flows, .hbmcs, .galleries, .helpers, .engines, .streams, .outs]
  | .tld _ => [.mem, .ue, .hdrs, .flows, .hbmcs, .galleries, .helpers, .engines, .streams, .msix, .outs]
  | .tst _ | .resc _ | .ksw _ | .ringTokenTake _ | .sqz _ _ | .entResume _ _ | .entAbort _ _ =>
    [.mem, .ue, .hdrs, .flows, .hbmcs, .galleries, .helpers, .engines, .streams, .msix, .freeCtr, .outs]
  | .trel _ | .slotStart _ _ | .slotGateResume _ _ | .fillTokenEmit _ _ => [.engines, .streams]
  | .madd _ | .msub _ | .mmul _ | .mmac _ | .mneg _ | .ntt _ | .intt _ | .auto _ | .bconv _ | .modup _ | .moddn _ | .dcmp _
  | .sxtr _ | .msw _ => [.hdrs, .engines, .freeCtr]
  | .extp _ | .brot _ | .kpack _ => [.mem, .ue, .hdrs, .flows, .hbmcs, .galleries, .helpers, .engines, .freeCtr, .outs]
  | .twait _ => [.mem, .ue, .hdrs, .flows, .hbmcs, .galleries, .helpers, .engines, .msix, .outs]
  | .instructionRetire _ => [.hdrs, .galleries, .engines]
  | .tileCfgWrite _ _ _ _ _ | .engineSave _ | .stopCntWrite _ _ _ _ | .rndSeedWrite _ _ | .blockHalt _ _ =>
    [.hdrs, .engines, .msix, .freeCtr]
  | .engineStart _ _ => [.mem, .ue, .hdrs, .dev, .flows, .hbmcs, .galleries, .engines, .streams, .msix, .freeCtr]
  | .saveComplete _ => [.mem, .ue, .hdrs, .flows, .hbmcs, .galleries, .drips, .helpers, .engines, .streams]
  | .engineRestore _ => [.mem, .ue, .hdrs, .flows, .hbmcs, .galleries, .drips, .engines, .streams, .msix, .freeCtr]
  | .restoreComplete _ => [.mem, .ue, .hdrs, .flows, .hbmcs, .galleries, .drips, .engines, .streams, .freeCtr]
  | .dbgWinRead _ _ _ _ _ => [.hdrs, .msix, .lastRead, .freeCtr]
  | .hsigWrite _ _ _ _ => [.hdrs, .galleries, .engines, .msix, .freeCtr]
  | .src _ _ | .dst _ _ | .loop _ _ | .clamp _ _ | .xform _ _ => [.streams]
  | .move _ _ =>
    [.mem, .ue, .hdrs, .dev, .mgmtW, .mgmtE, .links, .bundles, .flows, .hbmcs, .galleries, .helpers, .engines, .streams,
     .msgs, .msix, .freeCtr, .outs]
  | .emit _ _ | .write _ _ _ _ _ _ _ | .token _ _ _ _ _ _ _ _ _ | .compl _ _ _ _ | .wait _ _ _ | .waitTimer _
  | .release _ _ _ _ | .e2eTimeout _ =>
    [.mem, .ue, .hdrs, .dev, .mgmtW, .mgmtE, .links, .bundles, .flows, .hbmcs, .galleries, .helpers, .engines, .streams,
     .freeCtr]
  | .kfill _ _ => [.mem, .ue, .hdrs, .flows, .hbmcs, .galleries, .streams]
  | .keyFillDeliver _ _ => [.mem, .ue, .hdrs, .flows, .hbmcs, .galleries, .drips, .engines, .streams]
  | .nfill _ _ => [.hdrs, .galleries, .drips, .engines, .streams]
  | .dripSelftest _ | .dripCoreEnWrite _ _ | .blockEnable _ => [.hdrs, .drips, .msix, .freeCtr]
  | .dripSelftestEnd _ _ => [.hdrs, .galleries, .drips]
  | .dripCoreParityError _ _ => [.galleries, .drips]
  | .handleWrite _ _ _ _ _ => [.mem, .hdrs, .dev, .galleries, .msix, .freeCtr]
  | .tlbInvComplete => [.dev, .galleries]
  | .flowRequest _ _ => [.mem, .ue, .hdrs, .flows, .hbmcs, .helpers, .lastRead, .freeCtr]
  | .flowFlush _ _ => [.hdrs, .flows, .msix, .freeCtr]
  | .flowFlushComplete _ => [.mem, .ue, .hdrs, .flows]
  | .pinDeclare _ _ _ => [.dev, .mgmtW, .mgmtE, .hbmcs, .freeCtr]
  | .patrolScrub _ _ _ => [.mem, .ue, .hdrs, .flows, .hbmcs, .freeCtr]
  | .stackFail _ => [.dev, .mgmtW, .mgmtE, .journal, .hbmcs, .freeCtr]
  | .bar2Access _ _ _ _ _ => [.mem, .ue, .hdrs, .flows, .hbmcs, .galleries, .helpers, .msix, .lastRead, .freeCtr]
  | .vnop _ | .vret _ | .vsi _ | .vsadd _ | .vbnz _ | .vsetvl _ | .vsetq _ | .vadd _ | .vsub _ | .vmul _ | .vmac _ | .vneg _
  | .vcmp _ | .vsel _ | .vmkld _ | .vmkst _ | .vdig _ | .vrsh _ | .vscan _ | .vmv _ | .vld _ | .vst _ | .vecDispatch _
  | .vecHandlerTimeout _ => [.mem, .ue, .hdrs, .flows, .hbmcs, .galleries, .vecs, .helpers, .engines, .msgs, .freeCtr]
  | .helperTenantWrite _ _ | .helperDispatch _ => [.mem, .ue, .hdrs, .flows, .hbmcs, .helpers, .engines, .msgs, .msix, .freeCtr]
  | .helperRunWrite _ _ => [.hdrs, .helpers, .msgs, .msix, .freeCtr]
  | .ksend _ _ _ _ _ _ | .ringCiWrite _ _ _ => [.mem, .ue, .hdrs, .flows, .hbmcs, .helpers, .engines, .msgs, .freeCtr]
  | .krecv _ _ _ _ _ => [.mem, .ue, .hdrs, .flows, .hbmcs, .helpers, .msgs, .freeCtr]
  | .ktemit _ _ _ _ => [.hdrs, .helpers, .engines]
  | .khret _ => [.hdrs, .helpers, .freeCtr]
  | .kmhostWrite _ _ => [.hdrs, .helpers, .msix]
  | .messageDeliver _ _ | .sendWaitExpire _ _ =>
    [.mem, .ue, .hdrs, .flows, .hbmcs, .galleries, .helpers, .engines, .msgs, .freeCtr]
  | .outboundSend _ _ => [.mem, .ue, .hdrs, .flows, .hbmcs, .helpers, .msgs]
  | .msgRingWrite _ _ _ _ _ => [.mem, .ue, .hdrs, .flows, .hbmcs, .helpers, .msgs, .msix, .freeCtr]
  | .routeEntryWrite _ _ _ _ _ => [.hdrs, .msgs, .msix, .freeCtr]
  | .sqDoorbell _ _ _ _ | .cqDoorbell _ _ _ _ | .sqEnWrite _ _ _ _ | .cqEnWrite _ _ _ _ | .journalTakeover _ _ =>
    [.hdrs, .journal, .fns, .msix, .freeCtr]
  | .run _ _ _ _ | .mark _ _ _ _ => [.mem, .ue, .hdrs, .journal, .fns, .flows, .hbmcs, .galleries, .msix, .freeCtr]
  | .commandAccept _ | .completionPost _ _ =>
    [.mem, .ue, .hdrs, .dev, .mgmtW, .mgmtE, .journal, .fns, .flows, .hbmcs, .helpers, .hostOut, .hostReq, .msix, .freeCtr]
  | .commandDispatch _ =>
    [.mem, .ue, .hdrs, .journal, .flows, .hbmcs, .galleries, .drips, .helpers, .engines, .streams, .msgs, .freeCtr]
  | .commandCommit _ =>
    [.mem, .ue, .hdrs, .dev, .mgmtW, .mgmtE, .journal, .links, .bundles, .flows, .hbmcs, .galleries, .helpers, .engines,
     .streams, .freeCtr, .outs]
  | .journalRestartScan =>
    [.mem, .ue, .hdrs, .dev, .mgmtW, .mgmtE, .journal, .fns, .flows, .hbmcs, .galleries, .helpers, .engines, .hostOut,
     .hostReq, .freeCtr]
  | .journalEnable _ _ => [.mem, .ue, .hdrs, .journal, .flows, .hbmcs, .helpers, .msix, .freeCtr]
  | .failoverTimeout _ => [.journal, .ports, .fns, .msix]
  | .journalQuery _ => [.hdrs, .journal, .msix, .freeCtr]
  | .flr _ _ => [.journal, .fns]
  | .cmdAbort _ _ | .resolveDiscard _ _ _ =>
    [.mem, .ue, .hdrs, .dev, .mgmtW, .mgmtE, .journal, .fns, .links, .bundles, .flows, .hbmcs, .galleries, .drips, .helpers,
     .engines, .streams, .msgs, .msix, .freeCtr, .outs]
  | .linkEnable _ _ | .linkDisable _ _ | .linkRetrain _ | .linkRoleWrite _ _ =>
    [.hdrs, .dev, .mgmtW, .mgmtE, .links, .bundles, .msix, .freeCtr]
  | .laneLockLoss _ _ | .replayLimit _ | .linkDownRetry _ => [.links, .freeCtr]
  | .linkTrainComplete _ _ _ => [.hdrs, .dev, .geode, .mgmtW, .mgmtE, .links, .bundles, .msix, .freeCtr]
  | .idle _ | .mgmt _ _ => [.hdrs]
  | .ack _ _ | .credit _ _ _ => [.hdrs, .links, .bundles]
  | .nak _ _ => [.hdrs, .links]
  | .ident _ _ => [.mem, .ue, .hdrs, .dev, .geode, .mgmtW, .mgmtE, .links, .bundles, .flows, .hbmcs, .helpers, .msix, .freeCtr]
  | .engineCheckFail _ | .handshakeTimeout _ =>
    [.mem, .ue, .hdrs, .dev, .mgmtW, .mgmtE, .journal, .fns, .flows, .hbmcs, .galleries, .drips, .helpers, .engines,
     .streams, .msgs, .freeCtr]
  | .engineSelftestEnd _ _ => [.galleries, .engines, .freeCtr]
  | .errCntThreshold _ => [.hdrs, .galleries, .engines, .freeCtr]
  | .engRetest _ _ =>
    [.mem, .ue, .hdrs, .dev, .flows, .hbmcs, .galleries, .drips, .helpers, .engines, .streams, .msgs, .msix, .freeCtr]
  | .heartbeat _ _ _ => [.dev, .geode, .mgmtW, .mgmtE, .freeCtr]
  | .controllerLost _ | .controllerFaultReport _ => [.dev, .geode, .mgmtW, .mgmtE, .caverns, .freeCtr]
  | .sumpDrain _ => [.dev, .mgmtW, .mgmtE, .galleries]
  | .errorRecordPost _ _ => [.mgmtW, .mgmtE, .hostOut, .hostReq, .msix, .freeCtr]
  | .mergeIntervalExpire _ => [.dev, .mgmtW, .mgmtE]
  | .erqEnWrite _ _ | .erqHeadWrite _ _ => [.hdrs, .mgmtW, .mgmtE, .msix, .freeCtr]
  | .resolveKeepA _ _ _ | .resolveKeepB _ _ _ =>
    [.mem, .ue, .hdrs, .dev, .mgmtW, .mgmtE, .journal, .fns, .flows, .hbmcs, .galleries, .helpers, .engines, .hostOut,
     .hostReq, .msix, .freeCtr]
  | .epochResolve _ => [.hdrs, .dev, .geode, .mgmtW, .mgmtE, .msix, .freeCtr]
  | .getCerts _ | .attest _ | .ctxSet _ | .ctxQuery _ | .rollbackCommit _ | .flashWrite _ | .ownerSet _ | .debugChallenge _ =>
    [.hdrs, .geode, .hostOut, .hostReq, .msix, .sideband, .freeCtr]
  | .sessionOpen _ | .sessionFinish _ => [.hdrs, .geode, .lie, .hostOut, .hostReq, .msix, .sideband, .freeCtr]
  | .sessionExpire _ | .challengeExpire => [.geode]
  | .ctxDestroy _ => [.mem, .hdrs, .dev, .geode, .galleries, .drips, .hostOut, .hostReq, .msix, .sideband, .freeCtr]
  | .debugUnlock _ => [.hdrs, .geode, .engines, .hostOut, .hostReq, .msix, .sideband, .freeCtr]
  | .modmul _ _ _ _ | .modexp _ _ _ _ | .ecmul _ _ _ => [.hdrs, .lie, .msix, .freeCtr]
  | .lieAbort | .lieComplete _ => [.hdrs, .lie, .hostOut, .hostReq, .msix, .freeCtr]
  | .setEndpointId _ => [.geode, .sideband]
  | .getEndpointId | .getEndpointUuid | .getMctpVersionSupport _ | .getMessageTypeSupport | .getVendorDefinedMessageSupport _ =>
    [.sideband]
  | .bypass | .idcode | .tapClamp | .highz | .tapReset _ => [.tap]
  | .samplePreload | .extest => [.tap, .freeCtr]
  | .blockDisable _ => [.hdrs, .msix, .freeCtr]
  | .blockReset _ =>
    [.mem, .ue, .hdrs, .dev, .geode, .mgmtW, .mgmtE, .journal, .lie, .fns, .links, .bundles, .caverns, .flows, .hbmcs,
     .galleries, .drips, .vecs, .helpers, .engines, .streams, .msgs, .msix, .freeCtr]
  | .blockStartComplete _ => [.mem, .ue, .hdrs, .links, .flows, .hbmcs, .drips, .helpers, .msgs, .freeCtr]
  | .blockStopComplete _ =>
    [.mem, .ue, .hdrs, .dev, .mgmtW, .mgmtE, .lie, .links, .bundles, .flows, .hbmcs, .drips, .helpers, .engines, .streams,
     .msgs, .hostOut, .hostReq, .msix, .freeCtr]
  | .standbyPowerUp =>
    [.mem, .ue, .hdrs, .cycles, .dev, .geode, .mgmtW, .mgmtE, .journal, .lie, .ports, .fns, .links, .bundles, .caverns,
     .flows, .hbmcs, .galleries, .drips, .vecs, .helpers, .engines, .streams, .msgs, .pins, .hostReq, .outs]
  | .pwrgdRise _ _ | .bootHeartbeatTimeout | .pwrgdFall _ =>
    [.mem, .ue, .hdrs, .cycles, .dev, .geode, .mgmtW, .mgmtE, .journal, .lie, .ports, .fns, .links, .bundles, .caverns,
     .flows, .hbmcs, .galleries, .drips, .vecs, .helpers, .engines, .streams, .msgs, .pins, .hostReq, .freeCtr, .outs]
  | .sysRstAssert =>
    [.mem, .ue, .hdrs, .dev, .geode, .mgmtW, .mgmtE, .journal, .lie, .ports, .fns, .links, .bundles, .caverns, .flows,
     .hbmcs, .galleries, .drips, .vecs, .helpers, .engines, .streams, .msgs, .pins, .freeCtr]
  | .sysRstRelease =>
    [.mem, .ue, .hdrs, .cycles, .dev, .geode, .mgmtW, .mgmtE, .journal, .lie, .ports, .links, .flows, .hbmcs, .drips,
     .engines, .pins, .freeCtr]
  | .perstAssert _ | .pcieLinkDown _ => [.ports]
  | .perstRelease _ => [.hdrs, .dev, .mgmtW, .mgmtE, .journal, .ports, .fns, .engines, .freeCtr]
  | .referenceClockLoss _ =>
    [.mem, .ue, .hdrs, .dev, .geode, .mgmtW, .mgmtE, .journal, .lie, .ports, .fns, .links, .bundles, .caverns, .flows,
     .hbmcs, .galleries, .drips, .vecs, .helpers, .engines, .streams, .msgs, .pins, .msix, .freeCtr]
  | .powerEvaluation _ _ _ _ _ | .throttleTempReached _ _ => [.dev, .caverns]
  | .hbmTemp85 _ _ => [.dev, .hbmcs]
  | .hbmTemp95 _ _ | .thermalClear _ => [.dev, .caverns, .hbmcs]
  | .criticalTemp _ _ | .thermalStep _ => [.dev, .mgmtW, .mgmtE, .caverns, .freeCtr]
  | .prochotAssert => [.dev, .mgmtW, .mgmtE, .caverns, .pins, .freeCtr]
  | .thermtrip _ _ =>
    [.mem, .ue, .hdrs, .dev, .geode, .mgmtW, .mgmtE, .journal, .lie, .ports, .fns, .links, .bundles, .caverns, .flows,
     .hbmcs, .galleries, .drips, .vecs, .helpers, .engines, .streams, .msgs, .pins, .sideband, .freeCtr]
  | .rcRead _ _ _ _ => [.hdrs, .mgmtW, .mgmtE, .links, .caverns, .galleries, .msgs, .msix, .lastRead, .freeCtr]
  | .flitCrcFail _ => [.hdrs, .links, .freeCtr]
  | .referenceClockRestore _ => [.pins]
  | .prochotDeassert => [.dev, .pins]
  | .mirrorReloadComplete _ => [.mgmtW, .mgmtE, .caverns]
  | .doeRequest _ _ => [.geode, .ports]

/-- The ranges of DEV registers that a write outside them is discarded for (R398, R503); 0 is the unset value of the limits. -/
structure RangesOk (d : Dev) : Prop where
  hops : 1 ≤ d.hopBudget ∧ d.hopBudget ≤ 63
  tries : 1 ≤ d.e2eTries ∧ d.e2eTries ≤ 15
  throt : 85 ≤ d.throtTemp ∧ d.throtTemp ≤ 103
  pwr : d.pwrLimit = 0 ∨ (300 ≤ d.pwrLimit ∧ d.pwrLimit ≤ 1200)
  pwrNew : ∀ v, d.pwrLimitNew = some v → 300 ≤ v ∧ v ≤ 1200
  cool : d.coolCap = 0 ∨ (300 ≤ d.coolCap ∧ d.coolCap ≤ 1500)

end Sys2Proof.Machine
end

