-- ==== Sys2Proof/Certificates/Slice0/Obligations.lean ====
section
/-! DEFINITION. The statements for the provers: what the block's steps, its registers and every command do. A clause about a command names
the state and operands it holds for and what the next state holds. -/

open Sys2Proof Sys2Proof.Machine

/-! ## Steps and the queue -/

/-- A step takes the command at the front of the queue: it is exec of it on the state with the queue's rest. -/
def Obligations.StepRunsTheFrontCommand : Prop :=
  ∀ (s : State) (c : Instr) (r : List Instr), step { s with pending := c :: r } = exec c { s with pending := r }

/-- On an empty queue a step advances every island's counter by one (R25; the model's choice, log entry 7). -/
def Obligations.EmptyQueueCountsACycle : Prop :=
  ∀ s : State, s.pending = [] → ∃ t, step s = .next t ∧ t.pending = [] ∧ ∀ i, i < 114 → t.cyc i = s.cyc i + 1

/-- No command is refused and none faults: exec answers a next state, whose queue is the queue it was given (log entry 7). -/
def Obligations.EveryCommandAnswersAndLeavesTheQueue : Prop :=
  ∀ (c : Instr) (s : State), ∃ t, exec c s = .next t ∧ t.pending = s.pending

/-- The device's memory keeps its canonical form through every step. -/
def Obligations.StepKeepsMemoryCanonical : Prop :=
  ∀ s t : State, Memory.wf s.mem → step s = .next t → Memory.wf t.mem

/-- Every step keeps HOP_BUDGET, E2E_TRIES, THROT_TEMP, PWR_LIMIT and COOL_CAP within their ranges (R398, R503). -/
def Obligations.StepKeepsRangedRegisters : Prop :=
  ∀ s t : State, RangesOk s.dev → step s = .next t → RangesOk t.dev

/-- Reset values that the spec states: KEEP_WAYS, SCRUB_HOURS, HLIMIT, SEND_WAIT_LIMIT, CORE_EN, HOP_BUDGET, E2E_LIMIT, E2E_TRIES, PWR_LIMIT,
COOL_CAP, THROT_TEMP, MINW, as their registers read. The reset state meets both invariants. -/
def Obligations.ResetState : Prop :=
  ((∀ c, c < 4 → State.reset.readReg (.flow c) 0x100 = 12) ∧
   (∀ n, n < 8 → State.reset.readReg (.hbmc n) 0x100 = 24) ∧
   (∀ g, g < 16 → State.reset.readReg (.vec g) 0x108 = 0x10000) ∧
   (∀ ep, ep < 128 → State.reset.readReg (.msg ep) 0x104 = 0x1000) ∧
   (∀ g, g < 16 → State.reset.readReg (.drip g) 0x100 = 0xFFFFFFFFFF) ∧
   State.reset.readReg .dev 0x184 = 8 ∧ State.reset.readReg .dev 0x198 = 125000 ∧ State.reset.readReg .dev 0x19C = 4 ∧
   State.reset.readReg .dev 0x200 = 0 ∧ State.reset.readReg .dev 0x204 = 0 ∧ State.reset.readReg .dev 0x210 = 100 ∧
   (∀ n, n < 64 → State.reset.readReg (.link n) 0x104 = 1)) ∧
  (Memory.wf State.reset.mem ∧ RangesOk State.reset.dev)

/-! ## Engine instructions -/

/-- NOP, FENCE, TEMIT, TWAIT, CNTI, CNTD and CMPB: an instruction that issues runs without a fault. CNTI writes its counter or comparator, CNTD
subtracts its signed step, CMPB sets the program counter to its target exactly when its condition holds, TEMIT's entry carries its immediate
value, TWAIT writes the token's value where its bit asks for it. TCFG and TREL on a tile that they may name: TCFG gives the tile its
configuration or unconfigures it, TREL clears the in-use flag of an operand tile and empties a key tile. -/
def Obligations.ScalarAndTileInstructions : Prop :=
  (∀ (e : Fin 64) (s s1 : State) (x : Iss),
     (s.issue e (fun o => o == 0x01 || (opUse o).isNone) = .go s1 x →
       ∃ t, exec (.nop e) s = .next t ∧ Ran s t e ∧ (t.eng e).pc = (s.eng e).pc + 1) ∧
     (Issues s e 0x4A s1 x →
       ∃ t, exec (.fence e) s = .next t ∧ Ran s t e ∧ (t.eng e).pc = (s.eng e).pc + 1 ∧
         ∃ v, (t.eng e).window.getLast? = some v ∧ v.done = false) ∧
     (Issues s e 0x49 s1 x →
       ∃ t, exec (.temit e) s = .next t ∧ Ran s t e ∧
         ∃ v, (t.eng e).window.getLast? = some v ∧ v.value = BitVec.ofNat 16 (x.i.im 0 16)) ∧
     (Issues (s.exportPending e) e 0x48 s1 x →
       ∃ t, exec (.twait e) s = .next t ∧ Ran s t e ∧
         (x.i.im 55 1 = 1 → (t.eng e).ctv (x.i.im 52 3) = x.value.setWidth 32)) ∧
     (Issues s e 0x40 s1 x →
       ∃ t, exec (.cnti e) s = .next t ∧ Ran s t e ∧
         (if x.i.im 56 4 < 8 then (t.eng e).ctv (x.i.im 56 4) else (t.eng e).cpv (x.i.im 56 4 - 8)) = BitVec.ofNat 32 (x.i.im 0 32)) ∧
     (Issues s e 0x41 s1 x →
       ∃ t, exec (.cntd e) s = .next t ∧ Ran s t e ∧
         (t.eng e).ctv (x.i.im 57 3) = (s.eng e).ctv (x.i.im 57 3) - (BitVec.ofNat 16 (x.i.im 0 16)).signExtend 32) ∧
     (Issues s e 0x42 s1 x → x.i.im 0 12 < (s.eng e).prog.length →
       ∃ t, exec (.cmpb e) s = .next t ∧ Ran s t e ∧
         (t.eng e).pc =
           if cmpHolds (x.i.im 53 2) ((s.eng e).ctv (x.i.im 57 3)) ((s.eng e).cpv (x.i.im 55 2)) then x.i.im 0 12 else (s.eng e).pc + 1)) ∧
  (∀ (e : Fin 64) (s s1 : State) (x : Iss),
     (Issues s e 0x08 s1 x → (s1.eng e).cfgOk x.i.dst x.i.tileCfg = true →
       ∃ t, exec (.tcfg e) s = .next t ∧ Ran s t e ∧ TileIs (t.eng e) x.i.dst x.i.tileCfg) ∧
     (Issues s e 0x0B s1 x → (s1.eng e).named x.i.dst = true →
       ∃ t, exec (.trel e) s = .next t ∧ Ran s t e ∧ ((t.eng e).tile x.i.dst).inUse = false ∧
         (((s.eng e).tile x.i.dst).key = true → ((t.eng e).tile x.i.dst).kst = .empty)))

/-- MADD, MSUB, MMUL, MMAC and MNEG whose tiles and limbs pass the checks and whose elements lie below their moduli: DST receives, limb by limb,
the sum, difference, reduced product, reduced product plus addend, or negative mod q of the operands' elements (R134). -/
def Obligations.ElementwiseResults : Prop :=
  ∀ (e : Fin 64) (s s1 : State) (x : Iss) (io : Instr × Nat),
    io ∈ [(Instr.madd e, 0x10), (Instr.msub e, 0x11), (Instr.mmul e, 0x12), (Instr.mmac e, 0x13), (Instr.mneg e, 0x14)] →
    Issues s e io.2 s1 x → s1.issueCheck e x.i = none → (s1.eng e).ewShape x.i (s1.chainOf x.i.chain) = none →
    (∀ k, k < x.i.n → ∀ p, p ∈ (s1.eng e).ewLimb x.i (s1.chainOf x.i.chain) k → p.1 = false) →
    ∃ t, exec io.1 s = .next t ∧ Ran s t e ∧
      (t.eng e).tf = ((s1.eng e).putElems x.i.dst (s1.chainOf x.i.chain).esz 0
        ((List.range x.i.n).flatMap fun k => ((s1.eng e).ewLimb x.i (s1.chainOf x.i.chain) k).map Prod.snd)).tf

/-- The element-wise operations of R134 on elements below the modulus, MMUL and MMAC through R32: each gives the stated residue, below q. -/
def Obligations.ElementwiseArithmetic : Prop :=
  ∀ (c : Chain) (ent a b d : Nat), let q := c.q ent
    2 < q → q % 2 = 1 → q < c.radix / 2 → (c.ent ent).qneg < c.radix → ((c.ent ent).qneg * q + 1) % c.radix = 0 → a < q → b < q → d < q →
      ewOp c ent 0x10 a b d = (a + b) % q ∧
      ((ewOp c ent 0x11 a b d : Nat) : Int) = ((a : Int) - b) % q ∧
      (ewOp c ent 0x12 a b d < q ∧ ewOp c ent 0x12 a b d * c.radix % q = a * b % q) ∧
      (ewOp c ent 0x13 a b d < q ∧ ewOp c ent 0x13 a b d * c.radix % q = (a * b + d * c.radix) % q) ∧
      ((ewOp c ent 0x14 a b d : Nat) : Int) = (-(a : Int)) % q

/-- NTT, INTT and AUTO between tiles of one shape whose source elements lie below their moduli: DST receives the transform of each limb of SRCA
(R136, R137). -/
def Obligations.TransformResults : Prop :=
  ∀ (e : Fin 64) (s s1 : State) (x : Iss),
    let y := s1.eng e
    let c := s1.chainOf x.i.chain
    let ord := x.i.im 59 1 == 1
    let put (f : Nat → List Nat → List Nat) : List Host.Cell :=
      (y.putElems x.i.dst c.esz 0 ((List.range x.i.n).flatMap fun k => f (entryOf x.i.basis (x.i.llo + k)) (y.limb c x.i.srca k))).tf
    s1.issueCheck e x.i = none → y.notHolding c x.i.n [x.i.dst, x.i.srca] = none → y.sameShape x.i.dst x.i.srca = true →
    (∀ k, k < x.i.n → anyBad (c.q (entryOf x.i.basis (x.i.llo + k))) (y.limb c x.i.srca k) = false) →
    (Issues s e 0x20 s1 x → ∃ t, exec (.ntt e) s = .next t ∧ Ran s t e ∧
      (t.eng e).tf = put fun ent a => ordSlots c ord (c.ntt ent (ordSlots c ord a))) ∧
    (Issues s e 0x21 s1 x → ∃ t, exec (.intt e) s = .next t ∧ Ran s t e ∧
      (t.eng e).tf = put fun ent a => ordSlots c ord (c.intt ent (ordSlots c ord a))) ∧
    (Issues s e 0x22 s1 x → x.i.im 42 18 % 2 = 1 → x.i.im 42 18 < 2 * c.n → x.i.dst ≠ x.i.srca →
      ∃ t, exec (.auto e) s = .next t ∧ Ran s t e ∧
        (t.eng e).tf = put fun ent a =>
          ordSlots c (x.i.im 40 1 == 1) (if x.i.im 41 1 = 1 then autoCoef (c.q ent) c.logn (x.i.im 42 18) (ordSlots c (x.i.im 40 1 == 1) a)
            else permute c.n (rotSel c.logn (x.i.im 42 18) false) (ordSlots c (x.i.im 40 1 == 1) a)))

/-- BCONV, MODUP, MODDN and the tile form of RESC, whose operands pass the checks and whose source elements lie below their moduli: DST receives
the converted, raised, divided or rescaled limbs; a RESC onto its own source zeroes the dropped limb (R138-R141, R159-R162). -/
def Obligations.BasisResults : Prop :=
  ∀ (e : Fin 64) (s s1 : State) (x : Iss),
    let y := s1.eng e
    let c := s1.chainOf x.i.chain
    let put (ls : List (List Nat)) : Engine := y.putElems x.i.dst c.esz 0 ls.flatten
    let set := (List.range x.i.n).map fun k => entryOf x.i.basis (x.i.llo + k)
    let nsp := x.i.im 56 4 + 1
    let top := x.i.lhi
    s1.issueCheck e x.i = none →
    (∀ tlo thi targets, tlo = x.i.im 53 7 → thi = x.i.im 46 7 → targets = (List.range (thi + 1 - tlo)).map (tlo + ·) → tlo ≤ thi →
      (∀ t, t ∈ targets → t < c.l ∨ (64 ≤ t ∧ t < 64 + c.k)) → y.notHolding c x.i.n [x.i.srca] = none →
      y.notHolding c targets.length [x.i.dst] = none → x.i.dst ≠ x.i.srca → (y.plain c x.i.srca set).1 = false → Issues s e 0x28 s1 x →
      ∃ t, exec (.bconv e) s = .next t ∧ Ran s t e ∧
        (t.eng e).tf = (put (List.zipWith c.montRow targets (c.bconv set (y.plain c x.i.srca set).2 targets))).tf) ∧
    (∀ targets, targets = List.range (x.i.im 50 6 + 1) ++ (List.range nsp).map (64 + ·) → x.i.basis = false → top ≤ x.i.im 50 6 →
      x.i.im 50 6 < c.l → nsp ≤ c.k → y.notHolding c x.i.n [x.i.srca] = none → y.notHolding c targets.length [x.i.dst] = none →
      x.i.dst ≠ x.i.srca → (y.plain c x.i.srca set).1 = false → Issues s e 0x29 s1 x →
      ∃ t, exec (.modup e) s = .next t ∧ Ran s t e ∧
        (t.eng e).tf = (put (List.zipWith (fun k row => if set.contains k then y.limb c x.i.srca (k - x.i.llo) else c.montRow k (c.ntt k row))
          targets (c.bconv set (List.zipWith c.intt set (y.plain c x.i.srca set).2) targets))).tf) ∧
    (∀ ents, ents = List.range (top + 1) ++ (List.range nsp).map (64 + ·) → x.i.llo = 0 → nsp ≤ c.k →
      y.notHolding c (top + 1 + nsp) [x.i.srca] = none → y.notHolding c (top + 1) [x.i.dst] = none → x.i.dst ≠ x.i.srca →
      (y.plain c x.i.srca ents).1 = false → Issues s e 0x2A s1 x →
      ∃ t, exec (.moddn e) s = .next t ∧ Ran s t e ∧
        (t.eng e).tf = (put (List.zipWith (fun k row => c.montRow k (c.ntt k row)) (List.range (top + 1))
          (c.moddn (s1.rndOf e x) 64 nsp ((List.zipWith c.intt ents (y.plain c x.i.srca ents).2).take (top + 1))
            ((List.zipWith c.intt ents (y.plain c x.i.srca ents).2).drop (top + 1))))).tf) ∧
    (∀ out, out = put (List.zipWith (fun k row => c.montRow k (c.ntt k row)) (List.range top)
        (c.rescale (s1.rndOf e x) top top (List.zipWith c.intt (List.range (top + 1)) (y.plain c x.i.srca (List.range (top + 1))).2))) →
      x.i.mop = false → x.i.llo = 0 → 0 < top → y.notHolding c (top + 1) [x.i.srca] = none → y.notHolding c top [x.i.dst] = none →
      (y.plain c x.i.srca (List.range (top + 1))).1 = false → Issues s e 0x2B s1 x →
      ∃ t, exec (.resc e) s = .next t ∧ Ran s t e ∧
        (t.eng e).tf = (if x.i.dst = x.i.srca then out.zeroElems x.i.dst c.esz (top * c.n) c.n else out).tf)

/-- DCMP, MSW and SXTR whose operands pass the checks and whose source elements lie below their moduli: DST receives the gadget digits, the
switched residues, or the extracted record padded with zeros to whole rows (R149, R152, R154, R181, R182, R188, R189). -/
def Obligations.DigitAndExtractionResults : Prop :=
  ∀ (e : Fin 64) (s s1 : State) (x : Iss),
    let y := s1.eng e
    let c := s1.chainOf x.i.chain
    let r := s1.rndOf e x
    let ent (k : Nat) : Nat := entryOf x.i.basis (x.i.llo + k)
    let val (k j : Nat) : Nat := c.redc (ent k) ((y.limb c x.i.srca k).getD j 0)
    let put (vs : List Nat) : List Host.Cell := (y.putElems x.i.dst c.esz 0 vs).tf
    s1.issueCheck e x.i = none →
    (∀ l beta, l = x.i.im 56 4 → beta = x.i.im 51 5 → y.notHolding c x.i.n [x.i.srca] = none → y.holds c x.i.dst (l * x.i.n) = true →
      (y.tile x.i.dst).rowb = (y.tile x.i.srca).rowb → x.i.dst ≠ x.i.srca →
      (∀ k, k < x.i.n → anyBad (c.q (ent k)) (y.limb c x.i.srca k) = false) → Issues s e 0x38 s1 x →
      ∃ t, exec (.dcmp e) s = .next t ∧ Ran s t e ∧
        (t.eng e).tf = put ((List.range l).flatMap fun d => (List.range x.i.n).flatMap fun k => (List.range c.n).map fun j =>
          c.mont (ent k) (resOf (c.q (ent k)) ((gadget x.i.rnd (c.q (ent k)) l beta (val k j)
            (r.draw (x.i.llo + k) j (val k j * 2 ^ (l * beta) % c.q (ent k)))).getD d 0)))) ∧
    (∀ m, m = x.i.im 55 5 → y.notHolding c x.i.n [x.i.dst, x.i.srca] = none → (∀ k, k < x.i.n → 2 ^ m < c.q (ent k)) →
      (∀ k, k < x.i.n → anyBad (c.q (ent k)) (y.limb c x.i.srca k) = false) → Issues s e 0x3D s1 x →
      ∃ t, exec (.msw e) s = .next t ∧ Ran s t e ∧
        (t.eng e).tf = put ((List.range x.i.n).flatMap fun k => (List.range c.n).map fun j =>
          c.mont (ent k) (roundCut x.i.rnd (val k j * 2 ^ m) (c.q (ent k))
            (r.draw (x.i.llo + k) j (val k j * 2 ^ m % c.q (ent k))) % 2 ^ m))) ∧
    (∀ coef k, coef = x.i.im 43 17 → k = x.i.im 40 3 → c.split = true → x.i.basis = false → x.i.llo = 0 → x.i.lhi = 0 → coef < c.n →
      y.holds c x.i.srca (k + 1) = true → x.i.dst ≠ x.i.srca → k * c.n + 1 ≤ y.capacity x.i.dst c.esz →
      (∀ p, p ∈ y.polys c x.i.srca k → anyBad (c.q 0) p = false) → Issues s e 0x3B s1 x →
      ∃ t, exec (.sxtr e) s = .next t ∧ Ran s t e ∧
        (t.eng e).tf = put (padRecord ((y.tile x.i.dst).width / c.esz) (sxtrOf (c.q 0) c.logn coef (y.polys c x.i.srca k))))

/-- KSW, EXTP, BROT and KPACK whose checks pass begin to consume their ring: the instruction is in the window without a fault, its source is
kept, its first fill has been read; RING_TOKEN_TAKE with a token and a full ring tile reads one more fill and releases the tile (R143, R144,
R148, R150, R151, R153). -/
def Obligations.RingConsumersBegin : Prop :=
  ∀ (e : Fin 64) (s s1 : State) (x : Iss),
    let y := s1.eng e
    let c := s1.chainOf x.i.chain
    let begun (t : State) (total : Nat) (src : List (List Nat)) : Prop := Ran s t e ∧ ∃ op, (t.eng e).ringOp = some op ∧
      op.seq = (s.eng e).issued + 1 ∧ op.total = total ∧ op.fills.length = 1 ∧ op.src = src
    (∀ s2 a, Issues s e 0x30 s1 x → s1.issueCheck e x.i = none → s1.kswCheck e x.i = none → s1.kswArgs e x.i = (s2, .ok a) → a.mem = none →
      ∃ t, exec (.ksw e) s = .next t ∧ begun t (c.kswFills x.i.dnum x.i.lhi x.i.nsp) ((y.plain c x.i.srca (List.range (x.i.lhi + 1))).2)) ∧
    (Issues s e 0x39 s1 x → s1.issueCheck e x.i = none → s1.extCheck e x.i (x.i.gk + 1) = none → y.sameShape x.i.srca x.i.dst = true →
      0 < x.i.gk → ∃ t, exec (.extp e) s = .next t ∧ begun t (x.i.gk + 1) ((y.plain c x.i.srca (List.replicate (x.i.gk + 1) 0)).2)) ∧
    (∀ step, step = x.i.im 34 12 + (if x.i.im 31 3 = 0 then 0 else (y.ctv (x.i.im 31 3)).toNat) → Issues s e 0x3A s1 x →
      s1.issueCheck e x.i = none → s1.extCheck e x.i (x.i.gk + 1) = none → x.i.srca ≠ x.i.dst → (y.tile x.i.srca).key = false →
      step < y.capacity x.i.srca c.esz → 0 < x.i.gk →
      ∃ t, exec (.brot e) s = .next t ∧ begun t (x.i.gk + 1) ((y.plain c x.i.dst (List.replicate (x.i.gk + 1) 0)).2)) ∧
    (∀ w, w = cdiv (x.i.ldim + 1) (y.perRow c x.i.srca) → Issues s e 0x3C s1 x → s1.issueCheck e x.i = none →
      s1.extCheck e x.i x.i.ldim = none → x.i.cnt ≤ c.n → x.i.cnt * w ≤ (y.tile x.i.srca).lrows → 1 < x.i.ldim →
      ∃ t, exec (.kpack e) s = .next t ∧ begun t x.i.ldim ((List.range x.i.cnt).map fun r =>
        (y.elems x.i.srca c.esz (r * w * y.perRow c x.i.srca) (x.i.ldim + 1)).map (c.redc 0))) ∧
    (∀ r v tok q tile, (s.eng e).ringOp = some r → (s.eng e).winOf r.seq = some v → v.xfer = none → r.fills ≠ [] →
      (s.eng e).queue v.iss.i.wait0 = tok :: q → tok.poison = false → tile = (s.eng e).ringTile v.iss.i (r.fills.length % v.iss.i.kr) →
      (s.eng e).full tile = true → r.fills.length + 1 < r.total →
      ∃ t, exec (.ringTokenTake e) s = .next t ∧ (t.eng e).queue v.iss.i.wait0 = q ∧ ((t.eng e).tile tile).kst = .empty ∧
        ∃ op, (t.eng e).ringOp = some op ∧ op.fills.length = r.fills.length + 1)

/-- TLD and TST whose descriptors, tile and buffers pass the checks take a transfer entry under their number; a transfer that has moved its last
row completes: its entry is free, its instruction is done, and an output's descriptor is written when it is due (R128-R131). RESC and KSW
with memory operands (MOP = 1) whose staging tiles, sources, output and buffers pass the checks take a transfer entry under their number
(R131, R146, R147). -/
def Obligations.TransfersAndMemoryOperands : Prop :=
  (∀ (e : Fin 64) (s s1 s2 : State) (x : Iss) (l : Loc) (d : Desc),
     (Issues s e 0x09 s1 x → s1.issueCheck e x.i = none → s1.readDesc e (x.i.im 52 8) true = (s2, .ok (l, d)) →
       (s2.eng e).bodyFits x.i (s2.chainOf x.i.chain) d x.i.dst (x.i.im 49 3) (x.i.im 48 1 == 1) = none →
       s2.reaches e (l.plus (x.i.bodyOff (s2.chainOf x.i.chain) d (x.i.im 49 3))) (x.i.total (s2.chainOf x.i.chain) d * fmtBytes d.wfmt) = true →
       ∃ t n, exec (.tld e) s = .next t ∧ TakesEntry s t e n .tld) ∧
     (∀ s3 src, Issues s e 0x0A s1 x → s1.issueCheck e x.i = none → ((s1.eng e).tile x.i.srca).key = false →
       (x.i.im 47 1 = 0 ∧ s3 = s1 ∨ x.i.im 47 1 = 1 ∧ s1.firstSource e (x.i.im 39 8) (x.i.im 52 8) = (s3, .ok src) ∧ d.noiseRefused (s2.chainOf x.i.chain) = false) →
       s3.readDesc e (x.i.im 52 8) false = (s2, .ok (l, d)) →
       (s2.eng e).bodyFits x.i (s2.chainOf x.i.chain) d x.i.srca (x.i.im 49 3) (x.i.im 48 1 == 1) = none →
       s2.reaches e (l.plus (x.i.bodyOff (s2.chainOf x.i.chain) d (x.i.im 49 3))) (x.i.total (s2.chainOf x.i.chain) d * fmtBytes d.wfmt) = true →
       ∃ t n, exec (.tst e) s = .next t ∧ TakesEntry s t e n .tst) ∧
     (∀ (n : Fin 4) v, (s.xfer e n).last = true → (s.eng e).winOf (s.xfer e n).seq = some v → (s.xfer e n).cdesc = none →
       ∃ t, exec (.transferComplete e n) s = .next t ∧ (t.xfer e n).kind = .free ∧ t.mem = s.mem ∧
         ∀ u, u ∈ (t.eng e).window → u.seq = (s.xfer e n).seq → u.done = true) ∧
     (∀ (n : Fin 4) v tg o src, (s.xfer e n).last = true → (s.eng e).winOf (s.xfer e n).seq = some v → (s.xfer e n).cdesc = some src →
       (s.xfer e n).out = some (tg, o) → s.earlierRows e v = false →
       s.descAt e tg (s.finalDesc e o src) = (s2, none) →
       ∃ t, exec (.transferComplete e n) s = .next t ∧ (t.xfer e n).kind = .free ∧ t.mem = s2.mem ∧
         ∀ u, u ∈ (t.eng e).window → u.seq = (s.xfer e n).seq → u.done = true)) ∧
  (∀ (e : Fin 64) (s s1 s2 s3 s4 : State) (x : Iss) (il l : Loc) (id d : Desc),
     x.i.mop = true → s1.issueCheck e x.i = none →
     (Issues s e 0x2B s1 x → x.i.llo = 0 → x.i.lhi ≠ 0 → (s1.eng e).rescStaging x.i (s1.chainOf x.i.chain) = none →
       s1.firstSource e (x.i.im 51 8) (x.i.im 40 8) = (s2, .ok (il, id)) → id.mopSourceOk x.i (x.i.im 48 3) = true →
       (x.i.im 36 1 = 0 ∧ s3 = s2 ∨ ∃ ld, x.i.im 36 1 = 1 ∧ s2.firstSource e (x.i.im 28 8) (x.i.im 40 8) = (s3, .ok ld) ∧
         d.noiseRefused (s1.chainOf x.i.chain) = false) →
       s3.readDesc e (x.i.im 40 8) false = (s4, .ok (l, d)) → d.mopOutputOk x.i (x.i.lhi - 1) (x.i.im 37 3 + 1) = true →
       s4.reaches e (il.plus (id.off (x.i.im 48 3))) ((x.i.lhi + 1) * (s1.chainOf x.i.chain).n * fmtBytes id.wfmt) = true →
       s4.reaches e (l.plus (d.off (x.i.im 37 3))) (x.i.lhi * (s1.chainOf x.i.chain).n * fmtBytes d.wfmt) = true →
       ∃ t n, exec (.resc e) s = .next t ∧ (TakesEntry s t e n .tld ∨ TakesEntry s t e n .tst)) ∧
     (∀ a wl, Issues s e 0x30 s1 x → s1.kswCheck e x.i = none → s1.kswArgs e x.i = (s2, .ok a) → a.mem = some (il, id, l, d, wl) →
       ((a.cd.scheme = 2 ∨ a.cd.scheme = 3) ∧ (d.scheme = 2 ∨ d.scheme = 3) → d.noiseRefused (s1.chainOf x.i.chain) = false) →
       s2.reaches e (il.plus (id.off (x.i.im 16 3))) ((x.i.lhi + 1) * (s1.chainOf x.i.chain).n * fmtBytes id.wfmt) = true →
       s2.reaches e wl ((x.i.lhi + 1) * (s1.chainOf x.i.chain).n * (s1.chainOf x.i.chain).esz) = true →
       s2.reaches e l (d.off 0 + d.polySize) = true → s2.reaches e l (d.off 1 + d.polySize) = true →
       ∃ t n, exec (.ksw e) s = .next t ∧ (TakesEntry s t e n .tld ∨ TakesEntry s t e n .tst)))

/-- INSTRUCTION_RETIRE of a done oldest instruction whose token has room: it leaves the window, RETIRED takes its number, its token enters its
queue, a fault sets FAULT_INFO and LAST_CODE. STOP as the only instruction, with no transfer outstanding, ends the program: IDLE, empty
window, a status; a STOP that issues takes its number (R92, R98, R100, R113). -/
def Obligations.RetirementAndStop : Prop :=
  ∀ (e : Fin 64) (s : State) (v : WinEnt) (rest : List WinEnt),
    let emit := fld v.word.toNat 108 4
    ((s.eng e).window = v :: rest → v.done = true → (emit = 15 ∨ (s.eng e).room emit = true) →
      ∃ t, exec (.instructionRetire e) s = .next t ∧ (t.eng e).window = rest ∧ (t.eng e).retired = v.seq ∧
        (emit ≠ 15 → (t.eng e).queue emit = (s.eng e).queue emit ++ [{ value := v.value, poison := v.poison }]) ∧
        (∀ c, v.fault = some c → v.silent = false →
          (t.eng e).lastCode = c.byte ∧ (t.eng e).faultInfo = faultInfoImage c (fld v.word.toNat 120 8) v.tile v.pc)) ∧
    ((s.eng e).window = [v] → fld v.word.toNat 120 8 = 0x02 → v.done = false → (emit = 15 ∨ (s.eng e).room emit = true) →
      s.streamsQuiet e = true → s.issue e (fun o => o == 0x02) = .stay s →
      ∃ t, exec (.stop e) s = .next t ∧ (t.eng e).window = [] ∧ (t.eng e).st = .idle ∧ (t.eng e).ended.isSome = true) ∧
    (∀ s1 x, Issues s e 0x02 s1 x → ∃ t, exec (.stop e) s = .next t ∧ (t.eng e).issued = (s.eng e).issued + 1)

/-! ## Engine control -/

/-- Writes of an engine's controls that their page takes: TILE_CFG configures a tile as a TCFG would; START in IDLE with a valid image runs the
program from its first instruction; STOP_CNT holds the value and lets a STOPPED engine run on below it; RND_SEED in IDLE or SAVED; the
window reads while STOPPED or HALTED; HSIG answers an export with a Q15 token (R82, R89, R112, R117, R118, R197, R229). An engine whose
issued instructions have reached STOP_CNT and retired, with its started transfers quiet, stops; one with HALT set and an empty window is
HALTED; nothing else changes (R117, R466). -/
def Obligations.EngineControl : Prop :=
  (∀ (port : Fin 2) (fn e : Fin 64) (s : State),
     let x := s.eng e
     (∀ n val, s.takes (.engine e) = true → x.st = .idle ∨ x.st = .stopped ∨ x.st = .halted →
       let ts := x.replaced n.val (cfgOfWord val.toNat)
       let waits := s.streamRef e ts || x.window.any fun w => w.names.any fun u => (u :: x.members u).any fun m => ts.contains m
       (x.cfgW = [] → waits = false → x.cfgOk n.val (cfgOfWord val.toNat) = true →
         ∃ t, exec (.tileCfgWrite port 0 e n val) s = .next t ∧ TileIs (t.eng e) n.val (cfgOfWord val.toNat)) ∧
       (x.cfgW ≠ [] ∨ waits = true →
         exec (.tileCfgWrite port 0 e n val) s = .next (s.setEng e { x with cfgW := x.cfgW ++ [(n.val, val.toNat)] }))) ∧
     (∀ val s1 s2 stopat ws img, s.blkOn (.engine e) = true → s.engFrozen e = false → bit val.toNat 0 = true → x.st = .idle → x.inReset = false →
       (s.clearRun e).readProg e x.progBase.toNat = (s1, .ok (stopat, ws)) → s1.readImage e = (s2, .ok img) →
       ∃ t, exec (.engineStart e val) s = .next t ∧ (t.eng e).st = .running ∧ (t.eng e).pc = 0 ∧ (t.eng e).prog = ws ∧
         (t.eng e).retired = 0 ∧ (t.eng e).faultInfo = 0 ∧ (t.eng e).window = [] ∧ (t.eng e).rndLatched = x.rndSeed ∧
         (∀ n, (t.eng e).ctv n = 0 ∧ (t.eng e).cpv n = 0) ∧ (stopat ≠ 0 → (t.eng e).stopCnt = stopat)) ∧
     (∀ val, s.takes (.engine e) = true → s.mayUse port fn x.tenant = true →
       ∃ t, exec (.stopCntWrite port fn e val) s = .next t ∧ (t.eng e).stopCnt = val.toNat ∧
         (t.eng e).st = if x.st = .stopped ∧ (val.toNat = 0 ∨ x.retired < val.toNat) then .running else x.st) ∧
     (∀ val, s.blkOn (.engine e) = true → x.st = .idle ∨ x.st = .saved →
       ∃ t, exec (.rndSeedWrite e val) s = .next t ∧ (t.eng e).rndSeed = val ∧ (t.eng e).rndLatched = x.rndLatched) ∧
     (∀ (off : Fin 2048) (size : Nat), (size = 4 ∨ size = 8) → off.val % size = 0 → s.mayUse port fn x.tenant = true →
       s.blkOn (.engine e) = true → x.st = .stopped ∨ x.st = .halted →
       exec (.dbgWinRead port fn e off size) s = .next { s with lastRead := x.dbgBytes off size }) ∧
     (∀ (g : Fin 16) (j : Fin 4) (val : Word64), fld val.toNat 32 2 = j.val → s.takes (.gallery g) = true →
       s.mayUse port fn (s.eng (4 * g + j)).tenant = true → (s.gal g).xportPend.getLsbD j = true →
       fld val.toNat 48 16 = fld (tget (s.gal g).xportSeq j 0).toNat 0 16 →
       ∃ t, exec (.hsigWrite port fn g val) s = .next t ∧ (t.gal g).xportPend.getLsbD j = false ∧
         (t.eng (4 * g + j)).queue 15 =
           (s.eng (4 * g + j)).queue 15 ++ [{ value := BitVec.ofNat 16 (fld val.toNat 0 16), poison := bit val.toNat 16 }])) ∧
  (∀ (e : Fin 64) (s : State),
     ((s.eng e).st = .running → (s.eng e).stopCnt ≠ 0 →
       ((s.eng e).stopNow = false ∧ (s.eng e).stopCnt ≤ (s.eng e).retired ∧ s.startedQuiet e = true) ∨
         ((s.eng e).stopNow = true ∧ (s.eng e).window = []) →
       exec (.engineStopped e) s = .next (s.setEng e { s.eng e with st := .stopped, stopNow := false })) ∧
     ((s.hdr (.engine e)).halt = true → (s.eng e).st = .running ∨ (s.eng e).st = .stopped → (s.eng e).window = [] →
       exec (.engineHalted e) s = .next (s.setEng e { s.eng e with st := .halted })))

/-- Save and restore: a save with its area in HBM begins; once the engine and its group are quiet, the area holds header, images of the tiles in
use and stream record, nothing outside it changes, and the engine is SAVED with no tile, token or noise key; a restore whose area passes its
checks begins HALTED-to-be with the saved position, and ends HALTED (R73-R75, R88, R115, R198, R264). -/
def Obligations.SaveAndRestore : Prop :=
  ∀ (e : Fin 64) (s : State),
    let x := s.eng e
    let area := x.saveHeader ++ x.saveImages ++ (s.strm e).saveRecord
    (s.blkOn (.engine e) = true → x.st = .running ∨ x.st = .stopped ∨ x.st = .halted → inHbm x.saveBase.toNat x.saveBytes = true →
      exec (.engineSave e) s = .next (s.setEng e { x with st := .saving })) ∧
    (x.st = .saving → x.window = [] → x.ringOp = none → s.saveQuiet e = true → s.groupQuiet e = true →
      ∃ t, exec (.saveComplete e) s = .next t ∧ (t.eng e).st = .saved ∧ (t.eng e).tiles = [] ∧ (t.eng e).tf = [] ∧
        (∀ q, (t.eng e).queue q = []) ∧ (t.gal (e / 4)).xportPend.getLsbD (e % 4) = false ∧ t.nkOf e = [] ∧
        t.mem = (s.devWrite 0 x.saveBase.toNat area).1.mem ∧ (SlicesClean s → SameMemOutside s t x.saveBase.toNat area.length)) ∧
    (∀ s1 s2 s3 s4 b h y b2 so ws img, s.blkOn (.engine e) = true → x.st = .idle ∨ x.st = .saved → inHbm x.saveBase.toNat 4096 = true →
      s.devRead 0 x.saveBase.toNat 4096 = (s1, .ok b) → saveHdrOf b = some h → h.tenant = x.tenant → cfgRestore h.cfg = some y →
      s1.devRead 0 (x.saveBase.toNat + 4096) (h.imageBytes y + 256) = (s2, .ok b2) → s2.readProg e h.progBase = (s3, .ok (so, ws)) →
      ws.length = h.ninstr → (s3.restoreStream e (b2.drop (h.imageBytes y))).readImage e = (s4, .ok img) →
      ∃ t, exec (.engineRestore e) s = .next t ∧ (t.eng e).st = .restoring ∧ (t.eng e).pc = h.pc ∧ (t.eng e).retired = h.retired ∧
        (t.eng e).stopCnt = h.stopCnt ∧ (t.eng e).prog = ws ∧ (t.eng e).window = [] ∧ (t.hdr (.engine e)).halt = true ∧
        t.nkOf e = (s.ctx x.tenant).nk) ∧
    (x.st = .restoring → x.refills = [] ∨ s.dripReady e = true →
      ∃ t, exec (.restoreComplete e) s = .next t ∧ (t.eng e).st = .halted ∧ (t.eng e).refills = [])

/-- Chains: SET of a chain that is neither VALID nor BUSY, whose table lies in HBM, reads and passes R36, makes it VALID with the table's copy;
CLR makes it BUSY and not VALID; BUSY ends once no instruction that named it is in a window and no fill under it runs (R36-R38). The Drip: a
SELFTEST with no fill pending sets BUSY; its end gives DONE, disables the enabled cores that failed and records them; a parity error
disables its core with a record; CORE_EN takes every core that has not failed; a started Drip whose test ends is ON, or stops where EN reads
0 (R218, R219, R221, R477). -/
def Obligations.ChainsAndDrip : Prop :=
  (∀ (n : Fin 32) (s : State),
     (∀ s1 b, s.takes .dev = true → s.dev.chainValid.getLsbD n = false → s.dev.chainBusy.getLsbD n = false →
       inHbm (s.chainDpa n) 0x10000 = true → s.devRead 0 (s.chainDpa n) 0x10000 = (s1, .ok b) → chainTableOk b = true →
       ∃ t, exec (.chainSet n) s = .next t ∧ t.dev.chainValid.getLsbD n = true ∧ tget t.dev.chains n {} = chainOfBytes b ∧
         t.mem = s1.mem ∧ ∀ m, m < 32 → m ≠ n.val → t.dev.chainValid.getLsbD m = s.dev.chainValid.getLsbD m) ∧
     (s.takes .dev = true →
       ∃ t, exec (.chainClr n) s = .next t ∧ t.dev.chainValid.getLsbD n = false ∧ t.dev.chainBusy.getLsbD n = true ∧ t.mem = s.mem) ∧
     ((∀ e, e < 64 → ∀ v, v ∈ (s.eng e).window → v.chain ≠ some n.val) → s.chainFill n = false →
       ∃ t, exec (.chainDrainComplete n) s = .next t ∧ t.dev.chainBusy.getLsbD n = false ∧ t.mem = s.mem)) ∧
  (∀ (g : Fin 16) (s : State),
     let d := s.drip g
     (s.takes (.drip g) = true → s.dripBusy g = false → d.busy = false →
       exec (.dripSelftest g) s = .next (s.setDrip g { d with busy := true, done := false })) ∧
     (∀ failed : BitVec 40, d.busy = true → ∃ t, exec (.dripSelftestEnd g failed) s = .next t ∧ (t.drip g).busy = false ∧
       (t.drip g).done = true ∧ (t.drip g).coreEn = d.coreEn &&& ~~~(failed &&& d.coreEn) ∧
       (t.drip g).coreFail = d.coreFail ||| (failed &&& d.coreEn) ∧
       (t.hdr (.drip g)).pstate = (if (s.hdr (.drip g)).pstate = .starting then (if (s.hdr (.drip g)).en then .on else .stopping)
         else (s.hdr (.drip g)).pstate)) ∧
     (∀ core : Fin 40, d.coreEn.getLsbD core = true → (s.gal g).sump.length < 256 →
       ∃ t r, exec (.dripCoreParityError g core) s = .next t ∧ (t.drip g).coreEn.getLsbD core = false ∧
         (t.drip g).coreFail.getLsbD core = true ∧ (t.gal g).sump = (s.gal g).sump ++ [r] ∧ r.cls = 1 ∧ r.unit = 4) ∧
     (∀ val : Word64, s.takes (.drip g) = true →
       ∃ t, exec (.dripCoreEnWrite g val) s = .next t ∧ (t.drip g).coreEn = val.setWidth 40 &&& ~~~d.coreFail))

/-! ## Streams, the Drip -/

/-- A slot's settings: SRC, DST, LOOP, CLAMP and XFORM take the value that their word spells and the slot goes on; one that is the slot's last
instruction ends it, ARMED again with START = 0 and REPEAT, else DONE, without an entry; an ARMED slot at whose turn Q14 holds a token
starts, or drains on poison (R241-R247, R254). MOVE: one at a gate parks without its entry; between operand tiles, without emissions or
gates and with the sides apart, every run of its nest receives its source elements; one that stays in this device leaves the tile file and
memory that its stretch of elements gives; one to a window of a device sends its data; a draining one moves nothing. A Q14 token resumes a
slot at its gate. EMIT forms its token, poisoned when the slot drains, and a token that is due enters its queue when that has room (R242,
R248, R249, R251, R252, R401). -/
def Obligations.SlotInstructions : Prop :=
  (∀ (e : Fin 64) (n : Fin 4) (s : State),
     let x := s.slotOf e n
     let w := x.instr
     (x.pc + 1 < x.ninstr →
       (s.slotReady e n 1 = true → ∃ t, exec (.src e n) s = .next t ∧ (t.slotOf e n).src = placeOf w false ∧ (t.slotOf e n).pc = x.pc + 1) ∧
       (s.slotReady e n 2 = true → ∃ t, exec (.dst e n) s = .next t ∧ (t.slotOf e n).dst = placeOf w true ∧ (t.slotOf e n).pc = x.pc + 1) ∧
       (s.slotReady e n 3 = true → ∃ t, exec (.loop e n) s = .next t ∧ (t.slotOf e n).pc = x.pc + 1 ∧
         tget (t.slotOf e n).lvls (fld w 57 2) {} = { count := fld w 40 17 + 1, ss := signed 20 (fld w 20 20), ds := signed 20 (fld w 0 20) }) ∧
       (s.slotReady e n 4 = true → ∃ t, exec (.clamp e n) s = .next t ∧ (t.slotOf e n).pc = x.pc + 1 ∧
         (t.slotOf e n).clamp = if fld w 0 56 = 0 then none else some (fld w 28 28, fld w 0 28)) ∧
       (s.slotReady e n 5 = true → ∃ t, exec (.xform e n) s = .next t ∧ (t.slotOf e n).pc = x.pc + 1 ∧
         (t.slotOf e n).xform = some (fld w 41 18, fld w 36 5, bit w 35))) ∧
     (∀ io, io ∈ [(Instr.src e n, 1), (Instr.dst e n, 2), (Instr.loop e n, 3), (Instr.clamp e n, 4), (Instr.xform e n, 5)] →
       s.slotReady e n io.2 = true → x.pc + 1 = x.ninstr → x.kf = none → x.pos = none →
       (s.dev.transfers.all fun t => t.eng != e.val || t.slot != n.val) = true →
       ∃ t, exec io.1 s = .next t ∧ (t.slotOf e n).ent = none ∧
         (t.slotOf e n).st = if fld (x.word 0) 46 2 = 0 ∧ bit (x.word 0) 45 = true then .armed else .done) ∧
     (∀ tok, x.st = .armed → x.pc < x.ninstr → s.strmStarts e = true → s.q14For e n = some tok →
       ∃ t, exec (.slotStart e n) s = .next t ∧ (t.slotOf e n).st = (if tok.poison then .draining else .running) ∧
         (t.eng e).queue 14 = ((s.eng e).queue 14).tail) ∧
     (∀ tok, x.waits = true → x.st ≠ .armed → s.strmStarts e = true → s.q14For e n = some tok →
       ∃ t, exec (.slotGateResume e n) s = .next t ∧ (t.eng e).queue 14 = ((s.eng e).queue 14).tail ∧ (t.slotOf e n).passed = true ∧
         (t.slotOf e n).st = if tok.poison = true ∨ x.st = .draining then .draining else .running)) ∧
  (∀ (e : Fin 64) (n : Fin 4) (s s1 s2 : State) (a b : Target),
     let x := s1.slotOf e n
     let w := x.instr
     let p := x.pos.getD {}
     let s3 := s2.setSlotOf e n { s2.slotOf e n with ends := some (a, b), pos := some p }
     let t1 := x.stretch x.total (x.iter p)
     let remote := x.dst.any Place.isRwin || (b matches .rwin _ _ _)
     s.slotReady e n 6 = true → s.needEnt e n = some s1 →
     (x.st = .running → (x.ends = none ∧ s1.moveCheck e x = (s2, .ok (a, b)) ∨ x.ends = some (a, b) ∧ s2 = s1) →
       (x.passed = false → x.gateAt (x.iter p) = true →
         ∃ t, exec (.move e n) s = .next t ∧ (t.slotOf e n).st = .parked ∧ (t.slotOf e n).ent = none ∧ (t.slotOf e n).pos = some p ∧
           (t.slotOf e n).ends = some (a, b)) ∧
       (∀ i j, a = .tf i → b = .tf j → p = {} → x.emits = [] → mvGate w = 0 → x.dst.any Place.isRwin = false →
         clash a b (hull ((List.range x.total).map fun k => spanOf (mvEs w) (x.srcIdx w k 0)))
           (hull ((List.range x.total).map fun k => (x.dstIdx w k * mvEs w, mvRun w * mvEs w))) = false →
         ∃ t, exec (.move e n) s = .next t ∧ t.mem = s2.mem ∧
           (t.eng e).tf = (List.range x.total).foldl (fun m k => memPut m 0 (j + x.dstIdx w k * mvEs w)
             ((x.srcIdx w k 0).flatMap fun r => memRun (s2.eng e).tf 0 (i + r * mvEs w) (mvEs w))) (s2.eng e).tf) ∧
       (∀ s4 k, (x.passed = true ∨ x.gateAt (x.iter p) = false) → s3.moveData e n a b (x.iter p) p.o t1 = (s4, k, .done) →
         (remote = false → ∃ t, exec (.move e n) s = .next t ∧ t.mem = s4.mem ∧ (t.eng e).tf = (s4.eng e).tf) ∧
         (s3.mayOpen e n = true →
           exec (.move e n) s = .next (((s4.readAhead e n a (x.iter p) p.o t1 k false).moveNext e n t1).ringsSeen s (e / 4))))) ∧
     (x.st = .draining → (x.passed = true ∨ x.gateAt (x.iter p) = false) → x.dst.any Place.isRwin = false →
       ∃ t, exec (.move e n) s = .next t ∧ t.mem = s.mem ∧ (t.eng e).tf = (s.eng e).tf)) ∧
  (∀ (e : Fin 64) (n : Fin 4) (s s1 : State),
     let x := s1.slotOf e n
     let w := x.instr
     (∀ m r, (s.slotOf e n).out = m :: r → s.strmLive e = true → s.canTake e m = true →
       ∃ t, exec (.emit e n) s = .next t ∧ (t.eng m.eng).queue m.q = (s.eng m.eng).queue m.q ++ [m.tok] ∧ (t.slotOf e n).out = r) ∧
     (s.slotReady e n 7 = true → s.needEnt e n = some s1 →
       (x.dst.any Place.isRwin = false → s1.emitForeign e w = false →
         ∃ t, exec (.emit e n) s = .next t ∧ (t.slotOf e n).pc = x.pc + 1 ∧
           (t.slotOf e n).out = [{ eng := if fld w 54 2 = 0 then e.val else fld w 48 6, q := if fld w 54 2 = 0 then 8 + n.val else 11 + fld w 54 2,
                                   tok := { value := BitVec.ofNat 16 (fld w 0 16), poison := x.st == .draining } }]) ∧
       (x.dst.any Place.isRwin = true → s1.mayOpen e n = true →
         exec (.emit e n) s =
           .next (((s1.setSlotOf e n { x with pc := x.pc + 1 }).emitToks e n [w] (x.st == .draining)).slotDone e n))))

/-- Key fills and noise fills: a KFILL whose entry, header and checks pass takes its operation; a fill due for an EMPTY ring tile, or for the
tile that it is FILLING, makes the tile FULL with its rows, under its tag, and its token falls due, whether it was assembled ahead or is
assembled now; one whose rows cannot be read leaves the tile EMPTY and its token due with poison; a due token enters Q(8 + s); an NFILL
whose conditions hold writes the noise polynomial of its key and nonce into its tile (R207-R210, R212, R214, R232-R236, R258, R259). SQZ
whose descriptor or places pass the checks copies its elements in their new order, writes its output descriptor in modes L and C, and goes
on; one that finds the Squeeze path busy waits; a halted entry resumes as its slot RUNNING or as its TLD from the recorded element; an
abort drains the slot or ends the instruction with TRANSLATION_FAULT (R260-R263). -/
def Obligations.FillsAndSqueezes : Prop :=
  (∀ (e : Fin 64) (n : Fin 4) (s s1 s2 s3 : State),
     let x := s1.slotOf e n
     let w := x.instr
     (∀ l h, s.slotReady e n 8 = true → s.needEnt e n = some s1 → x.st = .running → x.kf = none → s1.dripReady e = true →
       s1.argSlot e (kfHslot w) = (s2, .ok l) → s2.kfRefused e w = false → s2.kfHeader e w l true = (s3, .ok h) →
       ∃ t k, exec (.kfill e n) s = .next t ∧ (t.slotOf e n).kf = some k ∧ k.next = 0 ∧ k.hdr = h ∧ k.hdrVa = l.word ∧ k.failed = false) ∧
     (∀ k, let y := s.slotOf e n
       let tile := s.ringTile e n k
       let c := s.chainOf (kfChain y.instr)
       let plan := fillPlan c y.instr k.hdr k.next
       let l := k.entryLoc y.instr k.next
       y.kf = some k → s.kfLive e n k = true → k.due = [] → (k.cur = some tile ∨ (s.eng e).ringEmpty tile = true) →
       (∀ v d, k.asm = [] → (kfKind y.instr = true → k.next ≠ 0 → k.next % kfFpe y.instr ≠ 0) →
         s.fillRead e plan.1 c k.hdr (l.plus 256) plan.2.1 = (s2, .ok (v, d)) →
         ∃ t k', exec (.keyFillDeliver e n) s = .next t ∧ (t.slotOf e n).kf = some k' ∧ k'.next = k.next + 1 ∧
           k'.due = [{ value := BitVec.ofNat 16 k.next, poison := false }] ∧
           (∀ m, m ∈ (s.eng e).members tile → ((t.eng e).tile m).kst = .full ∧
             ((t.eng e).tile m).tag = BitVec.ofNat 64 (plan.2.2 ||| fld l.addr 8 40 <<< 8)) ∧
           (t.eng e).tf = ((s2.eng e).putElems tile c.esz 0 v).tf) ∧
       (∀ a r, k.asm = a :: r → a.bad = none →
         ∃ t k', exec (.keyFillDeliver e n) s = .next t ∧ (t.slotOf e n).kf = some k' ∧ k'.next = k.next + 1 ∧ k'.asm = r ∧
           k'.due = [{ value := BitVec.ofNat 16 k.next, poison := false }] ∧
           (∀ m, m ∈ (s.eng e).members tile → ((t.eng e).tile m).kst = .full ∧ ((t.eng e).tile m).tag = a.tag) ∧
           (t.eng e).tf = ((s.eng e).putElems tile c.esz 0 a.vals).tf) ∧
       (∀ a r cd, k.asm = a :: r → a.bad = some cd → a.stop = false →
         ∃ t k', exec (.keyFillDeliver e n) s = .next t ∧ (t.slotOf e n).kf = some k' ∧ k'.next = k.next + 1 ∧
           k'.due = [{ value := BitVec.ofNat 16 k.next, poison := true }] ∧
           (∀ m, m ∈ (s.eng e).members tile → ((t.eng e).tile m).kst = .empty))) ∧
     (∀ k tok r, (s.slotOf e n).kf = some k → k.due = tok :: r → s.strmLive e = true → (s.eng e).room (8 + n) = true →
       ∃ t, exec (.fillTokenEmit e n) s = .next t ∧ (t.eng e).queue (8 + n) = (s.eng e).queue (8 + n) ++ [tok] ∧
         ∃ k', (t.slotOf e n).kf = some k' ∧ k'.due = r) ∧
     (s.slotReady e n 9 = true → s.needEnt e n = some s1 → x.st = .running → s1.dripReady e = true → s1.nfillBad e w = none →
       let c := s1.chainOf (fld w 49 5)
       ∃ t, exec (.nfill e n) s = .next t ∧
         (t.slotOf e n).out = [{ eng := e, q := 8 + n, tok := { value := BitVec.ofNat 16 (fld w 12 16), poison := false } }] ∧
         (t.eng e).tf = ((s1.eng e).putElems (fld w 54 5) c.esz 0
           ((List.range (fld w 36 6 + 1 - fld w 42 6)).flatMap fun k =>
             (noisePoly (s1.nkOf e) (x.word (x.pc + 2)) (fld w 12 16) (fld w 34 2) (fld w 28 6) c.n).map fun v =>
               c.mont (fld w 42 6 + k) (v % (c.q (fld w 42 6 + k) : Int)).toNat)).tf)) ∧
  (∀ (e : Fin 64) (n m : Fin 4) (s s1 s2 s3 s4 : State) (a b : Target),
     let x := s1.slotOf e n
     let w := x.instr
     let h := x.ent.getD 0
     let rows := fld w 40 17 + 1
     let cols := fld w 23 17 + 1
     let es := if bit w 22 then 4 else 8
     (s.slotReady e n 0xA = true → s.needEnt e n = some s1 → x.st = .running → x.pos = none → x.pc + 1 < x.ninstr →
       (s1.sqzBusy e n = true → exec (.sqz e n) s = .next s1) ∧
       (∀ d, s1.sqzBusy e n = false → fld w 57 2 ≠ 2 → s1.sqzConvert e n = (s2, some (a, d, b)) →
         (s2.setXfer e h { s2.xfer e h with src := some (a, d), out := some (b, d) }).sqzGo e (sqzBodies d) a b (sqzBodies d).total 0 =
           (s3, none) →
         s3.drawn.descAt e b (sqzDesc d (s3.cmdSeq e)) = (s4, none) →
         ∃ t, exec (.sqz e n) s = .next t ∧ t.mem = s4.mem ∧ (t.slotOf e n).pos = none ∧ (t.slotOf e n).pc = x.pc + 1) ∧
       (s1.sqzBusy e n = false → fld w 57 2 = 2 → s1.sqzTrans e n = (s2, some (a, b)) →
         (s2.setSlotOf e n { s2.slotOf e n with ends := some (a, b) }).sqzGo e
           { es := es, total := rows * cols, src := fun k => es * k, dst := fun k => es * (k % cols * rows + k / cols) } a b (rows * cols) 0 =
           (s3, none) →
         ∃ t, exec (.sqz e n) s = .next t ∧ t.mem = s3.mem ∧ (t.slotOf e n).pos = none ∧ (t.slotOf e n).pc = x.pc + 1)) ∧
     (s.takes (.stream e) = true → (s.xfer e m).fault = true →
       ((s.xfer e m).kind = .slot → ∃ t, exec (.entResume e m) s = .next t ∧ (t.xfer e m).fault = false ∧
         (t.slotOf e (s.xfer e m).slot).st = .running) ∧
       (∀ u, u = s.setXfer e m { s.xfer e m with fault := false } → (s.xfer e m).kind ≠ .slot → (s.holder e m).i.opc = 0x09 →
         exec (.entResume e m) s = .next (u.tldRun e m ((s.xfer e m).pos.elt (u.tldPer e m)))) ∧
       ((s.xfer e m).kind = .slot → sopOf (s.slotOf e (s.xfer e m).slot).instr ≠ 0xA →
         ∃ t, exec (.entAbort e m) s = .next t ∧ (t.slotOf e (s.xfer e m).slot).st = .draining ∧ (t.slotOf e (s.xfer e m).slot).ent = none) ∧
       ((s.xfer e m).kind ≠ .slot → ∃ t, exec (.entAbort e m) s = .next t ∧ (t.xfer e m).last = true ∧ (t.xfer e m).fault = false ∧
         ∀ u, u ∈ (t.eng e).window → u.seq = (s.xfer e m).seq → u.fault = some .translationFault ∧ u.poison = true)))

/-! ## Host rings and the journal -/

/-- Doorbells of an enabled ring below its size move its tail or head; EN of a ring whose size is in range enables it at its first entry,
keeping NEXT (R360, R364). RUN and MARK at the head of a ring that may be fetched: the expected SEQ takes a journal slot with its entry and
the outcome of its checks; a SEQ below NEXT only moves the head; one above NEXT, or one whose completion ring has no EN, stops the ring
(R361, R364, R365). -/
def Obligations.RingsAndEntries : Prop :=
  (∀ (port : Fin 2) (fn : Fin 64) (n : Fin 16) (val : Word32) (s : State),
     let q := s.sqOf port fn n
     let c := s.cqOf port fn n
     (q.en = true → val.toNat < q.size → ∃ t, exec (.sqDoorbell port fn n val) s = .next t ∧ t.sqOf port fn n = { q with tail := val.toNat }) ∧
     (c.en = true → val.toNat < c.size → ∃ t, exec (.cqDoorbell port fn n val) s = .next t ∧ t.cqOf port fn n = { c with head := val.toNat }) ∧
     (s.takes (.pciep port fn) = true → bit val.toNat 31 = true → q.en = false → 16 ≤ q.size → q.size ≤ 65536 →
       ∃ t, exec (.sqEnWrite port fn n val) s = .next t ∧ (t.sqOf port fn n).en = true ∧ (t.sqOf port fn n).head = 0 ∧
         (t.sqOf port fn n).tail = 0 ∧ (t.sqOf port fn n).err = false ∧ (t.sqOf port fn n).next = q.next) ∧
     (s.takes (.pciep port fn) = true → bit val.toNat 31 = true → c.en = false → 16 ≤ c.size → c.size ≤ 65536 → c.flr = none →
       ∃ t, exec (.cqEnWrite port fn n val) s = .next t ∧ (t.cqOf port fn n).en = true ∧ (t.cqOf port fn n).head = 0 ∧
         (t.cqOf port fn n).tail = 0 ∧ (t.cqOf port fn n).phase = true ∧ (t.cqOf port fn n).iv = fld val.toNat 0 6) ∧
     (s.takes (.pciep port fn) = true → bit val.toNat 31 = false →
       (∃ t, exec (.sqEnWrite port fn n val) s = .next t ∧ (t.sqOf port fn n).en = false ∧ (t.sqOf port fn n).next = q.next) ∧
       (∃ t, exec (.cqEnWrite port fn n val) s = .next t ∧ (t.cqOf port fn n).en = false))) ∧
  (∀ (port : Fin 2) (fn : Fin 64) (n : Fin 16) (entry : BitVec 512) (s : State) (io : Instr × Bool),
     io ∈ [(Instr.run port fn n entry, false), (Instr.mark port fn n entry, true)] → (fld entry.toNat 0 8 == 2) = io.2 →
     s.canFetch port fn n = true →
     let q := s.sqOf port fn n
     let seq := fld entry.toNat 64 64
     (∀ m : Nat, seq = q.next.toNat → (s.cqOf port fn (fld entry.toNat 24 4)).en = true → s.nextSlot = some m →
       ∃ t, exec io.1 s = .next t ∧ (t.slotJ m).entry = entry ∧ (t.slotJ m).port = port.val ∧ (t.slotJ m).fn = fn.val ∧
         (t.slotJ m).ring = n.val ∧ t.pendOf m = some { refusal := (s.entryCheck port fn entry.toNat).2.1, argsDpa := (s.entryCheck port fn entry.toNat).2.2 } ∧
         t.sqOf port fn n = q) ∧
     (seq < q.next.toNat → ∃ t, exec io.1 s = .next t ∧ t.sqOf port fn n = { q with head := ringNext q.head q.size }) ∧
     (q.next.toNat < seq ∨ (seq = q.next.toNat ∧ (s.cqOf port fn (fld entry.toNat 24 4)).en = false) →
       ∃ t, exec io.1 s = .next t ∧ t.sqOf port fn n = { q with err := true }))

/-- Acceptance: the slot's record takes its state, status and home, NEXT advances by one, and so does the head unless the ring was started
again since the entry was read; the acknowledgement's 16 bytes hold SEQ and the head index and leave with the function's requester ID,
unless the ring was reset since (R358, R360, R365, R366, R372). -/
def Obligations.Acceptance : Prop :=
  ∀ (slot : Fin 8192) (s : State) (p : Pend), s.pendOf slot = some p → s.journal.foBusy = false →
    let x := s.slotJ slot
    let q := s.sqOf x.port x.fn x.ring
    let head := if p.stale then q.head else ringNext q.head q.size
    let code := if (x.opc == 1 && p.refusal == .ok) && (s.homeGallery x p.argsDpa).isNone then .aborted else p.refusal
    ∃ t, exec (.commandAccept slot) s = .next t ∧ t.pendOf slot = none ∧ (t.slotJ slot).status = code ∧
      (t.slotJ slot).st = (if code = .ok then .accepted else .committed) ∧ (t.slotJ slot).entry = x.entry ∧
      (t.sqOf x.port x.fn x.ring).next = q.next + 1 ∧ (t.sqOf x.port x.fn x.ring).head = head ∧
      (p.stale = false ∨ q.en = true →
        t.hostReq.1 = x.port ∧ t.hostReq.2.1 = x.fn ∧
          memRun t.hostOut 0 (2 ^ 64 * x.port + q.ack.toNat) 16 = leBytes 8 x.seq ++ leBytes 4 head ++ zeros 4) ∧
      (p.stale = true → q.en = false → t.hostOut = s.hostOut)

/-- The home gallery's supervisor latches its engine island's count once: at acceptance, at the start of a run with engines, and when the
command may commit (R28, R372, R380). Dispatch of an accepted RUN whose dependence is met and whose launch block passes its checks: a
gallery with enough idle working engines takes the run, the record counts the dispatch, and each launch engine has its program, its
arguments and the tenant; a launch block that fails ends the run with its code (R362, R365, R372). -/
def Obligations.InstantsAndDispatch : Prop :=
  (∀ (slot : Fin 8192) (s : State),
     let x := s.slotJ slot
     let g := s.gal x.home
     (x.st = .accepted ∨ x.st = .committed → latched g.tAccept slot = false →
       ∃ t, exec (.acceptanceNotice slot) s = .next t ∧ tget (t.gal x.home).tAccept slot 0 = s.engCycles x.home ∧
         (t.slotJ slot).tAccept = s.engCycles x.home ∧ (x.st = .committed → (t.slotJ slot).tCommit = s.engCycles x.home)) ∧
     (∀ r, tget s.journal.runs slot none = some r → r.engines ≠ [] → x.st = .accepted → s.workHeld slot = false →
       latched g.tStart slot = false →
       exec (.startNotice slot) s = .next (s.setGal x.home { g with tStart := tset g.tStart slot (s.engCycles x.home) })) ∧
     (s.mayCommit slot = true → latched g.tAccept slot = true →
       (∀ r, tget s.journal.runs slot none = some r → r.engines ≠ [] → latched g.tStart slot = true) → latched g.tCommit slot = false →
       exec (.commitNotice slot) s = .next (s.setGal x.home { g with tCommit := tset g.tCommit slot (s.engCycles x.home) }))) ∧
  (∀ (slot : Fin 8192) (s s1 : State),
     let x := s.slotJ slot
     x.st = .accepted → x.opc = 1 → tget s.journal.runs slot none = none → s.geode.frozen = false → s.geode.holder ≠ none →
     s.workHeld slot = false →
     s.depMet x = true →
     (∀ emap imgs g, s.launchBlock x = (s1, .ok (emap, imgs)) → s1.runGallery x.home imgs.length = some g →
       ∃ t, exec (.commandDispatch slot) s = .next t ∧ (t.slotJ slot).disp = (x.disp + 1) % 2 ^ 16 ∧
         tget t.journal.runs slot none = some { gallery := g, engines := (s1.idleIn g).take imgs.length, emap := emap } ∧
         ∀ i e im, ((s1.idleIn g).take imgs.length)[i]? = some e → imgs[i]? = some im →
           (t.eng e).progBase = BitVec.ofNat 64 im.1 ∧ (t.eng e).argBase = BitVec.ofNat 64 (x.args + 2048 * i) ∧
           (t.eng e).tenant = x.tenant ∧ (t.eng e).rndSeed = x.seed ∧ (t.eng e).slot = some slot.val ∧ (t.eng e).launch = i) ∧
     (∀ c, s.launchBlock x = (s1, .error c) →
       ∃ t r, exec (.commandDispatch slot) s = .next t ∧ tget t.journal.runs slot none = some r ∧ r.engines = [] ∧ r.fail = some c))

/-- Commit of a command that may commit and whose commit instant is latched: its record is COMMITTED with the status and the result of its run,
the latched instant, LATE when the budget is exceeded, and every engine of its run is free (R113, R365, R373, R425). Posting in its turn
with room: the completion's 32 bytes stand in the host's ring at the tail, the tail and the ring's next SEQ advance, the slot is POSTED; a
posting write that the host fails leaves POSTING, sets the ring's ERR and raises the function's vector 0 (R359, R360, R367, R368,
R373). -/
def Obligations.CommitAndPosting : Prop :=
  (∀ (slot : Fin 8192) (s : State),
     let x := s.slotJ slot
     let g := s.gal x.home
     let commit := tget g.tCommit slot 0
     s.mayCommit slot = true → latched g.tCommit slot = true →
     ∃ t, exec (.commandCommit slot) s = .next t ∧ (t.slotJ slot).st = .committed ∧ (t.slotJ slot).tCommit = commit ∧
       (t.slotJ slot).late = (x.late || (x.budget != 0 && decide (x.budget < spanOfCounts x.tAccept commit))) ∧
       (∀ e, e < 64 → (s.eng e).slot = some slot.val → (t.eng e).slot = none) ∧ tget t.journal.runs slot none = none ∧
       (tget s.journal.runs slot none = none → (t.slotJ slot).status = .ok ∧ (t.slotJ slot).result = 0) ∧
       (∀ r, tget s.journal.runs slot none = some r →
         (∀ c, r.fail = some c → (t.slotJ slot).status = c ∧ (t.slotJ slot).result = 0) ∧
         (r.fail = none → (t.slotJ slot).status = s.runStatus slot r ∧
           ∀ e l, r.engines = e :: l → (t.slotJ slot).result = BitVec.ofNat 64 (fld (s.eng e).result.toNat 0 48)))) ∧
  (∀ (slot : Fin 8192) (s : State),
     let x := s.slotJ slot
     let p := (s.servedAt x).1
     let f := (s.servedAt x).2
     let sq := s.sqOf p f x.ring
     let q := s.cqOf p f x.cq
     let y : JSlot := { x with st := .posting, phase := q.phase, idx := q.tail, wall := if x.st = .posting then x.wall else (s.fn p f).wall }
     x.st = .committed ∨ x.st = .posting → s.workHeld slot = false → s.scanHolds (ctlOfPort p) = false →
     (s.journal.foBusy && s.journal.foFrom == p) = false → sq.lostStop = false → (sq.nextPost.map BitVec.toNat).getD x.seq = x.seq →
     q.canPost = true → s.unserved p = false →
     (∃ t, exec (.completionPost slot true) s = .next t ∧ (t.slotJ slot).st = .posted ∧
       memRun t.hostOut 0 (2 ^ 64 * p + (q.base.toNat + 32 * q.tail) % 2 ^ 64) 32 = y.completion ∧
       (t.cqOf p f x.cq).tail = ringNext q.tail q.size ∧ (t.sqOf p f x.ring).nextPost = (sq.posted (BitVec.ofNat 64 x.seq)).nextPost ∧
       (sq.jumps = [] → (t.sqOf p f x.ring).nextPost = some (BitVec.ofNat 64 (x.seq + 1))) ∧
       t.msix = if x.irq then s.msix ++ [(p, f, q.iv)] else s.msix) ∧
     (∃ t, exec (.completionPost slot false) s = .next t ∧ (t.slotJ slot).st = .posting ∧ (t.cqOf p f x.cq).err = true ∧
       (p, f, 0) ∈ t.msix))

/-- The journal's controls: EN with legal bases enables it; a takeover of the other port's pairs acts, or waits for an acceptance in progress:
the partner rings go on from the old rings' NEXT and become ACTIVE, vector 0 of the surviving PF is raised; a query answers from the slot
that holds the SEQ; the restart scan restores the rings, reads every slot and ends: a slot that reads well keeps its entry and state, or is
POSTED when it was POSTING, a lost one is free; a link that goes down starts its timer, whose end takes over (R370, R375, R379, R383,
R385, R417). Resolving a frozen item unfreezes it, whichever copy is kept; discarding a slot that is not posted commits its command with
ABORTED, a ring's disables it (R429). -/
def Obligations.JournalAndFrozenItems : Prop :=
  let takenOver (s t : State) (p : Nat) : Prop :=
    if s.acceptsOn p = true then t.journal.foBusy = true ∧ t.journal.foFrom = p
    else t.journal.foBusy = false ∧ t.journal.foPort = 1 - p ∧ t.msix = s.msix ++ [(1 - p, 0, 0)] ∧
      ∀ f n q g, (f, n, q, g) ∈ s.pairedRings p → (s.sqOf q g n).active = false →
        (t.sqOf q g n).active = true ∧ (t.sqOf q g n).next = (s.sqOf p f n).next ∧ (t.sqOf p f n).active = false
  (∀ (port : Fin 2) (val : Word32) (s : State),
     let v := val.toNat
     (s.takes .journal = true → bit v 0 = true → s.journal.en = false → s.journal.basesOk = true →
       ∃ t, exec (.journalEnable port val) s = .next t ∧ t.journal.en = true) ∧
     (s.takes .journal = true → bit v 0 = false → exec (.journalEnable port val) s = .next { s with journal := { s.journal with en := false } }) ∧
     ((∀ p f n, (s.sqOf p f n).pfn < 64) →
       (s.takes .journal = true → bit v 31 = true → s.journal.foBusy = false → fld v 0 1 ≠ port.val → s.pairedRings (fld v 0 1) ≠ [] →
         ∃ t, exec (.journalTakeover port val) s = .next t ∧ takenOver s t (fld v 0 1)) ∧
       ((s.port port).up = false → (s.port port).downMs ≠ 0 → (s.port port).downTimer = true → s.journal.foBusy = false →
         s.pairedRings port ≠ [] →
         ∃ t, exec (.failoverTimeout port) s = .next t ∧ (t.port port).downTimer = false ∧ takenOver s t port)) ∧
     ((s.port port).up = true → exec (.pcieLinkDown port) s = .next (s.setPort port { s.port port with up := false, downTimer := true })) ∧
     (s.takes .journal = true → fld v 25 6 = 0 → fld v 22 2 = 0 → fld v 4 12 = 0 → bit v 31 = true → s.journal.qbusy = false →
       let hit := s.journal.slots.find? fun p => p.2.st != .free && p.2.port == fld v 24 1 && p.2.fn == fld v 16 6 && p.2.ring == fld v 0 4 &&
         p.2.seq == s.journal.qseq.toNat
       ∃ t, exec (.journalQuery val) s = .next t ∧ t.journal.qres.getLsbD 63 = true ∧ t.journal.qres.getLsbD 62 = hit.isSome ∧
         (∀ m y, hit = some (m, y) → fld t.journal.qres.toNat 56 4 = y.st.num ∧ fld t.journal.qres.toNat 48 8 = y.status.num ∧
           fld t.journal.qres.toNat 0 48 = fld y.result.toNat 0 48))) ∧
  (∀ s : State,
     (s.journal.restart = true → s.outOfReset = true → ∃ t, exec .journalRestartScan s = .next t ∧ t.journal.restart = false ∧
       t.journal.slots = ((((s.journal.ringA.map Prod.fst).foldl State.ringRestore s).each 8192 State.scanSlot).lostStops).journal.slots) ∧
     ∀ n, n < 8192 →
       (∀ s1 x, s.readSlot n = (s1, .ok x) → ((s.scanSlot n).slotJ n).entry = x.entry ∧
         ((s.scanSlot n).slotJ n).st = if x.st = .posting then .posted else x.st) ∧
       (∀ s1, s.readSlot n = (s1, .lost) → (s.scanSlot n).slotJ n = {})) ∧
  (∀ (port : Fin 2) (ring : Bool) (item : Fin 8192) (s : State),
     let i := if ring then 8192 + item.val else item.val
     s.takes (.mgmt (ctlOfPort port)) = true → s.journal.frozen.contains i = true →
     (∀ c, c ∈ [Instr.resolveKeepA port ring item, Instr.resolveKeepB port ring item, Instr.resolveDiscard port ring item] →
       ∃ t, exec c s = .next t ∧ t.journal.frozen.contains i = false ∧ i ∈ t.journal.resolved) ∧
     (ring = false → (s.slotJ item).st ≠ .posted → (s.slotJ item).st ≠ .free →
       ∃ t, exec (.resolveDiscard port ring item) s = .next t ∧ (t.slotJ item).st = .committed ∧ (t.slotJ item).status = .aborted) ∧
     (ring = true → item.val % 32 < 16 →
       ∃ t, exec (.resolveDiscard port ring item) s = .next t ∧
         (t.sqOf (item.val / 32 / 64) (item.val / 32 % 64) (item.val % 16)).en = false))

/-- FLR resets the function's ring registers, keeping NEXT and what posting owes, and each completion ring's place; a deadline that passes
marks the command LATE once; an abort commits an accepted command with ABORTED and answers outcome 1, 2 for one past that, 3 for one
whose slot is lost, which is committed with ABORTED, 4 for an unknown one (R364, R368, R383, R417, R426, R427, R432). -/
def Obligations.ResetsDeadlinesAborts : Prop :=
  ∀ (s : State),
    (∀ (port : Fin 2) (fn : Fin 64), ∃ t, exec (.flr port fn) s = .next t ∧ ∀ n, n < 16 →
      let x := s.sqOf port fn n
      t.sqOf port fn n = { next := x.next, nextPost := x.nextPost, jumps := x.jumps, lostStop := x.lostStop, movedTo := x.movedTo } ∧
      (t.cqOf port fn n).en = false ∧ (t.cqOf port fn n).tail = 0) ∧
    (∀ slot : Fin 8192, let x := s.slotJ slot
      x.st = .accepted → x.budget ≠ 0 → x.late = false → latched (s.gal x.home).tAccept slot = true →
      x.budget < spanOfCounts x.tAccept (s.engCycles x.home) →
      ∃ t, exec (.deadlineExpire slot) s = .next t ∧ (t.slotJ slot).late = true ∧ (t.slotJ slot).st = .accepted) ∧
    (∀ (c : Ctl) (val : Word64), let v := val.toNat
      let hit := s.slotOfSeq (fld v 62 1) (fld v 56 6) (fld v 52 4) (fld v 0 48)
      let q := s.sqOf (fld v 62 1) (fld v 56 6) (fld v 52 4)
      s.takes (.mgmt c) = true → bit v 63 = true → (s.mgmt c).abortBusy = false → s.journal.foBusy = false → s.geode.scan = false →
      (∀ m, hit = some m → (s.slotJ m).st = .accepted → s.slotFrozen m = false →
        ∃ t, exec (.cmdAbort c val) s = .next t ∧ (t.mgmt c).abortSts = 1 ∧ (t.slotJ m).st = .committed ∧ (t.slotJ m).status = .aborted ∧
          (t.slotJ m).result = 0) ∧
      (∀ m, hit = some m → (s.slotJ m).st ≠ .accepted → ∃ t, exec (.cmdAbort c val) s = .next t ∧ (t.mgmt c).abortSts = 2 ∧
        t.journal = s.journal) ∧
      (∀ w m, hit = none → q.nextPost = some w → q.lostStop = true → w.toNat % 2 ^ 48 = fld v 0 48 → s.nextSlot = some m →
        ∃ t, exec (.cmdAbort c val) s = .next t ∧ (t.mgmt c).abortSts = 3 ∧ (t.slotJ m).st = .committed ∧ (t.slotJ m).status = .aborted ∧
          (t.slotJ m).seq = w.toNat ∧ (t.sqOf (fld v 62 1) (fld v 56 6) (fld v 52 4)).lostStop = false) ∧
      (hit = none → (∀ w, q.nextPost = some w → q.lostStop = false ∨ w.toNat % 2 ^ 48 ≠ fld v 0 48) →
        ∃ t, exec (.cmdAbort c val) s = .next t ∧ (t.mgmt c).abortSts = 4 ∧ t.journal = s.journal))

/-! ## The vector engine -/

/-- Scalar vector instructions: each writes its register (S0 ignores it), VL or q, counts, and the next one follows, or IMM after a VBNZ whose
SD is then not zero; VRET frees the engine and counts the handler (R304, R307, R313). VCMP, VSEL, VMKLD and VMKST with legal operands: the
mask's bits, the elements selected by a mask, a mask from its bytes, and the bytes of a mask (R307). -/
def Obligations.VectorScalarsAndMasks : Prop :=
  (∀ (g : Fin 16) (s : State) (r : Handler) (w : Nat),
     let x := s.vec g
     (VecAt s g 0x01 r w → ∃ t, exec (.vnop g) s = .next t ∧ t.vec g = x.next r (r.pc + 1) ∧ t.mem = s.mem) ∧
     (VecAt s g 0x02 r w → ∃ t, exec (.vret g) s = .next t ∧
       t.vec g = { x with vseq := x.vseq + 1, run := none, lastTenant := r.tenant, lastFaulted := false, handled := x.handled + 1 }) ∧
     (VecAt s g 0x08 r w → ∃ t, exec (.vsi g) s = .next t ∧ t.mem = s.mem ∧
       t.vec g = (x.setS (vD w) (((BitVec.ofNat 28 w).signExtend 64).toNat)).next r (r.pc + 1)) ∧
     (VecAt s g 0x09 r w → ∃ t, exec (.vsadd g) s = .next t ∧ t.mem = s.mem ∧
       t.vec g = (x.setS (vD w) (x.sreg (vA w) +
         if vBs w then x.sreg (vB w) else ((BitVec.ofNat 28 w).signExtend 64).toNat)).next r (r.pc + 1)) ∧
     (VecAt s g 0x0A r w → ∃ t, exec (.vbnz g) s = .next t ∧ t.mem = s.mem ∧
       let y := x.setS (vD w) (x.sreg (vD w) + (2 ^ 64 - 1))
       t.vec g = y.next r (if y.sreg (vD w) ≠ 0 then fld w 0 12 else r.pc + 1)) ∧
     (VecAt s g 0x0B r w → ∃ t, exec (.vsetvl g) s = .next t ∧ t.mem = s.mem ∧ (t.vec g).vl = min (x.sreg (vA w)) 4096 ∧
       (vD w ≠ 0 → (t.vec g).sreg (vD w) = min (x.sreg (vA w)) 4096)) ∧
     (VecAt s g 0x0C r w → ∃ t, exec (.vsetq g) s = .next t ∧ t.mem = s.mem ∧ (t.vec g).q.toNat = x.sreg (vA w))) ∧
  (∀ (g : Fin 16) (s : State) (r : Handler) (w a : Nat) (as bs : List Nat) (ba : Option Nat) (d : Nat),
     let x := s.vec g
     let n := x.vl
     (VecAt s g 0x18 r w → s.vecIn g r w (vA w) n = .ok (a, as) → s.vecInB g r w n = .ok (ba, bs) →
       ∃ t, exec (.vcmp g) s = .next t ∧ t.mem = s.mem ∧ (t.vec g).vseq = x.vseq + 1 ∧
         ∀ i, i < 4096 → ((t.vec g).mk_ (fld w 0 2)).getLsbD i = (decide (i < n) && vecCond (fld w 2 2) (as.getD i 0) (bs.getD i 0))) ∧
     (VecAt s g 0x19 r w → s.vecIn g r w (vA w) n = .ok (a, as) → s.vecInB g r w n = .ok (ba, bs) →
       s.vecSp g r.tenant (x.sreg (vD w)) (vE w) (n * vE w) = .ok d →
       ∃ t, exec (.vsel g) s = .next t ∧ t.vec g = x.next r (r.pc + 1) ∧ SameMemOutside s t d (n * vE w) ∧
         (runsClash (n * vE w) a d = false → (∀ b, ba = some b → runsClash (n * vE w) b d = false) →
           VecResult s t g w d n fun i => if (x.mk_ (fld w 0 2)).getLsbD i then as.getD i 0 else bs.getD i 0)) ∧
     (VecAt s g 0x1A r w → s.vecSp g r.tenant (x.sreg (vA w)) 1 ((n + 7) / 8) = .ok a →
       ∃ t, exec (.vmkld g) s = .next t ∧ t.mem = s.mem ∧ (t.vec g).vseq = x.vseq + 1 ∧
         ∀ i, i < n → i < 4096 → ((t.vec g).mk_ (fld w 0 2)).getLsbD i = (memGet s.mem 0 (a + i / 8)).getLsbD (i % 8)) ∧
     (VecAt s g 0x1B r w → s.vecSp g r.tenant (x.sreg (vD w)) 1 ((n + 7) / 8) = .ok d →
       ∃ t, exec (.vmkst g) s = .next t ∧ t.vec g = x.next r (r.pc + 1) ∧ SameMemOutside s t d ((n + 7) / 8) ∧
         memRun t.mem 0 d ((n + 7) / 8) = leBytes ((n + 7) / 8) (x.mk_ (fld w 0 2)).toNat))

/-- VADD, VSUB, VMUL, VMAC and VNEG with legal operands: each element that the mask selects is the sum, difference, product, product plus
addend, or negative of its operands' elements, modulo q or 2^EW-width, a Montgomery product under MF; nothing outside the result changes
(R306-R308). -/
def Obligations.VectorModular : Prop :=
  ∀ (g : Fin 16) (s : State) (r : Handler) (w a : Nat) (as : List Nat) (ba ca : Option Nat) (bs cs : List Nat) (d : Nat)
    (io : Instr × Nat × (Nat → Nat → Nat → Nat)),
    let x := s.vec g
    let n := x.vl
    let q := x.q.toNat
    let m := if q = 0 then 2 ^ vBits w else q
    let prod (a b : Nat) : Nat := if vMf w then redc (a % m * (b % m)) q (negInv q % 2 ^ vBits w) (2 ^ vBits w) else a * b % m
    io ∈ [(Instr.vadd g, 0x10, fun a b _ => (a + b) % m), (Instr.vsub g, 0x11, fun a b _ => (((a : Int) - b) % m).toNat),
      (Instr.vmul g, 0x12, fun a b _ => prod a b), (Instr.vmac g, 0x13, fun a b c => (prod a b + c) % m),
      (Instr.vneg g, 0x14, fun a _ _ => ((-(a : Int)) % m).toNat)] →
    VecAt s g io.2.1 r w → vecQOk w q = true → s.vecIn g r w (vA w) n = .ok (a, as) →
    (if io.2.1 = 0x14 then ba = none ∧ bs = List.replicate n 0 else s.vecInB g r w n = .ok (ba, bs)) →
    (if io.2.1 = 0x13 then ∃ c, s.vecIn g r w (vC w) n = .ok (c, cs) ∧ ca = some c else ca = none ∧ cs = List.replicate n 0) →
    s.vecSp g r.tenant (x.sreg (vD w)) (vE w) (n * vE w) = .ok d →
    ∃ t, exec io.1 s = .next t ∧ t.vec g = x.next r (r.pc + 1) ∧ SameMemOutside s t d (n * vE w) ∧
      (runsClash (n * vE w) a d = false → (∀ b, ba = some b → runsClash (n * vE w) b d = false) →
        (∀ c, ca = some c → runsClash (n * vE w) c d = false) →
        VecResult s t g w d n fun i => io.2.2 (as.getD i 0) (bs.getD i 0) (cs.getD i 0))

/-- VDIG, VRSH and VSCAN with legal operands: the gadget digits of each element, the shifted and rounded elements, the running sums with their
segments; nothing outside the result changes (R307, R309-R311). -/
def Obligations.VectorDigitsShiftsScans : Prop :=
  ∀ (g : Fin 16) (s : State) (r : Handler) (w a : Nat) (as : List Nat) (d : Nat),
    let x := s.vec g
    let n := x.vl
    let e := vE w
    s.vecIn g r w (vA w) n = .ok (a, as) →
    (∀ l beta sel q, l = fld w 24 4 → beta = fld w 19 5 → sel = fld w 17 2 → q = x.q.toNat → VecAt s g 0x20 r w → vecQOk w q = true →
      q ≠ 0 → l * beta ≤ (if vW32 w then 30 else 60) → s.vecSeedBad g r w sel = false →
      s.vecSp g r.tenant (x.sreg (vD w)) e (l * n * e) = .ok d →
      ∃ t, exec (.vdig g) s = .next t ∧ t.vec g = x.next r (r.pc + 1) ∧ SameMemOutside s t d (l * n * e) ∧
        (beta ≠ 0 → (a = d ∨ overlap a (a + n * e) d (d + l * n * e) = false) → ∀ k, k < l →
          VecResult s t g w (d + k * n * e) n fun i => resOf q ((gadget (vRnd w) q l beta (as.getD i 0 % q)
            (s.vecDraw g sel i (as.getD i 0 % q * 2 ^ (l * beta) % q) 32)).getD k 0))) ∧
    (∀ k sel, k = fld w 0 6 → sel = fld w 26 2 → VecAt s g 0x21 r w → s.vecSeedBad g r w sel = false →
      s.vecSp g r.tenant (x.sreg (vD w)) e (n * e) = .ok d →
      ∃ t, exec (.vrsh g) s = .next t ∧ t.vec g = x.next r (r.pc + 1) ∧ SameMemOutside s t d (n * e) ∧
        (runsClash (n * e) a d = false → VecResult s t g w d n fun i =>
          let v := as.getD i 0
          let c := v % 2 ^ k
          (((if bit w 6 then signed (vBits w) v else (v : Int)) / (2 ^ k : Nat) +
            (if vRnd w = 0 then (if 2 ^ (k - 1) ≤ c then 1 else 0)
              else if vRnd w = 2 then (if s.vecDraw g sel i c k < c then 1 else 0) else 0)) % (2 ^ vBits w : Nat)).toNat)) ∧
    (VecAt s g 0x22 r w → vecQOk w x.q.toNat = true → s.vecSp g r.tenant (x.sreg (vD w)) e (n * e) = .ok d →
      ∃ t, exec (.vscan g) s = .next t ∧ t.vec g = x.next r (r.pc + 1) ∧ SameMemOutside s t d (n * e) ∧
        (runsClash (n * e) a d = false → VecResult s t g w d n fun i =>
          (scanGo w x.q.toNat (bit w 0) 0 (((List.range n).zip as).map fun iv =>
            (iv.2, bit w 3 && (x.mk_ (fld w 1 2)).getLsbD iv.1))).getD i 0))

/-- VMV, VLD and VST with legal operands whose accesses succeed. VMV: each batch's accumulator receives its sums where the mask selects it,
if no accumulator meets another one, a digit run or the matrix; nothing outside the accumulators changes. VLD: the elements of the run read
stand at the scratchpad run; nothing outside it changes. VST to the scratchpad likewise; VST to a virtual address leaves the memory that the
stores of its selected elements give (R305-R307, R312). -/
def Obligations.VectorMemory : Prop :=
  ∀ (g : Fin 16) (s s1 : State) (r : Handler) (w : Nat),
    let x := s.vec g
    let n := x.vl
    let e := vE w
    (∀ accs digs rows ma, let rcnt := fld w 14 14 + 1
      let c := x.sreg (vC w)
      let mv := x.sreg (vB w)
      let sp := !vBs w && !bit mv 63
      VecAt s g 0x28 r w → vecQOk w x.q.toNat = true → (vBs w = true ∨ fld c 40 24 % e = 0 ∨ rcnt = 1) →
      s.vecSpan g r.tenant (x.sreg (vD w)) e (fld c 0 20) (fld w 11 3 + 1) (n * e) = .ok accs →
      s.vecSpan g r.tenant (x.sreg (vA w)) e (fld c 20 20) (fld w 11 3 + 1) (rcnt * e) = .ok digs →
      (sp = true → s.vecSp g r.tenant mv e ((rcnt - 1) * fld c 40 24 + n * e) = .ok ma) →
      (if vBs w then s1 = s ∧ rows = List.replicate rcnt (List.replicate n mv)
        else s.vecRows g r.tenant (fld w 0 2) e mv (fld c 40 24) (n * e) (List.range rcnt) = (s1, rows, none)) →
      ∃ t, exec (.vmv g) s = .next t ∧ t.vec g = x.next r (r.pc + 1) ∧
        (∀ b, (∀ acc, acc ∈ accs → b < acc ∨ acc + n * e ≤ b) → memGet t.mem 0 b = memGet s1.mem 0 b) ∧
        ((∀ acc, acc ∈ accs → (∀ dig, dig ∈ digs → overlap acc (acc + n * e) dig (dig + rcnt * e) = false) ∧
            (sp = true → overlap acc (acc + n * e) ma (ma + (rcnt - 1) * fld c 40 24 + n * e) = false) ∧
            (accs.filter fun p => overlap acc (acc + n * e) p (p + n * e)).length ≤ 1) →
          ∀ (k acc dig : Nat), accs[k]? = some acc → digs[k]? = some dig →
            VecResult s1 t g w acc n fun i =>
              (vmvAcc w x.q.toNat (if bit w 10 then List.replicate n 0 else eltsOf e n (s1.bytes acc (n * e)))
                (eltsOf e rcnt (s1.bytes dig (rcnt * e))) rows).getD i 0)) ∧
    (∀ b d, VecAt s g 0x30 r w → s.vecSp g r.tenant (x.sreg (vD w)) e (n * e) = .ok d →
      s.vecRead g r.tenant (fld w 0 2) e (x.sreg (vA w)) (n * e) = (s1, b, none) → b.length = n * e →
      ∃ t, exec (.vld g) s = .next t ∧ t.vec g = x.next r (r.pc + 1) ∧ SameMemOutside s1 t d (n * e) ∧
        ((∀ a, bit (x.sreg (vA w)) 63 = false → s.vecSp g r.tenant (x.sreg (vA w)) e (n * e) = .ok a → runsClash (n * e) a d = false) →
          VecResult s1 t g w d n fun i => (eltsOf e n b).getD i 0)) ∧
    (∀ a vs, VecAt s g 0x31 r w → s.vecIn g r w (vA w) n = .ok (a, vs) →
      (∀ d, bit (x.sreg (vD w)) 63 = false → s.vecSp g r.tenant (x.sreg (vD w)) e (n * e) = .ok d →
        ∃ t, exec (.vst g) s = .next t ∧ t.vec g = x.next r (r.pc + 1) ∧ SameMemOutside s t d (n * e) ∧
          (runsClash (n * e) a d = false → VecResult s t g w d n fun i => vs.getD i 0)) ∧
      (∀ va, bit (x.sreg (vD w)) 63 = true → vecVa (x.sreg (vD w)) e = .ok va →
        s.vecStore g r.tenant (fld w 0 2) e (if vMs w = 0 then none else some (x.mk_ (vMs w))) va vs = (s1, none) →
        ∃ t, exec (.vst g) s = .next t ∧ t.vec g = x.next r (r.pc + 1) ∧ t.mem = s1.mem))

/-- Dispatch on an idle vector engine takes the head request of its lowest queue: with a valid entry of the sender's tenant the payload stands
in S1-S31, everything else is zero and the handler runs from its entry's address; a handler above HLIMIT ends with ABORTED in FAULT_INFO
(R313, R314, R328). -/
def Obligations.VectorHandlers : Prop :=
  ∀ (g : Fin 16) (s : State),
    let x := s.vec g
    (∀ (q : Nat) (m : QMsg) l, x.run = none → s.blkOn (.vec g) = true → (s.hdr (.vec g)).halt = false →
      ((List.range 4).find? fun q => !((s.msg (epOfVec g)).queue q).isEmpty) = some q → (s.msg (epOfVec g)).queue q = m :: l →
      let off := fld x.htabBase.toNat 3 16 * 8 + 8 * mHandler m.hdr.toNat
      let e := s.num (hpDpa (2 * g) off) 8
      off + 8 ≤ 0x80000 → vecEntryOk e (s.epTenant (mSrc m.hdr.toNat)) = true →
      ∃ t h, exec (.vecDispatch g) s = .next t ∧ (t.msg (epOfVec g)).queue q = l ∧ (t.vec g).run = some h ∧ h.hdr = m.hdr ∧
        h.tenant = fld e 52 10 ∧ h.prog = fld e 0 20 ∧ h.pc = 0 ∧ (t.vec g).vl = 0 ∧ (t.vec g).q = 0 ∧ (t.vec g).vseq = 0 ∧
        (∀ k, (t.vec g).mk_ k = 0) ∧ ∀ k, k < 31 → (t.vec g).sreg (k + 1) = payWord m.payload k % 2 ^ 64) ∧
    (∀ r w, x.run = some r → x.hlimit ≠ 0 → s.vecFetch g r = .ok w →
      ∃ t, exec (.vecHandlerTimeout g) s = .next t ∧ (t.vec g).run = none ∧ (t.vec g).lastFaulted = true ∧
        (t.vec g).faultInfo = vecFaultInfo .aborted (fld w 56 8) r.pc ∧ (t.vec g).handled = x.handled + 1)

/-! ## Helper cores and messages -/

/-- Controls of a helper core: TENANT while it stands takes the tenant and zeroes its scratchpad; RUN starts it at BOOT_PC with its registers
zero; clearing RUN halts one that waits for nothing; kmhost puts a word into MBOX and raises the interrupt (R302, R318, R322, R329). Message
instructions of a free helper core: a KSEND request waits at its channel with its payload; a KRECV takes the head message, writes its bytes
to the buffer and its header to rd, or blocks on an empty queue; a KTEMIT with room delivers its token; KHRET resumes at kmepc; a dispatch
with a valid entry enters the handler (R324-R327). -/
def Obligations.HelperCores : Prop :=
  (∀ (h : Fin 32) (s : State),
     let x := s.helper h
     (∀ val : Word32, s.takes (.helper h) = true → x.run = false → x.running = false →
       ((s.vec (h / 2)).run.any fun r => r.tenant == x.tenant) = false →
       ∃ t, exec (.helperTenantWrite h val) s = .next t ∧ (t.helper h).tenant = fld val.toNat 0 10 ∧
         ∀ a, hpDpa h 0 ≤ a → a < hpDpa h 0 + 0x80000 → memGet t.mem 0 a = 0) ∧
     (∀ val : Word32, s.takes (.helper h) = true → bit val.toNat 0 = true → x.run = false → x.running = false →
       ∃ t, exec (.helperRunWrite h val) s = .next t ∧ (t.helper h).run = true ∧ (t.helper h).running = true ∧
         (t.helper h).pc = BitVec.ofNat 64 (fld x.bootPc.toNat 1 18 * 2) ∧ (∀ r, (t.helper h).xr r = 0) ∧
         (t.helper h).priv = bit val.toNat 1 ∧ (t.helper h).inh = false) ∧
     (∀ val : Word32, s.takes (.helper h) = true → bit val.toNat 0 = false → bit val.toNat 1 = x.priv → x.ktWait = none →
       ((List.range 8).all fun c => ((s.msg (epOfHelper h)).send c).isNone) = true →
       ∃ t, exec (.helperRunWrite h val) s = .next t ∧ (t.helper h).run = false ∧ (t.helper h).running = false ∧ (t.helper h).pc = x.pc) ∧
     (∀ val : Word64, s.helperFree h = true → x.held = false →
       ∃ t, exec (.kmhostWrite h val) s = .next t ∧ (t.helper h).mbox = val.setWidth 32 ∧ (t.hdr (.helper h)).irqSts.getLsbD 0 = true ∧
         (t.helper h).pc = x.pc + 4)) ∧
  (∀ (h rd rs1 rs2 : Fin 32) (queue : Fin 4) (reply : Bool) (s : State), s.helperFree h = true → (s.helper h).held = false →
     let x := s.helper h
     let ep := epOfHelper h
     let a := (x.xr rs1).toNat
     (ownMiss a (mLen (x.xr rs2).toNat) = none →
       (∃ t m, exec (.ksend h rd rs1 rs2 queue false) s = .next t ∧ (t.msg ep).send queue = some m ∧ m.hdr = x.xr rs2 ∧
         m.payload = s.bytes (hpDpa h a) (mLen (x.xr rs2).toNat) ∧ m.rd = rd.val ∧ t.helper h = x) ∧
       (∀ s1 c, s.sendReply ep queue (x.xr rs2) (s.bytes (hpDpa h a) (mLen (x.xr rs2).toNat)) = (s1, c) → s1.helper h = x →
         ∃ t, exec (.ksend h rd rs1 rs2 queue true) s = .next t ∧ (t.helper h).pc = x.pc + 4 ∧
           (rd ≠ 0 → (t.helper h).xr rd = BitVec.ofNat 64 c.num))) ∧
     (∀ m l, (s.msg ep).queue ((if reply then 4 else 0) + queue.val) = m :: l → ownMiss a m.image.length = none → m.image ≠ [] →
       ∃ t, exec (.krecv h rd rs1 queue reply) s = .next t ∧ (t.msg ep).queue ((if reply then 4 else 0) + queue.val) = l ∧
         (t.helper h).pc = x.pc + 4 ∧ (rd ≠ 0 → (t.helper h).xr rd = m.hdr) ∧ memRun t.mem 0 (hpDpa h a) m.image.length = m.image ∧
         SameMemOutside s t (hpDpa h a) m.image.length) ∧
     ((s.msg ep).queue ((if reply then 4 else 0) + queue.val) = [] →
       exec (.krecv h rd rs1 queue reply) s =
         .next (s.setHelper h { x with blocked := true, recv := (rd.val, rs1.val, (if reply then 4 else 0) + queue.val) })) ∧
     (∀ e q, a < 8 → (x.xr rs2).toNat < 2 ^ 17 → e = 4 * (h / 2) + a % 4 → q = (if bit a 2 then 13 else 12) → (s.eng e).tenant = x.tenant →
       (s.eng e).st ≠ .idle → (s.eng e).inReset = false → s.blkOn (.engine e) = true → s.tokWaits e q = false →
       ∃ t, exec (.ktemit h rd rs1 rs2) s = .next t ∧ (rd ≠ 0 → (t.helper h).xr rd = 0) ∧
         (t.eng e).queue q = (s.eng e).queue q ++ [⟨BitVec.ofNat 16 (x.xr rs2).toNat, bit (x.xr rs2).toNat 16⟩]) ∧
     (x.inh = true → ∃ t, exec (.khret h) s = .next t ∧ (t.helper h).inh = false ∧ (t.helper h).pc = x.kmepc) ∧
     (∀ (q : Nat) (m : QMsg), x.de = true → x.inh = false → s.dispatchable h = some (q, m) →
       let at_ := x.kmhtab.toNat / 8 * 8 + 8 * mHandler m.hdr.toNat
       at_ + 8 ≤ 0x80000 → bit (s.num (hpDpa h at_) 8) 63 = true →
       ∃ t, exec (.helperDispatch h) s = .next t ∧ (t.helper h).inh = true ∧ (t.helper h).kmhdr = m.hdr ∧ (t.helper h).kmepc = x.pc ∧
         (t.helper h).pc = BitVec.ofNat 64 (fld (s.num (hpDpa h at_) 8) 1 18 * 2)))

/-- Messages: one whose checks pass and whose receiver has room is enqueued with its delivered header, and its sender's channel is free with
status OK; a send that has waited its limit and still lacks a resource, and a KTEMIT that has waited for room, end with QUEUE_WOULD_BLOCK; an outbound record becomes its channel's message; a receiver's CI at a record
boundary is written; ring and route registers take well-formed values while their queue or unit is idle (R334-R338, R343-R348, R351, R353). -/
def Obligations.MessageCommands : Prop :=
  ∀ (ep : Fin 128) (ch : Fin 8) (s : State),
    (∀ x dst q handler, epIsHelper ep = true → (s.msg ep).send ch = some x → x.ended = none → s.msgCheck ep ch x.hdr.toNat x.payload.length = .ok (dst, q, handler) →
      epIsEngine dst = false → dst ≠ ep.val → ((s.msg dst).queue q).length < 16 → x.payload.length ≤ 256 →
      (mRreq x.hdr.toNat = true → 0 < (s.msg ep).credit ch) → s.overtakes dst q x.arr = false →
      ∃ t, exec (.messageDeliver ep ch) s = .next t ∧ (t.msg ep).send ch = none ∧
        (t.msg dst).queue q = (s.msg dst).queue q ++ [{ hdr := deliveredHdr x.hdr.toNat handler ep false, payload := x.payload, ringOff := none }] ∧
        (x.rd ≠ 0 → (t.helper (epHelper ep)).xr x.rd = 0)) ∧
    (∀ x dst q handler, epIsHelper ep = true → (s.msg ep).send ch = some x → x.ended = none →
      (s.msg ep).sendWaitLimit ≤ s.cyc (epIsland ep) - x.at_ → s.msgCheck ep ch x.hdr.toNat x.payload.length = .ok (dst, q, handler) →
      epIsEngine dst = false → 16 ≤ ((s.msg dst).queue q).length ∨ s.hasCredit ep ch x.hdr.toNat = false →
      ∃ t, exec (.sendWaitExpire ep ch) s = .next t ∧ (t.msg ep).send ch = none ∧
        fld (t.msg ep).fault.toNat 56 8 = Code.queueWouldBlock.num ∧
        (x.rd ≠ 0 → (t.helper (epHelper ep)).xr x.rd = BitVec.ofNat 64 Code.queueWouldBlock.num)) ∧
    (∀ e q tok rd, let y := s.helper (epHelper ep)
      epIsHelper ep = true → (s.msg ep).send ch = none → y.ktWait = some (e, q, tok, rd) →
      (s.msg ep).sendWaitLimit ≤ s.cyc (epIsland ep) - y.ktAt → (s.eng e).tenant = y.tenant → (s.eng e).st ≠ .idle →
      (s.eng e).inReset = false → s.blkOn (.engine e) = true → s.tokWaits e q = true → rd ≠ 0 →
      ∃ t, exec (.sendWaitExpire ep ch) s = .next t ∧ (t.helper (epHelper ep)).ktWait = none ∧
        (t.helper (epHelper ep)).xr rd = BitVec.ofNat 64 Code.queueWouldBlock.num) ∧
    (∀ (e : Fin 64) (c : Fin 4) base, let m := s.msg (epOfEngine e)
      let at_ := base + 64 + ixOff (s.num (base + 8) 8)
      (m.send c) = none → ringValid (m.ring (8 + c)) = true → s.epPaused (epOfEngine e) = false → s.epUp (epOfEngine e) = true →
      s.ringDpa (epOfEngine e) (m.ring (8 + c)) = some base → s.num base 8 ≠ s.num (base + 8) 8 → bit (s.num (at_ + 8) 8) 63 = false →
      ∃ t y, exec (.outboundSend e c) s = .next t ∧ (t.msg (epOfEngine e)).send c = some y ∧ y.hdr = BitVec.ofNat 64 (s.num at_ 8) ∧
        y.payload = s.bytes (at_ + 16) (mLen y.hdr.toNat) ∧ t.mem = s.mem) ∧
    (∀ (ci : Word64) base, epIsHelper ep = true → ringValid ((s.msg ep).ring ch) = true → s.ringDpa ep ((s.msg ep).ring ch) = some base →
      ∃ t, exec (.ringCiWrite ep ch ci) s = .next t ∧
        (s.ixReach base (ringSize ((s.msg ep).ring ch)) (s.num base 8) ci.toNat 16384 (s.num (base + 8) 8) = true →
          (t.msg ep).stopped = (s.msg ep).stopped) ∧
        (s.ixReach base (ringSize ((s.msg ep).ring ch)) (s.num base 8) ci.toNat 16384 (s.num (base + 8) 8) = false →
          (t.msg ep).stopped.contains ch.val = true)) ∧
    (∀ (port : Fin 2) (fn : Fin 64) (r : Fin 12) (val : Word64), ep.val % 8 ≠ 7 → s.takes (.msg ep) = true → s.mayMsg port fn ep = true →
      ringExists ep r = true → s.ringOk ep val.toNat = true → (r.val < 8 → s.ringIdle ep r = true) →
      ∃ t, exec (.msgRingWrite port fn ep r val) s = .next t ∧ tget (t.msg ep).rings r 0 = val ∧ (t.msg ep).stopped.contains r.val = false) ∧
    (∀ (port : Fin 2) (fn : Fin 64) (n : Fin 64) (val : Word64), ep.val % 8 ≠ 7 → s.takes (.msg ep) = true → s.mayMsg port fn ep = true →
      s.epStill ep = true →
      ∃ t, exec (.routeEntryWrite port fn ep n val) s = .next t ∧ tget (t.msg ep).rt n 0 = val &&& 0x80037F0000000FFF#64)

/-! ## Handles, translation, cache, HBM, windows -/

/-- A handle write that R274 admits and that waits for no zero fill takes effect, at once or, where it needs blocks of another tenant, after
their zero fill, which leaves them zero; one that must wait joins those that wait, and they go on after the fill (R273-R275, R475).
TLB_INV while none runs is in progress until its completion, after which no gallery's cache holds a translation that it names (R281). -/
def Obligations.HandlesAndTranslation : Prop :=
  (∀ (port : Fin 2) (e h : Fin 64) (val : Word64) (s : State),
     let k := 64 * (e.val % 4) + h.val
     let a : Access := { port := port, fn := 0, off := handleOff 0 e h, size := 8, val := val }
     (s.takes (.gallery (e / 4)) = true → s.waitsFill a (some (e.val, h.val)) = false → s.handleBad e val.toNat h = false →
       (bit val.toNat 63 = false ∨ s.foreignBlocks e val.toNat = [] →
         ∃ t, exec (.handleWrite port 0 e h val) s = .next t ∧ t.handle e h = val.toNat ∧ t.mem = s.mem) ∧
       (bit val.toNat 63 = true → s.foreignBlocks e val.toNat ≠ [] →
         ∃ t, exec (.handleWrite port 0 e h val) s = .next t ∧ t.handle e h = s.handle e h ∧ t.mem = s.mem ∧
           ((t.gal (e / 4)).htNew.find? fun p => p.1 == k) = some (k, { val := val, port := port.val, fn := 0 }))) ∧
     (s.waitsFill a (some (e.val, h.val)) = true →
       exec (.handleWrite port 0 e h val) s = .next { s with dev := { s.dev with waitW := s.dev.waitW ++ [a] } }) ∧
     (∀ v, ((s.gal (e / 4)).htNew.find? fun p => p.1 == k) = some (k, v) →
       exec (.handleZeroFillDone e h) s = .next (s.handleTake e h v.val).fillDrain ∧
         (s.dev.waitW = [] → ∃ t, exec (.handleZeroFillDone e h) s = .next t ∧ t.handle e h = v.val.toNat ∧
           (bit v.val.toNat 63 = true → ∀ b, b ∈ s.foreignBlocks e v.val.toNat → ∀ a, spDpa e (b * 4096) ≤ a →
             a < spDpa e (b * 4096) + 4096 → memGet t.mem 0 a = 0)))) ∧
  (∀ (val : Word64) (s : State),
     (s.takes .dev = true → s.dev.tlbInv = none → exec (.tlbInv val) s = .next { s with dev := { s.dev with tlbInv := some val } }) ∧
     (s.dev.tlbInv = some val → ∃ t, exec .tlbInvComplete s = .next t ∧ t.dev.tlbInv = none ∧ t.mem = s.mem ∧
       ∀ g, g < 16 → ∀ c, c ∈ (t.gal g).tlb → tlbDrops val.toNat c = false))

/-- A cache request within its slice: a read returns the bytes that memory holds after the corrections of its codewords; a write under a hint
other than LAST puts its bytes where they belong and changes no other, where no line that leaves its slice brings older bytes back; a flush
is BUSY until it completes, and one with WB and INV leaves none of the lines that it began with (R283-R287, R290). HBM errors: a position
that has reached 256 corrections is declared failed while fewer than three of its pseudo-channel are; the patrol corrects a codeword whose
unknown errors the code covers and counts each, changing no byte; a stack that fails is FAILED (R290-R293, R414). -/
def Obligations.CacheAndHbm : Prop :=
  (∀ (c : Fin 4) (r : FlowReq) (s : State),
     let s1 := s.codesRead r
     (r.len ≠ 0 → inHbm r.dpa r.len = true → (∀ l, l ∈ linesOf r.dpa r.len → stackOf l / 2 = c.val) →
       (r.data = none → s1.ueIn r.dpa r.len = false →
         ∃ t, exec (.flowRequest c r) s = .next t ∧ t.lastRead = s1.num r.dpa r.len) ∧
       (∀ b, r.data = some b → b.length = r.len → r.hint ≠ 3 → SlicesClean s1 →
         ((linesOf r.dpa r.len).all fun l => !(s1.hbmc (stackOf l)).failed) = true →
         ∃ t, exec (.flowRequest c r) s = .next t ∧ t.bytes r.dpa r.len = b ∧ SameMemOutside s1 t r.dpa r.len)) ∧
     (∀ val : Word32, s.takes (.flow c) = true → (s.flow c).busy = false →
       ∃ t, exec (.flowFlush c val) s = .next t ∧ (t.flow c).busy = true ∧ (t.flow c).flush = some (bit val.toNat 0, bit val.toNat 1) ∧
         (t.flow c).sets = (s.flow c).sets ∧ t.mem = s.mem) ∧
     (∀ wb inv, (s.flow c).flush = some (wb, inv) →
       ∃ t, exec (.flowFlushComplete c) s = .next t ∧ (t.flow c).busy = false ∧ (t.flow c).flush = none ∧
         (wb = true → inv = true → ∀ l, l ∈ (t.flow c).lines → ¬ l.dpa ∈ (s.flow c).flushLines) ∧
         (SlicesClean s → t.mem = s.mem ∧
           (wb = true → ∀ l, l ∈ (t.flow c).lines → l.dpa ∈ (s.flow c).flushLines → l.dirty = [] ∧ l.shadow = [])))) ∧
  (∀ (n : Fin 8) (s : State),
     let x := s.hbmc n
     (∀ (pc : Fin 64) (sym : Fin 36), 256 ≤ tget x.corr (36 * pc.val + sym.val) 0 → (x.declared pc).getLsbD sym = false →
       pinCount (x.declared pc) < 3 →
       ∃ t, exec (.pinDeclare n pc sym) s = .next t ∧ ((t.hbmc n).declared pc).getLsbD sym = true ∧ t.mem = s.mem ∧
         tget (t.hbmc n).repair pc 0 = (t.hbmc n).declared pc) ∧
     (∀ (cw : Nat) (errs : List (Fin 36)), let pc := pcOf ((n.val * 2 ^ 30 + cw) * 64 % 2 ^ 36)
       x.scrubHours ≠ 0 → x.failed = false → x.selfRefresh = false → cw < 2 ^ 30 → s.hbmUe (n.val * 2 ^ 30 + cw) = false →
       2 * (x.unknown pc errs).length + pinCount (x.declared pc) ≤ 4 →
       ∃ t, exec (.patrolScrub n cw errs) s = .next t ∧ t.mem = s.mem ∧ t.ue = s.ue ∧
         ∀ i, i < 36 → tget (t.hbmc n).corr (36 * pc + i) 0 =
           if (x.unknown pc errs).contains i then min 256 (tget x.corr (36 * pc + i) 0 + 1) else tget x.corr (36 * pc + i) 0) ∧
     (x.failed = false → ∃ t, exec (.stackFail n) s = .next t ∧ (t.hbmc n).failed = true ∧ t.mem = s.mem))

/-- Windows and BAR2: OPEN of a closed window whose entry passes its checks, CLOSE, and its end; an access within the aperture by the physical
function reaches device memory at AP_BASE plus the offset, by a virtual function its tenant's memory (R298, R299, R356, R357). -/
def Obligations.WindowsAndAperture : Prop :=
  ∀ (w : Fin 256) (port : Fin 2) (fn : Fin 64) (off len : Nat) (s s1 : State),
    let a := (s.fn port fn).apBase.toNat + off
    let tenant := if fn.val = 0 then none else some (s.fn port fn).tenant
    (∀ b v, s.takes .dev = true → tget s.dev.wins w none = none → s.devRead 0 (s.dev.winBase.toNat + 32 * w.val) 32 = (s1, .ok b) →
      s1.winOf b = some v → ∃ t, exec (.windowOpen w) s = .next t ∧ tget t.dev.wins w none = some v ∧ t.mem = s1.mem) ∧
    (∀ v, s.takes .dev = true → tget s.dev.wins w none = some v →
      ∃ t, exec (.windowClose w) s = .next t ∧ tget t.dev.wins w none = some { v with closing := true }) ∧
    (∀ v, tget s.dev.wins w none = some v → v.closing = true →
      ∃ t, exec (.windowCloseComplete w) s = .next t ∧ tget t.dev.wins w none = none) ∧
    (off + len ≤ (if fn.val = 0 then 2 ^ 30 else 2 ^ 28) →
      (∀ b, s.hostRead tenant a len = (s1, .ok b) → exec (.bar2Access port fn off len none) s = .next { s1 with lastRead := ofLe b }) ∧
      (∀ b, s.hostWrite tenant a b = (s1, none) → exec (.bar2Access port fn off len (some b)) s = .next s1)) ∧
    (∀ b : Bytes, fn.val = 0 → off + len ≤ 2 ^ 30 → b.length = len → 0 < len → spBase ≤ a → a + len ≤ spBase + 0x20000000 →
      ∃ t, exec (.bar2Access port fn off len (some b)) s = .next t ∧ t.bytes a len = b ∧ SameMemOutside s t a len)

/-! ## Peer links and transfers -/

/-- Link training: EN and RETRAIN train; training ends with a link whose width is at least MINW in IDENT with its nonce sent, or DOWN with its
cause; the loss of a lane in use and eight replays retrain; DOWN with EN retries; clearing EN disables with cause 1 (R390-R394, R405, R406). -/
def Obligations.LinkTraining : Prop :=
  ∀ (n : Fin 64) (s : State),
    let x := s.link n
    (∀ val : Word32, s.takes (.link n) = true → fld val.toNat 8 2 ≠ 3 → fld val.toNat 0 3 ∈ [1, 2, 4] →
      (x.st = .disabled → ∃ t, exec (.linkEnable n val) s = .next t ∧ (t.link n).st = .training ∧ (t.link n).en = true ∧
        (t.link n).minw = fld val.toNat 0 3 ∧ (t.link n).bundle = fld val.toNat 16 4) ∧
      (x.st ≠ .disabled → ∃ t, exec (.linkDisable n val) s = .next t ∧ (t.link n).st = .disabled ∧ (t.link n).en = false ∧
        (t.link n).downCause = 1)) ∧
    (s.takes (.link n) = true → x.en = true → x.minw ∈ [1, 2, 4] → x.roleEff < 3 →
      ∃ t, exec (.linkRetrain n) s = .next t ∧ (t.link n).st = .training ∧ (t.link n).retrain = true) ∧
    (∀ pass : BitVec 4, x.st = .training →
      (widthOf pass ≠ 0 → x.minw ≤ widthOf pass → ∃ t f, exec (.linkTrainComplete n true pass) s = .next t ∧ (t.link n).st = .ident ∧
        (t.link n).width = widthOf pass ∧ (t.link n).laneLocked = pass ∧ (t.link n).laneFailed = ~~~pass ∧
        (t.link n).lanes = lanesOf pass ∧ (t.link n).nonceOut = f ∧
        (t.link n).wire = x.wire ++ [localFlit tyIdent false 0 ([0, BitVec.ofNat 8 pverSup] ++ f)]) ∧
      (widthOf pass ≠ 0 → widthOf pass < x.minw → ∃ t, exec (.linkTrainComplete n true pass) s = .next t ∧ (t.link n).st = .down ∧
        (t.link n).downCause = 5) ∧
      (∃ t, exec (.linkTrainComplete n false pass) s = .next t ∧ (t.link n).st = .down ∧ (t.link n).downCause = 2) ∧
      (widthOf pass = 0 → ∃ t, exec (.linkTrainComplete n true pass) s = .next t ∧ (t.link n).st = .down ∧ (t.link n).downCause = 3)) ∧
    (∀ lane : Fin 4, x.st = .ident ∨ x.st = .found ∨ x.st = .active →
      x.laneLocked.getLsbD lane = true →
      ∃ t, exec (.laneLockLoss n lane) s = .next t ∧ (t.link n).laneLocked.getLsbD lane = false ∧
        (t.link n).st = if x.lanes.getLsbD lane then .training else x.st) ∧
    (∀ l k, x.lastReplay = some (l, k) → 8 ≤ k → x.st = .active →
      ∃ t, exec (.replayLimit n) s = .next t ∧ (t.link n).st = .training ∧ (t.link n).downCause = 4) ∧
    (x.st = .down → x.en = true → ∃ t, exec (.linkDownRetry n) s = .next t ∧ (t.link n).st = .training)

/-- Identity and roles: a nonce is kept and answered with this device's block; a block that does not verify makes the link UNTRUSTED, one that
does, on a link that was not ACTIVE before, with a common version, leaves FOUND and the partner's identity; a role makes a FOUND link ACTIVE
in its bundle (R392-R396, R406). The route store and the device ID: GO with a device ID and a readable table of entries that pass loads the
store for use at its completion; DEV_ID changes while no link is ACTIVE (R398, R399). -/
def Obligations.LinkIdentityAndRoutes : Prop :=
  (∀ (n : Fin 64) (s : State),
     let x := s.link n
     (∀ b : Bytes, x.st = .ident → ∃ t f, exec (.ident n (.nonce b)) s = .next t ∧ (t.link n).nonceIn = b ∧ (t.link n).st = .ident ∧
       (t.link n).wire = x.wire ++ identPieces f ∧ f = ((s.setLink n { x with nonceIn := b }).identBlock n).2) ∧
     (∀ (b : Bytes) (pver : Word32), x.st = .ident → identOk x.nonceOut b = false →
       ∃ t, exec (.ident n (.block b pver)) s = .next t ∧ (t.link n).st = .untrusted ∧ (t.link n).downCause = 6) ∧
     (∀ (b : Bytes) (pver : Word32), let v := min (topVersion pverSup) (topVersion pver.toNat)
       x.st = .ident → identOk x.nonceOut b = true → v ≠ 0 → bit pverSup v = true → bit pver.toNat v = true → x.before = none →
       ∃ t, exec (.ident n (.block b pver)) s = .next t ∧ (t.link n).st = .found ∧ (t.link n).pver = v ∧
         (t.link n).partnerFp = fp64 ((b.drop 8).take 2592)) ∧
     (∀ val : Word32, let role := fld val.toNat 8 2
       s.takes (.link n) = true → s.geode.holder ≠ none → x.st = .found → bit val.toNat 31 = true → bit val.toNat 30 = false → fld val.toNat 0 3 ∈ [1, 2, 4] →
       role = 1 ∨ role = 2 → s.bundleClash n (fld val.toNat 16 4) = false →
       ∃ t, exec (.linkRoleWrite n val) s = .next t ∧ (t.link n).st = .active ∧ (t.link n).roleEff = role ∧
         (t.link n).bundleEff = fld val.toNat 16 4)) ∧
  (∀ (val : Word32) (s s1 : State), 
     (∀ b tbl, s.takes .dev = true → bit val.toNat 0 = true → s.dev.routeNew = none → s.dev.ownId.isSome = true →
       s.devRead 0 s.dev.routeBase.toNat 32768 = (s1, .ok b) → s1.routesFrom 0 (eltsOf 8 4096 b) = some tbl →
       ∃ t, exec (.routeSet val) s = .next t ∧ t.dev.routeNew = some tbl ∧ t.dev.routes = s.dev.routes ∧ t.dev.routeRefused = false) ∧
     (∀ tbl, s.dev.routeNew = some tbl → ∃ t, exec .routeSetComplete s = .next t ∧ t.dev.routes = tbl ∧ t.dev.routeNew = none) ∧
     (s.takes .dev = true → (∀ n, n < 64 → (s.link n).st ≠ .active) →
       exec (.devIdWrite val) s = .next { s with dev := { s.dev with devId := val &&& 0x80000FFF#32 } }))

/-- Link-local flits that a link hears: ACK frees the flits up to its LSEQ, NAK sends those from its LSEQ on again, CREDIT grants its count or
lets a flit that waits in the bundle out under its next BSN and the link's next LSEQ, IDLE and MGMT only count; a flit that fails its check is answered with a NAK (R389, R390). -/
def Obligations.LinkLocalFlits : Prop :=
  ∀ (n : Fin 64) (s : State),
    let x := s.link n
    x.hears = true →
    (∀ lseq l, fromLseq lseq x.replay = some l → ∃ t k, exec (.ack n lseq) s = .next t ∧ (t.link n).replay = l.tail ++ k) ∧
    (∀ lseq l, fromLseq lseq x.replay = some l → ∃ t, exec (.nak n lseq) s = .next t ∧ (t.link n).wire = x.wire ++ l ∧
      (t.link n).replay = x.replay ∧ (t.link n).replays = x.replays + BitVec.ofNat 64 l.length) ∧
    (∀ vc count, (s.bundle x.bundleEff).resend = [] → (s.bundle x.bundleEff).tx = [] → ∃ t, exec (.credit n vc count) s = .next t ∧ (t.link n).credit vc = x.credit vc + count ∧
      (t.link n).credit (!vc) = x.credit (!vc)) ∧
    (∀ (f : Flit) fwd count, let y := s.bundle x.bundleEff
      y.resend = [] → y.tx = [(fwd, f)] → s.bundleLinks x.bundleEff f = [n.val] → x.replay.length < 512 → 0 < count →
      ∃ t, exec (.credit n f.hdr.vc count) s = .next t ∧ (t.bundle x.bundleEff).tx = [] ∧ (t.bundle x.bundleEff).txBsn = y.txBsn + 1 ∧
        (t.link n).txLseq = x.txLseq + 1 ∧ (t.link n).credit f.hdr.vc = x.credit f.hdr.vc + count - 1 ∧
        (t.link n).wire = x.wire ++ [{ f with hdr := { f.hdr with bsn := y.txBsn, lseq := x.txLseq } }]) ∧
    exec (.idle n) s = .next (s.event (.link n) 2 1) ∧ (∀ p, exec (.mgmt n p) s = .next (s.event (.link n) 2 1)) ∧
    (∃ t, exec (.flitCrcFail n) s = .next t ∧ (t.link n).wire = x.wire ++ [localFlit tyNak false x.rxLseq []] ∧
      (t.link n).rxLseq = x.rxLseq)

/-- End-to-end flits that arrive in their turn for this device: a WRITE through a window that allows it writes its bytes at their addresses; a
TOKEN that its window, tenant and queue admit enters the queue and the delivery table; a COMPL with OK ends its transfer; a WAIT changes
nothing beyond its reception; a RELEASE frees its slot's entries (R300, R389, R401-R403). Transfers over time: a waiting token whose engine
takes it enters its queue; a transfer without an answer is sent again in full while it may be, and otherwise ends (R349, R402, R404). -/
def Obligations.EndToEndTransfers : Prop :=
  (∀ (n : Fin 64) (h : FlitHdr) (s : State), InTurn s n h →
     (∀ xid win srcTenant off (data : Bytes) s1 s2 w runs,
       s1 = (s.receive n (flitOf tyWrite h (writePayload xid win.val srcTenant.val off data))).1 → data.length < 512 → off < 2 ^ 36 →
       s.delivered xid = none → s.winFor win.val h.src.val = some w → w.srcTenant = srcTenant.val → off + data.length ≤ w.pages * 65536 →
       s1.xlateAll none w.tenant (w.base + off) data.length true = (s2, runs, none) →
       ∃ t, exec (.write n h xid win srcTenant off data) s = .next t ∧ t.mem = (s2.writeEach runs data).mem ∧ t.dev.refused = s.dev.refused ∧
         (t.link n).rxLseq = (s.link n).rxLseq + 1) ∧
     (∀ xid win (engine : Fin 64) q13 poison value bytes w, let q := if q13 then 13 else 12
       (engine.val ≠ 0 ∨ q13 = true ∨ poison = true ∨ value ≠ 0) → (∀ d, d ∈ s.dev.dedup → d.xid ≠ xid) →
       (∀ v, v ∈ s.dev.waitToks → v.xid ≠ xid ∧ (v.eng ≠ engine.val ∨ v.q ≠ q)) → s.dev.dedup.length < 4096 → s.winFor win.val h.src.val = some w →
       s.dev.refused.contains xid = false → (s.eng engine).tenant = w.tenant → s.tokWaits engine q = false →
       ∃ t, exec (.token n h xid win engine q13 poison value bytes) s = .next t ∧
         (t.eng engine).queue q = (s.eng engine).queue q ++ [{ value := value, poison := poison }] ∧ (t.delivered xid).isSome = true) ∧
     (∀ xid tr, s.awaiting xid = some tr → ∃ t, exec (.compl n h xid 0) s = .next t ∧ t.awaiting xid = none) ∧
     (∀ xid, exec (.wait n h xid) s = .next (s.receive n (flitOf tyWait h (waitPayload xid))).1) ∧
     (∀ srcDev slot, ∃ t, exec (.release n h srcDev slot) s = .next t ∧
       ∀ d, d ∈ t.dev.dedup → ¬ (fld d.xid.toNat 52 12 = srcDev.val ∧ fld d.xid.toNat 39 13 = slot.val))) ∧
  (∀ (xid : Word64) (s : State),
     (∀ v, (s.dev.waitToks.find? fun v => v.xid == xid) = some v → s.tokWaits v.eng v.q = false → v.before s.dev.waitToks = false →
       s.dev.dedup.length < 4096 → ∃ t, exec (.waitTimer xid) s = .next t ∧ (t.eng v.eng).queue v.q = (s.eng v.eng).queue v.q ++ [v.tok] ∧ v ∉ t.dev.waitToks) ∧
     (∀ tr, s.awaiting xid = some tr → tr.tries < s.dev.e2eTries → s.reachable tr.dest = true →
       exec (.e2eTimeout xid) s = .next (tr.flits.foldl (fun u f => u.originate f)
         (s.modTransfer xid fun t => { t with tries := t.tries + 1 }))) ∧
     (∀ tr, s.awaiting xid = some tr → s.dev.e2eTries ≤ tr.tries ∨ s.reachable tr.dest = false →
       ∃ t, exec (.e2eTimeout xid) s = .next t ∧ t.awaiting xid = none))

/-! ## Error records, engine failures, ownership -/

/-- Error records: a Sump stores a record while it has room and counts it otherwise; draining raises the oldest one, which a CORRECTED one's
interval holds back and any other takes the next RSEQ into both buffers; posting writes the oldest record's 64 bytes at the tail and raises
the ring's interrupt, or sets ERR where the host fails; ERQ_EN and ERQ_HEAD (R420-R424, R432). -/
def Obligations.ErrorRecords : Prop :=
  ∀ (g : Fin 16) (c : Ctl) (s : State),
    let m := s.mgmt c
    (∀ r, ∃ t, exec (.sumpRecord g r) s = .next t ∧
      if (s.gal g).sump.length < 256 then (t.gal g).sump = (s.gal g).sump ++ [r]
      else (t.gal g).sump = (s.gal g).sump ∧ (t.gal g).sumpLost = (s.gal g).sumpLost + 1 ∧ (t.gal g).sumpLostFlag = true) ∧
    (∀ r l, s.heldPage (.gallery g) = false → (s.mgmtW.lost && s.mgmtE.lost) = false → (s.gal g).sump = r :: l →
      ∃ t, exec (.sumpDrain g) s = .next t ∧ (t.gal g).sump = l ∧
        ((s.sumpErr g r).cls ≠ .corrected → m.buf.length < 1024 →
          (t.mgmt c).buf = m.buf ++ [{ s.sumpErr g r with rseq := s.dev.rseq + 1 }]) ∧
        ((s.sumpErr g r).cls = .corrected → (s.dev.merges.any fun x => x.rcd.same (s.sumpErr g r)) = false →
          t.dev.merges = s.dev.merges ++ [{ id := s.dev.mergeId, rcd := s.sumpErr g r }] ∧ (t.mgmt c).buf = m.buf)) ∧
    (∀ id x, (s.dev.merges.find? fun x => x.id == id) = some x → m.buf.length < 1024 →
      ∃ t, exec (.mergeIntervalExpire id) s = .next t ∧ t.dev.merges = (s.dev.merges.filter fun x => x.id != id) ∧
        (t.mgmt c).buf = m.buf ++ [{ x.rcd with rseq := s.dev.rseq + 1 }]) ∧
    (∀ r l, m.buf = r :: l → m.canPost = true → s.scanHolds c = false → s.unserved (portOf c) = false →
      (∃ t, exec (.errorRecordPost c true) s = .next t ∧ (t.mgmt c).buf = l ∧
        memRun t.hostOut 0 (2 ^ 64 * portOf c + (m.erqBase.toNat + 64 * m.erqTail) % 2 ^ 64) 64 = r.image (s.fn (portOf c) 0).wall m.erqPhase ∧
        (t.mgmt c).erqTail = (if m.erqTail + 1 = m.erqSize then 0 else m.erqTail + 1) ∧ t.msix = s.msix ++ [(portOf c, 0, m.erqIv)] ∧
        (r.cls.severe = true → t.errN = true)) ∧
      exec (.errorRecordPost c false) s = .next (s.setMgmt c { m with erqErr := true })) ∧
    (∀ val : Word32, s.heldPage (.mgmt c) = false → bit val.toNat 31 = true → m.erqEn = false → 64 ≤ m.erqSize → m.erqSize ≤ 65536 →
      ∃ t, exec (.erqEnWrite c val) s = .next t ∧ (t.mgmt c).erqEn = true ∧ (t.mgmt c).erqErr = false ∧ (t.mgmt c).erqTail = 0 ∧
        (t.mgmt c).erqHead = 0 ∧ (t.mgmt c).erqPhase = true ∧ (t.mgmt c).erqIv = fld val.toNat 0 6 ∧ (t.mgmt c).buf = m.buf) ∧
    (∀ val : Word32, s.heldPage (.mgmt c) = false → fld val.toNat 0 17 < m.erqSize →
      ∃ t, exec (.erqHeadWrite c val) s = .next t ∧ (t.mgmt c).erqHead = fld val.toNat 0 17 ∧ (t.mgmt c).buf = m.buf)

/-- Engine failures: a failed check or a handshake that stalls resets the engine and holds it, under test or, on a failure soon after its last
test, FAILED; a test's end returns it to service or fails it; the threshold brings ERR_CNT to 4,096 above the last record's, where
it is not there (by how much more is the model's free choice: log entry 127), and raises a record; ENG_RETEST tests failed
engines again (R410-R413, R431). -/
def Obligations.EngineFailures : Prop :=
  ∀ (e : Fin 64) (s : State),
    let x := s.eng e
    let g := e.val / 4
    (x.inReset = false → s.blkOn (.engine e) = true → ∀ c, c ∈ [Instr.engineCheckFail e, Instr.handshakeTimeout e] →
      ∃ t, exec c s = .next t ∧ (t.eng e).inReset = true ∧ (t.eng e).st = .idle ∧ (t.eng e).slot = none ∧
        if x.failsAgain then (t.gal g).failed.getLsbD (e % 4) = true else (t.gal g).testing.getLsbD (e % 4) = true) ∧
    ((s.gal g).testing.getLsbD (e % 4) = true →
      (∃ t, exec (.engineSelftestEnd e true) s = .next t ∧ (t.gal g).testing.getLsbD (e % 4) = false ∧
        (t.gal g).failed.getLsbD (e % 4) = false ∧ (t.eng e).inReset = false ∧ (t.eng e).sinceTest = some 0) ∧
      (∃ t, exec (.engineSelftestEnd e false) s = .next t ∧ (t.gal g).testing.getLsbD (e % 4) = false ∧
        (t.gal g).failed.getLsbD (e % 4) = true ∧ t.eng e = x)) ∧
    (s.blkOn (.engine e) = true →
      ∃ t r, exec (.errCntThreshold e) s = .next t ∧ (t.eng e).corrBase = (t.hdr (.engine e)).errCnt.toNat ∧
        min (x.corrBase + 4096) 0xFFFFFFFF ≤ (t.eng e).corrBase ∧
        (x.corrBase + 4096 ≤ (s.hdr (.engine e)).errCnt.toNat → t.hdr (.engine e) = s.hdr (.engine e)) ∧
        r.cls = BitVec.ofNat 8 Cls.corrected.num ∧ ((s.gal g).sump.length < 256 → (t.gal g).sump = (s.gal g).sump ++ [r])) ∧
    (∀ (h : Fin 16) (val : Word32), s.blkOn (.gallery h) = true →
      ∃ t, exec (.engRetest h val) s = .next t ∧ ∀ j, j < 4 → bit val.toNat j = true → (s.gal h).failed.getLsbD j = true →
        (s.gal h).testing.getLsbD j = false → (t.gal h).testing.getLsbD j = true)

/-- Ownership of the device-wide state: heartbeats, first heartbeats of a boot, a stale claim that demotes, two claims at one epoch that freeze;
a lost controller, whose survivor takes the epoch, its caverns and the scan; the end of a reload; EPOCH_RESOLVE; the end of a takeover scan,
which applies the held writes as register writes in issue order (R418, R419, R480-R484, R489; the model's choices in it: log entries 67 and
68). -/
def Obligations.OwnershipAndLoss : Prop :=
  ∀ (c : Ctl) (s : State),
    let m := s.mgmt c
    let o := Ctl.other c
    (s.outOfReset = true →
      (s.geode.bootWait = true → (s.mgmt o).beat = true → ∀ epoch holds,
        ∃ t, exec (.heartbeat c epoch holds) s = .next t ∧ t.geode.holder = some .W ∧ t.geode.epoch = s.geode.epoch + 1 ∧
          t.geode.bootWait = false) ∧
      (s.geode.bootWait = false → ∀ epoch : Word64,
        exec (.heartbeat c epoch false) s = .next (s.setMgmt c { m with beat := true }) ∧
        (epoch.toNat < s.geode.epoch.toNat →
          ∃ t, exec (.heartbeat c epoch true) s = .next t ∧ (t.mgmt c).role = .mirror ∧ (t.mgmt c).reloading = true ∧ t.geode = s.geode) ∧
        (s.geode.epoch.toNat ≤ epoch.toNat → s.geode.frozen = false → s.geode.claim o = some epoch →
          ∃ t, exec (.heartbeat c epoch true) s = .next t ∧ t.geode.frozen = true ∧ t.mgmtW.role = .frozen ∧ t.mgmtE.role = .frozen) ∧
        (m.lost = false → (s.mgmt o).lost = false → ∀ i, i ∈ [Instr.controllerLost c, Instr.controllerFaultReport c] →
          ∃ t, exec i s = .next t ∧ (t.mgmt c).lost = true ∧ t.geode.holder = some o ∧ t.geode.scan = true ∧
            (s.geode.holder ≠ some o → t.geode.epoch = s.geode.epoch + 1) ∧ ∀ k, k ∈ cavernsOf c → (t.cavern k).secondary = true))) ∧
    (m.reloading = true → s.scanHolds c = false →
      ∃ t, exec (.mirrorReloadComplete c) s = .next t ∧ (t.mgmt c).reloading = false ∧ (t.mgmt c).lost = false ∧
        (t.mgmt c).epoch = s.geode.epoch ∧ (t.mgmt c).role = if s.geode.frozen then .frozen else .mirror) ∧
    (∀ val : Word32, s.geode.frozen = true → bit val.toNat 31 = true → (c = if bit val.toNat 0 then .E else .W) →
      ∃ t, exec (.epochResolve val) s = .next t ∧ t.geode.frozen = false ∧ t.geode.holder = some c ∧ t.geode.epoch = s.geode.epoch + 1 ∧
        (t.mgmt c).role = .holder ∧ (t.mgmt o).role = .mirror ∧ (t.mgmt o).reloading = true) ∧
    (∀ apply : State → Access → State, (∀ u a, exec (.registerWrite a) u = .next (apply u a)) → s.geode.scan = true →
      exec .takeoverScanComplete s = .next ((s.mgmtW.held ++ s.mgmtE.held).foldl apply
        { s with geode := { s.geode with scan := false }, mgmtW := { s.mgmtW with held := [] }, mgmtE := { s.mgmtE with held := [] } }))

/-! ## The Geode -/

/-- GET_CERTS, ATTEST and CTX_QUERY answer with the certificates, a signed report and the public fields of a context; ROLLBACK_COMMIT raises the
image's counter to its SVN; no tenant context changes (R439, R441-R444; the layout of the CTX_QUERY reply is the model's: log entry 73). -/
def Obligations.GeodeAnswers : Prop :=
  ∀ (p : Fin 2) (r : MReq) (s : State), ReqReady s r p →
    let n := r.payload.length
    let c := s.ctx (pnum r 0 2)
    (n = 0 → ∃ t, exec (.getCerts r) s = .next t ∧ Answered s t r p 0x01 .ok (s.identKey ++ Config.certChain) ∧ t.geode.ctx = s.geode.ctx) ∧
    (∀ tn sig, n = 34 → fld (pnum r 32 2) 10 5 = 0 → tn = (if bit (pnum r 32 2) 15 then some (fld (pnum r 32 2) 0 10) else none) →
      sig = (s.identSign (sha3_512 (s.report (ppart r 0 32) tn))).2 →
      ∃ t, exec (.attest r) s = .next t ∧ Answered s t r p 0x02 .ok (s.report (ppart r 0 32) tn ++ sig) ∧ t.geode.ctx = s.geode.ctx) ∧
    (n = 2 → pnum r 0 2 < 1024 →
      ∃ t b, exec (.ctxQuery r) s = .next t ∧ Answered s t r p 0x14 .ok (b :: (leBytes 8 c.ptRoot.toNat ++ leBytes 8 c.rseed.toNat ++
        leBytes 8 c.ownerFp.toNat ++ (if c.t = [] then zeros 64 else c.t))) ∧ t.geode.ctx = s.geode.ctx) ∧
    (n = 0 → s.geode.fallback = false →
      ∃ t, exec (.rollbackCommit r) s = .next t ∧ Answered s t r p 0x30 .ok [] ∧ t.geode.ctx = s.geode.ctx ∧
        ∀ i, tget t.geode.arb i 0 = if i = s.geode.cidx then max (tget s.geode.arb i 0) s.geode.svn else tget s.geode.arb i 0)

/-- Sessions and contexts: an OPEN that passes its checks opens a session under the next SID; a FINISH that verifies makes the context LIVE with
its root, seed and keys, one that does not discards the session; CTX_SET changes what its mask names of a LIVE context; CTX_DESTROY of a
quiet tenant frees the context, its keys and its blocks, and waits otherwise; a session expires (R383, R444-R449; the model's choices in it:
log entries 73 and 74). -/
def Obligations.SessionsAndContexts : Prop :=
  ∀ (p : Fin 2) (r : MReq) (s : State),
    let tn := pnum r 0 2
    let c := s.ctx tn
    (∀ k : Fin 1024, exec (.sessionExpire k) s = .next (s.setCtx k { s.ctx k with ses := none })) ∧
    (ReqReady s r p →
      (openOk r = true → c.st = .free → (c.ses.isSome = true ∨ s.sessions < 32) → s.lie.busy = false →
        ∃ t ses sig, exec (.sessionOpen r) s = .next t ∧ (t.ctx tn).ses = some ses ∧ (t.ctx tn).st = .free ∧ (t.ctx tn).sid = (c.sid + 1) % 2 ^ 16 ∧
          ses.sid = (c.sid + 1) % 2 ^ 16 ∧ ses.ptRoot.toNat = pnum r 8 8 ∧ ses.rseed.toNat = pnum r 0x10 8 ∧
          Answered s t r p 0x10 .ok (ses.openRsp ++ sig)) ∧
      (∀ ses, r.payload.length = 2256 → tn < 1024 → zeroAt r.payload 4 4 = true → zeroAt r.payload 0x689 7 = true →
        zeroAt r.payload 0x6CC 4 = true → c.ses = some ses → ses.sid = pnum r 2 2 → (ses.owner = true ∨ zeroAt r.payload 0x6D0 512 = true) →
        s.lie.busy = false → s.geode.holder.isSome = true →
        ∃ t, exec (.sessionFinish r) s = .next t ∧ (t.ctx tn).ses = none ∧ match finishOpen ses r.payload with
          | none => t.ctx tn = { c with ses := none } ∧ Answered s t r p 0x11 .permission []
          | some (cs, conf, tr) => (t.ctx tn).st = .live ∧ (t.ctx tn).ptRoot = ses.ptRoot ∧ (t.ctx tn).rseed = ses.rseed ∧
            (t.ctx tn).cs = cs ∧ (t.ctx tn).t = tr ∧ (t.ctx tn).nk = noiseKey cs tn ∧
            Answered s t r p 0x11 .ok (leBytes 2 tn ++ leBytes 2 ses.sid ++ conf)) ∧
      (∀ mask, mask = pnum r 2 2 → r.payload.length = 24 → tn < 1024 → mask < 4 → zeroAt r.payload 4 4 = true → c.st = .live →
        (bit mask 0 = true → ptRootOk (pnum r 8 8) = true) → s.geode.holder.isSome = true →
        ∃ t, exec (.ctxSet r) s = .next t ∧ Answered s t r p 0x12 .ok [] ∧
          t.ctx tn = { c with ptRoot := if bit mask 0 then BitVec.ofNat 64 (pnum r 8 8) else c.ptRoot,
                              rseed := if bit mask 1 then BitVec.ofNat 64 (pnum r 0x10 8) else c.rseed }) ∧
      (r.payload.length = 2 → tn < 1024 → s.geode.holder.isSome = true →
        (s.tenantQuiet tn = true → ∃ t, exec (.ctxDestroy r) s = .next t ∧ (t.ctx tn).st = .free ∧ (t.ctx tn).cs = [] ∧ (t.ctx tn).nk = [] ∧
          (t.ctx tn).ses = none ∧ Answered s t r p 0x13 .ok [] ∧ ∀ g, g < 16 → ∀ b, b ∈ (t.gal g).tags → b.2 ≠ tn + 1) ∧
        (s.tenantQuiet tn = false → ∃ t, exec (.ctxDestroy r) s = .next t ∧ (t.ctx tn).st = .destroying ∧ (t.ctx tn).ses = none ∧
          (t.mbox p).busy = true ∧ t.mem = s.mem)))

/-- Flash, owner, debug, DOE: FLASH_WRITE to a slot whose image does not run leaves its bytes there; OWNER_SET under the current owner's
signature sets key and slot; a challenge is drawn and answered, and expires; an unlock while every context is FREE consumes the challenge
and, where its tokens verify, halts every engine, helper core and vector engine, and otherwise gets PERMISSION; the DOE mailbox answers and
IDE_KM starts or stops the streams (R355, R443, R456, R457, R504; the layouts of OWNER_SET and DEBUG_UNLOCK are the model's: log entry 73). -/
def Obligations.FlashOwnerDebugDoe : Prop :=
  ∀ (p : Fin 2) (r : MReq) (s : State),
    exec .challengeExpire s = .next { s with geode := { s.geode with challenge := none } } ∧
    (ReqReady s r p →
      (∀ slot off data, slot = pnum r 0 1 → off = pnum r 4 4 → data = r.payload.drop 8 → 8 ≤ r.payload.length → slot ≤ 1 →
        zeroAt r.payload 1 3 = true → data.length ≤ 61440 → off + data.length ≤ 0x2000000 →
        (s.imageRuns = false ∨ (slot == 1) ≠ s.geode.imageB) →
        ∃ t, exec (.flashWrite r) s = .next t ∧ t.geode.flashRun (0x2000000 * slot + off) data.length = data ∧ Answered s t r p 0x31 .ok []) ∧
      (∀ cur, cur = s.geode.ownerKey → pnum r 2592 1 ≤ 1 →
        (cur = [] ∧ r.payload.length = 2593 ∨ cur ≠ [] ∧ r.payload.length = 7220 ∧
          Config.ownerVerify cur (ppart r 0 2593) (r.payload.drop 2593) = true) →
        ∃ t, exec (.ownerSet r) s = .next t ∧ t.geode.ownerKey = ppart r 0 2592 ∧ t.geode.preferB = (pnum r 2592 1 == 1) ∧
          Answered s t r p 0x32 .ok []) ∧
      (r.payload = [] → ∃ t b, exec (.debugChallenge r) s = .next t ∧ t.geode.challenge = some b ∧
        Answered s t r p 0x40 .ok (b ++ leBytes 8 s.identFp.toNat)) ∧
      (r.payload.length = 11942 → (∀ c, c ∈ s.geode.ctx → c.2.st = .free) →
        ∃ t, exec (.debugUnlock r) s = .next t ∧ t.geode.challenge = none ∧ t.geode.debug = s.geode.debug ∧ t.mem = s.mem ∧
          if s.tokensOk r.payload then
            t.geode.unlock = some (BitVec.ofNat 2 (pnum r 1 1), r) ∧ (t.mbox p).busy = true ∧ (∀ e, e < 64 → (t.hdr (.engine e)).halt = true) ∧
              (∀ h, h < 32 → (t.hdr (.helper h)).halt = true) ∧ (∀ g, g < 16 → (t.hdr (.vec g)).halt = true)
          else t.geode.unlock = none ∧ Answered s t r p 0x41 .permission [])) ∧
    (s.geodeUp = true → s.portServes p = true →
      (∀ m, ∃ t, exec (.doeRequest p (.spdm m)) s = .next t ∧ (t.port p).doe = Config.doeResponse m s.geode.drawn ∧
        (t.port p).ideLink = (s.port p).ideLink ∧ (t.port p).ideSel = (s.port p).ideSel) ∧
      (∀ start, ∃ t, exec (.doeRequest p (.ideKm start none)) s = .next t ∧ (t.port p).ideLink = start ∧ (t.port p).ideSel = (s.port p).ideSel) ∧
      (∀ start (i : Fin 8), ∃ t, exec (.doeRequest p (.ideKm start (some i))) s = .next t ∧ (t.port p).ideLink = (s.port p).ideLink ∧
        ∀ j, j < 8 → (t.port p).ideSel.getLsbD j = if j = i.val then start else (s.port p).ideSel.getLsbD j))

/-! ## The long-integer engine, the sideband, the TAP, block power -/

/-- GO of MODMUL, MODEXP and ECMUL on a free engine whose registers describe the operation: its outcome is the product or power modulo M, or the
point, in words, with OK and the cycles of R452, or LIE_FAIL with zeros where an operand fails its check; its completion writes the words at
R_ADDR and raises DONE; an ABORT ends it with ABORTED, and no byte beyond its result's is written (R450-R454; the curve and what a failed fetch leaves: log entries 69 and 70). -/
def Obligations.LongIntegerOperations : Prop :=
  ∀ (port : Fin 2) (a b m : List Word64) (s : State),
    let x := s.lie
    let nw := fld x.len.toNat 0 9
    let ew := fld x.len.toNat 16 9
    let began (t : State) (o : Code × List Word64) (n : Nat) : Prop :=
      t.lie.busy = true ∧ t.lie.owner = port.val ∧ t.lie.out = some (o.1, o.2, n) ∧ t.mem = s.mem
    (s.takes .lie = true → x.busy = false → x.geode = false →
      (fld x.op.toNat 0 8 = 1 → x.argsOk .modmul = true → ∃ t, exec (.modmul port (some a) (some b) (some m)) s = .next t ∧
        if modulusOk nw (valOf nw m) = true ∧ valOf nw a < valOf nw m ∧ valOf nw b < valOf nw m then
          began t (.ok, toWords nw (valOf nw a * valOf nw b % valOf nw m)) (3 * lieM nw + 528)
        else began t (.lieFail, toWords nw 0) (3 * lieM nw + 528)) ∧
      (fld x.op.toNat 0 8 = 2 → x.argsOk .modexp = true → ∃ t, exec (.modexp port (some a) (some b) (some m)) s = .next t ∧
        if modulusOk nw (valOf nw m) = true ∧ valOf nw a < valOf nw m then
          began t (.ok, toWords nw (valOf nw a ^ valOf ew b % valOf nw m)) ((128 * ew + 4) * lieM nw + 512)
        else began t (.lieFail, toWords nw 0) ((128 * ew + 4) * lieM nw + 512)) ∧
      (fld x.op.toNat 0 8 = 3 → x.argsOk .ecmul = true → ∃ t, exec (.ecmul port (some a) (some b)) s = .next t ∧
        match ecMul (valOf 6 a) (valOf 6 b) (valOf 6 (b.drop 6)) with
        | some p => began t (.ok, toWords 12 (p.1 + 2 ^ 384 * p.2)) (10112 * lieM 6 + 512)
        | none => began t (.lieFail, toWords 12 0) (10112 * lieM 6 + 512))) ∧
    (s.takes .lie = true → x.busy = true → x.geode = false →
      ∃ t, exec .lieAbort s = .next t ∧ t.lie.busy = false ∧ t.lie.code = Code.aborted.byte ∧ t.lie.work = [] ∧ t.lie.out = none ∧
        ∀ k, (∀ code w cycles, x.out = some (code, w, cycles) →
            let base := 2 ^ 64 * x.owner + x.rAddr.toNat
            k < base ∨ base + 8 * w.length ≤ k) → memGet t.hostOut 0 k = memGet s.hostOut 0 k) ∧
    (∀ code w cycles, x.out = some (code, w, cycles) → x.busy = true → x.geode = false → s.blkOn .lie = true → code ≠ .aborted →
      (∃ t, exec (.lieComplete true) s = .next t ∧ t.lie.busy = false ∧ t.lie.code = code.byte ∧ t.lie.cycles = cycles ∧ t.lie.work = [] ∧
        memRun t.hostOut 0 (2 ^ 64 * x.owner + x.rAddr.toNat) (8 * w.length) = (w.map fun v => leBytes 8 v.toNat).flatten ∧
        (t.hdr .lie).irqSts.getLsbD 0 = true) ∧
      (∃ t, exec (.lieComplete false) s = .next t ∧ t.lie.busy = false ∧ t.lie.code = Code.aborted.byte ∧ t.hostOut = s.hostOut))

/-- MCTP control messages while the Geode serves and no sideband request runs (R486; the response forms are the model's, log entry 75): an
endpoint ID is set and read back, the null and the broadcast ID are refused; the other messages change nothing but the response. The TAP
outside reset: IDCODE selects version 0xB, part 0x9640 and a one in bit 0, BYPASS and SAMPLE/PRELOAD their registers; EXTEST, CLAMP and
HIGHZ act in BOARD_TEST and change nothing outside it; TRST_N holds Test-Logic-Reset (R455, R495). -/
def Obligations.SidebandAndTap : Prop :=
  (∀ (s : State), s.geodeUp = true → s.geode.sbBusy = false →
     (∀ eid : Byte, eid ≠ 0x00 → eid ≠ 0xFF →
       exec (.setEndpointId eid) s = .next { s with geode := { s.geode with eid := eid }, sideband := [0x00, 0x01, 0x00, 0x00, eid, 0x00] } ∧
       exec .getEndpointId { s with geode := { s.geode with eid := eid } } =
         .next { s with geode := { s.geode with eid := eid }, sideband := [0x00, 0x02, 0x00, eid, 0x00, 0x00] }) ∧
     (∀ eid : Byte, eid = 0x00 ∨ eid = 0xFF → exec (.setEndpointId eid) s = .next { s with sideband := [0x00, 0x01, 0x02] }) ∧
     (∀ (ty sel : Byte), ∀ c, c ∈ [Instr.getEndpointUuid, Instr.getMctpVersionSupport ty, Instr.getMessageTypeSupport,
         Instr.getVendorDefinedMessageSupport sel] → ∃ b, exec c s = .next { s with sideband := b }) ∧
     (exec .getMessageTypeSupport s = .next { s with sideband := [0x00, 0x05, 0x00, 0x01, 0x7E] })) ∧
  (∀ (s : State),
     exec (.tapReset true) s = .next { s with tap := { trst := true } } ∧
     exec (.tapReset false) s = .next { s with tap := { s.tap with trst := false } } ∧
     (s.tap.trst = false →
       (∃ w : Word32, exec .idcode s = .next { s with tap := { s.tap with ir := .idcode, dr := w, driven := false, hiz := false } } ∧
         fld w.toNat 28 4 = 0xB ∧ fld w.toNat 12 16 = 0x9640 ∧ fld w.toNat 1 11 = Config.tapManufacturer.toNat ∧ bit w.toNat 0 = true) ∧
       exec .bypass s = .next { s with tap := { s.tap with ir := .bypass, dr := 0, driven := false, hiz := false } } ∧
       (∃ t, exec .samplePreload s = .next t ∧ t.tap.ir = .samplePreload ∧ t.tap.driven = false) ∧
       (s.geode.boardTest = true →
         (∃ t, exec .extest s = .next t ∧ t.tap.ir = .extest ∧ t.tap.driven = true ∧ t.tap.hiz = false) ∧
         exec .tapClamp s = .next { s with tap := { s.tap with ir := .clamp, dr := 0, driven := true, hiz := false } } ∧
         exec .highz s = .next { s with tap := { s.tap with ir := .highz, dr := 0, driven := false, hiz := true } })) ∧
     (s.geode.boardTest = false → ∀ c, c ∈ [Instr.extest, Instr.tapClamp, Instr.highz] → exec c s = .next s))

/-- Power states of a block whose page takes a write: EN of an OFF block starts it, of a STOPPING one waits; EN = 0 of an ON block stops it, or
is refused while it holds others up; HALT; RST passes through OFF; the ends of STARTING and STOPPING (R466, R476-R479; the model's choices
in it: log entries 74, 76 and 80). -/
def Obligations.BlockPower : Prop :=
  ∀ (k : Fin 16384) (p : Page) (s : State), Page.ofKey k = some p →
    let h := s.hdr p
    (s.heldPage p = false → s.geode.frozen = false →
      (p.fixedEn = false →
        (h.pstate = .off → ∃ t, exec (.blockEnable k) s = .next t ∧ (t.hdr p).pstate = .starting ∧ (t.hdr p).en = true) ∧
        (h.pstate = .stopping → exec (.blockEnable k) s = .next (s.setHdr p { h with en := true, pendingEnable := true })) ∧
        (h.pstate = .on → s.stopRefused p = false → exec (.blockDisable k) s = .next (s.setHdr p { h with en := false, pstate := .stopping })) ∧
        (h.pstate = .on → s.stopRefused p = true → ∃ t, exec (.blockDisable k) s = .next t ∧ (t.hdr p).pstate = .on ∧ (t.hdr p).en = h.en)) ∧
      (p.fixedEn = true → exec (.blockEnable k) s = .next s ∧ exec (.blockDisable k) s = .next s) ∧
      (∀ halt, (∀ e, p = .engine e → s.heldEngines.contains e = false) →
        ∃ t, exec (.blockHalt k halt) s = .next t ∧ t.hdr p = { h with halt := halt }) ∧
      (∃ t, exec (.blockReset k) s = .next t ∧ (t.hdr p).pstate = (if h.en || p.fixedEn then .starting else .off) ∧
        (t.hdr p).halt = h.halt)) ∧
    (h.pstate = .starting → s.startWaits p = false →
      ∃ t, exec (.blockStartComplete k) s = .next t ∧ (t.hdr p).pstate = if h.en then .on else .stopping) ∧
    (h.pstate = .off → h.pendingEnable = true → ∃ t, exec (.blockStartComplete k) s = .next t ∧ (t.hdr p).pstate = .starting) ∧
    (h.pstate = .stopping → s.stopReady p = true → ∃ t, exec (.blockStopComplete k) s = .next t ∧ (t.hdr p).pstate = .off)

/-! ## Resets, clocks, power, temperature -/

/-- Power and resets: standby power starts the Geode; PWRGD brings the device up from the selected image with every block ON but the Drips, which test themselves, and memory zero, or
into BOARD_TEST or RECOVERY; a boot that times out falls back or recovers; PWRGD low and SYS_RST_N low hold the islands, the latter keeping
the journal's EN, and its release restarts them; PERSTn_N takes a port down and lets it train (R437, R438, R493-R497, R505; the model's
choices in it: log entries 71, 77 and 78). -/
def Obligations.ResetsAndBringUp : Prop :=
  ∀ (s : State),
    let g := s.geode
    let off (t : State) : Prop := ∀ k p, Page.ofKey k = some p → p ≠ .geode → (t.hdr p).pstate = .off
    let on (t : State) : Prop := ∀ k p, Page.ofKey k = some p → p ≠ .geode →
      (t.hdr p).pstate = match p with | .drip _ => .starting | _ => .on
    (s.pins.standby = false → ∃ t, exec .standbyPowerUp s = .next t ∧ t.pins.standby = true ∧ t.geode.flash = g.flash ∧ t.geode.arb = g.arb ∧
      t.geode.ctx = [] ∧ t.mem = [] ∧ off t) ∧
    (∀ adr, s.pins.standby = true → s.pins.pwrgd = false →
      (∃ t, exec (.pwrgdRise true adr) s = .next t ∧ t.pins.pwrgd = true ∧ t.geode.boardTest = true ∧ off t) ∧
      (g.cold.imgChoice = none → ∃ t, exec (.pwrgdRise false adr) s = .next t ∧ t.pins.pwrgd = true ∧ t.geode.recovery = true ∧ off t) ∧
      (∀ b, g.cold.imgChoice = some b → s.pins.sysRst = true → ∃ t, exec (.pwrgdRise false adr) s = .next t ∧ t.pins.pwrgd = true ∧
        t.geode.imageB = b ∧ t.geode.bootWait = true ∧ t.geode.holder = none ∧ t.mem = [] ∧ t.journal.slots = [] ∧ on t)) ∧
    (g.bootWait = true → (g.fallback = true → ∃ t, exec .bootHeartbeatTimeout s = .next t ∧ t.geode.recovery = true ∧ off t) ∧
      (g.fallback = false → g.imgValid (!g.imageB) = true →
        ∃ t, exec .bootHeartbeatTimeout s = .next t ∧ t.geode.imageB = !g.imageB ∧ t.geode.fallback = true ∧ t.geode.bootWait = true)) ∧
    (s.pins.pwrgd = true → ∀ good, ∃ t, exec (.pwrgdFall good) s = .next t ∧ t.pins.pwrgd = false ∧ t.pins.thermtrip = false ∧ t.mem = [] ∧
      t.journal.slots = [] ∧ t.geode.ctx = [] ∧ off t) ∧
    (s.pins.sysRst = true → s.outOfReset = true → ∃ t, exec .sysRstAssert s = .next t ∧ t.pins.sysRst = false ∧ t.journal.en = s.journal.en ∧
      t.journal.pend = [] ∧ t.journal.runs = [] ∧ (∀ e, t.eng e = {}) ∧ t.geode.ctx = g.ctx ∧ off t) ∧
    (s.pins.sysRst = false → ({ s with pins := { s.pins with sysRst := true } } : State).outOfReset = true → g.unlock = none →
      ∃ t, exec .sysRstRelease s = .next t ∧ t.pins.sysRst = true ∧ t.journal.restart = s.journal.en ∧ t.mem = s.mem ∧
        (g.bootWait = false → ∀ c, g.holder = some c → t.geode.epoch = g.epoch + 1 ∧ t.geode.holder = some c) ∧ on t) ∧
    (∀ p : Fin 2, let x := s.port p
      (x.perst = false → exec (.perstAssert p) s =
        .next (s.setPort p { x with perst := true, up := false, downTimer := x.up || x.downTimer })) ∧
      (x.perst = true → ∃ t, exec (.perstRelease p) s = .next t ∧ (t.port p).perst = false ∧
        (t.port p).up = (s.outOfReset && !(if p = 0 then s.pins.lost0 else s.pins.lost1))))

/-- Reference clocks: a lost REFCLK takes its port down, LREF the links that are up, OSC_25M holds the islands and asserts SMBALERT_N; each
holds ERR_N until it returns (R499, R511). Power and temperature out of reset: above the limit the cavern that draws most runs one step
slower; thermal reports set the conditions of R502; PROCHOT_N and 105 °C send every cavern to step 12, a thermal step lowers one; conditions
clear; a waiting limit takes effect with PROCHOT_N high; at 115 °C THERMTRIP_N is asserted and the islands are held (R500-R503, R506; the
model's choices in it: log entry 79). -/
def Obligations.ClocksPowerAndTemperature : Prop :=
  (∀ (s : State),
     (∀ r, ∃ t, exec (.referenceClockLoss r) s = .next t ∧ t.errN = true) ∧
     (∀ p : Fin 2, (s.port p).up = true → ∃ t, exec (.referenceClockLoss (.refclk p)) s = .next t ∧ (t.port p).up = false ∧
       (t.port p).downTimer = true ∧ t.mem = s.mem) ∧
     (∃ t, exec (.referenceClockLoss .lref) s = .next t ∧ ∀ n, n < 64 →
       (t.link n).st = match (s.link n).st with | .disabled => .disabled | _ => .down) ∧
     (s.pins.pwrgd = true → ∃ t, exec (.referenceClockLoss .osc25m) s = .next t ∧ t.pins.oscDead = true ∧ t.pins.smbAlert = true ∧
       t.outOfReset = false ∧ ∀ e, t.eng e = {}) ∧
     (∀ r, ∃ t, exec (.referenceClockRestore r) s = .next t ∧ t.pins.oscDead = s.pins.oscDead ∧ t.mem = s.mem ∧
       match r with
       | .refclk p => (if p = 0 then t.pins.lost0 else t.pins.lost1) = false
       | .lref => t.pins.lostL = false
       | .osc25m => t.pins.lostO = false)) ∧
  (∀ (s : State) (temp : Word16),
     (s.outOfReset = true →
       (∀ (watts w0 w1 w2 w3 : Nat) (c : Nat) (w : Nat → Nat), w 0 = w0 → w 1 = w1 → w 2 = w2 → w 3 = w3 → s.geode.holder.isSome = true →
         s.dev.pwrLimit ≠ 0 → s.dev.coolCap ≠ 0 → min s.dev.pwrLimit s.dev.coolCap < watts → c < 4 → s.thermal c = false →
         (∀ d, d < 4 → s.thermal d = false → w d < w c ∨ (w d = w c ∧ c ≤ d)) →
         ∃ t, exec (.powerEvaluation watts w0 w1 w2 w3) s = .next t ∧ t.dev.watts = watts ∧ (t.cavern c).step = min ((s.cavern c).step + 1) 12 ∧
           ∀ d, d < 4 → d ≠ c → t.cavern d = s.cavern d) ∧
       (∀ c : Fin 4, atLeast temp s.dev.throtTemp = true → ∃ t, exec (.throttleTempReached c temp) s = .next t ∧
         (t.cavern c).throttle = true ∧ (t.cavern c).step = (s.cavern c).step ∧ tget t.dev.temp c 0 = temp) ∧
       (∀ n : Fin 8, atLeast temp 95 = true → ∃ t, exec (.hbmTemp95 n temp) s = .next t ∧ (t.cavern (n / 2)).hbm95 = true ∧
         (t.hbmc n).refresh2x = true ∧ tget t.dev.hbmTemp n 0 = temp) ∧
       (∀ die, atLeast temp 105 = true → ∃ t, exec (.criticalTemp die temp) s = .next t ∧ t.dev.critical = true ∧
         ∀ c, c < 4 → 12 ≤ (t.cavern c).step) ∧
       (∃ t, exec .prochotAssert s = .next t ∧ t.dev.prochot = true ∧ t.pins.prochotLow = true ∧ ∀ c, c < 4 → 12 ≤ (t.cavern c).step) ∧
       (∀ c : Fin 4, (s.cavern c).throttle = true ∨ (s.cavern c).hbm95 = true → (s.cavern c).step < 12 →
         ∃ t, exec (.thermalStep c) s = .next t ∧ (t.cavern c).step = (s.cavern c).step + 1 ∧ (t.cavern c).episode = true)) ∧
     (∀ n : Fin 8, atLeast temp 85 = true → ∃ t, exec (.hbmTemp85 n temp) s = .next t ∧ (t.hbmc n).refresh2x = true ∧
       tget t.dev.hbmTemp n 0 = temp) ∧
     (∃ t, exec .prochotDeassert s = .next t ∧ t.dev.prochot = false ∧ t.dev.pwrLimitNew = none ∧
       t.dev.pwrLimit = s.dev.pwrLimitNew.getD s.dev.pwrLimit) ∧
     (∀ c : Fin 4, s.dev.prochot = false → ∃ t, exec (.thermalClear c) s = .next t ∧ (t.cavern c).throttle = false ∧
       (t.cavern c).hbm95 = false ∧ (t.cavern c).episode = false ∧ (t.cavern c).step = (s.cavern c).step ∧ t.dev.critical = false) ∧
     (∀ die, atLeast temp 115 = true → s.pins.pwrgd = true → ∃ t, exec (.thermtrip die temp) s = .next t ∧ t.pins.thermtrip = true ∧
       t.pins.smbAlert = true ∧ t.outOfReset = false ∧ t.mem = [] ∧ ∀ e, t.eng e = {}))

/-! ## Register accesses -/

/-- Writes through BAR0 by a physical function that do not wait: IRQ_STS clears where ones are written, IRQ_EN takes the value,
IRQ_FRC sets, each in the bits that the page defines; a read-only header register and a reserved page ignore it, and so does a page of device-wide
state while nobody holds the epoch (the model's reading: log entry 104); a block register of a block that is not ON, or any but R483's in a
freeze, is refused as an error of the page and changes nothing else; HOP_BUDGET takes a value in its range and discards another (R10, R398,
R467, R468, R471, R476, R483). -/
def Obligations.RegisterWrites : Prop :=
  ∀ (k : Fin 16384) (p : Page) (port : Fin 2) (val : Word64) (s : State), Page.ofKey k = some p → s.heldPage p = false → s.direct port 0 →
    let w (o size : Nat) : Instr := .registerWrite { port := port, fn := 0, off := 4096 * k.val + o, size := size, val := val }
    let v : Word32 := val.setWidth 32
    let h := s.hdr p
    (s.geode.frozen = false → s.leaderless p = true → exec (w 0x01C 4) s = .next s) ∧
    (s.geode.frozen = false → s.leaderless p = false →
      (∃ t, exec (w 0x018 4) s = .next t ∧ (t.hdr p).irqSts = h.irqSts &&& ~~~(v &&& p.irqBits) ∧ (t.hdr p).irqEn = h.irqEn ∧ t.mem = s.mem) ∧
      (∃ t, exec (w 0x01C 4) s = .next t ∧ (t.hdr p).irqEn = v &&& p.irqBits ∧ (t.hdr p).irqSts = h.irqSts ∧ t.mem = s.mem) ∧
      (∃ t, exec (w 0x020 4) s = .next t ∧ (t.hdr p).irqSts = h.irqSts ||| (v &&& p.irqBits) ∧ (t.hdr p).irqEn = h.irqEn ∧ t.mem = s.mem) ∧
      (p.supervisor = none → ∀ o, o = 0x000 ∨ o = 0x004 ∨ o = 0x014 ∨ o = 0x028 → exec (w o 4) s = .next s)) ∧
    (∀ o size, p.supervisor = none → 0x100 ≤ o → p.regAt o = some (o, size) → o < 4096 → (size = 4 ∨ size = 8) → o % size = 0 → p ≠ .geode →
      frozenOk p o = false → (s.geode.frozen = true ∨ s.leaderless p = false ∧ s.blkOn p = false) →
      exec (w o size) s = .next (s.refuse p (if s.geode.frozen then .divergence else .badCommand))) ∧
    (p = .dev → s.takes .dev = true →
      (1 ≤ fld v.toNat 0 6 → exec (w 0x184 4) s = .next { s with dev := { s.dev with hopBudget := fld v.toNat 0 6 } }) ∧
      (fld v.toNat 0 6 = 0 → exec (w 0x184 4) s = .next (s.refuse .dev .badCommand))) ∧
    (∀ a : Access, Page.ofKey (a.off / 4096) = none → a.fn = 0 → accessOk a.off a.size = true → exec (.registerWrite a) s = .next s)

/-- A control message whose number a gallery's supervisor has applied changes nothing; a new one is recorded and its write applied (R419). A
read of SUMP_LOST returns the count and clears it; a read of a register that is not RC changes only the value read (R10, R431, R471). A
virtual function's write to a page that is neither its own nor its tenant's changes nothing but the page's error record; one to an engine's
STOP_CNT of its tenant is served (R473). -/
def Obligations.MessagesReadsAndRights : Prop :=
  (∀ (g : Fin 16) (c : Ctl) (num : Word32) (port : Fin 2) (val : Word64) (s : State),
     (∀ wr, mseqOld num ((s.gal g).mseq c) = true → exec (.controlMessage g c num wr) s = .next s) ∧
     (∀ (k : Nat) p, mseqOld num ((s.gal g).mseq c) = false → Page.ofKey k = some p → p.supervisor = some g.val → s.geode.frozen = false →
       ∃ t, exec (.controlMessage g c num { port := port, fn := 0, off := 4096 * k + 0x01C, size := 4, val := val }) s = .next t ∧
         (t.gal g).mseq c = num ∧ (t.hdr p).irqEn = val.setWidth 32 &&& p.irqBits) ∧
     (s.blkOn (.gallery g) = true → s.direct port 0 →
       ∃ t, exec (.rcRead port 0 (4096 * (0x400 + 0x40 * g.val) + 0x1C4) 4) s = .next t ∧
         t.lastRead = fld (s.readReg (.gallery g) 0x1C4) 0 32 ∧ (t.gal g).sumpLost = 0 ∧ (t.gal g).sumpLostFlag = false ∧
         (t.gal g).sump = (s.gal g).sump) ∧
     (s.blkOn .dev = true → s.direct port 0 → exec (.rcRead port 0 0x184 4) s = .next { s with lastRead := s.dev.hopBudget % 2 ^ 32 })) ∧
  (∀ (port : Fin 2) (fn e : Fin 64) (val : Word64) (s : State), fn ≠ 0 → s.heldPage (.engine e) = false → s.direct port fn →
     let w : Instr := .registerWrite { port := port, fn := fn, off := 4096 * (0x10 + e.val) + 0x128, size := 8, val := val }
     let c := s.entry port
     ((s.fn port fn).tenant ≠ (s.eng e).tenant → exec w s = .next (s.refuse (.engine e) .permission)) ∧
     ((s.fn port fn).tenant = (s.eng e).tenant → s.takes (.engine e) = true →
       ∃ t, exec w s = .next t ∧ (t.eng e).stopCnt = val.toNat ∧ (t.mgmt c).mseq = mseqNext (s.mgmt c).mseq ∧
         (t.gal (e / 4)).mseq c = mseqNext (s.mgmt c).mseq ∧ t.mem = s.mem))

/-- Far accesses of a free helper core to its own scratchpad: a load puts the little-endian bytes into rd, sign-extended where it is signed; a
store changes those bytes alone; a misaligned access elsewhere, and one to a reserved window by a core without PRIV, trap with cause 5 or 7 at mtvec
(R318, R319; the machine-mode entry is the model's reading: log entries 59 and 85). -/
def Obligations.HelperFarAccesses : Prop :=
  ∀ (h rd : Fin 32) (n : Nat) (signed short : Bool) (val : Word64) (addr : Word64) (s : State), s.helperFree h = true →
    let x := s.helper h
    let d := hpDpa h addr.toNat
    let next := if x.held then x.pc else x.pc + (if short then 2 else 4)
    (n = 1 ∨ n = 2 ∨ n = 4 ∨ n = 8) →
    (addr.toNat + n ≤ 0x80000 →
      (∃ t, exec (.helperFarAccess h addr n none rd signed short) s = .next t ∧ (t.helper h).pc = next ∧ t.mem = s.mem ∧
        (rd ≠ 0 → (t.helper h).xr rd = loadValue n (s.num d n) signed)) ∧
      (∃ t, exec (.helperFarAccess h addr n (some val) rd signed short) s = .next t ∧ (t.helper h).pc = next ∧
        t.bytes d n = leBytes n val.toNat ∧ SameMemOutside s t d n)) ∧
    (addr.toNat % n ≠ 0 ∧ 0x80000 < addr.toNat + n ∨ (x.priv = false ∧ 2 ≤ fld addr.toNat 62 2) → ∀ store,
      ∃ t, exec (.helperFarAccess h addr n store rd signed short) s = .next t ∧ t.mem = s.mem ∧
        (t.helper h).pc = x.csrOf 0x305 &&& ~~~3#64 ∧ (t.helper h).csrOf 0x341 = x.pc ∧ (t.helper h).csrOf 0x343 = addr ∧
        (t.helper h).csrOf 0x342 = if store.isSome then 7 else 5)

/-! ## Frames and the rules of single registers -/

/-- REDC computes exactly what R32 gives: its pseudocode's value, the one u below q with u·R ≡ t mod q for every t below q·R; the worked check. -/
def Obligations.RedcIsTheStatedReduction : Prop :=
  (∀ t q qneg R : Nat, (R = 2 ^ 64 ∨ R = 2 ^ 32) → q % 2 = 1 → qneg < R → (qneg * q + 1) % R = 0 → t < q * R →
    redc t q qneg R = (let u := (t + t % R * qneg % R * q) / R; if q ≤ u then u - q else u) ∧
    redc t q qneg R < q ∧ redc t q qneg R * R % q = t % q ∧ ∀ v, v < q → v * R % q = t % q → v = redc t q qneg R) ∧
  (∀ qneg, qneg < 2 ^ 64 → (qneg * 97 + 1) % 2 ^ 64 = 0 → 5 * 2 ^ 64 % 97 = 14 ∧ 7 * 2 ^ 64 % 97 = 39 ∧ redc (14 * 39) 97 qneg (2 ^ 64) = 1 ∧
    35 * 2 ^ 64 % 97 = 1) ∧
  5 * 2 ^ 32 % 97 = 78 ∧ 7 * 2 ^ 32 % 97 = 51

/-- BLK_VER of every page reads MAJOR 0x01, MINOR 0x00, STEPPING 0xB0 and zero elsewhere, and the read changes nothing else (R464). -/
def Obligations.BlockVersionReads : Prop :=
  ∀ (k : Nat) (p : Page) (port : Fin 2) (s : State), Page.ofKey k = some p → s.direct port 0 →
    ∃ v, exec (.rcRead port 0 (4096 * k + 0x004) 4) s = .next { s with lastRead := v } ∧
      fld v 24 8 = 0x01 ∧ fld v 16 8 = 0x00 ∧ fld v 8 8 = 0 ∧ fld v 0 8 = 0xB0

/-- A TCFG whose configuration fails R65 faults with SHAPE: no tile, byte of the tile file or latch changes, and its token enters its queue with
poison when it retires (R81). -/
def Obligations.RefusedTcfgChangesNoTile : Prop :=
  ∀ (e : Fin 64) (s s1 : State) (x : Iss), Issues s e 0x08 s1 x → (s1.eng e).cfgOk x.i.dst x.i.tileCfg = false →
    ∃ t v, exec (.tcfg e) s = .next t ∧ (t.eng e).window = (s.eng e).window ++ [v] ∧ v.fault = some .shape ∧
      (t.eng e).tiles = (s.eng e).tiles ∧ (t.eng e).tf = (s.eng e).tf ∧ (t.eng e).latch0 = (s.eng e).latch0 ∧
      (t.eng e).latch1 = (s.eng e).latch1 ∧
      ∀ u rest, let emit := fld v.word.toNat 108 4
        (u.eng e).window = v :: rest → emit ≠ 15 → (u.eng e).room emit = true →
        ∃ w tok, exec (.instructionRetire e) u = .next w ∧ (w.eng e).queue emit = (u.eng e).queue emit ++ [tok] ∧ tok.poison = true

/-- The frame of every command: the parts of the state that `mayChange` does not list for it are as they were; memory is such a part, so every
byte of it reads as before. -/
def Obligations.CommandsChangeOnlyTheirParts : Prop :=
  ∀ (c : Instr) (s t : State), exec c s = .next t → Changes (mayChange c) s t ∧
    (Part.mem ∉ mayChange c → ∀ a, memGet t.mem 0 a = memGet s.mem 0 a)

/-- The frame of the engine instructions that need no transfer and no key: every other engine and every other page's header are as they were,
and of the engine itself only tiles, tile file, latches, window, issue number, program counter, token queues and counters may change. -/
def Obligations.EngineInstructionFrame : Prop :=
  ∀ (e : Fin 64) (c : Instr) (s t : State),
    c ∈ [Instr.nop e, Instr.fence e, Instr.temit e, Instr.cnti e, Instr.cntd e, Instr.cmpb e, Instr.tcfg e, Instr.trel e, Instr.madd e,
      Instr.msub e, Instr.mmul e, Instr.mmac e, Instr.mneg e, Instr.ntt e, Instr.intt e, Instr.auto e, Instr.bconv e, Instr.modup e,
      Instr.moddn e, Instr.dcmp e, Instr.sxtr e, Instr.msw e] →
    exec c s = .next t →
    (∀ k, k ≠ e.val → t.eng k = s.eng k) ∧ (∀ p : Page, p.key ≠ (Page.engine e).key → t.hdr p = s.hdr p) ∧
    { t.eng e with tiles := (s.eng e).tiles, tf := (s.eng e).tf, latch0 := (s.eng e).latch0, latch1 := (s.eng e).latch1,
                   window := (s.eng e).window, issued := (s.eng e).issued, pc := (s.eng e).pc, queues := (s.eng e).queues,
                   ct := (s.eng e).ct, cp := (s.eng e).cp } = s.eng e

/-- The frame of the vector instructions: the other vector engines are as they were, and every bundle, link, port and ring of the device. -/
def Obligations.VectorInstructionFrame : Prop :=
  ∀ (g : Fin 16) (c : Instr) (s t : State),
    c ∈ [Instr.vnop g, Instr.vret g, Instr.vsi g, Instr.vsadd g, Instr.vbnz g, Instr.vsetvl g, Instr.vsetq g, Instr.vadd g, Instr.vsub g,
      Instr.vmul g, Instr.vmac g, Instr.vneg g, Instr.vcmp g, Instr.vsel g, Instr.vmkld g, Instr.vmkst g, Instr.vdig g, Instr.vrsh g,
      Instr.vscan g, Instr.vmv g, Instr.vld g, Instr.vst g] →
    exec c s = .next t →
    (∀ k, k ≠ g.val → t.vec k = s.vec k) ∧ t.journal = s.journal ∧ t.links = s.links ∧ t.bundles = s.bundles ∧ t.ports = s.ports ∧
      t.fns = s.fns ∧ t.streams = s.streams ∧ t.geode = s.geode ∧ t.dev = s.dev
end

