-- ==== Sys2Proof/Laws/Tables.lean ====
section
/-! SUPPORT. Laws of the tables and of the byte memory: a read after a write, and the canonical form that every memory operation
keeps. -/

namespace Sys2Proof.Laws

open Sys2Proof Sys2Proof.Machine

/-! ## Tables -/

theorem tget_append_of_miss {α : Type} (l r : Tbl α) (k : Nat) (d : α) (h : ∀ p, p ∈ l → p.1 ≠ k) : tget (l ++ r) k d = tget r k d := by
  induction l with
  | nil => rfl
  | cons p l ih =>
    obtain ⟨j, v⟩ := p
    have hj : j ≠ k := h (j, v) (by simp)
    simp only [List.cons_append, tget, hj, if_false]
    exact ih fun q hq => h q (by simp [hq])

theorem tget_of_miss {α : Type} (l : Tbl α) (k : Nat) (d : α) (h : ∀ p, p ∈ l → p.1 ≠ k) : tget l k d = d := by
  simpa [tget] using tget_append_of_miss l [] k d h

@[simp] theorem tget_nil {α : Type} (k : Nat) (d : α) : tget ([] : Tbl α) k d = d := rfl

/-- A table read at the key just written gives the value written. -/
@[simp] theorem tget_tset_self {α : Type} (t : Tbl α) (k : Nat) (v d : α) : tget (tset t k v) k d = v := by
  rw [tset, tget_append_of_miss _ _ _ _ (by intro p hp; simp at hp; omega)]
  simp [tget]

theorem tget_filter_of_keep {α : Type} (f : Nat × α → Bool) (t : Tbl α) (j : Nat) (d : α) (h : ∀ p, p ∈ t → p.1 = j → f p = true) :
    tget (t.filter f) j d = tget t j d := by
  induction t with
  | nil => rfl
  | cons p t ih =>
    obtain ⟨i, v⟩ := p
    have ih' := ih fun q hq => h q (by simp [hq])
    by_cases hf : f (i, v) = true
    · simp only [List.filter_cons, hf, if_true, tget, ih']
    · have hi : i ≠ j := fun hij => hf (h (i, v) (by simp) hij)
      simp only [List.filter_cons, hf, tget, hi, if_false]
      exact ih'

/-- A table read at another key than the one written gives what it gave. -/
@[simp] theorem tget_tset_other {α : Type} (t : Tbl α) {j k : Nat} (v d : α) (h : j ≠ k) : tget (tset t k v) j d = tget t j d := by
  rw [tset]
  by_cases hjk : j < k
  · have : ∀ (l r : Tbl α), (∀ p, p ∈ r → p.1 ≠ j) → tget (l ++ r) j d = tget l j d := by
      intro l r hr
      induction l with
      | nil => exact tget_of_miss r j d hr
      | cons p l ih => obtain ⟨i, x⟩ := p; simp only [List.cons_append, tget, ih]
    rw [this _ _ (by intro p hp; simp only [List.mem_cons, List.mem_filter, decide_eq_true_eq] at hp; rcases hp with rfl | ⟨_, hp⟩ <;> simp <;> omega)]
    exact tget_filter_of_keep _ _ _ _ (by intro p _ hp; simp [hp, hjk])
  · rw [tget_append_of_miss _ _ _ _ (by intro p hp; simp at hp; omega)]
    have hk : k ≠ j := fun h' => h h'.symm
    simp only [tget, hk, if_false]
    exact tget_filter_of_keep _ _ _ _ (by intro p _ hp; simp [hp]; omega)

theorem tget_tset {α : Type} (t : Tbl α) (j k : Nat) (v d : α) : tget (tset t k v) j d = if j = k then v else tget t j d := by
  by_cases h : j = k
  · subst h; simp
  · simp [h]

@[simp] theorem tget_tdel_self {α : Type} (t : Tbl α) (k : Nat) (d : α) : tget (tdel t k) k d = d :=
  tget_of_miss _ _ _ (by intro p hp; simpa [tdel] using (List.mem_filter.1 hp).2)

@[simp] theorem tget_tdel_other {α : Type} (t : Tbl α) {j k : Nat} (d : α) (h : j ≠ k) : tget (tdel t k) j d = tget t j d :=
  tget_filter_of_keep _ _ _ _ (by intro p _ hp; simp [hp, h])

/-! ## The byte memory -/

@[simp] theorem memGet_nil (d : Byte) (a : Nat) : memGet [] d a = d := rfl

theorem memGet_eq_tget (m : List Host.Cell) (d : Byte) (a : Nat) : memGet m d a = tget m a d := by
  induction m with
  | nil => rfl
  | cons c m ih => obtain ⟨j, v⟩ := c; simp only [memGet, tget, ih]

theorem memCells_bounds (d : Byte) (bs : Bytes) : ∀ (a : Nat) (c : Host.Cell), c ∈ memCells d a bs → a ≤ c.1 ∧ c.1 < a + bs.length ∧ c.2 ≠ d := by
  induction bs with
  | nil => intro a c hc; simp [memCells] at hc
  | cons b r ih =>
    intro a c hc
    simp only [memCells] at hc
    split at hc
    · obtain ⟨h1, h2, h3⟩ := ih (a + 1) c hc; simp only [List.length_cons]; exact ⟨by omega, by omega, h3⟩
    · rcases List.mem_cons.1 hc with rfl | hc
      · simp only [List.length_cons]; refine ⟨le_refl _, by omega, by assumption⟩
      · obtain ⟨h1, h2, h3⟩ := ih (a + 1) c hc; simp only [List.length_cons]; exact ⟨by omega, by omega, h3⟩

theorem tget_memCells (d : Byte) (bs : Bytes) : ∀ (a i : Nat), i < bs.length → tget (memCells d a bs) (a + i) d = bs.getD i d := by
  induction bs with
  | nil => intro a i h; simp at h
  | cons b r ih =>
    intro a i h
    cases i with
    | zero =>
      simp only [memCells]
      split
      · rename_i hb
        rw [tget_of_miss _ _ _ (by intro p hp; have := memCells_bounds d r (a + 1) p hp; omega)]
        simp [hb]
      · simp [tget]
    | succ i =>
      have h' : i < r.length := by simpa using h
      have := ih (a + 1) i h'
      have e : a + (i + 1) = a + 1 + i := by omega
      simp only [memCells]
      split
      · rw [e, this]; simp
      · have ha : a ≠ a + 1 + i := by omega
        rw [e]; simp only [tget, ha, if_false, this]; simp

theorem tget_append_of_hit {α : Type} (l r : Tbl α) (k : Nat) (d : α) (h : ∀ p, p ∈ r → p.1 ≠ k) : tget (l ++ r) k d = tget l k d := by
  induction l with
  | nil => exact tget_of_miss r k d h
  | cons p l ih => obtain ⟨i, x⟩ := p; simp only [List.cons_append, tget, ih]

/-- A byte inside a run just written reads as written. -/
theorem memGet_memPut_in (m : List Host.Cell) (d : Byte) (a i : Nat) (bs : Bytes) (h : i < bs.length) :
    memGet (memPut m d a bs) d (a + i) = bs.getD i d := by
  rw [memGet_eq_tget, memPut, List.append_assoc, tget_append_of_miss _ _ _ _ (by intro p hp; simp at hp; omega),
    tget_append_of_hit _ _ _ _ (by intro p hp; simp at hp; omega)]
  exact tget_memCells d bs a i h

/-- A byte outside a run just written reads as before. -/
theorem memGet_memPut_out (m : List Host.Cell) (d : Byte) (a b : Nat) (bs : Bytes) (h : b < a ∨ a + bs.length ≤ b) :
    memGet (memPut m d a bs) d b = memGet m d b := by
  rw [memGet_eq_tget, memGet_eq_tget, memPut, List.append_assoc]
  rcases h with h | h
  · rw [tget_append_of_hit _ _ _ _ (by
      intro p hp
      rcases List.mem_append.1 hp with hp | hp
      · have := memCells_bounds d bs a p hp; omega
      · simp at hp; omega)]
    exact tget_filter_of_keep _ _ _ _ (by intro p _ hp; simp [hp]; omega)
  · rw [tget_append_of_miss _ _ _ _ (by intro p hp; simp at hp; omega),
      tget_append_of_miss _ _ _ _ (by intro p hp; have := memCells_bounds d bs a p hp; omega)]
    exact tget_filter_of_keep _ _ _ _ (by intro p _ hp; simp [hp]; omega)

theorem memGet_memClear_in (m : List Host.Cell) (d : Byte) (a n b : Nat) (h : a ≤ b) (h' : b < a + n) : memGet (memClear m a n) d b = d := by
  rw [memGet_eq_tget]
  exact tget_of_miss _ _ _ (by intro p hp; have := (List.mem_filter.1 hp).2; simp at this; omega)

theorem memGet_memClear_out (m : List Host.Cell) (d : Byte) (a n b : Nat) (h : b < a ∨ a + n ≤ b) :
    memGet (memClear m a n) d b = memGet m d b := by
  rw [memGet_eq_tget, memGet_eq_tget]
  exact tget_filter_of_keep _ _ _ _ (by intro p _ hp; simp [hp]; omega)

@[simp] theorem memRun_length (m : List Host.Cell) (d : Byte) (a n : Nat) : (memRun m d a n).length = n := by simp [memRun]

/-- A run just written reads as written. -/
theorem memRun_memPut (m : List Host.Cell) (d : Byte) (a : Nat) (bs : Bytes) : memRun (memPut m d a bs) d a bs.length = bs := by
  apply List.ext_getElem
  · simp
  · intro i h1 h2
    simp only [memRun, List.getElem_map, List.getElem_range]
    rw [memGet_memPut_in m d a i bs h2]
    simp [h2]

/-- A run that a write does not touch reads as before. -/
theorem memRun_memPut_out (m : List Host.Cell) (d : Byte) (a b n : Nat) (bs : Bytes) (h : b + n ≤ a ∨ a + bs.length ≤ b) :
    memRun (memPut m d a bs) d b n = memRun m d b n := by
  simp only [memRun, List.map_inj_left, List.mem_range]
  intro i hi
  exact memGet_memPut_out m d a _ bs (by omega)

/-! ## The canonical form -/

theorem memWf_iff (d : Byte) (m : List Host.Cell) : memWf d m = true ↔ m.Pairwise (fun x y => x.1 < y.1) ∧ ∀ c, c ∈ m → c.2 ≠ d := by
  induction m with
  | nil => simp [memWf]
  | cons c r ih =>
    cases r with
    | nil => simp [memWf]
    | cons c' r =>
      rw [memWf, Bool.and_eq_true, Bool.and_eq_true, ih]
      simp only [bne_iff_ne, ne_eq, decide_eq_true_eq, List.pairwise_cons, List.mem_cons, forall_eq_or_imp]
      constructor
      · rintro ⟨⟨h1, h2⟩, ⟨h3, h4⟩, h5, h6⟩
        exact ⟨⟨⟨h2, fun q hq => lt_trans h2 (h3 q hq)⟩, h3, h4⟩, h1, h5, h6⟩
      · rintro ⟨⟨⟨h2, _⟩, h3, h4⟩, h1, h5, h6⟩
        exact ⟨⟨h1, h2⟩, ⟨h3, h4⟩, h5, h6⟩

theorem memCells_pairwise (d : Byte) (bs : Bytes) : ∀ a, (memCells d a bs).Pairwise (fun x y => x.1 < y.1) := by
  induction bs with
  | nil => intro a; simp [memCells]
  | cons b r ih =>
    intro a
    simp only [memCells]
    split
    · exact ih (a + 1)
    · refine List.pairwise_cons.2 ⟨fun q hq => ?_, ih (a + 1)⟩
      have := memCells_bounds d r (a + 1) q hq
      simp only; omega

/-- A write keeps the canonical form. -/
theorem memPut_wf {m : List Host.Cell} {d : Byte} (a : Nat) (bs : Bytes) (h : memWf d m = true) : memWf d (memPut m d a bs) = true := by
  rw [memWf_iff] at h ⊢
  obtain ⟨hp, hd⟩ := h
  refine ⟨?_, ?_⟩
  · rw [memPut, List.append_assoc, List.pairwise_append, List.pairwise_append]
    refine ⟨hp.filter _, ⟨memCells_pairwise d bs a, hp.filter _, ?_⟩, ?_⟩
    · intro x hx y hy
      have := memCells_bounds d bs a x hx
      simp at hy; omega
    · intro x hx y hy
      simp at hx
      rcases List.mem_append.1 hy with hy | hy
      · have := memCells_bounds d bs a y hy; omega
      · simp at hy; omega
  · intro c hc
    simp only [memPut, List.mem_append, List.mem_filter] at hc
    rcases hc with (hc | hc) | hc
    · exact hd c hc.1
    · exact (memCells_bounds d bs a c hc).2.2
    · exact hd c hc.1

/-- Clearing a run keeps the canonical form. -/
theorem memClear_wf {m : List Host.Cell} {d : Byte} (a n : Nat) (h : memWf d m = true) : memWf d (memClear m a n) = true := by
  rw [memWf_iff] at h ⊢
  exact ⟨h.1.filter _, fun c hc => h.2 c (List.mem_filter.1 hc).1⟩

/-- Cells that a filter keeps are in canonical form. -/
theorem memWf_filter {m : List Host.Cell} {d : Byte} (f : Host.Cell → Bool) (h : memWf d m = true) : memWf d (m.filter f) = true := by
  rw [memWf_iff] at h ⊢
  exact ⟨h.1.filter _, fun c hc => h.2 c (List.mem_filter.1 hc).1⟩

/-- The memory after reset is in canonical form. -/
theorem reset_mem_wf : Memory.wf State.reset.mem := rfl

end Sys2Proof.Laws
end

