-- ==== Sys2Proof/Laws/Within.lean ====
section
/-! SUPPORT. What a step from one state to another keeps: every part that is not listed, the canonical form of the memory, and the ranges of
the DEV registers; and how such facts compose. -/

namespace Sys2Proof.Laws

open Sys2Proof Sys2Proof.Machine

/-- From s to t only the parts ps may differ, the memory keeps its canonical form and the DEV registers their ranges. -/
structure Within (ps : List Part) (s t : State) : Prop where
  same : Changes ps s t
  mem : Memory.wf s.mem → Memory.wf t.mem
  dev : RangesOk s.dev → RangesOk t.dev

/-- The device fields as a reset leaves them are in range. -/
theorem rangesOk_start : RangesOk ({} : Dev) :=
  ⟨by decide, by decide, by decide, by decide, nofun, by decide⟩

theorem Part.same_refl (p : Part) (s : State) : p.same s s := by cases p <;> rfl

theorem Part.same_trans {p : Part} {s t u : State} (h : p.same s t) (h' : p.same t u) : p.same s u := by
  cases p <;> exact Eq.trans h' h

theorem Within.refl (ps : List Part) (s : State) : Within ps s s := ⟨fun p _ => Part.same_refl p s, id, id⟩

theorem Within.trans {ps : List Part} {s t u : State} (h : Within ps s t) (h' : Within ps t u) : Within ps s u :=
  ⟨fun p hp => Part.same_trans (h.same p hp) (h'.same p hp), h'.mem ∘ h.mem, h'.dev ∘ h.dev⟩

theorem Within.mono {ps qs : List Part} {s t : State} (h : Within ps s t) (hq : ∀ p, p ∈ ps → p ∈ qs) : Within qs s t :=
  ⟨fun p hp => h.same p fun h' => hp (hq p h'), h.mem, h.dev⟩

/-- A step after another: the second may change no part beyond ps. -/
theorem Within.after {ps qs : List Part} {s t u : State} (h' : Within qs t u) (hq : (qs.all fun q => ps.contains q) = true) (h : Within ps s t) :
    Within ps s u :=
  h.trans (h'.mono fun p hp => by simpa using List.all_eq_true.1 hq p hp)

/-- A fold of steps. -/
theorem Within.foldl {α : Type} {ps : List Part} {s t : State} {f : State → α → State} {l : List α} (hf : ∀ u x, Within ps u (f u x))
    (h : Within ps s t) : Within ps s (l.foldl f t) := by
  induction l generalizing t with
  | nil => exact h
  | cons a l ih => exact ih (h.trans (hf t a))

theorem Within.each {ps : List Part} {s t : State} {f : State → Nat → State} {n : Nat} (hf : ∀ u x, Within ps u (f u x)) (h : Within ps s t) :
    Within ps s (t.each n f) := Within.foldl hf h

/-- A fold whose accumulator carries a state. -/
theorem Within.foldl_fst {α β : Type} {ps : List Part} {s : State} {t : State × β} {f : State × β → α → State × β} {l : List α}
    (hf : ∀ u x, Within ps u.1 (f u x).1) (h : Within ps s t.1) : Within ps s (l.foldl f t).1 := by
  induction l generalizing t with
  | nil => exact h
  | cons a l ih => exact ih (h.trans (hf t a))

/-- A step that gives the part it changes with its law. -/
theorem Within.of {ps : List Part} {s t u : State} (h' : Changes ps t u) (hm : Memory.wf t.mem → Memory.wf u.mem)
    (hd : RangesOk t.dev → RangesOk u.dev) (h : Within ps s t) : Within ps s u := h.trans ⟨h', hm, hd⟩

/-- An operation that may not answer, with its state kept when it does not. -/
theorem Within.getD {ps : List Part} {s t : State} {o : Option State} (h' : ∀ u, o = some u → Within ps s u) (h : Within ps s t) :
    Within ps s (o.getD t) := by
  cases o with
  | none => exact h
  | some u => exact h' u rfl

/-- Both sides of a choice. -/
theorem Within.ite {ps : List Part} {s : State} {c : Prop} [Decidable c] {x y : State} (hx : Within ps s x) (hy : Within ps s y) :
    Within ps s (if c then x else y) := by split <;> assumption

theorem Within.ite_fst {β : Type} {ps : List Part} {s : State} {c : Prop} [Decidable c] {x y : State × β} (hx : Within ps s x.1)
    (hy : Within ps s y.1) : Within ps s (if c then x else y).1 := by split <;> assumption

/-- The state that a pair holds is the pair's first. -/
theorem Within.of_pair {β : Type} {ps : List Part} {s u : State} {x : State × β} {r : β} (h : x = (u, r)) (h' : Within ps s x.1) :
    Within ps s u := by rw [h] at h'; exact h'

/-! ## The parts of a step -/

theorem Within.eq_mem {ps : List Part} {s t : State} (h : Within ps s t) (hp : ps.contains .mem = false) : t.mem = s.mem :=
  h.same .mem (by simpa using hp)
theorem Within.eq_ue {ps : List Part} {s t : State} (h : Within ps s t) (hp : ps.contains .ue = false) : t.ue = s.ue :=
  h.same .ue (by simpa using hp)
theorem Within.eq_hdrs {ps : List Part} {s t : State} (h : Within ps s t) (hp : ps.contains .hdrs = false) : t.hdrs = s.hdrs :=
  h.same .hdrs (by simpa using hp)
theorem Within.eq_cycles {ps : List Part} {s t : State} (h : Within ps s t) (hp : ps.contains .cycles = false) : t.cycles = s.cycles :=
  h.same .cycles (by simpa using hp)
theorem Within.eq_dev {ps : List Part} {s t : State} (h : Within ps s t) (hp : ps.contains .dev = false) : t.dev = s.dev :=
  h.same .dev (by simpa using hp)
theorem Within.eq_geode {ps : List Part} {s t : State} (h : Within ps s t) (hp : ps.contains .geode = false) : t.geode = s.geode :=
  h.same .geode (by simpa using hp)
theorem Within.eq_mgmtW {ps : List Part} {s t : State} (h : Within ps s t) (hp : ps.contains .mgmtW = false) : t.mgmtW = s.mgmtW :=
  h.same .mgmtW (by simpa using hp)
theorem Within.eq_mgmtE {ps : List Part} {s t : State} (h : Within ps s t) (hp : ps.contains .mgmtE = false) : t.mgmtE = s.mgmtE :=
  h.same .mgmtE (by simpa using hp)
theorem Within.eq_journal {ps : List Part} {s t : State} (h : Within ps s t) (hp : ps.contains .journal = false) : t.journal = s.journal :=
  h.same .journal (by simpa using hp)
theorem Within.eq_lie {ps : List Part} {s t : State} (h : Within ps s t) (hp : ps.contains .lie = false) : t.lie = s.lie :=
  h.same .lie (by simpa using hp)
theorem Within.eq_ports {ps : List Part} {s t : State} (h : Within ps s t) (hp : ps.contains .ports = false) : t.ports = s.ports :=
  h.same .ports (by simpa using hp)
theorem Within.eq_fns {ps : List Part} {s t : State} (h : Within ps s t) (hp : ps.contains .fns = false) : t.fns = s.fns :=
  h.same .fns (by simpa using hp)
theorem Within.eq_links {ps : List Part} {s t : State} (h : Within ps s t) (hp : ps.contains .links = false) : t.links = s.links :=
  h.same .links (by simpa using hp)
theorem Within.eq_bundles {ps : List Part} {s t : State} (h : Within ps s t) (hp : ps.contains .bundles = false) : t.bundles = s.bundles :=
  h.same .bundles (by simpa using hp)
theorem Within.eq_caverns {ps : List Part} {s t : State} (h : Within ps s t) (hp : ps.contains .caverns = false) : t.caverns = s.caverns :=
  h.same .caverns (by simpa using hp)
theorem Within.eq_flows {ps : List Part} {s t : State} (h : Within ps s t) (hp : ps.contains .flows = false) : t.flows = s.flows :=
  h.same .flows (by simpa using hp)
theorem Within.eq_hbmcs {ps : List Part} {s t : State} (h : Within ps s t) (hp : ps.contains .hbmcs = false) : t.hbmcs = s.hbmcs :=
  h.same .hbmcs (by simpa using hp)
theorem Within.eq_galleries {ps : List Part} {s t : State} (h : Within ps s t) (hp : ps.contains .galleries = false) : t.galleries = s.galleries :=
  h.same .galleries (by simpa using hp)
theorem Within.eq_drips {ps : List Part} {s t : State} (h : Within ps s t) (hp : ps.contains .drips = false) : t.drips = s.drips :=
  h.same .drips (by simpa using hp)
theorem Within.eq_vecs {ps : List Part} {s t : State} (h : Within ps s t) (hp : ps.contains .vecs = false) : t.vecs = s.vecs :=
  h.same .vecs (by simpa using hp)
theorem Within.eq_helpers {ps : List Part} {s t : State} (h : Within ps s t) (hp : ps.contains .helpers = false) : t.helpers = s.helpers :=
  h.same .helpers (by simpa using hp)
theorem Within.eq_engines {ps : List Part} {s t : State} (h : Within ps s t) (hp : ps.contains .engines = false) : t.engines = s.engines :=
  h.same .engines (by simpa using hp)
theorem Within.eq_streams {ps : List Part} {s t : State} (h : Within ps s t) (hp : ps.contains .streams = false) : t.streams = s.streams :=
  h.same .streams (by simpa using hp)
theorem Within.eq_msgs {ps : List Part} {s t : State} (h : Within ps s t) (hp : ps.contains .msgs = false) : t.msgs = s.msgs :=
  h.same .msgs (by simpa using hp)
theorem Within.eq_pins {ps : List Part} {s t : State} (h : Within ps s t) (hp : ps.contains .pins = false) : t.pins = s.pins :=
  h.same .pins (by simpa using hp)
theorem Within.eq_tap {ps : List Part} {s t : State} (h : Within ps s t) (hp : ps.contains .tap = false) : t.tap = s.tap :=
  h.same .tap (by simpa using hp)
theorem Within.eq_hostOut {ps : List Part} {s t : State} (h : Within ps s t) (hp : ps.contains .hostOut = false) : t.hostOut = s.hostOut :=
  h.same .hostOut (by simpa using hp)
theorem Within.eq_hostReq {ps : List Part} {s t : State} (h : Within ps s t) (hp : ps.contains .hostReq = false) : t.hostReq = s.hostReq :=
  h.same .hostReq (by simpa using hp)
theorem Within.eq_msix {ps : List Part} {s t : State} (h : Within ps s t) (hp : ps.contains .msix = false) : t.msix = s.msix :=
  h.same .msix (by simpa using hp)
theorem Within.eq_lastRead {ps : List Part} {s t : State} (h : Within ps s t) (hp : ps.contains .lastRead = false) : t.lastRead = s.lastRead :=
  h.same .lastRead (by simpa using hp)
theorem Within.eq_sideband {ps : List Part} {s t : State} (h : Within ps s t) (hp : ps.contains .sideband = false) : t.sideband = s.sideband :=
  h.same .sideband (by simpa using hp)
theorem Within.eq_freeCtr {ps : List Part} {s t : State} (h : Within ps s t) (hp : ps.contains .freeCtr = false) : t.freeCtr = s.freeCtr :=
  h.same .freeCtr (by simpa using hp)
theorem Within.eq_outs {ps : List Part} {s t : State} (h : Within ps s t) (hp : ps.contains .outs = false) : t.outs = s.outs :=
  h.same .outs (by simpa using hp)
theorem Within.eq_pending {ps : List Part} {s t : State} (h : Within ps s t) (hp : ps.contains .pending = false) : t.pending = s.pending :=
  h.same .pending (by simpa using hp)

/-! ## Writes of one part -/

theorem Within.set_mem {ps : List Part} {s t : State} {x} (hx : Memory.wf t.mem → Memory.wf x) (hp : ps.contains .mem = true) (h : Within ps s t) :
    Within ps s { t with mem := x } :=
  Within.of (t := t) (fun p hn => by cases p <;> first | rfl | exact absurd (by simpa using hp) hn) hx id h
theorem Within.set_ue {ps : List Part} {s t : State} {x} (hp : ps.contains .ue = true) (h : Within ps s t) : Within ps s { t with ue := x } :=
  Within.of (t := t) (fun p hn => by cases p <;> first | rfl | exact absurd (by simpa using hp) hn) id id h
theorem Within.set_hdrs {ps : List Part} {s t : State} {x} (hp : ps.contains .hdrs = true) (h : Within ps s t) : Within ps s { t with hdrs := x } :=
  Within.of (t := t) (fun p hn => by cases p <;> first | rfl | exact absurd (by simpa using hp) hn) id id h
theorem Within.set_cycles {ps : List Part} {s t : State} {x} (hp : ps.contains .cycles = true) (h : Within ps s t) : Within ps s { t with cycles := x } :=
  Within.of (t := t) (fun p hn => by cases p <;> first | rfl | exact absurd (by simpa using hp) hn) id id h
theorem Within.set_dev {ps : List Part} {s t : State} {x} (hx : RangesOk t.dev → RangesOk x) (hp : ps.contains .dev = true) (h : Within ps s t) :
    Within ps s { t with dev := x } :=
  Within.of (t := t) (fun p hn => by cases p <;> first | rfl | exact absurd (by simpa using hp) hn) id hx h
theorem Within.set_geode {ps : List Part} {s t : State} {x} (hp : ps.contains .geode = true) (h : Within ps s t) : Within ps s { t with geode := x } :=
  Within.of (t := t) (fun p hn => by cases p <;> first | rfl | exact absurd (by simpa using hp) hn) id id h
theorem Within.set_mgmtW {ps : List Part} {s t : State} {x} (hp : ps.contains .mgmtW = true) (h : Within ps s t) : Within ps s { t with mgmtW := x } :=
  Within.of (t := t) (fun p hn => by cases p <;> first | rfl | exact absurd (by simpa using hp) hn) id id h
theorem Within.set_mgmtE {ps : List Part} {s t : State} {x} (hp : ps.contains .mgmtE = true) (h : Within ps s t) : Within ps s { t with mgmtE := x } :=
  Within.of (t := t) (fun p hn => by cases p <;> first | rfl | exact absurd (by simpa using hp) hn) id id h
theorem Within.set_journal {ps : List Part} {s t : State} {x} (hp : ps.contains .journal = true) (h : Within ps s t) : Within ps s { t with journal := x } :=
  Within.of (t := t) (fun p hn => by cases p <;> first | rfl | exact absurd (by simpa using hp) hn) id id h
theorem Within.set_lie {ps : List Part} {s t : State} {x} (hp : ps.contains .lie = true) (h : Within ps s t) : Within ps s { t with lie := x } :=
  Within.of (t := t) (fun p hn => by cases p <;> first | rfl | exact absurd (by simpa using hp) hn) id id h
theorem Within.set_ports {ps : List Part} {s t : State} {x} (hp : ps.contains .ports = true) (h : Within ps s t) : Within ps s { t with ports := x } :=
  Within.of (t := t) (fun p hn => by cases p <;> first | rfl | exact absurd (by simpa using hp) hn) id id h
theorem Within.set_fns {ps : List Part} {s t : State} {x} (hp : ps.contains .fns = true) (h : Within ps s t) : Within ps s { t with fns := x } :=
  Within.of (t := t) (fun p hn => by cases p <;> first | rfl | exact absurd (by simpa using hp) hn) id id h
theorem Within.set_links {ps : List Part} {s t : State} {x} (hp : ps.contains .links = true) (h : Within ps s t) : Within ps s { t with links := x } :=
  Within.of (t := t) (fun p hn => by cases p <;> first | rfl | exact absurd (by simpa using hp) hn) id id h
theorem Within.set_bundles {ps : List Part} {s t : State} {x} (hp : ps.contains .bundles = true) (h : Within ps s t) : Within ps s { t with bundles := x } :=
  Within.of (t := t) (fun p hn => by cases p <;> first | rfl | exact absurd (by simpa using hp) hn) id id h
theorem Within.set_caverns {ps : List Part} {s t : State} {x} (hp : ps.contains .caverns = true) (h : Within ps s t) : Within ps s { t with caverns := x } :=
  Within.of (t := t) (fun p hn => by cases p <;> first | rfl | exact absurd (by simpa using hp) hn) id id h
theorem Within.set_flows {ps : List Part} {s t : State} {x} (hp : ps.contains .flows = true) (h : Within ps s t) : Within ps s { t with flows := x } :=
  Within.of (t := t) (fun p hn => by cases p <;> first | rfl | exact absurd (by simpa using hp) hn) id id h
theorem Within.set_hbmcs {ps : List Part} {s t : State} {x} (hp : ps.contains .hbmcs = true) (h : Within ps s t) : Within ps s { t with hbmcs := x } :=
  Within.of (t := t) (fun p hn => by cases p <;> first | rfl | exact absurd (by simpa using hp) hn) id id h
theorem Within.set_galleries {ps : List Part} {s t : State} {x} (hp : ps.contains .galleries = true) (h : Within ps s t) : Within ps s { t with galleries := x } :=
  Within.of (t := t) (fun p hn => by cases p <;> first | rfl | exact absurd (by simpa using hp) hn) id id h
theorem Within.set_drips {ps : List Part} {s t : State} {x} (hp : ps.contains .drips = true) (h : Within ps s t) : Within ps s { t with drips := x } :=
  Within.of (t := t) (fun p hn => by cases p <;> first | rfl | exact absurd (by simpa using hp) hn) id id h
theorem Within.set_vecs {ps : List Part} {s t : State} {x} (hp : ps.contains .vecs = true) (h : Within ps s t) : Within ps s { t with vecs := x } :=
  Within.of (t := t) (fun p hn => by cases p <;> first | rfl | exact absurd (by simpa using hp) hn) id id h
theorem Within.set_helpers {ps : List Part} {s t : State} {x} (hp : ps.contains .helpers = true) (h : Within ps s t) : Within ps s { t with helpers := x } :=
  Within.of (t := t) (fun p hn => by cases p <;> first | rfl | exact absurd (by simpa using hp) hn) id id h
theorem Within.set_engines {ps : List Part} {s t : State} {x} (hp : ps.contains .engines = true) (h : Within ps s t) : Within ps s { t with engines := x } :=
  Within.of (t := t) (fun p hn => by cases p <;> first | rfl | exact absurd (by simpa using hp) hn) id id h
theorem Within.set_streams {ps : List Part} {s t : State} {x} (hp : ps.contains .streams = true) (h : Within ps s t) : Within ps s { t with streams := x } :=
  Within.of (t := t) (fun p hn => by cases p <;> first | rfl | exact absurd (by simpa using hp) hn) id id h
theorem Within.set_msgs {ps : List Part} {s t : State} {x} (hp : ps.contains .msgs = true) (h : Within ps s t) : Within ps s { t with msgs := x } :=
  Within.of (t := t) (fun p hn => by cases p <;> first | rfl | exact absurd (by simpa using hp) hn) id id h
theorem Within.set_pins {ps : List Part} {s t : State} {x} (hp : ps.contains .pins = true) (h : Within ps s t) : Within ps s { t with pins := x } :=
  Within.of (t := t) (fun p hn => by cases p <;> first | rfl | exact absurd (by simpa using hp) hn) id id h
theorem Within.set_tap {ps : List Part} {s t : State} {x} (hp : ps.contains .tap = true) (h : Within ps s t) : Within ps s { t with tap := x } :=
  Within.of (t := t) (fun p hn => by cases p <;> first | rfl | exact absurd (by simpa using hp) hn) id id h
theorem Within.set_hostOut {ps : List Part} {s t : State} {x} (hp : ps.contains .hostOut = true) (h : Within ps s t) : Within ps s { t with hostOut := x } :=
  Within.of (t := t) (fun p hn => by cases p <;> first | rfl | exact absurd (by simpa using hp) hn) id id h
theorem Within.set_hostReq {ps : List Part} {s t : State} {x} (hp : ps.contains .hostReq = true) (h : Within ps s t) : Within ps s { t with hostReq := x } :=
  Within.of (t := t) (fun p hn => by cases p <;> first | rfl | exact absurd (by simpa using hp) hn) id id h
theorem Within.set_msix {ps : List Part} {s t : State} {x} (hp : ps.contains .msix = true) (h : Within ps s t) : Within ps s { t with msix := x } :=
  Within.of (t := t) (fun p hn => by cases p <;> first | rfl | exact absurd (by simpa using hp) hn) id id h
theorem Within.set_lastRead {ps : List Part} {s t : State} {x} (hp : ps.contains .lastRead = true) (h : Within ps s t) : Within ps s { t with lastRead := x } :=
  Within.of (t := t) (fun p hn => by cases p <;> first | rfl | exact absurd (by simpa using hp) hn) id id h
theorem Within.set_sideband {ps : List Part} {s t : State} {x} (hp : ps.contains .sideband = true) (h : Within ps s t) : Within ps s { t with sideband := x } :=
  Within.of (t := t) (fun p hn => by cases p <;> first | rfl | exact absurd (by simpa using hp) hn) id id h
theorem Within.set_freeCtr {ps : List Part} {s t : State} {x} (hp : ps.contains .freeCtr = true) (h : Within ps s t) : Within ps s { t with freeCtr := x } :=
  Within.of (t := t) (fun p hn => by cases p <;> first | rfl | exact absurd (by simpa using hp) hn) id id h
theorem Within.set_outs {ps : List Part} {s t : State} {x} (hp : ps.contains .outs = true) (h : Within ps s t) : Within ps s { t with outs := x } :=
  Within.of (t := t) (fun p hn => by cases p <;> first | rfl | exact absurd (by simpa using hp) hn) id id h
theorem Within.set_pending {ps : List Part} {s t : State} {x} (hp : ps.contains .pending = true) (h : Within ps s t) : Within ps s { t with pending := x } :=
  Within.of (t := t) (fun p hn => by cases p <;> first | rfl | exact absurd (by simpa using hp) hn) id id h

end Sys2Proof.Laws
end

