-- ==== Sys2Proof/Laws/FramesOps.lean ====
section
/-! SUPPORT. What each operation of Machine/Ops.lean may change: every part that is not listed stays. -/

namespace Sys2Proof.Laws

open Sys2Proof Sys2Proof.Machine

theorem State.setEng_within (s : State) (e : Nat) (x : Engine) :
    Within [.engines] s (State.setEng s e x) := by
  unfold State.setEng
  repeat' first
    | (with_reducible exact Within.refl _ _)
    | split
    | ((with_reducible apply Within.set_engines); case hp => rfl)

theorem State.setStrm_within (s : State) (e : Nat) (x : Stream) :
    Within [.streams] s (State.setStrm s e x) := by
  unfold State.setStrm
  repeat' first
    | (with_reducible exact Within.refl _ _)
    | split
    | ((with_reducible apply Within.set_streams); case hp => rfl)

theorem State.setGal_within (s : State) (g : Nat) (x : Gallery) :
    Within [.galleries] s (State.setGal s g x) := by
  unfold State.setGal
  repeat' first
    | (with_reducible exact Within.refl _ _)
    | split
    | ((with_reducible apply Within.set_galleries); case hp => rfl)

theorem State.setDrip_within (s : State) (g : Nat) (x : Drip) :
    Within [.drips] s (State.setDrip s g x) := by
  unfold State.setDrip
  repeat' first
    | (with_reducible exact Within.refl _ _)
    | split
    | ((with_reducible apply Within.set_drips); case hp => rfl)

theorem State.setFlow_within (s : State) (c : Nat) (x : Flow) :
    Within [.flows] s (State.setFlow s c x) := by
  unfold State.setFlow
  repeat' first
    | (with_reducible exact Within.refl _ _)
    | split
    | ((with_reducible apply Within.set_flows); case hp => rfl)

theorem State.setHbmc_within (s : State) (n : Nat) (x : Hbmc) :
    Within [.hbmcs] s (State.setHbmc s n x) := by
  unfold State.setHbmc
  repeat' first
    | (with_reducible exact Within.refl _ _)
    | split
    | ((with_reducible apply Within.set_hbmcs); case hp => rfl)

theorem State.setCavern_within (s : State) (c : Nat) (x : Cavern) :
    Within [.caverns] s (State.setCavern s c x) := by
  unfold State.setCavern
  repeat' first
    | (with_reducible exact Within.refl _ _)
    | split
    | ((with_reducible apply Within.set_caverns); case hp => rfl)

theorem State.setVec_within (s : State) (g : Nat) (x : Vec) :
    Within [.vecs] s (State.setVec s g x) := by
  unfold State.setVec
  repeat' first
    | (with_reducible exact Within.refl _ _)
    | split
    | ((with_reducible apply Within.set_vecs); case hp => rfl)

theorem State.setHelper_within (s : State) (h : Nat) (x : Helper) :
    Within [.helpers] s (State.setHelper s h x) := by
  unfold State.setHelper
  repeat' first
    | (with_reducible exact Within.refl _ _)
    | split
    | ((with_reducible apply Within.set_helpers); case hp => rfl)

theorem State.setMsg_within (s : State) (ep : Nat) (x : Msg) :
    Within [.msgs] s (State.setMsg s ep x) := by
  unfold State.setMsg
  repeat' first
    | (with_reducible exact Within.refl _ _)
    | split
    | ((with_reducible apply Within.set_msgs); case hp => rfl)

theorem State.setLink_within (s : State) (n : Nat) (x : Link) :
    Within [.links] s (State.setLink s n x) := by
  unfold State.setLink
  repeat' first
    | (with_reducible exact Within.refl _ _)
    | split
    | ((with_reducible apply Within.set_links); case hp => rfl)

theorem State.setBundle_within (s : State) (n : Nat) (x : Bundle) :
    Within [.bundles] s (State.setBundle s n x) := by
  unfold State.setBundle
  repeat' first
    | (with_reducible exact Within.refl _ _)
    | split
    | ((with_reducible apply Within.set_bundles); case hp => rfl)

theorem State.setPort_within (s : State) (p : Nat) (x : Port) :
    Within [.ports] s (State.setPort s p x) := by
  unfold State.setPort
  repeat' first
    | (with_reducible exact Within.refl _ _)
    | split
    | ((with_reducible apply Within.set_ports); case hp => rfl)

theorem State.setFn_within (s : State) (p f : Nat) (x : Fn) :
    Within [.fns] s (State.setFn s p f x) := by
  unfold State.setFn
  repeat' first
    | (with_reducible exact Within.refl _ _)
    | split
    | ((with_reducible apply Within.set_fns); case hp => rfl)

theorem State.setMgmt_within (s : State) (c : Ctl) (x : Mgmt) :
    Within [.mgmtW, .mgmtE] s (State.setMgmt s c x) := by
  unfold State.setMgmt
  repeat' first
    | (with_reducible exact Within.refl _ _)
    | split
    | ((with_reducible apply Within.set_mgmtE); case hp => rfl)
    | ((with_reducible apply Within.set_mgmtW); case hp => rfl)

theorem State.setCtx_within (s : State) (t : Nat) (x : Ctx) :
    Within [.geode] s (State.setCtx s t x) := by
  unfold State.setCtx
  repeat' first
    | (with_reducible exact Within.refl _ _)
    | ((with_reducible apply Within.set_geode); case hp => rfl)

theorem State.setSlotJ_within (s : State) (n : Nat) (x : JSlot) :
    Within [.journal] s (State.setSlotJ s n x) := by
  unfold State.setSlotJ
  repeat' first
    | (with_reducible exact Within.refl _ _)
    | ((with_reducible apply Within.set_journal); case hp => rfl)

theorem State.drawn_within (s : State) :
    Within [.freeCtr] s (State.drawn s) := by
  unfold State.drawn
  repeat' first
    | (with_reducible exact Within.refl _ _)
    | ((with_reducible apply Within.set_freeCtr); case hp => rfl)

theorem State.setHdr_within (s : State) (p : Page) (h : Hdr) :
    Within [.hdrs] s (State.setHdr s p h) := by
  unfold State.setHdr
  repeat' first
    | (with_reducible exact Within.refl _ _)
    | ((with_reducible apply Within.set_hdrs); case hp => rfl)

theorem State.msixTo_within (s : State) (p f v : Nat) :
    Within [.msix] s (State.msixTo s p f v) := by
  unfold State.msixTo
  repeat' first
    | (with_reducible exact Within.refl _ _)
    | ((with_reducible apply Within.set_msix); case hp => rfl)

theorem State.putHdr_within (s : State) (p : Page) (h : Hdr) :
    Within [.hdrs, .msix] s (State.putHdr s p h) := by
  unfold State.putHdr
  repeat' first
    | (with_reducible exact Within.refl _ _)
    | ((with_reducible apply Within.after (State.msixTo_within _ _ _ _)); case hq => rfl)
    | ((with_reducible apply Within.after (State.setHdr_within _ _ _)); case hq => rfl)
    | (with_reducible apply Within.foldl)
    | (with_reducible apply Within.foldl_fst)
    | intro _
    | split

theorem State.raise_within (s : State) (p : Page) (b : Nat) :
    Within [.hdrs, .msix] s (State.raise s p b) := by
  unfold State.raise
  repeat' first
    | (with_reducible exact Within.refl _ _)
    | ((with_reducible apply Within.after (State.putHdr_within _ _ _)); case hq => rfl)

theorem State.recordErr_within (s : State) (p : Page) (code : Code) (detail : Nat) :
    Within [.hdrs, .msix] s (State.recordErr s p code detail) := by
  unfold State.recordErr
  repeat' first
    | (with_reducible exact Within.refl _ _)
    | ((with_reducible apply Within.after (State.setHdr_within _ _ _)); case hq => rfl)
    | ((with_reducible apply Within.after (State.putHdr_within _ _ _)); case hq => rfl)
    | split
    | dsimp only

theorem State.countErrs_within (s : State) (p : Page) (n : Nat) :
    Within [.hdrs] s (State.countErrs s p n) := by
  unfold State.countErrs
  repeat' first
    | (with_reducible exact Within.refl _ _)
    | ((with_reducible apply Within.after (State.setHdr_within _ _ _)); case hq => rfl)

theorem State.event_within (s : State) (p : Page) (ev n : Nat) :
    Within [.hdrs] s (State.event s p ev n) := by
  unfold State.event
  repeat' first
    | (with_reducible exact Within.refl _ _)
    | ((with_reducible apply Within.after (State.setHdr_within _ _ _)); case hq => rfl)

theorem State.tick_within (s : State) :
    Within [.cycles] s (State.tick s) := by
  unfold State.tick
  repeat' first
    | (with_reducible exact Within.refl _ _)
    | intro _
    | ((with_reducible apply Within.set_cycles); case hp => rfl)

theorem State.sumpPut_within (s : State) (g : Nat) (r : SumpRec) :
    Within [.galleries] s (State.sumpPut s g r) := by
  unfold State.sumpPut
  repeat' first
    | (with_reducible exact Within.refl _ _)
    | ((with_reducible apply Within.after (State.setGal_within _ _ _)); case hq => rfl)
    | split
    | dsimp only

theorem State.restoreShadow_within (s : State) (a : Nat) (sh : List (Nat × Bytes × Bool)) :
    Within [.mem, .ue] s (State.restoreShadow s a sh) := by
  unfold State.restoreShadow
  refine Within.foldl (fun u x => ?_) (Within.refl _ _)
  have h := Within.set_mem (t := u) (x := memPut u.mem 0 (a + 64 * x.1) x.2.1) (memPut_wf _ _) (ps := [.mem, .ue]) rfl (Within.refl _ u)
  exact Within.set_ue rfl h

theorem State.foundUe_within (s : State) (a : Nat) :
    Within [.hdrs, .hbmcs] s (State.foundUe s a) := by
  unfold State.foundUe
  repeat' first
    | (with_reducible exact Within.refl _ _)
    | ((with_reducible apply Within.after (State.event_within _ _ _ _)); case hq => rfl)
    | ((with_reducible apply Within.after (State.setHbmc_within _ _ _)); case hq => rfl)

theorem State.hbmTraffic_within (s : State) (a ev k : Nat) :
    Within [.hdrs] s (State.hbmTraffic s a ev k) := by
  unfold State.hbmTraffic
  repeat' first
    | (with_reducible exact Within.refl _ _)
    | ((with_reducible apply Within.after (State.event_within _ _ _ _)); case hq => rfl)

theorem State.missEvents_within (s : State) (hint a lo n : Nat) (write : Bool) :
    Within [.hdrs, .hbmcs] s (State.missEvents s hint a lo n write) := by
  unfold State.missEvents
  repeat' first
    | (with_reducible exact Within.refl _ _)
    | ((with_reducible apply Within.after (State.hbmTraffic_within _ _ _ _)); case hq => rfl)
    | ((with_reducible apply Within.after (State.foundUe_within _ _)); case hq => rfl)
    | ((with_reducible apply Within.after (State.event_within _ _ _ _)); case hq => rfl)
    | (with_reducible apply Within.foldl)
    | (with_reducible apply Within.foldl_fst)
    | intro _
    | split

theorem State.wroteBack_within (s : State) (l : Line) :
    Within [.hdrs] s (State.wroteBack s l) := by
  unfold State.wroteBack
  repeat' first
    | (with_reducible exact Within.refl _ _)
    | ((with_reducible apply Within.after (State.hbmTraffic_within _ _ _ _)); case hq => rfl)
    | ((with_reducible apply Within.after (State.event_within _ _ _ _)); case hq => rfl)
    | split

theorem State.evicted_within (s : State) (v : Option Line) :
    Within [.mem, .ue, .hdrs] s (State.evicted s v) := by
  unfold State.evicted
  repeat' first
    | (with_reducible exact Within.refl _ _)
    | ((with_reducible apply Within.after (State.restoreShadow_within _ _ _)); case hq => rfl)
    | ((with_reducible apply Within.after (State.wroteBack_within _ _)); case hq => rfl)
    | intro _
    | split

theorem State.flowLine_within (s : State) (hint a lo n : Nat) (write : Bool) :
    Within [.mem, .ue, .hdrs, .flows, .hbmcs] s (State.flowLine s hint a lo n write) := by
  unfold State.flowLine
  repeat' first
    | (with_reducible exact Within.refl _ _)
    | ((with_reducible apply Within.after (State.event_within _ _ _ _)); case hq => rfl)
    | ((with_reducible apply Within.after (State.setFlow_within _ _ _)); case hq => rfl)
    | ((with_reducible apply Within.after (State.restoreShadow_within _ _ _)); case hq => rfl)
    | ((with_reducible apply Within.after (State.missEvents_within _ _ _ _ _ _)); case hq => rfl)
    | ((with_reducible apply Within.after (State.evicted_within _ _)); case hq => rfl)
    | (with_reducible apply Within.getD)
    | intro _
    | split
    | dsimp only

theorem State.flowRun_within (s : State) (hint a n : Nat) (write : Bool) :
    Within [.mem, .ue, .hdrs, .flows, .hbmcs] s (State.flowRun s hint a n write) := by
  unfold State.flowRun
  repeat' first
    | (with_reducible exact Within.refl _ _)
    | ((with_reducible apply Within.after (State.flowLine_within _ _ _ _ _ _)); case hq => rfl)
    | (with_reducible apply Within.foldl)
    | (with_reducible apply Within.foldl_fst)
    | intro _

theorem State.serveUe_within (s : State) (hint a n : Nat) :
    Within [.mem, .ue, .hdrs, .flows, .hbmcs] s (State.serveUe s hint a n) := by
  unfold State.serveUe
  repeat' first
    | (with_reducible exact Within.refl _ _)
    | ((with_reducible apply Within.after (State.flowRun_within _ _ _ _ _)); case hq => rfl)
    | ((with_reducible apply Within.after (State.foundUe_within _ _)); case hq => rfl)
    | ((with_reducible apply Within.after (State.event_within _ _ _ _)); case hq => rfl)
    | (with_reducible apply Within.getD)
    | (with_reducible apply Within.foldl)
    | (with_reducible apply Within.foldl_fst)
    | intro _
    | split
    | dsimp only

theorem State.devRead_within (s : State) (hint a n : Nat) :
    Within [.mem, .ue, .hdrs, .flows, .hbmcs] s (State.devRead s hint a n).1 := by
  unfold State.devRead
  repeat' first
    | (with_reducible exact Within.refl _ _)
    | ((with_reducible apply Within.after (State.serveUe_within _ _ _ _)); case hq => rfl)
    | ((with_reducible apply Within.after (State.flowRun_within _ _ _ _ _)); case hq => rfl)
    | split

theorem State.noteWatch_within (s : State) (by_ : Option Nat) (a n : Nat) :
    Within [.helpers] s (State.noteWatch s by_ a n) := by
  unfold State.noteWatch
  repeat' first
    | (with_reducible exact Within.refl _ _)
    | ((with_reducible apply Within.after (State.setHelper_within _ _ _)); case hq => rfl)
    | split
    | dsimp only

theorem State.devWriteBy_within (s : State) (by_ : Option Nat) (hint a : Nat) (bs : Bytes) :
    Within [.mem, .ue, .hdrs, .flows, .hbmcs, .helpers] s (State.devWriteBy s by_ hint a bs).1 := by
  unfold State.devWriteBy
  dsimp only
  split
  · exact Within.refl _ _
  split
  · exact Within.refl _ _
  split
  · split
    · exact (State.foundUe_within s a).mono (by decide)
    · have h := (State.flowRun_within s hint a bs.length true).mono (qs := [.mem, .ue, .hdrs, .flows, .hbmcs, .helpers]) (by decide)
      exact Within.set_ue rfl (Within.set_mem (memPut_wf _ _) rfl h)
  · exact Within.after (State.noteWatch_within _ _ _ _) rfl (Within.set_mem (memPut_wf _ _) rfl (Within.refl _ _))

theorem State.devWrite_within (s : State) (hint a : Nat) (bs : Bytes) :
    Within [.mem, .ue, .hdrs, .flows, .hbmcs, .helpers] s (State.devWrite s hint a bs).1 := by
  unfold State.devWrite
  repeat' first
    | (with_reducible exact Within.refl _ _)
    | ((with_reducible apply Within.after (State.devWriteBy_within _ _ _ _ _)); case hq => rfl)

theorem State.zeroRun_within (s : State) (a n : Nat) :
    Within [.mem] s (State.zeroRun s a n) := by
  unfold State.zeroRun
  repeat' first
    | (with_reducible exact Within.refl _ _)
    | ((with_reducible apply Within.set_mem); (case hp => rfl); case hx => first | exact memPut_wf _ _ | exact memClear_wf _ _ | exact fun _ => rfl)

theorem State.walkFrom_within (s : State) (va tenant : Nat) (write : Bool) (k table : Nat) :
    Within [.mem, .ue, .hdrs, .flows, .hbmcs] s (State.walkFrom s va tenant write k table).1 := by
  induction k generalizing s table with
  | zero =>
    unfold State.walkFrom
    extract_lets shift
    have hr := State.devRead_within s 0 (table + 8 * fld va shift (if 0 = 0 then 5 else 9)) 8
    revert hr
    generalize s.devRead 0 (table + 8 * fld va shift (if 0 = 0 then 5 else 9)) 8 = r
    intro hr
    obtain ⟨u, c | b⟩ := r
    · exact hr
    · repeat' first | with_reducible apply Within.ite_fst | with_reducible exact hr
  | succ k ih =>
    unfold State.walkFrom
    extract_lets shift
    have hr := State.devRead_within s 0 (table + 8 * fld va shift (if k + 1 = 0 then 5 else 9)) 8
    revert hr
    generalize s.devRead 0 (table + 8 * fld va shift (if k + 1 = 0 then 5 else 9)) 8 = r
    intro hr
    obtain ⟨u, c | b⟩ := r
    · exact hr
    · repeat' first | with_reducible apply Within.ite_fst | with_reducible exact hr | with_reducible exact hr.trans (ih _ _)

theorem State.walk_within (s : State) (tenant va : Nat) (write : Bool) :
    Within [.mem, .ue, .hdrs, .flows, .hbmcs] s (State.walk s tenant va write).1 := by
  unfold State.walk
  repeat' first
    | (with_reducible exact Within.refl _ _)
    | ((with_reducible apply Within.after (State.walkFrom_within _ _ _ _ _ _)); case hq => rfl)
    | ((with_reducible apply Within.of_pair); with_reducible assumption)
    | split

theorem State.walkDpa_within (s : State) (tenant va : Nat) (write : Bool) :
    Within [.mem, .ue, .hdrs, .flows, .hbmcs] s (State.walkDpa s tenant va write).1 := by
  unfold State.walkDpa
  repeat' first
    | (with_reducible exact Within.refl _ _)
    | ((with_reducible apply Within.after (State.walk_within _ _ _ _)); case hq => rfl)
    | ((with_reducible apply Within.of_pair); with_reducible assumption)
    | split

theorem State.xlate_within (s : State) (g : Option Nat) (tenant va : Nat) (write : Bool) :
    Within [.mem, .ue, .hdrs, .flows, .hbmcs, .galleries] s (State.xlate s g tenant va write).1 := by
  unfold State.xlate
  repeat' first
    | (with_reducible exact Within.refl _ _)
    | ((with_reducible apply Within.after (State.walkDpa_within _ _ _ _)); case hq => rfl)
    | ((with_reducible apply Within.after (State.walk_within _ _ _ _)); case hq => rfl)
    | ((with_reducible apply Within.after (State.setGal_within _ _ _)); case hq => rfl)
    | ((with_reducible apply Within.of_pair); with_reducible assumption)
    | intro _
    | split
    | dsimp only

theorem State.xlateRun_within (s : State) (g : Option Nat) (tenant : Nat) (write : Bool) (k va n : Nat) :
    Within [.mem, .ue, .hdrs, .flows, .hbmcs, .galleries] s (State.xlateRun s g tenant write k va n).1 := by
  induction k generalizing s va n with
  | zero => exact Within.refl _ _
  | succ k ih =>
    unfold State.xlateRun
    repeat' first
      | (with_reducible exact Within.refl _ _)
      | ((with_reducible apply Within.after (ih _ _ _)); case hq => rfl)
      | ((with_reducible apply Within.after (State.xlate_within _ _ _ _ _)); case hq => rfl)
      | ((with_reducible apply Within.of_pair); with_reducible assumption)
      | split

theorem State.xlateAll_within (s : State) (g : Option Nat) (tenant va n : Nat) (write : Bool) :
    Within [.mem, .ue, .hdrs, .flows, .hbmcs, .galleries] s (State.xlateAll s g tenant va n write).1 := by
  unfold State.xlateAll
  repeat' first
    | (with_reducible exact Within.refl _ _)
    | ((with_reducible apply Within.after (State.xlateRun_within _ _ _ _ _ _ _)); case hq => rfl)

theorem State.readRuns_within (s : State) (hint : Nat) (l : List (Nat × Nat × Nat)) :
    Within [.mem, .ue, .hdrs, .flows, .hbmcs] s (State.readRuns s hint l).1 := by
  induction l generalizing s with
  | nil => exact Within.refl _ _
  | cons a l ih =>
    obtain ⟨va, d, n⟩ := a
    unfold State.readRuns
    repeat' first
      | (with_reducible exact Within.refl _ _)
      | ((with_reducible apply Within.after (ih _)); case hq => rfl)
      | ((with_reducible apply Within.after (State.devRead_within _ _ _ _)); case hq => rfl)
      | ((with_reducible apply Within.of_pair); with_reducible assumption)
      | split

theorem State.writeRuns_within (s : State) (hint : Nat) (l : List (Nat × Nat × Nat)) (bs : Bytes) :
    Within [.mem, .ue, .hdrs, .flows, .hbmcs, .helpers] s (State.writeRuns s hint l bs).1 := by
  induction l generalizing s bs with
  | nil => exact Within.refl _ _
  | cons a l ih =>
    obtain ⟨va, d, n⟩ := a
    unfold State.writeRuns
    repeat' first
      | (with_reducible exact Within.refl _ _)
      | ((with_reducible apply Within.after (ih _ _)); case hq => rfl)
      | ((with_reducible apply Within.after (State.devWrite_within _ _ _ _)); case hq => rfl)
      | ((with_reducible apply Within.of_pair); with_reducible assumption)
      | split

theorem State.vRead_within (s : State) (g : Option Nat) (tenant hint va n : Nat) :
    Within [.mem, .ue, .hdrs, .flows, .hbmcs, .galleries] s (State.vRead s g tenant hint va n).1 := by
  unfold State.vRead
  repeat' first
    | (with_reducible exact Within.refl _ _)
    | ((with_reducible apply Within.after (State.xlateAll_within _ _ _ _ _ _)); case hq => rfl)
    | ((with_reducible apply Within.after (State.readRuns_within _ _ _)); case hq => rfl)
    | ((with_reducible apply Within.of_pair); with_reducible assumption)
    | split

theorem State.vWrite_within (s : State) (g : Option Nat) (tenant hint va unit : Nat) (bs : Bytes) :
    Within [.mem, .ue, .hdrs, .flows, .hbmcs, .galleries, .helpers] s (State.vWrite s g tenant hint va unit bs).1 := by
  unfold State.vWrite
  repeat' first
    | (with_reducible exact Within.refl _ _)
    | ((with_reducible apply Within.after (State.xlateAll_within _ _ _ _ _ _)); case hq => rfl)
    | ((with_reducible apply Within.after (State.writeRuns_within _ _ _ _)); case hq => rfl)
    | ((with_reducible apply Within.of_pair); with_reducible assumption)
    | intro _
    | split
    | dsimp only

end Sys2Proof.Laws
end

