-- ==== Sys2Proof/Laws/FramesOperands.lean ====
section
/-! SUPPORT. What each operation of Machine/Operands.lean may change: every part that is not listed stays. -/

namespace Sys2Proof.Laws

open Sys2Proof Sys2Proof.Machine

theorem State.locRead_within (s : State) (e : Nat) (l : Loc) (hint n : Nat) :
    Within [.mem, .ue, .hdrs, .flows, .hbmcs, .galleries] s (State.locRead s e l hint n).1 := by
  unfold State.locRead
  repeat' first
    | (with_reducible exact Within.refl _ _)
    | ((with_reducible apply Within.after (State.vRead_within _ _ _ _ _ _)); case hq => rfl)
    | ((with_reducible apply Within.after (State.devRead_within _ _ _ _)); case hq => rfl)
    | ((with_reducible apply Within.of_pair); with_reducible assumption)
    | split

theorem State.noteOut_within (s : State) (e : Nat) (t : Target) (n : Nat) :
    Within [.outs] s (State.noteOut s e t n) := by
  unfold State.noteOut
  repeat' first
    | (with_reducible exact Within.refl _ _)
    | split
    | ((with_reducible apply Within.set_outs); case hp => rfl)

theorem State.vaWrite_within (s : State) (e hint a unit : Nat) (bs : Bytes) :
    Within [.mem, .ue, .hdrs, .flows, .hbmcs, .galleries, .helpers, .outs] s (State.vaWrite s e hint a unit bs).1 := by
  unfold State.vaWrite
  repeat' first
    | (with_reducible exact Within.refl _ _)
    | ((with_reducible apply Within.after (State.vWrite_within _ _ _ _ _ _ _)); case hq => rfl)
    | ((with_reducible apply Within.after (State.noteOut_within _ _ _ _)); case hq => rfl)
    | ((with_reducible apply Within.of_pair); with_reducible assumption)
    | split

theorem State.dpaWrite_within (s : State) (e hint d off : Nat) (bs : Bytes) :
    Within [.mem, .ue, .hdrs, .flows, .hbmcs, .helpers, .outs] s (State.dpaWrite s e hint d off bs).1 := by
  unfold State.dpaWrite
  repeat' first
    | (with_reducible exact Within.refl _ _)
    | ((with_reducible apply Within.after (State.devWrite_within _ _ _ _)); case hq => rfl)
    | ((with_reducible apply Within.after (State.noteOut_within _ _ _ _)); case hq => rfl)
    | ((with_reducible apply Within.of_pair); with_reducible assumption)
    | split

theorem State.locWrite_within (s : State) (e : Nat) (l : Loc) (hint unit : Nat) (bs : Bytes) :
    Within [.mem, .ue, .hdrs, .flows, .hbmcs, .galleries, .helpers, .outs] s (State.locWrite s e l hint unit bs).1 := by
  unfold State.locWrite
  repeat' first
    | (with_reducible exact Within.refl _ _)
    | ((with_reducible apply Within.after (State.vaWrite_within _ _ _ _ _ _)); case hq => rfl)
    | ((with_reducible apply Within.after (State.dpaWrite_within _ _ _ _ _ _)); case hq => rfl)
    | ((with_reducible apply Within.of_pair); with_reducible assumption)
    | split

theorem State.atRead_within (s : State) (e : Nat) (t : Target) (hint n : Nat) :
    Within [.mem, .ue, .hdrs, .flows, .hbmcs, .galleries] s (State.atRead s e t hint n).1 := by
  unfold State.atRead
  repeat' first
    | (with_reducible exact Within.refl _ _)
    | ((with_reducible apply Within.after (State.vRead_within _ _ _ _ _ _)); case hq => rfl)
    | ((with_reducible apply Within.after (State.devRead_within _ _ _ _)); case hq => rfl)
    | ((with_reducible apply Within.of_pair); with_reducible assumption)
    | split

theorem State.atWrite_within (s : State) (e : Nat) (t : Target) (hint unit : Nat) (bs : Bytes) :
    Within [.mem, .ue, .hdrs, .flows, .hbmcs, .galleries, .helpers, .outs] s (State.atWrite s e t hint unit bs).1 := by
  unfold State.atWrite
  repeat' first
    | (with_reducible exact Within.refl _ _)
    | ((with_reducible apply Within.after (State.vaWrite_within _ _ _ _ _ _)); case hq => rfl)
    | ((with_reducible apply Within.after (State.dpaWrite_within _ _ _ _ _ _)); case hq => rfl)
    | ((with_reducible apply Within.of_pair); with_reducible assumption)
    | split

theorem State.argSlot_within (s : State) (e a : Nat) :
    Within [.mem, .ue, .hdrs, .flows, .hbmcs, .galleries] s (State.argSlot s e a).1 := by
  unfold State.argSlot
  repeat' first
    | (with_reducible exact Within.refl _ _)
    | ((with_reducible apply Within.after (State.vRead_within _ _ _ _ _ _)); case hq => rfl)
    | ((with_reducible apply Within.of_pair); with_reducible assumption)
    | split

theorem State.readDesc_within (s : State) (e slot : Nat) (source : Bool) :
    Within [.mem, .ue, .hdrs, .flows, .hbmcs, .galleries] s (State.readDesc s e slot source).1 := by
  unfold State.readDesc
  repeat' first
    | (with_reducible exact Within.refl _ _)
    | ((with_reducible apply Within.after (State.argSlot_within _ _ _)); case hq => rfl)
    | ((with_reducible apply Within.after (State.locRead_within _ _ _ _ _)); case hq => rfl)
    | ((with_reducible apply Within.of_pair); with_reducible assumption)
    | split
    | dsimp only

theorem State.descAt_within (s : State) (e : Nat) (t : Target) (d : Desc) :
    Within [.mem, .ue, .hdrs, .flows, .hbmcs, .galleries, .helpers, .outs] s (State.descAt s e t d).1 := by
  unfold State.descAt
  repeat' first
    | (with_reducible exact Within.refl _ _)
    | ((with_reducible apply Within.after (State.atWrite_within _ _ _ _ _ _)); case hq => rfl)
    | ((with_reducible apply Within.after (State.atRead_within _ _ _ _ _)); case hq => rfl)
    | ((with_reducible apply Within.of_pair); with_reducible assumption)
    | split

theorem State.writeDesc_within (s : State) (e : Nat) (l : Loc) (d : Desc) :
    Within [.mem, .ue, .hdrs, .flows, .hbmcs, .galleries, .helpers, .outs] s (State.writeDesc s e l d).1 := by
  unfold State.writeDesc
  repeat' first
    | (with_reducible exact Within.refl _ _)
    | ((with_reducible apply Within.after (State.descAt_within _ _ _ _)); case hq => rfl)
    | ((with_reducible apply Within.of_pair); with_reducible assumption)
    | split

theorem State.poisonAt_within (s : State) (e : Nat) (l : Loc) :
    Within [.mem, .ue, .hdrs, .flows, .hbmcs, .galleries, .helpers, .outs] s (State.poisonAt s e l).1 := by
  unfold State.poisonAt
  repeat' first
    | (with_reducible exact Within.refl _ _)
    | ((with_reducible apply Within.after (State.writeDesc_within _ _ _ _)); case hq => rfl)
    | ((with_reducible apply Within.of_pair); with_reducible assumption)
    | split

theorem State.poisonOut_within (s : State) (e slot : Nat) :
    Within [.mem, .ue, .hdrs, .flows, .hbmcs, .galleries, .helpers, .outs] s (State.poisonOut s e slot).1 := by
  unfold State.poisonOut
  repeat' first
    | (with_reducible exact Within.refl _ _)
    | ((with_reducible apply Within.after (State.argSlot_within _ _ _)); case hq => rfl)
    | ((with_reducible apply Within.after (State.poisonAt_within _ _ _)); case hq => rfl)
    | ((with_reducible apply Within.of_pair); with_reducible assumption)
    | split

end Sys2Proof.Laws
end

