-- ==== Sys2Proof/Laws/FramesEngine.lean ====
section
/-! SUPPORT. What each operation of Machine/Engine.lean may change: every part that is not listed stays. -/

namespace Sys2Proof.Laws

open Sys2Proof Sys2Proof.Machine

theorem State.enter_within (s : State) (e : Nat) (x : Iss) (rw : List Nat × List Nat) (xfer : Option Nat) (r : Res) :
    Within [.engines] s (State.enter s e x rw xfer r) := by
  unfold State.enter
  repeat' first
    | (with_reducible exact Within.refl _ _)
    | ((with_reducible apply Within.after (State.setEng_within _ _ _)); case hq => rfl)

theorem State.issue_go {s t : State} {e : Nat} {mine : Nat → Bool} {x : Iss} (h : s.issue e mine = .go t x) : Within [.engines] s t := by
  unfold State.issue at h
  dsimp only at h
  repeat' first
    | (cases h; done)
    | (cases h; exact State.setEng_within _ _ _)
    | split at h

theorem State.issue_stay {s t : State} {e : Nat} {mine : Nat → Bool} (h : s.issue e mine = .stay t) : Within [.mem, .ue, .hdrs, .flows, .hbmcs, .galleries, .helpers, .engines, .outs] s t := by
  unfold State.issue at h
  dsimp only at h
  repeat' first
    | (cases h; done)
    | cases h
    | (with_reducible exact Within.refl _ _)
    | ((with_reducible apply Within.after (State.setEng_within _ _ _)); case hq => rfl)
    | ((with_reducible apply Within.after (State.enter_within _ _ _ _ _ _)); case hq => rfl)
    | ((with_reducible apply Within.after (State.poisonOut_within _ _ _)); case hq => rfl)
    | split at h
    | split

/-- An instruction that names no output slot leaves only its engine changed when it waits, is refused or is skipped. -/
theorem State.issue_own {s t : State} {e : Nat} {mine : Nat → Bool} (ha : mine 0x0A = false) (hb : mine 0x30 = false) (hc : mine 0x2B = false)
    (h : s.issue e mine = .stay t) : Within [.engines] s t := by
  unfold State.issue at h
  dsimp only at h
  split at h
  · cases h; exact Within.refl _ _
  · rename_i hm
    have hs : (insOf (s.eng e).fetch).outSlot = none := by
      unfold Ins.outSlot
      split <;> simp_all
    rw [hs] at h
    repeat' first
      | (cases h; done)
      | cases h
      | (with_reducible exact Within.refl _ _)
      | ((with_reducible apply Within.after (State.setEng_within _ _ _)); case hq => rfl)
      | ((with_reducible apply Within.after (State.enter_within _ _ _ _ _ _)); case hq => rfl)
      | split at h

theorem Within.issueRun {ps : List Part} {s t : State} {e opc : Nat} {check : Bool} {body : State → Iss → State × Res} (hk : ∀ u x, Within ps u (body u x).1)
    (hq : (([.mem, .ue, .hdrs, .flows, .hbmcs, .galleries, .helpers, .engines, .outs] : List Part).all fun q => ps.contains q) = true) (h : Within ps s t) : Within ps s (t.issueRun e opc check body) := by
  unfold State.issueRun
  repeat' first
    | with_reducible exact h
    | (with_reducible exact Within.refl _ _)
    | ((with_reducible apply Within.after (State.enter_within _ _ _ _ _ _)); case hq => simp_all)
    | ((with_reducible refine Within.trans (t := _) ?_ (hk _ _)))
    | split
    | ((with_reducible apply Within.after (State.issue_go ?hx)); (case hx => with_reducible assumption); case hq => simp_all)
    | ((with_reducible apply Within.after (State.issue_stay ?hx)); (case hx => with_reducible assumption); case hq => simp_all)

/-- A compute instruction changes its engine and what its own part changes. -/
theorem Within.issueRun_own {ps : List Part} {s t : State} {e opc : Nat} {check : Bool} {body : State → Iss → State × Res}
    (hk : ∀ u x, Within ps u (body u x).1) (ha : opc ≠ 0x0A) (hb : opc ≠ 0x30) (hc : opc ≠ 0x2B) (hq : ps.contains .engines = true)
    (h : Within ps s t) : Within ps s (t.issueRun e opc check body) := by
  have hq' : (([.engines] : List Part).all fun q => ps.contains q) = true := by simpa using hq
  unfold State.issueRun
  split
  · rename_i hx
    exact Within.after (State.issue_own (by simpa using ha.symm) (by simpa using hb.symm) (by simpa using hc.symm) hx) hq' h
  · rename_i hx
    have h1 := Within.after (State.issue_go hx) hq' h
    dsimp only
    split
    · exact Within.after (State.enter_within _ _ _ _ _ _) hq' h1
    · exact Within.after (State.enter_within _ _ _ _ _ _) hq' (h1.trans (hk _ _))

theorem State.addMarks_within (s : State) (e n : Nat) (m : Option Word64) :
    Within [.galleries] s (State.addMarks s e n m) := by
  unfold State.addMarks
  repeat' first
    | (with_reducible exact Within.refl _ _)
    | ((with_reducible apply Within.after (State.setGal_within _ _ _)); case hq => rfl)
    | split

theorem State.retireMarks_within (s : State) (e : Nat) (v : WinEnt) :
    Within [.galleries, .engines] s (State.retireMarks s e v) := by
  unfold State.retireMarks
  repeat' first
    | (with_reducible exact Within.refl _ _)
    | ((with_reducible apply Within.after (State.addMarks_within _ _ _ _)); case hq => rfl)
    | ((with_reducible apply Within.after (State.setEng_within _ _ _)); case hq => rfl)
    | split
    | dsimp only

theorem State.retireHead_within (s : State) (e : Nat) (v : WinEnt) (rest : List WinEnt) :
    Within [.hdrs, .galleries, .engines] s (State.retireHead s e v rest) := by
  unfold State.retireHead
  repeat' first
    | (with_reducible exact Within.refl _ _)
    | ((with_reducible apply Within.after (State.event_within _ _ _ _)); case hq => rfl)
    | ((with_reducible apply Within.after (State.setEng_within _ _ _)); case hq => rfl)
    | ((with_reducible apply Within.after (State.sumpPut_within _ _ _)); case hq => rfl)
    | ((with_reducible apply Within.after (State.retireMarks_within _ _ _)); case hq => rfl)
    | split

theorem State.endProgram_within (s : State) (e : Nat) :
    Within [.engines, .streams] s (State.endProgram s e) := by
  unfold State.endProgram
  repeat' first
    | (with_reducible exact Within.refl _ _)
    | ((with_reducible apply Within.after (State.setStrm_within _ _ _)); case hq => rfl)
    | ((with_reducible apply Within.after (State.setEng_within _ _ _)); case hq => rfl)

theorem State.cancelFill_within (s : State) (e t : Nat) :
    Within [.streams] s (State.cancelFill s e t) := by
  unfold State.cancelFill
  repeat' first
    | (with_reducible exact Within.refl _ _)
    | ((with_reducible apply Within.after (State.setStrm_within _ _ _)); case hq => rfl)

theorem State.exportPending_within (s : State) (e : Nat) :
    Within [.hdrs, .galleries, .msix] s (State.exportPending s e) := by
  unfold State.exportPending
  repeat' first
    | (with_reducible exact Within.refl _ _)
    | ((with_reducible apply Within.after (State.setGal_within _ _ _)); case hq => rfl)
    | ((with_reducible apply Within.after (State.setHdr_within _ _ _)); case hq => rfl)
    | ((with_reducible apply Within.after (State.msixTo_within _ _ _ _)); case hq => rfl)
    | split
    | dsimp only

end Sys2Proof.Laws
end

