-- ==== Sys2Proof/Laws/FramesEngineArith.lean ====
section
/-! SUPPORT. What each operation of Machine/EngineArith.lean may change: every part that is not listed stays. -/

namespace Sys2Proof.Laws

open Sys2Proof Sys2Proof.Machine

theorem State.putRes_within (s : State) (e t sz off : Nat) (bad : List Bool) (vs : List Nat) :
    Within [.engines, .freeCtr] s (State.putRes s e t sz off bad vs) := by
  unfold State.putRes
  repeat' first
    | (with_reducible exact Within.refl _ _)
    | ((with_reducible apply Within.after (State.drawn_within _)); case hq => rfl)
    | ((with_reducible apply Within.after (State.setEng_within _ _ _)); case hq => rfl)
    | split

theorem State.putLimbs_within (s : State) (e t sz off : Nat) (ls : List (Bool × List Nat)) :
    Within [.engines, .freeCtr] s (State.putLimbs s e t sz off ls) := by
  unfold State.putLimbs
  repeat' first
    | (with_reducible exact Within.refl _ _)
    | ((with_reducible apply Within.after (State.putRes_within _ _ _ _ _ _ _)); case hq => rfl)

theorem State.lanePasses_within (s : State) (e n : Nat) :
    Within [.hdrs] s (State.lanePasses s e n) := by
  unfold State.lanePasses
  repeat' first
    | (with_reducible exact Within.refl _ _)
    | ((with_reducible apply Within.after (State.event_within _ _ _ _)); case hq => rfl)

theorem State.latchRun_within (s : State) (e : Nat) (i : Ins) (c : Chain) (scal : Bool) :
    Within [.hdrs, .engines] s (State.latchRun s e i c scal) := by
  unfold State.latchRun
  repeat' first
    | (with_reducible exact Within.refl _ _)
    | ((with_reducible apply Within.after (State.event_within _ _ _ _)); case hq => rfl)
    | ((with_reducible apply Within.after (State.setEng_within _ _ _)); case hq => rfl)
    | (with_reducible apply Within.getD)
    | split
    | dsimp only

theorem State.elementwise_within (s : State) (e opc : Nat) :
    Within [.mem, .ue, .hdrs, .flows, .hbmcs, .galleries, .helpers, .engines, .freeCtr, .outs] s (State.elementwise s e opc) := by
  unfold State.elementwise
  repeat' first
    | (with_reducible exact Within.refl _ _)
    | ((with_reducible apply Within.issueRun); case hq => rfl)
    | ((with_reducible apply Within.after (State.lanePasses_within _ _ _)); case hq => rfl)
    | ((with_reducible apply Within.after (State.latchRun_within _ _ _ _ _)); case hq => rfl)
    | ((with_reducible apply Within.after (State.putRes_within _ _ _ _ _ _ _)); case hq => rfl)
    | intro _
    | split
    | dsimp only

theorem State.limbwise_within (s : State) (e opc : Nat) (cond : Engine → Ins → Chain → Option Nat) (passes : Engine → Ins → Chain → Nat) (f : Chain → Ins → Nat → List Nat → List Nat) :
    Within [.mem, .ue, .hdrs, .flows, .hbmcs, .galleries, .helpers, .engines, .freeCtr, .outs] s (State.limbwise s e opc cond passes f) := by
  unfold State.limbwise
  repeat' first
    | (with_reducible exact Within.refl _ _)
    | ((with_reducible apply Within.issueRun); case hq => rfl)
    | ((with_reducible apply Within.after (State.putLimbs_within _ _ _ _ _ _)); case hq => rfl)
    | ((with_reducible apply Within.after (State.lanePasses_within _ _ _)); case hq => rfl)
    | intro _
    | split
    | dsimp only

theorem State.rescTile_within (s : State) (e : Nat) (x : Iss) :
    Within [.hdrs, .engines, .freeCtr] s (State.rescTile s e x).1 := by
  unfold State.rescTile
  repeat' first
    | (with_reducible exact Within.refl _ _)
    | ((with_reducible apply Within.after (State.putLimbs_within _ _ _ _ _ _)); case hq => rfl)
    | ((with_reducible apply Within.after (State.lanePasses_within _ _ _)); case hq => rfl)
    | ((with_reducible apply Within.after (State.setEng_within _ _ _)); case hq => rfl)
    | intro _
    | split
    | dsimp only

end Sys2Proof.Laws
end

