-- ==== Sys2Proof/Laws/FramesEngineMem.lean ====
section
/-! SUPPORT. What each operation of Machine/EngineMem.lean may change: every part that is not listed stays. -/

namespace Sys2Proof.Laws

open Sys2Proof Sys2Proof.Machine

theorem State.setXfer_within (s : State) (e n : Nat) (v : Ent) :
    Within [.streams] s (State.setXfer s e n v) := by
  unfold State.setXfer
  repeat' first
    | (with_reducible exact Within.refl _ _)
    | ((with_reducible apply Within.after (State.setStrm_within _ _ _)); case hq => rfl)

theorem State.modWin_within (s : State) (e seq : Nat) (f : WinEnt → WinEnt) :
    Within [.engines] s (State.modWin s e seq f) := by
  unfold State.modWin
  repeat' first
    | (with_reducible exact Within.refl _ _)
    | ((with_reducible apply Within.after (State.setEng_within _ _ _)); case hq => rfl)

theorem State.winFault_within (s : State) (e seq : Nat) (c : Code) (tile : Option Nat) :
    Within [.engines] s (State.winFault s e seq c tile) := by
  unfold State.winFault
  repeat' first
    | (with_reducible exact Within.refl _ _)
    | ((with_reducible apply Within.after (State.modWin_within _ _ _ _)); case hq => rfl)

theorem State.haltEnt_within (s : State) (e n : Nat) (write : Bool) (va : Nat) (pos : Pos) :
    Within [.hdrs, .streams, .msix] s (State.haltEnt s e n write va pos) := by
  unfold State.haltEnt
  repeat' first
    | (with_reducible exact Within.refl _ _)
    | ((with_reducible apply Within.after (State.setXfer_within _ _ _ _)); case hq => rfl)
    | ((with_reducible apply Within.after (State.raise_within _ _ _)); case hq => rfl)
    | ((with_reducible apply Within.after (State.event_within _ _ _ _)); case hq => rfl)

theorem State.hold_within (s : State) (e : Nat) (x : Iss) (v : Ent) :
    Within [.engines, .streams] s (State.hold s e x v).1 := by
  unfold State.hold
  repeat' first
    | (with_reducible exact Within.refl _ _)
    | ((with_reducible apply Within.after (State.enter_within _ _ _ _ _ _)); case hq => rfl)
    | ((with_reducible apply Within.after (State.setXfer_within _ _ _ _)); case hq => rfl)

theorem State.settle_within (s : State) (e n : Nat) (f : Fate) :
    Within [.engines, .streams] s (State.settle s e n f) := by
  unfold State.settle
  repeat' first
    | (with_reducible exact Within.refl _ _)
    | ((with_reducible apply Within.after (State.setXfer_within _ _ _ _)); case hq => rfl)
    | ((with_reducible apply Within.after (State.winFault_within _ _ _ _ _)); case hq => rfl)
    | split

theorem State.units_within (s : State) (e ev : Nat) (t : Target) (n : Nat) :
    Within [.hdrs] s (State.units s e ev t n) := by
  unfold State.units
  repeat' first
    | (with_reducible exact Within.refl _ _)
    | ((with_reducible apply Within.after (State.event_within _ _ _ _)); case hq => rfl)
    | split

theorem State.tldRun_within (s : State) (e n first : Nat) :
    Within [.mem, .ue, .hdrs, .flows, .hbmcs, .galleries, .engines, .streams, .msix] s (State.tldRun s e n first) := by
  unfold State.tldRun
  repeat' first
    | (with_reducible exact Within.refl _ _)
    | ((with_reducible apply Within.after (State.atRead_within _ _ _ _ _)); case hq => rfl)
    | ((with_reducible apply Within.after (State.units_within _ _ _ _ _)); case hq => rfl)
    | ((with_reducible apply Within.after (State.settle_within _ _ _ _)); case hq => rfl)
    | ((with_reducible apply Within.after (State.setEng_within _ _ _)); case hq => rfl)
    | ((with_reducible apply Within.after (State.haltEnt_within _ _ _ _ _ _)); case hq => rfl)
    | ((with_reducible apply Within.of_pair); with_reducible assumption)
    | intro _
    | split
    | dsimp only

theorem State.tld_within (s : State) (e : Nat) (x : Iss) :
    Within [.mem, .ue, .hdrs, .flows, .hbmcs, .galleries, .engines, .streams, .msix] s (State.tld s e x) := by
  unfold State.tld
  repeat' first
    | (with_reducible exact Within.refl _ _)
    | ((with_reducible apply Within.after (State.enter_within _ _ _ _ _ _)); case hq => rfl)
    | ((with_reducible apply Within.after (State.readDesc_within _ _ _ _)); case hq => rfl)
    | ((with_reducible apply Within.after (State.hold_within _ _ _ _)); case hq => rfl)
    | ((with_reducible apply Within.after (State.tldRun_within _ _ _ _)); case hq => rfl)
    | ((with_reducible apply Within.of_pair); with_reducible assumption)
    | split
    | dsimp only

theorem State.bodyWrite_within (s : State) (e : Nat) (t : Target) (u rowB pos : Nat) (bs : Bytes) :
    Within [.mem, .ue, .hdrs, .flows, .hbmcs, .galleries, .helpers, .outs] s (State.bodyWrite s e t u rowB pos bs).1 := by
  unfold State.bodyWrite
  repeat' first
    | (with_reducible exact Within.refl _ _)
    | ((with_reducible apply Within.after (State.xlateAll_within _ _ _ _ _ _)); case hq => rfl)
    | ((with_reducible apply Within.after (State.writeRuns_within _ _ _ _)); case hq => rfl)
    | ((with_reducible apply Within.after (State.units_within _ _ _ _ _)); case hq => rfl)
    | ((with_reducible apply Within.after (State.atWrite_within _ _ _ _ _ _)); case hq => rfl)
    | ((with_reducible apply Within.of_pair); with_reducible assumption)
    | intro _
    | split
    | dsimp only

theorem State.todoGo_within (s : State) (e n : Nat) (l : List (Target × Nat × Nat × Bytes)) (pos : Nat) :
    Within [.mem, .ue, .hdrs, .flows, .hbmcs, .galleries, .helpers, .streams, .msix, .outs] s (State.todoGo s e n l pos).1 := by
  induction l generalizing s pos with
  | nil => exact (State.setXfer_within s e n _).mono (by decide)
  | cons a l ih =>
    obtain ⟨lw, u, rowB, bs⟩ := a
    unfold State.todoGo
    repeat' first
      | (with_reducible exact Within.refl _ _)
      | ((with_reducible apply Within.after (ih _ _)); case hq => rfl)
      | ((with_reducible apply Within.of_pair); with_reducible assumption)
      | ((with_reducible apply Within.after (State.setXfer_within _ _ _ _)); case hq => rfl)
      | ((with_reducible apply Within.after (State.bodyWrite_within _ _ _ _ _ _ _)); case hq => rfl)
      | ((with_reducible apply Within.after (State.haltEnt_within _ _ _ _ _ _)); case hq => rfl)
      | split

theorem State.todoRun_within (s : State) (e n : Nat) :
    Within [.mem, .ue, .hdrs, .flows, .hbmcs, .galleries, .helpers, .streams, .msix, .outs] s (State.todoRun s e n).1 := by
  unfold State.todoRun
  repeat' first
    | (with_reducible exact Within.refl _ _)
    | ((with_reducible apply Within.after (State.todoGo_within _ _ _ _ _)); case hq => rfl)

theorem State.tstBody_within (s : State) (e : Nat) (i : Ins) (c : Chain) (d : Desc) :
    Within [.freeCtr] s (State.tstBody s e i c d).1 := by
  unfold State.tstBody
  repeat' first
    | (with_reducible exact Within.refl _ _)
    | ((with_reducible apply Within.after (State.drawn_within _)); case hq => rfl)
    | (with_reducible apply Within.getD)
    | intro _
    | split
    | dsimp only

theorem State.firstSource_within (s : State) (e slot out : Nat) :
    Within [.mem, .ue, .hdrs, .flows, .hbmcs, .galleries, .helpers, .outs] s (State.firstSource s e slot out).1 := by
  unfold State.firstSource
  repeat' first
    | (with_reducible exact Within.refl _ _)
    | ((with_reducible apply Within.after (State.readDesc_within _ _ _ _)); case hq => rfl)
    | ((with_reducible apply Within.after (State.poisonOut_within _ _ _)); case hq => rfl)
    | ((with_reducible apply Within.of_pair); with_reducible assumption)
    | split

theorem State.tst_within (s : State) (e : Nat) (x : Iss) :
    Within [.mem, .ue, .hdrs, .flows, .hbmcs, .galleries, .helpers, .engines, .streams, .msix, .freeCtr, .outs] s (State.tst s e x) := by
  unfold State.tst
  repeat' first
    | (with_reducible exact Within.refl _ _)
    | ((with_reducible apply Within.after (State.enter_within _ _ _ _ _ _)); case hq => rfl)
    | ((with_reducible apply Within.after (State.firstSource_within _ _ _ _)); case hq => rfl)
    | ((with_reducible apply Within.after (State.readDesc_within _ _ _ _)); case hq => rfl)
    | ((with_reducible apply Within.after (State.poisonAt_within _ _ _)); case hq => rfl)
    | ((with_reducible apply Within.after (State.tstBody_within _ _ _ _ _)); case hq => rfl)
    | ((with_reducible apply Within.after (State.hold_within _ _ _ _)); case hq => rfl)
    | ((with_reducible apply Within.after (State.modWin_within _ _ _ _)); case hq => rfl)
    | ((with_reducible apply Within.after (State.todoRun_within _ _ _)); case hq => rfl)
    | ((with_reducible apply Within.after (State.settle_within _ _ _ _)); case hq => rfl)
    | ((with_reducible apply Within.of_pair); with_reducible assumption)
    | intro _
    | split
    | dsimp only

theorem State.mopRead_within (s : State) (e n poly lam : Nat) :
    Within [.mem, .ue, .hdrs, .flows, .hbmcs, .galleries, .streams, .msix] s (State.mopRead s e n poly lam).1 := by
  unfold State.mopRead
  repeat' first
    | (with_reducible exact Within.refl _ _)
    | ((with_reducible apply Within.after (State.atRead_within _ _ _ _ _)); case hq => rfl)
    | ((with_reducible apply Within.after (State.units_within _ _ _ _ _)); case hq => rfl)
    | ((with_reducible apply Within.after (State.setXfer_within _ _ _ _)); case hq => rfl)
    | ((with_reducible apply Within.after (State.haltEnt_within _ _ _ _ _ _)); case hq => rfl)
    | ((with_reducible apply Within.of_pair); with_reducible assumption)
    | split
    | dsimp only

theorem State.nextLimb_within (s : State) (e n : Nat) :
    Within [.streams] s (State.nextLimb s e n) := by
  unfold State.nextLimb
  repeat' first
    | (with_reducible exact Within.refl _ _)
    | ((with_reducible apply Within.after (State.setXfer_within _ _ _ _)); case hq => rfl)

theorem State.freeTile_within (s : State) (e t : Nat) :
    Within [.engines, .freeCtr] s (State.freeTile s e t) := by
  unfold State.freeTile
  repeat' first
    | (with_reducible exact Within.refl _ _)
    | ((with_reducible apply Within.after (State.drawn_within _)); case hq => rfl)
    | ((with_reducible apply Within.after (State.setEng_within _ _ _)); case hq => rfl)

theorem State.rescLimb_within (s : State) (e n : Nat) :
    Within [.mem, .ue, .hdrs, .flows, .hbmcs, .galleries, .helpers, .streams, .msix, .outs] s (State.rescLimb s e n).1 := by
  unfold State.rescLimb
  repeat' first
    | (with_reducible exact Within.refl _ _)
    | ((with_reducible apply Within.after (State.mopRead_within _ _ _ _ _)); case hq => rfl)
    | ((with_reducible apply Within.after (State.setXfer_within _ _ _ _)); case hq => rfl)
    | ((with_reducible apply Within.after (State.todoRun_within _ _ _)); case hq => rfl)
    | (with_reducible apply Within.getD)
    | ((with_reducible apply Within.of_pair); with_reducible assumption)
    | intro _
    | split
    | dsimp only

theorem State.rescGo_within (s : State) (e n : Nat) (k : Nat) :
    Within [.mem, .ue, .hdrs, .flows, .hbmcs, .galleries, .helpers, .streams, .msix, .outs] s (State.rescGo s e n k).1 := by
  induction k generalizing s with
  | zero => exact Within.refl _ _
  | succ k ih =>
    unfold State.rescGo
    repeat' first
      | (with_reducible exact Within.refl _ _)
      | ((with_reducible apply Within.after (ih _)); case hq => rfl)
      | ((with_reducible apply Within.of_pair); with_reducible assumption)
      | ((with_reducible apply Within.after (State.todoRun_within _ _ _)); case hq => rfl)
      | ((with_reducible apply Within.after (State.rescLimb_within _ _ _)); case hq => rfl)
      | ((with_reducible apply Within.after (State.nextLimb_within _ _ _)); case hq => rfl)
      | split
      | dsimp only

theorem State.rescEnd_within (s : State) (e n : Nat) (f : Fate) :
    Within [.hdrs, .engines, .streams] s (State.rescEnd s e n f) := by
  unfold State.rescEnd
  repeat' first
    | (with_reducible exact Within.refl _ _)
    | ((with_reducible apply Within.after (State.settle_within _ _ _ _)); case hq => rfl)
    | ((with_reducible apply Within.after (State.lanePasses_within _ _ _)); case hq => rfl)

theorem State.rescRun_within (s : State) (e n : Nat) :
    Within [.mem, .ue, .hdrs, .flows, .hbmcs, .galleries, .helpers, .engines, .streams, .msix, .outs] s (State.rescRun s e n) := by
  unfold State.rescRun
  repeat' first
    | (with_reducible exact Within.refl _ _)
    | ((with_reducible apply Within.after (State.rescGo_within _ _ _ _)); case hq => rfl)
    | ((with_reducible apply Within.after (State.rescEnd_within _ _ _ _)); case hq => rfl)
    | ((with_reducible apply Within.of_pair); with_reducible assumption)
    | split

theorem State.rescMop_within (s : State) (e : Nat) (x : Iss) :
    Within [.mem, .ue, .hdrs, .flows, .hbmcs, .galleries, .helpers, .engines, .streams, .msix, .freeCtr, .outs] s (State.rescMop s e x) := by
  unfold State.rescMop
  repeat' first
    | (with_reducible exact Within.refl _ _)
    | ((with_reducible apply Within.after (State.enter_within _ _ _ _ _ _)); case hq => rfl)
    | ((with_reducible apply Within.after (State.argSlot_within _ _ _)); case hq => rfl)
    | ((with_reducible apply Within.after (State.firstSource_within _ _ _ _)); case hq => rfl)
    | ((with_reducible apply Within.after (State.readDesc_within _ _ _ _)); case hq => rfl)
    | ((with_reducible apply Within.after (State.poisonAt_within _ _ _)); case hq => rfl)
    | ((with_reducible apply Within.after (State.hold_within _ _ _ _)); case hq => rfl)
    | ((with_reducible apply Within.after (State.rescRun_within _ _ _)); case hq => rfl)
    | ((with_reducible apply Within.after (State.freeTile_within _ _ _)); case hq => rfl)
    | ((with_reducible apply Within.of_pair); with_reducible assumption)
    | split
    | dsimp only

end Sys2Proof.Laws
end

