-- ==== Sys2Proof/Laws/FramesEngineKey.lean ====
section
/-! SUPPORT. What each operation of Machine/EngineKey.lean may change: every part that is not listed stays. -/

namespace Sys2Proof.Laws

open Sys2Proof Sys2Proof.Machine

theorem State.ringLatch_within (s : State) (e : Nat) (i : Ins) (t : Nat) :
    Within [.hdrs, .engines] s (State.ringLatch s e i t) := by
  unfold State.ringLatch
  repeat' first
    | (with_reducible exact Within.refl _ _)
    | ((with_reducible apply Within.after (State.setEng_within _ _ _)); case hq => rfl)
    | ((with_reducible apply Within.after (State.event_within _ _ _ _)); case hq => rfl)
    | (with_reducible apply Within.getD)
    | split

theorem State.ringFill_within (s : State) (e : Nat) (i : Ins) :
    Within [.hdrs, .engines] s (State.ringFill s e i) := by
  unfold State.ringFill
  repeat' first
    | (with_reducible exact Within.refl _ _)
    | ((with_reducible apply Within.after (State.ringLatch_within _ _ _ _)); case hq => rfl)
    | ((with_reducible apply Within.after (State.setEng_within _ _ _)); case hq => rfl)
    | split

theorem State.ringStop_within (s : State) (e : Nat) (v : WinEnt) (fault : Option (Code × Nat)) :
    Within [.mem, .ue, .hdrs, .flows, .hbmcs, .galleries, .helpers, .engines, .streams, .outs] s (State.ringStop s e v fault) := by
  unfold State.ringStop
  repeat' first
    | (with_reducible exact Within.refl _ _)
    | ((with_reducible apply Within.after (State.lanePasses_within _ _ _)); case hq => rfl)
    | ((with_reducible apply Within.after (State.setEng_within _ _ _)); case hq => rfl)
    | ((with_reducible apply Within.after (State.setXfer_within _ _ _ _)); case hq => rfl)
    | ((with_reducible apply Within.after (State.poisonOut_within _ _ _)); case hq => rfl)
    | ((with_reducible apply Within.after (State.modWin_within _ _ _ _)); case hq => rfl)
    | (with_reducible apply Within.getD)
    | (with_reducible apply Within.foldl)
    | (with_reducible apply Within.foldl_fst)
    | ((with_reducible apply Within.of_pair); with_reducible assumption)
    | intro _
    | split

theorem State.putPlain_within (s : State) (e t : Nat) (c : Chain) (bad : Bool) (ls : List (List Nat)) :
    Within [.engines, .freeCtr] s (State.putPlain s e t c bad ls) := by
  unfold State.putPlain
  repeat' first
    | (with_reducible exact Within.refl _ _)
    | ((with_reducible apply Within.after (State.putLimbs_within _ _ _ _ _ _)); case hq => rfl)

theorem State.kswFinish_within (s : State) (e : Nat) (x : Iss) (r : RingOp) :
    Within [.engines, .freeCtr] s (State.kswFinish s e x r) := by
  unfold State.kswFinish
  repeat' first
    | (with_reducible exact Within.refl _ _)
    | ((with_reducible apply Within.after (State.putPlain_within _ _ _ _ _ _)); case hq => rfl)
    | ((with_reducible apply Within.after (State.setEng_within _ _ _)); case hq => rfl)
    | ((with_reducible apply Within.after (State.freeTile_within _ _ _)); case hq => rfl)
    | (with_reducible apply Within.getD)
    | intro _
    | split
    | dsimp only

theorem State.extFinish_within (s : State) (e : Nat) (x : Iss) (r : RingOp) :
    Within [.engines, .freeCtr] s (State.extFinish s e x r) := by
  unfold State.extFinish
  repeat' first
    | (with_reducible exact Within.refl _ _)
    | ((with_reducible apply Within.after (State.putLimbs_within _ _ _ _ _ _)); case hq => rfl)

theorem State.ringEnd_within (s : State) (e : Nat) (v : WinEnt) :
    Within [.hdrs, .engines, .freeCtr] s (State.ringEnd s e v) := by
  unfold State.ringEnd
  repeat' first
    | (with_reducible exact Within.refl _ _)
    | ((with_reducible apply Within.after (State.lanePasses_within _ _ _)); case hq => rfl)
    | ((with_reducible apply Within.after (State.kswFinish_within _ _ _ _)); case hq => rfl)
    | ((with_reducible apply Within.after (State.extFinish_within _ _ _ _)); case hq => rfl)
    | ((with_reducible apply Within.after (State.modWin_within _ _ _ _)); case hq => rfl)
    | ((with_reducible apply Within.after (State.setEng_within _ _ _)); case hq => rfl)
    | intro _
    | split

theorem State.kswEnd_within (s : State) (e n : Nat) (f : Fate) :
    Within [.hdrs, .engines, .streams] s (State.kswEnd s e n f) := by
  unfold State.kswEnd
  repeat' first
    | (with_reducible exact Within.refl _ _)
    | ((with_reducible apply Within.after (State.lanePasses_within _ _ _)); case hq => rfl)
    | ((with_reducible apply Within.after (State.settle_within _ _ _ _)); case hq => rfl)
    | ((with_reducible apply Within.after (State.setEng_within _ _ _)); case hq => rfl)

theorem State.kswWrites_within (s : State) (e n : Nat) :
    Within [.mem, .ue, .hdrs, .flows, .hbmcs, .galleries, .helpers, .engines, .streams, .msix, .outs] s (State.kswWrites s e n) := by
  unfold State.kswWrites
  repeat' first
    | (with_reducible exact Within.refl _ _)
    | ((with_reducible apply Within.after (State.todoRun_within _ _ _)); case hq => rfl)
    | ((with_reducible apply Within.after (State.kswEnd_within _ _ _ _)); case hq => rfl)
    | ((with_reducible apply Within.of_pair); with_reducible assumption)
    | split

theorem State.kswAfter_within (s : State) (e n : Nat) :
    Within [.mem, .ue, .hdrs, .flows, .hbmcs, .galleries, .helpers, .engines, .streams, .msix, .freeCtr, .outs] s (State.kswAfter s e n) := by
  unfold State.kswAfter
  repeat' first
    | (with_reducible exact Within.refl _ _)
    | ((with_reducible apply Within.after (State.kswWrites_within _ _ _)); case hq => rfl)
    | ((with_reducible apply Within.after (State.setXfer_within _ _ _ _)); case hq => rfl)
    | ((with_reducible apply Within.after (State.drawn_within _)); case hq => rfl)
    | split

theorem State.kswLimb_within (s : State) (e n : Nat) :
    Within [.mem, .ue, .hdrs, .flows, .hbmcs, .galleries, .helpers, .streams, .msix, .freeCtr, .outs] s (State.kswLimb s e n).1 := by
  unfold State.kswLimb
  repeat' first
    | (with_reducible exact Within.refl _ _)
    | ((with_reducible apply Within.after (State.mopRead_within _ _ _ _ _)); case hq => rfl)
    | ((with_reducible apply Within.after (State.todoRun_within _ _ _)); case hq => rfl)
    | ((with_reducible apply Within.after (State.setXfer_within _ _ _ _)); case hq => rfl)
    | ((with_reducible apply Within.after (State.drawn_within _)); case hq => rfl)
    | ((with_reducible apply Within.of_pair); with_reducible assumption)
    | split
    | dsimp only

theorem State.kswSource_within (s : State) (e n : Nat) (k : Nat) :
    Within [.mem, .ue, .hdrs, .flows, .hbmcs, .galleries, .helpers, .streams, .msix, .freeCtr, .outs] s (State.kswSource s e n k).1 := by
  induction k generalizing s with
  | zero => exact Within.refl _ _
  | succ k ih =>
    unfold State.kswSource
    repeat' first
      | (with_reducible exact Within.refl _ _)
      | ((with_reducible apply Within.after (ih _)); case hq => rfl)
      | ((with_reducible apply Within.of_pair); with_reducible assumption)
      | ((with_reducible apply Within.after (State.kswLimb_within _ _ _)); case hq => rfl)
      | ((with_reducible apply Within.after (State.todoRun_within _ _ _)); case hq => rfl)
      | ((with_reducible apply Within.after (State.nextLimb_within _ _ _)); case hq => rfl)
      | split
      | dsimp only

theorem State.kswRun_within (s : State) (e n : Nat) :
    Within [.mem, .ue, .hdrs, .flows, .hbmcs, .galleries, .helpers, .engines, .streams, .msix, .freeCtr, .outs] s (State.kswRun s e n) := by
  unfold State.kswRun
  repeat' first
    | (with_reducible exact Within.refl _ _)
    | ((with_reducible apply Within.after (State.kswSource_within _ _ _ _)); case hq => rfl)
    | ((with_reducible apply Within.after (State.setEng_within _ _ _)); case hq => rfl)
    | ((with_reducible apply Within.after (State.kswAfter_within _ _ _)); case hq => rfl)
    | ((with_reducible apply Within.after (State.ringFill_within _ _ _)); case hq => rfl)
    | ((with_reducible apply Within.after (State.kswEnd_within _ _ _ _)); case hq => rfl)
    | ((with_reducible apply Within.after (State.kswWrites_within _ _ _)); case hq => rfl)
    | ((with_reducible apply Within.of_pair); with_reducible assumption)
    | split
    | dsimp only

theorem State.kswMem_within (s : State) (e : Nat) (i : Ins) (cl : Loc) (cd : Desc) :
    Within [.mem, .ue, .hdrs, .flows, .hbmcs, .galleries, .helpers, .outs] s (State.kswMem s e i cl cd).1 := by
  unfold State.kswMem
  repeat' first
    | (with_reducible exact Within.refl _ _)
    | ((with_reducible apply Within.after (State.firstSource_within _ _ _ _)); case hq => rfl)
    | ((with_reducible apply Within.after (State.readDesc_within _ _ _ _)); case hq => rfl)
    | ((with_reducible apply Within.after (State.argSlot_within _ _ _)); case hq => rfl)
    | ((with_reducible apply Within.of_pair); with_reducible assumption)
    | split
    | dsimp only

theorem State.kswArgs_within (s : State) (e : Nat) (i : Ins) :
    Within [.mem, .ue, .hdrs, .flows, .hbmcs, .galleries, .helpers, .outs] s (State.kswArgs s e i).1 := by
  unfold State.kswArgs
  repeat' first
    | (with_reducible exact Within.refl _ _)
    | ((with_reducible apply Within.after (State.firstSource_within _ _ _ _)); case hq => rfl)
    | ((with_reducible apply Within.after (State.readDesc_within _ _ _ _)); case hq => rfl)
    | ((with_reducible apply Within.after (State.kswMem_within _ _ _ _ _)); case hq => rfl)
    | ((with_reducible apply Within.after (State.argSlot_within _ _ _)); case hq => rfl)
    | ((with_reducible apply Within.after (State.locRead_within _ _ _ _ _)); case hq => rfl)
    | ((with_reducible apply Within.of_pair); with_reducible assumption)
    | split
    | dsimp only

theorem State.freeMem_within (s : State) (a n : Nat) :
    Within [.mem, .freeCtr] s (State.freeMem s a n) := by
  unfold State.freeMem
  repeat' first
    | (with_reducible exact Within.refl _ _)
    | ((with_reducible apply Within.after (State.drawn_within _)); case hq => rfl)
    | intro _
    | ((with_reducible apply Within.set_mem); (case hp => rfl); case hx => first | exact memPut_wf _ _ | exact memClear_wf _ _ | exact fun _ => rfl)

theorem State.useSph_within (s : State) (e : Nat) (i : Ins) :
    Within [.mem, .freeCtr] s (State.useSph s e i) := by
  unfold State.useSph
  repeat' first
    | (with_reducible exact Within.refl _ _)
    | ((with_reducible apply Within.after (State.freeMem_within _ _ _)); case hq => rfl)
    | split
    | dsimp only

theorem State.ksw_within (s : State) (e : Nat) (x : Iss) :
    Within [.mem, .ue, .hdrs, .flows, .hbmcs, .galleries, .helpers, .engines, .streams, .msix, .freeCtr, .outs] s (State.ksw s e x) := by
  unfold State.ksw
  repeat' first
    | (with_reducible exact Within.refl _ _)
    | ((with_reducible apply Within.after (State.enter_within _ _ _ _ _ _)); case hq => rfl)
    | ((with_reducible apply Within.after (State.kswArgs_within _ _ _)); case hq => rfl)
    | ((with_reducible apply Within.after (State.poisonAt_within _ _ _)); case hq => rfl)
    | ((with_reducible apply Within.after (State.freeTile_within _ _ _)); case hq => rfl)
    | ((with_reducible apply Within.after (State.useSph_within _ _ _)); case hq => rfl)
    | ((with_reducible apply Within.after (State.setEng_within _ _ _)); case hq => rfl)
    | ((with_reducible apply Within.after (State.hold_within _ _ _ _)); case hq => rfl)
    | ((with_reducible apply Within.after (State.kswRun_within _ _ _)); case hq => rfl)
    | ((with_reducible apply Within.after (State.ringFill_within _ _ _)); case hq => rfl)
    | ((with_reducible apply Within.of_pair); with_reducible assumption)
    | split
    | dsimp only

theorem State.extStart_within (s : State) (e : Nat) (x : Iss) (fills rot : Nat) (bad : Bool) (src : List (List Nat)) :
    Within [.hdrs, .engines, .freeCtr] s (State.extStart s e x fills rot bad src) := by
  unfold State.extStart
  repeat' first
    | (with_reducible exact Within.refl _ _)
    | ((with_reducible apply Within.after (State.enter_within _ _ _ _ _ _)); case hq => rfl)
    | ((with_reducible apply Within.after (State.setEng_within _ _ _)); case hq => rfl)
    | ((with_reducible apply Within.after (State.ringFill_within _ _ _)); case hq => rfl)
    | ((with_reducible apply Within.after (State.ringEnd_within _ _ _)); case hq => rfl)
    | split
    | dsimp only

end Sys2Proof.Laws
end

