-- ==== Sys2Proof/Laws/FramesAccess.lean ====
section
/-! SUPPORT. What each operation of Machine/Access.lean may change: every part that is not listed stays. -/

namespace Sys2Proof.Laws

open Sys2Proof Sys2Proof.Machine

theorem State.refuse_within (s : State) (p : Page) (c : Code) :
    Within [.hdrs, .msix, .freeCtr] s (State.refuse s p c) := by
  unfold State.refuse
  repeat' first
    | (with_reducible exact Within.refl _ _)
    | ((with_reducible apply Within.after (State.drawn_within _)); case hq => rfl)
    | ((with_reducible apply Within.after (State.recordErr_within _ _ _ _)); case hq => rfl)

theorem Within.gate {ps : List Part} {s t : State} {p : Page} {allowed : Bool} {k : State → State} (hk : ∀ u, Within ps u (k u))
    (hq : (([.hdrs, .msix, .freeCtr] : List Part).all fun q => ps.contains q) = true) (h : Within ps s t) : Within ps s (t.gate p allowed k) := by
  unfold State.gate
  repeat' first
    | with_reducible exact h
    | (with_reducible exact Within.refl _ _)
    | ((with_reducible apply Within.after (State.refuse_within _ _ _)); case hq => simp_all)
    | exact h.trans (hk _)
    | split

theorem Within.inner {ps : List Part} {s t : State} {p : Page} {k : State → State} (hk : ∀ u, Within ps u (k u))
    (hq : (([.hdrs, .msix, .freeCtr] : List Part).all fun q => ps.contains q) = true) (h : Within ps s t) : Within ps s (t.inner p k) := by
  unfold State.inner
  repeat' first
    | with_reducible exact h
    | (with_reducible exact Within.refl _ _)
    | ((with_reducible apply Within.after (State.refuse_within _ _ _)); case hq => simp_all)
    | exact h.trans (hk _)
    | split

theorem State.hostPut_within (s : State) (port fn a : Nat) (bs : Bytes) :
    Within [.hostOut, .hostReq, .freeCtr] s (State.hostPut s port fn a bs) := by
  unfold State.hostPut
  repeat' first
    | (with_reducible exact Within.refl _ _)
    | dsimp only
    | ((with_reducible apply Within.of (t := s)); (case h' => intro p hn; cases p <;> first | exact absurd (by decide) hn | rfl); (case hm => exact id); case hd => exact id)

end Sys2Proof.Laws
end

