-- ==== Sys2Proof/Laws/FramesErrorLog.lean ====
section
/-! SUPPORT. What each operation of Machine/ErrorLog.lean may change: every part that is not listed stays. -/

namespace Sys2Proof.Laws

open Sys2Proof Sys2Proof.Machine

theorem State.bufferErr_within (s : State) (r : ErrRec) :
    Within [.dev, .mgmtW, .mgmtE] s (State.bufferErr s r) := by
  unfold State.bufferErr
  repeat' first
    | (with_reducible exact Within.refl _ _)
    | dsimp only
    | ((with_reducible apply Within.of (t := s)); (case h' => intro p hn; cases p <;> first | exact absurd (by decide) hn | rfl); (case hm => exact id); case hd => first | exact id | exact fun h => ⟨h.hops, h.tries, h.throt, h.pwr, h.pwrNew, h.cool⟩)

theorem State.logErr_within (s : State) (r : ErrRec) :
    Within [.dev, .mgmtW, .mgmtE] s (State.logErr s r) := by
  unfold State.logErr
  repeat' first
    | (with_reducible exact Within.refl _ _)
    | ((with_reducible apply Within.after (State.bufferErr_within _ _)); case hq => rfl)
    | intro _
    | split
    | ((with_reducible apply Within.set_dev); (case hp => rfl); case hx => exact fun h => ⟨h.hops, h.tries, h.throt, h.pwr, h.pwrNew, h.cool⟩)

theorem Within.erqGate {ps : List Part} {s t : State} {c : Ctl} {k : State → State} (hk : ∀ u, Within ps u (k u))
    (hq : (([] : List Part).all fun q => ps.contains q) = true) (h : Within ps s t) : Within ps s (t.erqGate c k) := by
  unfold State.erqGate
  repeat' first
    | with_reducible exact h
    | (with_reducible exact Within.refl _ _)
    | exact h.trans (hk _)
    | split

theorem State.erqCtl_within (s : State) (c : Ctl) (val : Nat) :
    Within [.hdrs, .mgmtW, .mgmtE, .msix, .freeCtr] s (State.erqCtl s c val) := by
  unfold State.erqCtl
  repeat' first
    | (with_reducible exact Within.refl _ _)
    | ((with_reducible apply Within.after (State.refuse_within _ _ _)); case hq => rfl)
    | ((with_reducible apply Within.after (State.setMgmt_within _ _ _)); case hq => rfl)
    | split
    | dsimp only

theorem State.erqHeadPut_within (s : State) (c : Ctl) (val : Nat) :
    Within [.hdrs, .mgmtW, .mgmtE, .msix, .freeCtr] s (State.erqHeadPut s c val) := by
  unfold State.erqHeadPut
  repeat' first
    | (with_reducible exact Within.refl _ _)
    | ((with_reducible apply Within.after (State.refuse_within _ _ _)); case hq => rfl)
    | ((with_reducible apply Within.after (State.setMgmt_within _ _ _)); case hq => rfl)
    | intro _
    | split
    | dsimp only

end Sys2Proof.Laws
end

