-- ==== Sys2Proof/Laws/FramesStreamUnit.lean ====
section
/-! SUPPORT. What each operation of Machine/StreamUnit.lean may change: every part that is not listed stays. -/

namespace Sys2Proof.Laws

open Sys2Proof Sys2Proof.Machine

theorem State.setSlotOf_within (s : State) (e n : Nat) (x : Slot) :
    Within [.streams] s (State.setSlotOf s e n x) := by
  unfold State.setSlotOf
  repeat' first
    | (with_reducible exact Within.refl _ _)
    | ((with_reducible apply Within.after (State.setStrm_within _ _ _)); case hq => rfl)

theorem State.dropEnt_within (s : State) (e n : Nat) :
    Within [.streams] s (State.dropEnt s e n) := by
  unfold State.dropEnt
  repeat' first
    | (with_reducible exact Within.refl _ _)
    | ((with_reducible apply Within.after (State.setSlotOf_within _ _ _ _)); case hq => rfl)
    | ((with_reducible apply Within.after (State.setXfer_within _ _ _ _)); case hq => rfl)
    | split
    | dsimp only

theorem State.needEnt_within {s t : State} {e n : Nat} (h : s.needEnt e n = some t) : Within [.streams] s t := by
  unfold State.needEnt at h
  dsimp only at h
  split at h
  · cases h; exact Within.refl _ _
  · split at h
    · cases h
      exact Within.after (State.setSlotOf_within _ _ _ _) rfl (Within.after (State.setXfer_within _ _ _ _) rfl (Within.refl _ _))
    · cases h

theorem State.slotDone_within (s : State) (e n : Nat) :
    Within [.streams] s (State.slotDone s e n) := by
  unfold State.slotDone
  repeat' first
    | (with_reducible exact Within.refl _ _)
    | ((with_reducible apply Within.after (State.setSlotOf_within _ _ _ _)); case hq => rfl)
    | ((with_reducible apply Within.after (State.dropEnt_within _ _ _)); case hq => rfl)
    | intro _
    | split
    | dsimp only

theorem Within.slotStep {ps : List Part} {s t : State} {e n sop : Nat} {k : State → State} (hk : ∀ u, Within ps u (k u))
    (hq : (([.streams] : List Part).all fun q => ps.contains q) = true) (h : Within ps s t) : Within ps s (t.slotStep e n sop k) := by
  unfold State.slotStep
  repeat' first
    | with_reducible exact h
    | (with_reducible exact Within.refl _ _)
    | ((with_reducible refine Within.trans (t := _) ?_ (hk _)))
    | split
    | ((with_reducible apply Within.after (State.needEnt_within ?hx)); (case hx => with_reducible assumption); case hq => simp_all)
    | dsimp only

theorem State.slotSet_within (s : State) (e n sop : Nat) (f : Slot → Nat → Slot) :
    Within [.streams] s (State.slotSet s e n sop f) := by
  unfold State.slotSet
  repeat' first
    | (with_reducible exact Within.refl _ _)
    | ((with_reducible apply Within.slotStep); case hq => rfl)
    | ((with_reducible apply Within.after (State.slotDone_within _ _ _)); case hq => rfl)
    | ((with_reducible apply Within.after (State.setSlotOf_within _ _ _ _)); case hq => rfl)
    | intro _

theorem State.slotFail_within (s : State) (e n sop : Nat) (c : Code) (d1 : Nat) :
    Within [.galleries, .streams, .freeCtr] s (State.slotFail s e n sop c d1) := by
  unfold State.slotFail
  repeat' first
    | (with_reducible exact Within.refl _ _)
    | ((with_reducible apply Within.after (State.drawn_within _)); case hq => rfl)
    | ((with_reducible apply Within.after (State.sumpPut_within _ _ _)); case hq => rfl)
    | ((with_reducible apply Within.after (State.dropEnt_within _ _ _)); case hq => rfl)
    | ((with_reducible apply Within.after (State.setSlotOf_within _ _ _ _)); case hq => rfl)

theorem State.readImage_within (s : State) (e : Nat) :
    Within [.mem, .ue, .hdrs, .flows, .hbmcs, .galleries] s (State.readImage s e).1 := by
  unfold State.readImage
  repeat' first
    | (with_reducible exact Within.refl _ _)
    | ((with_reducible apply Within.after (State.vRead_within _ _ _ _ _ _)); case hq => rfl)
    | ((with_reducible apply Within.of_pair); with_reducible assumption)
    | split
    | dsimp only

theorem State.loadSlots_within (s : State) (e : Nat) (img : List (List Nat)) :
    Within [.streams] s (State.loadSlots s e img) := by
  unfold State.loadSlots
  repeat' first
    | (with_reducible exact Within.refl _ _)
    | ((with_reducible apply Within.after (State.setStrm_within _ _ _)); case hq => rfl)
    | ((with_reducible apply Within.after (State.needEnt_within ?hx)); (case hx => with_reducible assumption); case hq => rfl)
    | (with_reducible apply Within.getD)
    | (with_reducible apply Within.foldl)
    | (with_reducible apply Within.foldl_fst)
    | intro _
    | split

end Sys2Proof.Laws
end

