-- ==== Sys2Proof/Laws/FramesDripUnit.lean ====
section
/-! SUPPORT. What each operation of Machine/DripUnit.lean may change: every part that is not listed stays. -/

namespace Sys2Proof.Laws

open Sys2Proof Sys2Proof.Machine

theorem State.fillFault_within (s : State) (e n sop : Nat) (c : Code) (d0 d1 : Nat) :
    Within [.galleries] s (State.fillFault s e n sop c d0 d1) := by
  unfold State.fillFault
  repeat' first
    | (with_reducible exact Within.refl _ _)
    | ((with_reducible apply Within.after (State.sumpPut_within _ _ _)); case hq => rfl)

theorem State.setKf_within (s : State) (e n : Nat) (k : KFill) :
    Within [.streams] s (State.setKf s e n k) := by
  unfold State.setKf
  repeat' first
    | (with_reducible exact Within.refl _ _)
    | ((with_reducible apply Within.after (State.setSlotOf_within _ _ _ _)); case hq => rfl)

theorem State.kfHeader_within (s : State) (e w : Nat) (l : Loc) (first : Bool) :
    Within [.mem, .ue, .hdrs, .flows, .hbmcs, .galleries] s (State.kfHeader s e w l first).1 := by
  unfold State.kfHeader
  repeat' first
    | (with_reducible exact Within.refl _ _)
    | ((with_reducible apply Within.after (State.locRead_within _ _ _ _ _)); case hq => rfl)
    | ((with_reducible apply Within.of_pair); with_reducible assumption)
    | split
    | dsimp only

theorem State.kfillStart_within (s : State) (e n : Nat) :
    Within [.mem, .ue, .hdrs, .flows, .hbmcs, .galleries, .streams] s (State.kfillStart s e n) := by
  unfold State.kfillStart
  repeat' first
    | (with_reducible exact Within.refl _ _)
    | ((with_reducible apply Within.after (State.setKf_within _ _ _ _)); case hq => rfl)
    | ((with_reducible apply Within.after (State.fillFault_within _ _ _ _ _ _ _)); case hq => rfl)
    | ((with_reducible apply Within.after (State.argSlot_within _ _ _)); case hq => rfl)
    | ((with_reducible apply Within.after (State.kfHeader_within _ _ _ _ _)); case hq => rfl)
    | ((with_reducible apply Within.of_pair); with_reducible assumption)
    | split
    | dsimp only

theorem State.fillRead_within (s : State) (e ent : Nat) (c : Chain) (h : KeyHdr) (body : Loc) (l : List FillRow) :
    Within [.mem, .ue, .hdrs, .flows, .hbmcs, .galleries] s (State.fillRead s e ent c h body l).1 := by
  induction l generalizing s with
  | nil => exact Within.refl _ _
  | cons a l ih =>
    cases a <;> unfold State.fillRead
    repeat' first
      | (with_reducible exact Within.refl _ _)
      | ((with_reducible apply Within.after (ih _)); case hq => rfl)
      | ((with_reducible apply Within.of_pair); with_reducible assumption)
      | ((with_reducible apply Within.after (State.units_within _ _ _ _ _)); case hq => rfl)
      | ((with_reducible apply Within.after (State.locRead_within _ _ _ _ _)); case hq => rfl)
      | intro _
      | split
      | dsimp only

theorem State.dripCount_within (s : State) (g : Nat) (a : Drawn) :
    Within [.hdrs, .drips] s (State.dripCount s g a) := by
  unfold State.dripCount
  repeat' first
    | (with_reducible exact Within.refl _ _)
    | ((with_reducible apply Within.after (State.setDrip_within _ _ _)); case hq => rfl)
    | ((with_reducible apply Within.after (State.event_within _ _ _ _)); case hq => rfl)

theorem State.fillCount_within (s : State) (e : Nat) :
    Within [.hdrs, .drips] s (State.fillCount s e) := by
  unfold State.fillCount
  repeat' first
    | (with_reducible exact Within.refl _ _)
    | ((with_reducible apply Within.after (State.event_within _ _ _ _)); case hq => rfl)
    | ((with_reducible apply Within.after (State.setDrip_within _ _ _)); case hq => rfl)

theorem State.assemble_within (s : State) (e n : Nat) (k : KFill) :
    Within [.mem, .ue, .hdrs, .flows, .hbmcs, .galleries, .drips, .streams] s (State.assemble s e n k) := by
  unfold State.assemble
  repeat' first
    | (with_reducible exact Within.refl _ _)
    | ((with_reducible apply Within.after (State.setKf_within _ _ _ _)); case hq => rfl)
    | ((with_reducible apply Within.after (State.fillRead_within _ _ _ _ _ _ _)); case hq => rfl)
    | ((with_reducible apply Within.after (State.setDrip_within _ _ _)); case hq => rfl)
    | ((with_reducible apply Within.after (State.dripCount_within _ _ _)); case hq => rfl)
    | ((with_reducible apply Within.after (State.kfHeader_within _ _ _ _ _)); case hq => rfl)
    | ((with_reducible apply Within.of_pair); with_reducible assumption)
    | split
    | dsimp only

theorem State.fillBegin_within (s : State) (e n : Nat) (k : KFill) :
    Within [.engines, .streams] s (State.fillBegin s e n k) := by
  unfold State.fillBegin
  repeat' first
    | (with_reducible exact Within.refl _ _)
    | ((with_reducible apply Within.after (State.setKf_within _ _ _ _)); case hq => rfl)
    | ((with_reducible apply Within.after (State.setEng_within _ _ _)); case hq => rfl)
    | split
    | dsimp only

theorem State.fillEnd_within (s : State) (e n : Nat) (k : KFill) (t : Nat) :
    Within [.hdrs, .galleries, .drips, .engines, .streams] s (State.fillEnd s e n k t) := by
  unfold State.fillEnd
  repeat' first
    | (with_reducible exact Within.refl _ _)
    | ((with_reducible apply Within.after (State.fillFault_within _ _ _ _ _ _ _)); case hq => rfl)
    | ((with_reducible apply Within.after (State.setKf_within _ _ _ _)); case hq => rfl)
    | ((with_reducible apply Within.after (State.setEng_within _ _ _)); case hq => rfl)
    | ((with_reducible apply Within.after (State.fillCount_within _ _)); case hq => rfl)
    | split

theorem State.kfCycle_within (s : State) (e n : Nat) :
    Within [.mem, .ue, .hdrs, .flows, .hbmcs, .galleries, .drips, .engines, .streams] s (State.kfCycle s e n) := by
  unfold State.kfCycle
  repeat' first
    | (with_reducible exact Within.refl _ _)
    | ((with_reducible apply Within.after (State.event_within _ _ _ _)); case hq => rfl)
    | ((with_reducible apply Within.after (State.assemble_within _ _ _ _)); case hq => rfl)
    | ((with_reducible apply Within.after (State.fillBegin_within _ _ _ _)); case hq => rfl)
    | split
    | dsimp only

theorem Within.pushOwn {ps : List Part} {s t : State} {e n : Nat} {tok : Token} {k : State → State} (hk : ∀ u, Within ps u (k u))
    (hq : (([.engines] : List Part).all fun q => ps.contains q) = true) (h : Within ps s t) : Within ps s (t.pushOwn e n tok k) := by
  unfold State.pushOwn
  repeat' first
    | with_reducible exact h
    | (with_reducible exact Within.refl _ _)
    | dsimp only
    | split
    | ((with_reducible refine Within.trans (t := _) ?_ (hk _)))
    | ((with_reducible apply Within.after (State.setEng_within _ _ _)); case hq => simp_all)

theorem State.nfillRun_within (s : State) (e n : Nat) :
    Within [.hdrs, .galleries, .drips, .engines, .streams] s (State.nfillRun s e n) := by
  unfold State.nfillRun
  repeat' first
    | (with_reducible exact Within.refl _ _)
    | ((with_reducible apply Within.after (State.setSlotOf_within _ _ _ _)); case hq => rfl)
    | ((with_reducible apply Within.after (State.setEng_within _ _ _)); case hq => rfl)
    | ((with_reducible apply Within.after (State.fillFault_within _ _ _ _ _ _ _)); case hq => rfl)
    | ((with_reducible apply Within.after (State.dripCount_within _ _ _)); case hq => rfl)
    | intro _
    | split
    | dsimp only

theorem State.dripFault_within (s : State) (g : Nat) (cores : BitVec 40) :
    Within [.galleries] s (State.dripFault s g cores) := by
  unfold State.dripFault
  repeat' first
    | (with_reducible exact Within.refl _ _)
    | ((with_reducible apply Within.after (State.sumpPut_within _ _ _)); case hq => rfl)

theorem State.dropAsm_within (s : State) (g : Nat) :
    Within [.streams] s (State.dropAsm s g) := by
  unfold State.dropAsm
  repeat' first
    | (with_reducible exact Within.refl _ _)
    | ((with_reducible apply Within.after (State.setKf_within _ _ _ _)); case hq => rfl)
    | (with_reducible apply Within.foldl)
    | (with_reducible apply Within.foldl_fst)
    | intro _
    | split
    | dsimp only

theorem State.dripTest_within (s : State) (g : Nat) :
    Within [.hdrs, .drips, .msix, .freeCtr] s (State.dripTest s g) := by
  unfold State.dripTest
  repeat' first
    | (with_reducible exact Within.refl _ _)
    | ((with_reducible apply Within.after (State.refuse_within _ _ _)); case hq => rfl)
    | ((with_reducible apply Within.after (State.setDrip_within _ _ _)); case hq => rfl)
    | split
    | dsimp only

theorem State.coreEnPut_within (s : State) (g val : Nat) :
    Within [.drips] s (State.coreEnPut s g val) := by
  unfold State.coreEnPut
  repeat' first
    | (with_reducible exact Within.refl _ _)
    | ((with_reducible apply Within.after (State.setDrip_within _ _ _)); case hq => rfl)

end Sys2Proof.Laws
end

