-- ==== Sys2Proof/Laws/FramesEngineCtl.lean ====
section
/-! SUPPORT. What each operation of Machine/EngineCtl.lean may change: every part that is not listed stays. -/

namespace Sys2Proof.Laws

open Sys2Proof Sys2Proof.Machine

theorem State.readProg_within (s : State) (e base : Nat) :
    Within [.mem, .ue, .hdrs, .flows, .hbmcs, .galleries] s (State.readProg s e base).1 := by
  unfold State.readProg
  repeat' first
    | (with_reducible exact Within.refl _ _)
    | ((with_reducible apply Within.after (State.vRead_within _ _ _ _ _ _)); case hq => rfl)
    | ((with_reducible apply Within.of_pair); with_reducible assumption)
    | split

theorem State.startFail_within (s : State) (e : Nat) (c : Code) :
    Within [.galleries, .engines] s (State.startFail s e c) := by
  unfold State.startFail
  repeat' first
    | (with_reducible exact Within.refl _ _)
    | ((with_reducible apply Within.after (State.sumpPut_within _ _ _)); case hq => rfl)
    | ((with_reducible apply Within.after (State.setEng_within _ _ _)); case hq => rfl)

theorem State.replayTok_within (s : State) (e q : Nat) (k : Token) :
    Within [.dev, .engines] s (State.replayTok s e q k) := by
  unfold State.replayTok
  repeat' first
    | (with_reducible exact Within.refl _ _)
    | ((with_reducible apply Within.after (State.setEng_within _ _ _)); case hq => rfl)
    | intro _
    | split
    | ((with_reducible apply Within.set_dev); (case hp => rfl); case hx => exact fun h => ⟨h.hops, h.tries, h.throt, h.pwr, h.pwrNew, h.cool⟩)

theorem State.replayToks_within (s : State) (e : Nat) :
    Within [.dev, .engines] s (State.replayToks s e) := by
  unfold State.replayToks
  repeat' first
    | (with_reducible exact Within.refl _ _)
    | ((with_reducible apply Within.after (State.replayTok_within _ _ _ _)); case hq => rfl)
    | (with_reducible apply Within.foldl)
    | (with_reducible apply Within.foldl_fst)
    | intro _
    | split

theorem State.replayDrain_within (s : State) :
    Within [.dev, .engines] s (State.replayDrain s) := by
  unfold State.replayDrain
  repeat' first
    | (with_reducible exact Within.refl _ _)
    | ((with_reducible apply Within.after (State.replayTok_within _ _ _ _)); case hq => rfl)
    | (with_reducible apply Within.foldl)
    | (with_reducible apply Within.foldl_fst)
    | intro _
    | split
    | ((with_reducible apply Within.set_dev); (case hp => rfl); case hx => exact fun h => ⟨h.hops, h.tries, h.throt, h.pwr, h.pwrNew, h.cool⟩)

theorem State.clearRun_within (s : State) (e : Nat) :
    Within [.engines] s (State.clearRun s e) := by
  unfold State.clearRun
  repeat' first
    | (with_reducible exact Within.refl _ _)
    | ((with_reducible apply Within.after (State.setEng_within _ _ _)); case hq => rfl)

theorem State.startEngine_within (s : State) (e : Nat) :
    Within [.mem, .ue, .hdrs, .dev, .flows, .hbmcs, .galleries, .engines, .streams] s (State.startEngine s e) := by
  unfold State.startEngine
  repeat' first
    | (with_reducible exact Within.refl _ _)
    | ((with_reducible apply Within.after (State.readProg_within _ _ _)); case hq => rfl)
    | ((with_reducible apply Within.after (State.clearRun_within _ _)); case hq => rfl)
    | ((with_reducible apply Within.after (State.startFail_within _ _ _)); case hq => rfl)
    | ((with_reducible apply Within.after (State.readImage_within _ _)); case hq => rfl)
    | ((with_reducible apply Within.after (State.setEng_within _ _ _)); case hq => rfl)
    | ((with_reducible apply Within.after (State.loadSlots_within _ _ _)); case hq => rfl)
    | ((with_reducible apply Within.after (State.replayToks_within _ _)); case hq => rfl)
    | ((with_reducible apply Within.of_pair); with_reducible assumption)
    | split

theorem State.startWrite_within (s : State) (e val : Nat) :
    Within [.mem, .ue, .hdrs, .dev, .flows, .hbmcs, .galleries, .engines, .streams, .msix, .freeCtr] s (State.startWrite s e val) := by
  unfold State.startWrite
  repeat' first
    | (with_reducible exact Within.refl _ _)
    | ((with_reducible apply Within.after (State.refuse_within _ _ _)); case hq => rfl)
    | ((with_reducible apply Within.after (State.startEngine_within _ _)); case hq => rfl)
    | split

theorem State.stopCntPut_within (s : State) (e val : Nat) :
    Within [.engines] s (State.stopCntPut s e val) := by
  unfold State.stopCntPut
  repeat' first
    | (with_reducible exact Within.refl _ _)
    | ((with_reducible apply Within.after (State.setEng_within _ _ _)); case hq => rfl)

theorem State.setHalt_within (s : State) (p : Page) (b : Bool) :
    Within [.hdrs, .engines] s (State.setHalt s p b) := by
  unfold State.setHalt
  repeat' first
    | (with_reducible exact Within.refl _ _)
    | ((with_reducible apply Within.after (State.setHdr_within _ _ _)); case hq => rfl)
    | ((with_reducible apply Within.after (State.setEng_within _ _ _)); case hq => rfl)
    | split
    | dsimp only

theorem State.rndSeedPut_within (s : State) (e : Nat) (val : Word64) :
    Within [.hdrs, .engines, .msix, .freeCtr] s (State.rndSeedPut s e val) := by
  unfold State.rndSeedPut
  repeat' first
    | (with_reducible exact Within.refl _ _)
    | ((with_reducible apply Within.after (State.setEng_within _ _ _)); case hq => rfl)
    | ((with_reducible apply Within.after (State.refuse_within _ _ _)); case hq => rfl)
    | split
    | dsimp only

theorem State.tileCfgPut_within (s : State) (e n val : Nat) :
    Within [.hdrs, .engines, .msix, .freeCtr] s (State.tileCfgPut s e n val) := by
  unfold State.tileCfgPut
  repeat' first
    | (with_reducible exact Within.refl _ _)
    | ((with_reducible apply Within.after (State.refuse_within _ _ _)); case hq => rfl)
    | ((with_reducible apply Within.after (State.setEng_within _ _ _)); case hq => rfl)
    | intro _
    | split
    | dsimp only

theorem State.cfgDrain_within (s : State) (e : Nat) :
    Within [.hdrs, .engines, .msix, .freeCtr] s (State.cfgDrain s e) := by
  unfold State.cfgDrain
  repeat' first
    | (with_reducible exact Within.refl _ _)
    | ((with_reducible apply Within.after (State.tileCfgPut_within _ _ _ _)); case hq => rfl)
    | ((with_reducible apply Within.after (State.setEng_within _ _ _)); case hq => rfl)
    | (with_reducible apply Within.foldl)
    | (with_reducible apply Within.foldl_fst)
    | intro _

theorem State.dbgRead_within (s : State) (e off n : Nat) :
    Within [.hdrs, .msix, .lastRead, .freeCtr] s (State.dbgRead s e off n) := by
  unfold State.dbgRead
  repeat' first
    | (with_reducible exact Within.refl _ _)
    | ((with_reducible apply Within.after (State.refuse_within _ _ _)); case hq => rfl)
    | split
    | ((with_reducible apply Within.set_lastRead); case hp => rfl)

theorem State.resetEngine_within (s : State) (e : Nat) :
    Within [.mem, .hdrs, .dev, .galleries, .drips, .engines, .streams] s (State.resetEngine s e) := by
  unfold State.resetEngine
  repeat' first
    | (with_reducible exact Within.refl _ _)
    | ((with_reducible apply Within.after (State.countErrs_within _ _ _)); case hq => rfl)
    | ((with_reducible apply Within.after (State.setEng_within _ _ _)); case hq => rfl)
    | ((with_reducible apply Within.after (State.setStrm_within _ _ _)); case hq => rfl)
    | ((with_reducible apply Within.after (State.setDrip_within _ _ _)); case hq => rfl)
    | ((with_reducible apply Within.after (State.setGal_within _ _ _)); case hq => rfl)
    | ((with_reducible apply Within.after (State.zeroRun_within _ _ _)); case hq => rfl)
    | intro _
    | ((with_reducible apply Within.set_dev); (case hp => rfl); case hx => exact fun h => ⟨h.hops, h.tries, h.throt, h.pwr, h.pwrNew, h.cool⟩)

theorem State.saveWrite_within (s : State) (e : Nat) :
    Within [.hdrs, .engines, .msix, .freeCtr] s (State.saveWrite s e) := by
  unfold State.saveWrite
  repeat' first
    | (with_reducible exact Within.refl _ _)
    | ((with_reducible apply Within.after (State.setEng_within _ _ _)); case hq => rfl)
    | ((with_reducible apply Within.after (State.refuse_within _ _ _)); case hq => rfl)
    | split
    | dsimp only

theorem State.restoreFail_within (s : State) (e : Nat) (c : Code) :
    Within [.engines] s (State.restoreFail s e c) := by
  unfold State.restoreFail
  repeat' first
    | (with_reducible exact Within.refl _ _)
    | ((with_reducible apply Within.after (State.setEng_within _ _ _)); case hq => rfl)

theorem State.loadNk_within (s : State) (e : Nat) :
    Within [.drips] s (State.loadNk s e) := by
  unfold State.loadNk
  repeat' first
    | (with_reducible exact Within.refl _ _)
    | ((with_reducible apply Within.after (State.setDrip_within _ _ _)); case hq => rfl)

theorem State.restoreStream_within (s : State) (e : Nat) (rec_ : Bytes) :
    Within [.engines, .streams] s (State.restoreStream s e rec_) := by
  unfold State.restoreStream
  repeat' first
    | (with_reducible exact Within.refl _ _)
    | ((with_reducible apply Within.after (State.setEng_within _ _ _)); case hq => rfl)
    | ((with_reducible apply Within.after (State.setStrm_within _ _ _)); case hq => rfl)

theorem State.restorePut_within (s : State) (e : Nat) (h : SaveHdr) (y : Engine) (ws : List (BitVec 128)) (images rec_ : Bytes) (img : List (List Nat)) :
    Within [.hdrs, .drips, .engines, .streams] s (State.restorePut s e h y ws images rec_ img) := by
  unfold State.restorePut
  repeat' first
    | (with_reducible exact Within.refl _ _)
    | ((with_reducible apply Within.after (State.setEng_within _ _ _)); case hq => rfl)
    | ((with_reducible apply Within.after (State.setStrm_within _ _ _)); case hq => rfl)
    | ((with_reducible apply Within.after (State.loadNk_within _ _)); case hq => rfl)
    | ((with_reducible apply Within.after (State.setHdr_within _ _ _)); case hq => rfl)

theorem State.restoreFrom_within (s : State) (e : Nat) (h : SaveHdr) (y : Engine) :
    Within [.mem, .ue, .hdrs, .flows, .hbmcs, .galleries, .drips, .engines, .streams] s (State.restoreFrom s e h y) := by
  unfold State.restoreFrom
  repeat' first
    | (with_reducible exact Within.refl _ _)
    | ((with_reducible apply Within.after (State.devRead_within _ _ _ _)); case hq => rfl)
    | ((with_reducible apply Within.after (State.restoreFail_within _ _ _)); case hq => rfl)
    | ((with_reducible apply Within.after (State.readProg_within _ _ _)); case hq => rfl)
    | ((with_reducible apply Within.after (State.readImage_within _ _)); case hq => rfl)
    | ((with_reducible apply Within.after (State.restoreStream_within _ _ _)); case hq => rfl)
    | ((with_reducible apply Within.after (State.restorePut_within _ _ _ _ _ _ _ _)); case hq => rfl)
    | ((with_reducible apply Within.of_pair); with_reducible assumption)
    | split
    | dsimp only

theorem State.restoreWrite_within (s : State) (e : Nat) :
    Within [.mem, .ue, .hdrs, .flows, .hbmcs, .galleries, .drips, .engines, .streams, .msix, .freeCtr] s (State.restoreWrite s e) := by
  unfold State.restoreWrite
  repeat' first
    | (with_reducible exact Within.refl _ _)
    | ((with_reducible apply Within.after (State.refuse_within _ _ _)); case hq => rfl)
    | ((with_reducible apply Within.after (State.devRead_within _ _ _ _)); case hq => rfl)
    | ((with_reducible apply Within.after (State.restoreFail_within _ _ _)); case hq => rfl)
    | ((with_reducible apply Within.after (State.restoreFrom_within _ _ _ _)); case hq => rfl)
    | ((with_reducible apply Within.of_pair); with_reducible assumption)
    | split
    | dsimp only

theorem State.refill_within (s : State) (e t : Nat) (tag : Word64) :
    Within [.mem, .ue, .hdrs, .flows, .hbmcs, .galleries, .drips, .engines, .freeCtr] s (State.refill s e t tag) := by
  unfold State.refill
  repeat' first
    | (with_reducible exact Within.refl _ _)
    | ((with_reducible apply Within.after (State.drawn_within _)); case hq => rfl)
    | ((with_reducible apply Within.after (State.fillCount_within _ _)); case hq => rfl)
    | ((with_reducible apply Within.after (State.setEng_within _ _ _)); case hq => rfl)
    | ((with_reducible apply Within.after (State.fillFault_within _ _ _ _ _ _ _)); case hq => rfl)
    | ((with_reducible apply Within.after (State.locRead_within _ _ _ _ _)); case hq => rfl)
    | ((with_reducible apply Within.after (State.fillRead_within _ _ _ _ _ _ _)); case hq => rfl)
    | ((with_reducible apply Within.after (State.dripCount_within _ _ _)); case hq => rfl)
    | (with_reducible apply Within.getD)
    | ((with_reducible apply Within.of_pair); with_reducible assumption)
    | intro _
    | split
    | dsimp only

theorem State.refillToken_within (s : State) (e n : Nat) :
    Within [.streams] s (State.refillToken s e n) := by
  unfold State.refillToken
  repeat' first
    | (with_reducible exact Within.refl _ _)
    | ((with_reducible apply Within.after (State.setKf_within _ _ _ _)); case hq => rfl)
    | split

theorem State.resumeKf_within (s : State) (e n : Nat) :
    Within [.mem, .ue, .hdrs, .flows, .hbmcs, .galleries, .streams] s (State.resumeKf s e n) := by
  unfold State.resumeKf
  repeat' first
    | (with_reducible exact Within.refl _ _)
    | ((with_reducible apply Within.after (State.kfillStart_within _ _ _)); case hq => rfl)
    | ((with_reducible apply Within.after (State.setSlotOf_within _ _ _ _)); case hq => rfl)
    | ((with_reducible apply Within.after (State.setKf_within _ _ _ _)); case hq => rfl)
    | split
    | dsimp only

theorem State.hsigPut_within (s : State) (port fn g val : Nat) :
    Within [.hdrs, .galleries, .engines, .msix, .freeCtr] s (State.hsigPut s port fn g val) := by
  unfold State.hsigPut
  repeat' first
    | (with_reducible exact Within.refl _ _)
    | ((with_reducible apply Within.after (State.refuse_within _ _ _)); case hq => rfl)
    | ((with_reducible apply Within.after (State.setEng_within _ _ _)); case hq => rfl)
    | ((with_reducible apply Within.after (State.setGal_within _ _ _)); case hq => rfl)
    | split
    | dsimp only

end Sys2Proof.Laws
end

