-- ==== Sys2Proof/Laws/FramesLinkUnit.lean ====
section
/-! SUPPORT. What each operation of Machine/LinkUnit.lean may change: every part that is not listed stays. -/

namespace Sys2Proof.Laws

open Sys2Proof Sys2Proof.Machine

theorem State.wirePut_within (s : State) (n : Nat) (f : Flit) :
    Within [.hdrs, .links] s (State.wirePut s n f) := by
  unfold State.wirePut
  repeat' first
    | (with_reducible exact Within.refl _ _)
    | ((with_reducible apply Within.after (State.event_within _ _ _ _)); case hq => rfl)
    | ((with_reducible apply Within.after (State.setLink_within _ _ _)); case hq => rfl)

theorem State.sendLink_within (s : State) (n : Nat) (f : Flit) :
    Within [.hdrs, .links] s (State.sendLink s n f) := by
  unfold State.sendLink
  repeat' first
    | (with_reducible exact Within.refl _ _)
    | ((with_reducible apply Within.after (State.wirePut_within _ _ _)); case hq => rfl)
    | ((with_reducible apply Within.after (State.setLink_within _ _ _)); case hq => rfl)

theorem State.pumpGo_within (s : State) (b : Nat) (k : Nat) :
    Within [.hdrs, .links, .bundles] s (State.pumpGo s b k) := by
  induction k generalizing s with
  | zero => exact Within.refl _ _
  | succ k ih =>
    unfold State.pumpGo
    repeat' first
      | (with_reducible exact Within.refl _ _)
      | ((with_reducible apply Within.after (ih _)); case hq => rfl)
      | ((with_reducible apply Within.after (State.sendLink_within _ _ _)); case hq => rfl)
      | ((with_reducible apply Within.after (State.setBundle_within _ _ _)); case hq => rfl)
      | intro _
      | split
      | dsimp only

theorem State.pump_within (s : State) (b : Nat) :
    Within [.hdrs, .links, .bundles] s (State.pump s b) := by
  unfold State.pump
  repeat' first
    | (with_reducible exact Within.refl _ _)
    | ((with_reducible apply Within.after (State.pumpGo_within _ _ _)); case hq => rfl)

theorem State.bundleSend_within {s t : State} {b : Nat} {fwd : Bool} {f : Flit} (h : s.bundleSend b fwd f = some t) : Within [.hdrs, .links, .bundles] s t := by
  unfold State.bundleSend at h
  split at h
  · cases h
  · cases h
    exact Within.after (State.pump_within _ _) rfl (Within.after (State.setBundle_within _ _ _) rfl (Within.refl _ _))

theorem State.sendOn_within {s t : State} {fwd : Bool} {f : Flit} (h : s.sendOn fwd f = some t) : Within [.hdrs, .links, .bundles] s t := by
  unfold State.sendOn at h
  split at h
  · cases h
  · exact State.bundleSend_within h

theorem State.freeErr_within (s : State) (p : Page) (c : Option Code) :
    Within [.dev, .mgmtW, .mgmtE, .freeCtr] s (State.freeErr s p c) := by
  unfold State.freeErr
  repeat' first
    | (with_reducible exact Within.refl _ _)
    | ((with_reducible apply Within.after (State.logErr_within _ _)); case hq => rfl)
    | ((with_reducible apply Within.after (State.drawn_within _)); case hq => rfl)

theorem State.dropFlit_within (s : State) (n : Nat) :
    Within [.hdrs, .dev, .mgmtW, .mgmtE, .freeCtr] s (State.dropFlit s n) := by
  unfold State.dropFlit
  repeat' first
    | (with_reducible exact Within.refl _ _)
    | ((with_reducible apply Within.after (State.freeErr_within _ _ _)); case hq => rfl)
    | ((with_reducible apply Within.after (State.event_within _ _ _ _)); case hq => rfl)

theorem State.forward_within (s : State) (n : Nat) (f : Flit) :
    Within [.hdrs, .dev, .mgmtW, .mgmtE, .links, .bundles, .freeCtr] s (State.forward s n f) := by
  unfold State.forward
  repeat' first
    | (with_reducible exact Within.refl _ _)
    | ((with_reducible apply Within.after (State.dropFlit_within _ _)); case hq => rfl)
    | ((with_reducible apply Within.after (State.sendOn_within ?hx)); (case hx => with_reducible assumption); case hq => rfl)
    | ((with_reducible apply Within.after (State.event_within _ _ _ _)); case hq => rfl)
    | split

theorem State.reroute_within (s : State) (n : Nat) (fs : List (Bool × Flit)) :
    Within [.hdrs, .dev, .mgmtW, .mgmtE, .links, .bundles, .freeCtr] s (State.reroute s n fs) := by
  unfold State.reroute
  repeat' first
    | (with_reducible exact Within.refl _ _)
    | ((with_reducible apply Within.after (State.sendOn_within ?hx)); (case hx => with_reducible assumption); case hq => rfl)
    | ((with_reducible apply Within.after (State.dropFlit_within _ _)); case hq => rfl)
    | (with_reducible apply Within.foldl)
    | (with_reducible apply Within.foldl_fst)
    | intro _
    | split

theorem State.linkLost_within (s : State) (n : Nat) :
    Within [.hdrs, .dev, .mgmtW, .mgmtE, .links, .bundles, .freeCtr] s (State.linkLost s n) := by
  unfold State.linkLost
  repeat' first
    | (with_reducible exact Within.refl _ _)
    | ((with_reducible apply Within.after (State.setLink_within _ _ _)); case hq => rfl)
    | ((with_reducible apply Within.after (State.setBundle_within _ _ _)); case hq => rfl)
    | ((with_reducible apply Within.after (State.reroute_within _ _ _)); case hq => rfl)
    | ((with_reducible apply Within.after (State.pump_within _ _)); case hq => rfl)

theorem Within.heard {ps : List Part} {s t : State} {n : Nat} {k : State → State} (hk : ∀ u, Within ps u (k u))
    (hq : (([.hdrs] : List Part).all fun q => ps.contains q) = true) (h : Within ps s t) : Within ps s (t.heard n k) := by
  unfold State.heard
  repeat' first
    | with_reducible exact h
    | (with_reducible exact Within.refl _ _)
    | split
    | ((with_reducible refine Within.trans (t := _) ?_ (hk _)))
    | ((with_reducible apply Within.after (State.event_within _ _ _ _)); case hq => simp_all)

theorem State.receive_within (s : State) (n : Nat) (f : Flit) :
    Within [.hdrs, .links, .bundles] s (State.receive s n f).1 := by
  unfold State.receive
  repeat' first
    | (with_reducible exact Within.refl _ _)
    | ((with_reducible apply Within.after (State.event_within _ _ _ _)); case hq => rfl)
    | ((with_reducible apply Within.after (State.setLink_within _ _ _)); case hq => rfl)
    | ((with_reducible apply Within.after (State.wirePut_within _ _ _)); case hq => rfl)
    | ((with_reducible apply Within.after (State.setBundle_within _ _ _)); case hq => rfl)
    | intro _
    | split
    | dsimp only

end Sys2Proof.Laws
end

