-- ==== Sys2Proof/Laws/FramesTransfers.lean ====
section
/-! SUPPORT. What each operation of Machine/Transfers.lean may change: every part that is not listed stays. -/

namespace Sys2Proof.Laws

open Sys2Proof Sys2Proof.Machine

theorem State.modTransfer_within (s : State) (xid : Word64) (f : Transfer → Transfer) :
    Within [.dev] s (State.modTransfer s xid f) := by
  unfold State.modTransfer
  repeat' first
    | (with_reducible exact Within.refl _ _)
    | intro _
    | split
    | ((with_reducible apply Within.set_dev); (case hp => rfl); case hx => exact fun h => ⟨h.hops, h.tries, h.throt, h.pwr, h.pwrNew, h.cool⟩)

theorem State.flushDone_within (s : State) (e n : Nat) :
    Within [.dev, .streams] s (State.flushDone s e n) := by
  unfold State.flushDone
  repeat' first
    | (with_reducible exact Within.refl _ _)
    | ((with_reducible apply Within.after (State.slotDone_within _ _ _)); case hq => rfl)
    | ((with_reducible apply Within.after (State.setSlotOf_within _ _ _ _)); case hq => rfl)
    | intro _
    | ((with_reducible apply Within.set_dev); (case hp => rfl); case hx => exact fun h => ⟨h.hops, h.tries, h.throt, h.pwr, h.pwrNew, h.cool⟩)

theorem State.endTransfer_within (s : State) (t : Transfer) (c : Code) :
    Within [.dev, .galleries, .streams, .freeCtr] s (State.endTransfer s t c) := by
  unfold State.endTransfer
  repeat' first
    | (with_reducible exact Within.refl _ _)
    | ((with_reducible apply Within.after (State.flushDone_within _ _ _)); case hq => rfl)
    | ((with_reducible apply Within.after (State.modTransfer_within _ _ _)); case hq => rfl)
    | ((with_reducible apply Within.after (State.slotFail_within _ _ _ _ _ _)); case hq => rfl)
    | intro _
    | split

theorem State.takeCompl_within (s : State) (xid : Word64) (status : Nat) :
    Within [.dev, .galleries, .streams, .freeCtr] s (State.takeCompl s xid status) := by
  unfold State.takeCompl
  repeat' first
    | (with_reducible exact Within.refl _ _)
    | ((with_reducible apply Within.after (State.endTransfer_within _ _ _)); case hq => rfl)
    | split

theorem State.peerLost_within (s : State) (t : Transfer) :
    Within [.dev, .mgmtW, .mgmtE, .galleries, .streams, .freeCtr] s (State.peerLost s t) := by
  unfold State.peerLost
  repeat' first
    | (with_reducible exact Within.refl _ _)
    | ((with_reducible apply Within.after (State.freeErr_within _ _ _)); case hq => rfl)
    | ((with_reducible apply Within.after (State.endTransfer_within _ _ _)); case hq => rfl)

theorem State.writeEach_within (s : State) (l : List (Nat × Nat × Nat)) (bs : Bytes) :
    Within [.mem, .ue, .hdrs, .flows, .hbmcs, .helpers] s (State.writeEach s l bs) := by
  induction l generalizing s bs with
  | nil => exact Within.refl _ _
  | cons a l ih =>
    obtain ⟨va, d, m⟩ := a
    unfold State.writeEach
    repeat' first
      | (with_reducible exact Within.refl _ _)
      | ((with_reducible apply Within.after (ih _ _)); case hq => rfl)
      | ((with_reducible apply Within.after (State.devWrite_within _ _ _ _)); case hq => rfl)

theorem State.windowWrite_within (s : State) (win src srcTenant off : Nat) (data : Bytes) :
    Within [.mem, .ue, .hdrs, .flows, .hbmcs, .galleries, .helpers] s (State.windowWrite s win src srcTenant off data).1 := by
  unfold State.windowWrite
  repeat' first
    | (with_reducible exact Within.refl _ _)
    | ((with_reducible apply Within.after (State.xlateAll_within _ _ _ _ _ _)); case hq => rfl)
    | ((with_reducible apply Within.after (State.writeEach_within _ _ _)); case hq => rfl)
    | ((with_reducible apply Within.of_pair); with_reducible assumption)
    | split

theorem State.dedupBytes_within (s : State) (head : Bytes) :
    Within [.mem, .ue, .hdrs, .flows, .hbmcs, .helpers, .freeCtr] s (State.dedupBytes s head) := by
  unfold State.dedupBytes
  repeat' first
    | (with_reducible exact Within.refl _ _)
    | ((with_reducible apply Within.after (State.drawn_within _)); case hq => rfl)
    | ((with_reducible apply Within.after (State.devWrite_within _ _ _ _)); case hq => rfl)

theorem State.dedupPut_within (s : State) (d : Dedup) :
    Within [.mem, .ue, .hdrs, .dev, .flows, .hbmcs, .helpers, .freeCtr] s (State.dedupPut s d) := by
  unfold State.dedupPut
  repeat' first
    | (with_reducible exact Within.refl _ _)
    | ((with_reducible apply Within.after (State.dedupBytes_within _ _)); case hq => rfl)
    | intro _
    | ((with_reducible apply Within.set_dev); (case hp => rfl); case hx => exact fun h => ⟨h.hops, h.tries, h.throt, h.pwr, h.pwrNew, h.cool⟩)

theorem State.takeWrite_within (s : State) (p : Page) (src : Nat) (f : Flit) :
    Within [.mem, .ue, .hdrs, .dev, .mgmtW, .mgmtE, .flows, .hbmcs, .galleries, .helpers, .freeCtr] s (State.takeWrite s p src f) := by
  unfold State.takeWrite
  repeat' first
    | (with_reducible exact Within.refl _ _)
    | ((with_reducible apply Within.after (State.windowWrite_within _ _ _ _ _ _)); case hq => rfl)
    | ((with_reducible apply Within.after (State.freeErr_within _ _ _)); case hq => rfl)
    | ((with_reducible apply Within.of_pair); with_reducible assumption)
    | split
    | ((with_reducible apply Within.set_dev); (case hp => rfl); case hx => exact fun h => ⟨h.hops, h.tries, h.throt, h.pwr, h.pwrNew, h.cool⟩)

theorem State.sendOut_within (s : State) (f : Flit) :
    Within [.hdrs, .dev, .mgmtW, .mgmtE, .links, .bundles, .freeCtr] s (State.sendOut s f) := by
  unfold State.sendOut
  repeat' first
    | (with_reducible exact Within.refl _ _)
    | ((with_reducible apply Within.after (State.sendOn_within ?hx)); (case hx => with_reducible assumption); case hq => rfl)
    | ((with_reducible apply Within.after (State.freeErr_within _ _ _)); case hq => rfl)
    | split

theorem State.answerCompl_within (s : State) (dest : Nat) (xid : Word64) (c : Code) :
    Within [.hdrs, .dev, .mgmtW, .mgmtE, .links, .bundles, .galleries, .streams, .freeCtr] s (State.answerCompl s dest xid c) := by
  unfold State.answerCompl
  repeat' first
    | (with_reducible exact Within.refl _ _)
    | ((with_reducible apply Within.after (State.takeCompl_within _ _ _)); case hq => rfl)
    | ((with_reducible apply Within.after (State.sendOut_within _ _)); case hq => rfl)
    | split

theorem State.answerWait_within (s : State) (dest : Nat) (xid : Word64) :
    Within [.hdrs, .links, .bundles] s (State.answerWait s dest xid) := by
  unfold State.answerWait
  repeat' first
    | (with_reducible exact Within.refl _ _)
    | ((with_reducible apply Within.after (State.sendOn_within ?hx)); (case hx => with_reducible assumption); case hq => rfl)
    | split

theorem State.enterTok_within (s : State) (v : WaitTok) :
    Within [.mem, .ue, .hdrs, .dev, .mgmtW, .mgmtE, .links, .bundles, .flows, .hbmcs, .galleries, .helpers, .engines, .streams, .freeCtr] s (State.enterTok s v) := by
  unfold State.enterTok
  repeat' first
    | (with_reducible exact Within.refl _ _)
    | ((with_reducible apply Within.after (State.setEng_within _ _ _)); case hq => rfl)
    | ((with_reducible apply Within.after (State.dedupPut_within _ _)); case hq => rfl)
    | ((with_reducible apply Within.after (State.answerCompl_within _ _ _ _)); case hq => rfl)

theorem State.takeToken_within (s : State) (src : Nat) (f : Flit) :
    Within [.mem, .ue, .hdrs, .dev, .mgmtW, .mgmtE, .links, .bundles, .flows, .hbmcs, .galleries, .helpers, .engines, .streams, .freeCtr] s (State.takeToken s src f) := by
  unfold State.takeToken
  repeat' first
    | (with_reducible exact Within.refl _ _)
    | ((with_reducible apply Within.after (State.answerCompl_within _ _ _ _)); case hq => rfl)
    | ((with_reducible apply Within.after (State.dedupPut_within _ _)); case hq => rfl)
    | ((with_reducible apply Within.after (State.enterTok_within _ _)); case hq => rfl)
    | intro _
    | split
    | ((with_reducible apply Within.set_dev); (case hp => rfl); case hx => exact fun h => ⟨h.hops, h.tries, h.throt, h.pwr, h.pwrNew, h.cool⟩)

theorem State.takeRelease_within (s : State) (srcDev slot : Nat) :
    Within [.mem, .ue, .hdrs, .dev, .flows, .hbmcs, .helpers, .freeCtr] s (State.takeRelease s srcDev slot) := by
  unfold State.takeRelease
  repeat' first
    | (with_reducible exact Within.refl _ _)
    | ((with_reducible apply Within.after (State.dedupBytes_within _ _)); case hq => rfl)
    | (with_reducible apply Within.foldl)
    | (with_reducible apply Within.foldl_fst)
    | intro _
    | ((with_reducible apply Within.set_dev); (case hp => rfl); case hx => exact fun h => ⟨h.hops, h.tries, h.throt, h.pwr, h.pwrNew, h.cool⟩)

theorem State.consume_within (s : State) (p : Page) (f : Flit) :
    Within [.mem, .ue, .hdrs, .dev, .mgmtW, .mgmtE, .links, .bundles, .flows, .hbmcs, .galleries, .helpers, .engines, .streams, .freeCtr] s (State.consume s p f) := by
  unfold State.consume
  repeat' first
    | (with_reducible exact Within.refl _ _)
    | ((with_reducible apply Within.after (State.takeWrite_within _ _ _ _)); case hq => rfl)
    | ((with_reducible apply Within.after (State.takeToken_within _ _ _)); case hq => rfl)
    | ((with_reducible apply Within.after (State.takeCompl_within _ _ _)); case hq => rfl)
    | ((with_reducible apply Within.after (State.takeRelease_within _ _ _)); case hq => rfl)
    | split

theorem State.deliver_within (s : State) (n : Nat) (f : Flit) :
    Within [.mem, .ue, .hdrs, .dev, .mgmtW, .mgmtE, .links, .bundles, .flows, .hbmcs, .galleries, .helpers, .engines, .streams, .freeCtr] s (State.deliver s n f) := by
  unfold State.deliver
  repeat' first
    | (with_reducible exact Within.refl _ _)
    | ((with_reducible apply Within.after (State.consume_within _ _ _)); case hq => rfl)
    | ((with_reducible apply Within.after (State.event_within _ _ _ _)); case hq => rfl)
    | ((with_reducible apply Within.after (State.forward_within _ _ _)); case hq => rfl)
    | split

theorem State.arrive_within (s : State) (n : Nat) (f : Flit) :
    Within [.mem, .ue, .hdrs, .dev, .mgmtW, .mgmtE, .links, .bundles, .flows, .hbmcs, .galleries, .helpers, .engines, .streams, .freeCtr] s (State.arrive s n f) := by
  unfold State.arrive
  repeat' first
    | (with_reducible exact Within.refl _ _)
    | ((with_reducible apply Within.after (State.receive_within _ _ _)); case hq => rfl)
    | ((with_reducible apply Within.after (State.deliver_within _ _ _)); case hq => rfl)
    | (with_reducible apply Within.foldl)
    | (with_reducible apply Within.foldl_fst)
    | intro _

theorem State.originate_within (s : State) (f : Flit) :
    Within [.mem, .ue, .hdrs, .dev, .mgmtW, .mgmtE, .links, .bundles, .flows, .hbmcs, .galleries, .helpers, .engines, .streams, .freeCtr] s (State.originate s f) := by
  unfold State.originate
  repeat' first
    | (with_reducible exact Within.refl _ _)
    | ((with_reducible apply Within.after (State.consume_within _ _ _)); case hq => rfl)
    | ((with_reducible apply Within.after (State.sendOn_within ?hx)); (case hx => with_reducible assumption); case hq => rfl)
    | split
    | dsimp only

end Sys2Proof.Laws
end

