-- ==== Sys2Proof/Laws/FramesLinks.lean ====
section
/-! SUPPORT. What each operation of Machine/Links.lean may change: every part that is not listed stays. -/

namespace Sys2Proof.Laws

open Sys2Proof Sys2Proof.Machine

theorem State.train_within (s : State) (n : Nat) (cause : Option Nat) :
    Within [.links, .freeCtr] s (State.train s n cause) := by
  unfold State.train
  repeat' first
    | (with_reducible exact Within.refl _ _)
    | ((with_reducible apply Within.after (State.drawn_within _)); case hq => rfl)
    | ((with_reducible apply Within.after (State.setLink_within _ _ _)); case hq => rfl)
    | (with_reducible apply Within.getD)
    | split

theorem State.linkStop_within (s : State) (n : Nat) (st : LinkState) (cause : Nat) :
    Within [.hdrs, .dev, .mgmtW, .mgmtE, .links, .bundles, .msix, .freeCtr] s (State.linkStop s n st cause) := by
  unfold State.linkStop
  repeat' first
    | (with_reducible exact Within.refl _ _)
    | ((with_reducible apply Within.after (State.setLink_within _ _ _)); case hq => rfl)
    | ((with_reducible apply Within.after (State.linkLost_within _ _)); case hq => rfl)
    | ((with_reducible apply Within.after (State.raise_within _ _ _)); case hq => rfl)
    | ((with_reducible apply Within.after (State.drawn_within _)); case hq => rfl)
    | ((with_reducible apply Within.after (State.logErr_within _ _)); case hq => rfl)
    | split

theorem State.geodeDraw_within (s : State) (len : Nat) :
    Within [.geode] s (State.geodeDraw s len).1 := by
  unfold State.geodeDraw
  repeat' first
    | (with_reducible exact Within.refl _ _)
    | ((with_reducible apply Within.set_geode); case hp => rfl)

theorem State.sendNonce_within (s : State) (n : Nat) :
    Within [.hdrs, .geode, .links] s (State.sendNonce s n) := by
  unfold State.sendNonce
  repeat' first
    | (with_reducible exact Within.refl _ _)
    | ((with_reducible apply Within.after (State.geodeDraw_within _ _)); case hq => rfl)
    | ((with_reducible apply Within.after (State.setLink_within _ _ _)); case hq => rfl)
    | ((with_reducible apply Within.after (State.wirePut_within _ _ _)); case hq => rfl)

theorem State.rolePut_within (s : State) (n role : Nat) :
    Within [.hdrs, .dev, .mgmtW, .mgmtE, .links, .bundles, .msix, .freeCtr] s (State.rolePut s n role) := by
  unfold State.rolePut
  repeat' first
    | (with_reducible exact Within.refl _ _)
    | ((with_reducible apply Within.after (State.setLink_within _ _ _)); case hq => rfl)
    | ((with_reducible apply Within.after (State.drawn_within _)); case hq => rfl)
    | ((with_reducible apply Within.after (State.linkLost_within _ _)); case hq => rfl)
    | ((with_reducible apply Within.after (State.refuse_within _ _ _)); case hq => rfl)
    | ((with_reducible apply Within.after (State.pump_within _ _)); case hq => rfl)
    | split
    | dsimp only

theorem State.linkCtlPut_within (s : State) (n v : Nat) :
    Within [.hdrs, .dev, .mgmtW, .mgmtE, .links, .bundles, .msix, .freeCtr] s (State.linkCtlPut s n v) := by
  unfold State.linkCtlPut
  repeat' first
    | (with_reducible exact Within.refl _ _)
    | ((with_reducible apply Within.after (State.refuse_within _ _ _)); case hq => rfl)
    | ((with_reducible apply Within.after (State.setLink_within _ _ _)); case hq => rfl)
    | ((with_reducible apply Within.after (State.rolePut_within _ _ _)); case hq => rfl)
    | ((with_reducible apply Within.after (State.train_within _ _ _)); case hq => rfl)
    | ((with_reducible apply Within.after (State.linkStop_within _ _ _ _)); case hq => rfl)
    | split
    | dsimp only

theorem State.linkCtlWrite_within (s : State) (n v : Nat) :
    Within [.hdrs, .dev, .mgmtW, .mgmtE, .links, .bundles, .msix, .freeCtr] s (State.linkCtlWrite s n v) := by
  unfold State.linkCtlWrite
  repeat' first
    | (with_reducible exact Within.refl _ _)
    | ((with_reducible apply Within.gate); case hq => rfl)
    | ((with_reducible apply Within.after (State.linkCtlPut_within _ _ _)); case hq => rfl)
    | intro _

theorem State.identSign_within (s : State) (digest : Bytes) :
    Within [.geode] s (State.identSign s digest).1 := by
  unfold State.identSign
  repeat' first
    | (with_reducible exact Within.refl _ _)
    | ((with_reducible apply Within.set_geode); case hp => rfl)

theorem State.identBlock_within (s : State) (n : Nat) :
    Within [.geode] s (State.identBlock s n).1 := by
  unfold State.identBlock
  repeat' first
    | (with_reducible exact Within.refl _ _)
    | ((with_reducible apply Within.after (State.identSign_within _ _)); case hq => rfl)

theorem State.identTaken_within (s : State) (n : Nat) (b : Bytes) (pver : Nat) :
    Within [.mem, .ue, .hdrs, .dev, .mgmtW, .mgmtE, .links, .bundles, .flows, .hbmcs, .helpers, .msix, .freeCtr] s (State.identTaken s n b pver) := by
  unfold State.identTaken
  repeat' first
    | (with_reducible exact Within.refl _ _)
    | ((with_reducible apply Within.after (State.devWrite_within _ _ _ _)); case hq => rfl)
    | ((with_reducible apply Within.after (State.raise_within _ _ _)); case hq => rfl)
    | ((with_reducible apply Within.after (State.setLink_within _ _ _)); case hq => rfl)
    | ((with_reducible apply Within.after (State.linkStop_within _ _ _ _)); case hq => rfl)
    | ((with_reducible apply Within.after (State.event_within _ _ _ _)); case hq => rfl)
    | ((with_reducible apply Within.after (State.pump_within _ _)); case hq => rfl)
    | ((with_reducible apply Within.after (State.wirePut_within _ _ _)); case hq => rfl)
    | ((with_reducible apply Within.after (State.drawn_within _)); case hq => rfl)
    | ((with_reducible apply Within.after (State.linkLost_within _ _)); case hq => rfl)
    | (with_reducible apply Within.foldl)
    | (with_reducible apply Within.foldl_fst)
    | ((with_reducible apply Within.of_pair); with_reducible assumption)
    | intro _
    | split
    | dsimp only

theorem State.routeSetPut_within (s : State) (v : Nat) :
    Within [.mem, .ue, .hdrs, .dev, .flows, .hbmcs, .msix, .freeCtr] s (State.routeSetPut s v) := by
  unfold State.routeSetPut
  repeat' first
    | (with_reducible exact Within.refl _ _)
    | ((with_reducible apply Within.after (State.refuse_within _ _ _)); case hq => rfl)
    | ((with_reducible apply Within.after (State.devRead_within _ _ _ _)); case hq => rfl)
    | ((with_reducible apply Within.of_pair); with_reducible assumption)
    | split
    | ((with_reducible apply Within.set_dev); (case hp => rfl); case hx => exact fun h => ⟨h.hops, h.tries, h.throt, h.pwr, h.pwrNew, h.cool⟩)

theorem State.devIdPut_within (s : State) (v : Word32) :
    Within [.hdrs, .dev, .msix, .freeCtr] s (State.devIdPut s v) := by
  unfold State.devIdPut
  repeat' first
    | (with_reducible exact Within.refl _ _)
    | ((with_reducible apply Within.after (State.refuse_within _ _ _)); case hq => rfl)
    | intro _
    | split
    | ((with_reducible apply Within.set_dev); (case hp => rfl); case hx => exact fun h => ⟨h.hops, h.tries, h.throt, h.pwr, h.pwrNew, h.cool⟩)

end Sys2Proof.Laws
end

