-- ==== Sys2Proof/Laws/FramesRings.lean ====
section
/-! SUPPORT. What each operation of Machine/Rings.lean may change: every part that is not listed stays. -/

namespace Sys2Proof.Laws

open Sys2Proof Sys2Proof.Machine

theorem State.setFault_within (s : State) (ep : Nat) (v : Word64) :
    Within [.msgs] s (State.setFault s ep v) := by
  unfold State.setFault
  repeat' first
    | (with_reducible exact Within.refl _ _)
    | ((with_reducible apply Within.after (State.setMsg_within _ _ _)); case hq => rfl)

theorem State.stopRing_within (s : State) (ep q : Nat) :
    Within [.msgs, .freeCtr] s (State.stopRing s ep q) := by
  unfold State.stopRing
  repeat' first
    | (with_reducible exact Within.refl _ _)
    | ((with_reducible apply Within.after (State.drawn_within _)); case hq => rfl)
    | ((with_reducible apply Within.after (State.setMsg_within _ _ _)); case hq => rfl)

theorem Within.ringsSeen {ps : List Part} {s t : State} {old : State} {g : Nat}
    (hq : (([.msgs, .freeCtr] : List Part).all fun q => ps.contains q) = true) (h : Within ps s t) : Within ps s (t.ringsSeen old g) := by
  unfold State.ringsSeen
  refine Within.foldl (fun u k => ?_) h
  dsimp only
  repeat' first
    | (with_reducible exact Within.refl _ _)
    | ((with_reducible apply Within.after (State.stopRing_within _ _ _)); case hq => simp_all)
    | split

end Sys2Proof.Laws
end

