-- ==== Sys2Proof/Laws/FramesStreamMove.lean ====
section
/-! SUPPORT. What each operation of Machine/StreamMove.lean may change: every part that is not listed stays. -/

namespace Sys2Proof.Laws

open Sys2Proof Sys2Proof.Machine

theorem State.resolve_within (s : State) (e : Nat) (p : Place) (lo hi : ℤ) :
    Within [.mem, .ue, .hdrs, .flows, .hbmcs, .galleries] s (State.resolve s e p lo hi).1 := by
  unfold State.resolve
  repeat' first
    | (with_reducible exact Within.refl _ _)
    | ((with_reducible apply Within.after (State.argSlot_within _ _ _)); case hq => rfl)
    | ((with_reducible apply Within.of_pair); with_reducible assumption)
    | split
    | dsimp only

theorem State.tgtRead_within (s : State) (e : Nat) (t : Target) (hint off n : Nat) :
    Within [.mem, .ue, .hdrs, .flows, .hbmcs, .galleries] s (State.tgtRead s e t hint off n).1 := by
  unfold State.tgtRead
  repeat' first
    | (with_reducible exact Within.refl _ _)
    | ((with_reducible apply Within.after (State.devRead_within _ _ _ _)); case hq => rfl)
    | ((with_reducible apply Within.after (State.vRead_within _ _ _ _ _ _)); case hq => rfl)
    | ((with_reducible apply Within.of_pair); with_reducible assumption)
    | split

theorem State.tgtWrite_within (s : State) (e : Nat) (t : Target) (hint off unit : Nat) (bs : Bytes) :
    Within [.mem, .ue, .hdrs, .flows, .hbmcs, .galleries, .helpers, .engines, .outs] s (State.tgtWrite s e t hint off unit bs).1 := by
  unfold State.tgtWrite
  repeat' first
    | (with_reducible exact Within.refl _ _)
    | ((with_reducible apply Within.after (State.setEng_within _ _ _)); case hq => rfl)
    | ((with_reducible apply Within.after (State.dpaWrite_within _ _ _ _ _ _)); case hq => rfl)
    | ((with_reducible apply Within.after (State.vaWrite_within _ _ _ _ _ _)); case hq => rfl)
    | ((with_reducible apply Within.of_pair); with_reducible assumption)
    | split

theorem State.moveCheck_within (s : State) (e : Nat) (x : Slot) :
    Within [.mem, .ue, .hdrs, .flows, .hbmcs, .galleries] s (State.moveCheck s e x).1 := by
  unfold State.moveCheck
  repeat' first
    | (with_reducible exact Within.refl _ _)
    | ((with_reducible apply Within.after (State.resolve_within _ _ _ _ _)); case hq => rfl)
    | ((with_reducible apply Within.of_pair); with_reducible assumption)
    | intro _
    | split
    | dsimp only

theorem State.reqEvents_within (s : State) (e ev : Nat) (t : Target) (r : Nat × Nat × Nat) :
    Within [.hdrs] s (State.reqEvents s e ev t r) := by
  unfold State.reqEvents
  repeat' first
    | (with_reducible exact Within.refl _ _)
    | ((with_reducible apply Within.after (State.units_within _ _ _ _ _)); case hq => rfl)
    | ((with_reducible apply Within.after (State.event_within _ _ _ _)); case hq => rfl)
    | split

theorem State.readReqs_within (s : State) (e : Nat) (t : Target) (hint : Nat) (l : List (Nat × Nat × Nat)) :
    Within [.mem, .ue, .hdrs, .flows, .hbmcs, .galleries] s (State.readReqs s e t hint l).1 := by
  induction l generalizing s with
  | nil => exact Within.refl _ _
  | cons a l ih =>
    unfold State.readReqs
    repeat' first
      | (with_reducible exact Within.refl _ _)
      | ((with_reducible apply Within.after (ih _)); case hq => rfl)
      | ((with_reducible apply Within.of_pair); with_reducible assumption)
      | ((with_reducible apply Within.after (State.reqEvents_within _ _ _ _ _)); case hq => rfl)
      | ((with_reducible apply Within.after (State.tgtRead_within _ _ _ _ _ _)); case hq => rfl)
      | split

theorem State.writeReqs_within (s : State) (e : Nat) (t : Target) (hint es : Nat) (l : List (Nat × Nat × Nat)) (bs : Bytes) :
    Within [.mem, .ue, .hdrs, .flows, .hbmcs, .galleries, .helpers, .engines, .outs] s (State.writeReqs s e t hint es l bs).1 := by
  induction l generalizing s bs with
  | nil => exact Within.refl _ _
  | cons a l ih =>
    unfold State.writeReqs
    repeat' first
      | (with_reducible exact Within.refl _ _)
      | ((with_reducible apply Within.after (ih _ _)); case hq => rfl)
      | ((with_reducible apply Within.of_pair); with_reducible assumption)
      | ((with_reducible apply Within.after (State.reqEvents_within _ _ _ _ _)); case hq => rfl)
      | ((with_reducible apply Within.after (State.tgtWrite_within _ _ _ _ _ _ _)); case hq => rfl)
      | split
      | dsimp only

theorem State.openTransfer_within (s : State) (e n dest : Nat) :
    Within [.dev, .streams] s (State.openTransfer s e n dest) := by
  unfold State.openTransfer
  repeat' first
    | (with_reducible exact Within.refl _ _)
    | ((with_reducible apply Within.after (State.setSlotOf_within _ _ _ _)); case hq => rfl)
    | ((with_reducible apply Within.set_dev); (case hp => rfl); case hx => exact fun h => ⟨h.hops, h.tries, h.throt, h.pwr, h.pwrNew, h.cool⟩)

theorem State.addFlit_within (s : State) (xid : Word64) (f : Flit) :
    Within [.mem, .ue, .hdrs, .dev, .mgmtW, .mgmtE, .links, .bundles, .flows, .hbmcs, .galleries, .helpers, .engines, .streams, .freeCtr] s (State.addFlit s xid f) := by
  unfold State.addFlit
  repeat' first
    | (with_reducible exact Within.refl _ _)
    | ((with_reducible apply Within.after (State.originate_within _ _)); case hq => rfl)
    | ((with_reducible apply Within.after (State.modTransfer_within _ _ _)); case hq => rfl)

theorem State.sendData_within (s : State) (e n dest win off : Nat) (runs : List (Nat × Nat)) (bs : Bytes) :
    Within [.mem, .ue, .hdrs, .dev, .mgmtW, .mgmtE, .links, .bundles, .flows, .hbmcs, .galleries, .helpers, .engines, .streams, .freeCtr] s (State.sendData s e n dest win off runs bs) := by
  unfold State.sendData
  repeat' first
    | (with_reducible exact Within.refl _ _)
    | ((with_reducible apply Within.after (State.openTransfer_within _ _ _ _)); case hq => rfl)
    | ((with_reducible apply Within.after (State.addFlit_within _ _ _)); case hq => rfl)
    | (with_reducible apply Within.foldl)
    | (with_reducible apply Within.foldl_fst)
    | intro _
    | split
    | dsimp only

theorem State.closeTransfer_within (s : State) (e n dest win : Nat) (ws : List Nat) (poison : Bool) :
    Within [.mem, .ue, .hdrs, .dev, .mgmtW, .mgmtE, .links, .bundles, .flows, .hbmcs, .galleries, .helpers, .engines, .streams, .freeCtr] s (State.closeTransfer s e n dest win ws poison) := by
  unfold State.closeTransfer
  repeat' first
    | (with_reducible exact Within.refl _ _)
    | ((with_reducible apply Within.after (State.openTransfer_within _ _ _ _)); case hq => rfl)
    | ((with_reducible apply Within.after (State.modTransfer_within _ _ _)); case hq => rfl)
    | ((with_reducible apply Within.after (State.addFlit_within _ _ _)); case hq => rfl)
    | ((with_reducible apply Within.after (State.peerLost_within _ _)); case hq => rfl)
    | (with_reducible apply Within.foldl)
    | (with_reducible apply Within.foldl_fst)
    | intro _
    | split
    | ((with_reducible apply Within.set_dev); (case hp => rfl); case hx => exact fun h => ⟨h.hops, h.tries, h.throt, h.pwr, h.pwrNew, h.cool⟩)

theorem State.emitToks_within (s : State) (e n : Nat) (ws : List Nat) (poison : Bool) :
    Within [.mem, .ue, .hdrs, .dev, .mgmtW, .mgmtE, .links, .bundles, .flows, .hbmcs, .galleries, .helpers, .engines, .streams, .freeCtr] s (State.emitToks s e n ws poison) := by
  unfold State.emitToks
  repeat' first
    | (with_reducible exact Within.refl _ _)
    | ((with_reducible apply Within.after (State.closeTransfer_within _ _ _ _ _ _ _)); case hq => rfl)
    | ((with_reducible apply Within.after (State.setSlotOf_within _ _ _ _)); case hq => rfl)
    | split
    | dsimp only

theorem State.moveNext_within (s : State) (e n t1 : Nat) :
    Within [.mem, .ue, .hdrs, .dev, .mgmtW, .mgmtE, .links, .bundles, .flows, .hbmcs, .galleries, .helpers, .engines, .streams, .freeCtr] s (State.moveNext s e n t1) := by
  unfold State.moveNext
  repeat' first
    | (with_reducible exact Within.refl _ _)
    | ((with_reducible apply Within.after (State.setSlotOf_within _ _ _ _)); case hq => rfl)
    | ((with_reducible apply Within.after (State.emitToks_within _ _ _ _ _)); case hq => rfl)
    | ((with_reducible apply Within.after (State.slotDone_within _ _ _)); case hq => rfl)
    | split
    | dsimp only

theorem State.moveIter_within (s : State) (e n : Nat) (a b : Target) (t o : Nat) :
    Within [.mem, .ue, .hdrs, .flows, .hbmcs, .galleries, .helpers, .engines, .freeCtr, .outs] s (State.moveIter s e n a b t o).1 := by
  unfold State.moveIter
  repeat' first
    | (with_reducible exact Within.refl _ _)
    | ((with_reducible apply Within.after (State.readReqs_within _ _ _ _ _)); case hq => rfl)
    | ((with_reducible apply Within.after (State.writeReqs_within _ _ _ _ _ _ _)); case hq => rfl)
    | ((with_reducible apply Within.after (State.drawn_within _)); case hq => rfl)
    | ((with_reducible apply Within.of_pair); with_reducible assumption)
    | split
    | dsimp only

theorem State.moveIters_within (s : State) (e n : Nat) (a b : Target) (l : List (Nat × Nat)) :
    Within [.mem, .ue, .hdrs, .flows, .hbmcs, .galleries, .helpers, .engines, .freeCtr, .outs] s (State.moveIters s e n a b l).1 := by
  induction l generalizing s with
  | nil => exact Within.refl _ _
  | cons a l ih =>
    unfold State.moveIters
    repeat' first
      | (with_reducible exact Within.refl _ _)
      | ((with_reducible apply Within.after (ih _)); case hq => rfl)
      | ((with_reducible apply Within.of_pair); with_reducible assumption)
      | ((with_reducible apply Within.after (State.moveIter_within _ _ _ _ _ _ _)); case hq => rfl)
      | split

theorem State.mergeEvents_within (s : State) (e : Nat) (t : Target) (runs : List (Nat × Nat)) :
    Within [.hdrs] s (State.mergeEvents s e t runs) := by
  unfold State.mergeEvents
  repeat' first
    | (with_reducible exact Within.refl _ _)
    | ((with_reducible apply Within.after (State.event_within _ _ _ _)); case hq => rfl)
    | (with_reducible apply Within.foldl)
    | (with_reducible apply Within.foldl_fst)
    | intro _
    | split

theorem State.moveData_within (s : State) (e n : Nat) (a b : Target) (t0 o t1 : Nat) :
    Within [.mem, .ue, .hdrs, .dev, .mgmtW, .mgmtE, .links, .bundles, .flows, .hbmcs, .galleries, .helpers, .engines, .streams, .freeCtr, .outs] s (State.moveData s e n a b t0 o t1).1 := by
  unfold State.moveData
  repeat' first
    | (with_reducible exact Within.refl _ _)
    | ((with_reducible apply Within.after (State.moveIters_within _ _ _ _ _ _)); case hq => rfl)
    | ((with_reducible apply Within.after (State.mergeEvents_within _ _ _ _)); case hq => rfl)
    | ((with_reducible apply Within.after (State.readReqs_within _ _ _ _ _)); case hq => rfl)
    | ((with_reducible apply Within.after (State.sendData_within _ _ _ _ _ _ _ _)); case hq => rfl)
    | ((with_reducible apply Within.after (State.writeReqs_within _ _ _ _ _ _ _)); case hq => rfl)
    | ((with_reducible apply Within.of_pair); with_reducible assumption)
    | intro _
    | split
    | dsimp only

theorem State.readAhead_within (s : State) (e n : Nat) (a : Target) (t0 o t1 k : Nat) (stopped : Bool) :
    Within [.mem, .ue, .hdrs, .flows, .hbmcs, .galleries, .freeCtr] s (State.readAhead s e n a t0 o t1 k stopped) := by
  unfold State.readAhead
  repeat' first
    | (with_reducible exact Within.refl _ _)
    | ((with_reducible apply Within.after (State.event_within _ _ _ _)); case hq => rfl)
    | ((with_reducible apply Within.after (State.drawn_within _)); case hq => rfl)
    | ((with_reducible apply Within.after (State.tgtRead_within _ _ _ _ _ _)); case hq => rfl)
    | (with_reducible apply Within.foldl)
    | (with_reducible apply Within.foldl_fst)
    | ((with_reducible apply Within.of_pair); with_reducible assumption)
    | intro _
    | split

theorem State.moveGo_within (s : State) (e n : Nat) (p : Pos) :
    Within [.mem, .ue, .hdrs, .dev, .mgmtW, .mgmtE, .links, .bundles, .flows, .hbmcs, .galleries, .helpers, .engines, .streams, .msix, .freeCtr, .outs] s (State.moveGo s e n p) := by
  unfold State.moveGo
  repeat' first
    | (with_reducible exact Within.refl _ _)
    | ((with_reducible apply Within.after (State.moveData_within _ _ _ _ _ _ _ _)); case hq => rfl)
    | ((with_reducible apply Within.after (State.moveNext_within _ _ _ _)); case hq => rfl)
    | ((with_reducible apply Within.after (State.readAhead_within _ _ _ _ _ _ _ _ _)); case hq => rfl)
    | ((with_reducible apply Within.after (State.setSlotOf_within _ _ _ _)); case hq => rfl)
    | ((with_reducible apply Within.after (State.haltEnt_within _ _ _ _ _ _)); case hq => rfl)
    | ((with_reducible apply Within.after (State.slotFail_within _ _ _ _ _ _)); case hq => rfl)
    | ((with_reducible apply Within.of_pair); with_reducible assumption)
    | split
    | dsimp only

theorem State.sqzFail_within (s : State) (e n : Nat) (c : Code) (va : Nat) :
    Within [.galleries, .streams, .freeCtr] s (State.sqzFail s e n c va) := by
  unfold State.sqzFail
  repeat' first
    | (with_reducible exact Within.refl _ _)
    | ((with_reducible apply Within.after (State.slotFail_within _ _ _ _ _ _)); case hq => rfl)
    | ((with_reducible apply Within.after (State.slotDone_within _ _ _)); case hq => rfl)
    | ((with_reducible apply Within.after (State.setSlotOf_within _ _ _ _)); case hq => rfl)

theorem State.sqzHalt_within (s : State) (e n per k : Nat) (write : Bool) (va : Nat) :
    Within [.hdrs, .streams, .msix] s (State.sqzHalt s e n per k write va) := by
  unfold State.sqzHalt
  repeat' first
    | (with_reducible exact Within.refl _ _)
    | ((with_reducible apply Within.after (State.setSlotOf_within _ _ _ _)); case hq => rfl)
    | ((with_reducible apply Within.after (State.haltEnt_within _ _ _ _ _ _)); case hq => rfl)
    | split
    | dsimp only

theorem State.sqzDone_within (s : State) (e n : Nat) :
    Within [.streams] s (State.sqzDone s e n) := by
  unfold State.sqzDone
  repeat' first
    | (with_reducible exact Within.refl _ _)
    | ((with_reducible apply Within.after (State.slotDone_within _ _ _)); case hq => rfl)
    | ((with_reducible apply Within.after (State.setSlotOf_within _ _ _ _)); case hq => rfl)

theorem State.sqzGo_within (s : State) (e : Nat) (m : SqzMap) (a b : Target) (r k : Nat) :
    Within [.mem, .ue, .hdrs, .flows, .hbmcs, .galleries, .helpers, .engines, .outs] s (State.sqzGo s e m a b r k).1 := by
  induction r generalizing s k with
  | zero => exact Within.refl _ _
  | succ r ih =>
    unfold State.sqzGo
    repeat' first
      | (with_reducible exact Within.refl _ _)
      | ((with_reducible apply Within.after (ih _ _)); case hq => rfl)
      | ((with_reducible apply Within.of_pair); with_reducible assumption)
      | ((with_reducible apply Within.after (State.units_within _ _ _ _ _)); case hq => rfl)
      | ((with_reducible apply Within.after (State.tgtRead_within _ _ _ _ _ _)); case hq => rfl)
      | ((with_reducible apply Within.after (State.tgtWrite_within _ _ _ _ _ _ _)); case hq => rfl)
      | intro _
      | split
      | dsimp only

theorem Within.sqzRun {ps : List Part} {s t : State} {e n per k : Nat} {m : SqzMap} {a b : Target} {fin : State → State} (hk : ∀ u, Within ps u (fin u))
    (hq : (([.mem, .ue, .hdrs, .flows, .hbmcs, .galleries, .helpers, .engines, .streams, .msix, .freeCtr, .outs] : List Part).all fun q => ps.contains q) = true) (h : Within ps s t) : Within ps s (t.sqzRun e n per k m a b fin) := by
  unfold State.sqzRun
  repeat' first
    | with_reducible exact h
    | (with_reducible exact Within.refl _ _)
    | ((with_reducible apply Within.after (State.sqzHalt_within _ _ _ _ _ _ _)); case hq => simp_all)
    | ((with_reducible apply Within.after (State.sqzFail_within _ _ _ _ _)); case hq => simp_all)
    | ((with_reducible refine Within.trans (t := _) ?_ (hk _)))
    | ((with_reducible apply Within.after (State.drawn_within _)); case hq => simp_all)
    | ((with_reducible apply Within.after (State.sqzGo_within _ _ _ _ _ _ _)); case hq => simp_all)
    | ((with_reducible apply Within.of_pair); with_reducible assumption)
    | split

theorem State.sqzConvert_within (s : State) (e n : Nat) :
    Within [.mem, .ue, .hdrs, .flows, .hbmcs, .galleries, .helpers, .streams, .freeCtr, .outs] s (State.sqzConvert s e n).1 := by
  unfold State.sqzConvert
  repeat' first
    | (with_reducible exact Within.refl _ _)
    | ((with_reducible apply Within.after (State.readDesc_within _ _ _ _)); case hq => rfl)
    | ((with_reducible apply Within.after (State.sqzFail_within _ _ _ _ _)); case hq => rfl)
    | ((with_reducible apply Within.after (State.poisonOut_within _ _ _)); case hq => rfl)
    | ((with_reducible apply Within.after (State.argSlot_within _ _ _)); case hq => rfl)
    | ((with_reducible apply Within.of_pair); with_reducible assumption)
    | intro _
    | split
    | dsimp only

theorem State.sqzBody_within (s : State) (e n k : Nat) (a : Target) (d : Desc) (b : Target) :
    Within [.mem, .ue, .hdrs, .flows, .hbmcs, .galleries, .helpers, .engines, .streams, .msix, .freeCtr, .outs] s (State.sqzBody s e n k a d b) := by
  unfold State.sqzBody
  repeat' first
    | (with_reducible exact Within.refl _ _)
    | ((with_reducible apply Within.sqzRun); case hq => rfl)
    | ((with_reducible apply Within.after (State.descAt_within _ _ _ _)); case hq => rfl)
    | ((with_reducible apply Within.after (State.sqzFail_within _ _ _ _ _)); case hq => rfl)
    | ((with_reducible apply Within.after (State.sqzDone_within _ _ _)); case hq => rfl)
    | ((with_reducible apply Within.of_pair); with_reducible assumption)
    | intro _
    | split

theorem State.sqzTrans_within (s : State) (e n : Nat) :
    Within [.mem, .ue, .hdrs, .flows, .hbmcs, .galleries, .streams, .freeCtr] s (State.sqzTrans s e n).1 := by
  unfold State.sqzTrans
  repeat' first
    | (with_reducible exact Within.refl _ _)
    | ((with_reducible apply Within.after (State.sqzFail_within _ _ _ _ _)); case hq => rfl)
    | ((with_reducible apply Within.after (State.resolve_within _ _ _ _ _)); case hq => rfl)
    | ((with_reducible apply Within.of_pair); with_reducible assumption)
    | split
    | dsimp only

theorem State.sqzMatrix_within (s : State) (e n k : Nat) (a b : Target) :
    Within [.mem, .ue, .hdrs, .flows, .hbmcs, .galleries, .helpers, .engines, .streams, .msix, .freeCtr, .outs] s (State.sqzMatrix s e n k a b) := by
  unfold State.sqzMatrix
  repeat' first
    | (with_reducible exact Within.refl _ _)
    | ((with_reducible apply Within.sqzRun); case hq => rfl)
    | ((with_reducible apply Within.after (State.sqzDone_within _ _ _)); case hq => rfl)
    | intro _

theorem State.entResume_within (s : State) (e m : Nat) :
    Within [.mem, .ue, .hdrs, .flows, .hbmcs, .galleries, .helpers, .engines, .streams, .msix, .freeCtr, .outs] s (State.entResume s e m) := by
  unfold State.entResume
  repeat' first
    | (with_reducible exact Within.refl _ _)
    | ((with_reducible apply Within.after (State.setXfer_within _ _ _ _)); case hq => rfl)
    | ((with_reducible apply Within.after (State.setSlotOf_within _ _ _ _)); case hq => rfl)
    | ((with_reducible apply Within.after (State.tldRun_within _ _ _ _)); case hq => rfl)
    | ((with_reducible apply Within.after (State.rescRun_within _ _ _)); case hq => rfl)
    | ((with_reducible apply Within.after (State.kswRun_within _ _ _)); case hq => rfl)
    | ((with_reducible apply Within.after (State.todoRun_within _ _ _)); case hq => rfl)
    | ((with_reducible apply Within.after (State.settle_within _ _ _ _)); case hq => rfl)
    | ((with_reducible apply Within.of_pair); with_reducible assumption)
    | split
    | dsimp only

theorem State.zeroDst_within (s : State) (e n : Nat) :
    Within [.engines] s (State.zeroDst s e n) := by
  unfold State.zeroDst
  repeat' first
    | (with_reducible exact Within.refl _ _)
    | ((with_reducible apply Within.after (State.setEng_within _ _ _)); case hq => rfl)
    | (with_reducible apply Within.foldl)
    | (with_reducible apply Within.foldl_fst)
    | intro _
    | split
    | dsimp only

theorem State.entAbort_within (s : State) (e m : Nat) :
    Within [.hdrs, .galleries, .engines, .streams, .freeCtr] s (State.entAbort s e m) := by
  unfold State.entAbort
  repeat' first
    | (with_reducible exact Within.refl _ _)
    | ((with_reducible apply Within.after (State.setXfer_within _ _ _ _)); case hq => rfl)
    | ((with_reducible apply Within.after (State.sqzFail_within _ _ _ _ _)); case hq => rfl)
    | ((with_reducible apply Within.after (State.setSlotOf_within _ _ _ _)); case hq => rfl)
    | ((with_reducible apply Within.after (State.slotFail_within _ _ _ _ _ _)); case hq => rfl)
    | ((with_reducible apply Within.after (State.zeroDst_within _ _ _)); case hq => rfl)
    | ((with_reducible apply Within.after (State.setEng_within _ _ _)); case hq => rfl)
    | ((with_reducible apply Within.after (State.kswEnd_within _ _ _ _)); case hq => rfl)
    | ((with_reducible apply Within.after (State.rescEnd_within _ _ _ _)); case hq => rfl)
    | ((with_reducible apply Within.after (State.settle_within _ _ _ _)); case hq => rfl)
    | split
    | dsimp only

theorem State.entCtl_within (s : State) (e m v : Nat) :
    Within [.mem, .ue, .hdrs, .flows, .hbmcs, .galleries, .helpers, .engines, .streams, .msix, .freeCtr, .outs] s (State.entCtl s e m v) := by
  unfold State.entCtl
  repeat' first
    | (with_reducible exact Within.refl _ _)
    | ((with_reducible apply Within.after (State.refuse_within _ _ _)); case hq => rfl)
    | ((with_reducible apply Within.after (State.entResume_within _ _ _)); case hq => rfl)
    | ((with_reducible apply Within.after (State.entAbort_within _ _ _)); case hq => rfl)
    | split

end Sys2Proof.Laws
end

