-- ==== Sys2Proof/Laws/FramesChainOps.lean ====
section
/-! SUPPORT. What each operation of Machine/ChainOps.lean may change: every part that is not listed stays. -/

namespace Sys2Proof.Laws

open Sys2Proof Sys2Proof.Machine

theorem State.chainSet_within (s : State) (n : Nat) :
    Within [.mem, .ue, .hdrs, .dev, .flows, .hbmcs, .msix] s (State.chainSet s n) := by
  unfold State.chainSet
  repeat' first
    | (with_reducible exact Within.refl _ _)
    | ((with_reducible apply Within.after (State.recordErr_within _ _ _ _)); case hq => rfl)
    | ((with_reducible apply Within.after (State.devRead_within _ _ _ _)); case hq => rfl)
    | ((with_reducible apply Within.of_pair); with_reducible assumption)
    | split
    | ((with_reducible apply Within.set_dev); (case hp => rfl); case hx => exact fun h => ⟨h.hops, h.tries, h.throt, h.pwr, h.pwrNew, h.cool⟩)

theorem State.chainClr_within (s : State) (n : Nat) :
    Within [.dev] s (State.chainClr s n) := by
  unfold State.chainClr
  repeat' first
    | (with_reducible exact Within.refl _ _)
    | intro _
    | ((with_reducible apply Within.set_dev); (case hp => rfl); case hx => exact fun h => ⟨h.hops, h.tries, h.throt, h.pwr, h.pwrNew, h.cool⟩)

end Sys2Proof.Laws
end

