-- ==== Sys2Proof/Laws/FramesMemory.lean ====
section
/-! SUPPORT. What each operation of Machine/Memory.lean may change: every part that is not listed stays. -/

namespace Sys2Proof.Laws

open Sys2Proof Sys2Proof.Machine

theorem State.handleTake_within (s : State) (e h : Nat) (v : Word64) :
    Within [.mem, .galleries] s (State.handleTake s e h v) := by
  unfold State.handleTake
  repeat' first
    | (with_reducible exact Within.refl _ _)
    | ((with_reducible apply Within.after (State.zeroRun_within _ _ _)); case hq => rfl)
    | ((with_reducible apply Within.after (State.setGal_within _ _ _)); case hq => rfl)
    | (with_reducible apply Within.foldl)
    | (with_reducible apply Within.foldl_fst)
    | intro _
    | split

theorem State.handlePut_within (s : State) (port fn e h : Nat) (v : Word64) :
    Within [.mem, .hdrs, .galleries, .msix, .freeCtr] s (State.handlePut s port fn e h v) := by
  unfold State.handlePut
  repeat' first
    | (with_reducible exact Within.refl _ _)
    | ((with_reducible apply Within.after (State.refuse_within _ _ _)); case hq => rfl)
    | ((with_reducible apply Within.after (State.setGal_within _ _ _)); case hq => rfl)
    | ((with_reducible apply Within.after (State.handleTake_within _ _ _ _)); case hq => rfl)
    | split

theorem State.waitFill_within (s : State) (a : Access) :
    Within [.dev] s (State.waitFill s a) := by
  unfold State.waitFill
  repeat' first
    | (with_reducible exact Within.refl _ _)
    | ((with_reducible apply Within.set_dev); (case hp => rfl); case hx => exact fun h => ⟨h.hops, h.tries, h.throt, h.pwr, h.pwrNew, h.cool⟩)

theorem State.tlbInvPut_within (s : State) (v : Word64) :
    Within [.hdrs, .dev, .msix, .freeCtr] s (State.tlbInvPut s v) := by
  unfold State.tlbInvPut
  repeat' first
    | (with_reducible exact Within.refl _ _)
    | ((with_reducible apply Within.after (State.refuse_within _ _ _)); case hq => rfl)
    | split
    | ((with_reducible apply Within.set_dev); (case hp => rfl); case hx => exact fun h => ⟨h.hops, h.tries, h.throt, h.pwr, h.pwrNew, h.cool⟩)

theorem State.dropTlb_within (s : State) (v : Nat) :
    Within [.galleries] s (State.dropTlb s v) := by
  unfold State.dropTlb
  repeat' first
    | (with_reducible exact Within.refl _ _)
    | (with_reducible apply Within.each)
    | ((with_reducible apply Within.after (State.setGal_within _ _ _)); case hq => rfl)
    | intro _

theorem State.hbmSet_within (s : State) (w : Nat) (b : Bytes) (bad : Bool) :
    Within [.mem, .ue, .flows] s (State.hbmSet s w b bad) := by
  unfold State.hbmSet
  repeat' first
    | (with_reducible exact Within.refl _ _)
    | ((with_reducible apply Within.after (State.setFlow_within _ _ _)); case hq => rfl)
    | intro _
    | split
    | ((with_reducible apply Within.set_mem); (case hp => rfl); case hx => first | exact memPut_wf _ _ | exact memClear_wf _ _ | exact fun _ => rfl)
    | dsimp only
    | ((with_reducible apply Within.of (t := s)); (case h' => intro p hn; cases p <;> first | exact absurd (by decide) hn | rfl); (case hm => first | exact id | exact memPut_wf _ _ | exact memClear_wf _ _ | exact fun _ => rfl); case hd => exact id)

theorem State.corrected_within (s : State) (a : Nat) (bad : List Nat) :
    Within [.hdrs, .hbmcs] s (State.corrected s a bad) := by
  unfold State.corrected
  repeat' first
    | (with_reducible exact Within.refl _ _)
    | ((with_reducible apply Within.after (State.event_within _ _ _ _)); case hq => rfl)
    | ((with_reducible apply Within.after (State.setHbmc_within _ _ _)); case hq => rfl)
    | ((with_reducible apply Within.after (State.hbmTraffic_within _ _ _ _)); case hq => rfl)
    | (with_reducible apply Within.foldl)
    | (with_reducible apply Within.foldl_fst)
    | intro _
    | split

theorem State.codeRead_within (s : State) (w : Nat) (errs : List (Fin 36)) :
    Within [.mem, .ue, .hdrs, .flows, .hbmcs, .freeCtr] s (State.codeRead s w errs) := by
  unfold State.codeRead
  repeat' first
    | (with_reducible exact Within.refl _ _)
    | ((with_reducible apply Within.after (State.corrected_within _ _ _)); case hq => rfl)
    | ((with_reducible apply Within.after (State.drawn_within _)); case hq => rfl)
    | ((with_reducible apply Within.after (State.hbmSet_within _ _ _ _)); case hq => rfl)
    | intro _
    | split
    | dsimp only

theorem State.copyLost_within (s : State) (n : Nat) :
    Within [.dev, .mgmtW, .mgmtE, .journal, .freeCtr] s (State.copyLost s n) := by
  unfold State.copyLost
  repeat' first
    | (with_reducible exact Within.refl _ _)
    | ((with_reducible apply Within.after (State.drawn_within _)); case hq => rfl)
    | ((with_reducible apply Within.after (State.logErr_within _ _)); case hq => rfl)
    | split
    | ((with_reducible apply Within.set_journal); case hp => rfl)

theorem State.codesRead_within (s : State) (r : FlowReq) :
    Within [.mem, .ue, .hdrs, .flows, .hbmcs, .freeCtr] s (State.codesRead s r) := by
  unfold State.codesRead
  repeat' first
    | (with_reducible exact Within.refl _ _)
    | ((with_reducible apply Within.after (State.codeRead_within _ _ _)); case hq => rfl)
    | (with_reducible apply Within.foldl)
    | (with_reducible apply Within.foldl_fst)
    | intro _

theorem State.flushPut_within (s : State) (c v : Nat) :
    Within [.hdrs, .flows, .msix, .freeCtr] s (State.flushPut s c v) := by
  unfold State.flushPut
  repeat' first
    | (with_reducible exact Within.refl _ _)
    | ((with_reducible apply Within.after (State.refuse_within _ _ _)); case hq => rfl)
    | ((with_reducible apply Within.after (State.setFlow_within _ _ _)); case hq => rfl)
    | intro _
    | split
    | dsimp only

theorem State.flushRun_within (s : State) (c : Nat) (wb inv : Bool) (lines : List Nat) :
    Within [.mem, .ue, .hdrs, .flows] s (State.flushRun s c wb inv lines) := by
  unfold State.flushRun
  repeat' first
    | (with_reducible exact Within.refl _ _)
    | ((with_reducible apply Within.after (State.wroteBack_within _ _)); case hq => rfl)
    | ((with_reducible apply Within.after (State.restoreShadow_within _ _ _)); case hq => rfl)
    | ((with_reducible apply Within.after (State.setFlow_within _ _ _)); case hq => rfl)
    | (with_reducible apply Within.foldl)
    | (with_reducible apply Within.foldl_fst)
    | intro _

theorem State.winOpen_within (s : State) (i : Nat) :
    Within [.mem, .ue, .hdrs, .dev, .flows, .hbmcs, .msix] s (State.winOpen s i) := by
  unfold State.winOpen
  repeat' first
    | (with_reducible exact Within.refl _ _)
    | ((with_reducible apply Within.after (State.recordErr_within _ _ _ _)); case hq => rfl)
    | ((with_reducible apply Within.after (State.devRead_within _ _ _ _)); case hq => rfl)
    | ((with_reducible apply Within.of_pair); with_reducible assumption)
    | split
    | ((with_reducible apply Within.set_dev); (case hp => rfl); case hx => exact fun h => ⟨h.hops, h.tries, h.throt, h.pwr, h.pwrNew, h.cool⟩)

theorem State.winClose_within (s : State) (i : Nat) :
    Within [.dev] s (State.winClose s i) := by
  unfold State.winClose
  repeat' first
    | (with_reducible exact Within.refl _ _)
    | split
    | ((with_reducible apply Within.set_dev); (case hp => rfl); case hx => exact fun h => ⟨h.hops, h.tries, h.throt, h.pwr, h.pwrNew, h.cool⟩)

theorem State.hostRead_within (s : State) (tenant : Option Nat) (a n : Nat) :
    Within [.mem, .ue, .hdrs, .flows, .hbmcs, .galleries] s (State.hostRead s tenant a n).1 := by
  unfold State.hostRead
  repeat' first
    | (with_reducible exact Within.refl _ _)
    | ((with_reducible apply Within.after (State.devRead_within _ _ _ _)); case hq => rfl)
    | ((with_reducible apply Within.after (State.vRead_within _ _ _ _ _ _)); case hq => rfl)
    | ((with_reducible apply Within.of_pair); with_reducible assumption)
    | split

theorem State.hostWrite_within (s : State) (tenant : Option Nat) (a : Nat) (b : Bytes) :
    Within [.mem, .ue, .hdrs, .flows, .hbmcs, .galleries, .helpers] s (State.hostWrite s tenant a b).1 := by
  unfold State.hostWrite
  repeat' first
    | (with_reducible exact Within.refl _ _)
    | ((with_reducible apply Within.after (State.devWrite_within _ _ _ _)); case hq => rfl)
    | ((with_reducible apply Within.after (State.xlateAll_within _ _ _ _ _ _)); case hq => rfl)
    | ((with_reducible apply Within.after (State.writeRuns_within _ _ _ _)); case hq => rfl)
    | ((with_reducible apply Within.of_pair); with_reducible assumption)
    | split

end Sys2Proof.Laws
end

