-- ==== Sys2Proof/Laws/FramesMessages.lean ====
section
/-! SUPPORT. What each operation of Machine/Messages.lean may change: every part that is not listed stays. -/

namespace Sys2Proof.Laws

open Sys2Proof Sys2Proof.Machine

theorem State.ringPut_within {s : State} {base size : Nat} {hdr : Word64} {payload : Bytes} {t : State} {off : Nat}
    (h : s.ringPut base size hdr payload = some (t, off)) : Within [.mem, .ue, .hdrs, .flows, .hbmcs, .helpers, .freeCtr] s t := by
  unfold State.ringPut at h
  dsimp only at h
  split at h
  · cases h
  · cases h
    refine Within.after (State.devWrite_within _ _ _ _) rfl (Within.after (State.drawn_within _) rfl (Within.after (State.devWrite_within _ _ _ _) rfl ?_))
    split
    · exact Within.after (State.devWrite_within _ _ _ _) rfl (Within.refl _ _)
    · exact Within.refl _ _

theorem State.ringPutAt_within {s : State} {o : Option Nat} {size : Nat} {hdr : Word64} {payload : Bytes} {t : State} {off : Nat}
    (h : (o.bind fun base => s.ringPut base size hdr payload) = some (t, off)) :
    Within [.mem, .ue, .hdrs, .flows, .hbmcs, .helpers, .freeCtr] s t := by
  obtain ⟨b, _, hb⟩ := Option.bind_eq_some_iff.1 h
  exact State.ringPut_within hb

theorem State.msgPop_within (s : State) (ep q : Nat) :
    Within [.msgs] s (State.msgPop s ep q) := by
  unfold State.msgPop
  repeat' first
    | (with_reducible exact Within.refl _ _)
    | ((with_reducible apply Within.after (State.setMsg_within _ _ _)); case hq => rfl)
    | split
    | dsimp only

theorem State.epToken_within {s t : State} {ep : Nat} {q13 : Bool} {k : Token} (h : s.epToken ep q13 k = some t) : Within [.engines] s t := by
  unfold State.epToken at h
  dsimp only at h
  repeat' first
    | (cases h; done)
    | (cases h; exact State.setEng_within _ _ _)
    | split at h

theorem State.moveHead_within (s : State) (ep q : Nat) :
    Within [.mem, .ue, .hdrs, .flows, .hbmcs, .helpers, .engines, .msgs, .freeCtr] s (State.moveHead s ep q) := by
  unfold State.moveHead
  repeat' first
    | (with_reducible exact Within.refl _ _)
    | ((with_reducible apply Within.after (State.epToken_within ?hx)); (case hx => with_reducible assumption); case hq => rfl)
    | ((with_reducible apply Within.after (State.msgPop_within _ _ _)); case hq => rfl)
    | ((with_reducible apply Within.after (State.setFault_within _ _ _)); case hq => rfl)
    | ((with_reducible apply Within.after (State.ringPut_within ?hx)); (case hx => with_reducible assumption); case hq => rfl)
    | ((with_reducible apply Within.after (State.setMsg_within _ _ _)); case hq => rfl)
    | split
    | dsimp only

theorem State.moveQueue_within (s : State) (ep q : Nat) :
    Within [.mem, .ue, .hdrs, .flows, .hbmcs, .helpers, .engines, .msgs, .freeCtr] s (State.moveQueue s ep q) := by
  unfold State.moveQueue
  repeat' first
    | (with_reducible exact Within.refl _ _)
    | (with_reducible apply Within.each)
    | ((with_reducible apply Within.after (State.moveHead_within _ _ _)); case hq => rfl)
    | intro _
    | split

theorem State.enqueue_within (s : State) (ep dst q h handler : Nat) (payload : Bytes) :
    Within [.mem, .ue, .hdrs, .flows, .hbmcs, .helpers, .engines, .msgs, .freeCtr] s (State.enqueue s ep dst q h handler payload) := by
  unfold State.enqueue
  repeat' first
    | (with_reducible exact Within.refl _ _)
    | ((with_reducible apply Within.after (State.moveQueue_within _ _ _)); case hq => rfl)
    | ((with_reducible apply Within.after (State.setMsg_within _ _ _)); case hq => rfl)
    | ((with_reducible apply Within.after (State.ringPut_within ?hx)); (case hx => with_reducible assumption); case hq => rfl)
    | ((with_reducible apply Within.after (State.ringPutAt_within ?hx)); (case hx => with_reducible assumption); case hq => rfl)
    | intro _
    | split
    | dsimp only

theorem State.deliverReply_within (s : State) (ep dst c h : Nat) (payload : Bytes) :
    Within [.mem, .ue, .hdrs, .flows, .hbmcs, .helpers, .engines, .msgs, .freeCtr] s (State.deliverReply s ep dst c h payload) := by
  unfold State.deliverReply
  repeat' first
    | (with_reducible exact Within.refl _ _)
    | ((with_reducible apply Within.after (State.setMsg_within _ _ _)); case hq => rfl)
    | ((with_reducible apply Within.after (State.enqueue_within _ _ _ _ _ _ _)); case hq => rfl)
    | intro _
    | split
    | dsimp only

theorem State.msgRefused_within (s : State) (ep ch h : Nat) (c : Code) :
    Within [.msgs] s (State.msgRefused s ep ch h c) := by
  unfold State.msgRefused
  repeat' first
    | (with_reducible exact Within.refl _ _)
    | ((with_reducible apply Within.after (State.setFault_within _ _ _)); case hq => rfl)

theorem State.sendReply_within (s : State) (ep c : Nat) (hdr : Word64) (payload : Bytes) :
    Within [.mem, .ue, .hdrs, .flows, .hbmcs, .helpers, .engines, .msgs, .freeCtr] s (State.sendReply s ep c hdr payload).1 := by
  unfold State.sendReply
  repeat' first
    | (with_reducible exact Within.refl _ _)
    | ((with_reducible apply Within.after (State.msgRefused_within _ _ _ _ _)); case hq => rfl)
    | ((with_reducible apply Within.after (State.deliverReply_within _ _ _ _ _ _)); case hq => rfl)
    | ((with_reducible apply Within.after (State.setMsg_within _ _ _)); case hq => rfl)
    | split
    | dsimp only

theorem State.autoReply_within (s : State) (ep c : Nat) (req : Word64) (status : Code) (payload : Bytes) :
    Within [.mem, .ue, .hdrs, .flows, .hbmcs, .helpers, .engines, .msgs, .freeCtr] s (State.autoReply s ep c req status payload) := by
  unfold State.autoReply
  repeat' first
    | (with_reducible exact Within.refl _ _)
    | ((with_reducible apply Within.after (State.drawn_within _)); case hq => rfl)
    | ((with_reducible apply Within.after (State.sendReply_within _ _ _ _ _)); case hq => rfl)
    | ((with_reducible apply Within.of_pair); with_reducible assumption)
    | split

theorem State.dropMessages_within (s : State) (ep : Nat) :
    Within [.mem, .ue, .hdrs, .flows, .hbmcs, .helpers, .engines, .msgs, .freeCtr] s (State.dropMessages s ep) := by
  unfold State.dropMessages
  repeat' first
    | (with_reducible exact Within.refl _ _)
    | ((with_reducible apply Within.after (State.setMsg_within _ _ _)); case hq => rfl)
    | ((with_reducible apply Within.after (State.countErrs_within _ _ _)); case hq => rfl)
    | ((with_reducible apply Within.after (State.drawn_within _)); case hq => rfl)
    | ((with_reducible apply Within.after (State.deliverReply_within _ _ _ _ _ _)); case hq => rfl)
    | (with_reducible apply Within.foldl)
    | (with_reducible apply Within.foldl_fst)
    | intro _
    | split

theorem State.engTenantPut_within (s : State) (e t : Nat) :
    Within [.mem, .ue, .hdrs, .flows, .hbmcs, .drips, .helpers, .engines, .msgs, .freeCtr] s (State.engTenantPut s e t) := by
  unfold State.engTenantPut
  repeat' first
    | (with_reducible exact Within.refl _ _)
    | ((with_reducible apply Within.after (State.setDrip_within _ _ _)); case hq => rfl)
    | ((with_reducible apply Within.after (State.dropMessages_within _ _)); case hq => rfl)
    | ((with_reducible apply Within.after (State.setEng_within _ _ _)); case hq => rfl)
    | split
    | dsimp only

theorem State.resetEndpoint_within (s : State) (ep : Nat) :
    Within [.mem, .ue, .hdrs, .flows, .hbmcs, .helpers, .engines, .msgs, .freeCtr] s (State.resetEndpoint s ep) := by
  unfold State.resetEndpoint
  repeat' first
    | (with_reducible exact Within.refl _ _)
    | ((with_reducible apply Within.after (State.dropMessages_within _ _)); case hq => rfl)
    | ((with_reducible apply Within.after (State.setMsg_within _ _ _)); case hq => rfl)

theorem State.syncRings_within (s : State) (ep : Nat) :
    Within [.mem, .ue, .hdrs, .flows, .hbmcs, .helpers, .msgs] s (State.syncRings s ep) := by
  unfold State.syncRings
  repeat' first
    | (with_reducible exact Within.refl _ _)
    | ((with_reducible apply Within.after (State.devWrite_within _ _ _ _)); case hq => rfl)
    | ((with_reducible apply Within.after (State.setMsg_within _ _ _)); case hq => rfl)
    | (with_reducible apply Within.foldl)
    | (with_reducible apply Within.foldl_fst)
    | ((with_reducible apply Within.of_pair); with_reducible assumption)
    | intro _
    | split
    | dsimp only

theorem State.helperDone_within (s : State) (h rd : Nat) (v : Word64) (n : Nat) :
    Within [.hdrs, .helpers] s (State.helperDone s h rd v n) := by
  unfold State.helperDone
  repeat' first
    | (with_reducible exact Within.refl _ _)
    | ((with_reducible apply Within.after (State.event_within _ _ _ _)); case hq => rfl)
    | ((with_reducible apply Within.after (State.setHelper_within _ _ _)); case hq => rfl)

theorem State.oringDone_within (s : State) (ep c : Nat) (code : Code) :
    Within [.mem, .ue, .hdrs, .flows, .hbmcs, .helpers] s (State.oringDone s ep c code) := by
  unfold State.oringDone
  repeat' first
    | (with_reducible exact Within.refl _ _)
    | ((with_reducible apply Within.after (State.devWrite_within _ _ _ _)); case hq => rfl)
    | ((with_reducible apply Within.of_pair); with_reducible assumption)
    | split
    | dsimp only

theorem State.sendToken_within (s : State) (ep ch : Nat) :
    Within [.engines, .msgs] s (State.sendToken s ep ch) := by
  unfold State.sendToken
  repeat' first
    | (with_reducible exact Within.refl _ _)
    | ((with_reducible apply Within.after (State.epToken_within ?hx)); (case hx => with_reducible assumption); case hq => rfl)
    | ((with_reducible apply Within.after (State.setMsg_within _ _ _)); case hq => rfl)
    | split

theorem State.endSend_within (s : State) (ep ch : Nat) (m : SendMsg) (code : Code) :
    Within [.mem, .ue, .hdrs, .flows, .hbmcs, .galleries, .helpers, .engines, .msgs, .freeCtr] s (State.endSend s ep ch m code) := by
  unfold State.endSend
  repeat' first
    | (with_reducible exact Within.refl _ _)
    | ((with_reducible apply Within.after (State.setMsg_within _ _ _)); case hq => rfl)
    | ((with_reducible apply Within.after (State.drawn_within _)); case hq => rfl)
    | ((with_reducible apply Within.after (State.sumpPut_within _ _ _)); case hq => rfl)
    | ((with_reducible apply Within.after (State.sendToken_within _ _ _)); case hq => rfl)
    | ((with_reducible apply Within.after (State.oringDone_within _ _ _ _)); case hq => rfl)
    | ((with_reducible apply Within.after (State.helperDone_within _ _ _ _ _)); case hq => rfl)
    | split

theorem State.routeRequest_within (s : State) (ep ch : Nat) (x : SendMsg) :
    Within [.mem, .ue, .hdrs, .flows, .hbmcs, .galleries, .helpers, .engines, .msgs, .freeCtr] s (State.routeRequest s ep ch x) := by
  unfold State.routeRequest
  repeat' first
    | (with_reducible exact Within.refl _ _)
    | ((with_reducible apply Within.after (State.endSend_within _ _ _ _ _)); case hq => rfl)
    | ((with_reducible apply Within.after (State.msgRefused_within _ _ _ _ _)); case hq => rfl)
    | ((with_reducible apply Within.after (State.moveQueue_within _ _ _)); case hq => rfl)
    | ((with_reducible apply Within.after (State.setMsg_within _ _ _)); case hq => rfl)
    | ((with_reducible apply Within.after (State.enqueue_within _ _ _ _ _ _ _)); case hq => rfl)
    | split
    | dsimp only

theorem State.ktGo_within (s : State) (h e q : Nat) (t : Token) (rd : Nat) :
    Within [.hdrs, .helpers, .engines] s (State.ktGo s h e q t rd) := by
  unfold State.ktGo
  repeat' first
    | (with_reducible exact Within.refl _ _)
    | ((with_reducible apply Within.after (State.helperDone_within _ _ _ _ _)); case hq => rfl)
    | ((with_reducible apply Within.after (State.setHelper_within _ _ _)); case hq => rfl)
    | ((with_reducible apply Within.after (State.setEng_within _ _ _)); case hq => rfl)
    | split
    | dsimp only

theorem State.ktRetry_within (s : State) (h : Nat) :
    Within [.hdrs, .helpers, .engines] s (State.ktRetry s h) := by
  unfold State.ktRetry
  repeat' first
    | (with_reducible exact Within.refl _ _)
    | ((with_reducible apply Within.after (State.ktGo_within _ _ _ _ _ _)); case hq => rfl)
    | split

theorem State.ringPutReg_within (s : State) (ep r : Nat) (val : Word64) :
    Within [.mem, .ue, .hdrs, .flows, .hbmcs, .helpers, .msgs, .msix, .freeCtr] s (State.ringPutReg s ep r val) := by
  unfold State.ringPutReg
  repeat' first
    | (with_reducible exact Within.refl _ _)
    | ((with_reducible apply Within.after (State.refuse_within _ _ _)); case hq => rfl)
    | ((with_reducible apply Within.after (State.setMsg_within _ _ _)); case hq => rfl)
    | ((with_reducible apply Within.after (State.devWrite_within _ _ _ _)); case hq => rfl)
    | ((with_reducible apply Within.of_pair); with_reducible assumption)
    | intro _
    | split
    | dsimp only

theorem State.routeEntryPut_within (s : State) (ep n : Nat) (val : Word64) :
    Within [.hdrs, .msgs, .msix, .freeCtr] s (State.routeEntryPut s ep n val) := by
  unfold State.routeEntryPut
  repeat' first
    | (with_reducible exact Within.refl _ _)
    | ((with_reducible apply Within.after (State.refuse_within _ _ _)); case hq => rfl)
    | ((with_reducible apply Within.after (State.setMsg_within _ _ _)); case hq => rfl)
    | split

end Sys2Proof.Laws
end

