-- ==== Sys2Proof/Laws/FramesVector.lean ====
section
/-! SUPPORT. What each operation of Machine/Vector.lean may change: every part that is not listed stays. -/

namespace Sys2Proof.Laws

open Sys2Proof Sys2Proof.Machine

theorem State.vecEnd_within (s : State) (g : Nat) (r : Handler) (status : Code) (payload : Bytes) :
    Within [.mem, .ue, .hdrs, .flows, .hbmcs, .vecs, .helpers, .engines, .msgs, .freeCtr] s (State.vecEnd s g r status payload) := by
  unfold State.vecEnd
  repeat' first
    | (with_reducible exact Within.refl _ _)
    | ((with_reducible apply Within.after (State.autoReply_within _ _ _ _ _ _)); case hq => rfl)
    | ((with_reducible apply Within.after (State.setVec_within _ _ _)); case hq => rfl)

theorem State.vecFault_within (s : State) (g : Nat) (r : Handler) (opc : Nat) (c : Code) (va : Option Nat) :
    Within [.mem, .ue, .hdrs, .flows, .hbmcs, .galleries, .vecs, .helpers, .engines, .msgs, .freeCtr] s (State.vecFault s g r opc c va) := by
  unfold State.vecFault
  repeat' first
    | (with_reducible exact Within.refl _ _)
    | ((with_reducible apply Within.after (State.setVec_within _ _ _)); case hq => rfl)
    | ((with_reducible apply Within.after (State.drawn_within _)); case hq => rfl)
    | ((with_reducible apply Within.after (State.sumpPut_within _ _ _)); case hq => rfl)
    | ((with_reducible apply Within.after (State.event_within _ _ _ _)); case hq => rfl)
    | ((with_reducible apply Within.after (State.vecEnd_within _ _ _ _ _)); case hq => rfl)

theorem Within.vecRun {ps : List Part} {s t : State} {g opc : Nat} {body : State → Handler → Nat → State × VEnd} (hk : ∀ u r w, Within ps u (body u r w).1)
    (hq : (([.mem, .ue, .hdrs, .flows, .hbmcs, .galleries, .vecs, .helpers, .engines, .msgs, .freeCtr] : List Part).all fun q => ps.contains q) = true) (h : Within ps s t) : Within ps s (t.vecRun g opc body) := by
  unfold State.vecRun
  repeat' first
    | with_reducible exact h
    | (with_reducible exact Within.refl _ _)
    | ((with_reducible apply Within.after (State.vecFault_within _ _ _ _ _ _)); case hq => simp_all)
    | ((with_reducible apply Within.after (State.vecEnd_within _ _ _ _ _)); case hq => simp_all)
    | ((with_reducible apply Within.after (State.setVec_within _ _ _)); case hq => simp_all)
    | ((with_reducible apply Within.after (State.event_within _ _ _ _)); case hq => simp_all)
    | ((with_reducible refine Within.trans (t := _) ?_ (hk _ _ _)))
    | ((with_reducible apply Within.of_pair); with_reducible assumption)
    | split
    | dsimp only

theorem State.vecReg_within (s : State) (g : Nat) (f : Vec → Vec) :
    Within [.vecs] s (State.vecReg s g f).1 := by
  unfold State.vecReg
  repeat' first
    | (with_reducible exact Within.refl _ _)
    | ((with_reducible apply Within.after (State.setVec_within _ _ _)); case hq => rfl)

theorem State.vecOut_within (s : State) (g w dst : Nat) (clash : Bool) (vs : List Nat) :
    Within [.mem, .ue, .hdrs, .flows, .hbmcs, .helpers, .msgs, .freeCtr] s (State.vecOut s g w dst clash vs) := by
  unfold State.vecOut
  repeat' first
    | (with_reducible exact Within.refl _ _)
    | ((with_reducible apply Within.after (State.devWrite_within _ _ _ _)); case hq => rfl)
    | ((with_reducible apply Within.ringsSeen); case hq => rfl)
    | (with_reducible apply Within.foldl)
    | (with_reducible apply Within.foldl_fst)
    | ((with_reducible apply Within.of_pair); with_reducible assumption)
    | intro _
    | split

theorem State.vecModular_within (s : State) (g opc srcs : Nat) (f : Nat → Nat → Nat → Nat → Nat → Nat) :
    Within [.mem, .ue, .hdrs, .flows, .hbmcs, .galleries, .vecs, .helpers, .engines, .msgs, .freeCtr] s (State.vecModular s g opc srcs f) := by
  unfold State.vecModular
  repeat' first
    | (with_reducible exact Within.refl _ _)
    | ((with_reducible apply Within.vecRun); case hq => rfl)
    | ((with_reducible apply Within.after (State.vecOut_within _ _ _ _ _ _)); case hq => rfl)
    | intro _
    | split
    | dsimp only

theorem State.vecRead_within (s : State) (g tenant hint unit v n : Nat) :
    Within [.mem, .ue, .hdrs, .flows, .hbmcs, .galleries] s (State.vecRead s g tenant hint unit v n).1 := by
  unfold State.vecRead
  repeat' first
    | (with_reducible exact Within.refl _ _)
    | ((with_reducible apply Within.after (State.vRead_within _ _ _ _ _ _)); case hq => rfl)
    | ((with_reducible apply Within.after (State.event_within _ _ _ _)); case hq => rfl)
    | ((with_reducible apply Within.of_pair); with_reducible assumption)
    | intro _
    | split

theorem State.vecRows_within (s : State) (g tenant hint unit base stride n : Nat) (l : List Nat) :
    Within [.mem, .ue, .hdrs, .flows, .hbmcs, .galleries] s (State.vecRows s g tenant hint unit base stride n l).1 := by
  induction l generalizing s with
  | nil => exact Within.refl _ _
  | cons a l ih =>
    unfold State.vecRows
    repeat' first
      | (with_reducible exact Within.refl _ _)
      | ((with_reducible apply Within.after (ih _)); case hq => rfl)
      | ((with_reducible apply Within.of_pair); with_reducible assumption)
      | ((with_reducible apply Within.after (State.vecRead_within _ _ _ _ _ _ _)); case hq => rfl)
      | split

theorem State.vecStore_within (s : State) (g tenant hint e : Nat) (m : Option (BitVec 4096)) (a : Nat) (vs : List Nat) :
    Within [.mem, .ue, .hdrs, .flows, .hbmcs, .galleries, .helpers] s (State.vecStore s g tenant hint e m a vs).1 := by
  unfold State.vecStore
  repeat' first
    | (with_reducible exact Within.refl _ _)
    | ((with_reducible apply Within.after (State.vWrite_within _ _ _ _ _ _ _)); case hq => rfl)
    | (with_reducible apply Within.foldl)
    | (with_reducible apply Within.foldl_fst)
    | ((with_reducible apply Within.of_pair); with_reducible assumption)
    | intro _
    | split

theorem State.vecTake_within (s : State) (g q : Nat) (m : QMsg) :
    Within [.mem, .ue, .hdrs, .flows, .hbmcs, .galleries, .vecs, .helpers, .engines, .msgs, .freeCtr] s (State.vecTake s g q m) := by
  unfold State.vecTake
  repeat' first
    | (with_reducible exact Within.refl _ _)
    | ((with_reducible apply Within.after (State.vecFault_within _ _ _ _ _ _)); case hq => rfl)
    | ((with_reducible apply Within.after (State.setVec_within _ _ _)); case hq => rfl)
    | (with_reducible apply Within.getD)
    | intro _
    | split
    | dsimp only

end Sys2Proof.Laws
end

