-- ==== Sys2Proof/Laws/FramesHelperOps.lean ====
section
/-! SUPPORT. What each operation of Machine/HelperOps.lean may change: every part that is not listed stays. -/

namespace Sys2Proof.Laws

open Sys2Proof Sys2Proof.Machine

theorem State.helperTrap_within (s : State) (h cause : Nat) (tval : Word64) :
    Within [.helpers] s (State.helperTrap s h cause tval) := by
  unfold State.helperTrap
  repeat' first
    | (with_reducible exact Within.refl _ _)
    | ((with_reducible apply Within.after (State.setHelper_within _ _ _)); case hq => rfl)

theorem State.helperTenantPut_within (s : State) (h v : Nat) :
    Within [.mem, .ue, .hdrs, .flows, .hbmcs, .helpers, .engines, .msgs, .msix, .freeCtr] s (State.helperTenantPut s h v) := by
  unfold State.helperTenantPut
  repeat' first
    | (with_reducible exact Within.refl _ _)
    | ((with_reducible apply Within.after (State.refuse_within _ _ _)); case hq => rfl)
    | ((with_reducible apply Within.after (State.dropMessages_within _ _)); case hq => rfl)
    | ((with_reducible apply Within.after (State.zeroRun_within _ _ _)); case hq => rfl)
    | ((with_reducible apply Within.after (State.setHelper_within _ _ _)); case hq => rfl)
    | split
    | dsimp only

theorem State.helperCtl_within (s : State) (h v : Nat) :
    Within [.hdrs, .helpers, .msgs, .msix, .freeCtr] s (State.helperCtl s h v) := by
  unfold State.helperCtl
  repeat' first
    | (with_reducible exact Within.refl _ _)
    | ((with_reducible apply Within.after (State.refuse_within _ _ _)); case hq => rfl)
    | ((with_reducible apply Within.after (State.setHelper_within _ _ _)); case hq => rfl)
    | ((with_reducible apply Within.after (State.setMsg_within _ _ _)); case hq => rfl)
    | split
    | dsimp only

theorem State.ksend_within (s : State) (h rd rs1 rs2 queue : Nat) (reply : Bool) :
    Within [.mem, .ue, .hdrs, .flows, .hbmcs, .helpers, .engines, .msgs, .freeCtr] s (State.ksend s h rd rs1 rs2 queue reply) := by
  unfold State.ksend
  repeat' first
    | (with_reducible exact Within.refl _ _)
    | ((with_reducible apply Within.after (State.helperTrap_within _ _ _ _)); case hq => rfl)
    | ((with_reducible apply Within.after (State.sendReply_within _ _ _ _ _)); case hq => rfl)
    | ((with_reducible apply Within.after (State.helperDone_within _ _ _ _ _)); case hq => rfl)
    | ((with_reducible apply Within.after (State.setMsg_within _ _ _)); case hq => rfl)
    | ((with_reducible apply Within.of_pair); with_reducible assumption)
    | split
    | dsimp only

theorem State.krecv_within (s : State) (h rd rs1 q : Nat) :
    Within [.mem, .ue, .hdrs, .flows, .hbmcs, .helpers, .msgs, .freeCtr] s (State.krecv s h rd rs1 q) := by
  unfold State.krecv
  repeat' first
    | (with_reducible exact Within.refl _ _)
    | ((with_reducible apply Within.after (State.setHelper_within _ _ _)); case hq => rfl)
    | ((with_reducible apply Within.after (State.helperTrap_within _ _ _ _)); case hq => rfl)
    | ((with_reducible apply Within.after (State.helperDone_within _ _ _ _ _)); case hq => rfl)
    | ((with_reducible apply Within.ringsSeen); case hq => rfl)
    | ((with_reducible apply Within.after (State.devWriteBy_within _ _ _ _ _)); case hq => rfl)
    | ((with_reducible apply Within.after (State.msgPop_within _ _ _)); case hq => rfl)
    | ((with_reducible apply Within.of_pair); with_reducible assumption)
    | intro _
    | split
    | dsimp only

theorem State.ktemit_within (s : State) (h rd rs1 rs2 : Nat) :
    Within [.hdrs, .helpers, .engines] s (State.ktemit s h rd rs1 rs2) := by
  unfold State.ktemit
  repeat' first
    | (with_reducible exact Within.refl _ _)
    | ((with_reducible apply Within.after (State.helperDone_within _ _ _ _ _)); case hq => rfl)
    | ((with_reducible apply Within.after (State.ktGo_within _ _ _ _ _ _)); case hq => rfl)
    | split
    | dsimp only

theorem State.khret_within (s : State) (h : Nat) :
    Within [.hdrs, .helpers, .freeCtr] s (State.khret s h) := by
  unfold State.khret
  repeat' first
    | (with_reducible exact Within.refl _ _)
    | ((with_reducible apply Within.after (State.drawn_within _)); case hq => rfl)
    | ((with_reducible apply Within.after (State.helperTrap_within _ _ _ _)); case hq => rfl)
    | ((with_reducible apply Within.after (State.helperDone_within _ _ _ _ _)); case hq => rfl)
    | ((with_reducible apply Within.after (State.setHelper_within _ _ _)); case hq => rfl)
    | split
    | dsimp only

theorem State.helperDispatch_within (s : State) (h : Nat) :
    Within [.mem, .ue, .hdrs, .flows, .hbmcs, .helpers, .engines, .msgs, .msix, .freeCtr] s (State.helperDispatch s h) := by
  unfold State.helperDispatch
  repeat' first
    | (with_reducible exact Within.refl _ _)
    | ((with_reducible apply Within.after (State.msgPop_within _ _ _)); case hq => rfl)
    | ((with_reducible apply Within.after (State.autoReply_within _ _ _ _ _ _)); case hq => rfl)
    | ((with_reducible apply Within.after (State.refuse_within _ _ _)); case hq => rfl)
    | ((with_reducible apply Within.ringsSeen); case hq => rfl)
    | ((with_reducible apply Within.after (State.devWriteBy_within _ _ _ _ _)); case hq => rfl)
    | ((with_reducible apply Within.after (State.event_within _ _ _ _)); case hq => rfl)
    | ((with_reducible apply Within.after (State.setHelper_within _ _ _)); case hq => rfl)
    | ((with_reducible apply Within.of_pair); with_reducible assumption)
    | intro _
    | split
    | dsimp only

theorem State.kmhost_within (s : State) (h : Nat) (val : Word64) :
    Within [.hdrs, .helpers, .msix] s (State.kmhost s h val) := by
  unfold State.kmhost
  repeat' first
    | (with_reducible exact Within.refl _ _)
    | ((with_reducible apply Within.after (State.raise_within _ _ _)); case hq => rfl)
    | ((with_reducible apply Within.after (State.setHelper_within _ _ _)); case hq => rfl)

end Sys2Proof.Laws
end

