-- ==== Sys2Proof/Laws/FramesJournalOps.lean ====
section
/-! SUPPORT. What each operation of Machine/JournalOps.lean may change: every part that is not listed stays. -/

namespace Sys2Proof.Laws

open Sys2Proof Sys2Proof.Machine

theorem State.ringSave_within (s : State) (i : Nat) (v : RingEnt) :
    Within [.journal] s (State.ringSave s i v) := by
  unfold State.ringSave
  repeat' first
    | (with_reducible exact Within.refl _ _)
    | ((with_reducible apply Within.set_journal); case hp => rfl)

theorem State.putSq_within (s : State) (p f n : Nat) (x : Sq) :
    Within [.journal, .fns] s (State.putSq s p f n x) := by
  unfold State.putSq
  repeat' first
    | (with_reducible exact Within.refl _ _)
    | ((with_reducible apply Within.after (State.ringSave_within _ _ _)); case hq => rfl)
    | ((with_reducible apply Within.after (State.setFn_within _ _ _ _)); case hq => rfl)

theorem State.putCq_within (s : State) (p f n : Nat) (x : Cq) :
    Within [.journal, .fns] s (State.putCq s p f n x) := by
  unfold State.putCq
  repeat' first
    | (with_reducible exact Within.refl _ _)
    | ((with_reducible apply Within.after (State.ringSave_within _ _ _)); case hq => rfl)
    | ((with_reducible apply Within.after (State.setFn_within _ _ _ _)); case hq => rfl)

theorem State.putSlot_within (s : State) (n : Nat) (x : JSlot) :
    Within [.mem, .ue, .hdrs, .journal, .flows, .hbmcs, .helpers] s (State.putSlot s n x) := by
  unfold State.putSlot
  repeat' first
    | (with_reducible exact Within.refl _ _)
    | ((with_reducible apply Within.after (State.setSlotJ_within _ _ _)); case hq => rfl)
    | ((with_reducible apply Within.after (State.devWrite_within _ _ _ _)); case hq => rfl)
    | ((with_reducible apply Within.of_pair); with_reducible assumption)
    | split
    | dsimp only

theorem State.readSlot_within (s : State) (n : Nat) :
    Within [.mem, .ue, .hdrs, .flows, .hbmcs, .helpers] s (State.readSlot s n).1 := by
  unfold State.readSlot
  repeat' first
    | (with_reducible exact Within.refl _ _)
    | ((with_reducible apply Within.after (State.devRead_within _ _ _ _)); case hq => rfl)
    | ((with_reducible apply Within.after (State.event_within _ _ _ _)); case hq => rfl)
    | ((with_reducible apply Within.after (State.devWrite_within _ _ _ _)); case hq => rfl)
    | ((with_reducible apply Within.of_pair); with_reducible assumption)
    | split
    | dsimp only

theorem State.haltFrozen_within (s : State) (was : List Nat) :
    Within [.hdrs, .engines] s (State.haltFrozen s was) := by
  unfold State.haltFrozen
  repeat' first
    | (with_reducible exact Within.refl _ _)
    | (with_reducible apply Within.each)
    | ((with_reducible apply Within.after (State.setHalt_within _ _ _)); case hq => rfl)
    | intro _
    | split

theorem State.freezeItem_within (s : State) (i off : Nat) :
    Within [.hdrs, .dev, .mgmtW, .mgmtE, .journal, .engines] s (State.freezeItem s i off) := by
  unfold State.freezeItem
  repeat' first
    | (with_reducible exact Within.refl _ _)
    | ((with_reducible apply Within.after (State.logErr_within _ _)); case hq => rfl)
    | ((with_reducible apply Within.after (State.haltFrozen_within _ _)); case hq => rfl)
    | split
    | ((with_reducible apply Within.set_journal); case hp => rfl)

theorem State.resetUnit_within (s : State) (e : Nat) :
    Within [.mem, .ue, .hdrs, .dev, .flows, .hbmcs, .galleries, .drips, .helpers, .engines, .streams, .msgs, .freeCtr] s (State.resetUnit s e) := by
  unfold State.resetUnit
  repeat' first
    | (with_reducible exact Within.refl _ _)
    | ((with_reducible apply Within.after (State.resetEngine_within _ _)); case hq => rfl)
    | ((with_reducible apply Within.after (State.resetEndpoint_within _ _)); case hq => rfl)

theorem State.dropSaved_within (s : State) (n : Nat) :
    Within [.galleries] s (State.dropSaved s n) := by
  unfold State.dropSaved
  repeat' first
    | (with_reducible exact Within.refl _ _)
    | (with_reducible apply Within.each)
    | ((with_reducible apply Within.after (State.setGal_within _ _ _)); case hq => rfl)
    | intro _

theorem State.dropRun_within (s : State) (n : Nat) :
    Within [.journal, .galleries] s (State.dropRun s n) := by
  unfold State.dropRun
  repeat' first
    | (with_reducible exact Within.refl _ _)
    | (with_reducible apply Within.each)
    | ((with_reducible apply Within.after (State.setGal_within _ _ _)); case hq => rfl)
    | intro _
    | ((with_reducible apply Within.set_journal); case hp => rfl)

theorem State.resetRun_within (s : State) (n : Nat) :
    Within [.mem, .ue, .hdrs, .dev, .journal, .flows, .hbmcs, .galleries, .drips, .helpers, .engines, .streams, .msgs, .freeCtr] s (State.resetRun s n) := by
  unfold State.resetRun
  repeat' first
    | (with_reducible exact Within.refl _ _)
    | ((with_reducible apply Within.after (State.dropRun_within _ _)); case hq => rfl)
    | ((with_reducible apply Within.after (State.dropSaved_within _ _)); case hq => rfl)
    | ((with_reducible apply Within.after (State.resetUnit_within _ _)); case hq => rfl)
    | (with_reducible apply Within.foldl)
    | (with_reducible apply Within.foldl_fst)
    | intro _

theorem State.lostStop_within (s : State) (p f n : Nat) :
    Within [.dev, .mgmtW, .mgmtE, .journal, .fns, .freeCtr] s (State.lostStop s p f n) := by
  unfold State.lostStop
  repeat' first
    | (with_reducible exact Within.refl _ _)
    | ((with_reducible apply Within.after (State.drawn_within _)); case hq => rfl)
    | ((with_reducible apply Within.after (State.logErr_within _ _)); case hq => rfl)
    | ((with_reducible apply Within.after (State.putSq_within _ _ _ _ _)); case hq => rfl)
    | intro _
    | split
    | dsimp only

theorem State.lostStops_within (s : State) :
    Within [.dev, .mgmtW, .mgmtE, .journal, .fns, .freeCtr] s (State.lostStops s) := by
  unfold State.lostStops
  repeat' first
    | (with_reducible exact Within.refl _ _)
    | ((with_reducible apply Within.after (State.lostStop_within _ _ _ _)); case hq => rfl)
    | (with_reducible apply Within.foldl)
    | (with_reducible apply Within.foldl_fst)
    | intro _

theorem State.loseSlot_within (s : State) (n : Nat) :
    Within [.dev, .mgmtW, .mgmtE, .journal, .fns, .freeCtr] s (State.loseSlot s n) := by
  unfold State.loseSlot
  repeat' first
    | (with_reducible exact Within.refl _ _)
    | ((with_reducible apply Within.after (State.lostStops_within _)); case hq => rfl)
    | ((with_reducible apply Within.after (State.setSlotJ_within _ _ _)); case hq => rfl)

theorem State.redispatch_within (s : State) (n : Nat) :
    Within [.mem, .ue, .hdrs, .dev, .mgmtW, .mgmtE, .journal, .fns, .flows, .hbmcs, .galleries, .drips, .helpers, .engines, .streams, .msgs, .freeCtr] s (State.redispatch s n) := by
  unfold State.redispatch
  repeat' first
    | (with_reducible exact Within.refl _ _)
    | ((with_reducible apply Within.after (State.resetRun_within _ _)); case hq => rfl)
    | ((with_reducible apply Within.after (State.readSlot_within _ _)); case hq => rfl)
    | ((with_reducible apply Within.after (State.event_within _ _ _ _)); case hq => rfl)
    | ((with_reducible apply Within.after (State.freezeItem_within _ _ _)); case hq => rfl)
    | ((with_reducible apply Within.after (State.loseSlot_within _ _)); case hq => rfl)
    | ((with_reducible apply Within.of_pair); with_reducible assumption)
    | split
    | dsimp only

theorem State.applyMark_within (s : State) (tenant : Nat) (m : Word64) :
    Within [.mem, .ue, .hdrs, .flows, .hbmcs, .galleries, .helpers] s (State.applyMark s tenant m) := by
  unfold State.applyMark
  repeat' first
    | (with_reducible exact Within.refl _ _)
    | ((with_reducible apply Within.after (State.vRead_within _ _ _ _ _ _)); case hq => rfl)
    | ((with_reducible apply Within.after (State.vWrite_within _ _ _ _ _ _ _)); case hq => rfl)
    | ((with_reducible apply Within.after (State.devWrite_within _ _ _ _)); case hq => rfl)
    | ((with_reducible apply Within.of_pair); with_reducible assumption)
    | split
    | dsimp only

theorem State.uncorrectedRecord_within (s : State) (n : Nat) :
    Within [.dev, .mgmtW, .mgmtE, .freeCtr] s (State.uncorrectedRecord s n) := by
  unfold State.uncorrectedRecord
  repeat' first
    | (with_reducible exact Within.refl _ _)
    | ((with_reducible apply Within.after (State.drawn_within _)); case hq => rfl)
    | ((with_reducible apply Within.after (State.logErr_within _ _)); case hq => rfl)
    | split
    | dsimp only

theorem State.releasePeers_within (s : State) (n : Nat) :
    Within [.mem, .ue, .hdrs, .dev, .mgmtW, .mgmtE, .links, .bundles, .flows, .hbmcs, .galleries, .helpers, .engines, .streams, .freeCtr] s (State.releasePeers s n) := by
  unfold State.releasePeers
  repeat' first
    | (with_reducible exact Within.refl _ _)
    | ((with_reducible apply Within.after (State.originate_within _ _)); case hq => rfl)
    | (with_reducible apply Within.foldl)
    | (with_reducible apply Within.foldl_fst)
    | intro _
    | split
    | ((with_reducible apply Within.set_dev); (case hp => rfl); case hx => exact fun h => ⟨h.hops, h.tries, h.throt, h.pwr, h.pwrNew, h.cool⟩)

theorem State.lateRecord_within (s : State) (n : Nat) :
    Within [.galleries] s (State.lateRecord s n) := by
  unfold State.lateRecord
  repeat' first
    | (with_reducible exact Within.refl _ _)
    | ((with_reducible apply Within.after (State.sumpPut_within _ _ _)); case hq => rfl)

theorem State.commitSlot_within (s : State) (n : Nat) (status : Code) (result : Word64) (marks : List Word64) (start commit : Nat) :
    Within [.mem, .ue, .hdrs, .dev, .mgmtW, .mgmtE, .journal, .links, .bundles, .flows, .hbmcs, .galleries, .helpers, .engines, .streams, .freeCtr, .outs] s (State.commitSlot s n status result marks start commit) := by
  unfold State.commitSlot
  repeat' first
    | (with_reducible exact Within.refl _ _)
    | ((with_reducible apply Within.after (State.putSlot_within _ _ _)); case hq => rfl)
    | ((with_reducible apply Within.after (State.lateRecord_within _ _)); case hq => rfl)
    | ((with_reducible apply Within.after (State.applyMark_within _ _ _)); case hq => rfl)
    | ((with_reducible apply Within.after (State.setEng_within _ _ _)); case hq => rfl)
    | ((with_reducible apply Within.after (State.dropRun_within _ _)); case hq => rfl)
    | ((with_reducible apply Within.after (State.releasePeers_within _ _)); case hq => rfl)
    | ((with_reducible apply Within.after (State.uncorrectedRecord_within _ _)); case hq => rfl)
    | ((with_reducible apply Within.after (State.event_within _ _ _ _)); case hq => rfl)
    | (with_reducible apply Within.foldl)
    | (with_reducible apply Within.foldl_fst)
    | intro _
    | split
    | ((with_reducible apply Within.set_outs); case hp => rfl)

theorem State.undefRun_within (s : State) (tenant : Nat) (o : Target × Nat) :
    Within [.mem, .ue, .hdrs, .flows, .hbmcs, .galleries, .freeCtr] s (State.undefRun s tenant o) := by
  unfold State.undefRun
  repeat' first
    | (with_reducible exact Within.refl _ _)
    | ((with_reducible apply Within.after (State.drawn_within _)); case hq => rfl)
    | (with_reducible apply Within.foldl)
    | (with_reducible apply Within.foldl_fst)
    | ((with_reducible apply Within.of_pair); with_reducible assumption)
    | intro _
    | split
    | ((with_reducible apply Within.set_mem); (case hp => rfl); case hx => first | exact memPut_wf _ _ | exact memClear_wf _ _ | exact fun _ => rfl)

theorem State.undefOuts_within (s : State) (n : Nat) :
    Within [.mem, .ue, .hdrs, .flows, .hbmcs, .galleries, .freeCtr, .outs] s (State.undefOuts s n) := by
  unfold State.undefOuts
  repeat' first
    | (with_reducible exact Within.refl _ _)
    | ((with_reducible apply Within.after (State.undefRun_within _ _ _)); case hq => rfl)
    | (with_reducible apply Within.foldl)
    | (with_reducible apply Within.foldl_fst)
    | intro _
    | ((with_reducible apply Within.set_outs); case hp => rfl)

theorem State.abortSlot_within (s : State) (n : Nat) :
    Within [.mem, .ue, .hdrs, .dev, .mgmtW, .mgmtE, .journal, .links, .bundles, .flows, .hbmcs, .galleries, .drips, .helpers, .engines, .streams, .msgs, .freeCtr, .outs] s (State.abortSlot s n) := by
  unfold State.abortSlot
  repeat' first
    | (with_reducible exact Within.refl _ _)
    | ((with_reducible apply Within.after (State.drawn_within _)); case hq => rfl)
    | ((with_reducible apply Within.after (State.commitSlot_within _ _ _ _ _ _ _)); case hq => rfl)
    | ((with_reducible apply Within.after (State.undefOuts_within _ _)); case hq => rfl)
    | ((with_reducible apply Within.after (State.resetRun_within _ _)); case hq => rfl)

theorem State.takeSlot_within (s : State) (n : Nat) (x : JSlot) (p : Pend) :
    Within [.journal, .galleries] s (State.takeSlot s n x p) := by
  unfold State.takeSlot
  repeat' first
    | (with_reducible exact Within.refl _ _)
    | ((with_reducible apply Within.after (State.setSlotJ_within _ _ _)); case hq => rfl)
    | (with_reducible apply Within.each)
    | ((with_reducible apply Within.after (State.setGal_within _ _ _)); case hq => rfl)
    | intro _
    | ((with_reducible apply Within.set_journal); case hp => rfl)

theorem State.slotPosted_within (s : State) (n : Nat) :
    Within [.mem, .ue, .hdrs, .journal, .flows, .hbmcs, .helpers] s (State.slotPosted s n) := by
  unfold State.slotPosted
  repeat' first
    | (with_reducible exact Within.refl _ _)
    | ((with_reducible apply Within.after (State.putSlot_within _ _ _)); case hq => rfl)
    | ((with_reducible apply Within.after (State.event_within _ _ _ _)); case hq => rfl)
    | intro _
    | ((with_reducible apply Within.set_journal); case hp => rfl)

end Sys2Proof.Laws
end

