-- ==== Sys2Proof/Laws/FramesHostOps.lean ====
section
/-! SUPPORT. What each operation of Machine/HostOps.lean may change: every part that is not listed stays. -/

namespace Sys2Proof.Laws

open Sys2Proof Sys2Proof.Machine

theorem State.stalePend_within (s : State) (p f n : Nat) :
    Within [.journal] s (State.stalePend s p f n) := by
  unfold State.stalePend
  repeat' first
    | (with_reducible exact Within.refl _ _)
    | intro _
    | split
    | ((with_reducible apply Within.set_journal); case hp => rfl)

theorem State.sqCtl_within (s : State) (p f n v : Nat) :
    Within [.hdrs, .journal, .fns, .msix, .freeCtr] s (State.sqCtl s p f n v) := by
  unfold State.sqCtl
  repeat' first
    | (with_reducible exact Within.refl _ _)
    | ((with_reducible apply Within.after (State.refuse_within _ _ _)); case hq => rfl)
    | ((with_reducible apply Within.after (State.putSq_within _ _ _ _ _)); case hq => rfl)
    | ((with_reducible apply Within.after (State.stalePend_within _ _ _ _)); case hq => rfl)
    | split
    | dsimp only

theorem State.cqCtl_within (s : State) (p f n v : Nat) :
    Within [.hdrs, .journal, .fns, .msix, .freeCtr] s (State.cqCtl s p f n v) := by
  unfold State.cqCtl
  repeat' first
    | (with_reducible exact Within.refl _ _)
    | ((with_reducible apply Within.after (State.refuse_within _ _ _)); case hq => rfl)
    | ((with_reducible apply Within.after (State.putCq_within _ _ _ _ _)); case hq => rfl)
    | split
    | dsimp only

theorem State.entryCheck_within (s : State) (port fn w : Nat) :
    Within [.mem, .ue, .hdrs, .flows, .hbmcs] s (State.entryCheck s port fn w).1 := by
  unfold State.entryCheck
  repeat' first
    | (with_reducible exact Within.refl _ _)
    | ((with_reducible apply Within.after (State.walkDpa_within _ _ _ _)); case hq => rfl)
    | ((with_reducible apply Within.of_pair); with_reducible assumption)
    | split
    | dsimp only

theorem State.takeEntry_within (s : State) (p f n : Nat) (entry : BitVec 512) :
    Within [.mem, .ue, .hdrs, .journal, .fns, .flows, .hbmcs, .galleries, .msix, .freeCtr] s (State.takeEntry s p f n entry) := by
  unfold State.takeEntry
  repeat' first
    | (with_reducible exact Within.refl _ _)
    | ((with_reducible apply Within.after (State.event_within _ _ _ _)); case hq => rfl)
    | ((with_reducible apply Within.after (State.putSq_within _ _ _ _ _)); case hq => rfl)
    | ((with_reducible apply Within.after (State.refuse_within _ _ _)); case hq => rfl)
    | ((with_reducible apply Within.after (State.entryCheck_within _ _ _ _)); case hq => rfl)
    | ((with_reducible apply Within.after (State.takeSlot_within _ _ _ _)); case hq => rfl)
    | ((with_reducible apply Within.of_pair); with_reducible assumption)
    | split
    | dsimp only

theorem State.moveRings_within (s : State) (from_ : Nat) :
    Within [.journal, .fns, .msix] s (State.moveRings s from_) := by
  unfold State.moveRings
  repeat' first
    | (with_reducible exact Within.refl _ _)
    | ((with_reducible apply Within.after (State.putSq_within _ _ _ _ _)); case hq => rfl)
    | ((with_reducible apply Within.after (State.msixTo_within _ _ _ _)); case hq => rfl)
    | (with_reducible apply Within.foldl)
    | (with_reducible apply Within.foldl_fst)
    | intro _
    | split
    | ((with_reducible apply Within.set_journal); case hp => rfl)

theorem State.takeover_within (s : State) (from_ : Nat) :
    Within [.journal, .fns, .msix] s (State.takeover s from_) := by
  unfold State.takeover
  repeat' first
    | (with_reducible exact Within.refl _ _)
    | ((with_reducible apply Within.after (State.moveRings_within _ _)); case hq => rfl)
    | split
    | ((with_reducible apply Within.set_journal); case hp => rfl)

theorem State.launchBlock_within (s : State) (x : JSlot) :
    Within [.mem, .ue, .hdrs, .flows, .hbmcs, .galleries] s (State.launchBlock s x).1 := by
  unfold State.launchBlock
  repeat' first
    | (with_reducible exact Within.refl _ _)
    | ((with_reducible apply Within.after (State.vRead_within _ _ _ _ _ _)); case hq => rfl)
    | ((with_reducible apply Within.of_pair); with_reducible assumption)
    | intro _
    | split
    | dsimp only

theorem State.setUpEngine_within (s : State) (n : Nat) (x : JSlot) (i e prog simg : Nat) :
    Within [.mem, .ue, .hdrs, .flows, .hbmcs, .drips, .helpers, .engines, .streams, .msgs, .freeCtr] s (State.setUpEngine s n x i e prog simg) := by
  unfold State.setUpEngine
  repeat' first
    | (with_reducible exact Within.refl _ _)
    | ((with_reducible apply Within.after (State.engTenantPut_within _ _ _)); case hq => rfl)
    | ((with_reducible apply Within.after (State.setEng_within _ _ _)); case hq => rfl)
    | ((with_reducible apply Within.after (State.loadNk_within _ _)); case hq => rfl)
    | ((with_reducible apply Within.after (State.setStrm_within _ _ _)); case hq => rfl)

theorem State.ringError_within (s : State) (p f : Nat) :
    Within [.hdrs, .msix, .freeCtr] s (State.ringError s p f) := by
  unfold State.ringError
  repeat' first
    | (with_reducible exact Within.refl _ _)
    | ((with_reducible apply Within.after (State.drawn_within _)); case hq => rfl)
    | ((with_reducible apply Within.after (State.msixTo_within _ _ _ _)); case hq => rfl)
    | ((with_reducible apply Within.after (State.refuse_within _ _ _)); case hq => rfl)

theorem State.restartSlot_within (s : State) (n : Nat) (x : JSlot) :
    Within [.mem, .ue, .hdrs, .journal, .fns, .flows, .hbmcs, .galleries, .helpers, .hostOut, .hostReq, .freeCtr] s (State.restartSlot s n x) := by
  unfold State.restartSlot
  repeat' first
    | (with_reducible exact Within.refl _ _)
    | ((with_reducible apply Within.after (State.setSlotJ_within _ _ _)); case hq => rfl)
    | ((with_reducible apply Within.after (State.putSlot_within _ _ _)); case hq => rfl)
    | ((with_reducible apply Within.after (State.setGal_within _ _ _)); case hq => rfl)
    | ((with_reducible apply Within.after (State.event_within _ _ _ _)); case hq => rfl)
    | ((with_reducible apply Within.after (State.lateRecord_within _ _)); case hq => rfl)
    | ((with_reducible apply Within.after (State.applyMark_within _ _ _)); case hq => rfl)
    | ((with_reducible apply Within.after (State.hostPut_within _ _ _ _ _)); case hq => rfl)
    | ((with_reducible apply Within.after (State.putCq_within _ _ _ _ _)); case hq => rfl)
    | ((with_reducible apply Within.after (State.slotPosted_within _ _)); case hq => rfl)
    | ((with_reducible apply Within.after (State.putSq_within _ _ _ _ _)); case hq => rfl)
    | (with_reducible apply Within.foldl)
    | (with_reducible apply Within.foldl_fst)
    | intro _
    | split
    | ((with_reducible apply Within.set_journal); case hp => rfl)

theorem State.scanSlot_within (s : State) (n : Nat) :
    Within [.mem, .ue, .hdrs, .dev, .mgmtW, .mgmtE, .journal, .fns, .flows, .hbmcs, .galleries, .helpers, .engines, .hostOut, .hostReq, .freeCtr] s (State.scanSlot s n) := by
  unfold State.scanSlot
  repeat' first
    | (with_reducible exact Within.refl _ _)
    | ((with_reducible apply Within.after (State.readSlot_within _ _)); case hq => rfl)
    | ((with_reducible apply Within.after (State.restartSlot_within _ _ _)); case hq => rfl)
    | ((with_reducible apply Within.after (State.freezeItem_within _ _ _)); case hq => rfl)
    | ((with_reducible apply Within.after (State.setSlotJ_within _ _ _)); case hq => rfl)
    | ((with_reducible apply Within.of_pair); with_reducible assumption)
    | split

theorem State.ringRestore_within (s : State) (i : Nat) :
    Within [.hdrs, .dev, .mgmtW, .mgmtE, .journal, .fns, .engines, .freeCtr] s (State.ringRestore s i) := by
  unfold State.ringRestore
  repeat' first
    | (with_reducible exact Within.refl _ _)
    | ((with_reducible apply Within.after (State.drawn_within _)); case hq => rfl)
    | ((with_reducible apply Within.after (State.freezeItem_within _ _ _)); case hq => rfl)
    | ((with_reducible apply Within.after (State.setFn_within _ _ _ _)); case hq => rfl)
    | split
    | dsimp only

theorem State.journalCtl_within (s : State) (v : Nat) :
    Within [.mem, .ue, .hdrs, .journal, .flows, .hbmcs, .helpers, .msix, .freeCtr] s (State.journalCtl s v) := by
  unfold State.journalCtl
  repeat' first
    | (with_reducible exact Within.refl _ _)
    | ((with_reducible apply Within.after (State.refuse_within _ _ _)); case hq => rfl)
    | ((with_reducible apply Within.after (State.putSlot_within _ _ _)); case hq => rfl)
    | (with_reducible apply Within.foldl)
    | (with_reducible apply Within.foldl_fst)
    | intro _
    | split
    | ((with_reducible apply Within.set_journal); case hp => rfl)

theorem State.takeoverPut_within (s : State) (port v : Nat) :
    Within [.hdrs, .journal, .fns, .msix, .freeCtr] s (State.takeoverPut s port v) := by
  unfold State.takeoverPut
  repeat' first
    | (with_reducible exact Within.refl _ _)
    | ((with_reducible apply Within.after (State.refuse_within _ _ _)); case hq => rfl)
    | ((with_reducible apply Within.after (State.takeover_within _ _)); case hq => rfl)
    | split
    | dsimp only

theorem State.query_within (s : State) (v : Nat) :
    Within [.journal] s (State.query s v) := by
  unfold State.query
  repeat' first
    | (with_reducible exact Within.refl _ _)
    | intro _
    | split
    | ((with_reducible apply Within.set_journal); case hp => rfl)

theorem State.qringPut_within (s : State) (v : Nat) :
    Within [.hdrs, .journal, .msix, .freeCtr] s (State.qringPut s v) := by
  unfold State.qringPut
  repeat' first
    | (with_reducible exact Within.refl _ _)
    | ((with_reducible apply Within.after (State.refuse_within _ _ _)); case hq => rfl)
    | ((with_reducible apply Within.after (State.query_within _ _)); case hq => rfl)
    | split

theorem State.abortLost_within {s t : State} {p f n : Nat} {seq : Word64} (h : s.abortLost p f n seq = some t) :
    Within [.mem, .ue, .hdrs, .journal, .fns, .flows, .hbmcs, .galleries, .helpers, .freeCtr] s t := by
  unfold State.abortLost at h
  obtain ⟨m, _, rfl⟩ := Option.map_eq_some_iff.1 h
  exact Within.after (State.drawn_within _) rfl (Within.after (State.event_within _ _ _ _) rfl (Within.after (State.putSq_within _ _ _ _ _) rfl
    (Within.after (State.putSlot_within _ _ _) rfl (Within.after (State.setGal_within _ _ _) rfl
      (Within.set_journal rfl (Within.after (State.takeSlot_within _ _ _ _) rfl (Within.refl _ _)))))))

theorem State.cmdAbort_within (s : State) (c : Ctl) (v : Nat) :
    Within [.mem, .ue, .hdrs, .dev, .mgmtW, .mgmtE, .journal, .fns, .links, .bundles, .flows, .hbmcs, .galleries, .drips, .helpers, .engines, .streams, .msgs, .msix, .freeCtr, .outs] s (State.cmdAbort s c v) := by
  unfold State.cmdAbort
  repeat' first
    | (with_reducible exact Within.refl _ _)
    | ((with_reducible apply Within.after (State.setMgmt_within _ _ _)); case hq => rfl)
    | ((with_reducible apply Within.after (State.refuse_within _ _ _)); case hq => rfl)
    | ((with_reducible apply Within.after (State.abortSlot_within _ _)); case hq => rfl)
    | ((with_reducible apply Within.after (State.abortLost_within ?hx)); (case hx => with_reducible assumption); case hq => rfl)
    | split
    | dsimp only

theorem Within.resolveItem {ps : List Part} {s t : State} {port : Nat} {ring : Bool} {item : Nat} {f : State → Nat → State} (hk : ∀ u i, Within ps u (f u i))
    (hq : (([.hdrs, .journal, .engines, .msix, .freeCtr] : List Part).all fun q => ps.contains q) = true) (h : Within ps s t) : Within ps s (t.resolveItem port ring item f) := by
  unfold State.resolveItem
  extract_lets
  split
  · exact Within.after (State.refuse_within _ _ _) (by simp_all) h
  · refine Within.after (State.haltFrozen_within _ _) (by simp_all) ?_
    exact Within.set_journal (by simp_all) (h.trans (hk _ _))

theorem State.keepCopy_within (s : State) (b : Bool) (i : Nat) :
    Within [.mem, .ue, .hdrs, .dev, .mgmtW, .mgmtE, .journal, .fns, .flows, .hbmcs, .galleries, .helpers, .engines, .hostOut, .hostReq, .freeCtr] s (State.keepCopy s b i) := by
  unfold State.keepCopy
  repeat' first
    | (with_reducible exact Within.refl _ _)
    | ((with_reducible apply Within.after (State.devWrite_within _ _ _ _)); case hq => rfl)
    | ((with_reducible apply Within.after (State.event_within _ _ _ _)); case hq => rfl)
    | ((with_reducible apply Within.after (State.setSlotJ_within _ _ _)); case hq => rfl)
    | ((with_reducible apply Within.after (State.restartSlot_within _ _ _)); case hq => rfl)
    | ((with_reducible apply Within.after (State.ringRestore_within _ _)); case hq => rfl)
    | ((with_reducible apply Within.after (State.ringSave_within _ _ _)); case hq => rfl)
    | ((with_reducible apply Within.of_pair); with_reducible assumption)
    | split
    | dsimp only

theorem State.discardItem_within (s : State) (i : Nat) :
    Within [.mem, .ue, .hdrs, .dev, .mgmtW, .mgmtE, .journal, .fns, .links, .bundles, .flows, .hbmcs, .galleries, .drips, .helpers, .engines, .streams, .msgs, .freeCtr, .outs] s (State.discardItem s i) := by
  unfold State.discardItem
  repeat' first
    | (with_reducible exact Within.refl _ _)
    | ((with_reducible apply Within.after (State.abortSlot_within _ _)); case hq => rfl)
    | ((with_reducible apply Within.after (State.putSq_within _ _ _ _ _)); case hq => rfl)
    | ((with_reducible apply Within.after (State.putCq_within _ _ _ _ _)); case hq => rfl)
    | split
    | dsimp only

end Sys2Proof.Laws
end

