-- ==== Sys2Proof/Laws/FramesErrors.lean ====
section
/-! SUPPORT. What each operation of Machine/Errors.lean may change: every part that is not listed stays. -/

namespace Sys2Proof.Laws

open Sys2Proof Sys2Proof.Machine

theorem State.engineNote_within (s : State) (e : Nat) (cls : Cls) :
    Within [.galleries, .freeCtr] s (State.engineNote s e cls) := by
  unfold State.engineNote
  repeat' first
    | (with_reducible exact Within.refl _ _)
    | ((with_reducible apply Within.after (State.drawn_within _)); case hq => rfl)
    | ((with_reducible apply Within.after (State.sumpPut_within _ _ _)); case hq => rfl)

theorem State.checkRecord_within (s : State) (e : Nat) :
    Within [.galleries, .freeCtr] s (State.checkRecord s e) := by
  unfold State.checkRecord
  repeat' first
    | (with_reducible exact Within.refl _ _)
    | ((with_reducible apply Within.after (State.drawn_within _)); case hq => rfl)
    | ((with_reducible apply Within.after (State.sumpPut_within _ _ _)); case hq => rfl)

theorem State.engineFail_within (s : State) (e : Nat) :
    Within [.mem, .ue, .hdrs, .dev, .mgmtW, .mgmtE, .journal, .fns, .flows, .hbmcs, .galleries, .drips, .helpers, .engines, .streams, .msgs, .freeCtr] s (State.engineFail s e) := by
  unfold State.engineFail
  repeat' first
    | (with_reducible exact Within.refl _ _)
    | ((with_reducible apply Within.after (State.resetUnit_within _ _)); case hq => rfl)
    | ((with_reducible apply Within.after (State.checkRecord_within _ _)); case hq => rfl)
    | ((with_reducible apply Within.after (State.setEng_within _ _ _)); case hq => rfl)
    | ((with_reducible apply Within.after (State.engineNote_within _ _ _)); case hq => rfl)
    | ((with_reducible apply Within.after (State.setGal_within _ _ _)); case hq => rfl)
    | ((with_reducible apply Within.after (State.redispatch_within _ _)); case hq => rfl)
    | (with_reducible apply Within.foldl)
    | (with_reducible apply Within.foldl_fst)
    | intro _
    | split
    | dsimp only

theorem State.retest_within (s : State) (g j : Nat) :
    Within [.mem, .ue, .hdrs, .dev, .flows, .hbmcs, .galleries, .drips, .helpers, .engines, .streams, .msgs, .msix, .freeCtr] s (State.retest s g j) := by
  unfold State.retest
  repeat' first
    | (with_reducible exact Within.refl _ _)
    | ((with_reducible apply Within.after (State.refuse_within _ _ _)); case hq => rfl)
    | ((with_reducible apply Within.after (State.setGal_within _ _ _)); case hq => rfl)
    | ((with_reducible apply Within.after (State.resetUnit_within _ _)); case hq => rfl)
    | split
    | dsimp only

theorem State.engRetestPut_within (s : State) (g v : Nat) :
    Within [.mem, .ue, .hdrs, .dev, .flows, .hbmcs, .galleries, .drips, .helpers, .engines, .streams, .msgs, .msix, .freeCtr] s (State.engRetestPut s g v) := by
  unfold State.engRetestPut
  repeat' first
    | (with_reducible exact Within.refl _ _)
    | (with_reducible apply Within.each)
    | ((with_reducible apply Within.after (State.retest_within _ _ _)); case hq => rfl)
    | intro _
    | split

theorem State.grant_within (s : State) (c : Ctl) :
    Within [.geode, .mgmtW, .mgmtE] s (State.grant s c) := by
  unfold State.grant
  repeat' first
    | (with_reducible exact Within.refl _ _)
    | ((with_reducible apply Within.after (State.setMgmt_within _ _ _)); case hq => rfl)
    | split
    | ((with_reducible apply Within.set_geode); case hp => rfl)

theorem State.demote_within (s : State) (c : Ctl) :
    Within [.dev, .mgmtW, .mgmtE, .freeCtr] s (State.demote s c) := by
  unfold State.demote
  repeat' first
    | (with_reducible exact Within.refl _ _)
    | ((with_reducible apply Within.after (State.setMgmt_within _ _ _)); case hq => rfl)
    | ((with_reducible apply Within.after (State.drawn_within _)); case hq => rfl)
    | ((with_reducible apply Within.after (State.logErr_within _ _)); case hq => rfl)

theorem State.freezeMgmt_within (s : State) :
    Within [.dev, .geode, .mgmtW, .mgmtE] s (State.freezeMgmt s) := by
  unfold State.freezeMgmt
  repeat' first
    | (with_reducible exact Within.refl _ _)
    | ((with_reducible apply Within.after (State.logErr_within _ _)); case hq => rfl)
    | dsimp only
    | ((with_reducible apply Within.of (t := s)); (case h' => intro p hn; cases p <;> first | exact absurd (by decide) hn | rfl); (case hm => exact id); case hd => exact id)

theorem State.claimCheck_within (s : State) (c : Ctl) (epoch : Word64) :
    Within [.dev, .geode, .mgmtW, .mgmtE, .freeCtr] s (State.claimCheck s c epoch) := by
  unfold State.claimCheck
  repeat' first
    | (with_reducible exact Within.refl _ _)
    | ((with_reducible apply Within.after (State.demote_within _ _)); case hq => rfl)
    | ((with_reducible apply Within.after (State.freezeMgmt_within _)); case hq => rfl)
    | split
    | ((with_reducible apply Within.set_geode); case hp => rfl)

theorem State.bootBeat_within (s : State) (c : Ctl) :
    Within [.geode, .mgmtW, .mgmtE] s (State.bootBeat s c) := by
  unfold State.bootBeat
  repeat' first
    | (with_reducible exact Within.refl _ _)
    | ((with_reducible apply Within.after (State.setMgmt_within _ _ _)); case hq => rfl)
    | ((with_reducible apply Within.after (State.grant_within _ _)); case hq => rfl)
    | split
    | ((with_reducible apply Within.set_geode); case hp => rfl)

theorem State.takeCaverns_within (s : State) (lost : Ctl) :
    Within [.mgmtW, .mgmtE, .caverns] s (State.takeCaverns s lost) := by
  unfold State.takeCaverns
  repeat' first
    | (with_reducible exact Within.refl _ _)
    | ((with_reducible apply Within.after (State.setCavern_within _ _ _)); case hq => rfl)
    | ((with_reducible apply Within.after (State.setMgmt_within _ _ _)); case hq => rfl)
    | (with_reducible apply Within.foldl)
    | (with_reducible apply Within.foldl_fst)
    | intro _

theorem State.returnCaverns_within (s : State) (c : Ctl) :
    Within [.mgmtW, .mgmtE, .caverns] s (State.returnCaverns s c) := by
  unfold State.returnCaverns
  repeat' first
    | (with_reducible exact Within.refl _ _)
    | ((with_reducible apply Within.after (State.setCavern_within _ _ _)); case hq => rfl)
    | ((with_reducible apply Within.after (State.setMgmt_within _ _ _)); case hq => rfl)
    | (with_reducible apply Within.foldl)
    | (with_reducible apply Within.foldl_fst)
    | intro _

theorem State.controllerLost_within (s : State) (c : Ctl) :
    Within [.dev, .geode, .mgmtW, .mgmtE, .caverns, .freeCtr] s (State.controllerLost s c) := by
  unfold State.controllerLost
  repeat' first
    | (with_reducible exact Within.refl _ _)
    | ((with_reducible apply Within.after (State.setMgmt_within _ _ _)); case hq => rfl)
    | ((with_reducible apply Within.after (State.drawn_within _)); case hq => rfl)
    | ((with_reducible apply Within.after (State.logErr_within _ _)); case hq => rfl)
    | ((with_reducible apply Within.after (State.takeCaverns_within _ _)); case hq => rfl)
    | ((with_reducible apply Within.after (State.grant_within _ _)); case hq => rfl)
    | split
    | ((with_reducible apply Within.set_geode); case hp => rfl)

theorem State.epochResolvePut_within (s : State) (v : Nat) :
    Within [.hdrs, .dev, .geode, .mgmtW, .mgmtE, .msix, .freeCtr] s (State.epochResolvePut s v) := by
  unfold State.epochResolvePut
  repeat' first
    | (with_reducible exact Within.refl _ _)
    | ((with_reducible apply Within.after (State.refuse_within _ _ _)); case hq => rfl)
    | ((with_reducible apply Within.after (State.grant_within _ _)); case hq => rfl)
    | ((with_reducible apply Within.after (State.demote_within _ _)); case hq => rfl)
    | split
    | ((with_reducible apply Within.set_geode); case hp => rfl)

end Sys2Proof.Laws
end

