-- ==== Sys2Proof/Laws/FramesLieOps.lean ====
section
/-! SUPPORT. What each operation of Machine/LieOps.lean may change: every part that is not listed stays. -/

namespace Sys2Proof.Laws

open Sys2Proof Sys2Proof.Machine

theorem State.lieGo_within (s : State) (port : Nat) (op : LieOp) (words : Option (List Word64)) (res : Nat → Nat → List Word64 → Option Nat) :
    Within [.hdrs, .lie, .msix, .freeCtr] s (State.lieGo s port op words res) := by
  unfold State.lieGo
  repeat' first
    | (with_reducible exact Within.refl _ _)
    | ((with_reducible apply Within.after (State.refuse_within _ _ _)); case hq => rfl)
    | split
    | ((with_reducible apply Within.set_lie); case hp => rfl)

theorem Within.lieStart {ps : List Part} {s t : State} {op : LieOp} {k : State → State} (hk : ∀ u, Within ps u (k u))
    (hq : (([.hdrs, .msix, .freeCtr] : List Part).all fun q => ps.contains q) = true) (h : Within ps s t) : Within ps s (t.lieStart op k) := by
  unfold State.lieStart
  repeat' first
    | with_reducible exact h
    | (with_reducible exact Within.refl _ _)
    | exact hk
    | split
    | ((with_reducible apply Within.gate); case hq => simp_all)

theorem State.goModmul_within (s : State) (port : Nat) (a b m : Option (List Word64)) :
    Within [.hdrs, .lie, .msix, .freeCtr] s (State.goModmul s port a b m) := by
  unfold State.goModmul
  repeat' first
    | (with_reducible exact Within.refl _ _)
    | ((with_reducible apply Within.after (State.lieGo_within _ _ _ _ _)); case hq => rfl)

theorem State.goModexp_within (s : State) (port : Nat) (a b m : Option (List Word64)) :
    Within [.hdrs, .lie, .msix, .freeCtr] s (State.goModexp s port a b m) := by
  unfold State.goModexp
  repeat' first
    | (with_reducible exact Within.refl _ _)
    | ((with_reducible apply Within.after (State.lieGo_within _ _ _ _ _)); case hq => rfl)

theorem State.goEcmul_within (s : State) (port : Nat) (a b : Option (List Word64)) :
    Within [.hdrs, .lie, .msix, .freeCtr] s (State.goEcmul s port a b) := by
  unfold State.goEcmul
  repeat' first
    | (with_reducible exact Within.refl _ _)
    | ((with_reducible apply Within.after (State.lieGo_within _ _ _ _ _)); case hq => rfl)

theorem State.goFree_within (s : State) (port : Nat) :
    Within [.hdrs, .lie, .msix, .freeCtr] s (State.goFree s port) := by
  unfold State.goFree
  repeat' first
    | (with_reducible exact Within.refl _ _)
    | ((with_reducible apply Within.after (State.drawn_within _)); case hq => rfl)
    | ((with_reducible apply Within.after (State.goModmul_within _ _ _ _ _)); case hq => rfl)
    | ((with_reducible apply Within.after (State.goModexp_within _ _ _ _ _)); case hq => rfl)
    | ((with_reducible apply Within.after (State.goEcmul_within _ _ _ _)); case hq => rfl)
    | ((with_reducible apply Within.after (State.refuse_within _ _ _)); case hq => rfl)
    | intro _
    | split
    | dsimp only

theorem State.lieDone_within (s : State) (code : Code) (cycles : Nat) :
    Within [.hdrs, .lie, .msix] s (State.lieDone s code cycles) := by
  unfold State.lieDone
  repeat' first
    | (with_reducible exact Within.refl _ _)
    | ((with_reducible apply Within.after (State.raise_within _ _ _)); case hq => rfl)
    | ((with_reducible apply Within.set_lie); case hp => rfl)

theorem State.lieAbortPut_within (s : State) :
    Within [.hdrs, .lie, .hostOut, .hostReq, .msix, .freeCtr] s (State.lieAbortPut s) := by
  unfold State.lieAbortPut
  repeat' first
    | (with_reducible exact Within.refl _ _)
    | ((with_reducible apply Within.after (State.hostPut_within _ _ _ _ _)); case hq => rfl)
    | ((with_reducible apply Within.after (State.lieDone_within _ _ _)); case hq => rfl)
    | ((with_reducible apply Within.after (State.drawn_within _)); case hq => rfl)
    | split
    | dsimp only

theorem State.lieGeode_within (s : State) (op : LieOp) (nw ew : Nat) (ok : Bool) :
    Within [.lie] s (State.lieGeode s op nw ew ok) := by
  unfold State.lieGeode
  repeat' first
    | (with_reducible exact Within.refl _ _)
    | split
    | ((with_reducible apply Within.set_lie); case hp => rfl)

end Sys2Proof.Laws
end

