-- ==== Sys2Proof/Laws/FramesGeodeOps.lean ====
section
/-! SUPPORT. What each operation of Machine/GeodeOps.lean may change: every part that is not listed stays. -/

namespace Sys2Proof.Laws

open Sys2Proof Sys2Proof.Machine

theorem State.setMbox_within (s : State) (p : Nat) (m : Mbox) :
    Within [.geode] s (State.setMbox s p m) := by
  unfold State.setMbox
  repeat' first
    | (with_reducible exact Within.refl _ _)
    | ((with_reducible apply Within.set_geode); case hp => rfl)

theorem State.respond_within (s : State) (r : MReq) (mver : Byte) (opc : Nat) (code : Code) (payload : Bytes) :
    Within [.hdrs, .geode, .hostOut, .hostReq, .msix, .sideband, .freeCtr] s (State.respond s r mver opc code payload) := by
  unfold State.respond
  repeat' first
    | (with_reducible exact Within.refl _ _)
    | ((with_reducible apply Within.after (State.raise_within _ _ _)); case hq => rfl)
    | ((with_reducible apply Within.after (State.setMbox_within _ _ _)); case hq => rfl)
    | ((with_reducible apply Within.after (State.hostPut_within _ _ _ _ _)); case hq => rfl)
    | split
    | dsimp only
    | ((with_reducible apply Within.of (t := s)); (case h' => intro p hn; cases p <;> first | exact absurd (by decide) hn | rfl); (case hm => exact id); case hd => exact id)

theorem State.answer_within (s : State) (r : MReq) (opc : Nat) (code : Code) :
    Within [.hdrs, .geode, .hostOut, .hostReq, .msix, .sideband, .freeCtr] s (State.answer s r opc code) := by
  unfold State.answer
  repeat' first
    | (with_reducible exact Within.refl _ _)
    | ((with_reducible apply Within.after (State.respond_within _ _ _ _ _ _)); case hq => rfl)

theorem Within.request {ps : List Part} {s t : State} {r : MReq} {opc : Nat} {side recov : Bool} {k : State → State}
    (hk : ∀ u, Within ps u (k u)) (hq : (([.hdrs, .geode, .hostOut, .hostReq, .msix, .sideband, .freeCtr] : List Part).all fun q => ps.contains q) = true) (h : Within ps s t) :
    Within ps s (t.request r opc side recov k) := by
  have ans : ∀ c, Within ps s (t.answer r opc c) := fun c => Within.after (State.answer_within _ _ _ _) (by clear hk; simp_all) h
  unfold State.request
  extract_lets common
  have hc : Within ps s (common t) := by
    refine Within.ite ?_ (Within.ite (ans _) (Within.ite (ans _) (Within.trans h (hk _))))
    exact Within.after (State.respond_within _ _ _ _ _ _) (by clear hk; simp_all) h
  refine Within.ite h ?_
  cases r.via with
  | mbox p =>
    refine Within.ite h (Within.ite ?_ (Within.ite (ans _) hc))
    exact Within.after (State.setMbox_within _ _ _) (by clear hk; simp_all) (ans _)
  | sideband => exact Within.ite (Within.set_sideband (by clear hk; simp_all) h) (Within.ite (ans _) hc)

theorem State.openSession_within (s : State) (r : MReq) :
    Within [.hdrs, .geode, .lie, .hostOut, .hostReq, .msix, .sideband, .freeCtr] s (State.openSession s r) := by
  unfold State.openSession
  repeat' first
    | (with_reducible exact Within.refl _ _)
    | ((with_reducible apply Within.after (State.geodeDraw_within _ _)); case hq => rfl)
    | ((with_reducible apply Within.after (State.lieGeode_within _ _ _ _ _)); case hq => rfl)
    | ((with_reducible apply Within.after (State.identSign_within _ _)); case hq => rfl)
    | ((with_reducible apply Within.after (State.setCtx_within _ _ _)); case hq => rfl)
    | ((with_reducible apply Within.after (State.respond_within _ _ _ _ _ _)); case hq => rfl)

theorem State.finishLie_within (s : State) (ses : Session) (p : Bytes) :
    Within [.lie] s (State.finishLie s ses p) := by
  unfold State.finishLie
  repeat' first
    | (with_reducible exact Within.refl _ _)
    | ((with_reducible apply Within.after (State.lieGeode_within _ _ _ _ _)); case hq => rfl)
    | split
    | dsimp only

theorem State.zeroNk_within (s : State) (nk : Bytes) :
    Within [.drips] s (State.zeroNk s nk) := by
  unfold State.zeroNk
  repeat' first
    | (with_reducible exact Within.refl _ _)
    | (with_reducible apply Within.each)
    | ((with_reducible apply Within.after (State.setDrip_within _ _ _)); case hq => rfl)
    | intro _

theorem State.zeroTagged_within (s : State) (t : Nat) :
    Within [.mem, .galleries] s (State.zeroTagged s t) := by
  unfold State.zeroTagged
  repeat' first
    | (with_reducible exact Within.refl _ _)
    | (with_reducible apply Within.each)
    | ((with_reducible apply Within.after (State.zeroRun_within _ _ _)); case hq => rfl)
    | ((with_reducible apply Within.after (State.setGal_within _ _ _)); case hq => rfl)
    | (with_reducible apply Within.foldl)
    | (with_reducible apply Within.foldl_fst)
    | intro _

theorem State.destroyCtx_within (s : State) (t : Nat) (r : MReq) :
    Within [.mem, .hdrs, .dev, .geode, .galleries, .drips, .hostOut, .hostReq, .msix, .sideband, .freeCtr] s (State.destroyCtx s t r) := by
  unfold State.destroyCtx
  repeat' first
    | (with_reducible exact Within.refl _ _)
    | ((with_reducible apply Within.after (State.zeroNk_within _ _)); case hq => rfl)
    | ((with_reducible apply Within.after (State.zeroTagged_within _ _)); case hq => rfl)
    | (with_reducible apply Within.each)
    | ((with_reducible apply Within.after (State.zeroRun_within _ _ _)); case hq => rfl)
    | ((with_reducible apply Within.after (State.setGal_within _ _ _)); case hq => rfl)
    | ((with_reducible apply Within.after (State.setCtx_within _ _ _)); case hq => rfl)
    | ((with_reducible apply Within.after (State.answer_within _ _ _ _)); case hq => rfl)
    | intro _
    | split
    | ((with_reducible apply Within.set_dev); (case hp => rfl); case hx => exact fun h => ⟨h.hops, h.tries, h.throt, h.pwr, h.pwrNew, h.cool⟩)

theorem State.holdReq_within (s : State) (r : MReq) :
    Within [.geode] s (State.holdReq s r) := by
  unfold State.holdReq
  repeat' first
    | (with_reducible exact Within.refl _ _)
    | ((with_reducible apply Within.after (State.setMbox_within _ _ _)); case hq => rfl)
    | split
    | ((with_reducible apply Within.set_geode); case hp => rfl)

theorem State.destroyWaiting_within (s : State) :
    Within [.mem, .hdrs, .dev, .geode, .galleries, .drips, .hostOut, .hostReq, .msix, .sideband, .freeCtr] s (State.destroyWaiting s) := by
  unfold State.destroyWaiting
  repeat' first
    | (with_reducible exact Within.refl _ _)
    | ((with_reducible apply Within.after (State.destroyCtx_within _ _ _)); case hq => rfl)
    | (with_reducible apply Within.foldl)
    | (with_reducible apply Within.foldl_fst)
    | intro _
    | split
    | ((with_reducible apply Within.set_geode); case hp => rfl)

theorem State.haltAll_within (s : State) :
    Within [.hdrs, .engines] s (State.haltAll s) := by
  unfold State.haltAll
  repeat' first
    | (with_reducible exact Within.refl _ _)
    | (with_reducible apply Within.each)
    | ((with_reducible apply Within.after (State.setHalt_within _ _ _)); case hq => rfl)
    | intro _

theorem State.zeroize_within (s : State) :
    Within [.mem, .ue, .geode, .journal, .lie, .flows, .drips, .engines] s (State.zeroize s) := by
  unfold State.zeroize
  repeat' first
    | (with_reducible exact Within.refl _ _)
    | intro _
    | dsimp only
    | ((with_reducible apply Within.of (t := s)); (case h' => intro p hn; cases p <;> first | exact absurd (by decide) hn | rfl); (case hm => first | exact id | exact memPut_wf _ _ | exact memClear_wf _ _ | exact fun _ => rfl); case hd => exact id)

theorem State.unlockFinish_within (s : State) :
    Within [.mem, .ue, .hdrs, .geode, .journal, .lie, .flows, .drips, .engines, .hostOut, .hostReq, .msix, .sideband, .freeCtr] s (State.unlockFinish s) := by
  unfold State.unlockFinish
  repeat' first
    | (with_reducible exact Within.refl _ _)
    | ((with_reducible apply Within.after (State.zeroize_within _)); case hq => rfl)
    | ((with_reducible apply Within.after (State.answer_within _ _ _ _)); case hq => rfl)
    | split
    | ((with_reducible apply Within.set_geode); case hp => rfl)

end Sys2Proof.Laws
end

