-- ==== Sys2Proof/Laws/FramesSideband.lean ====
section
/-! SUPPORT. What each operation of Machine/Sideband.lean may change: every part that is not listed stays. -/

namespace Sys2Proof.Laws

open Sys2Proof Sys2Proof.Machine

theorem Within.mctp {ps : List Part} {s t : State} {k : State → State} (hk : ∀ u, Within ps u (k u))
    (hq : (([.sideband] : List Part).all fun q => ps.contains q) = true) (h : Within ps s t) : Within ps s (t.mctp k) := by
  unfold State.mctp
  repeat' first
    | with_reducible exact h
    | (with_reducible exact Within.refl _ _)
    | exact h.trans (hk _)
    | split
    | ((with_reducible apply Within.set_sideband); case hp => simp_all)

theorem State.control_within (s : State) (cmd done : Byte) (data : Bytes) :
    Within [.sideband] s (State.control s cmd done data) := by
  unfold State.control
  repeat' first
    | (with_reducible exact Within.refl _ _)
    | ((with_reducible apply Within.set_sideband); case hp => rfl)

end Sys2Proof.Laws
end

