-- ==== Sys2Proof/Laws/FramesTapOps.lean ====
section
/-! SUPPORT. What each operation of Machine/TapOps.lean may change: every part that is not listed stays. -/

namespace Sys2Proof.Laws

open Sys2Proof Sys2Proof.Machine

theorem State.tapDo_within (s : State) (x : Tap) :
    Within [.tap] s (State.tapDo s x) := by
  unfold State.tapDo
  repeat' first
    | (with_reducible exact Within.refl _ _)
    | split
    | ((with_reducible apply Within.set_tap); case hp => rfl)

theorem State.boardTestDo_within (s : State) (x : Tap) :
    Within [.tap] s (State.boardTestDo s x) := by
  unfold State.boardTestDo
  repeat' first
    | (with_reducible exact Within.refl _ _)
    | ((with_reducible apply Within.after (State.tapDo_within _ _)); case hq => rfl)
    | split

end Sys2Proof.Laws
end

