-- ==== Sys2Proof/Laws/FramesBlocks.lean ====
section
/-! SUPPORT. What each operation of Machine/Blocks.lean may change: every part that is not listed stays. -/

namespace Sys2Proof.Laws

open Sys2Proof Sys2Proof.Machine

theorem State.startBlock_within (s : State) (p : Page) (en : Bool) :
    Within [.hdrs, .drips] s (State.startBlock s p en) := by
  unfold State.startBlock
  repeat' first
    | (with_reducible exact Within.refl _ _)
    | ((with_reducible apply Within.after (State.setHdr_within _ _ _)); case hq => rfl)
    | ((with_reducible apply Within.after (State.setDrip_within _ _ _)); case hq => rfl)
    | split

theorem State.enableBlock_within (s : State) (p : Page) :
    Within [.hdrs, .drips] s (State.enableBlock s p) := by
  unfold State.enableBlock
  repeat' first
    | (with_reducible exact Within.refl _ _)
    | ((with_reducible apply Within.after (State.startBlock_within _ _ _)); case hq => rfl)
    | ((with_reducible apply Within.after (State.setHdr_within _ _ _)); case hq => rfl)
    | split
    | dsimp only

theorem State.disableBlock_within (s : State) (p : Page) :
    Within [.hdrs, .msix, .freeCtr] s (State.disableBlock s p) := by
  unfold State.disableBlock
  repeat' first
    | (with_reducible exact Within.refl _ _)
    | ((with_reducible apply Within.after (State.refuse_within _ _ _)); case hq => rfl)
    | ((with_reducible apply Within.after (State.setHdr_within _ _ _)); case hq => rfl)
    | split
    | dsimp only

theorem Within.blkWrite {ps : List Part} {s t : State} {key : Nat} {k : State → Page → State} (hk : ∀ u p, Within ps u (k u p))
    (hq : (([.hdrs, .msix, .freeCtr] : List Part).all fun q => ps.contains q) = true) (h : Within ps s t) : Within ps s (t.blkWrite key k) := by
  unfold State.blkWrite
  repeat' first
    | with_reducible exact h
    | (with_reducible exact Within.refl _ _)
    | ((with_reducible apply Within.after (State.refuse_within _ _ _)); case hq => simp_all)
    | exact h.trans (hk _ _)
    | split

theorem State.haltBlock_within (s : State) (halt : Bool) (p : Page) :
    Within [.hdrs, .engines] s (State.haltBlock s halt p) := by
  unfold State.haltBlock
  repeat' first
    | (with_reducible exact Within.refl _ _)
    | ((with_reducible apply Within.after (State.setHalt_within _ _ _)); case hq => rfl)
    | split
    | dsimp only

theorem State.stopWork_within (s : State) (p : Page) :
    Within [.mem, .ue, .hdrs, .dev, .mgmtW, .mgmtE, .lie, .links, .bundles, .flows, .hbmcs, .drips, .helpers, .engines, .streams, .msgs, .hostOut, .hostReq, .msix, .freeCtr] s (State.stopWork s p) := by
  unfold State.stopWork
  repeat' first
    | (with_reducible exact Within.refl _ _)
    | ((with_reducible apply Within.after (State.dropMessages_within _ _)); case hq => rfl)
    | ((with_reducible apply Within.after (State.setEng_within _ _ _)); case hq => rfl)
    | ((with_reducible apply Within.after (State.dropAsm_within _ _)); case hq => rfl)
    | ((with_reducible apply Within.after (State.setDrip_within _ _ _)); case hq => rfl)
    | ((with_reducible apply Within.after (State.setHelper_within _ _ _)); case hq => rfl)
    | ((with_reducible apply Within.after (State.flushRun_within _ _ _ _ _)); case hq => rfl)
    | ((with_reducible apply Within.after (State.setHbmc_within _ _ _)); case hq => rfl)
    | ((with_reducible apply Within.after (State.linkStop_within _ _ _ _)); case hq => rfl)
    | ((with_reducible apply Within.after (State.lieAbortPut_within _)); case hq => rfl)
    | intro _
    | split

theorem State.startWork_within (s : State) (p : Page) :
    Within [.mem, .ue, .hdrs, .links, .flows, .hbmcs, .helpers, .msgs, .freeCtr] s (State.startWork s p) := by
  unfold State.startWork
  repeat' first
    | (with_reducible exact Within.refl _ _)
    | ((with_reducible apply Within.after (State.setHbmc_within _ _ _)); case hq => rfl)
    | ((with_reducible apply Within.after (State.train_within _ _ _)); case hq => rfl)
    | ((with_reducible apply Within.after (State.syncRings_within _ _)); case hq => rfl)
    | split

theorem State.startDone_within (s : State) (p : Page) :
    Within [.mem, .ue, .hdrs, .links, .flows, .hbmcs, .helpers, .msgs, .freeCtr] s (State.startDone s p) := by
  unfold State.startDone
  repeat' first
    | (with_reducible exact Within.refl _ _)
    | ((with_reducible apply Within.after (State.startWork_within _ _)); case hq => rfl)
    | ((with_reducible apply Within.after (State.setHdr_within _ _ _)); case hq => rfl)
    | split
    | dsimp only

theorem State.pendingStarts_within (s : State) :
    Within [.hdrs, .drips] s (State.pendingStarts s) := by
  unfold State.pendingStarts
  repeat' first
    | (with_reducible exact Within.refl _ _)
    | ((with_reducible apply Within.after (State.startBlock_within _ _ _)); case hq => rfl)
    | (with_reducible apply Within.foldl)
    | (with_reducible apply Within.foldl_fst)
    | intro _
    | split

theorem State.resetWork_within (s : State) (e : Nat) :
    Within [.mem, .ue, .hdrs, .dev, .mgmtW, .mgmtE, .journal, .fns, .flows, .hbmcs, .galleries, .drips, .helpers, .engines, .streams, .msgs, .freeCtr] s (State.resetWork s e) := by
  unfold State.resetWork
  repeat' first
    | (with_reducible exact Within.refl _ _)
    | ((with_reducible apply Within.after (State.redispatch_within _ _)); case hq => rfl)
    | ((with_reducible apply Within.after (State.resetUnit_within _ _)); case hq => rfl)
    | (with_reducible apply Within.foldl)
    | (with_reducible apply Within.foldl_fst)
    | intro _

theorem State.dropLines_within (s : State) (c : Nat) :
    Within [.mem, .ue] s (State.dropLines s c) := by
  unfold State.dropLines
  repeat' first
    | (with_reducible exact Within.refl _ _)
    | ((with_reducible apply Within.after (State.restoreShadow_within _ _ _)); case hq => rfl)
    | (with_reducible apply Within.foldl)
    | (with_reducible apply Within.foldl_fst)
    | intro _

theorem State.resetBlock_within (s : State) (p : Page) :
    Within [.mem, .ue, .hdrs, .dev, .geode, .mgmtW, .mgmtE, .journal, .lie, .fns, .links, .bundles, .caverns, .flows, .hbmcs, .galleries, .drips, .vecs, .helpers, .engines, .streams, .msgs, .msix, .freeCtr] s (State.resetBlock s p) := by
  cases p <;> dsimp only [State.resetBlock]
  case engine e => exact Within.after (State.setEng_within _ _ _) rfl ((State.resetWork_within s e).mono (by decide))
  case stream e => exact Within.after (State.setStrm_within _ _ _) rfl ((State.resetWork_within s e).mono (by decide))
  case drip g => exact Within.after (State.dropAsm_within _ _) rfl (Within.after (State.setDrip_within _ _ _) rfl ((State.countErrs_within _ _ _).mono (by decide)))
  case vec g => exact Within.after (State.setVec_within _ _ _) rfl ((State.resetEndpoint_within s _).mono (by decide))
  case helper n => exact Within.after (State.setHelper_within _ _ _) rfl ((State.resetEndpoint_within s _).mono (by decide))
  case msg ep => exact Within.after (State.setMsg_within _ _ _) rfl ((State.resetEndpoint_within s _).mono (by decide))
  case gallery g => exact (State.setGal_within _ _ _).mono (by decide)
  case flow c => exact Within.after (State.setFlow_within _ _ _) rfl ((State.dropLines_within s _).mono (by decide))
  case hbmc n => exact (State.setHbmc_within _ _ _).mono (by decide)
  case cavern c => exact (State.setCavern_within _ _ _).mono (by decide)
  case link n =>
    refine Within.after (State.setLink_within _ _ _) rfl ?_
    split
    · exact Within.refl _ _
    · exact (State.linkStop_within _ _ _ _).mono (by decide)
  case lie => exact Within.set_lie rfl (Within.refl _ _)
  case dev => exact Within.set_dev (fun _ => ⟨rangesOk_start.hops, rangesOk_start.tries, rangesOk_start.throt, rangesOk_start.pwr, rangesOk_start.pwrNew, rangesOk_start.cool⟩) rfl (Within.refl _ _)
  case geode => exact Within.set_geode rfl (Within.refl _ _)
  case mgmt c => exact (State.setMgmt_within _ _ _).mono (by decide)
  case journal => exact Within.set_journal rfl (Within.refl _ _)
  case pciep p f =>
    refine Within.after (State.setFn_within _ _ _ _) rfl (Within.each (fun u x => ?_) (Within.refl _ _))
    exact Within.after (State.putCq_within _ _ _ _ _) rfl ((State.putSq_within _ _ _ _ _).mono (by decide))

theorem State.rstBlock_within (s : State) (p : Page) :
    Within [.mem, .ue, .hdrs, .dev, .geode, .mgmtW, .mgmtE, .journal, .lie, .fns, .links, .bundles, .caverns, .flows, .hbmcs, .galleries, .drips, .vecs, .helpers, .engines, .streams, .msgs, .msix, .freeCtr] s (State.rstBlock s p) := by
  unfold State.rstBlock
  repeat' first
    | (with_reducible exact Within.refl _ _)
    | ((with_reducible apply Within.after (State.setHdr_within _ _ _)); case hq => rfl)
    | ((with_reducible apply Within.after (State.resetBlock_within _ _)); case hq => rfl)
    | ((with_reducible apply Within.after (State.startBlock_within _ _ _)); case hq => rfl)
    | split
    | dsimp only

end Sys2Proof.Laws
end

