-- ==== Sys2Proof/Laws/FramesPower.lean ====
section
/-! SUPPORT. What each operation of Machine/Power.lean may change: every part that is not listed stays. -/

namespace Sys2Proof.Laws

open Sys2Proof Sys2Proof.Machine

theorem State.dripsStart_within (s : State) :
    Within [.hdrs, .drips] s (State.dripsStart s) := by
  unfold State.dripsStart
  repeat' first
    | (with_reducible exact Within.refl _ _)
    | (with_reducible apply Within.each)
    | ((with_reducible apply Within.after (State.setHdr_within _ _ _)); case hq => rfl)
    | ((with_reducible apply Within.after (State.setDrip_within _ _ _)); case hq => rfl)
    | intro _

theorem State.islandsStart_within (s : State) :
    Within [.hdrs, .cycles, .drips] s (State.islandsStart s) := by
  unfold State.islandsStart
  repeat' first
    | (with_reducible exact Within.refl _ _)
    | ((with_reducible apply Within.after (State.dripsStart_within _)); case hq => rfl)
    | dsimp only
    | ((with_reducible apply Within.of (t := s)); (case h' => intro p hn; cases p <;> first | exact absurd (by decide) hn | rfl); (case hm => exact id); case hd => exact id)

theorem State.recordElapsed_within (s : State) :
    Within [.mem, .ue, .hdrs, .journal, .flows, .hbmcs, .helpers] s (State.recordElapsed s) := by
  unfold State.recordElapsed
  repeat' first
    | (with_reducible exact Within.refl _ _)
    | ((with_reducible apply Within.after (State.putSlot_within _ _ _)); case hq => rfl)
    | (with_reducible apply Within.foldl)
    | (with_reducible apply Within.foldl_fst)
    | intro _

theorem State.warmEntry_within (s : State) :
    Within [.mem, .ue, .hdrs, .dev, .journal, .flows, .hbmcs, .galleries, .drips, .helpers, .engines, .streams, .msgs, .freeCtr] s (State.warmEntry s) := by
  unfold State.warmEntry
  repeat' first
    | (with_reducible exact Within.refl _ _)
    | ((with_reducible apply Within.after (State.recordElapsed_within _)); case hq => rfl)
    | (with_reducible apply Within.each)
    | ((with_reducible apply Within.after (State.resetUnit_within _ _)); case hq => rfl)
    | ((with_reducible apply Within.after (State.flushRun_within _ _ _ _ _)); case hq => rfl)
    | ((with_reducible apply Within.after (State.setHbmc_within _ _ _)); case hq => rfl)
    | intro _
    | ((with_reducible apply Within.set_journal); case hp => rfl)

theorem State.holdReset_within (s : State) :
    Within [.hdrs, .dev, .geode, .mgmtW, .mgmtE, .journal, .lie, .ports, .fns, .links, .bundles, .caverns, .flows, .hbmcs, .galleries, .drips, .vecs, .helpers, .engines, .streams, .msgs] s (State.holdReset s) := by
  unfold State.holdReset
  repeat' first
    | (with_reducible exact Within.refl _ _)
    | intro _
    | dsimp only
    | ((with_reducible apply Within.of (t := s)); (case h' => intro p hn; cases p <;> first | exact absurd (by decide) hn | rfl); (case hm => exact id); case hd => first | exact id | exact fun h => ⟨h.hops, h.tries, h.throt, h.pwr, h.pwrNew, h.cool⟩)

theorem State.unlockResume_within (s : State) :
    Within [.mem, .ue, .dev, .geode, .journal, .lie, .flows, .drips, .engines] s (State.unlockResume s) := by
  unfold State.unlockResume
  dsimp only
  refine Within.of (t := s.zeroize) (fun p hn => ?_) id (fun h => ⟨h.hops, h.tries, h.throt, h.pwr, h.pwrNew, h.cool⟩) ((State.zeroize_within s).mono (by decide))
  cases p <;> first | exact absurd (by decide) hn | rfl

theorem State.portTrain_within (s : State) (p : Nat) (up : Bool) (x : Port) :
    Within [.ports, .freeCtr] s (State.portTrain s p up x) := by
  unfold State.portTrain
  repeat' first
    | (with_reducible exact Within.refl _ _)
    | ((with_reducible apply Within.after (State.drawn_within _)); case hq => rfl)
    | ((with_reducible apply Within.after (State.setPort_within _ _ _)); case hq => rfl)

theorem State.portsTrain_within (s : State) :
    Within [.ports, .freeCtr] s (State.portsTrain s) := by
  unfold State.portsTrain
  repeat' first
    | (with_reducible exact Within.refl _ _)
    | (with_reducible apply Within.each)
    | ((with_reducible apply Within.after (State.portTrain_within _ _ _ _)); case hq => rfl)
    | intro _

theorem State.linksTrain_within (s : State) :
    Within [.links, .freeCtr] s (State.linksTrain s) := by
  unfold State.linksTrain
  repeat' first
    | (with_reducible exact Within.refl _ _)
    | (with_reducible apply Within.each)
    | ((with_reducible apply Within.after (State.train_within _ _ _)); case hq => rfl)
    | intro _
    | split

theorem State.hbmTrain_within (s : State) :
    Within [.hbmcs] s (State.hbmTrain s) := by
  unfold State.hbmTrain
  repeat' first
    | (with_reducible exact Within.refl _ _)
    | intro _
    | ((with_reducible apply Within.set_hbmcs); case hp => rfl)

theorem State.regrant_within (s : State) :
    Within [.geode, .mgmtW, .mgmtE] s (State.regrant s) := by
  unfold State.regrant
  repeat' first
    | (with_reducible exact Within.refl _ _)
    | ((with_reducible apply Within.after (State.grant_within _ _)); case hq => rfl)
    | split
    | ((with_reducible apply Within.set_mgmtW); case hp => rfl)
    | dsimp only
    | ((with_reducible apply Within.of (t := s)); (case h' => intro p hn; cases p <;> first | exact absurd (by decide) hn | rfl); (case hm => exact id); case hd => exact id)

theorem State.coldState_within (s : State) (g : Geode) (pins : Pins) :
    Within [.mem, .ue, .hdrs, .cycles, .dev, .geode, .mgmtW, .mgmtE, .journal, .lie, .ports, .fns, .links, .bundles, .caverns, .flows, .hbmcs, .galleries, .drips, .vecs, .helpers, .engines, .streams, .msgs, .pins, .hostReq, .outs] s (State.coldState s g pins) := by
  unfold State.coldState
  refine Within.of (t := s) (fun p hn => ?_) (fun _ => rfl) (fun _ => ⟨rangesOk_start.hops, rangesOk_start.tries, rangesOk_start.throt, rangesOk_start.pwr, rangesOk_start.pwrNew, rangesOk_start.cool⟩) (Within.refl _ _)
  cases p <;> first | exact absurd (by decide) hn | rfl

theorem State.darken_within (s : State) :
    Within [.hdrs, .ports] s (State.darken s) := by
  unfold State.darken
  repeat' first
    | (with_reducible exact Within.refl _ _)
    | intro _
    | dsimp only
    | ((with_reducible apply Within.of (t := s)); (case h' => intro p hn; cases p <;> first | exact absurd (by decide) hn | rfl); (case hm => exact id); case hd => exact id)

theorem State.bootFails_within (s : State) :
    Within [.mem, .ue, .hdrs, .cycles, .dev, .geode, .mgmtW, .mgmtE, .journal, .lie, .ports, .fns, .links, .bundles, .caverns, .flows, .hbmcs, .galleries, .drips, .vecs, .helpers, .engines, .streams, .msgs, .pins, .hostReq, .freeCtr, .outs] s (State.bootFails s) := by
  unfold State.bootFails
  repeat' first
    | (with_reducible exact Within.refl _ _)
    | ((with_reducible apply Within.after (State.darken_within _)); case hq => rfl)
    | ((with_reducible apply Within.after (State.portsTrain_within _)); case hq => rfl)
    | ((with_reducible apply Within.after (State.dripsStart_within _)); case hq => rfl)
    | ((with_reducible apply Within.after (State.coldState_within _ _ _)); case hq => rfl)
    | ((with_reducible apply Within.after (State.controllerLost_within _ _)); case hq => rfl)
    | ((with_reducible apply Within.after (State.grant_within _ _)); case hq => rfl)
    | split
    | ((with_reducible apply Within.set_geode); case hp => rfl)

theorem State.evaluate_within (s : State) (w : Nat → Nat) :
    Within [.caverns] s (State.evaluate s w) := by
  unfold State.evaluate
  repeat' first
    | (with_reducible exact Within.refl _ _)
    | ((with_reducible apply Within.after (State.setCavern_within _ _ _)); case hq => rfl)
    | intro _
    | split
    | dsimp only

theorem State.coolTo_within (s : State) (c k : Nat) :
    Within [.dev, .mgmtW, .mgmtE, .caverns, .freeCtr] s (State.coolTo s c k) := by
  unfold State.coolTo
  repeat' first
    | (with_reducible exact Within.refl _ _)
    | ((with_reducible apply Within.after (State.setCavern_within _ _ _)); case hq => rfl)
    | ((with_reducible apply Within.after (State.drawn_within _)); case hq => rfl)
    | ((with_reducible apply Within.after (State.logErr_within _ _)); case hq => rfl)
    | split
    | dsimp only

theorem State.coolAll_within (s : State) :
    Within [.dev, .mgmtW, .mgmtE, .caverns, .freeCtr] s (State.coolAll s) := by
  unfold State.coolAll
  repeat' first
    | (with_reducible exact Within.refl _ _)
    | (with_reducible apply Within.each)
    | ((with_reducible apply Within.after (State.coolTo_within _ _ _)); case hq => rfl)
    | intro _

theorem State.setTemp_within (s : State) (die : Nat) (t : Word16) :
    Within [.dev] s (State.setTemp s die t) := by
  unfold State.setTemp
  repeat' first
    | (with_reducible exact Within.refl _ _)
    | ((with_reducible apply Within.set_dev); (case hp => rfl); case hx => exact fun h => ⟨h.hops, h.tries, h.throt, h.pwr, h.pwrNew, h.cool⟩)

theorem State.setHbmTemp_within (s : State) (n : Nat) (t : Word16) :
    Within [.dev] s (State.setHbmTemp s n t) := by
  unfold State.setHbmTemp
  repeat' first
    | (with_reducible exact Within.refl _ _)
    | ((with_reducible apply Within.set_dev); (case hp => rfl); case hx => exact fun h => ⟨h.hops, h.tries, h.throt, h.pwr, h.pwrNew, h.cool⟩)

end Sys2Proof.Laws
end

