-- ==== Sys2Proof/Laws/FramesRegMap.lean ====
section
/-! SUPPORT. What each operation of Machine/RegMap.lean may change: every part that is not listed stays. -/

namespace Sys2Proof.Laws

open Sys2Proof Sys2Proof.Machine

theorem State.clearRc_within (s : State) (p : Page) (o : Nat) :
    Within [.mgmtW, .mgmtE, .links, .caverns, .galleries, .msgs, .freeCtr] s (State.clearRc s p o) := by
  unfold State.clearRc
  repeat' first
    | (with_reducible exact Within.refl _ _)
    | ((with_reducible apply Within.after (State.setCavern_within _ _ _)); case hq => rfl)
    | ((with_reducible apply Within.after (State.setGal_within _ _ _)); case hq => rfl)
    | ((with_reducible apply Within.after (State.setMgmt_within _ _ _)); case hq => rfl)
    | ((with_reducible apply Within.after (State.setLink_within _ _ _)); case hq => rfl)
    | ((with_reducible apply Within.after (State.setMsg_within _ _ _)); case hq => rfl)
    | ((with_reducible apply Within.after (State.drawn_within _)); case hq => rfl)
    | split

theorem State.bar0Read_within (s : State) (port fn off size : Nat) :
    Within [.hdrs, .mgmtW, .mgmtE, .links, .caverns, .galleries, .msgs, .msix, .lastRead, .freeCtr] s (State.bar0Read s port fn off size) := by
  unfold State.bar0Read
  repeat' first
    | (with_reducible exact Within.refl _ _)
    | ((with_reducible apply Within.after (State.refuse_within _ _ _)); case hq => rfl)
    | ((with_reducible apply Within.after (State.dbgRead_within _ _ _ _)); case hq => rfl)
    | ((with_reducible apply Within.after (State.clearRc_within _ _ _)); case hq => rfl)
    | split
    | ((with_reducible apply Within.set_lastRead); case hp => rfl)

end Sys2Proof.Laws
end

