-- ==== Sys2Proof/Laws/FramesRegs.lean ====
section
/-! SUPPORT. What each operation of Machine/Regs.lean may change: every part that is not listed stays. -/

namespace Sys2Proof.Laws

open Sys2Proof Sys2Proof.Machine

theorem State.blkCtlPut_within (s : State) (p : Page) (v : Nat) :
    Within [.mem, .ue, .hdrs, .dev, .geode, .mgmtW, .mgmtE, .journal, .lie, .fns, .links, .bundles, .caverns, .flows, .hbmcs, .galleries, .drips, .vecs, .helpers, .engines, .streams, .msgs, .msix, .freeCtr] s (State.blkCtlPut s p v) := by
  unfold State.blkCtlPut
  repeat' first
    | (with_reducible exact Within.refl _ _)
    | ((with_reducible apply Within.after (State.haltBlock_within _ _ _)); case hq => rfl)
    | ((with_reducible apply Within.after (State.enableBlock_within _ _)); case hq => rfl)
    | ((with_reducible apply Within.after (State.disableBlock_within _ _)); case hq => rfl)
    | ((with_reducible apply Within.after (State.rstBlock_within _ _)); case hq => rfl)
    | split

theorem State.cntSelPut_within (s : State) (p : Page) (n : Nat) (v : Word32) :
    Within [.hdrs] s (State.cntSelPut s p n v) := by
  unfold State.cntSelPut
  repeat' first
    | (with_reducible exact Within.refl _ _)
    | ((with_reducible apply Within.after (State.setHdr_within _ _ _)); case hq => rfl)

theorem State.hdrPut_within (s : State) (p : Page) (o : Nat) (v : Word32) :
    Within [.mem, .ue, .hdrs, .dev, .geode, .mgmtW, .mgmtE, .journal, .lie, .fns, .links, .bundles, .caverns, .flows, .hbmcs, .galleries, .drips, .vecs, .helpers, .engines, .streams, .msgs, .msix, .freeCtr] s (State.hdrPut s p o v) := by
  unfold State.hdrPut
  repeat' first
    | (with_reducible exact Within.refl _ _)
    | ((with_reducible apply Within.after (State.blkCtlPut_within _ _ _)); case hq => rfl)
    | ((with_reducible apply Within.after (State.putHdr_within _ _ _)); case hq => rfl)
    | ((with_reducible apply Within.after (State.setHdr_within _ _ _)); case hq => rfl)
    | ((with_reducible apply Within.after (State.cntSelPut_within _ _ _ _)); case hq => rfl)
    | split
    | dsimp only

theorem Within.aligned {ps : List Part} {s t : State} {p : Page} {v : Word64} {n : Nat} {u : State} (hu : Within ps s u)
    (hq : (([.hdrs, .msix, .freeCtr] : List Part).all fun q => ps.contains q) = true) (h : Within ps s t) : Within ps s (t.aligned p v n u) := by
  unfold State.aligned
  repeat' first
    | with_reducible exact h
    | with_reducible exact hu
    | split
    | ((with_reducible apply Within.after (State.refuse_within _ _ _)); case hq => simp_all)

theorem Within.inRange {ps : List Part} {s t : State} {v lo hi : Nat} {u : State} (hu : lo ≤ v → v ≤ hi → Within ps s u)
    (hq : (([.hdrs, .msix, .freeCtr] : List Part).all fun q => ps.contains q) = true) (h : Within ps s t) : Within ps s (t.inRange v lo hi u) := by
  unfold State.inRange
  repeat' first
    | with_reducible exact h
    | (rename_i hr; exact hu hr.1 hr.2)
    | split
    | ((with_reducible apply Within.after (State.refuse_within _ _ _)); case hq => simp_all)

theorem Within.withDev {ps : List Part} {s t : State} {f : Dev → Dev} (hf : RangesOk t.dev → RangesOk (f t.dev))
    (hq : (([.dev] : List Part).all fun q => ps.contains q) = true) (h : Within ps s t) : Within ps s (t.withDev f) := by
  unfold State.withDev
  exact Within.set_dev hf (by simp_all) h

theorem State.pwrLimitPut_within (s : State) (v : Nat) :
    Within [.hdrs, .dev, .msix, .freeCtr] s (State.pwrLimitPut s v) := by
  unfold State.pwrLimitPut
  refine Within.inRange (fun hl hh => Within.withDev (fun h => ?_) rfl (Within.refl _ _)) rfl (Within.refl _ _)
  split
  · exact ⟨h.hops, h.tries, h.throt, h.pwr, fun w hw => by cases hw; exact ⟨hl, hh⟩, h.cool⟩
  · exact ⟨h.hops, h.tries, h.throt, .inr ⟨hl, hh⟩, h.pwrNew, h.cool⟩

theorem State.winCtlPut_within (s : State) (v : Nat) :
    Within [.mem, .ue, .hdrs, .dev, .flows, .hbmcs, .msix] s (State.winCtlPut s v) := by
  unfold State.winCtlPut
  repeat' first
    | (with_reducible exact Within.refl _ _)
    | ((with_reducible apply Within.after (State.winOpen_within _ _)); case hq => rfl)
    | ((with_reducible apply Within.after (State.winClose_within _ _)); case hq => rfl)
    | split

theorem State.putDev_within (s : State) (o : Nat) (v : Word64) :
    Within [.mem, .ue, .hdrs, .dev, .geode, .mgmtW, .mgmtE, .flows, .hbmcs, .msix, .freeCtr] s (State.putDev s o v) := by
  unfold State.putDev
  repeat' first
    | (with_reducible exact Within.refl _ _)
    | ((with_reducible apply Within.aligned); case hq => rfl)
    | ((with_reducible apply Within.withDev); case hq => rfl)
    | ((with_reducible apply Within.after (State.chainSet_within _ _)); case hq => rfl)
    | ((with_reducible apply Within.after (State.chainClr_within _ _)); case hq => rfl)
    | ((with_reducible apply Within.after (State.tlbInvPut_within _ _)); case hq => rfl)
    | ((with_reducible apply Within.after (State.winCtlPut_within _ _)); case hq => rfl)
    | ((with_reducible apply Within.after (State.devIdPut_within _ _)); case hq => rfl)
    | ((with_reducible apply Within.inRange); case hq => rfl)
    | ((with_reducible apply Within.after (State.routeSetPut_within _ _)); case hq => rfl)
    | ((with_reducible apply Within.after (State.epochResolvePut_within _ _)); case hq => rfl)
    | ((with_reducible apply Within.after (State.pwrLimitPut_within _ _)); case hq => rfl)
    | exact fun h => ⟨by first | exact h.hops | (constructor <;> assumption), by first | exact h.tries | (constructor <;> assumption), by first | exact h.throt | (constructor <;> assumption), h.pwr, h.pwrNew, by first | exact h.cool | (right; constructor <;> assumption)⟩
    | (with_reducible apply Within.foldl)
    | (with_reducible apply Within.foldl_fst)
    | intro _
    | split

theorem State.mailGo_within (s : State) (p : Nat) :
    Within [.hdrs, .geode, .hostOut, .hostReq, .msix, .freeCtr] s (State.mailGo s p) := by
  unfold State.mailGo
  repeat' first
    | (with_reducible exact Within.refl _ _)
    | ((with_reducible apply Within.after (State.drawn_within _)); case hq => rfl)
    | ((with_reducible apply Within.after (State.raise_within _ _ _)); case hq => rfl)
    | ((with_reducible apply Within.after (State.setMbox_within _ _ _)); case hq => rfl)
    | ((with_reducible apply Within.after (State.hostPut_within _ _ _ _ _)); case hq => rfl)
    | split
    | dsimp only

theorem State.putGeode_within (s : State) (o : Nat) (v : Word64) :
    Within [.hdrs, .geode, .hostOut, .hostReq, .msix, .freeCtr] s (State.putGeode s o v) := by
  unfold State.putGeode
  repeat' first
    | (with_reducible exact Within.refl _ _)
    | ((with_reducible apply Within.aligned); case hq => rfl)
    | ((with_reducible apply Within.after (State.setMbox_within _ _ _)); case hq => rfl)
    | ((with_reducible apply Within.after (State.mailGo_within _ _)); case hq => rfl)
    | intro _
    | split

theorem State.resolvePut_within (s : State) (c : Ctl) (n : Nat) :
    Within [.mem, .ue, .hdrs, .dev, .mgmtW, .mgmtE, .journal, .fns, .links, .bundles, .flows, .hbmcs, .galleries, .drips, .helpers, .engines, .streams, .msgs, .hostOut, .hostReq, .msix, .freeCtr, .outs] s (State.resolvePut s c n) := by
  unfold State.resolvePut
  repeat' first
    | (with_reducible exact Within.refl _ _)
    | ((with_reducible apply Within.resolveItem); case hq => rfl)
    | ((with_reducible apply Within.after (State.keepCopy_within _ _ _)); case hq => rfl)
    | ((with_reducible apply Within.after (State.discardItem_within _ _)); case hq => rfl)
    | ((with_reducible apply Within.after (State.refuse_within _ _ _)); case hq => rfl)
    | intro _
    | split

theorem State.putMgmt_within (s : State) (c : Ctl) (o : Nat) (v : Word64) :
    Within [.mem, .ue, .hdrs, .dev, .mgmtW, .mgmtE, .journal, .fns, .links, .bundles, .flows, .hbmcs, .galleries, .drips, .helpers, .engines, .streams, .msgs, .hostOut, .hostReq, .msix, .freeCtr, .outs] s (State.putMgmt s c o v) := by
  unfold State.putMgmt
  repeat' first
    | (with_reducible exact Within.refl _ _)
    | ((with_reducible apply Within.after (State.refuse_within _ _ _)); case hq => rfl)
    | ((with_reducible apply Within.aligned); case hq => rfl)
    | ((with_reducible apply Within.after (State.setMgmt_within _ _ _)); case hq => rfl)
    | ((with_reducible apply Within.after (State.erqCtl_within _ _ _)); case hq => rfl)
    | ((with_reducible apply Within.after (State.erqHeadPut_within _ _ _)); case hq => rfl)
    | ((with_reducible apply Within.after (State.cmdAbort_within _ _ _)); case hq => rfl)
    | ((with_reducible apply Within.after (State.resolvePut_within _ _ _)); case hq => rfl)
    | intro _
    | split
    | dsimp only

theorem State.putJournal_within (s : State) (port o : Nat) (v : Word64) :
    Within [.mem, .ue, .hdrs, .journal, .fns, .flows, .hbmcs, .helpers, .msix, .freeCtr] s (State.putJournal s port o v) := by
  unfold State.putJournal
  repeat' first
    | (with_reducible exact Within.refl _ _)
    | ((with_reducible apply Within.after (State.refuse_within _ _ _)); case hq => rfl)
    | ((with_reducible apply Within.after (State.journalCtl_within _ _)); case hq => rfl)
    | ((with_reducible apply Within.after (State.qringPut_within _ _)); case hq => rfl)
    | ((with_reducible apply Within.after (State.takeoverPut_within _ _ _)); case hq => rfl)
    | split
    | ((with_reducible apply Within.set_journal); case hp => rfl)

theorem State.lieCtlPut_within (s : State) (port n : Nat) :
    Within [.hdrs, .lie, .hostOut, .hostReq, .msix, .freeCtr] s (State.lieCtlPut s port n) := by
  unfold State.lieCtlPut
  repeat' first
    | (with_reducible exact Within.refl _ _)
    | ((with_reducible apply Within.after (State.lieAbortPut_within _)); case hq => rfl)
    | ((with_reducible apply Within.after (State.goFree_within _ _)); case hq => rfl)
    | split

theorem State.putLie_within (s : State) (port o : Nat) (v : Word64) :
    Within [.hdrs, .lie, .hostOut, .hostReq, .msix, .freeCtr] s (State.putLie s port o v) := by
  unfold State.putLie
  repeat' first
    | (with_reducible exact Within.refl _ _)
    | ((with_reducible apply Within.after (State.lieCtlPut_within _ _ _)); case hq => rfl)
    | ((with_reducible apply Within.after (State.refuse_within _ _ _)); case hq => rfl)
    | ((with_reducible apply Within.aligned); case hq => rfl)
    | intro _
    | split
    | ((with_reducible apply Within.set_lie); case hp => rfl)

theorem State.putSqReg_within (s : State) (p f n o : Nat) (v : Word64) :
    Within [.hdrs, .journal, .fns, .msix, .freeCtr] s (State.putSqReg s p f n o v) := by
  unfold State.putSqReg
  repeat' first
    | (with_reducible exact Within.refl _ _)
    | ((with_reducible apply Within.after (State.refuse_within _ _ _)); case hq => rfl)
    | ((with_reducible apply Within.aligned); case hq => rfl)
    | ((with_reducible apply Within.after (State.putSq_within _ _ _ _ _)); case hq => rfl)
    | ((with_reducible apply Within.after (State.sqCtl_within _ _ _ _ _)); case hq => rfl)
    | intro _
    | split
    | dsimp only

theorem State.putCqReg_within (s : State) (p f n o : Nat) (v : Word64) :
    Within [.hdrs, .journal, .fns, .msix, .freeCtr] s (State.putCqReg s p f n o v) := by
  unfold State.putCqReg
  repeat' first
    | (with_reducible exact Within.refl _ _)
    | ((with_reducible apply Within.aligned); case hq => rfl)
    | ((with_reducible apply Within.after (State.putCq_within _ _ _ _ _)); case hq => rfl)
    | ((with_reducible apply Within.after (State.cqCtl_within _ _ _ _ _)); case hq => rfl)
    | intro _
    | split

theorem State.putPciep_within (s : State) (p f o : Nat) (v : Word64) :
    Within [.hdrs, .journal, .ports, .fns, .msix, .freeCtr] s (State.putPciep s p f o v) := by
  unfold State.putPciep
  repeat' first
    | (with_reducible exact Within.refl _ _)
    | ((with_reducible apply Within.after (State.putCqReg_within _ _ _ _ _ _)); case hq => rfl)
    | ((with_reducible apply Within.after (State.putSqReg_within _ _ _ _ _ _)); case hq => rfl)
    | ((with_reducible apply Within.after (State.setPort_within _ _ _)); case hq => rfl)
    | ((with_reducible apply Within.after (State.setFn_within _ _ _ _)); case hq => rfl)
    | ((with_reducible apply Within.aligned); case hq => rfl)
    | intro _
    | split

theorem State.putLink_within (s : State) (n o : Nat) (v : Word64) :
    Within [.hdrs, .dev, .mgmtW, .mgmtE, .links, .bundles, .msix, .freeCtr] s (State.putLink s n o v) := by
  unfold State.putLink
  repeat' first
    | (with_reducible exact Within.refl _ _)
    | ((with_reducible apply Within.after (State.linkCtlPut_within _ _ _)); case hq => rfl)
    | ((with_reducible apply Within.aligned); case hq => rfl)
    | ((with_reducible apply Within.after (State.setLink_within _ _ _)); case hq => rfl)
    | intro _
    | split

theorem State.putGallery_within (s : State) (port fn g o : Nat) (v : Word64) :
    Within [.mem, .ue, .hdrs, .dev, .flows, .hbmcs, .galleries, .drips, .helpers, .engines, .streams, .msgs, .msix, .freeCtr] s (State.putGallery s port fn g o v) := by
  unfold State.putGallery
  repeat' first
    | (with_reducible exact Within.refl _ _)
    | ((with_reducible apply Within.after (State.handlePut_within _ _ _ _ _ _)); case hq => rfl)
    | ((with_reducible apply Within.after (State.hsigPut_within _ _ _ _ _)); case hq => rfl)
    | ((with_reducible apply Within.after (State.engRetestPut_within _ _ _)); case hq => rfl)
    | split

theorem State.putDrip_within (s : State) (g o : Nat) (v : Word64) :
    Within [.hdrs, .drips, .msix, .freeCtr] s (State.putDrip s g o v) := by
  unfold State.putDrip
  repeat' first
    | (with_reducible exact Within.refl _ _)
    | ((with_reducible apply Within.after (State.coreEnPut_within _ _ _)); case hq => rfl)
    | ((with_reducible apply Within.after (State.setDrip_within _ _ _)); case hq => rfl)
    | ((with_reducible apply Within.after (State.dripTest_within _ _)); case hq => rfl)
    | split

theorem State.putVec_within (s : State) (g o : Nat) (v : Word64) :
    Within [.vecs] s (State.putVec s g o v) := by
  unfold State.putVec
  repeat' first
    | (with_reducible exact Within.refl _ _)
    | ((with_reducible apply Within.after (State.setVec_within _ _ _)); case hq => rfl)
    | split

theorem State.putHelper_within (s : State) (h o : Nat) (v : Word64) :
    Within [.mem, .ue, .hdrs, .flows, .hbmcs, .helpers, .engines, .msgs, .msix, .freeCtr] s (State.putHelper s h o v) := by
  unfold State.putHelper
  repeat' first
    | (with_reducible exact Within.refl _ _)
    | ((with_reducible apply Within.after (State.helperCtl_within _ _ _)); case hq => rfl)
    | ((with_reducible apply Within.after (State.helperTenantPut_within _ _ _)); case hq => rfl)
    | ((with_reducible apply Within.after (State.setHelper_within _ _ _)); case hq => rfl)
    | split

theorem State.saveCtlPut_within (s : State) (e n : Nat) :
    Within [.mem, .ue, .hdrs, .flows, .hbmcs, .galleries, .drips, .engines, .streams, .msix, .freeCtr] s (State.saveCtlPut s e n) := by
  unfold State.saveCtlPut
  repeat' first
    | (with_reducible exact Within.refl _ _)
    | ((with_reducible apply Within.after (State.refuse_within _ _ _)); case hq => rfl)
    | ((with_reducible apply Within.after (State.saveWrite_within _ _)); case hq => rfl)
    | ((with_reducible apply Within.after (State.restoreWrite_within _ _)); case hq => rfl)
    | split

theorem State.putEngine_within (s : State) (e o : Nat) (v : Word64) :
    Within [.mem, .ue, .hdrs, .dev, .flows, .hbmcs, .galleries, .drips, .helpers, .engines, .streams, .msgs, .msix, .freeCtr] s (State.putEngine s e o v) := by
  unfold State.putEngine
  repeat' first
    | (with_reducible exact Within.refl _ _)
    | ((with_reducible apply Within.after (State.tileCfgPut_within _ _ _ _)); case hq => rfl)
    | ((with_reducible apply Within.after (State.setEng_within _ _ _)); case hq => rfl)
    | ((with_reducible apply Within.after (State.startWrite_within _ _ _)); case hq => rfl)
    | ((with_reducible apply Within.after (State.engTenantPut_within _ _ _)); case hq => rfl)
    | ((with_reducible apply Within.after (State.stopCntPut_within _ _ _)); case hq => rfl)
    | ((with_reducible apply Within.after (State.rndSeedPut_within _ _ _)); case hq => rfl)
    | ((with_reducible apply Within.aligned); case hq => rfl)
    | ((with_reducible apply Within.after (State.saveCtlPut_within _ _ _)); case hq => rfl)
    | intro _
    | split

theorem State.putStream_within (s : State) (e o : Nat) (v : Word64) :
    Within [.mem, .ue, .hdrs, .flows, .hbmcs, .galleries, .helpers, .engines, .streams, .msix, .freeCtr, .outs] s (State.putStream s e o v) := by
  unfold State.putStream
  repeat' first
    | (with_reducible exact Within.refl _ _)
    | ((with_reducible apply Within.after (State.setStrm_within _ _ _)); case hq => rfl)
    | ((with_reducible apply Within.after (State.entCtl_within _ _ _ _)); case hq => rfl)
    | split

theorem State.putMsg_within (s : State) (ep o : Nat) (v : Word64) :
    Within [.mem, .ue, .hdrs, .flows, .hbmcs, .helpers, .msgs, .msix, .freeCtr] s (State.putMsg s ep o v) := by
  unfold State.putMsg
  repeat' first
    | (with_reducible exact Within.refl _ _)
    | ((with_reducible apply Within.after (State.routeEntryPut_within _ _ _ _)); case hq => rfl)
    | ((with_reducible apply Within.after (State.ringPutReg_within _ _ _ _)); case hq => rfl)
    | ((with_reducible apply Within.after (State.setMsg_within _ _ _)); case hq => rfl)
    | split

theorem State.putReg_within (s : State) (port fn : Nat) (p : Page) (o : Nat) (v : Word64) :
    Within [.mem, .ue, .hdrs, .dev, .geode, .mgmtW, .mgmtE, .journal, .lie, .ports, .fns, .links, .bundles, .flows, .hbmcs, .galleries, .drips, .vecs, .helpers, .engines, .streams, .msgs, .hostOut, .hostReq, .msix, .freeCtr, .outs] s (State.putReg s port fn p o v) := by
  unfold State.putReg
  repeat' first
    | (with_reducible exact Within.refl _ _)
    | ((with_reducible apply Within.after (State.putDev_within _ _ _)); case hq => rfl)
    | ((with_reducible apply Within.after (State.putGeode_within _ _ _)); case hq => rfl)
    | ((with_reducible apply Within.after (State.putMgmt_within _ _ _ _)); case hq => rfl)
    | ((with_reducible apply Within.after (State.putJournal_within _ _ _ _)); case hq => rfl)
    | ((with_reducible apply Within.after (State.putLie_within _ _ _ _)); case hq => rfl)
    | ((with_reducible apply Within.after (State.putPciep_within _ _ _ _ _)); case hq => rfl)
    | ((with_reducible apply Within.after (State.putLink_within _ _ _ _)); case hq => rfl)
    | ((with_reducible apply Within.after (State.setFlow_within _ _ _)); case hq => rfl)
    | ((with_reducible apply Within.after (State.flushPut_within _ _ _)); case hq => rfl)
    | ((with_reducible apply Within.after (State.setHbmc_within _ _ _)); case hq => rfl)
    | ((with_reducible apply Within.after (State.putGallery_within _ _ _ _ _ _)); case hq => rfl)
    | ((with_reducible apply Within.after (State.putDrip_within _ _ _ _)); case hq => rfl)
    | ((with_reducible apply Within.after (State.putVec_within _ _ _ _)); case hq => rfl)
    | ((with_reducible apply Within.after (State.putHelper_within _ _ _ _)); case hq => rfl)
    | ((with_reducible apply Within.after (State.putEngine_within _ _ _ _)); case hq => rfl)
    | ((with_reducible apply Within.after (State.putStream_within _ _ _ _)); case hq => rfl)
    | ((with_reducible apply Within.after (State.putMsg_within _ _ _ _)); case hq => rfl)
    | split

theorem State.ownerPut_within (s : State) (port fn : Nat) (p : Page) (o : Nat) (v : Word64) :
    Within [.mem, .ue, .hdrs, .dev, .geode, .mgmtW, .mgmtE, .journal, .lie, .ports, .fns, .links, .bundles, .caverns, .flows, .hbmcs, .galleries, .drips, .vecs, .helpers, .engines, .streams, .msgs, .hostOut, .hostReq, .msix, .freeCtr, .outs] s (State.ownerPut s port fn p o v) := by
  unfold State.ownerPut
  repeat' first
    | (with_reducible exact Within.refl _ _)
    | ((with_reducible apply Within.after (State.refuse_within _ _ _)); case hq => rfl)
    | ((with_reducible apply Within.after (State.hdrPut_within _ _ _ _)); case hq => rfl)
    | ((with_reducible apply Within.after (State.putReg_within _ _ _ _ _ _)); case hq => rfl)
    | split

theorem Within.bar0Put {ps : List Part} {s t : State} {a : Access} {sent : State → Page → State} (hk : ∀ u p, Within ps u (sent u p))
    (hq : (([.mem, .ue, .hdrs, .dev, .geode, .mgmtW, .mgmtE, .journal, .lie, .ports, .fns, .links, .bundles, .caverns, .flows, .hbmcs, .galleries, .drips, .vecs, .helpers, .engines, .streams, .msgs, .hostOut, .hostReq, .msix, .freeCtr, .outs] : List Part).all fun q => ps.contains q) = true) (h : Within ps s t) : Within ps s (t.bar0Put a sent) := by
  unfold State.bar0Put
  repeat' first
    | with_reducible exact h
    | (with_reducible exact Within.refl _ _)
    | ((with_reducible apply Within.after (State.refuse_within _ _ _)); case hq => simp_all)
    | ((with_reducible apply Within.after (State.ownerPut_within _ _ _ _ _ _)); case hq => simp_all)
    | ((with_reducible refine Within.trans (t := _) ?_ (hk _ _)))
    | split

theorem State.sendMessage_within (s : State) (c : Ctl) (p : Page) :
    Within [.mgmtW, .mgmtE, .galleries] s (State.sendMessage s c p) := by
  unfold State.sendMessage
  repeat' first
    | (with_reducible exact Within.refl _ _)
    | ((with_reducible apply Within.after (State.setGal_within _ _ _)); case hq => rfl)
    | ((with_reducible apply Within.after (State.setMgmt_within _ _ _)); case hq => rfl)
    | split

theorem State.bar0Write_within (s : State) (a : Access) :
    Within [.mem, .ue, .hdrs, .dev, .geode, .mgmtW, .mgmtE, .journal, .lie, .ports, .fns, .links, .bundles, .caverns, .flows, .hbmcs, .galleries, .drips, .vecs, .helpers, .engines, .streams, .msgs, .hostOut, .hostReq, .msix, .freeCtr, .outs] s (State.bar0Write s a) := by
  unfold State.bar0Write
  repeat' first
    | (with_reducible exact Within.refl _ _)
    | ((with_reducible apply Within.after (State.waitFill_within _ _)); case hq => rfl)
    | ((with_reducible apply Within.bar0Put); case hq => rfl)
    | ((with_reducible apply Within.after (State.setMgmt_within _ _ _)); case hq => rfl)
    | ((with_reducible apply Within.after (State.sendMessage_within _ _ _)); case hq => rfl)
    | intro _
    | split
    | dsimp only

theorem State.fillDrain_within (s : State) :
    Within [.mem, .ue, .hdrs, .dev, .geode, .mgmtW, .mgmtE, .journal, .lie, .ports, .fns, .links, .bundles, .caverns, .flows, .hbmcs, .galleries, .drips, .vecs, .helpers, .engines, .streams, .msgs, .hostOut, .hostReq, .msix, .freeCtr, .outs] s (State.fillDrain s) := by
  unfold State.fillDrain
  repeat' first
    | (with_reducible exact Within.refl _ _)
    | ((with_reducible apply Within.after (State.bar0Write_within _ _)); case hq => rfl)
    | (with_reducible apply Within.foldl)
    | (with_reducible apply Within.foldl_fst)
    | intro _
    | ((with_reducible apply Within.set_dev); (case hp => rfl); case hx => exact fun h => ⟨h.hops, h.tries, h.throt, h.pwr, h.pwrNew, h.cool⟩)

theorem State.windowLoad_within (s : State) (p : Page) (o n : Nat) :
    Within [.hdrs, .mgmtW, .mgmtE, .links, .caverns, .galleries, .msgs, .msix, .freeCtr] s (State.windowLoad s p o n).1 := by
  unfold State.windowLoad
  repeat' first
    | (with_reducible exact Within.refl _ _)
    | ((with_reducible apply Within.after (State.refuse_within _ _ _)); case hq => rfl)
    | ((with_reducible apply Within.after (State.clearRc_within _ _ _)); case hq => rfl)
    | (with_reducible apply Within.foldl)
    | (with_reducible apply Within.foldl_fst)
    | intro _
    | split

theorem State.windowStore_within (s : State) (p : Page) (o n : Nat) (v : Word64) :
    Within [.mem, .ue, .hdrs, .dev, .geode, .mgmtW, .mgmtE, .journal, .lie, .ports, .fns, .links, .bundles, .caverns, .flows, .hbmcs, .galleries, .drips, .vecs, .helpers, .engines, .streams, .msgs, .hostOut, .hostReq, .msix, .freeCtr, .outs] s (State.windowStore s p o n v) := by
  unfold State.windowStore
  repeat' first
    | (with_reducible exact Within.refl _ _)
    | ((with_reducible apply Within.after (State.refuse_within _ _ _)); case hq => rfl)
    | ((with_reducible apply Within.after (State.ownerPut_within _ _ _ _ _ _)); case hq => rfl)
    | split
    | dsimp only

theorem State.farMem_within (s : State) (h d n : Nat) (store : Option Word64) :
    Within [.mem, .ue, .hdrs, .flows, .hbmcs, .helpers, .msgs, .freeCtr] s (State.farMem s h d n store).1 := by
  unfold State.farMem
  repeat' first
    | (with_reducible exact Within.refl _ _)
    | ((with_reducible apply Within.after (State.devRead_within _ _ _ _)); case hq => rfl)
    | ((with_reducible apply Within.after (State.devWriteBy_within _ _ _ _ _)); case hq => rfl)
    | ((with_reducible apply Within.ringsSeen); case hq => rfl)
    | ((with_reducible apply Within.of_pair); with_reducible assumption)
    | intro _
    | split

theorem Within.farEnd {ps : List Part} {s : State} {r : State × Except Code Nat} (h : Within ps s r.1) : Within ps s (farEnd r).1 := by
  obtain ⟨t, v | c⟩ := r <;> exact h

theorem State.farRun_within (s : State) (h a n : Nat) (store : Option Word64) :
    Within [.mem, .ue, .hdrs, .dev, .geode, .mgmtW, .mgmtE, .journal, .lie, .ports, .fns, .links, .bundles, .caverns, .flows, .hbmcs, .galleries, .drips, .vecs, .helpers, .engines, .streams, .msgs, .hostOut, .hostReq, .msix, .freeCtr, .outs] s (State.farRun s h a n store).1 := by
  unfold State.farRun
  repeat' first
    | (with_reducible exact Within.refl _ _)
    | ((with_reducible apply Within.after (State.farMem_within _ _ _ _ _)); case hq => rfl)
    | ((with_reducible apply Within.after (State.xlate_within _ _ _ _ _)); case hq => rfl)
    | ((with_reducible apply Within.after (State.windowLoad_within _ _ _ _)); case hq => rfl)
    | ((with_reducible apply Within.after (State.windowStore_within _ _ _ _ _)); case hq => rfl)
    | (with_reducible apply Within.farEnd)
    | ((with_reducible apply Within.of_pair); with_reducible assumption)
    | split
    | dsimp only

theorem State.farAccess_within (s : State) (h : Nat) (addr : Word64) (size : Nat) (store : Option Word64) (rd : Nat) (signed : Bool) (len : Nat) :
    Within [.mem, .ue, .hdrs, .dev, .geode, .mgmtW, .mgmtE, .journal, .lie, .ports, .fns, .links, .bundles, .caverns, .flows, .hbmcs, .galleries, .drips, .vecs, .helpers, .engines, .streams, .msgs, .hostOut, .hostReq, .msix, .freeCtr, .outs] s (State.farAccess s h addr size store rd signed len) := by
  unfold State.farAccess
  repeat' first
    | (with_reducible exact Within.refl _ _)
    | ((with_reducible apply Within.after (State.farRun_within _ _ _ _ _)); case hq => rfl)
    | ((with_reducible apply Within.after (State.helperDone_within _ _ _ _ _)); case hq => rfl)
    | ((with_reducible apply Within.after (State.helperTrap_within _ _ _ _)); case hq => rfl)
    | ((with_reducible apply Within.after (State.setHelper_within _ _ _)); case hq => rfl)
    | ((with_reducible apply Within.of_pair); with_reducible assumption)
    | split

end Sys2Proof.Laws
end

