-- ==== Sys2Proof/Laws/FramesRiscv.lean ====
section
/-! SUPPORT. What each operation of Machine/Riscv.lean may change: every part that is not listed stays. -/

namespace Sys2Proof.Laws

open Sys2Proof Sys2Proof.Machine

theorem State.rvCsrWrite_within (s : State) (h n : Nat) (v : Word64) :
    Within [.hdrs, .helpers, .msix] s (State.rvCsrWrite s h n v) := by
  unfold State.rvCsrWrite
  repeat' first
    | (with_reducible exact Within.refl _ _)
    | ((with_reducible apply Within.after (State.setHelper_within _ _ _)); case hq => rfl)
    | ((with_reducible apply Within.after (State.kmhost_within _ _ _)); case hq => rfl)
    | split

theorem State.rvIllegal_within (s : State) (h : Nat) :
    Within [.helpers, .freeCtr] s (State.rvIllegal s h) := by
  unfold State.rvIllegal
  repeat' first
    | (with_reducible exact Within.refl _ _)
    | ((with_reducible apply Within.after (State.drawn_within _)); case hq => rfl)
    | ((with_reducible apply Within.after (State.helperTrap_within _ _ _ _)); case hq => rfl)

theorem State.rvSet_within (s : State) (h rd len : Nat) (v : Word64) :
    Within [.hdrs, .helpers] s (State.rvSet s h rd len v) := by
  unfold State.rvSet
  repeat' first
    | (with_reducible exact Within.refl _ _)
    | ((with_reducible apply Within.after (State.helperDone_within _ _ _ _ _)); case hq => rfl)

theorem State.rvJump_within (s : State) (h rd : Nat) (v target : Word64) :
    Within [.hdrs, .helpers] s (State.rvJump s h rd v target) := by
  unfold State.rvJump
  repeat' first
    | (with_reducible exact Within.refl _ _)
    | ((with_reducible apply Within.after (State.helperDone_within _ _ _ _ _)); case hq => rfl)
    | ((with_reducible apply Within.after (State.setHelper_within _ _ _)); case hq => rfl)

theorem State.rvCsrOp_within (s : State) (h w len : Nat) :
    Within [.hdrs, .helpers, .msix, .freeCtr] s (State.rvCsrOp s h w len) := by
  unfold State.rvCsrOp
  repeat' first
    | (with_reducible exact Within.refl _ _)
    | ((with_reducible apply Within.after (State.rvIllegal_within _ _)); case hq => rfl)
    | ((with_reducible apply Within.after (State.drawn_within _)); case hq => rfl)
    | ((with_reducible apply Within.after (State.rvSet_within _ _ _ _ _)); case hq => rfl)
    | ((with_reducible apply Within.after (State.rvCsrWrite_within _ _ _ _)); case hq => rfl)
    | split
    | dsimp only

theorem State.rvSystem_within (s : State) (h w len : Nat) :
    Within [.hdrs, .helpers, .freeCtr] s (State.rvSystem s h w len) := by
  unfold State.rvSystem
  repeat' first
    | (with_reducible exact Within.refl _ _)
    | ((with_reducible apply Within.after (State.helperTrap_within _ _ _ _)); case hq => rfl)
    | ((with_reducible apply Within.after (State.drawn_within _)); case hq => rfl)
    | ((with_reducible apply Within.after (State.rvJump_within _ _ _ _ _)); case hq => rfl)
    | ((with_reducible apply Within.after (State.setHelper_within _ _ _)); case hq => rfl)
    | ((with_reducible apply Within.after (State.rvSet_within _ _ _ _ _)); case hq => rfl)
    | ((with_reducible apply Within.after (State.rvIllegal_within _ _)); case hq => rfl)
    | split

theorem State.rvAtomic_within (s : State) (h w : Nat) :
    Within [.mem, .ue, .hdrs, .flows, .hbmcs, .helpers, .msgs, .freeCtr] s (State.rvAtomic s h w) := by
  unfold State.rvAtomic
  repeat' first
    | (with_reducible exact Within.refl _ _)
    | ((with_reducible apply Within.after (State.rvIllegal_within _ _)); case hq => rfl)
    | ((with_reducible apply Within.after (State.helperTrap_within _ _ _ _)); case hq => rfl)
    | ((with_reducible apply Within.ringsSeen); case hq => rfl)
    | ((with_reducible apply Within.after (State.devWriteBy_within _ _ _ _ _)); case hq => rfl)
    | ((with_reducible apply Within.after (State.setHelper_within _ _ _)); case hq => rfl)
    | ((with_reducible apply Within.after (State.rvSet_within _ _ _ _ _)); case hq => rfl)
    | ((with_reducible apply Within.of_pair); with_reducible assumption)
    | intro _
    | split
    | dsimp only

theorem State.rvOp_within (s : State) (h w len : Nat) (word : Bool) :
    Within [.hdrs, .helpers, .freeCtr] s (State.rvOp s h w len word) := by
  unfold State.rvOp
  repeat' first
    | (with_reducible exact Within.refl _ _)
    | ((with_reducible apply Within.after (State.rvSet_within _ _ _ _ _)); case hq => rfl)
    | ((with_reducible apply Within.after (State.rvIllegal_within _ _)); case hq => rfl)
    | split
    | dsimp only

theorem State.rvOpImm_within (s : State) (h w len : Nat) (word : Bool) :
    Within [.hdrs, .helpers, .freeCtr] s (State.rvOpImm s h w len word) := by
  unfold State.rvOpImm
  repeat' first
    | (with_reducible exact Within.refl _ _)
    | ((with_reducible apply Within.after (State.rvIllegal_within _ _)); case hq => rfl)
    | ((with_reducible apply Within.after (State.rvSet_within _ _ _ _ _)); case hq => rfl)
    | split
    | dsimp only

theorem State.rvXkmsg_within (s : State) (h w : Nat) :
    Within [.mem, .ue, .hdrs, .flows, .hbmcs, .helpers, .engines, .msgs, .freeCtr] s (State.rvXkmsg s h w) := by
  unfold State.rvXkmsg
  repeat' first
    | (with_reducible exact Within.refl _ _)
    | ((with_reducible apply Within.after (State.ksend_within _ _ _ _ _ _ _)); case hq => rfl)
    | ((with_reducible apply Within.after (State.krecv_within _ _ _ _ _)); case hq => rfl)
    | ((with_reducible apply Within.after (State.ktemit_within _ _ _ _ _)); case hq => rfl)
    | ((with_reducible apply Within.after (State.khret_within _ _)); case hq => rfl)
    | ((with_reducible apply Within.after (State.rvIllegal_within _ _)); case hq => rfl)
    | split

theorem State.rvExec_within (s : State) (h w len : Nat) :
    Within [.mem, .ue, .hdrs, .dev, .geode, .mgmtW, .mgmtE, .journal, .lie, .ports, .fns, .links, .bundles, .caverns, .flows, .hbmcs, .galleries, .drips, .vecs, .helpers, .engines, .streams, .msgs, .hostOut, .hostReq, .msix, .freeCtr, .outs] s (State.rvExec s h w len) := by
  unfold State.rvExec
  repeat' first
    | (with_reducible exact Within.refl _ _)
    | ((with_reducible apply Within.after (State.rvSet_within _ _ _ _ _)); case hq => rfl)
    | ((with_reducible apply Within.after (State.rvJump_within _ _ _ _ _)); case hq => rfl)
    | ((with_reducible apply Within.after (State.rvIllegal_within _ _)); case hq => rfl)
    | ((with_reducible apply Within.after (State.farAccess_within _ _ _ _ _ _ _ _)); case hq => rfl)
    | ((with_reducible apply Within.after (State.rvOpImm_within _ _ _ _ _)); case hq => rfl)
    | ((with_reducible apply Within.after (State.rvOp_within _ _ _ _ _)); case hq => rfl)
    | ((with_reducible apply Within.after (State.rvAtomic_within _ _ _)); case hq => rfl)
    | ((with_reducible apply Within.after (State.rvSystem_within _ _ _ _)); case hq => rfl)
    | ((with_reducible apply Within.after (State.rvCsrOp_within _ _ _ _)); case hq => rfl)
    | ((with_reducible apply Within.after (State.rvXkmsg_within _ _ _)); case hq => rfl)
    | split
    | dsimp only

theorem State.rvNext_within (s : State) (h : Nat) :
    Within [.mem, .ue, .hdrs, .dev, .geode, .mgmtW, .mgmtE, .journal, .lie, .ports, .fns, .links, .bundles, .caverns, .flows, .hbmcs, .galleries, .drips, .vecs, .helpers, .engines, .streams, .msgs, .hostOut, .hostReq, .msix, .freeCtr, .outs] s (State.rvNext s h) := by
  unfold State.rvNext
  repeat' first
    | (with_reducible exact Within.refl _ _)
    | ((with_reducible apply Within.after (State.helperTrap_within _ _ _ _)); case hq => rfl)
    | ((with_reducible apply Within.after (State.rvExec_within _ _ _ _)); case hq => rfl)
    | ((with_reducible apply Within.after (State.rvIllegal_within _ _)); case hq => rfl)
    | split
    | dsimp only

theorem State.rvTakeIrq_within (s : State) (h : Nat) :
    Within [.helpers] s (State.rvTakeIrq s h) := by
  unfold State.rvTakeIrq
  repeat' first
    | (with_reducible exact Within.refl _ _)
    | ((with_reducible apply Within.after (State.setHelper_within _ _ _)); case hq => rfl)
    | split
    | dsimp only

theorem State.helperCycle_within (s : State) (h : Nat) :
    Within [.mem, .ue, .hdrs, .dev, .geode, .mgmtW, .mgmtE, .journal, .lie, .ports, .fns, .links, .bundles, .caverns, .flows, .hbmcs, .galleries, .drips, .vecs, .helpers, .engines, .streams, .msgs, .hostOut, .hostReq, .msix, .freeCtr, .outs] s (State.helperCycle s h) := by
  unfold State.helperCycle
  repeat' first
    | (with_reducible exact Within.refl _ _)
    | ((with_reducible apply Within.after (State.event_within _ _ _ _)); case hq => rfl)
    | ((with_reducible apply Within.after (State.setMsg_within _ _ _)); case hq => rfl)
    | ((with_reducible apply Within.after (State.ktRetry_within _ _)); case hq => rfl)
    | ((with_reducible apply Within.after (State.rvTakeIrq_within _ _)); case hq => rfl)
    | ((with_reducible apply Within.after (State.helperDispatch_within _ _)); case hq => rfl)
    | ((with_reducible apply Within.after (State.krecv_within _ _ _ _ _)); case hq => rfl)
    | ((with_reducible apply Within.after (State.rvNext_within _ _)); case hq => rfl)
    | split
    | dsimp only

end Sys2Proof.Laws
end

