-- ==== Sys2Proof/Laws/FramesIdle.lean ====
section
/-! SUPPORT. What each operation of Machine/Idle.lean may change: every part that is not listed stays. -/

namespace Sys2Proof.Laws

open Sys2Proof Sys2Proof.Machine

theorem State.issueStall_within (s : State) (e : Nat) :
    Within [.hdrs, .msgs] s (State.issueStall s e) := by
  unfold State.issueStall
  repeat' first
    | (with_reducible exact Within.refl _ _)
    | ((with_reducible apply Within.after (State.setMsg_within _ _ _)); case hq => rfl)
    | ((with_reducible apply Within.after (State.event_within _ _ _ _)); case hq => rfl)
    | (with_reducible apply Within.foldl)
    | (with_reducible apply Within.foldl_fst)
    | intro _
    | split
    | dsimp only

theorem State.engineCycle_within (s : State) (e : Nat) :
    Within [.mem, .ue, .hdrs, .flows, .hbmcs, .galleries, .drips, .engines, .streams, .msgs, .msix, .freeCtr] s (State.engineCycle s e) := by
  unfold State.engineCycle
  repeat' first
    | (with_reducible exact Within.refl _ _)
    | ((with_reducible apply Within.after (State.kfCycle_within _ _ _)); case hq => rfl)
    | ((with_reducible apply Within.after (State.cfgDrain_within _ _)); case hq => rfl)
    | ((with_reducible apply Within.after (State.issueStall_within _ _)); case hq => rfl)
    | ((with_reducible apply Within.after (State.event_within _ _ _ _)); case hq => rfl)
    | (with_reducible apply Within.foldl)
    | (with_reducible apply Within.foldl_fst)
    | intro _
    | split
    | dsimp only

theorem State.journalCycle_within (s : State) :
    Within [.hdrs] s (State.journalCycle s) := by
  unfold State.journalCycle
  repeat' first
    | (with_reducible exact Within.refl _ _)
    | ((with_reducible apply Within.after (State.event_within _ _ _ _)); case hq => rfl)
    | intro _
    | split
    | dsimp only

theorem State.linkCycle_within (s : State) (n : Nat) :
    Within [.hdrs] s (State.linkCycle s n) := by
  unfold State.linkCycle
  repeat' first
    | (with_reducible exact Within.refl _ _)
    | ((with_reducible apply Within.after (State.event_within _ _ _ _)); case hq => rfl)
    | intro _
    | split
    | dsimp only

theorem State.idleCycle_within (s : State) :
    Within [.mem, .ue, .hdrs, .cycles, .dev, .geode, .mgmtW, .mgmtE, .journal, .lie, .ports, .fns, .links, .bundles, .caverns, .flows, .hbmcs, .galleries, .drips, .vecs, .helpers, .engines, .streams, .msgs, .hostOut, .hostReq, .msix, .sideband, .freeCtr, .outs] s (State.idleCycle s) := by
  unfold State.idleCycle
  repeat' first
    | (with_reducible exact Within.refl _ _)
    | ((with_reducible apply Within.after (State.pendingStarts_within _)); case hq => rfl)
    | ((with_reducible apply Within.after (State.tick_within _)); case hq => rfl)
    | ((with_reducible apply Within.after (State.event_within _ _ _ _)); case hq => rfl)
    | ((with_reducible apply Within.after (State.destroyWaiting_within _)); case hq => rfl)
    | ((with_reducible apply Within.after (State.unlockFinish_within _)); case hq => rfl)
    | ((with_reducible apply Within.after (State.fillDrain_within _)); case hq => rfl)
    | ((with_reducible apply Within.after (State.replayDrain_within _)); case hq => rfl)
    | ((with_reducible apply Within.after (State.journalCycle_within _)); case hq => rfl)
    | (with_reducible apply Within.each)
    | ((with_reducible apply Within.after (State.engineCycle_within _ _)); case hq => rfl)
    | ((with_reducible apply Within.after (State.helperCycle_within _ _)); case hq => rfl)
    | ((with_reducible apply Within.after (State.linkCycle_within _ _)); case hq => rfl)
    | intro _
    | split
    | dsimp only

end Sys2Proof.Laws
end

