-- ==== Sys2Proof/Laws/State.lean ====
section
/-! SUPPORT. What each named update of State leaves in every field, and what each accessor reads after it. -/

namespace Sys2Proof.Laws

open Sys2Proof Sys2Proof.Machine

/-! ## setEng -/

@[simp] theorem setEng_eng (s : State) (i : Nat) (x : Engine) : (s.setEng i x).eng i = x := tget_tset_self _ _ _ _

@[simp] theorem setEng_eng_other (s : State) (i : Nat) (x : Engine) {j : Nat} (h : j ≠ i) : (s.setEng i x).eng j = s.eng j :=
  tget_tset_other _ _ _ h

@[simp] theorem setEng_mem (s : State) (i : Nat) (x : Engine) : (s.setEng i x).mem = s.mem := rfl
@[simp] theorem setEng_ue (s : State) (i : Nat) (x : Engine) : (s.setEng i x).ue = s.ue := rfl
@[simp] theorem setEng_hdrs (s : State) (i : Nat) (x : Engine) : (s.setEng i x).hdrs = s.hdrs := rfl
@[simp] theorem setEng_cycles (s : State) (i : Nat) (x : Engine) : (s.setEng i x).cycles = s.cycles := rfl
@[simp] theorem setEng_dev (s : State) (i : Nat) (x : Engine) : (s.setEng i x).dev = s.dev := rfl
@[simp] theorem setEng_geode (s : State) (i : Nat) (x : Engine) : (s.setEng i x).geode = s.geode := rfl
@[simp] theorem setEng_mgmtW (s : State) (i : Nat) (x : Engine) : (s.setEng i x).mgmtW = s.mgmtW := rfl
@[simp] theorem setEng_mgmtE (s : State) (i : Nat) (x : Engine) : (s.setEng i x).mgmtE = s.mgmtE := rfl
@[simp] theorem setEng_journal (s : State) (i : Nat) (x : Engine) : (s.setEng i x).journal = s.journal := rfl
@[simp] theorem setEng_lie (s : State) (i : Nat) (x : Engine) : (s.setEng i x).lie = s.lie := rfl
@[simp] theorem setEng_ports (s : State) (i : Nat) (x : Engine) : (s.setEng i x).ports = s.ports := rfl
@[simp] theorem setEng_fns (s : State) (i : Nat) (x : Engine) : (s.setEng i x).fns = s.fns := rfl
@[simp] theorem setEng_links (s : State) (i : Nat) (x : Engine) : (s.setEng i x).links = s.links := rfl
@[simp] theorem setEng_bundles (s : State) (i : Nat) (x : Engine) : (s.setEng i x).bundles = s.bundles := rfl
@[simp] theorem setEng_caverns (s : State) (i : Nat) (x : Engine) : (s.setEng i x).caverns = s.caverns := rfl
@[simp] theorem setEng_flows (s : State) (i : Nat) (x : Engine) : (s.setEng i x).flows = s.flows := rfl
@[simp] theorem setEng_hbmcs (s : State) (i : Nat) (x : Engine) : (s.setEng i x).hbmcs = s.hbmcs := rfl
@[simp] theorem setEng_galleries (s : State) (i : Nat) (x : Engine) : (s.setEng i x).galleries = s.galleries := rfl
@[simp] theorem setEng_drips (s : State) (i : Nat) (x : Engine) : (s.setEng i x).drips = s.drips := rfl
@[simp] theorem setEng_vecs (s : State) (i : Nat) (x : Engine) : (s.setEng i x).vecs = s.vecs := rfl
@[simp] theorem setEng_helpers (s : State) (i : Nat) (x : Engine) : (s.setEng i x).helpers = s.helpers := rfl
@[simp] theorem setEng_streams (s : State) (i : Nat) (x : Engine) : (s.setEng i x).streams = s.streams := rfl
@[simp] theorem setEng_msgs (s : State) (i : Nat) (x : Engine) : (s.setEng i x).msgs = s.msgs := rfl
@[simp] theorem setEng_pins (s : State) (i : Nat) (x : Engine) : (s.setEng i x).pins = s.pins := rfl
@[simp] theorem setEng_tap (s : State) (i : Nat) (x : Engine) : (s.setEng i x).tap = s.tap := rfl
@[simp] theorem setEng_hostOut (s : State) (i : Nat) (x : Engine) : (s.setEng i x).hostOut = s.hostOut := rfl
@[simp] theorem setEng_hostReq (s : State) (i : Nat) (x : Engine) : (s.setEng i x).hostReq = s.hostReq := rfl
@[simp] theorem setEng_msix (s : State) (i : Nat) (x : Engine) : (s.setEng i x).msix = s.msix := rfl
@[simp] theorem setEng_lastRead (s : State) (i : Nat) (x : Engine) : (s.setEng i x).lastRead = s.lastRead := rfl
@[simp] theorem setEng_sideband (s : State) (i : Nat) (x : Engine) : (s.setEng i x).sideband = s.sideband := rfl
@[simp] theorem setEng_freeCtr (s : State) (i : Nat) (x : Engine) : (s.setEng i x).freeCtr = s.freeCtr := rfl
@[simp] theorem setEng_outs (s : State) (i : Nat) (x : Engine) : (s.setEng i x).outs = s.outs := rfl
@[simp] theorem setEng_pending (s : State) (i : Nat) (x : Engine) : (s.setEng i x).pending = s.pending := rfl
@[simp] theorem setEng_strm (s : State) (i : Nat) (x : Engine) (k : Nat) : (s.setEng i x).strm k = s.strm k := rfl
@[simp] theorem setEng_gal (s : State) (i : Nat) (x : Engine) (k : Nat) : (s.setEng i x).gal k = s.gal k := rfl
@[simp] theorem setEng_drip (s : State) (i : Nat) (x : Engine) (k : Nat) : (s.setEng i x).drip k = s.drip k := rfl
@[simp] theorem setEng_flow (s : State) (i : Nat) (x : Engine) (k : Nat) : (s.setEng i x).flow k = s.flow k := rfl
@[simp] theorem setEng_hbmc (s : State) (i : Nat) (x : Engine) (k : Nat) : (s.setEng i x).hbmc k = s.hbmc k := rfl
@[simp] theorem setEng_cavern (s : State) (i : Nat) (x : Engine) (k : Nat) : (s.setEng i x).cavern k = s.cavern k := rfl
@[simp] theorem setEng_vec (s : State) (i : Nat) (x : Engine) (k : Nat) : (s.setEng i x).vec k = s.vec k := rfl
@[simp] theorem setEng_helper (s : State) (i : Nat) (x : Engine) (k : Nat) : (s.setEng i x).helper k = s.helper k := rfl
@[simp] theorem setEng_msg (s : State) (i : Nat) (x : Engine) (k : Nat) : (s.setEng i x).msg k = s.msg k := rfl
@[simp] theorem setEng_link (s : State) (i : Nat) (x : Engine) (k : Nat) : (s.setEng i x).link k = s.link k := rfl
@[simp] theorem setEng_bundle (s : State) (i : Nat) (x : Engine) (k : Nat) : (s.setEng i x).bundle k = s.bundle k := rfl
@[simp] theorem setEng_port (s : State) (i : Nat) (x : Engine) (k : Nat) : (s.setEng i x).port k = s.port k := rfl
@[simp] theorem setEng_ctx (s : State) (i : Nat) (x : Engine) (k : Nat) : (s.setEng i x).ctx k = s.ctx k := rfl
@[simp] theorem setEng_slotJ (s : State) (i : Nat) (x : Engine) (k : Nat) : (s.setEng i x).slotJ k = s.slotJ k := rfl
@[simp] theorem setEng_fn (s : State) (i : Nat) (x : Engine) (p f : Nat) : (s.setEng i x).fn p f = s.fn p f := rfl
@[simp] theorem setEng_hdr (s : State) (i : Nat) (x : Engine) (p : Page) : (s.setEng i x).hdr p = s.hdr p := rfl
@[simp] theorem setEng_mgmt (s : State) (i : Nat) (x : Engine) (c : Ctl) : (s.setEng i x).mgmt c = s.mgmt c := by cases c <;> rfl

/-! ## setStrm -/

@[simp] theorem setStrm_strm (s : State) (i : Nat) (x : Stream) : (s.setStrm i x).strm i = x := tget_tset_self _ _ _ _

@[simp] theorem setStrm_strm_other (s : State) (i : Nat) (x : Stream) {j : Nat} (h : j ≠ i) : (s.setStrm i x).strm j = s.strm j :=
  tget_tset_other _ _ _ h

@[simp] theorem setStrm_mem (s : State) (i : Nat) (x : Stream) : (s.setStrm i x).mem = s.mem := rfl
@[simp] theorem setStrm_ue (s : State) (i : Nat) (x : Stream) : (s.setStrm i x).ue = s.ue := rfl
@[simp] theorem setStrm_hdrs (s : State) (i : Nat) (x : Stream) : (s.setStrm i x).hdrs = s.hdrs := rfl
@[simp] theorem setStrm_cycles (s : State) (i : Nat) (x : Stream) : (s.setStrm i x).cycles = s.cycles := rfl
@[simp] theorem setStrm_dev (s : State) (i : Nat) (x : Stream) : (s.setStrm i x).dev = s.dev := rfl
@[simp] theorem setStrm_geode (s : State) (i : Nat) (x : Stream) : (s.setStrm i x).geode = s.geode := rfl
@[simp] theorem setStrm_mgmtW (s : State) (i : Nat) (x : Stream) : (s.setStrm i x).mgmtW = s.mgmtW := rfl
@[simp] theorem setStrm_mgmtE (s : State) (i : Nat) (x : Stream) : (s.setStrm i x).mgmtE = s.mgmtE := rfl
@[simp] theorem setStrm_journal (s : State) (i : Nat) (x : Stream) : (s.setStrm i x).journal = s.journal := rfl
@[simp] theorem setStrm_lie (s : State) (i : Nat) (x : Stream) : (s.setStrm i x).lie = s.lie := rfl
@[simp] theorem setStrm_ports (s : State) (i : Nat) (x : Stream) : (s.setStrm i x).ports = s.ports := rfl
@[simp] theorem setStrm_fns (s : State) (i : Nat) (x : Stream) : (s.setStrm i x).fns = s.fns := rfl
@[simp] theorem setStrm_links (s : State) (i : Nat) (x : Stream) : (s.setStrm i x).links = s.links := rfl
@[simp] theorem setStrm_bundles (s : State) (i : Nat) (x : Stream) : (s.setStrm i x).bundles = s.bundles := rfl
@[simp] theorem setStrm_caverns (s : State) (i : Nat) (x : Stream) : (s.setStrm i x).caverns = s.caverns := rfl
@[simp] theorem setStrm_flows (s : State) (i : Nat) (x : Stream) : (s.setStrm i x).flows = s.flows := rfl
@[simp] theorem setStrm_hbmcs (s : State) (i : Nat) (x : Stream) : (s.setStrm i x).hbmcs = s.hbmcs := rfl
@[simp] theorem setStrm_galleries (s : State) (i : Nat) (x : Stream) : (s.setStrm i x).galleries = s.galleries := rfl
@[simp] theorem setStrm_drips (s : State) (i : Nat) (x : Stream) : (s.setStrm i x).drips = s.drips := rfl
@[simp] theorem setStrm_vecs (s : State) (i : Nat) (x : Stream) : (s.setStrm i x).vecs = s.vecs := rfl
@[simp] theorem setStrm_helpers (s : State) (i : Nat) (x : Stream) : (s.setStrm i x).helpers = s.helpers := rfl
@[simp] theorem setStrm_engines (s : State) (i : Nat) (x : Stream) : (s.setStrm i x).engines = s.engines := rfl
@[simp] theorem setStrm_msgs (s : State) (i : Nat) (x : Stream) : (s.setStrm i x).msgs = s.msgs := rfl
@[simp] theorem setStrm_pins (s : State) (i : Nat) (x : Stream) : (s.setStrm i x).pins = s.pins := rfl
@[simp] theorem setStrm_tap (s : State) (i : Nat) (x : Stream) : (s.setStrm i x).tap = s.tap := rfl
@[simp] theorem setStrm_hostOut (s : State) (i : Nat) (x : Stream) : (s.setStrm i x).hostOut = s.hostOut := rfl
@[simp] theorem setStrm_hostReq (s : State) (i : Nat) (x : Stream) : (s.setStrm i x).hostReq = s.hostReq := rfl
@[simp] theorem setStrm_msix (s : State) (i : Nat) (x : Stream) : (s.setStrm i x).msix = s.msix := rfl
@[simp] theorem setStrm_lastRead (s : State) (i : Nat) (x : Stream) : (s.setStrm i x).lastRead = s.lastRead := rfl
@[simp] theorem setStrm_sideband (s : State) (i : Nat) (x : Stream) : (s.setStrm i x).sideband = s.sideband := rfl
@[simp] theorem setStrm_freeCtr (s : State) (i : Nat) (x : Stream) : (s.setStrm i x).freeCtr = s.freeCtr := rfl
@[simp] theorem setStrm_outs (s : State) (i : Nat) (x : Stream) : (s.setStrm i x).outs = s.outs := rfl
@[simp] theorem setStrm_pending (s : State) (i : Nat) (x : Stream) : (s.setStrm i x).pending = s.pending := rfl
@[simp] theorem setStrm_eng (s : State) (i : Nat) (x : Stream) (k : Nat) : (s.setStrm i x).eng k = s.eng k := rfl
@[simp] theorem setStrm_gal (s : State) (i : Nat) (x : Stream) (k : Nat) : (s.setStrm i x).gal k = s.gal k := rfl
@[simp] theorem setStrm_drip (s : State) (i : Nat) (x : Stream) (k : Nat) : (s.setStrm i x).drip k = s.drip k := rfl
@[simp] theorem setStrm_flow (s : State) (i : Nat) (x : Stream) (k : Nat) : (s.setStrm i x).flow k = s.flow k := rfl
@[simp] theorem setStrm_hbmc (s : State) (i : Nat) (x : Stream) (k : Nat) : (s.setStrm i x).hbmc k = s.hbmc k := rfl
@[simp] theorem setStrm_cavern (s : State) (i : Nat) (x : Stream) (k : Nat) : (s.setStrm i x).cavern k = s.cavern k := rfl
@[simp] theorem setStrm_vec (s : State) (i : Nat) (x : Stream) (k : Nat) : (s.setStrm i x).vec k = s.vec k := rfl
@[simp] theorem setStrm_helper (s : State) (i : Nat) (x : Stream) (k : Nat) : (s.setStrm i x).helper k = s.helper k := rfl
@[simp] theorem setStrm_msg (s : State) (i : Nat) (x : Stream) (k : Nat) : (s.setStrm i x).msg k = s.msg k := rfl
@[simp] theorem setStrm_link (s : State) (i : Nat) (x : Stream) (k : Nat) : (s.setStrm i x).link k = s.link k := rfl
@[simp] theorem setStrm_bundle (s : State) (i : Nat) (x : Stream) (k : Nat) : (s.setStrm i x).bundle k = s.bundle k := rfl
@[simp] theorem setStrm_port (s : State) (i : Nat) (x : Stream) (k : Nat) : (s.setStrm i x).port k = s.port k := rfl
@[simp] theorem setStrm_ctx (s : State) (i : Nat) (x : Stream) (k : Nat) : (s.setStrm i x).ctx k = s.ctx k := rfl
@[simp] theorem setStrm_slotJ (s : State) (i : Nat) (x : Stream) (k : Nat) : (s.setStrm i x).slotJ k = s.slotJ k := rfl
@[simp] theorem setStrm_fn (s : State) (i : Nat) (x : Stream) (p f : Nat) : (s.setStrm i x).fn p f = s.fn p f := rfl
@[simp] theorem setStrm_hdr (s : State) (i : Nat) (x : Stream) (p : Page) : (s.setStrm i x).hdr p = s.hdr p := rfl
@[simp] theorem setStrm_mgmt (s : State) (i : Nat) (x : Stream) (c : Ctl) : (s.setStrm i x).mgmt c = s.mgmt c := by cases c <;> rfl

/-! ## setGal -/

@[simp] theorem setGal_gal (s : State) (i : Nat) (x : Gallery) : (s.setGal i x).gal i = x := tget_tset_self _ _ _ _

@[simp] theorem setGal_gal_other (s : State) (i : Nat) (x : Gallery) {j : Nat} (h : j ≠ i) : (s.setGal i x).gal j = s.gal j :=
  tget_tset_other _ _ _ h

@[simp] theorem setGal_mem (s : State) (i : Nat) (x : Gallery) : (s.setGal i x).mem = s.mem := rfl
@[simp] theorem setGal_ue (s : State) (i : Nat) (x : Gallery) : (s.setGal i x).ue = s.ue := rfl
@[simp] theorem setGal_hdrs (s : State) (i : Nat) (x : Gallery) : (s.setGal i x).hdrs = s.hdrs := rfl
@[simp] theorem setGal_cycles (s : State) (i : Nat) (x : Gallery) : (s.setGal i x).cycles = s.cycles := rfl
@[simp] theorem setGal_dev (s : State) (i : Nat) (x : Gallery) : (s.setGal i x).dev = s.dev := rfl
@[simp] theorem setGal_geode (s : State) (i : Nat) (x : Gallery) : (s.setGal i x).geode = s.geode := rfl
@[simp] theorem setGal_mgmtW (s : State) (i : Nat) (x : Gallery) : (s.setGal i x).mgmtW = s.mgmtW := rfl
@[simp] theorem setGal_mgmtE (s : State) (i : Nat) (x : Gallery) : (s.setGal i x).mgmtE = s.mgmtE := rfl
@[simp] theorem setGal_journal (s : State) (i : Nat) (x : Gallery) : (s.setGal i x).journal = s.journal := rfl
@[simp] theorem setGal_lie (s : State) (i : Nat) (x : Gallery) : (s.setGal i x).lie = s.lie := rfl
@[simp] theorem setGal_ports (s : State) (i : Nat) (x : Gallery) : (s.setGal i x).ports = s.ports := rfl
@[simp] theorem setGal_fns (s : State) (i : Nat) (x : Gallery) : (s.setGal i x).fns = s.fns := rfl
@[simp] theorem setGal_links (s : State) (i : Nat) (x : Gallery) : (s.setGal i x).links = s.links := rfl
@[simp] theorem setGal_bundles (s : State) (i : Nat) (x : Gallery) : (s.setGal i x).bundles = s.bundles := rfl
@[simp] theorem setGal_caverns (s : State) (i : Nat) (x : Gallery) : (s.setGal i x).caverns = s.caverns := rfl
@[simp] theorem setGal_flows (s : State) (i : Nat) (x : Gallery) : (s.setGal i x).flows = s.flows := rfl
@[simp] theorem setGal_hbmcs (s : State) (i : Nat) (x : Gallery) : (s.setGal i x).hbmcs = s.hbmcs := rfl
@[simp] theorem setGal_drips (s : State) (i : Nat) (x : Gallery) : (s.setGal i x).drips = s.drips := rfl
@[simp] theorem setGal_vecs (s : State) (i : Nat) (x : Gallery) : (s.setGal i x).vecs = s.vecs := rfl
@[simp] theorem setGal_helpers (s : State) (i : Nat) (x : Gallery) : (s.setGal i x).helpers = s.helpers := rfl
@[simp] theorem setGal_engines (s : State) (i : Nat) (x : Gallery) : (s.setGal i x).engines = s.engines := rfl
@[simp] theorem setGal_streams (s : State) (i : Nat) (x : Gallery) : (s.setGal i x).streams = s.streams := rfl
@[simp] theorem setGal_msgs (s : State) (i : Nat) (x : Gallery) : (s.setGal i x).msgs = s.msgs := rfl
@[simp] theorem setGal_pins (s : State) (i : Nat) (x : Gallery) : (s.setGal i x).pins = s.pins := rfl
@[simp] theorem setGal_tap (s : State) (i : Nat) (x : Gallery) : (s.setGal i x).tap = s.tap := rfl
@[simp] theorem setGal_hostOut (s : State) (i : Nat) (x : Gallery) : (s.setGal i x).hostOut = s.hostOut := rfl
@[simp] theorem setGal_hostReq (s : State) (i : Nat) (x : Gallery) : (s.setGal i x).hostReq = s.hostReq := rfl
@[simp] theorem setGal_msix (s : State) (i : Nat) (x : Gallery) : (s.setGal i x).msix = s.msix := rfl
@[simp] theorem setGal_lastRead (s : State) (i : Nat) (x : Gallery) : (s.setGal i x).lastRead = s.lastRead := rfl
@[simp] theorem setGal_sideband (s : State) (i : Nat) (x : Gallery) : (s.setGal i x).sideband = s.sideband := rfl
@[simp] theorem setGal_freeCtr (s : State) (i : Nat) (x : Gallery) : (s.setGal i x).freeCtr = s.freeCtr := rfl
@[simp] theorem setGal_outs (s : State) (i : Nat) (x : Gallery) : (s.setGal i x).outs = s.outs := rfl
@[simp] theorem setGal_pending (s : State) (i : Nat) (x : Gallery) : (s.setGal i x).pending = s.pending := rfl
@[simp] theorem setGal_eng (s : State) (i : Nat) (x : Gallery) (k : Nat) : (s.setGal i x).eng k = s.eng k := rfl
@[simp] theorem setGal_strm (s : State) (i : Nat) (x : Gallery) (k : Nat) : (s.setGal i x).strm k = s.strm k := rfl
@[simp] theorem setGal_drip (s : State) (i : Nat) (x : Gallery) (k : Nat) : (s.setGal i x).drip k = s.drip k := rfl
@[simp] theorem setGal_flow (s : State) (i : Nat) (x : Gallery) (k : Nat) : (s.setGal i x).flow k = s.flow k := rfl
@[simp] theorem setGal_hbmc (s : State) (i : Nat) (x : Gallery) (k : Nat) : (s.setGal i x).hbmc k = s.hbmc k := rfl
@[simp] theorem setGal_cavern (s : State) (i : Nat) (x : Gallery) (k : Nat) : (s.setGal i x).cavern k = s.cavern k := rfl
@[simp] theorem setGal_vec (s : State) (i : Nat) (x : Gallery) (k : Nat) : (s.setGal i x).vec k = s.vec k := rfl
@[simp] theorem setGal_helper (s : State) (i : Nat) (x : Gallery) (k : Nat) : (s.setGal i x).helper k = s.helper k := rfl
@[simp] theorem setGal_msg (s : State) (i : Nat) (x : Gallery) (k : Nat) : (s.setGal i x).msg k = s.msg k := rfl
@[simp] theorem setGal_link (s : State) (i : Nat) (x : Gallery) (k : Nat) : (s.setGal i x).link k = s.link k := rfl
@[simp] theorem setGal_bundle (s : State) (i : Nat) (x : Gallery) (k : Nat) : (s.setGal i x).bundle k = s.bundle k := rfl
@[simp] theorem setGal_port (s : State) (i : Nat) (x : Gallery) (k : Nat) : (s.setGal i x).port k = s.port k := rfl
@[simp] theorem setGal_ctx (s : State) (i : Nat) (x : Gallery) (k : Nat) : (s.setGal i x).ctx k = s.ctx k := rfl
@[simp] theorem setGal_slotJ (s : State) (i : Nat) (x : Gallery) (k : Nat) : (s.setGal i x).slotJ k = s.slotJ k := rfl
@[simp] theorem setGal_fn (s : State) (i : Nat) (x : Gallery) (p f : Nat) : (s.setGal i x).fn p f = s.fn p f := rfl
@[simp] theorem setGal_hdr (s : State) (i : Nat) (x : Gallery) (p : Page) : (s.setGal i x).hdr p = s.hdr p := rfl
@[simp] theorem setGal_mgmt (s : State) (i : Nat) (x : Gallery) (c : Ctl) : (s.setGal i x).mgmt c = s.mgmt c := by cases c <;> rfl

/-! ## setDrip -/

@[simp] theorem setDrip_drip (s : State) (i : Nat) (x : Drip) : (s.setDrip i x).drip i = x := tget_tset_self _ _ _ _

@[simp] theorem setDrip_drip_other (s : State) (i : Nat) (x : Drip) {j : Nat} (h : j ≠ i) : (s.setDrip i x).drip j = s.drip j :=
  tget_tset_other _ _ _ h

@[simp] theorem setDrip_mem (s : State) (i : Nat) (x : Drip) : (s.setDrip i x).mem = s.mem := rfl
@[simp] theorem setDrip_ue (s : State) (i : Nat) (x : Drip) : (s.setDrip i x).ue = s.ue := rfl
@[simp] theorem setDrip_hdrs (s : State) (i : Nat) (x : Drip) : (s.setDrip i x).hdrs = s.hdrs := rfl
@[simp] theorem setDrip_cycles (s : State) (i : Nat) (x : Drip) : (s.setDrip i x).cycles = s.cycles := rfl
@[simp] theorem setDrip_dev (s : State) (i : Nat) (x : Drip) : (s.setDrip i x).dev = s.dev := rfl
@[simp] theorem setDrip_geode (s : State) (i : Nat) (x : Drip) : (s.setDrip i x).geode = s.geode := rfl
@[simp] theorem setDrip_mgmtW (s : State) (i : Nat) (x : Drip) : (s.setDrip i x).mgmtW = s.mgmtW := rfl
@[simp] theorem setDrip_mgmtE (s : State) (i : Nat) (x : Drip) : (s.setDrip i x).mgmtE = s.mgmtE := rfl
@[simp] theorem setDrip_journal (s : State) (i : Nat) (x : Drip) : (s.setDrip i x).journal = s.journal := rfl
@[simp] theorem setDrip_lie (s : State) (i : Nat) (x : Drip) : (s.setDrip i x).lie = s.lie := rfl
@[simp] theorem setDrip_ports (s : State) (i : Nat) (x : Drip) : (s.setDrip i x).ports = s.ports := rfl
@[simp] theorem setDrip_fns (s : State) (i : Nat) (x : Drip) : (s.setDrip i x).fns = s.fns := rfl
@[simp] theorem setDrip_links (s : State) (i : Nat) (x : Drip) : (s.setDrip i x).links = s.links := rfl
@[simp] theorem setDrip_bundles (s : State) (i : Nat) (x : Drip) : (s.setDrip i x).bundles = s.bundles := rfl
@[simp] theorem setDrip_caverns (s : State) (i : Nat) (x : Drip) : (s.setDrip i x).caverns = s.caverns := rfl
@[simp] theorem setDrip_flows (s : State) (i : Nat) (x : Drip) : (s.setDrip i x).flows = s.flows := rfl
@[simp] theorem setDrip_hbmcs (s : State) (i : Nat) (x : Drip) : (s.setDrip i x).hbmcs = s.hbmcs := rfl
@[simp] theorem setDrip_galleries (s : State) (i : Nat) (x : Drip) : (s.setDrip i x).galleries = s.galleries := rfl
@[simp] theorem setDrip_vecs (s : State) (i : Nat) (x : Drip) : (s.setDrip i x).vecs = s.vecs := rfl
@[simp] theorem setDrip_helpers (s : State) (i : Nat) (x : Drip) : (s.setDrip i x).helpers = s.helpers := rfl
@[simp] theorem setDrip_engines (s : State) (i : Nat) (x : Drip) : (s.setDrip i x).engines = s.engines := rfl
@[simp] theorem setDrip_streams (s : State) (i : Nat) (x : Drip) : (s.setDrip i x).streams = s.streams := rfl
@[simp] theorem setDrip_msgs (s : State) (i : Nat) (x : Drip) : (s.setDrip i x).msgs = s.msgs := rfl
@[simp] theorem setDrip_pins (s : State) (i : Nat) (x : Drip) : (s.setDrip i x).pins = s.pins := rfl
@[simp] theorem setDrip_tap (s : State) (i : Nat) (x : Drip) : (s.setDrip i x).tap = s.tap := rfl
@[simp] theorem setDrip_hostOut (s : State) (i : Nat) (x : Drip) : (s.setDrip i x).hostOut = s.hostOut := rfl
@[simp] theorem setDrip_hostReq (s : State) (i : Nat) (x : Drip) : (s.setDrip i x).hostReq = s.hostReq := rfl
@[simp] theorem setDrip_msix (s : State) (i : Nat) (x : Drip) : (s.setDrip i x).msix = s.msix := rfl
@[simp] theorem setDrip_lastRead (s : State) (i : Nat) (x : Drip) : (s.setDrip i x).lastRead = s.lastRead := rfl
@[simp] theorem setDrip_sideband (s : State) (i : Nat) (x : Drip) : (s.setDrip i x).sideband = s.sideband := rfl
@[simp] theorem setDrip_freeCtr (s : State) (i : Nat) (x : Drip) : (s.setDrip i x).freeCtr = s.freeCtr := rfl
@[simp] theorem setDrip_outs (s : State) (i : Nat) (x : Drip) : (s.setDrip i x).outs = s.outs := rfl
@[simp] theorem setDrip_pending (s : State) (i : Nat) (x : Drip) : (s.setDrip i x).pending = s.pending := rfl
@[simp] theorem setDrip_eng (s : State) (i : Nat) (x : Drip) (k : Nat) : (s.setDrip i x).eng k = s.eng k := rfl
@[simp] theorem setDrip_strm (s : State) (i : Nat) (x : Drip) (k : Nat) : (s.setDrip i x).strm k = s.strm k := rfl
@[simp] theorem setDrip_gal (s : State) (i : Nat) (x : Drip) (k : Nat) : (s.setDrip i x).gal k = s.gal k := rfl
@[simp] theorem setDrip_flow (s : State) (i : Nat) (x : Drip) (k : Nat) : (s.setDrip i x).flow k = s.flow k := rfl
@[simp] theorem setDrip_hbmc (s : State) (i : Nat) (x : Drip) (k : Nat) : (s.setDrip i x).hbmc k = s.hbmc k := rfl
@[simp] theorem setDrip_cavern (s : State) (i : Nat) (x : Drip) (k : Nat) : (s.setDrip i x).cavern k = s.cavern k := rfl
@[simp] theorem setDrip_vec (s : State) (i : Nat) (x : Drip) (k : Nat) : (s.setDrip i x).vec k = s.vec k := rfl
@[simp] theorem setDrip_helper (s : State) (i : Nat) (x : Drip) (k : Nat) : (s.setDrip i x).helper k = s.helper k := rfl
@[simp] theorem setDrip_msg (s : State) (i : Nat) (x : Drip) (k : Nat) : (s.setDrip i x).msg k = s.msg k := rfl
@[simp] theorem setDrip_link (s : State) (i : Nat) (x : Drip) (k : Nat) : (s.setDrip i x).link k = s.link k := rfl
@[simp] theorem setDrip_bundle (s : State) (i : Nat) (x : Drip) (k : Nat) : (s.setDrip i x).bundle k = s.bundle k := rfl
@[simp] theorem setDrip_port (s : State) (i : Nat) (x : Drip) (k : Nat) : (s.setDrip i x).port k = s.port k := rfl
@[simp] theorem setDrip_ctx (s : State) (i : Nat) (x : Drip) (k : Nat) : (s.setDrip i x).ctx k = s.ctx k := rfl
@[simp] theorem setDrip_slotJ (s : State) (i : Nat) (x : Drip) (k : Nat) : (s.setDrip i x).slotJ k = s.slotJ k := rfl
@[simp] theorem setDrip_fn (s : State) (i : Nat) (x : Drip) (p f : Nat) : (s.setDrip i x).fn p f = s.fn p f := rfl
@[simp] theorem setDrip_hdr (s : State) (i : Nat) (x : Drip) (p : Page) : (s.setDrip i x).hdr p = s.hdr p := rfl
@[simp] theorem setDrip_mgmt (s : State) (i : Nat) (x : Drip) (c : Ctl) : (s.setDrip i x).mgmt c = s.mgmt c := by cases c <;> rfl

/-! ## setFlow -/

@[simp] theorem setFlow_flow (s : State) (i : Nat) (x : Flow) : (s.setFlow i x).flow i = x := tget_tset_self _ _ _ _

@[simp] theorem setFlow_flow_other (s : State) (i : Nat) (x : Flow) {j : Nat} (h : j ≠ i) : (s.setFlow i x).flow j = s.flow j :=
  tget_tset_other _ _ _ h

@[simp] theorem setFlow_mem (s : State) (i : Nat) (x : Flow) : (s.setFlow i x).mem = s.mem := rfl
@[simp] theorem setFlow_ue (s : State) (i : Nat) (x : Flow) : (s.setFlow i x).ue = s.ue := rfl
@[simp] theorem setFlow_hdrs (s : State) (i : Nat) (x : Flow) : (s.setFlow i x).hdrs = s.hdrs := rfl
@[simp] theorem setFlow_cycles (s : State) (i : Nat) (x : Flow) : (s.setFlow i x).cycles = s.cycles := rfl
@[simp] theorem setFlow_dev (s : State) (i : Nat) (x : Flow) : (s.setFlow i x).dev = s.dev := rfl
@[simp] theorem setFlow_geode (s : State) (i : Nat) (x : Flow) : (s.setFlow i x).geode = s.geode := rfl
@[simp] theorem setFlow_mgmtW (s : State) (i : Nat) (x : Flow) : (s.setFlow i x).mgmtW = s.mgmtW := rfl
@[simp] theorem setFlow_mgmtE (s : State) (i : Nat) (x : Flow) : (s.setFlow i x).mgmtE = s.mgmtE := rfl
@[simp] theorem setFlow_journal (s : State) (i : Nat) (x : Flow) : (s.setFlow i x).journal = s.journal := rfl
@[simp] theorem setFlow_lie (s : State) (i : Nat) (x : Flow) : (s.setFlow i x).lie = s.lie := rfl
@[simp] theorem setFlow_ports (s : State) (i : Nat) (x : Flow) : (s.setFlow i x).ports = s.ports := rfl
@[simp] theorem setFlow_fns (s : State) (i : Nat) (x : Flow) : (s.setFlow i x).fns = s.fns := rfl
@[simp] theorem setFlow_links (s : State) (i : Nat) (x : Flow) : (s.setFlow i x).links = s.links := rfl
@[simp] theorem setFlow_bundles (s : State) (i : Nat) (x : Flow) : (s.setFlow i x).bundles = s.bundles := rfl
@[simp] theorem setFlow_caverns (s : State) (i : Nat) (x : Flow) : (s.setFlow i x).caverns = s.caverns := rfl
@[simp] theorem setFlow_hbmcs (s : State) (i : Nat) (x : Flow) : (s.setFlow i x).hbmcs = s.hbmcs := rfl
@[simp] theorem setFlow_galleries (s : State) (i : Nat) (x : Flow) : (s.setFlow i x).galleries = s.galleries := rfl
@[simp] theorem setFlow_drips (s : State) (i : Nat) (x : Flow) : (s.setFlow i x).drips = s.drips := rfl
@[simp] theorem setFlow_vecs (s : State) (i : Nat) (x : Flow) : (s.setFlow i x).vecs = s.vecs := rfl
@[simp] theorem setFlow_helpers (s : State) (i : Nat) (x : Flow) : (s.setFlow i x).helpers = s.helpers := rfl
@[simp] theorem setFlow_engines (s : State) (i : Nat) (x : Flow) : (s.setFlow i x).engines = s.engines := rfl
@[simp] theorem setFlow_streams (s : State) (i : Nat) (x : Flow) : (s.setFlow i x).streams = s.streams := rfl
@[simp] theorem setFlow_msgs (s : State) (i : Nat) (x : Flow) : (s.setFlow i x).msgs = s.msgs := rfl
@[simp] theorem setFlow_pins (s : State) (i : Nat) (x : Flow) : (s.setFlow i x).pins = s.pins := rfl
@[simp] theorem setFlow_tap (s : State) (i : Nat) (x : Flow) : (s.setFlow i x).tap = s.tap := rfl
@[simp] theorem setFlow_hostOut (s : State) (i : Nat) (x : Flow) : (s.setFlow i x).hostOut = s.hostOut := rfl
@[simp] theorem setFlow_hostReq (s : State) (i : Nat) (x : Flow) : (s.setFlow i x).hostReq = s.hostReq := rfl
@[simp] theorem setFlow_msix (s : State) (i : Nat) (x : Flow) : (s.setFlow i x).msix = s.msix := rfl
@[simp] theorem setFlow_lastRead (s : State) (i : Nat) (x : Flow) : (s.setFlow i x).lastRead = s.lastRead := rfl
@[simp] theorem setFlow_sideband (s : State) (i : Nat) (x : Flow) : (s.setFlow i x).sideband = s.sideband := rfl
@[simp] theorem setFlow_freeCtr (s : State) (i : Nat) (x : Flow) : (s.setFlow i x).freeCtr = s.freeCtr := rfl
@[simp] theorem setFlow_outs (s : State) (i : Nat) (x : Flow) : (s.setFlow i x).outs = s.outs := rfl
@[simp] theorem setFlow_pending (s : State) (i : Nat) (x : Flow) : (s.setFlow i x).pending = s.pending := rfl
@[simp] theorem setFlow_eng (s : State) (i : Nat) (x : Flow) (k : Nat) : (s.setFlow i x).eng k = s.eng k := rfl
@[simp] theorem setFlow_strm (s : State) (i : Nat) (x : Flow) (k : Nat) : (s.setFlow i x).strm k = s.strm k := rfl
@[simp] theorem setFlow_gal (s : State) (i : Nat) (x : Flow) (k : Nat) : (s.setFlow i x).gal k = s.gal k := rfl
@[simp] theorem setFlow_drip (s : State) (i : Nat) (x : Flow) (k : Nat) : (s.setFlow i x).drip k = s.drip k := rfl
@[simp] theorem setFlow_hbmc (s : State) (i : Nat) (x : Flow) (k : Nat) : (s.setFlow i x).hbmc k = s.hbmc k := rfl
@[simp] theorem setFlow_cavern (s : State) (i : Nat) (x : Flow) (k : Nat) : (s.setFlow i x).cavern k = s.cavern k := rfl
@[simp] theorem setFlow_vec (s : State) (i : Nat) (x : Flow) (k : Nat) : (s.setFlow i x).vec k = s.vec k := rfl
@[simp] theorem setFlow_helper (s : State) (i : Nat) (x : Flow) (k : Nat) : (s.setFlow i x).helper k = s.helper k := rfl
@[simp] theorem setFlow_msg (s : State) (i : Nat) (x : Flow) (k : Nat) : (s.setFlow i x).msg k = s.msg k := rfl
@[simp] theorem setFlow_link (s : State) (i : Nat) (x : Flow) (k : Nat) : (s.setFlow i x).link k = s.link k := rfl
@[simp] theorem setFlow_bundle (s : State) (i : Nat) (x : Flow) (k : Nat) : (s.setFlow i x).bundle k = s.bundle k := rfl
@[simp] theorem setFlow_port (s : State) (i : Nat) (x : Flow) (k : Nat) : (s.setFlow i x).port k = s.port k := rfl
@[simp] theorem setFlow_ctx (s : State) (i : Nat) (x : Flow) (k : Nat) : (s.setFlow i x).ctx k = s.ctx k := rfl
@[simp] theorem setFlow_slotJ (s : State) (i : Nat) (x : Flow) (k : Nat) : (s.setFlow i x).slotJ k = s.slotJ k := rfl
@[simp] theorem setFlow_fn (s : State) (i : Nat) (x : Flow) (p f : Nat) : (s.setFlow i x).fn p f = s.fn p f := rfl
@[simp] theorem setFlow_hdr (s : State) (i : Nat) (x : Flow) (p : Page) : (s.setFlow i x).hdr p = s.hdr p := rfl
@[simp] theorem setFlow_mgmt (s : State) (i : Nat) (x : Flow) (c : Ctl) : (s.setFlow i x).mgmt c = s.mgmt c := by cases c <;> rfl

/-! ## setHbmc -/

@[simp] theorem setHbmc_hbmc (s : State) (i : Nat) (x : Hbmc) : (s.setHbmc i x).hbmc i = x := tget_tset_self _ _ _ _

@[simp] theorem setHbmc_hbmc_other (s : State) (i : Nat) (x : Hbmc) {j : Nat} (h : j ≠ i) : (s.setHbmc i x).hbmc j = s.hbmc j :=
  tget_tset_other _ _ _ h

@[simp] theorem setHbmc_mem (s : State) (i : Nat) (x : Hbmc) : (s.setHbmc i x).mem = s.mem := rfl
@[simp] theorem setHbmc_ue (s : State) (i : Nat) (x : Hbmc) : (s.setHbmc i x).ue = s.ue := rfl
@[simp] theorem setHbmc_hdrs (s : State) (i : Nat) (x : Hbmc) : (s.setHbmc i x).hdrs = s.hdrs := rfl
@[simp] theorem setHbmc_cycles (s : State) (i : Nat) (x : Hbmc) : (s.setHbmc i x).cycles = s.cycles := rfl
@[simp] theorem setHbmc_dev (s : State) (i : Nat) (x : Hbmc) : (s.setHbmc i x).dev = s.dev := rfl
@[simp] theorem setHbmc_geode (s : State) (i : Nat) (x : Hbmc) : (s.setHbmc i x).geode = s.geode := rfl
@[simp] theorem setHbmc_mgmtW (s : State) (i : Nat) (x : Hbmc) : (s.setHbmc i x).mgmtW = s.mgmtW := rfl
@[simp] theorem setHbmc_mgmtE (s : State) (i : Nat) (x : Hbmc) : (s.setHbmc i x).mgmtE = s.mgmtE := rfl
@[simp] theorem setHbmc_journal (s : State) (i : Nat) (x : Hbmc) : (s.setHbmc i x).journal = s.journal := rfl
@[simp] theorem setHbmc_lie (s : State) (i : Nat) (x : Hbmc) : (s.setHbmc i x).lie = s.lie := rfl
@[simp] theorem setHbmc_ports (s : State) (i : Nat) (x : Hbmc) : (s.setHbmc i x).ports = s.ports := rfl
@[simp] theorem setHbmc_fns (s : State) (i : Nat) (x : Hbmc) : (s.setHbmc i x).fns = s.fns := rfl
@[simp] theorem setHbmc_links (s : State) (i : Nat) (x : Hbmc) : (s.setHbmc i x).links = s.links := rfl
@[simp] theorem setHbmc_bundles (s : State) (i : Nat) (x : Hbmc) : (s.setHbmc i x).bundles = s.bundles := rfl
@[simp] theorem setHbmc_caverns (s : State) (i : Nat) (x : Hbmc) : (s.setHbmc i x).caverns = s.caverns := rfl
@[simp] theorem setHbmc_flows (s : State) (i : Nat) (x : Hbmc) : (s.setHbmc i x).flows = s.flows := rfl
@[simp] theorem setHbmc_galleries (s : State) (i : Nat) (x : Hbmc) : (s.setHbmc i x).galleries = s.galleries := rfl
@[simp] theorem setHbmc_drips (s : State) (i : Nat) (x : Hbmc) : (s.setHbmc i x).drips = s.drips := rfl
@[simp] theorem setHbmc_vecs (s : State) (i : Nat) (x : Hbmc) : (s.setHbmc i x).vecs = s.vecs := rfl
@[simp] theorem setHbmc_helpers (s : State) (i : Nat) (x : Hbmc) : (s.setHbmc i x).helpers = s.helpers := rfl
@[simp] theorem setHbmc_engines (s : State) (i : Nat) (x : Hbmc) : (s.setHbmc i x).engines = s.engines := rfl
@[simp] theorem setHbmc_streams (s : State) (i : Nat) (x : Hbmc) : (s.setHbmc i x).streams = s.streams := rfl
@[simp] theorem setHbmc_msgs (s : State) (i : Nat) (x : Hbmc) : (s.setHbmc i x).msgs = s.msgs := rfl
@[simp] theorem setHbmc_pins (s : State) (i : Nat) (x : Hbmc) : (s.setHbmc i x).pins = s.pins := rfl
@[simp] theorem setHbmc_tap (s : State) (i : Nat) (x : Hbmc) : (s.setHbmc i x).tap = s.tap := rfl
@[simp] theorem setHbmc_hostOut (s : State) (i : Nat) (x : Hbmc) : (s.setHbmc i x).hostOut = s.hostOut := rfl
@[simp] theorem setHbmc_hostReq (s : State) (i : Nat) (x : Hbmc) : (s.setHbmc i x).hostReq = s.hostReq := rfl
@[simp] theorem setHbmc_msix (s : State) (i : Nat) (x : Hbmc) : (s.setHbmc i x).msix = s.msix := rfl
@[simp] theorem setHbmc_lastRead (s : State) (i : Nat) (x : Hbmc) : (s.setHbmc i x).lastRead = s.lastRead := rfl
@[simp] theorem setHbmc_sideband (s : State) (i : Nat) (x : Hbmc) : (s.setHbmc i x).sideband = s.sideband := rfl
@[simp] theorem setHbmc_freeCtr (s : State) (i : Nat) (x : Hbmc) : (s.setHbmc i x).freeCtr = s.freeCtr := rfl
@[simp] theorem setHbmc_outs (s : State) (i : Nat) (x : Hbmc) : (s.setHbmc i x).outs = s.outs := rfl
@[simp] theorem setHbmc_pending (s : State) (i : Nat) (x : Hbmc) : (s.setHbmc i x).pending = s.pending := rfl
@[simp] theorem setHbmc_eng (s : State) (i : Nat) (x : Hbmc) (k : Nat) : (s.setHbmc i x).eng k = s.eng k := rfl
@[simp] theorem setHbmc_strm (s : State) (i : Nat) (x : Hbmc) (k : Nat) : (s.setHbmc i x).strm k = s.strm k := rfl
@[simp] theorem setHbmc_gal (s : State) (i : Nat) (x : Hbmc) (k : Nat) : (s.setHbmc i x).gal k = s.gal k := rfl
@[simp] theorem setHbmc_drip (s : State) (i : Nat) (x : Hbmc) (k : Nat) : (s.setHbmc i x).drip k = s.drip k := rfl
@[simp] theorem setHbmc_flow (s : State) (i : Nat) (x : Hbmc) (k : Nat) : (s.setHbmc i x).flow k = s.flow k := rfl
@[simp] theorem setHbmc_cavern (s : State) (i : Nat) (x : Hbmc) (k : Nat) : (s.setHbmc i x).cavern k = s.cavern k := rfl
@[simp] theorem setHbmc_vec (s : State) (i : Nat) (x : Hbmc) (k : Nat) : (s.setHbmc i x).vec k = s.vec k := rfl
@[simp] theorem setHbmc_helper (s : State) (i : Nat) (x : Hbmc) (k : Nat) : (s.setHbmc i x).helper k = s.helper k := rfl
@[simp] theorem setHbmc_msg (s : State) (i : Nat) (x : Hbmc) (k : Nat) : (s.setHbmc i x).msg k = s.msg k := rfl
@[simp] theorem setHbmc_link (s : State) (i : Nat) (x : Hbmc) (k : Nat) : (s.setHbmc i x).link k = s.link k := rfl
@[simp] theorem setHbmc_bundle (s : State) (i : Nat) (x : Hbmc) (k : Nat) : (s.setHbmc i x).bundle k = s.bundle k := rfl
@[simp] theorem setHbmc_port (s : State) (i : Nat) (x : Hbmc) (k : Nat) : (s.setHbmc i x).port k = s.port k := rfl
@[simp] theorem setHbmc_ctx (s : State) (i : Nat) (x : Hbmc) (k : Nat) : (s.setHbmc i x).ctx k = s.ctx k := rfl
@[simp] theorem setHbmc_slotJ (s : State) (i : Nat) (x : Hbmc) (k : Nat) : (s.setHbmc i x).slotJ k = s.slotJ k := rfl
@[simp] theorem setHbmc_fn (s : State) (i : Nat) (x : Hbmc) (p f : Nat) : (s.setHbmc i x).fn p f = s.fn p f := rfl
@[simp] theorem setHbmc_hdr (s : State) (i : Nat) (x : Hbmc) (p : Page) : (s.setHbmc i x).hdr p = s.hdr p := rfl
@[simp] theorem setHbmc_mgmt (s : State) (i : Nat) (x : Hbmc) (c : Ctl) : (s.setHbmc i x).mgmt c = s.mgmt c := by cases c <;> rfl

/-! ## setCavern -/

@[simp] theorem setCavern_cavern (s : State) (i : Nat) (x : Cavern) : (s.setCavern i x).cavern i = x := tget_tset_self _ _ _ _

@[simp] theorem setCavern_cavern_other (s : State) (i : Nat) (x : Cavern) {j : Nat} (h : j ≠ i) : (s.setCavern i x).cavern j = s.cavern j :=
  tget_tset_other _ _ _ h

@[simp] theorem setCavern_mem (s : State) (i : Nat) (x : Cavern) : (s.setCavern i x).mem = s.mem := rfl
@[simp] theorem setCavern_ue (s : State) (i : Nat) (x : Cavern) : (s.setCavern i x).ue = s.ue := rfl
@[simp] theorem setCavern_hdrs (s : State) (i : Nat) (x : Cavern) : (s.setCavern i x).hdrs = s.hdrs := rfl
@[simp] theorem setCavern_cycles (s : State) (i : Nat) (x : Cavern) : (s.setCavern i x).cycles = s.cycles := rfl
@[simp] theorem setCavern_dev (s : State) (i : Nat) (x : Cavern) : (s.setCavern i x).dev = s.dev := rfl
@[simp] theorem setCavern_geode (s : State) (i : Nat) (x : Cavern) : (s.setCavern i x).geode = s.geode := rfl
@[simp] theorem setCavern_mgmtW (s : State) (i : Nat) (x : Cavern) : (s.setCavern i x).mgmtW = s.mgmtW := rfl
@[simp] theorem setCavern_mgmtE (s : State) (i : Nat) (x : Cavern) : (s.setCavern i x).mgmtE = s.mgmtE := rfl
@[simp] theorem setCavern_journal (s : State) (i : Nat) (x : Cavern) : (s.setCavern i x).journal = s.journal := rfl
@[simp] theorem setCavern_lie (s : State) (i : Nat) (x : Cavern) : (s.setCavern i x).lie = s.lie := rfl
@[simp] theorem setCavern_ports (s : State) (i : Nat) (x : Cavern) : (s.setCavern i x).ports = s.ports := rfl
@[simp] theorem setCavern_fns (s : State) (i : Nat) (x : Cavern) : (s.setCavern i x).fns = s.fns := rfl
@[simp] theorem setCavern_links (s : State) (i : Nat) (x : Cavern) : (s.setCavern i x).links = s.links := rfl
@[simp] theorem setCavern_bundles (s : State) (i : Nat) (x : Cavern) : (s.setCavern i x).bundles = s.bundles := rfl
@[simp] theorem setCavern_flows (s : State) (i : Nat) (x : Cavern) : (s.setCavern i x).flows = s.flows := rfl
@[simp] theorem setCavern_hbmcs (s : State) (i : Nat) (x : Cavern) : (s.setCavern i x).hbmcs = s.hbmcs := rfl
@[simp] theorem setCavern_galleries (s : State) (i : Nat) (x : Cavern) : (s.setCavern i x).galleries = s.galleries := rfl
@[simp] theorem setCavern_drips (s : State) (i : Nat) (x : Cavern) : (s.setCavern i x).drips = s.drips := rfl
@[simp] theorem setCavern_vecs (s : State) (i : Nat) (x : Cavern) : (s.setCavern i x).vecs = s.vecs := rfl
@[simp] theorem setCavern_helpers (s : State) (i : Nat) (x : Cavern) : (s.setCavern i x).helpers = s.helpers := rfl
@[simp] theorem setCavern_engines (s : State) (i : Nat) (x : Cavern) : (s.setCavern i x).engines = s.engines := rfl
@[simp] theorem setCavern_streams (s : State) (i : Nat) (x : Cavern) : (s.setCavern i x).streams = s.streams := rfl
@[simp] theorem setCavern_msgs (s : State) (i : Nat) (x : Cavern) : (s.setCavern i x).msgs = s.msgs := rfl
@[simp] theorem setCavern_pins (s : State) (i : Nat) (x : Cavern) : (s.setCavern i x).pins = s.pins := rfl
@[simp] theorem setCavern_tap (s : State) (i : Nat) (x : Cavern) : (s.setCavern i x).tap = s.tap := rfl
@[simp] theorem setCavern_hostOut (s : State) (i : Nat) (x : Cavern) : (s.setCavern i x).hostOut = s.hostOut := rfl
@[simp] theorem setCavern_hostReq (s : State) (i : Nat) (x : Cavern) : (s.setCavern i x).hostReq = s.hostReq := rfl
@[simp] theorem setCavern_msix (s : State) (i : Nat) (x : Cavern) : (s.setCavern i x).msix = s.msix := rfl
@[simp] theorem setCavern_lastRead (s : State) (i : Nat) (x : Cavern) : (s.setCavern i x).lastRead = s.lastRead := rfl
@[simp] theorem setCavern_sideband (s : State) (i : Nat) (x : Cavern) : (s.setCavern i x).sideband = s.sideband := rfl
@[simp] theorem setCavern_freeCtr (s : State) (i : Nat) (x : Cavern) : (s.setCavern i x).freeCtr = s.freeCtr := rfl
@[simp] theorem setCavern_outs (s : State) (i : Nat) (x : Cavern) : (s.setCavern i x).outs = s.outs := rfl
@[simp] theorem setCavern_pending (s : State) (i : Nat) (x : Cavern) : (s.setCavern i x).pending = s.pending := rfl
@[simp] theorem setCavern_eng (s : State) (i : Nat) (x : Cavern) (k : Nat) : (s.setCavern i x).eng k = s.eng k := rfl
@[simp] theorem setCavern_strm (s : State) (i : Nat) (x : Cavern) (k : Nat) : (s.setCavern i x).strm k = s.strm k := rfl
@[simp] theorem setCavern_gal (s : State) (i : Nat) (x : Cavern) (k : Nat) : (s.setCavern i x).gal k = s.gal k := rfl
@[simp] theorem setCavern_drip (s : State) (i : Nat) (x : Cavern) (k : Nat) : (s.setCavern i x).drip k = s.drip k := rfl
@[simp] theorem setCavern_flow (s : State) (i : Nat) (x : Cavern) (k : Nat) : (s.setCavern i x).flow k = s.flow k := rfl
@[simp] theorem setCavern_hbmc (s : State) (i : Nat) (x : Cavern) (k : Nat) : (s.setCavern i x).hbmc k = s.hbmc k := rfl
@[simp] theorem setCavern_vec (s : State) (i : Nat) (x : Cavern) (k : Nat) : (s.setCavern i x).vec k = s.vec k := rfl
@[simp] theorem setCavern_helper (s : State) (i : Nat) (x : Cavern) (k : Nat) : (s.setCavern i x).helper k = s.helper k := rfl
@[simp] theorem setCavern_msg (s : State) (i : Nat) (x : Cavern) (k : Nat) : (s.setCavern i x).msg k = s.msg k := rfl
@[simp] theorem setCavern_link (s : State) (i : Nat) (x : Cavern) (k : Nat) : (s.setCavern i x).link k = s.link k := rfl
@[simp] theorem setCavern_bundle (s : State) (i : Nat) (x : Cavern) (k : Nat) : (s.setCavern i x).bundle k = s.bundle k := rfl
@[simp] theorem setCavern_port (s : State) (i : Nat) (x : Cavern) (k : Nat) : (s.setCavern i x).port k = s.port k := rfl
@[simp] theorem setCavern_ctx (s : State) (i : Nat) (x : Cavern) (k : Nat) : (s.setCavern i x).ctx k = s.ctx k := rfl
@[simp] theorem setCavern_slotJ (s : State) (i : Nat) (x : Cavern) (k : Nat) : (s.setCavern i x).slotJ k = s.slotJ k := rfl
@[simp] theorem setCavern_fn (s : State) (i : Nat) (x : Cavern) (p f : Nat) : (s.setCavern i x).fn p f = s.fn p f := rfl
@[simp] theorem setCavern_hdr (s : State) (i : Nat) (x : Cavern) (p : Page) : (s.setCavern i x).hdr p = s.hdr p := rfl
@[simp] theorem setCavern_mgmt (s : State) (i : Nat) (x : Cavern) (c : Ctl) : (s.setCavern i x).mgmt c = s.mgmt c := by cases c <;> rfl

/-! ## setVec -/

@[simp] theorem setVec_vec (s : State) (i : Nat) (x : Vec) : (s.setVec i x).vec i = x := tget_tset_self _ _ _ _

@[simp] theorem setVec_vec_other (s : State) (i : Nat) (x : Vec) {j : Nat} (h : j ≠ i) : (s.setVec i x).vec j = s.vec j :=
  tget_tset_other _ _ _ h

@[simp] theorem setVec_mem (s : State) (i : Nat) (x : Vec) : (s.setVec i x).mem = s.mem := rfl
@[simp] theorem setVec_ue (s : State) (i : Nat) (x : Vec) : (s.setVec i x).ue = s.ue := rfl
@[simp] theorem setVec_hdrs (s : State) (i : Nat) (x : Vec) : (s.setVec i x).hdrs = s.hdrs := rfl
@[simp] theorem setVec_cycles (s : State) (i : Nat) (x : Vec) : (s.setVec i x).cycles = s.cycles := rfl
@[simp] theorem setVec_dev (s : State) (i : Nat) (x : Vec) : (s.setVec i x).dev = s.dev := rfl
@[simp] theorem setVec_geode (s : State) (i : Nat) (x : Vec) : (s.setVec i x).geode = s.geode := rfl
@[simp] theorem setVec_mgmtW (s : State) (i : Nat) (x : Vec) : (s.setVec i x).mgmtW = s.mgmtW := rfl
@[simp] theorem setVec_mgmtE (s : State) (i : Nat) (x : Vec) : (s.setVec i x).mgmtE = s.mgmtE := rfl
@[simp] theorem setVec_journal (s : State) (i : Nat) (x : Vec) : (s.setVec i x).journal = s.journal := rfl
@[simp] theorem setVec_lie (s : State) (i : Nat) (x : Vec) : (s.setVec i x).lie = s.lie := rfl
@[simp] theorem setVec_ports (s : State) (i : Nat) (x : Vec) : (s.setVec i x).ports = s.ports := rfl
@[simp] theorem setVec_fns (s : State) (i : Nat) (x : Vec) : (s.setVec i x).fns = s.fns := rfl
@[simp] theorem setVec_links (s : State) (i : Nat) (x : Vec) : (s.setVec i x).links = s.links := rfl
@[simp] theorem setVec_bundles (s : State) (i : Nat) (x : Vec) : (s.setVec i x).bundles = s.bundles := rfl
@[simp] theorem setVec_caverns (s : State) (i : Nat) (x : Vec) : (s.setVec i x).caverns = s.caverns := rfl
@[simp] theorem setVec_flows (s : State) (i : Nat) (x : Vec) : (s.setVec i x).flows = s.flows := rfl
@[simp] theorem setVec_hbmcs (s : State) (i : Nat) (x : Vec) : (s.setVec i x).hbmcs = s.hbmcs := rfl
@[simp] theorem setVec_galleries (s : State) (i : Nat) (x : Vec) : (s.setVec i x).galleries = s.galleries := rfl
@[simp] theorem setVec_drips (s : State) (i : Nat) (x : Vec) : (s.setVec i x).drips = s.drips := rfl
@[simp] theorem setVec_helpers (s : State) (i : Nat) (x : Vec) : (s.setVec i x).helpers = s.helpers := rfl
@[simp] theorem setVec_engines (s : State) (i : Nat) (x : Vec) : (s.setVec i x).engines = s.engines := rfl
@[simp] theorem setVec_streams (s : State) (i : Nat) (x : Vec) : (s.setVec i x).streams = s.streams := rfl
@[simp] theorem setVec_msgs (s : State) (i : Nat) (x : Vec) : (s.setVec i x).msgs = s.msgs := rfl
@[simp] theorem setVec_pins (s : State) (i : Nat) (x : Vec) : (s.setVec i x).pins = s.pins := rfl
@[simp] theorem setVec_tap (s : State) (i : Nat) (x : Vec) : (s.setVec i x).tap = s.tap := rfl
@[simp] theorem setVec_hostOut (s : State) (i : Nat) (x : Vec) : (s.setVec i x).hostOut = s.hostOut := rfl
@[simp] theorem setVec_hostReq (s : State) (i : Nat) (x : Vec) : (s.setVec i x).hostReq = s.hostReq := rfl
@[simp] theorem setVec_msix (s : State) (i : Nat) (x : Vec) : (s.setVec i x).msix = s.msix := rfl
@[simp] theorem setVec_lastRead (s : State) (i : Nat) (x : Vec) : (s.setVec i x).lastRead = s.lastRead := rfl
@[simp] theorem setVec_sideband (s : State) (i : Nat) (x : Vec) : (s.setVec i x).sideband = s.sideband := rfl
@[simp] theorem setVec_freeCtr (s : State) (i : Nat) (x : Vec) : (s.setVec i x).freeCtr = s.freeCtr := rfl
@[simp] theorem setVec_outs (s : State) (i : Nat) (x : Vec) : (s.setVec i x).outs = s.outs := rfl
@[simp] theorem setVec_pending (s : State) (i : Nat) (x : Vec) : (s.setVec i x).pending = s.pending := rfl
@[simp] theorem setVec_eng (s : State) (i : Nat) (x : Vec) (k : Nat) : (s.setVec i x).eng k = s.eng k := rfl
@[simp] theorem setVec_strm (s : State) (i : Nat) (x : Vec) (k : Nat) : (s.setVec i x).strm k = s.strm k := rfl
@[simp] theorem setVec_gal (s : State) (i : Nat) (x : Vec) (k : Nat) : (s.setVec i x).gal k = s.gal k := rfl
@[simp] theorem setVec_drip (s : State) (i : Nat) (x : Vec) (k : Nat) : (s.setVec i x).drip k = s.drip k := rfl
@[simp] theorem setVec_flow (s : State) (i : Nat) (x : Vec) (k : Nat) : (s.setVec i x).flow k = s.flow k := rfl
@[simp] theorem setVec_hbmc (s : State) (i : Nat) (x : Vec) (k : Nat) : (s.setVec i x).hbmc k = s.hbmc k := rfl
@[simp] theorem setVec_cavern (s : State) (i : Nat) (x : Vec) (k : Nat) : (s.setVec i x).cavern k = s.cavern k := rfl
@[simp] theorem setVec_helper (s : State) (i : Nat) (x : Vec) (k : Nat) : (s.setVec i x).helper k = s.helper k := rfl
@[simp] theorem setVec_msg (s : State) (i : Nat) (x : Vec) (k : Nat) : (s.setVec i x).msg k = s.msg k := rfl
@[simp] theorem setVec_link (s : State) (i : Nat) (x : Vec) (k : Nat) : (s.setVec i x).link k = s.link k := rfl
@[simp] theorem setVec_bundle (s : State) (i : Nat) (x : Vec) (k : Nat) : (s.setVec i x).bundle k = s.bundle k := rfl
@[simp] theorem setVec_port (s : State) (i : Nat) (x : Vec) (k : Nat) : (s.setVec i x).port k = s.port k := rfl
@[simp] theorem setVec_ctx (s : State) (i : Nat) (x : Vec) (k : Nat) : (s.setVec i x).ctx k = s.ctx k := rfl
@[simp] theorem setVec_slotJ (s : State) (i : Nat) (x : Vec) (k : Nat) : (s.setVec i x).slotJ k = s.slotJ k := rfl
@[simp] theorem setVec_fn (s : State) (i : Nat) (x : Vec) (p f : Nat) : (s.setVec i x).fn p f = s.fn p f := rfl
@[simp] theorem setVec_hdr (s : State) (i : Nat) (x : Vec) (p : Page) : (s.setVec i x).hdr p = s.hdr p := rfl
@[simp] theorem setVec_mgmt (s : State) (i : Nat) (x : Vec) (c : Ctl) : (s.setVec i x).mgmt c = s.mgmt c := by cases c <;> rfl

/-! ## setHelper -/

@[simp] theorem setHelper_helper (s : State) (i : Nat) (x : Helper) : (s.setHelper i x).helper i = x := tget_tset_self _ _ _ _

@[simp] theorem setHelper_helper_other (s : State) (i : Nat) (x : Helper) {j : Nat} (h : j ≠ i) : (s.setHelper i x).helper j = s.helper j :=
  tget_tset_other _ _ _ h

@[simp] theorem setHelper_mem (s : State) (i : Nat) (x : Helper) : (s.setHelper i x).mem = s.mem := rfl
@[simp] theorem setHelper_ue (s : State) (i : Nat) (x : Helper) : (s.setHelper i x).ue = s.ue := rfl
@[simp] theorem setHelper_hdrs (s : State) (i : Nat) (x : Helper) : (s.setHelper i x).hdrs = s.hdrs := rfl
@[simp] theorem setHelper_cycles (s : State) (i : Nat) (x : Helper) : (s.setHelper i x).cycles = s.cycles := rfl
@[simp] theorem setHelper_dev (s : State) (i : Nat) (x : Helper) : (s.setHelper i x).dev = s.dev := rfl
@[simp] theorem setHelper_geode (s : State) (i : Nat) (x : Helper) : (s.setHelper i x).geode = s.geode := rfl
@[simp] theorem setHelper_mgmtW (s : State) (i : Nat) (x : Helper) : (s.setHelper i x).mgmtW = s.mgmtW := rfl
@[simp] theorem setHelper_mgmtE (s : State) (i : Nat) (x : Helper) : (s.setHelper i x).mgmtE = s.mgmtE := rfl
@[simp] theorem setHelper_journal (s : State) (i : Nat) (x : Helper) : (s.setHelper i x).journal = s.journal := rfl
@[simp] theorem setHelper_lie (s : State) (i : Nat) (x : Helper) : (s.setHelper i x).lie = s.lie := rfl
@[simp] theorem setHelper_ports (s : State) (i : Nat) (x : Helper) : (s.setHelper i x).ports = s.ports := rfl
@[simp] theorem setHelper_fns (s : State) (i : Nat) (x : Helper) : (s.setHelper i x).fns = s.fns := rfl
@[simp] theorem setHelper_links (s : State) (i : Nat) (x : Helper) : (s.setHelper i x).links = s.links := rfl
@[simp] theorem setHelper_bundles (s : State) (i : Nat) (x : Helper) : (s.setHelper i x).bundles = s.bundles := rfl
@[simp] theorem setHelper_caverns (s : State) (i : Nat) (x : Helper) : (s.setHelper i x).caverns = s.caverns := rfl
@[simp] theorem setHelper_flows (s : State) (i : Nat) (x : Helper) : (s.setHelper i x).flows = s.flows := rfl
@[simp] theorem setHelper_hbmcs (s : State) (i : Nat) (x : Helper) : (s.setHelper i x).hbmcs = s.hbmcs := rfl
@[simp] theorem setHelper_galleries (s : State) (i : Nat) (x : Helper) : (s.setHelper i x).galleries = s.galleries := rfl
@[simp] theorem setHelper_drips (s : State) (i : Nat) (x : Helper) : (s.setHelper i x).drips = s.drips := rfl
@[simp] theorem setHelper_vecs (s : State) (i : Nat) (x : Helper) : (s.setHelper i x).vecs = s.vecs := rfl
@[simp] theorem setHelper_engines (s : State) (i : Nat) (x : Helper) : (s.setHelper i x).engines = s.engines := rfl
@[simp] theorem setHelper_streams (s : State) (i : Nat) (x : Helper) : (s.setHelper i x).streams = s.streams := rfl
@[simp] theorem setHelper_msgs (s : State) (i : Nat) (x : Helper) : (s.setHelper i x).msgs = s.msgs := rfl
@[simp] theorem setHelper_pins (s : State) (i : Nat) (x : Helper) : (s.setHelper i x).pins = s.pins := rfl
@[simp] theorem setHelper_tap (s : State) (i : Nat) (x : Helper) : (s.setHelper i x).tap = s.tap := rfl
@[simp] theorem setHelper_hostOut (s : State) (i : Nat) (x : Helper) : (s.setHelper i x).hostOut = s.hostOut := rfl
@[simp] theorem setHelper_hostReq (s : State) (i : Nat) (x : Helper) : (s.setHelper i x).hostReq = s.hostReq := rfl
@[simp] theorem setHelper_msix (s : State) (i : Nat) (x : Helper) : (s.setHelper i x).msix = s.msix := rfl
@[simp] theorem setHelper_lastRead (s : State) (i : Nat) (x : Helper) : (s.setHelper i x).lastRead = s.lastRead := rfl
@[simp] theorem setHelper_sideband (s : State) (i : Nat) (x : Helper) : (s.setHelper i x).sideband = s.sideband := rfl
@[simp] theorem setHelper_freeCtr (s : State) (i : Nat) (x : Helper) : (s.setHelper i x).freeCtr = s.freeCtr := rfl
@[simp] theorem setHelper_outs (s : State) (i : Nat) (x : Helper) : (s.setHelper i x).outs = s.outs := rfl
@[simp] theorem setHelper_pending (s : State) (i : Nat) (x : Helper) : (s.setHelper i x).pending = s.pending := rfl
@[simp] theorem setHelper_eng (s : State) (i : Nat) (x : Helper) (k : Nat) : (s.setHelper i x).eng k = s.eng k := rfl
@[simp] theorem setHelper_strm (s : State) (i : Nat) (x : Helper) (k : Nat) : (s.setHelper i x).strm k = s.strm k := rfl
@[simp] theorem setHelper_gal (s : State) (i : Nat) (x : Helper) (k : Nat) : (s.setHelper i x).gal k = s.gal k := rfl
@[simp] theorem setHelper_drip (s : State) (i : Nat) (x : Helper) (k : Nat) : (s.setHelper i x).drip k = s.drip k := rfl
@[simp] theorem setHelper_flow (s : State) (i : Nat) (x : Helper) (k : Nat) : (s.setHelper i x).flow k = s.flow k := rfl
@[simp] theorem setHelper_hbmc (s : State) (i : Nat) (x : Helper) (k : Nat) : (s.setHelper i x).hbmc k = s.hbmc k := rfl
@[simp] theorem setHelper_cavern (s : State) (i : Nat) (x : Helper) (k : Nat) : (s.setHelper i x).cavern k = s.cavern k := rfl
@[simp] theorem setHelper_vec (s : State) (i : Nat) (x : Helper) (k : Nat) : (s.setHelper i x).vec k = s.vec k := rfl
@[simp] theorem setHelper_msg (s : State) (i : Nat) (x : Helper) (k : Nat) : (s.setHelper i x).msg k = s.msg k := rfl
@[simp] theorem setHelper_link (s : State) (i : Nat) (x : Helper) (k : Nat) : (s.setHelper i x).link k = s.link k := rfl
@[simp] theorem setHelper_bundle (s : State) (i : Nat) (x : Helper) (k : Nat) : (s.setHelper i x).bundle k = s.bundle k := rfl
@[simp] theorem setHelper_port (s : State) (i : Nat) (x : Helper) (k : Nat) : (s.setHelper i x).port k = s.port k := rfl
@[simp] theorem setHelper_ctx (s : State) (i : Nat) (x : Helper) (k : Nat) : (s.setHelper i x).ctx k = s.ctx k := rfl
@[simp] theorem setHelper_slotJ (s : State) (i : Nat) (x : Helper) (k : Nat) : (s.setHelper i x).slotJ k = s.slotJ k := rfl
@[simp] theorem setHelper_fn (s : State) (i : Nat) (x : Helper) (p f : Nat) : (s.setHelper i x).fn p f = s.fn p f := rfl
@[simp] theorem setHelper_hdr (s : State) (i : Nat) (x : Helper) (p : Page) : (s.setHelper i x).hdr p = s.hdr p := rfl
@[simp] theorem setHelper_mgmt (s : State) (i : Nat) (x : Helper) (c : Ctl) : (s.setHelper i x).mgmt c = s.mgmt c := by cases c <;> rfl

/-! ## setMsg -/

@[simp] theorem setMsg_msg (s : State) (i : Nat) (x : Msg) : (s.setMsg i x).msg i = x := tget_tset_self _ _ _ _

@[simp] theorem setMsg_msg_other (s : State) (i : Nat) (x : Msg) {j : Nat} (h : j ≠ i) : (s.setMsg i x).msg j = s.msg j :=
  tget_tset_other _ _ _ h

@[simp] theorem setMsg_mem (s : State) (i : Nat) (x : Msg) : (s.setMsg i x).mem = s.mem := rfl
@[simp] theorem setMsg_ue (s : State) (i : Nat) (x : Msg) : (s.setMsg i x).ue = s.ue := rfl
@[simp] theorem setMsg_hdrs (s : State) (i : Nat) (x : Msg) : (s.setMsg i x).hdrs = s.hdrs := rfl
@[simp] theorem setMsg_cycles (s : State) (i : Nat) (x : Msg) : (s.setMsg i x).cycles = s.cycles := rfl
@[simp] theorem setMsg_dev (s : State) (i : Nat) (x : Msg) : (s.setMsg i x).dev = s.dev := rfl
@[simp] theorem setMsg_geode (s : State) (i : Nat) (x : Msg) : (s.setMsg i x).geode = s.geode := rfl
@[simp] theorem setMsg_mgmtW (s : State) (i : Nat) (x : Msg) : (s.setMsg i x).mgmtW = s.mgmtW := rfl
@[simp] theorem setMsg_mgmtE (s : State) (i : Nat) (x : Msg) : (s.setMsg i x).mgmtE = s.mgmtE := rfl
@[simp] theorem setMsg_journal (s : State) (i : Nat) (x : Msg) : (s.setMsg i x).journal = s.journal := rfl
@[simp] theorem setMsg_lie (s : State) (i : Nat) (x : Msg) : (s.setMsg i x).lie = s.lie := rfl
@[simp] theorem setMsg_ports (s : State) (i : Nat) (x : Msg) : (s.setMsg i x).ports = s.ports := rfl
@[simp] theorem setMsg_fns (s : State) (i : Nat) (x : Msg) : (s.setMsg i x).fns = s.fns := rfl
@[simp] theorem setMsg_links (s : State) (i : Nat) (x : Msg) : (s.setMsg i x).links = s.links := rfl
@[simp] theorem setMsg_bundles (s : State) (i : Nat) (x : Msg) : (s.setMsg i x).bundles = s.bundles := rfl
@[simp] theorem setMsg_caverns (s : State) (i : Nat) (x : Msg) : (s.setMsg i x).caverns = s.caverns := rfl
@[simp] theorem setMsg_flows (s : State) (i : Nat) (x : Msg) : (s.setMsg i x).flows = s.flows := rfl
@[simp] theorem setMsg_hbmcs (s : State) (i : Nat) (x : Msg) : (s.setMsg i x).hbmcs = s.hbmcs := rfl
@[simp] theorem setMsg_galleries (s : State) (i : Nat) (x : Msg) : (s.setMsg i x).galleries = s.galleries := rfl
@[simp] theorem setMsg_drips (s : State) (i : Nat) (x : Msg) : (s.setMsg i x).drips = s.drips := rfl
@[simp] theorem setMsg_vecs (s : State) (i : Nat) (x : Msg) : (s.setMsg i x).vecs = s.vecs := rfl
@[simp] theorem setMsg_helpers (s : State) (i : Nat) (x : Msg) : (s.setMsg i x).helpers = s.helpers := rfl
@[simp] theorem setMsg_engines (s : State) (i : Nat) (x : Msg) : (s.setMsg i x).engines = s.engines := rfl
@[simp] theorem setMsg_streams (s : State) (i : Nat) (x : Msg) : (s.setMsg i x).streams = s.streams := rfl
@[simp] theorem setMsg_pins (s : State) (i : Nat) (x : Msg) : (s.setMsg i x).pins = s.pins := rfl
@[simp] theorem setMsg_tap (s : State) (i : Nat) (x : Msg) : (s.setMsg i x).tap = s.tap := rfl
@[simp] theorem setMsg_hostOut (s : State) (i : Nat) (x : Msg) : (s.setMsg i x).hostOut = s.hostOut := rfl
@[simp] theorem setMsg_hostReq (s : State) (i : Nat) (x : Msg) : (s.setMsg i x).hostReq = s.hostReq := rfl
@[simp] theorem setMsg_msix (s : State) (i : Nat) (x : Msg) : (s.setMsg i x).msix = s.msix := rfl
@[simp] theorem setMsg_lastRead (s : State) (i : Nat) (x : Msg) : (s.setMsg i x).lastRead = s.lastRead := rfl
@[simp] theorem setMsg_sideband (s : State) (i : Nat) (x : Msg) : (s.setMsg i x).sideband = s.sideband := rfl
@[simp] theorem setMsg_freeCtr (s : State) (i : Nat) (x : Msg) : (s.setMsg i x).freeCtr = s.freeCtr := rfl
@[simp] theorem setMsg_outs (s : State) (i : Nat) (x : Msg) : (s.setMsg i x).outs = s.outs := rfl
@[simp] theorem setMsg_pending (s : State) (i : Nat) (x : Msg) : (s.setMsg i x).pending = s.pending := rfl
@[simp] theorem setMsg_eng (s : State) (i : Nat) (x : Msg) (k : Nat) : (s.setMsg i x).eng k = s.eng k := rfl
@[simp] theorem setMsg_strm (s : State) (i : Nat) (x : Msg) (k : Nat) : (s.setMsg i x).strm k = s.strm k := rfl
@[simp] theorem setMsg_gal (s : State) (i : Nat) (x : Msg) (k : Nat) : (s.setMsg i x).gal k = s.gal k := rfl
@[simp] theorem setMsg_drip (s : State) (i : Nat) (x : Msg) (k : Nat) : (s.setMsg i x).drip k = s.drip k := rfl
@[simp] theorem setMsg_flow (s : State) (i : Nat) (x : Msg) (k : Nat) : (s.setMsg i x).flow k = s.flow k := rfl
@[simp] theorem setMsg_hbmc (s : State) (i : Nat) (x : Msg) (k : Nat) : (s.setMsg i x).hbmc k = s.hbmc k := rfl
@[simp] theorem setMsg_cavern (s : State) (i : Nat) (x : Msg) (k : Nat) : (s.setMsg i x).cavern k = s.cavern k := rfl
@[simp] theorem setMsg_vec (s : State) (i : Nat) (x : Msg) (k : Nat) : (s.setMsg i x).vec k = s.vec k := rfl
@[simp] theorem setMsg_helper (s : State) (i : Nat) (x : Msg) (k : Nat) : (s.setMsg i x).helper k = s.helper k := rfl
@[simp] theorem setMsg_link (s : State) (i : Nat) (x : Msg) (k : Nat) : (s.setMsg i x).link k = s.link k := rfl
@[simp] theorem setMsg_bundle (s : State) (i : Nat) (x : Msg) (k : Nat) : (s.setMsg i x).bundle k = s.bundle k := rfl
@[simp] theorem setMsg_port (s : State) (i : Nat) (x : Msg) (k : Nat) : (s.setMsg i x).port k = s.port k := rfl
@[simp] theorem setMsg_ctx (s : State) (i : Nat) (x : Msg) (k : Nat) : (s.setMsg i x).ctx k = s.ctx k := rfl
@[simp] theorem setMsg_slotJ (s : State) (i : Nat) (x : Msg) (k : Nat) : (s.setMsg i x).slotJ k = s.slotJ k := rfl
@[simp] theorem setMsg_fn (s : State) (i : Nat) (x : Msg) (p f : Nat) : (s.setMsg i x).fn p f = s.fn p f := rfl
@[simp] theorem setMsg_hdr (s : State) (i : Nat) (x : Msg) (p : Page) : (s.setMsg i x).hdr p = s.hdr p := rfl
@[simp] theorem setMsg_mgmt (s : State) (i : Nat) (x : Msg) (c : Ctl) : (s.setMsg i x).mgmt c = s.mgmt c := by cases c <;> rfl

/-! ## setLink -/

@[simp] theorem setLink_link (s : State) (i : Nat) (x : Link) : (s.setLink i x).link i = x := tget_tset_self _ _ _ _

@[simp] theorem setLink_link_other (s : State) (i : Nat) (x : Link) {j : Nat} (h : j ≠ i) : (s.setLink i x).link j = s.link j :=
  tget_tset_other _ _ _ h

@[simp] theorem setLink_mem (s : State) (i : Nat) (x : Link) : (s.setLink i x).mem = s.mem := rfl
@[simp] theorem setLink_ue (s : State) (i : Nat) (x : Link) : (s.setLink i x).ue = s.ue := rfl
@[simp] theorem setLink_hdrs (s : State) (i : Nat) (x : Link) : (s.setLink i x).hdrs = s.hdrs := rfl
@[simp] theorem setLink_cycles (s : State) (i : Nat) (x : Link) : (s.setLink i x).cycles = s.cycles := rfl
@[simp] theorem setLink_dev (s : State) (i : Nat) (x : Link) : (s.setLink i x).dev = s.dev := rfl
@[simp] theorem setLink_geode (s : State) (i : Nat) (x : Link) : (s.setLink i x).geode = s.geode := rfl
@[simp] theorem setLink_mgmtW (s : State) (i : Nat) (x : Link) : (s.setLink i x).mgmtW = s.mgmtW := rfl
@[simp] theorem setLink_mgmtE (s : State) (i : Nat) (x : Link) : (s.setLink i x).mgmtE = s.mgmtE := rfl
@[simp] theorem setLink_journal (s : State) (i : Nat) (x : Link) : (s.setLink i x).journal = s.journal := rfl
@[simp] theorem setLink_lie (s : State) (i : Nat) (x : Link) : (s.setLink i x).lie = s.lie := rfl
@[simp] theorem setLink_ports (s : State) (i : Nat) (x : Link) : (s.setLink i x).ports = s.ports := rfl
@[simp] theorem setLink_fns (s : State) (i : Nat) (x : Link) : (s.setLink i x).fns = s.fns := rfl
@[simp] theorem setLink_bundles (s : State) (i : Nat) (x : Link) : (s.setLink i x).bundles = s.bundles := rfl
@[simp] theorem setLink_caverns (s : State) (i : Nat) (x : Link) : (s.setLink i x).caverns = s.caverns := rfl
@[simp] theorem setLink_flows (s : State) (i : Nat) (x : Link) : (s.setLink i x).flows = s.flows := rfl
@[simp] theorem setLink_hbmcs (s : State) (i : Nat) (x : Link) : (s.setLink i x).hbmcs = s.hbmcs := rfl
@[simp] theorem setLink_galleries (s : State) (i : Nat) (x : Link) : (s.setLink i x).galleries = s.galleries := rfl
@[simp] theorem setLink_drips (s : State) (i : Nat) (x : Link) : (s.setLink i x).drips = s.drips := rfl
@[simp] theorem setLink_vecs (s : State) (i : Nat) (x : Link) : (s.setLink i x).vecs = s.vecs := rfl
@[simp] theorem setLink_helpers (s : State) (i : Nat) (x : Link) : (s.setLink i x).helpers = s.helpers := rfl
@[simp] theorem setLink_engines (s : State) (i : Nat) (x : Link) : (s.setLink i x).engines = s.engines := rfl
@[simp] theorem setLink_streams (s : State) (i : Nat) (x : Link) : (s.setLink i x).streams = s.streams := rfl
@[simp] theorem setLink_msgs (s : State) (i : Nat) (x : Link) : (s.setLink i x).msgs = s.msgs := rfl
@[simp] theorem setLink_pins (s : State) (i : Nat) (x : Link) : (s.setLink i x).pins = s.pins := rfl
@[simp] theorem setLink_tap (s : State) (i : Nat) (x : Link) : (s.setLink i x).tap = s.tap := rfl
@[simp] theorem setLink_hostOut (s : State) (i : Nat) (x : Link) : (s.setLink i x).hostOut = s.hostOut := rfl
@[simp] theorem setLink_hostReq (s : State) (i : Nat) (x : Link) : (s.setLink i x).hostReq = s.hostReq := rfl
@[simp] theorem setLink_msix (s : State) (i : Nat) (x : Link) : (s.setLink i x).msix = s.msix := rfl
@[simp] theorem setLink_lastRead (s : State) (i : Nat) (x : Link) : (s.setLink i x).lastRead = s.lastRead := rfl
@[simp] theorem setLink_sideband (s : State) (i : Nat) (x : Link) : (s.setLink i x).sideband = s.sideband := rfl
@[simp] theorem setLink_freeCtr (s : State) (i : Nat) (x : Link) : (s.setLink i x).freeCtr = s.freeCtr := rfl
@[simp] theorem setLink_outs (s : State) (i : Nat) (x : Link) : (s.setLink i x).outs = s.outs := rfl
@[simp] theorem setLink_pending (s : State) (i : Nat) (x : Link) : (s.setLink i x).pending = s.pending := rfl
@[simp] theorem setLink_eng (s : State) (i : Nat) (x : Link) (k : Nat) : (s.setLink i x).eng k = s.eng k := rfl
@[simp] theorem setLink_strm (s : State) (i : Nat) (x : Link) (k : Nat) : (s.setLink i x).strm k = s.strm k := rfl
@[simp] theorem setLink_gal (s : State) (i : Nat) (x : Link) (k : Nat) : (s.setLink i x).gal k = s.gal k := rfl
@[simp] theorem setLink_drip (s : State) (i : Nat) (x : Link) (k : Nat) : (s.setLink i x).drip k = s.drip k := rfl
@[simp] theorem setLink_flow (s : State) (i : Nat) (x : Link) (k : Nat) : (s.setLink i x).flow k = s.flow k := rfl
@[simp] theorem setLink_hbmc (s : State) (i : Nat) (x : Link) (k : Nat) : (s.setLink i x).hbmc k = s.hbmc k := rfl
@[simp] theorem setLink_cavern (s : State) (i : Nat) (x : Link) (k : Nat) : (s.setLink i x).cavern k = s.cavern k := rfl
@[simp] theorem setLink_vec (s : State) (i : Nat) (x : Link) (k : Nat) : (s.setLink i x).vec k = s.vec k := rfl
@[simp] theorem setLink_helper (s : State) (i : Nat) (x : Link) (k : Nat) : (s.setLink i x).helper k = s.helper k := rfl
@[simp] theorem setLink_msg (s : State) (i : Nat) (x : Link) (k : Nat) : (s.setLink i x).msg k = s.msg k := rfl
@[simp] theorem setLink_bundle (s : State) (i : Nat) (x : Link) (k : Nat) : (s.setLink i x).bundle k = s.bundle k := rfl
@[simp] theorem setLink_port (s : State) (i : Nat) (x : Link) (k : Nat) : (s.setLink i x).port k = s.port k := rfl
@[simp] theorem setLink_ctx (s : State) (i : Nat) (x : Link) (k : Nat) : (s.setLink i x).ctx k = s.ctx k := rfl
@[simp] theorem setLink_slotJ (s : State) (i : Nat) (x : Link) (k : Nat) : (s.setLink i x).slotJ k = s.slotJ k := rfl
@[simp] theorem setLink_fn (s : State) (i : Nat) (x : Link) (p f : Nat) : (s.setLink i x).fn p f = s.fn p f := rfl
@[simp] theorem setLink_hdr (s : State) (i : Nat) (x : Link) (p : Page) : (s.setLink i x).hdr p = s.hdr p := rfl
@[simp] theorem setLink_mgmt (s : State) (i : Nat) (x : Link) (c : Ctl) : (s.setLink i x).mgmt c = s.mgmt c := by cases c <;> rfl

/-! ## setBundle -/

@[simp] theorem setBundle_bundle (s : State) (i : Nat) (x : Bundle) : (s.setBundle i x).bundle i = x := tget_tset_self _ _ _ _

@[simp] theorem setBundle_bundle_other (s : State) (i : Nat) (x : Bundle) {j : Nat} (h : j ≠ i) : (s.setBundle i x).bundle j = s.bundle j :=
  tget_tset_other _ _ _ h

@[simp] theorem setBundle_mem (s : State) (i : Nat) (x : Bundle) : (s.setBundle i x).mem = s.mem := rfl
@[simp] theorem setBundle_ue (s : State) (i : Nat) (x : Bundle) : (s.setBundle i x).ue = s.ue := rfl
@[simp] theorem setBundle_hdrs (s : State) (i : Nat) (x : Bundle) : (s.setBundle i x).hdrs = s.hdrs := rfl
@[simp] theorem setBundle_cycles (s : State) (i : Nat) (x : Bundle) : (s.setBundle i x).cycles = s.cycles := rfl
@[simp] theorem setBundle_dev (s : State) (i : Nat) (x : Bundle) : (s.setBundle i x).dev = s.dev := rfl
@[simp] theorem setBundle_geode (s : State) (i : Nat) (x : Bundle) : (s.setBundle i x).geode = s.geode := rfl
@[simp] theorem setBundle_mgmtW (s : State) (i : Nat) (x : Bundle) : (s.setBundle i x).mgmtW = s.mgmtW := rfl
@[simp] theorem setBundle_mgmtE (s : State) (i : Nat) (x : Bundle) : (s.setBundle i x).mgmtE = s.mgmtE := rfl
@[simp] theorem setBundle_journal (s : State) (i : Nat) (x : Bundle) : (s.setBundle i x).journal = s.journal := rfl
@[simp] theorem setBundle_lie (s : State) (i : Nat) (x : Bundle) : (s.setBundle i x).lie = s.lie := rfl
@[simp] theorem setBundle_ports (s : State) (i : Nat) (x : Bundle) : (s.setBundle i x).ports = s.ports := rfl
@[simp] theorem setBundle_fns (s : State) (i : Nat) (x : Bundle) : (s.setBundle i x).fns = s.fns := rfl
@[simp] theorem setBundle_links (s : State) (i : Nat) (x : Bundle) : (s.setBundle i x).links = s.links := rfl
@[simp] theorem setBundle_caverns (s : State) (i : Nat) (x : Bundle) : (s.setBundle i x).caverns = s.caverns := rfl
@[simp] theorem setBundle_flows (s : State) (i : Nat) (x : Bundle) : (s.setBundle i x).flows = s.flows := rfl
@[simp] theorem setBundle_hbmcs (s : State) (i : Nat) (x : Bundle) : (s.setBundle i x).hbmcs = s.hbmcs := rfl
@[simp] theorem setBundle_galleries (s : State) (i : Nat) (x : Bundle) : (s.setBundle i x).galleries = s.galleries := rfl
@[simp] theorem setBundle_drips (s : State) (i : Nat) (x : Bundle) : (s.setBundle i x).drips = s.drips := rfl
@[simp] theorem setBundle_vecs (s : State) (i : Nat) (x : Bundle) : (s.setBundle i x).vecs = s.vecs := rfl
@[simp] theorem setBundle_helpers (s : State) (i : Nat) (x : Bundle) : (s.setBundle i x).helpers = s.helpers := rfl
@[simp] theorem setBundle_engines (s : State) (i : Nat) (x : Bundle) : (s.setBundle i x).engines = s.engines := rfl
@[simp] theorem setBundle_streams (s : State) (i : Nat) (x : Bundle) : (s.setBundle i x).streams = s.streams := rfl
@[simp] theorem setBundle_msgs (s : State) (i : Nat) (x : Bundle) : (s.setBundle i x).msgs = s.msgs := rfl
@[simp] theorem setBundle_pins (s : State) (i : Nat) (x : Bundle) : (s.setBundle i x).pins = s.pins := rfl
@[simp] theorem setBundle_tap (s : State) (i : Nat) (x : Bundle) : (s.setBundle i x).tap = s.tap := rfl
@[simp] theorem setBundle_hostOut (s : State) (i : Nat) (x : Bundle) : (s.setBundle i x).hostOut = s.hostOut := rfl
@[simp] theorem setBundle_hostReq (s : State) (i : Nat) (x : Bundle) : (s.setBundle i x).hostReq = s.hostReq := rfl
@[simp] theorem setBundle_msix (s : State) (i : Nat) (x : Bundle) : (s.setBundle i x).msix = s.msix := rfl
@[simp] theorem setBundle_lastRead (s : State) (i : Nat) (x : Bundle) : (s.setBundle i x).lastRead = s.lastRead := rfl
@[simp] theorem setBundle_sideband (s : State) (i : Nat) (x : Bundle) : (s.setBundle i x).sideband = s.sideband := rfl
@[simp] theorem setBundle_freeCtr (s : State) (i : Nat) (x : Bundle) : (s.setBundle i x).freeCtr = s.freeCtr := rfl
@[simp] theorem setBundle_outs (s : State) (i : Nat) (x : Bundle) : (s.setBundle i x).outs = s.outs := rfl
@[simp] theorem setBundle_pending (s : State) (i : Nat) (x : Bundle) : (s.setBundle i x).pending = s.pending := rfl
@[simp] theorem setBundle_eng (s : State) (i : Nat) (x : Bundle) (k : Nat) : (s.setBundle i x).eng k = s.eng k := rfl
@[simp] theorem setBundle_strm (s : State) (i : Nat) (x : Bundle) (k : Nat) : (s.setBundle i x).strm k = s.strm k := rfl
@[simp] theorem setBundle_gal (s : State) (i : Nat) (x : Bundle) (k : Nat) : (s.setBundle i x).gal k = s.gal k := rfl
@[simp] theorem setBundle_drip (s : State) (i : Nat) (x : Bundle) (k : Nat) : (s.setBundle i x).drip k = s.drip k := rfl
@[simp] theorem setBundle_flow (s : State) (i : Nat) (x : Bundle) (k : Nat) : (s.setBundle i x).flow k = s.flow k := rfl
@[simp] theorem setBundle_hbmc (s : State) (i : Nat) (x : Bundle) (k : Nat) : (s.setBundle i x).hbmc k = s.hbmc k := rfl
@[simp] theorem setBundle_cavern (s : State) (i : Nat) (x : Bundle) (k : Nat) : (s.setBundle i x).cavern k = s.cavern k := rfl
@[simp] theorem setBundle_vec (s : State) (i : Nat) (x : Bundle) (k : Nat) : (s.setBundle i x).vec k = s.vec k := rfl
@[simp] theorem setBundle_helper (s : State) (i : Nat) (x : Bundle) (k : Nat) : (s.setBundle i x).helper k = s.helper k := rfl
@[simp] theorem setBundle_msg (s : State) (i : Nat) (x : Bundle) (k : Nat) : (s.setBundle i x).msg k = s.msg k := rfl
@[simp] theorem setBundle_link (s : State) (i : Nat) (x : Bundle) (k : Nat) : (s.setBundle i x).link k = s.link k := rfl
@[simp] theorem setBundle_port (s : State) (i : Nat) (x : Bundle) (k : Nat) : (s.setBundle i x).port k = s.port k := rfl
@[simp] theorem setBundle_ctx (s : State) (i : Nat) (x : Bundle) (k : Nat) : (s.setBundle i x).ctx k = s.ctx k := rfl
@[simp] theorem setBundle_slotJ (s : State) (i : Nat) (x : Bundle) (k : Nat) : (s.setBundle i x).slotJ k = s.slotJ k := rfl
@[simp] theorem setBundle_fn (s : State) (i : Nat) (x : Bundle) (p f : Nat) : (s.setBundle i x).fn p f = s.fn p f := rfl
@[simp] theorem setBundle_hdr (s : State) (i : Nat) (x : Bundle) (p : Page) : (s.setBundle i x).hdr p = s.hdr p := rfl
@[simp] theorem setBundle_mgmt (s : State) (i : Nat) (x : Bundle) (c : Ctl) : (s.setBundle i x).mgmt c = s.mgmt c := by cases c <;> rfl

/-! ## setPort -/

@[simp] theorem setPort_port (s : State) (i : Nat) (x : Port) : (s.setPort i x).port i = x := tget_tset_self _ _ _ _

@[simp] theorem setPort_port_other (s : State) (i : Nat) (x : Port) {j : Nat} (h : j ≠ i) : (s.setPort i x).port j = s.port j :=
  tget_tset_other _ _ _ h

@[simp] theorem setPort_mem (s : State) (i : Nat) (x : Port) : (s.setPort i x).mem = s.mem := rfl
@[simp] theorem setPort_ue (s : State) (i : Nat) (x : Port) : (s.setPort i x).ue = s.ue := rfl
@[simp] theorem setPort_hdrs (s : State) (i : Nat) (x : Port) : (s.setPort i x).hdrs = s.hdrs := rfl
@[simp] theorem setPort_cycles (s : State) (i : Nat) (x : Port) : (s.setPort i x).cycles = s.cycles := rfl
@[simp] theorem setPort_dev (s : State) (i : Nat) (x : Port) : (s.setPort i x).dev = s.dev := rfl
@[simp] theorem setPort_geode (s : State) (i : Nat) (x : Port) : (s.setPort i x).geode = s.geode := rfl
@[simp] theorem setPort_mgmtW (s : State) (i : Nat) (x : Port) : (s.setPort i x).mgmtW = s.mgmtW := rfl
@[simp] theorem setPort_mgmtE (s : State) (i : Nat) (x : Port) : (s.setPort i x).mgmtE = s.mgmtE := rfl
@[simp] theorem setPort_journal (s : State) (i : Nat) (x : Port) : (s.setPort i x).journal = s.journal := rfl
@[simp] theorem setPort_lie (s : State) (i : Nat) (x : Port) : (s.setPort i x).lie = s.lie := rfl
@[simp] theorem setPort_fns (s : State) (i : Nat) (x : Port) : (s.setPort i x).fns = s.fns := rfl
@[simp] theorem setPort_links (s : State) (i : Nat) (x : Port) : (s.setPort i x).links = s.links := rfl
@[simp] theorem setPort_bundles (s : State) (i : Nat) (x : Port) : (s.setPort i x).bundles = s.bundles := rfl
@[simp] theorem setPort_caverns (s : State) (i : Nat) (x : Port) : (s.setPort i x).caverns = s.caverns := rfl
@[simp] theorem setPort_flows (s : State) (i : Nat) (x : Port) : (s.setPort i x).flows = s.flows := rfl
@[simp] theorem setPort_hbmcs (s : State) (i : Nat) (x : Port) : (s.setPort i x).hbmcs = s.hbmcs := rfl
@[simp] theorem setPort_galleries (s : State) (i : Nat) (x : Port) : (s.setPort i x).galleries = s.galleries := rfl
@[simp] theorem setPort_drips (s : State) (i : Nat) (x : Port) : (s.setPort i x).drips = s.drips := rfl
@[simp] theorem setPort_vecs (s : State) (i : Nat) (x : Port) : (s.setPort i x).vecs = s.vecs := rfl
@[simp] theorem setPort_helpers (s : State) (i : Nat) (x : Port) : (s.setPort i x).helpers = s.helpers := rfl
@[simp] theorem setPort_engines (s : State) (i : Nat) (x : Port) : (s.setPort i x).engines = s.engines := rfl
@[simp] theorem setPort_streams (s : State) (i : Nat) (x : Port) : (s.setPort i x).streams = s.streams := rfl
@[simp] theorem setPort_msgs (s : State) (i : Nat) (x : Port) : (s.setPort i x).msgs = s.msgs := rfl
@[simp] theorem setPort_pins (s : State) (i : Nat) (x : Port) : (s.setPort i x).pins = s.pins := rfl
@[simp] theorem setPort_tap (s : State) (i : Nat) (x : Port) : (s.setPort i x).tap = s.tap := rfl
@[simp] theorem setPort_hostOut (s : State) (i : Nat) (x : Port) : (s.setPort i x).hostOut = s.hostOut := rfl
@[simp] theorem setPort_hostReq (s : State) (i : Nat) (x : Port) : (s.setPort i x).hostReq = s.hostReq := rfl
@[simp] theorem setPort_msix (s : State) (i : Nat) (x : Port) : (s.setPort i x).msix = s.msix := rfl
@[simp] theorem setPort_lastRead (s : State) (i : Nat) (x : Port) : (s.setPort i x).lastRead = s.lastRead := rfl
@[simp] theorem setPort_sideband (s : State) (i : Nat) (x : Port) : (s.setPort i x).sideband = s.sideband := rfl
@[simp] theorem setPort_freeCtr (s : State) (i : Nat) (x : Port) : (s.setPort i x).freeCtr = s.freeCtr := rfl
@[simp] theorem setPort_outs (s : State) (i : Nat) (x : Port) : (s.setPort i x).outs = s.outs := rfl
@[simp] theorem setPort_pending (s : State) (i : Nat) (x : Port) : (s.setPort i x).pending = s.pending := rfl
@[simp] theorem setPort_eng (s : State) (i : Nat) (x : Port) (k : Nat) : (s.setPort i x).eng k = s.eng k := rfl
@[simp] theorem setPort_strm (s : State) (i : Nat) (x : Port) (k : Nat) : (s.setPort i x).strm k = s.strm k := rfl
@[simp] theorem setPort_gal (s : State) (i : Nat) (x : Port) (k : Nat) : (s.setPort i x).gal k = s.gal k := rfl
@[simp] theorem setPort_drip (s : State) (i : Nat) (x : Port) (k : Nat) : (s.setPort i x).drip k = s.drip k := rfl
@[simp] theorem setPort_flow (s : State) (i : Nat) (x : Port) (k : Nat) : (s.setPort i x).flow k = s.flow k := rfl
@[simp] theorem setPort_hbmc (s : State) (i : Nat) (x : Port) (k : Nat) : (s.setPort i x).hbmc k = s.hbmc k := rfl
@[simp] theorem setPort_cavern (s : State) (i : Nat) (x : Port) (k : Nat) : (s.setPort i x).cavern k = s.cavern k := rfl
@[simp] theorem setPort_vec (s : State) (i : Nat) (x : Port) (k : Nat) : (s.setPort i x).vec k = s.vec k := rfl
@[simp] theorem setPort_helper (s : State) (i : Nat) (x : Port) (k : Nat) : (s.setPort i x).helper k = s.helper k := rfl
@[simp] theorem setPort_msg (s : State) (i : Nat) (x : Port) (k : Nat) : (s.setPort i x).msg k = s.msg k := rfl
@[simp] theorem setPort_link (s : State) (i : Nat) (x : Port) (k : Nat) : (s.setPort i x).link k = s.link k := rfl
@[simp] theorem setPort_bundle (s : State) (i : Nat) (x : Port) (k : Nat) : (s.setPort i x).bundle k = s.bundle k := rfl
@[simp] theorem setPort_ctx (s : State) (i : Nat) (x : Port) (k : Nat) : (s.setPort i x).ctx k = s.ctx k := rfl
@[simp] theorem setPort_slotJ (s : State) (i : Nat) (x : Port) (k : Nat) : (s.setPort i x).slotJ k = s.slotJ k := rfl
@[simp] theorem setPort_fn (s : State) (i : Nat) (x : Port) (p f : Nat) : (s.setPort i x).fn p f = s.fn p f := rfl
@[simp] theorem setPort_hdr (s : State) (i : Nat) (x : Port) (p : Page) : (s.setPort i x).hdr p = s.hdr p := rfl
@[simp] theorem setPort_mgmt (s : State) (i : Nat) (x : Port) (c : Ctl) : (s.setPort i x).mgmt c = s.mgmt c := by cases c <;> rfl

/-! ## setCtx -/

@[simp] theorem setCtx_ctx (s : State) (i : Nat) (x : Ctx) : (s.setCtx i x).ctx i = x := tget_tset_self _ _ _ _

@[simp] theorem setCtx_ctx_other (s : State) (i : Nat) (x : Ctx) {j : Nat} (h : j ≠ i) : (s.setCtx i x).ctx j = s.ctx j :=
  tget_tset_other _ _ _ h

@[simp] theorem setCtx_mem (s : State) (i : Nat) (x : Ctx) : (s.setCtx i x).mem = s.mem := rfl
@[simp] theorem setCtx_ue (s : State) (i : Nat) (x : Ctx) : (s.setCtx i x).ue = s.ue := rfl
@[simp] theorem setCtx_hdrs (s : State) (i : Nat) (x : Ctx) : (s.setCtx i x).hdrs = s.hdrs := rfl
@[simp] theorem setCtx_cycles (s : State) (i : Nat) (x : Ctx) : (s.setCtx i x).cycles = s.cycles := rfl
@[simp] theorem setCtx_dev (s : State) (i : Nat) (x : Ctx) : (s.setCtx i x).dev = s.dev := rfl
@[simp] theorem setCtx_mgmtW (s : State) (i : Nat) (x : Ctx) : (s.setCtx i x).mgmtW = s.mgmtW := rfl
@[simp] theorem setCtx_mgmtE (s : State) (i : Nat) (x : Ctx) : (s.setCtx i x).mgmtE = s.mgmtE := rfl
@[simp] theorem setCtx_journal (s : State) (i : Nat) (x : Ctx) : (s.setCtx i x).journal = s.journal := rfl
@[simp] theorem setCtx_lie (s : State) (i : Nat) (x : Ctx) : (s.setCtx i x).lie = s.lie := rfl
@[simp] theorem setCtx_ports (s : State) (i : Nat) (x : Ctx) : (s.setCtx i x).ports = s.ports := rfl
@[simp] theorem setCtx_fns (s : State) (i : Nat) (x : Ctx) : (s.setCtx i x).fns = s.fns := rfl
@[simp] theorem setCtx_links (s : State) (i : Nat) (x : Ctx) : (s.setCtx i x).links = s.links := rfl
@[simp] theorem setCtx_bundles (s : State) (i : Nat) (x : Ctx) : (s.setCtx i x).bundles = s.bundles := rfl
@[simp] theorem setCtx_caverns (s : State) (i : Nat) (x : Ctx) : (s.setCtx i x).caverns = s.caverns := rfl
@[simp] theorem setCtx_flows (s : State) (i : Nat) (x : Ctx) : (s.setCtx i x).flows = s.flows := rfl
@[simp] theorem setCtx_hbmcs (s : State) (i : Nat) (x : Ctx) : (s.setCtx i x).hbmcs = s.hbmcs := rfl
@[simp] theorem setCtx_galleries (s : State) (i : Nat) (x : Ctx) : (s.setCtx i x).galleries = s.galleries := rfl
@[simp] theorem setCtx_drips (s : State) (i : Nat) (x : Ctx) : (s.setCtx i x).drips = s.drips := rfl
@[simp] theorem setCtx_vecs (s : State) (i : Nat) (x : Ctx) : (s.setCtx i x).vecs = s.vecs := rfl
@[simp] theorem setCtx_helpers (s : State) (i : Nat) (x : Ctx) : (s.setCtx i x).helpers = s.helpers := rfl
@[simp] theorem setCtx_engines (s : State) (i : Nat) (x : Ctx) : (s.setCtx i x).engines = s.engines := rfl
@[simp] theorem setCtx_streams (s : State) (i : Nat) (x : Ctx) : (s.setCtx i x).streams = s.streams := rfl
@[simp] theorem setCtx_msgs (s : State) (i : Nat) (x : Ctx) : (s.setCtx i x).msgs = s.msgs := rfl
@[simp] theorem setCtx_pins (s : State) (i : Nat) (x : Ctx) : (s.setCtx i x).pins = s.pins := rfl
@[simp] theorem setCtx_tap (s : State) (i : Nat) (x : Ctx) : (s.setCtx i x).tap = s.tap := rfl
@[simp] theorem setCtx_hostOut (s : State) (i : Nat) (x : Ctx) : (s.setCtx i x).hostOut = s.hostOut := rfl
@[simp] theorem setCtx_hostReq (s : State) (i : Nat) (x : Ctx) : (s.setCtx i x).hostReq = s.hostReq := rfl
@[simp] theorem setCtx_msix (s : State) (i : Nat) (x : Ctx) : (s.setCtx i x).msix = s.msix := rfl
@[simp] theorem setCtx_lastRead (s : State) (i : Nat) (x : Ctx) : (s.setCtx i x).lastRead = s.lastRead := rfl
@[simp] theorem setCtx_sideband (s : State) (i : Nat) (x : Ctx) : (s.setCtx i x).sideband = s.sideband := rfl
@[simp] theorem setCtx_freeCtr (s : State) (i : Nat) (x : Ctx) : (s.setCtx i x).freeCtr = s.freeCtr := rfl
@[simp] theorem setCtx_outs (s : State) (i : Nat) (x : Ctx) : (s.setCtx i x).outs = s.outs := rfl
@[simp] theorem setCtx_pending (s : State) (i : Nat) (x : Ctx) : (s.setCtx i x).pending = s.pending := rfl
@[simp] theorem setCtx_eng (s : State) (i : Nat) (x : Ctx) (k : Nat) : (s.setCtx i x).eng k = s.eng k := rfl
@[simp] theorem setCtx_strm (s : State) (i : Nat) (x : Ctx) (k : Nat) : (s.setCtx i x).strm k = s.strm k := rfl
@[simp] theorem setCtx_gal (s : State) (i : Nat) (x : Ctx) (k : Nat) : (s.setCtx i x).gal k = s.gal k := rfl
@[simp] theorem setCtx_drip (s : State) (i : Nat) (x : Ctx) (k : Nat) : (s.setCtx i x).drip k = s.drip k := rfl
@[simp] theorem setCtx_flow (s : State) (i : Nat) (x : Ctx) (k : Nat) : (s.setCtx i x).flow k = s.flow k := rfl
@[simp] theorem setCtx_hbmc (s : State) (i : Nat) (x : Ctx) (k : Nat) : (s.setCtx i x).hbmc k = s.hbmc k := rfl
@[simp] theorem setCtx_cavern (s : State) (i : Nat) (x : Ctx) (k : Nat) : (s.setCtx i x).cavern k = s.cavern k := rfl
@[simp] theorem setCtx_vec (s : State) (i : Nat) (x : Ctx) (k : Nat) : (s.setCtx i x).vec k = s.vec k := rfl
@[simp] theorem setCtx_helper (s : State) (i : Nat) (x : Ctx) (k : Nat) : (s.setCtx i x).helper k = s.helper k := rfl
@[simp] theorem setCtx_msg (s : State) (i : Nat) (x : Ctx) (k : Nat) : (s.setCtx i x).msg k = s.msg k := rfl
@[simp] theorem setCtx_link (s : State) (i : Nat) (x : Ctx) (k : Nat) : (s.setCtx i x).link k = s.link k := rfl
@[simp] theorem setCtx_bundle (s : State) (i : Nat) (x : Ctx) (k : Nat) : (s.setCtx i x).bundle k = s.bundle k := rfl
@[simp] theorem setCtx_port (s : State) (i : Nat) (x : Ctx) (k : Nat) : (s.setCtx i x).port k = s.port k := rfl
@[simp] theorem setCtx_slotJ (s : State) (i : Nat) (x : Ctx) (k : Nat) : (s.setCtx i x).slotJ k = s.slotJ k := rfl
@[simp] theorem setCtx_fn (s : State) (i : Nat) (x : Ctx) (p f : Nat) : (s.setCtx i x).fn p f = s.fn p f := rfl
@[simp] theorem setCtx_hdr (s : State) (i : Nat) (x : Ctx) (p : Page) : (s.setCtx i x).hdr p = s.hdr p := rfl
@[simp] theorem setCtx_mgmt (s : State) (i : Nat) (x : Ctx) (c : Ctl) : (s.setCtx i x).mgmt c = s.mgmt c := by cases c <;> rfl

/-! ## setSlotJ -/

@[simp] theorem setSlotJ_slotJ (s : State) (i : Nat) (x : JSlot) : (s.setSlotJ i x).slotJ i = x := tget_tset_self _ _ _ _

@[simp] theorem setSlotJ_slotJ_other (s : State) (i : Nat) (x : JSlot) {j : Nat} (h : j ≠ i) : (s.setSlotJ i x).slotJ j = s.slotJ j :=
  tget_tset_other _ _ _ h

@[simp] theorem setSlotJ_mem (s : State) (i : Nat) (x : JSlot) : (s.setSlotJ i x).mem = s.mem := rfl
@[simp] theorem setSlotJ_ue (s : State) (i : Nat) (x : JSlot) : (s.setSlotJ i x).ue = s.ue := rfl
@[simp] theorem setSlotJ_hdrs (s : State) (i : Nat) (x : JSlot) : (s.setSlotJ i x).hdrs = s.hdrs := rfl
@[simp] theorem setSlotJ_cycles (s : State) (i : Nat) (x : JSlot) : (s.setSlotJ i x).cycles = s.cycles := rfl
@[simp] theorem setSlotJ_dev (s : State) (i : Nat) (x : JSlot) : (s.setSlotJ i x).dev = s.dev := rfl
@[simp] theorem setSlotJ_geode (s : State) (i : Nat) (x : JSlot) : (s.setSlotJ i x).geode = s.geode := rfl
@[simp] theorem setSlotJ_mgmtW (s : State) (i : Nat) (x : JSlot) : (s.setSlotJ i x).mgmtW = s.mgmtW := rfl
@[simp] theorem setSlotJ_mgmtE (s : State) (i : Nat) (x : JSlot) : (s.setSlotJ i x).mgmtE = s.mgmtE := rfl
@[simp] theorem setSlotJ_lie (s : State) (i : Nat) (x : JSlot) : (s.setSlotJ i x).lie = s.lie := rfl
@[simp] theorem setSlotJ_ports (s : State) (i : Nat) (x : JSlot) : (s.setSlotJ i x).ports = s.ports := rfl
@[simp] theorem setSlotJ_fns (s : State) (i : Nat) (x : JSlot) : (s.setSlotJ i x).fns = s.fns := rfl
@[simp] theorem setSlotJ_links (s : State) (i : Nat) (x : JSlot) : (s.setSlotJ i x).links = s.links := rfl
@[simp] theorem setSlotJ_bundles (s : State) (i : Nat) (x : JSlot) : (s.setSlotJ i x).bundles = s.bundles := rfl
@[simp] theorem setSlotJ_caverns (s : State) (i : Nat) (x : JSlot) : (s.setSlotJ i x).caverns = s.caverns := rfl
@[simp] theorem setSlotJ_flows (s : State) (i : Nat) (x : JSlot) : (s.setSlotJ i x).flows = s.flows := rfl
@[simp] theorem setSlotJ_hbmcs (s : State) (i : Nat) (x : JSlot) : (s.setSlotJ i x).hbmcs = s.hbmcs := rfl
@[simp] theorem setSlotJ_galleries (s : State) (i : Nat) (x : JSlot) : (s.setSlotJ i x).galleries = s.galleries := rfl
@[simp] theorem setSlotJ_drips (s : State) (i : Nat) (x : JSlot) : (s.setSlotJ i x).drips = s.drips := rfl
@[simp] theorem setSlotJ_vecs (s : State) (i : Nat) (x : JSlot) : (s.setSlotJ i x).vecs = s.vecs := rfl
@[simp] theorem setSlotJ_helpers (s : State) (i : Nat) (x : JSlot) : (s.setSlotJ i x).helpers = s.helpers := rfl
@[simp] theorem setSlotJ_engines (s : State) (i : Nat) (x : JSlot) : (s.setSlotJ i x).engines = s.engines := rfl
@[simp] theorem setSlotJ_streams (s : State) (i : Nat) (x : JSlot) : (s.setSlotJ i x).streams = s.streams := rfl
@[simp] theorem setSlotJ_msgs (s : State) (i : Nat) (x : JSlot) : (s.setSlotJ i x).msgs = s.msgs := rfl
@[simp] theorem setSlotJ_pins (s : State) (i : Nat) (x : JSlot) : (s.setSlotJ i x).pins = s.pins := rfl
@[simp] theorem setSlotJ_tap (s : State) (i : Nat) (x : JSlot) : (s.setSlotJ i x).tap = s.tap := rfl
@[simp] theorem setSlotJ_hostOut (s : State) (i : Nat) (x : JSlot) : (s.setSlotJ i x).hostOut = s.hostOut := rfl
@[simp] theorem setSlotJ_hostReq (s : State) (i : Nat) (x : JSlot) : (s.setSlotJ i x).hostReq = s.hostReq := rfl
@[simp] theorem setSlotJ_msix (s : State) (i : Nat) (x : JSlot) : (s.setSlotJ i x).msix = s.msix := rfl
@[simp] theorem setSlotJ_lastRead (s : State) (i : Nat) (x : JSlot) : (s.setSlotJ i x).lastRead = s.lastRead := rfl
@[simp] theorem setSlotJ_sideband (s : State) (i : Nat) (x : JSlot) : (s.setSlotJ i x).sideband = s.sideband := rfl
@[simp] theorem setSlotJ_freeCtr (s : State) (i : Nat) (x : JSlot) : (s.setSlotJ i x).freeCtr = s.freeCtr := rfl
@[simp] theorem setSlotJ_outs (s : State) (i : Nat) (x : JSlot) : (s.setSlotJ i x).outs = s.outs := rfl
@[simp] theorem setSlotJ_pending (s : State) (i : Nat) (x : JSlot) : (s.setSlotJ i x).pending = s.pending := rfl
@[simp] theorem setSlotJ_eng (s : State) (i : Nat) (x : JSlot) (k : Nat) : (s.setSlotJ i x).eng k = s.eng k := rfl
@[simp] theorem setSlotJ_strm (s : State) (i : Nat) (x : JSlot) (k : Nat) : (s.setSlotJ i x).strm k = s.strm k := rfl
@[simp] theorem setSlotJ_gal (s : State) (i : Nat) (x : JSlot) (k : Nat) : (s.setSlotJ i x).gal k = s.gal k := rfl
@[simp] theorem setSlotJ_drip (s : State) (i : Nat) (x : JSlot) (k : Nat) : (s.setSlotJ i x).drip k = s.drip k := rfl
@[simp] theorem setSlotJ_flow (s : State) (i : Nat) (x : JSlot) (k : Nat) : (s.setSlotJ i x).flow k = s.flow k := rfl
@[simp] theorem setSlotJ_hbmc (s : State) (i : Nat) (x : JSlot) (k : Nat) : (s.setSlotJ i x).hbmc k = s.hbmc k := rfl
@[simp] theorem setSlotJ_cavern (s : State) (i : Nat) (x : JSlot) (k : Nat) : (s.setSlotJ i x).cavern k = s.cavern k := rfl
@[simp] theorem setSlotJ_vec (s : State) (i : Nat) (x : JSlot) (k : Nat) : (s.setSlotJ i x).vec k = s.vec k := rfl
@[simp] theorem setSlotJ_helper (s : State) (i : Nat) (x : JSlot) (k : Nat) : (s.setSlotJ i x).helper k = s.helper k := rfl
@[simp] theorem setSlotJ_msg (s : State) (i : Nat) (x : JSlot) (k : Nat) : (s.setSlotJ i x).msg k = s.msg k := rfl
@[simp] theorem setSlotJ_link (s : State) (i : Nat) (x : JSlot) (k : Nat) : (s.setSlotJ i x).link k = s.link k := rfl
@[simp] theorem setSlotJ_bundle (s : State) (i : Nat) (x : JSlot) (k : Nat) : (s.setSlotJ i x).bundle k = s.bundle k := rfl
@[simp] theorem setSlotJ_port (s : State) (i : Nat) (x : JSlot) (k : Nat) : (s.setSlotJ i x).port k = s.port k := rfl
@[simp] theorem setSlotJ_ctx (s : State) (i : Nat) (x : JSlot) (k : Nat) : (s.setSlotJ i x).ctx k = s.ctx k := rfl
@[simp] theorem setSlotJ_fn (s : State) (i : Nat) (x : JSlot) (p f : Nat) : (s.setSlotJ i x).fn p f = s.fn p f := rfl
@[simp] theorem setSlotJ_hdr (s : State) (i : Nat) (x : JSlot) (p : Page) : (s.setSlotJ i x).hdr p = s.hdr p := rfl
@[simp] theorem setSlotJ_mgmt (s : State) (i : Nat) (x : JSlot) (c : Ctl) : (s.setSlotJ i x).mgmt c = s.mgmt c := by cases c <;> rfl

/-! ## setFn -/

@[simp] theorem setFn_fn (s : State) (p f : Nat) (x : Fn) : (s.setFn p f x).fn p f = x := tget_tset_self _ _ _ _

theorem setFn_fn_other (s : State) (p f : Nat) (x : Fn) {q g : Nat} (hf : f < 64) (hg : g < 64) (h : ¬(q = p ∧ g = f)) : (s.setFn p f x).fn q g = s.fn q g :=
  tget_tset_other _ _ _ (by omega)

@[simp] theorem setFn_mem (s : State) (p f : Nat) (x : Fn) : (s.setFn p f x).mem = s.mem := rfl
@[simp] theorem setFn_ue (s : State) (p f : Nat) (x : Fn) : (s.setFn p f x).ue = s.ue := rfl
@[simp] theorem setFn_hdrs (s : State) (p f : Nat) (x : Fn) : (s.setFn p f x).hdrs = s.hdrs := rfl
@[simp] theorem setFn_cycles (s : State) (p f : Nat) (x : Fn) : (s.setFn p f x).cycles = s.cycles := rfl
@[simp] theorem setFn_dev (s : State) (p f : Nat) (x : Fn) : (s.setFn p f x).dev = s.dev := rfl
@[simp] theorem setFn_geode (s : State) (p f : Nat) (x : Fn) : (s.setFn p f x).geode = s.geode := rfl
@[simp] theorem setFn_mgmtW (s : State) (p f : Nat) (x : Fn) : (s.setFn p f x).mgmtW = s.mgmtW := rfl
@[simp] theorem setFn_mgmtE (s : State) (p f : Nat) (x : Fn) : (s.setFn p f x).mgmtE = s.mgmtE := rfl
@[simp] theorem setFn_journal (s : State) (p f : Nat) (x : Fn) : (s.setFn p f x).journal = s.journal := rfl
@[simp] theorem setFn_lie (s : State) (p f : Nat) (x : Fn) : (s.setFn p f x).lie = s.lie := rfl
@[simp] theorem setFn_ports (s : State) (p f : Nat) (x : Fn) : (s.setFn p f x).ports = s.ports := rfl
@[simp] theorem setFn_links (s : State) (p f : Nat) (x : Fn) : (s.setFn p f x).links = s.links := rfl
@[simp] theorem setFn_bundles (s : State) (p f : Nat) (x : Fn) : (s.setFn p f x).bundles = s.bundles := rfl
@[simp] theorem setFn_caverns (s : State) (p f : Nat) (x : Fn) : (s.setFn p f x).caverns = s.caverns := rfl
@[simp] theorem setFn_flows (s : State) (p f : Nat) (x : Fn) : (s.setFn p f x).flows = s.flows := rfl
@[simp] theorem setFn_hbmcs (s : State) (p f : Nat) (x : Fn) : (s.setFn p f x).hbmcs = s.hbmcs := rfl
@[simp] theorem setFn_galleries (s : State) (p f : Nat) (x : Fn) : (s.setFn p f x).galleries = s.galleries := rfl
@[simp] theorem setFn_drips (s : State) (p f : Nat) (x : Fn) : (s.setFn p f x).drips = s.drips := rfl
@[simp] theorem setFn_vecs (s : State) (p f : Nat) (x : Fn) : (s.setFn p f x).vecs = s.vecs := rfl
@[simp] theorem setFn_helpers (s : State) (p f : Nat) (x : Fn) : (s.setFn p f x).helpers = s.helpers := rfl
@[simp] theorem setFn_engines (s : State) (p f : Nat) (x : Fn) : (s.setFn p f x).engines = s.engines := rfl
@[simp] theorem setFn_streams (s : State) (p f : Nat) (x : Fn) : (s.setFn p f x).streams = s.streams := rfl
@[simp] theorem setFn_msgs (s : State) (p f : Nat) (x : Fn) : (s.setFn p f x).msgs = s.msgs := rfl
@[simp] theorem setFn_pins (s : State) (p f : Nat) (x : Fn) : (s.setFn p f x).pins = s.pins := rfl
@[simp] theorem setFn_tap (s : State) (p f : Nat) (x : Fn) : (s.setFn p f x).tap = s.tap := rfl
@[simp] theorem setFn_hostOut (s : State) (p f : Nat) (x : Fn) : (s.setFn p f x).hostOut = s.hostOut := rfl
@[simp] theorem setFn_hostReq (s : State) (p f : Nat) (x : Fn) : (s.setFn p f x).hostReq = s.hostReq := rfl
@[simp] theorem setFn_msix (s : State) (p f : Nat) (x : Fn) : (s.setFn p f x).msix = s.msix := rfl
@[simp] theorem setFn_lastRead (s : State) (p f : Nat) (x : Fn) : (s.setFn p f x).lastRead = s.lastRead := rfl
@[simp] theorem setFn_sideband (s : State) (p f : Nat) (x : Fn) : (s.setFn p f x).sideband = s.sideband := rfl
@[simp] theorem setFn_freeCtr (s : State) (p f : Nat) (x : Fn) : (s.setFn p f x).freeCtr = s.freeCtr := rfl
@[simp] theorem setFn_outs (s : State) (p f : Nat) (x : Fn) : (s.setFn p f x).outs = s.outs := rfl
@[simp] theorem setFn_pending (s : State) (p f : Nat) (x : Fn) : (s.setFn p f x).pending = s.pending := rfl
@[simp] theorem setFn_eng (s : State) (p f : Nat) (x : Fn) (k : Nat) : (s.setFn p f x).eng k = s.eng k := rfl
@[simp] theorem setFn_strm (s : State) (p f : Nat) (x : Fn) (k : Nat) : (s.setFn p f x).strm k = s.strm k := rfl
@[simp] theorem setFn_gal (s : State) (p f : Nat) (x : Fn) (k : Nat) : (s.setFn p f x).gal k = s.gal k := rfl
@[simp] theorem setFn_drip (s : State) (p f : Nat) (x : Fn) (k : Nat) : (s.setFn p f x).drip k = s.drip k := rfl
@[simp] theorem setFn_flow (s : State) (p f : Nat) (x : Fn) (k : Nat) : (s.setFn p f x).flow k = s.flow k := rfl
@[simp] theorem setFn_hbmc (s : State) (p f : Nat) (x : Fn) (k : Nat) : (s.setFn p f x).hbmc k = s.hbmc k := rfl
@[simp] theorem setFn_cavern (s : State) (p f : Nat) (x : Fn) (k : Nat) : (s.setFn p f x).cavern k = s.cavern k := rfl
@[simp] theorem setFn_vec (s : State) (p f : Nat) (x : Fn) (k : Nat) : (s.setFn p f x).vec k = s.vec k := rfl
@[simp] theorem setFn_helper (s : State) (p f : Nat) (x : Fn) (k : Nat) : (s.setFn p f x).helper k = s.helper k := rfl
@[simp] theorem setFn_msg (s : State) (p f : Nat) (x : Fn) (k : Nat) : (s.setFn p f x).msg k = s.msg k := rfl
@[simp] theorem setFn_link (s : State) (p f : Nat) (x : Fn) (k : Nat) : (s.setFn p f x).link k = s.link k := rfl
@[simp] theorem setFn_bundle (s : State) (p f : Nat) (x : Fn) (k : Nat) : (s.setFn p f x).bundle k = s.bundle k := rfl
@[simp] theorem setFn_port (s : State) (p f : Nat) (x : Fn) (k : Nat) : (s.setFn p f x).port k = s.port k := rfl
@[simp] theorem setFn_ctx (s : State) (p f : Nat) (x : Fn) (k : Nat) : (s.setFn p f x).ctx k = s.ctx k := rfl
@[simp] theorem setFn_slotJ (s : State) (p f : Nat) (x : Fn) (k : Nat) : (s.setFn p f x).slotJ k = s.slotJ k := rfl
@[simp] theorem setFn_hdr (s : State) (p f : Nat) (x : Fn) (q : Page) : (s.setFn p f x).hdr q = s.hdr q := rfl
@[simp] theorem setFn_mgmt (s : State) (p f : Nat) (x : Fn) (c : Ctl) : (s.setFn p f x).mgmt c = s.mgmt c := by cases c <;> rfl

/-! ## setMgmt -/

@[simp] theorem setMgmt_mgmt (s : State) (c : Ctl) (x : Mgmt) : (s.setMgmt c x).mgmt c = x := by cases c <;> rfl

theorem setMgmt_mgmt_other (s : State) (c : Ctl) (x : Mgmt) {d : Ctl} (h : d ≠ c) : (s.setMgmt c x).mgmt d = s.mgmt d := by
  cases c <;> cases d <;> first | rfl | exact absurd rfl h

@[simp] theorem setMgmt_mem (s : State) (c : Ctl) (x : Mgmt) : (s.setMgmt c x).mem = s.mem := by cases c <;> rfl
@[simp] theorem setMgmt_ue (s : State) (c : Ctl) (x : Mgmt) : (s.setMgmt c x).ue = s.ue := by cases c <;> rfl
@[simp] theorem setMgmt_hdrs (s : State) (c : Ctl) (x : Mgmt) : (s.setMgmt c x).hdrs = s.hdrs := by cases c <;> rfl
@[simp] theorem setMgmt_cycles (s : State) (c : Ctl) (x : Mgmt) : (s.setMgmt c x).cycles = s.cycles := by cases c <;> rfl
@[simp] theorem setMgmt_dev (s : State) (c : Ctl) (x : Mgmt) : (s.setMgmt c x).dev = s.dev := by cases c <;> rfl
@[simp] theorem setMgmt_geode (s : State) (c : Ctl) (x : Mgmt) : (s.setMgmt c x).geode = s.geode := by cases c <;> rfl
@[simp] theorem setMgmt_journal (s : State) (c : Ctl) (x : Mgmt) : (s.setMgmt c x).journal = s.journal := by cases c <;> rfl
@[simp] theorem setMgmt_lie (s : State) (c : Ctl) (x : Mgmt) : (s.setMgmt c x).lie = s.lie := by cases c <;> rfl
@[simp] theorem setMgmt_ports (s : State) (c : Ctl) (x : Mgmt) : (s.setMgmt c x).ports = s.ports := by cases c <;> rfl
@[simp] theorem setMgmt_fns (s : State) (c : Ctl) (x : Mgmt) : (s.setMgmt c x).fns = s.fns := by cases c <;> rfl
@[simp] theorem setMgmt_links (s : State) (c : Ctl) (x : Mgmt) : (s.setMgmt c x).links = s.links := by cases c <;> rfl
@[simp] theorem setMgmt_bundles (s : State) (c : Ctl) (x : Mgmt) : (s.setMgmt c x).bundles = s.bundles := by cases c <;> rfl
@[simp] theorem setMgmt_caverns (s : State) (c : Ctl) (x : Mgmt) : (s.setMgmt c x).caverns = s.caverns := by cases c <;> rfl
@[simp] theorem setMgmt_flows (s : State) (c : Ctl) (x : Mgmt) : (s.setMgmt c x).flows = s.flows := by cases c <;> rfl
@[simp] theorem setMgmt_hbmcs (s : State) (c : Ctl) (x : Mgmt) : (s.setMgmt c x).hbmcs = s.hbmcs := by cases c <;> rfl
@[simp] theorem setMgmt_galleries (s : State) (c : Ctl) (x : Mgmt) : (s.setMgmt c x).galleries = s.galleries := by cases c <;> rfl
@[simp] theorem setMgmt_drips (s : State) (c : Ctl) (x : Mgmt) : (s.setMgmt c x).drips = s.drips := by cases c <;> rfl
@[simp] theorem setMgmt_vecs (s : State) (c : Ctl) (x : Mgmt) : (s.setMgmt c x).vecs = s.vecs := by cases c <;> rfl
@[simp] theorem setMgmt_helpers (s : State) (c : Ctl) (x : Mgmt) : (s.setMgmt c x).helpers = s.helpers := by cases c <;> rfl
@[simp] theorem setMgmt_engines (s : State) (c : Ctl) (x : Mgmt) : (s.setMgmt c x).engines = s.engines := by cases c <;> rfl
@[simp] theorem setMgmt_streams (s : State) (c : Ctl) (x : Mgmt) : (s.setMgmt c x).streams = s.streams := by cases c <;> rfl
@[simp] theorem setMgmt_msgs (s : State) (c : Ctl) (x : Mgmt) : (s.setMgmt c x).msgs = s.msgs := by cases c <;> rfl
@[simp] theorem setMgmt_pins (s : State) (c : Ctl) (x : Mgmt) : (s.setMgmt c x).pins = s.pins := by cases c <;> rfl
@[simp] theorem setMgmt_tap (s : State) (c : Ctl) (x : Mgmt) : (s.setMgmt c x).tap = s.tap := by cases c <;> rfl
@[simp] theorem setMgmt_hostOut (s : State) (c : Ctl) (x : Mgmt) : (s.setMgmt c x).hostOut = s.hostOut := by cases c <;> rfl
@[simp] theorem setMgmt_hostReq (s : State) (c : Ctl) (x : Mgmt) : (s.setMgmt c x).hostReq = s.hostReq := by cases c <;> rfl
@[simp] theorem setMgmt_msix (s : State) (c : Ctl) (x : Mgmt) : (s.setMgmt c x).msix = s.msix := by cases c <;> rfl
@[simp] theorem setMgmt_lastRead (s : State) (c : Ctl) (x : Mgmt) : (s.setMgmt c x).lastRead = s.lastRead := by cases c <;> rfl
@[simp] theorem setMgmt_sideband (s : State) (c : Ctl) (x : Mgmt) : (s.setMgmt c x).sideband = s.sideband := by cases c <;> rfl
@[simp] theorem setMgmt_freeCtr (s : State) (c : Ctl) (x : Mgmt) : (s.setMgmt c x).freeCtr = s.freeCtr := by cases c <;> rfl
@[simp] theorem setMgmt_outs (s : State) (c : Ctl) (x : Mgmt) : (s.setMgmt c x).outs = s.outs := by cases c <;> rfl
@[simp] theorem setMgmt_pending (s : State) (c : Ctl) (x : Mgmt) : (s.setMgmt c x).pending = s.pending := by cases c <;> rfl
@[simp] theorem setMgmt_eng (s : State) (c : Ctl) (x : Mgmt) (k : Nat) : (s.setMgmt c x).eng k = s.eng k := by cases c <;> rfl
@[simp] theorem setMgmt_strm (s : State) (c : Ctl) (x : Mgmt) (k : Nat) : (s.setMgmt c x).strm k = s.strm k := by cases c <;> rfl
@[simp] theorem setMgmt_gal (s : State) (c : Ctl) (x : Mgmt) (k : Nat) : (s.setMgmt c x).gal k = s.gal k := by cases c <;> rfl
@[simp] theorem setMgmt_drip (s : State) (c : Ctl) (x : Mgmt) (k : Nat) : (s.setMgmt c x).drip k = s.drip k := by cases c <;> rfl
@[simp] theorem setMgmt_flow (s : State) (c : Ctl) (x : Mgmt) (k : Nat) : (s.setMgmt c x).flow k = s.flow k := by cases c <;> rfl
@[simp] theorem setMgmt_hbmc (s : State) (c : Ctl) (x : Mgmt) (k : Nat) : (s.setMgmt c x).hbmc k = s.hbmc k := by cases c <;> rfl
@[simp] theorem setMgmt_cavern (s : State) (c : Ctl) (x : Mgmt) (k : Nat) : (s.setMgmt c x).cavern k = s.cavern k := by cases c <;> rfl
@[simp] theorem setMgmt_vec (s : State) (c : Ctl) (x : Mgmt) (k : Nat) : (s.setMgmt c x).vec k = s.vec k := by cases c <;> rfl
@[simp] theorem setMgmt_helper (s : State) (c : Ctl) (x : Mgmt) (k : Nat) : (s.setMgmt c x).helper k = s.helper k := by cases c <;> rfl
@[simp] theorem setMgmt_msg (s : State) (c : Ctl) (x : Mgmt) (k : Nat) : (s.setMgmt c x).msg k = s.msg k := by cases c <;> rfl
@[simp] theorem setMgmt_link (s : State) (c : Ctl) (x : Mgmt) (k : Nat) : (s.setMgmt c x).link k = s.link k := by cases c <;> rfl
@[simp] theorem setMgmt_bundle (s : State) (c : Ctl) (x : Mgmt) (k : Nat) : (s.setMgmt c x).bundle k = s.bundle k := by cases c <;> rfl
@[simp] theorem setMgmt_port (s : State) (c : Ctl) (x : Mgmt) (k : Nat) : (s.setMgmt c x).port k = s.port k := by cases c <;> rfl
@[simp] theorem setMgmt_ctx (s : State) (c : Ctl) (x : Mgmt) (k : Nat) : (s.setMgmt c x).ctx k = s.ctx k := by cases c <;> rfl
@[simp] theorem setMgmt_slotJ (s : State) (c : Ctl) (x : Mgmt) (k : Nat) : (s.setMgmt c x).slotJ k = s.slotJ k := by cases c <;> rfl

/-! ## setHdr and drawn -/

@[simp] theorem setHdr_hdr (s : State) (p : Page) (x : Hdr) : (s.setHdr p x).hdr p = x := tget_tset_self _ _ _ _

theorem setHdr_hdr_other (s : State) (p : Page) (x : Hdr) {q : Page} (h : q.key ≠ p.key) : (s.setHdr p x).hdr q = s.hdr q := tget_tset_other _ _ _ h

@[simp] theorem setHdr_mem (s : State) (p : Page) (x : Hdr) : (s.setHdr p x).mem = s.mem := rfl
@[simp] theorem setHdr_ue (s : State) (p : Page) (x : Hdr) : (s.setHdr p x).ue = s.ue := rfl
@[simp] theorem setHdr_cycles (s : State) (p : Page) (x : Hdr) : (s.setHdr p x).cycles = s.cycles := rfl
@[simp] theorem setHdr_dev (s : State) (p : Page) (x : Hdr) : (s.setHdr p x).dev = s.dev := rfl
@[simp] theorem setHdr_geode (s : State) (p : Page) (x : Hdr) : (s.setHdr p x).geode = s.geode := rfl
@[simp] theorem setHdr_mgmtW (s : State) (p : Page) (x : Hdr) : (s.setHdr p x).mgmtW = s.mgmtW := rfl
@[simp] theorem setHdr_mgmtE (s : State) (p : Page) (x : Hdr) : (s.setHdr p x).mgmtE = s.mgmtE := rfl
@[simp] theorem setHdr_journal (s : State) (p : Page) (x : Hdr) : (s.setHdr p x).journal = s.journal := rfl
@[simp] theorem setHdr_lie (s : State) (p : Page) (x : Hdr) : (s.setHdr p x).lie = s.lie := rfl
@[simp] theorem setHdr_ports (s : State) (p : Page) (x : Hdr) : (s.setHdr p x).ports = s.ports := rfl
@[simp] theorem setHdr_fns (s : State) (p : Page) (x : Hdr) : (s.setHdr p x).fns = s.fns := rfl
@[simp] theorem setHdr_links (s : State) (p : Page) (x : Hdr) : (s.setHdr p x).links = s.links := rfl
@[simp] theorem setHdr_bundles (s : State) (p : Page) (x : Hdr) : (s.setHdr p x).bundles = s.bundles := rfl
@[simp] theorem setHdr_caverns (s : State) (p : Page) (x : Hdr) : (s.setHdr p x).caverns = s.caverns := rfl
@[simp] theorem setHdr_flows (s : State) (p : Page) (x : Hdr) : (s.setHdr p x).flows = s.flows := rfl
@[simp] theorem setHdr_hbmcs (s : State) (p : Page) (x : Hdr) : (s.setHdr p x).hbmcs = s.hbmcs := rfl
@[simp] theorem setHdr_galleries (s : State) (p : Page) (x : Hdr) : (s.setHdr p x).galleries = s.galleries := rfl
@[simp] theorem setHdr_drips (s : State) (p : Page) (x : Hdr) : (s.setHdr p x).drips = s.drips := rfl
@[simp] theorem setHdr_vecs (s : State) (p : Page) (x : Hdr) : (s.setHdr p x).vecs = s.vecs := rfl
@[simp] theorem setHdr_helpers (s : State) (p : Page) (x : Hdr) : (s.setHdr p x).helpers = s.helpers := rfl
@[simp] theorem setHdr_engines (s : State) (p : Page) (x : Hdr) : (s.setHdr p x).engines = s.engines := rfl
@[simp] theorem setHdr_streams (s : State) (p : Page) (x : Hdr) : (s.setHdr p x).streams = s.streams := rfl
@[simp] theorem setHdr_msgs (s : State) (p : Page) (x : Hdr) : (s.setHdr p x).msgs = s.msgs := rfl
@[simp] theorem setHdr_pins (s : State) (p : Page) (x : Hdr) : (s.setHdr p x).pins = s.pins := rfl
@[simp] theorem setHdr_tap (s : State) (p : Page) (x : Hdr) : (s.setHdr p x).tap = s.tap := rfl
@[simp] theorem setHdr_hostOut (s : State) (p : Page) (x : Hdr) : (s.setHdr p x).hostOut = s.hostOut := rfl
@[simp] theorem setHdr_hostReq (s : State) (p : Page) (x : Hdr) : (s.setHdr p x).hostReq = s.hostReq := rfl
@[simp] theorem setHdr_msix (s : State) (p : Page) (x : Hdr) : (s.setHdr p x).msix = s.msix := rfl
@[simp] theorem setHdr_lastRead (s : State) (p : Page) (x : Hdr) : (s.setHdr p x).lastRead = s.lastRead := rfl
@[simp] theorem setHdr_sideband (s : State) (p : Page) (x : Hdr) : (s.setHdr p x).sideband = s.sideband := rfl
@[simp] theorem setHdr_freeCtr (s : State) (p : Page) (x : Hdr) : (s.setHdr p x).freeCtr = s.freeCtr := rfl
@[simp] theorem setHdr_outs (s : State) (p : Page) (x : Hdr) : (s.setHdr p x).outs = s.outs := rfl
@[simp] theorem setHdr_pending (s : State) (p : Page) (x : Hdr) : (s.setHdr p x).pending = s.pending := rfl
@[simp] theorem setHdr_eng (s : State) (p : Page) (x : Hdr) (k : Nat) : (s.setHdr p x).eng k = s.eng k := rfl
@[simp] theorem setHdr_strm (s : State) (p : Page) (x : Hdr) (k : Nat) : (s.setHdr p x).strm k = s.strm k := rfl
@[simp] theorem setHdr_gal (s : State) (p : Page) (x : Hdr) (k : Nat) : (s.setHdr p x).gal k = s.gal k := rfl
@[simp] theorem setHdr_drip (s : State) (p : Page) (x : Hdr) (k : Nat) : (s.setHdr p x).drip k = s.drip k := rfl
@[simp] theorem setHdr_flow (s : State) (p : Page) (x : Hdr) (k : Nat) : (s.setHdr p x).flow k = s.flow k := rfl
@[simp] theorem setHdr_hbmc (s : State) (p : Page) (x : Hdr) (k : Nat) : (s.setHdr p x).hbmc k = s.hbmc k := rfl
@[simp] theorem setHdr_cavern (s : State) (p : Page) (x : Hdr) (k : Nat) : (s.setHdr p x).cavern k = s.cavern k := rfl
@[simp] theorem setHdr_vec (s : State) (p : Page) (x : Hdr) (k : Nat) : (s.setHdr p x).vec k = s.vec k := rfl
@[simp] theorem setHdr_helper (s : State) (p : Page) (x : Hdr) (k : Nat) : (s.setHdr p x).helper k = s.helper k := rfl
@[simp] theorem setHdr_msg (s : State) (p : Page) (x : Hdr) (k : Nat) : (s.setHdr p x).msg k = s.msg k := rfl
@[simp] theorem setHdr_link (s : State) (p : Page) (x : Hdr) (k : Nat) : (s.setHdr p x).link k = s.link k := rfl
@[simp] theorem setHdr_bundle (s : State) (p : Page) (x : Hdr) (k : Nat) : (s.setHdr p x).bundle k = s.bundle k := rfl
@[simp] theorem setHdr_port (s : State) (p : Page) (x : Hdr) (k : Nat) : (s.setHdr p x).port k = s.port k := rfl
@[simp] theorem setHdr_ctx (s : State) (p : Page) (x : Hdr) (k : Nat) : (s.setHdr p x).ctx k = s.ctx k := rfl
@[simp] theorem setHdr_slotJ (s : State) (p : Page) (x : Hdr) (k : Nat) : (s.setHdr p x).slotJ k = s.slotJ k := rfl
@[simp] theorem drawn_mem (s : State) : s.drawn.mem = s.mem := rfl
@[simp] theorem drawn_ue (s : State) : s.drawn.ue = s.ue := rfl
@[simp] theorem drawn_hdrs (s : State) : s.drawn.hdrs = s.hdrs := rfl
@[simp] theorem drawn_cycles (s : State) : s.drawn.cycles = s.cycles := rfl
@[simp] theorem drawn_dev (s : State) : s.drawn.dev = s.dev := rfl
@[simp] theorem drawn_geode (s : State) : s.drawn.geode = s.geode := rfl
@[simp] theorem drawn_mgmtW (s : State) : s.drawn.mgmtW = s.mgmtW := rfl
@[simp] theorem drawn_mgmtE (s : State) : s.drawn.mgmtE = s.mgmtE := rfl
@[simp] theorem drawn_journal (s : State) : s.drawn.journal = s.journal := rfl
@[simp] theorem drawn_lie (s : State) : s.drawn.lie = s.lie := rfl
@[simp] theorem drawn_ports (s : State) : s.drawn.ports = s.ports := rfl
@[simp] theorem drawn_fns (s : State) : s.drawn.fns = s.fns := rfl
@[simp] theorem drawn_links (s : State) : s.drawn.links = s.links := rfl
@[simp] theorem drawn_bundles (s : State) : s.drawn.bundles = s.bundles := rfl
@[simp] theorem drawn_caverns (s : State) : s.drawn.caverns = s.caverns := rfl
@[simp] theorem drawn_flows (s : State) : s.drawn.flows = s.flows := rfl
@[simp] theorem drawn_hbmcs (s : State) : s.drawn.hbmcs = s.hbmcs := rfl
@[simp] theorem drawn_galleries (s : State) : s.drawn.galleries = s.galleries := rfl
@[simp] theorem drawn_drips (s : State) : s.drawn.drips = s.drips := rfl
@[simp] theorem drawn_vecs (s : State) : s.drawn.vecs = s.vecs := rfl
@[simp] theorem drawn_helpers (s : State) : s.drawn.helpers = s.helpers := rfl
@[simp] theorem drawn_engines (s : State) : s.drawn.engines = s.engines := rfl
@[simp] theorem drawn_streams (s : State) : s.drawn.streams = s.streams := rfl
@[simp] theorem drawn_msgs (s : State) : s.drawn.msgs = s.msgs := rfl
@[simp] theorem drawn_pins (s : State) : s.drawn.pins = s.pins := rfl
@[simp] theorem drawn_tap (s : State) : s.drawn.tap = s.tap := rfl
@[simp] theorem drawn_hostOut (s : State) : s.drawn.hostOut = s.hostOut := rfl
@[simp] theorem drawn_hostReq (s : State) : s.drawn.hostReq = s.hostReq := rfl
@[simp] theorem drawn_msix (s : State) : s.drawn.msix = s.msix := rfl
@[simp] theorem drawn_lastRead (s : State) : s.drawn.lastRead = s.lastRead := rfl
@[simp] theorem drawn_sideband (s : State) : s.drawn.sideband = s.sideband := rfl
@[simp] theorem drawn_outs (s : State) : s.drawn.outs = s.outs := rfl
@[simp] theorem drawn_pending (s : State) : s.drawn.pending = s.pending := rfl
@[simp] theorem drawn_freeCtr (s : State) : s.drawn.freeCtr = s.freeCtr + 1 := rfl
@[simp] theorem drawn_eng (s : State) (k : Nat) : s.drawn.eng k = s.eng k := rfl
@[simp] theorem drawn_strm (s : State) (k : Nat) : s.drawn.strm k = s.strm k := rfl
@[simp] theorem drawn_gal (s : State) (k : Nat) : s.drawn.gal k = s.gal k := rfl
@[simp] theorem drawn_drip (s : State) (k : Nat) : s.drawn.drip k = s.drip k := rfl
@[simp] theorem drawn_flow (s : State) (k : Nat) : s.drawn.flow k = s.flow k := rfl
@[simp] theorem drawn_hbmc (s : State) (k : Nat) : s.drawn.hbmc k = s.hbmc k := rfl
@[simp] theorem drawn_cavern (s : State) (k : Nat) : s.drawn.cavern k = s.cavern k := rfl
@[simp] theorem drawn_vec (s : State) (k : Nat) : s.drawn.vec k = s.vec k := rfl
@[simp] theorem drawn_helper (s : State) (k : Nat) : s.drawn.helper k = s.helper k := rfl
@[simp] theorem drawn_msg (s : State) (k : Nat) : s.drawn.msg k = s.msg k := rfl
@[simp] theorem drawn_link (s : State) (k : Nat) : s.drawn.link k = s.link k := rfl
@[simp] theorem drawn_bundle (s : State) (k : Nat) : s.drawn.bundle k = s.bundle k := rfl
@[simp] theorem drawn_port (s : State) (k : Nat) : s.drawn.port k = s.port k := rfl
@[simp] theorem drawn_ctx (s : State) (k : Nat) : s.drawn.ctx k = s.ctx k := rfl
@[simp] theorem drawn_slotJ (s : State) (k : Nat) : s.drawn.slotJ k = s.slotJ k := rfl

end Sys2Proof.Laws
end

