-- ==== Sys2Proof/Tests/Slice0.lean ====
section
/-! SUPPORT. Tests on small states: of the commands, of the hypotheses of the statements (`wit_` where a value that the spec leaves
open stands in the way of evaluating the rest), and of well-formedness. -/

open Sys2Proof Sys2Proof.Machine

namespace Sys2Proof.Tests

set_option Elab.async false

/-! ## Helpers: small states -/

/-- A command's next state meets a check. -/
def ok (o : Host.Outcome State Fault Refusal) (f : State → Bool) : Bool :=
  match o with
  | .next t => f t
  | _ => false

/-- A command's next state is this one. -/
def gives (o : Host.Outcome State Fault Refusal) (t : State) : Bool := ok o fun u => u == t

/-- An instruction word of the fields of R119; queue fields at 15 name no queue. -/
def iw (opc : Nat) (dst a b c lhi imm : Nat) (rnd : Nat := 0) (emit : Nat := 15) (wait0 : Nat := 15) : BitVec 128 :=
  BitVec.ofNat 128 (opc <<< 120 ||| wait0 <<< 116 ||| 15 <<< 112 ||| emit <<< 108 ||| dst <<< 99 ||| a <<< 94 ||| b <<< 89 |||
    c <<< 84 ||| lhi <<< 66 ||| rnd <<< 62 ||| imm)

/-- A chain of ring size 8 with moduli 17 and 97 and the special modulus 113: small enough to check by hand. -/
def toy : Chain :=
  { logn := 3, l := 2, k := 1,
    ents := [(0, { q := 17, qneg := 1085102592571150095, r2 := 1, psiM := 3, psiInvM := 6, nInvM := 15 }),
      (1, { q := 97, qneg := 6656041676080766047, r2 := 35, psiM := 3, psiInvM := 44, nInvM := 44 }),
      (64, { q := 113, qneg := 7999030616033345391, r2 := 109, psiM := 33, psiInvM := 17, nInvM := 32 })],
    inv := [(1, 15), (64, 35), (80, 10), (144, 97), (5120, 14), (5121, 22)] }

/-- The same ring in split mode, modulus 97 under radix 2^32. -/
def toySplit : Chain := { split := true, logn := 4, l := 1, ents := [(0, { q := 97, qneg := 2700958815, r2 := 61 })] }

/-- A configured operand tile of `rows` rows of 64 bytes at base unit `b`. -/
def tl (b rows : Nat) : Tile := { cfg := true, base := b, rows := rows, rowb := 1 }

/-- An engine that runs a program over tiles T0 to T4, chain 0 the small one, chain 1 the split one. -/
def running (prog : List (BitVec 128)) : Engine :=
  { st := .running, prog := prog, tiles := [(0, tl 0 8), (1, tl 8 8), (2, tl 16 8), (3, tl 24 8), (4, { tl 32 8 with key := true, kst := .full })] }

def withEngine (x : Engine) : State :=
  { State.reset with engines := [(0, x)], dev := { State.reset.dev with chainValid := 3, chains := [(0, toy), (1, toySplit)] } }

/-- The small engine at one instruction. -/
def at1 (w : BitVec 128) : State := withEngine (running [w])

/-- The engine's instruction issues, and the rest holds of what the issue answers. -/
def issues (s : State) (opc : Nat) (f : State → Iss → Bool) : Bool :=
  match s.issue 0 (fun o => o == opc) with
  | .go s1 x => f s1 x
  | .stay _ => false

/-- The last entry of engine 0's window has no fault. -/
def ran (t : State) : Bool := match (t.eng 0).window.getLast? with | some v => v.fault.isNone && !v.skipped | none => false

/-- A page table of tenant 0 at 0x1000: virtual pages 0 to 3 of 64 KiB at HBM 0x100000 and on, writable. -/
def pageTable : List Host.Cell :=
  let e (a v : Nat) (m : List Host.Cell) : List Host.Cell := memPut m 0 a (leBytes 8 v)
  let leaf (k : Nat) : Nat := 7 <<< 61 ||| (0x100000 + k * 0x10000)
  e 0x1000 (1 <<< 63 ||| 0x2000) (e 0x2000 (1 <<< 63 ||| 0x3000) (e 0x3000 (1 <<< 63 ||| 0x4000)
    (e 0x4000 (leaf 0) (e 0x4008 (leaf 1) (e 0x4010 (leaf 2) (e 0x4018 (leaf 3) []))))))

/-- A ciphertext descriptor of scheme 1 with two polynomials of one limb of the small chain (R47), tenant 0. -/
def desc1 (flags : Nat := 8) : List Nat :=
  [1 <<< 56 ||| 1 <<< 52 ||| 2 <<< 40 ||| 3 <<< 35 ||| flags, 0, 0, 0, 128, 128, 256, 0, 0, 0, 0, 0, 0, 0, 0, 0]

/-- The state with tenant 0's table, the engine's handle 0 over the first 4 KiB of its scratchpad, argument slots 0 and 1 in two
virtual pages, naming offsets 0 and 0x800 of that buffer, and bytes in the buffer. -/
def vm (x : Engine) (sp : Bytes) : State :=
  let s := withEngine { x with argBase := 0xFFF8 }
  { s with geode := { s.geode with ctx := [(0, { st := .live, ptRoot := 0x1000 })] },
           galleries := [(0, { ht := [(0, BitVec.ofNat 64 (1 <<< 63 ||| 1))] })],
           mem := memPut (memPut (memPut pageTable 0 0x10FFF8 (leBytes 8 (1 <<< 63))) 0 0x110000 (leBytes 8 (1 <<< 63 ||| 0x800))) 0 (spDpa 0 0) sp }

def descBytes (d : List Nat) (body : List Nat) : Bytes := ((d ++ body).map (leBytes 8)).flatten

/-! ## Engine instructions -/

theorem test_nop : ((match (at1 (iw 1 0 0 0 0 0 0)).issue 0 (fun o => o == 0x01 || (opUse o).isNone) with | .go _ _ => true | _ => false) &&
    ok (exec (.nop 0) (at1 (iw 1 0 0 0 0 0 0))) fun t => ran t && (t.eng 0).pc == 1) = true := by decide +kernel
theorem test_fence : (issues (at1 (iw 0x4A 0 0 0 0 0 0)) 0x4A (fun _ _ => true) &&
    ok (exec (.fence 0) (at1 (iw 0x4A 0 0 0 0 0 0))) fun t => ran t && ((t.eng 0).window.map WinEnt.done) == [false]) = true := by decide +kernel
theorem test_temit : (issues (at1 (iw 0x49 0 0 0 0 0 0xBEEF)) 0x49 (fun _ _ => true) &&
    ok (exec (.temit 0) (at1 (iw 0x49 0 0 0 0 0 0xBEEF))) fun t => ran t && ((t.eng 0).window.map WinEnt.value) == [0xBEEF]) = true := by decide +kernel
def twaitAt : State := withEngine { running [iw 0x48 0 0 0 0 0 (3 <<< 56 ||| 1 <<< 55 ||| 7 <<< 52)] with queues := [(3, [⟨0x1234, false⟩])] }
theorem test_twait : (issues (twaitAt.exportPending 0) 0x48 (fun _ x => x.i.im 55 1 == 1) &&
    ok (exec (.twait 0) twaitAt) fun t => ran t && (t.eng 0).ctv 7 == 0x1234 && (t.eng 0).queue 3 == []) = true := by decide +kernel
theorem test_cnti : (issues (at1 (iw 0x40 0 0 0 0 0 (11 <<< 56 ||| 0xFFFFFFFF))) 0x40 (fun _ _ => true) &&
    ok (exec (.cnti 0) (at1 (iw 0x40 0 0 0 0 0 (11 <<< 56 ||| 0xFFFFFFFF)))) fun t => ran t && (t.eng 0).cpv 3 == 0xFFFFFFFF) = true := by decide +kernel
def cntdAt : State := withEngine { running [iw 0x41 0 0 0 0 0 (2 <<< 57 ||| 0xFFFF)] with ct := [(2, 5)] }
theorem test_cntd : (issues cntdAt 0x41 (fun _ _ => true) &&
    ok (exec (.cntd 0) cntdAt) fun t => ran t && (t.eng 0).ctv 2 == 6) = true := by decide +kernel
def cmpbAt : State := withEngine { running [iw 0x42 0 0 0 0 0 0] with ct := [(0, 5)], cp := [(0, 5)] }
theorem test_cmpb : (issues cmpbAt 0x42 (fun _ _ => true) && ok (exec (.cmpb 0) cmpbAt) ran) = true := by decide +kernel
theorem test_tcfg : (issues (at1 (iw 8 6 0 0 0 0 (40 <<< 45 ||| 64 <<< 35 ||| 1 <<< 27))) 8 (fun s1 x => (s1.eng 0).cfgOk x.i.dst x.i.tileCfg) &&
    ok (exec (.tcfg 0) (at1 (iw 8 6 0 0 0 0 (40 <<< 45 ||| 64 <<< 35 ||| 1 <<< 27)))) fun t => ran t && ((t.eng 0).tile 6).rows == 64 && ((t.eng 0).tile 6).base == 40) = true := by decide +kernel
theorem test_tcfg_refused : (issues (at1 (iw 8 6 0 0 0 0 (65 <<< 35 ||| 1 <<< 27))) 8 (fun s1 x => !(s1.eng 0).cfgOk x.i.dst x.i.tileCfg) &&
    ok (exec (.tcfg 0) (at1 (iw 8 6 0 0 0 0 (65 <<< 35 ||| 1 <<< 27)))) fun t =>
      (match (t.eng 0).window with | [v] => v.fault == some .shape && v.poison | _ => false) && (t.eng 0).tiles == (running []).tiles) = true := by decide +kernel
theorem test_trel : (issues (at1 (iw 0xB 4 0 0 0 0 0)) 0xB (fun s1 x => (s1.eng 0).named x.i.dst) &&
    ok (exec (.trel 0) (at1 (iw 0xB 4 0 0 0 0 0))) fun t => ran t && ((t.eng 0).tile 4).kst == .empty) = true := by decide +kernel

/-- Elements of limb 0: A = 3, B = 16 in every slot, C = 2. -/
def arith (w : BitVec 128) : State :=
  withEngine (((((running [w]).putElems 1 8 0 (List.replicate 8 3)).putElems 2 8 0 (List.replicate 8 16)).putElems 3 8 0 (List.replicate 8 2)))
def ewCheck (w : BitVec 128) (opc : Nat) (c : Instr) (v : Nat) : Bool :=
  issues (arith w) opc (fun s1 x => (s1.issueCheck 0 x.i).isNone && ((s1.eng 0).ewShape x.i (s1.chainOf x.i.chain)).isNone &&
      (List.range x.i.n).all fun k => ((s1.eng 0).ewLimb x.i (s1.chainOf x.i.chain) k).all fun p => !p.1) &&
    ok (exec c (arith w)) fun t => ran t && (t.eng 0).elems 0 8 0 8 == List.replicate 8 v
theorem test_madd : ewCheck (iw 0x10 0 1 2 0 0 0) 0x10 (.madd 0) 2 = true := by decide +kernel
theorem test_msub : ewCheck (iw 0x11 0 1 2 0 0 0) 0x11 (.msub 0) 4 = true := by decide +kernel
theorem test_mmul : ewCheck (iw 0x12 0 1 2 0 0 0) 0x12 (.mmul 0) 14 = true := by decide +kernel
theorem test_mmac : ewCheck (iw 0x13 0 1 2 3 0 0) 0x13 (.mmac 0) 16 = true := by decide +kernel
theorem test_mneg : ewCheck (iw 0x14 0 1 0 0 0 0) 0x14 (.mneg 0) 14 = true := by decide +kernel

/-- NTT of the polynomial 1 (Mont form 1, since 2^64 mod 17 = 1) is 1 in every slot; INTT of that is 1 again (R45). -/
def trAt (w : BitVec 128) (a : List Nat) : State := withEngine ((running [w]).putElems 1 8 0 a)
def trCheck (w : BitVec 128) (opc : Nat) (c : Instr) (a r : List Nat) : Bool :=
  issues (trAt w a) opc (fun s1 x => (s1.issueCheck 0 x.i).isNone && ((s1.eng 0).notHolding (s1.chainOf x.i.chain) x.i.n [x.i.dst, x.i.srca]).isNone &&
      (s1.eng 0).sameShape x.i.dst x.i.srca && !anyBad 17 ((s1.eng 0).limb (s1.chainOf x.i.chain) x.i.srca 0)) &&
    ok (exec c (trAt w a)) fun t => ran t && (t.eng 0).elems 0 8 0 8 == r
theorem test_ntt : trCheck (iw 0x20 0 1 0 0 0 0) 0x20 (.ntt 0) [1, 0, 0, 0, 0, 0, 0, 0] [1, 1, 1, 1, 1, 1, 1, 1] = true := by decide +kernel
theorem test_intt : trCheck (iw 0x21 0 1 0 0 0 0) 0x21 (.intt 0) [1, 1, 1, 1, 1, 1, 1, 1] [1, 0, 0, 0, 0, 0, 0, 0] = true := by decide +kernel
/-- X to X^3 on coefficients: X goes to X^3, X^7 to X^21 = X^5 (X^16 = 1), X^3 to X^9 = -X. -/
theorem test_auto : trCheck (iw 0x22 0 1 0 0 0 (3 <<< 42 ||| 1 <<< 41)) 0x22 (.auto 0) [5, 1, 0, 2, 0, 0, 0, 4] [5, 15, 0, 1, 0, 4, 0, 0] = true := by decide +kernel

/-- The limb at entry 0 of the small chain is the plain residue 5 in Montgomery form (R = 1 mod 17). -/
def basisAt (w : BitVec 128) (rows : Nat) : State :=
  withEngine ({ running [w] with tiles := [(0, tl 0 8), (1, tl 8 8), (2, tl 16 8), (3, tl 24 8)] }.putElems 1 8 0 (List.replicate (8 * rows) 5))
def basisCheck (w : BitVec 128) (rows opc : Nat) (c : Instr) (h : State → Iss → Bool) : Bool :=
  issues (basisAt w rows) opc (fun s1 x => (s1.issueCheck 0 x.i).isNone && h s1 x) && ok (exec c (basisAt w rows)) ran
theorem test_bconv : basisCheck (iw 0x28 0 1 0 0 0 (0 <<< 53 ||| 1 <<< 46)) 1 0x28 (.bconv 0) (fun s1 x =>
  let y := s1.eng 0
  let c := s1.chainOf x.i.chain
  (y.notHolding c x.i.n [1]).isNone && (y.notHolding c 2 [0]).isNone && !(y.plain c 1 [0]).1) = true := by decide +kernel
theorem test_bconv_value : ok (exec (.bconv 0) (basisAt (iw 0x28 0 1 0 0 0 (0 <<< 53 ||| 1 <<< 46)) 1)) (fun t =>
  (t.eng 0).elems 0 8 0 16 == List.replicate 8 5 ++ List.replicate 8 (5 * 2 ^ 64 % 97)) = true := by decide +kernel
theorem test_modup : basisCheck (iw 0x29 0 1 0 0 0 (0 <<< 56 ||| 1 <<< 50)) 1 0x29 (.modup 0) (fun s1 x =>
  let y := s1.eng 0
  let c := s1.chainOf x.i.chain
  x.i.im 50 6 == 1 && x.i.im 56 4 + 1 == 1 && (y.notHolding c x.i.n [1]).isNone && (y.notHolding c 3 [0]).isNone && !(y.plain c 1 [0]).1) = true := by decide +kernel
theorem test_moddn : basisCheck (iw 0x2A 0 1 0 0 1 0) 3 0x2A (.moddn 0) (fun s1 x =>
  let y := s1.eng 0
  let c := s1.chainOf x.i.chain
  x.i.llo == 0 && (y.notHolding c 3 [1]).isNone && (y.notHolding c 2 [0]).isNone && !(y.plain c 1 [0, 1, 64]).1) = true := by decide +kernel
theorem test_resc : (basisCheck (iw 0x2B 0 1 0 0 1 0) 2 0x2B (.resc 0) (fun s1 x =>
  let y := s1.eng 0
  let c := s1.chainOf x.i.chain
  !x.i.mop && x.i.llo == 0 && x.i.lhi == 1 && (y.notHolding c 2 [1]).isNone && (y.notHolding c 1 [0]).isNone && !(y.plain c 1 [0, 1]).1) &&
  basisCheck (iw 0x2B 1 1 0 0 1 0) 2 0x2B (.resc 0) (fun _ x => x.i.dst == x.i.srca)) = true := by decide +kernel
theorem test_dcmp : basisCheck (iw 0x38 0 1 0 0 0 (2 <<< 56 ||| 2 <<< 51)) 1 0x38 (.dcmp 0) (fun s1 x =>
  let y := s1.eng 0
  let c := s1.chainOf x.i.chain
  (y.notHolding c x.i.n [1]).isNone && y.holds c 0 2 && (y.tile 0).rowb == (y.tile 1).rowb && !anyBad 17 (y.limb c 1 0)) = true := by decide +kernel
/-- 5 in two signed digits of two bits, by NEAREST: 5 * 16 / 17 = 4.7 rounds to 5 = 1 * 4 + 1. -/
theorem test_dcmp_value : ok (exec (.dcmp 0) (basisAt (iw 0x38 0 1 0 0 0 (2 <<< 56 ||| 2 <<< 51)) 1)) (fun t =>
  (t.eng 0).elems 0 8 0 16 == List.replicate 16 1) = true := by decide +kernel
/-- 5 switched to modulus 2^3 by NEAREST: 5 * 8 / 17 = 2.35 rounds to 2. -/
theorem test_msw : (basisCheck (iw 0x3D 0 1 0 0 0 (3 <<< 55)) 1 0x3D (.msw 0) (fun s1 x =>
  let y := s1.eng 0
  let c := s1.chainOf x.i.chain
  x.i.im 55 5 == 3 && (y.notHolding c x.i.n [0, 1]).isNone && !anyBad 17 (y.limb c 1 0)) &&
  ok (exec (.msw 0) (basisAt (iw 0x3D 0 1 0 0 0 (3 <<< 55)) 1)) fun t => (t.eng 0).elems 0 8 0 8 == List.replicate 8 2) = true := by decide +kernel
/-- Coefficient 1 of the GLWE ciphertext with body c_0 = 1 + 2X and mask c_1 = 3 + 4X, modulus 97, N = 16 (R189): the record is
(4, 3, 0, ...) after its body c_0[1] = 2 (R179), each times 2^32 = 35 mod 97. -/
def sxtrAt : State :=
  withEngine ({ running [BitVec.ofNat 128 (0x3B <<< 120 ||| 0xFFF <<< 108 ||| 1 <<< 94 ||| 1 <<< 79 ||| 1 <<< 43 ||| 1 <<< 40)] with
      tiles := [(0, tl 0 8), (1, tl 8 8)] }.putElems 1 4 0
    ((([1, 2] ++ List.replicate 14 0 ++ [3, 4] ++ List.replicate 14 0)).map fun v => v * 2 ^ 32 % 97))
theorem test_sxtr : (issues sxtrAt 0x3B (fun s1 x =>
    let y := s1.eng 0
    let c := s1.chainOf x.i.chain
    (s1.issueCheck 0 x.i).isNone && c.split && y.holds c 1 2 && x.i.im 43 17 == 1 && x.i.im 40 3 == 1 && decide (1 * c.n + 1 ≤ y.capacity 0 c.esz) &&
      (y.polys c 1 1).all fun p => !anyBad 97 p) &&
    ok (exec (.sxtr 0) sxtrAt) fun t => ran t && (t.eng 0).elems 0 4 0 17 == [70, 43, 8] ++ List.replicate 14 0) = true := by decide +kernel

/-! ## Transfers -/

def tldAt : State := vm (running [iw 9 0 0 0 0 0 0]) (descBytes desc1 [1, 2, 3, 4, 5, 6, 7, 8])
theorem test_tld : (issues tldAt 9 (fun s1 x => (s1.issueCheck 0 x.i).isNone &&
    match s1.readDesc 0 (x.i.im 52 8) true with
    | (s2, .ok (l, d)) => ((s2.eng 0).bodyFits x.i (s2.chainOf x.i.chain) d x.i.dst 0 false).isNone &&
        s2.reaches 0 (l.plus (x.i.bodyOff (s2.chainOf x.i.chain) d 0)) (x.i.total (s2.chainOf x.i.chain) d * fmtBytes d.wfmt)
    | _ => false) &&
    ok (exec (.tld 0) tldAt) fun t => (t.xfer 0 0).kind == .tld && (t.xfer 0 0).seq == 1 && (t.eng 0).issued == 1 &&
      (t.eng 0).elems 0 8 0 8 == [1, 2, 3, 4, 5, 6, 7, 8]) = true := by decide +kernel
def tstAt : State := vm ((running [iw 0xA 0 1 0 0 0 0]).putElems 1 8 0 [9, 1, 2, 3, 4, 5, 6, 7]) (descBytes desc1 [])
theorem test_tst : (issues tstAt 0xA (fun s1 x => (s1.issueCheck 0 x.i).isNone && x.i.im 47 1 == 0 && !((s1.eng 0).tile 1).key &&
    match s1.readDesc 0 (x.i.im 52 8) false with
    | (s2, .ok (l, d)) => ((s2.eng 0).bodyFits x.i (s2.chainOf x.i.chain) d 1 0 false).isNone &&
        s2.reaches 0 (l.plus (x.i.bodyOff (s2.chainOf x.i.chain) d 0)) (x.i.total (s2.chainOf x.i.chain) d * fmtBytes d.wfmt)
    | _ => false) &&
    ok (exec (.tst 0) tstAt) fun t => (t.xfer 0 0).kind == .tst && (t.xfer 0 0).seq == 1 &&
      t.bytes (spDpa 0 128) 64 == ([9, 1, 2, 3, 4, 5, 6, 7].map (leBytes 8)).flatten) = true := by decide +kernel
/-- TLD completes: its entry is free and its instruction is done. -/
def tldDone : State := match exec (.tld 0) tldAt with | .next t => t | _ => State.reset
theorem test_transfer_complete : ((tldDone.xfer 0 0).last && ((tldDone.eng 0).winOf 1).isSome && (tldDone.xfer 0 0).cdesc.isNone &&
    ok (exec (.transferComplete 0 0) tldDone) fun t => (t.xfer 0 0).kind == .free && ((t.eng 0).window.all fun v => v.done)) = true := by decide +kernel
/-- TST with its descriptor (DESC = 1): the completion writes the output's descriptor. -/
def tstDesc : State := match exec (.tst 0) (vm (running [iw 0xA 0 1 0 0 0 (1 <<< 52 ||| 1 <<< 47 ||| 0 <<< 39)])
  (descBytes desc1 (List.replicate 240 0 ++ desc1 0))) with | .next t => t | _ => State.reset
theorem test_tst_descriptor : ((tstDesc.xfer 0 0).last && (tstDesc.xfer 0 0).cdesc.isSome && (tstDesc.xfer 0 0).out.isSome &&
    ok (exec (.transferComplete 0 0) tstDesc) fun t => (t.xfer 0 0).kind == .free && ((t.eng 0).window.all fun v => v.done && v.fault.isNone)) = true := by decide +kernel
/-- Retirement of the completed TLD with a token, and of a STOP. -/
theorem test_instruction_retire :
    (let v : WinEnt := { seq := 1, word := iw 9 0 0 0 0 0 0 0 3, pc := 0, value := 7, done := true }
     ok (exec (.instructionRetire 0) (withEngine { running [] with window := [v] })) fun t =>
       (t.eng 0).window.isEmpty && (t.eng 0).retired == 1 && (t.eng 0).queue 3 == [⟨7, false⟩]) = true := by decide +kernel
theorem test_instruction_retire_fault :
    (let v : WinEnt := { seq := 1, word := iw 9 0 0 0 0 0 0, pc := 5, value := 7, done := true, poison := true, fault := some .levelExhausted, tile := some 3 }
     ok (exec (.instructionRetire 0) (withEngine { running [] with window := [v] })) fun t =>
       (t.eng 0).lastCode == Code.levelExhausted.byte && (t.eng 0).faultInfo == faultInfoImage .levelExhausted 9 (some 3) 5) = true := by decide +kernel
def stopAt : State := withEngine { running [iw 2 0 0 0 0 0 0] with window := [{ seq := 1, word := iw 2 0 0 0 0 0 0, pc := 0, value := 1, done := false }] }
theorem test_stop : (stopAt.streamsQuiet 0 && (match stopAt.issue 0 (fun o => o == 0x02) with | .stay s => s == stopAt | _ => false) &&
    ok (exec (.stop 0) stopAt) fun t => (t.eng 0).window.isEmpty && (t.eng 0).st == .idle && (t.eng 0).ended == some .ok) = true := by decide +kernel
theorem test_stop_issues : (issues (at1 (iw 2 0 0 0 0 0 0)) 2 (fun _ _ => true) &&
    ok (exec (.stop 0) (at1 (iw 2 0 0 0 0 0 0))) fun t => (t.eng 0).issued == 1) = true := by decide +kernel

/-! ## Key rings -/

/-- A key tile T4 that is FULL under the tag of the header at offset 0x800, a token in Q8. -/
def ringEngine (w : BitVec 128) (els : List Nat) (sz : Nat := 8) : Engine :=
  ({ running [w] with
      queues := [(8, [⟨0, false⟩])]
      tiles := [(0, tl 0 8), (1, tl 8 8), (2, tl 16 8), (3, tl 24 8), (4, { tl 32 8 with key := true, kst := .full, tag := 0x800 })] }.putElems 1 sz 0 els)
/-- A switching-key header of the small chain for one digit and one special prime (R201, R202). -/
def keyHdr : Bytes :=
  ([1, 1, 0, 0, 1, 1, 0, 3, 2, 1] ++ List.replicate 30 0).map (BitVec.ofNat 8) ++ leBytes 8 192 ++ zeros 208
def kswWord (imm : Nat := 0) : BitVec 128 := iw 0x30 2 1 4 3 0 (imm ||| 1 <<< 42) 0 15 8
def kswAt : State := vm (ringEngine kswWord [1, 2, 3, 4, 5, 6, 7, 8]) (descBytes desc1 (List.replicate 240 0) ++ keyHdr)
def begun (o : Host.Outcome State Fault Refusal) (total : Nat) (src : List (List Nat)) : Bool :=
  ok o fun t => ran t && match (t.eng 0).ringOp with | some op => op.seq == 1 && op.total == total && op.fills.length == 1 && op.src == src | none => false
theorem test_ksw : (issues kswAt 0x30 (fun s1 x =>
    let c := s1.chainOf x.i.chain
    (s1.issueCheck 0 x.i).isNone && (s1.kswCheck 0 x.i).isNone && match s1.kswArgs 0 x.i with
    | (_, .ok a) => a.mem.isNone && begun (exec (.ksw 0) kswAt) (c.kswFills x.i.dnum x.i.lhi x.i.nsp) ((s1.eng 0).plain c x.i.srca (List.range (x.i.lhi + 1))).2
    | _ => false)) = true := by decide +kernel
/-- The split chain: LEVELS 1, BETA 4, GK 1, KR 1. -/
def extWord (opc a imm : Nat) : BitVec 128 :=
  BitVec.ofNat 128 (opc <<< 120 ||| 8 <<< 116 ||| 15 <<< 112 ||| 15 <<< 108 ||| 2 <<< 99 ||| a <<< 94 ||| 4 <<< 89 ||| 1 <<< 79 ||| 1 <<< 56 ||| 4 <<< 51 ||| 1 <<< 48 ||| imm)
def extAt (opc a imm : Nat) (els : List Nat) : State := withEngine (ringEngine (extWord opc a imm) els 4)
theorem test_extp : (let s := extAt 0x39 1 0 (List.range 32)
   issues s 0x39 fun s1 x =>
    let y := s1.eng 0
    let c := s1.chainOf x.i.chain
    (s1.issueCheck 0 x.i).isNone && (s1.extCheck 0 x.i (x.i.gk + 1)).isNone && y.sameShape x.i.srca x.i.dst && decide (0 < x.i.gk) &&
      begun (exec (.extp 0) s) (x.i.gk + 1) (y.plain c x.i.srca (List.replicate (x.i.gk + 1) 0)).2) = true := by decide +kernel
theorem test_brot : (let s := extAt 0x3A 1 (2 <<< 34) [1, 2, 70, 4]
   issues s 0x3A fun s1 x =>
    let y := s1.eng 0
    let c := s1.chainOf x.i.chain
    (s1.issueCheck 0 x.i).isNone && (s1.extCheck 0 x.i (x.i.gk + 1)).isNone && x.i.srca != x.i.dst && !(y.tile x.i.srca).key &&
      decide (2 < y.capacity x.i.srca c.esz) && begun (exec (.brot 0) s) (x.i.gk + 1) (y.plain c x.i.dst (List.replicate (x.i.gk + 1) 0)).2 &&
      ok (exec (.brot 0) s) fun t => match (t.eng 0).ringOp with | some op => op.rot == 2 | none => false) = true := by decide +kernel
theorem test_kpack : (let s := extAt 0x3C 1 (1 <<< 34 ||| 3 <<< 21) (List.range 32)
   issues s 0x3C fun s1 x =>
    let y := s1.eng 0
    let c := s1.chainOf x.i.chain
    let w := cdiv (x.i.ldim + 1) (y.perRow c x.i.srca)
    (s1.issueCheck 0 x.i).isNone && (s1.extCheck 0 x.i x.i.ldim).isNone && decide (x.i.cnt ≤ c.n ∧ x.i.cnt * w ≤ (y.tile x.i.srca).lrows ∧ 1 < x.i.ldim) &&
      begun (exec (.kpack 0) s) x.i.ldim ((List.range x.i.cnt).map fun r => (y.elems x.i.srca c.esz (r * w * y.perRow c x.i.srca) (x.i.ldim + 1)).map (c.redc 0))) = true := by decide +kernel
/-- EXTP of two more fills, with a token and a FULL tile for the second of three. -/
def ringMid : State :=
  match exec (.extp 0) (withEngine (ringEngine (extWord 0x39 1 (1 <<< 48)) (List.range 32) 4)) with
  | .next t =>
    let y := (t.eng 0).setKey 4 .full 0x800
    t.setEng 0 { y with queues := [(8, [⟨0, false⟩])], ringOp := y.ringOp.map fun r => { r with total := 3 } }
  | _ => State.reset
theorem test_ring_token_take : ((((ringMid.eng 0).ringOp.bind fun r => (ringMid.eng 0).winOf r.seq |>.map fun v =>
    v.xfer.isNone && v.iss.i.wait0 == 8 && (ringMid.eng 0).ringTile v.iss.i (r.fills.length % v.iss.i.kr) == 4 &&
      decide (r.fills.length + 1 < r.total) && !r.fills.isEmpty) == some true) && (ringMid.eng 0).full 4 &&
  ok (exec (.ringTokenTake 0) ringMid) fun t => (t.eng 0).queue 8 == [] && ((t.eng 0).tile 4).kst == .empty &&
    match (t.eng 0).ringOp with | some op => op.fills.length == 2 | none => false) = true := by decide +kernel

/-! ## Memory operands -/

/-- A ciphertext of level 1 in evaluation order, its two polynomials at 0x100 and 0x200; and a prepared output of level 0. -/
def desc2 (lvl : Nat) (flags : Nat := 12) : List Nat :=
  [1 <<< 56 ||| 1 <<< 52 ||| 2 <<< 40 ||| 3 <<< 35 ||| lvl <<< 24 ||| flags, 0, 0, 0, 128 * (lvl + 1), 256, 512, 0, 0, 0, 0, 0, 0, 0, 0, 0]
/-- RESC with MOP = 1 from argument slot 0 to slot 1: limb 1 of 17 · 97 scaled away. -/
def rescMop : State :=
  vm { running [iw 0x2B 2 1 0 0 1 (1 <<< 59 ||| 1 <<< 40)] with tiles := [(1, tl 8 8), (2, tl 16 8)] }
    (descBytes (desc2 1) (List.replicate 16 0 ++ List.replicate 32 0 ++ List.replicate (0x100 - 64) 0) |>.take 0x800 |> fun b =>
      b ++ zeros (0x800 - b.length) ++ descBytes (desc2 0) (List.replicate 40 0))
def resMop (o : Host.Outcome State Fault Refusal) : Bool :=
  ok o fun t => (List.range 4).any fun n => (t.xfer 0 n).seq == 1 && ((t.xfer 0 n).kind == .tld || (t.xfer 0 n).kind == .tst)
theorem test_resc_mop : (issues rescMop 0x2B fun s1 x =>
  let c := s1.chainOf x.i.chain
  (s1.issueCheck 0 x.i).isNone && x.i.mop && x.i.llo == 0 && x.i.lhi != 0 && ((s1.eng 0).rescStaging x.i c).isNone && x.i.im 36 1 == 0 &&
  match s1.firstSource 0 (x.i.im 51 8) (x.i.im 40 8) with
  | (s2, .ok (il, id)) => id.mopSourceOk x.i (x.i.im 48 3) &&
    (match s2.readDesc 0 (x.i.im 40 8) false with
     | (s4, .ok (l, d)) => d.mopOutputOk x.i (x.i.lhi - 1) (x.i.im 37 3 + 1) &&
        s4.reaches 0 (il.plus (id.off (x.i.im 48 3))) ((x.i.lhi + 1) * c.n * fmtBytes id.wfmt) &&
        s4.reaches 0 (l.plus (d.off (x.i.im 37 3))) (x.i.lhi * c.n * fmtBytes d.wfmt) && resMop (exec (.resc 0) rescMop)
     | (_, .error (c, _)) => c == .ok)
  | (_, .error _) => false) = true := by decide +kernel

/-! ## Engine control -/

def cfgWord : Word64 := BitVec.ofNat 64 (40 <<< 32 ||| 64 <<< 16 ||| 1)
theorem test_tile_cfg_write : (State.reset.takes (.engine 0) && !State.reset.streamRef 0 ((State.reset.eng 0).replaced 6 (cfgOfWord cfgWord.toNat)) &&
    (State.reset.eng 0).cfgOk 6 (cfgOfWord cfgWord.toNat) &&
    ok (exec (.tileCfgWrite 0 0 0 6 cfgWord) State.reset) fun t => ((t.eng 0).tile 6).cfg && ((t.eng 0).tile 6).base == 40 &&
      ((t.eng 0).tile 6).rows == 64 && ((t.eng 0).tile 6).rowb == 1) = true := by decide +kernel
/-- A program of one STOP for tenant 0 whose header ends a virtual page. -/
def progBytes : Bytes := leBytes 2 1 ++ leBytes 2 0 ++ leBytes 4 1 ++ leBytes 8 0 ++ leBytes 8 9 ++ zeros 40 ++ leBytes 16 (iw 2 0 0 0 0 0 0).toNat
def startAt : State :=
  let s := vm { progBase := 0xFFC0, retired := 7, rndSeed := 5, ct := [(1, 1)] } []
  { s with mem := memPut s.mem 0 0x10FFC0 progBytes }
theorem test_engine_start : (startAt.blkOn (.engine 0) && !(startAt.eng 0).inReset && (match (startAt.clearRun 0).readProg 0 0xFFC0 with
    | (s1, .ok (stopat, ws)) => (match s1.readImage 0 with
      | (_, .ok _) => ok (exec (.engineStart 0 1) startAt) fun t => (t.eng 0).st == .running && (t.eng 0).pc == 0 && (t.eng 0).prog == ws &&
          ws == [iw 2 0 0 0 0 0 0] && (t.eng 0).retired == 0 && (t.eng 0).ctv 1 == 0 && (t.eng 0).stopCnt == stopat && stopat == 9 && (t.eng 0).rndLatched == 5
      | _ => false)
    | _ => false)) = true := by decide +kernel
def stoppedAt : State := withEngine { running [] with st := .stopped, retired := 5, issued := 5, stopCnt := 5 }
theorem test_stop_cnt_write : (stoppedAt.takes (.engine 0) && stoppedAt.mayUse 0 3 (stoppedAt.eng 0).tenant &&
    (ok (exec (.stopCntWrite 0 3 0 6) stoppedAt) fun t => (t.eng 0).stopCnt == 6 && (t.eng 0).st == .running) &&
    ok (exec (.stopCntWrite 0 3 0 5) stoppedAt) fun t => (t.eng 0).stopCnt == 5 && (t.eng 0).st == .stopped) = true := by decide +kernel
theorem test_rnd_seed_write : (ok (exec (.rndSeedWrite 0 77) (withEngine { st := .saved })) fun t =>
    (t.eng 0).rndSeed == 77 && (t.eng 0).rndLatched == 0) = true := by decide +kernel
def dbgAt : State := withEngine { (running []).putElems 1 8 0 [1, 2, 3] with st := .halted, dbgSel := 1 <<< 24 }
theorem test_dbg_win_read : (dbgAt.mayUse 0 0 (dbgAt.eng 0).tenant && dbgAt.blkOn (.engine 0) &&
    (ok (exec (.dbgWinRead 0 0 0 8 8) dbgAt) fun t => t.lastRead == 2 && t.lastRead == (dbgAt.eng 0).dbgBytes 8 8)) = true := by decide +kernel
theorem test_dbg_win_read_running : (ok (exec (.dbgWinRead 0 0 0 8 8) (withEngine (running []))) fun t => t.lastRead == 0 &&
    (t.hdr (.engine 0)).errCnt == 1) = true := by decide +kernel
def hsigAt : State := { withEngine (running []) with galleries := [(0, { xportPend := 1, xportSeq := [(0, 0x12)] })] }
def hsigVal : Word64 := BitVec.ofNat 64 (0x12 <<< 48 ||| 1 <<< 16 ||| 0xAB)
theorem test_hsig_write : (hsigAt.takes (.gallery 0) && hsigAt.mayUse 1 5 (hsigAt.eng 0).tenant && (hsigAt.gal 0).xportPend.getLsbD 0 &&
    ok (exec (.hsigWrite 1 5 0 hsigVal) hsigAt) fun t => (t.gal 0).xportPend == 0 && (t.eng 0).queue 15 == [⟨0xAB, true⟩]) = true := by decide +kernel
theorem test_engine_stopped : (let s := withEngine { running [] with issued := 5, retired := 5, stopCnt := 5 }
  s.startedQuiet 0 && gives (exec (.engineStopped 0) s) (s.setEng 0 { s.eng 0 with st := .stopped })) = true := by decide +kernel
theorem test_engine_halted : (let s := (withEngine (running [])).setHdr (.engine 0) { halt := true }
  gives (exec (.engineHalted 0) s) (s.setEng 0 { s.eng 0 with st := .halted })) = true := by decide +kernel

/-! ## Save and restore -/

def savable : State := withEngine { running [iw 1 0 0 0 0 0 0] with
  saveBase := 0x200000, pc := 1, retired := 1, issued := 1, progBase := 0xFFC0, queues := [(3, [⟨7, false⟩])]
  tiles := [(1, { tl 8 1 with inUse := true })], tf := memPut [] 0 512 [1, 2, 3] }
theorem test_engine_save : (savable.blkOn (.engine 0) && inHbm 0x200000 (savable.eng 0).saveBytes &&
    gives (exec (.engineSave 0) savable) (savable.setEng 0 { savable.eng 0 with st := .saving })) = true := by decide +kernel
def saving : State := savable.setEng 0 { savable.eng 0 with st := .saving }
theorem test_save_complete : (saving.saveQuiet 0 && saving.groupQuiet 0 && (saving.eng 0).ringOp.isNone &&
    ok (exec (.saveComplete 0) saving) fun t => (t.eng 0).st == .saved && (t.eng 0).tiles == [] && (t.eng 0).tf == [] && (t.eng 0).queue 3 == [] &&
      t.bytes 0x201000 64 == [1, 2, 3] ++ zeros 61 && t.bytes 0x200000 1 == [1] && t.num 0x200300 4 == 1) = true := by decide +kernel
/-- The saved area read back by an engine in IDLE. -/
def restorable : State :=
  match exec (.saveComplete 0) saving with
  | .next t =>
    let s := vm {} []
    let p := leBytes 2 1 ++ leBytes 2 0 ++ leBytes 4 1 ++ zeros 56 ++ leBytes 16 (iw 1 0 0 0 0 0 0).toNat
    { s with mem := memPut (memPut s.mem 0 0x10FFC0 p) 0 0x200000 (t.bytes 0x200000 (4096 + 64 + 256)),
             engines := [(0, { saveBase := 0x200000 })] }
  | _ => State.reset
theorem test_engine_restore : (restorable.blkOn (.engine 0) && match restorable.devRead 0 0x200000 4096 with
    | (s1, .ok b) => (match saveHdrOf b with
      | some h => decide (h.tenant = 0) && (match cfgRestore h.cfg with
        | some y => (match s1.devRead 0 0x201000 (h.imageBytes y + 256) with
          | (s2, .ok b2) => (match s2.readProg 0 h.progBase with
            | (s3, .ok (_, ws)) => ws.length == h.ninstr && (match (s3.restoreStream 0 (b2.drop (h.imageBytes y))).readImage 0 with
              | (_, .ok _) => ok (exec (.engineRestore 0) restorable) fun t => (t.eng 0).st == .restoring && (t.eng 0).pc == 1 &&
                  (t.eng 0).retired == 1 && (t.eng 0).prog == ws && (t.hdr (.engine 0)).halt && (t.eng 0).queue 3 == [⟨7, false⟩] &&
                  memRun (t.eng 0).tf 0 512 3 == [1, 2, 3]
              | _ => false)
            | _ => false)
          | _ => false)
        | none => false)
      | none => false)
    | _ => false) = true := by decide +kernel
theorem test_restore_complete : (ok (exec (.restoreComplete 0) (withEngine { running [] with st := .restoring })) fun t =>
    (t.eng 0).st == .halted && (t.eng 0).refills == []) = true := by decide +kernel

/-! ## Chains and the Drip -/

def chainAt : State := { at1 0 with dev := { (at1 0).dev with chainBusy := 4 } }
theorem test_chain_clr : ((at1 0).takes .dev && ok (exec (.chainClr 1) (at1 0)) fun t => t.dev.chainValid == 1 && t.dev.chainBusy == 2 && t.mem == []) = true := by
  decide +kernel
theorem test_chain_drain_complete : ((List.range 64).all (fun e => (chainAt.eng e).window.all fun v => v.chain != some 2) && !chainAt.chainFill 2 &&
    ok (exec (.chainDrainComplete 2) chainAt) fun t => t.dev.chainBusy == 0 && t.mem == []) = true := by decide +kernel
/-- A table that does not pass R36 leaves an error record and no copy. -/
theorem test_chain_set_refused : (ok (exec (.chainSet 1) (at1 0)) fun t => t.dev.chainValid == 3 && t.dev.chains == (at1 0).dev.chains && (t.hdr .dev).errCnt == 1) = true := by
  decide +kernel
theorem test_drip_selftest : (State.reset.takes (.drip 2) && !State.reset.dripBusy 2 &&
    gives (exec (.dripSelftest 2) State.reset) (State.reset.setDrip 2 { State.reset.drip 2 with busy := true, done := false })) = true := by decide +kernel
def dripTest : State := (State.reset.setDrip 2 { busy := true }).setHdr (.drip 2) { pstate := .starting }
theorem test_drip_selftest_end : (ok (exec (.dripSelftestEnd 2 5) dripTest) fun t => !(t.drip 2).busy && (t.drip 2).done &&
    (t.drip 2).coreEn == 0xFFFFFFFFFA && (t.drip 2).coreFail == 5 && (t.hdr (.drip 2)).pstate == .on) = true := by decide +kernel
theorem test_drip_core_parity_error : ((State.reset.drip 2).coreEn.getLsbD 39 && ok (exec (.dripCoreParityError 2 39) State.reset) fun t =>
    !(t.drip 2).coreEn.getLsbD 39 && (t.drip 2).coreFail.getLsbD 39 && ((t.gal 2).sump.map fun r => (r.cls, r.unit)) == [(1, 4)]) = true := by decide +kernel
theorem test_drip_core_en_write : (let s := State.reset.setDrip 2 { coreFail := 1, coreEn := 2 }
  s.takes (.drip 2) && ok (exec (.dripCoreEnWrite 2 7) s) fun t => (t.drip 2).coreEn == 6) = true := by decide +kernel

/-! ## Slots -/

def slotWord (sop rest : Nat) : Nat := sop <<< 59 ||| rest
/-- A header of n instructions, REPEAT or not. -/
def slotHdr (n : Nat) (rep : Bool := false) : Nat := 1 <<< 56 ||| n <<< 48 ||| (if rep then 1 <<< 45 else 0)
/-- Engine 0's slot 1 running these instructions. -/
def slotAt (x : Engine) (body : List Nat) (y : Slot) (rep : Bool := false) : State :=
  (withEngine x).setStrm 0 { slots := [(1, { y with words := ((slotHdr body.length rep :: body).map (BitVec.ofNat 64)), st := .running })] }
def srcTile : Nat := slotWord 1 (1 <<< 51 ||| 64)
def dstTile : Nat := slotWord 2 (2 <<< 51)
theorem test_src : ((slotAt (running []) [srcTile, dstTile] {}).slotReady 0 1 1 && ok (exec (.src 0 1) (slotAt (running []) [srcTile, dstTile] {})) fun t =>
    (t.slotOf 0 1).src == some (.tile 1 64) && (t.slotOf 0 1).pc == 1) = true := by decide +kernel
theorem test_dst : ((slotAt (running []) [dstTile, srcTile] {}).slotReady 0 1 2 && ok (exec (.dst 0 1) (slotAt (running []) [dstTile, srcTile] {})) fun t =>
    (t.slotOf 0 1).dst == some (.tile 2 0) && (t.slotOf 0 1).pc == 1) = true := by decide +kernel
def loopWord : Nat := slotWord 3 (2 <<< 57 ||| 3 <<< 40 ||| 0xFFFFF <<< 20 ||| 5)
theorem test_loop : ((slotAt (running []) [loopWord, srcTile] {}).slotReady 0 1 3 && ok (exec (.loop 0 1) (slotAt (running []) [loopWord, srcTile] {})) fun t =>
    (t.slotOf 0 1).pc == 1 && tget (t.slotOf 0 1).lvls 2 {} == { count := 4, ss := -1, ds := 5 }) = true := by decide +kernel
theorem test_clamp : (let w := slotWord 4 (2 <<< 28 ||| 7)
  (slotAt (running []) [w, srcTile] {}).slotReady 0 1 4 && ok (exec (.clamp 0 1) (slotAt (running []) [w, srcTile] {})) fun t =>
    (t.slotOf 0 1).clamp == some (2, 7)) = true := by decide +kernel
theorem test_xform : (let w := slotWord 5 (5 <<< 41 ||| 10 <<< 36 ||| 1 <<< 35)
  (slotAt (running []) [w, srcTile] {}).slotReady 0 1 5 && ok (exec (.xform 0 1) (slotAt (running []) [w, srcTile] {})) fun t =>
    (t.slotOf 0 1).xform == some (5, 10, true)) = true := by decide +kernel
/-- The last instruction: DONE without an entry, or ARMED again under REPEAT. -/
theorem test_slot_ends : ((ok (exec (.src 0 1) (slotAt (running []) [srcTile] {})) fun t => (t.slotOf 0 1).st == .done && (t.slotOf 0 1).ent.isNone) &&
    ok (exec (.src 0 1) (slotAt (running []) [srcTile] {} true)) fun t => (t.slotOf 0 1).st == .armed && (t.slotOf 0 1).ent.isNone) = true := by decide +kernel
def armed (poison : Bool) : State :=
  let s := slotAt { running [] with queues := [(14, [⟨9, poison⟩])] } [srcTile] {}
  s.setSlotOf 0 1 { s.slotOf 0 1 with st := .armed }
theorem test_slot_start : (((armed false).strmStarts 0 && ((armed false).q14For 0 1).isSome && ok (exec (.slotStart 0 1) (armed false)) fun t =>
    (t.slotOf 0 1).st == .running && (t.eng 0).queue 14 == []) && ok (exec (.slotStart 0 1) (armed true)) fun t => (t.slotOf 0 1).st == .draining) = true := by
  decide +kernel
/-- A MOVE of eight elements, tile 1 to tile 2, with an EMIT after it. -/
def moveWord (gate : Nat) : Nat := slotWord 6 (7 <<< 42 ||| gate <<< 34)
def emitWord : Nat := slotWord 7 0xABC
def moveAt (gate : Nat) : State :=
  slotAt ((running []).putElems 1 8 0 [1, 2, 3, 4, 5, 6, 7, 8]) [moveWord gate, emitWord] { src := some (.tile 1 0), dst := some (.tile 2 0) }
theorem test_move : ((moveAt 0).slotReady 0 1 6 && (match (moveAt 0).needEnt 0 1 with
    | some s1 => (match s1.moveCheck 0 (s1.slotOf 0 1) with
      | (_, .ok _) => !(s1.slotOf 0 1).gateAt ((s1.slotOf 0 1).iter {})
      | _ => false)
    | none => false) && ok (exec (.move 0 1) (moveAt 0)) fun t => (t.eng 0).elems 2 8 0 8 == [1, 2, 3, 4, 5, 6, 7, 8] && (t.slotOf 0 1).pc == 2 &&
      (t.slotOf 0 1).out == [{ eng := 0, q := 9, tok := ⟨0xABC, false⟩ }]) = true := by decide +kernel
theorem test_move_parks : (match (moveAt 5).needEnt 0 1 with
    | some s1 => (match s1.moveCheck 0 (s1.slotOf 0 1) with
      | (_, .ok ab) => (s1.slotOf 0 1).gateAt ((s1.slotOf 0 1).iter {}) && ok (exec (.move 0 1) (moveAt 5)) fun t => (t.slotOf 0 1).st == .parked &&
          (t.slotOf 0 1).ent.isNone && (t.slotOf 0 1).pos == some {} && (t.slotOf 0 1).ends == some ab
      | _ => false)
    | none => false) = true := by decide +kernel
/-- Device 5 with a link to device 6 on bundle 2. -/
def linked (s : State) : State :=
  { s with dev := { s.dev with devId := 0x80000005, routes := [(6, { pri := 2, alt := none, vcop := 0, avcop := 0, hops := 1 })] },
           links := [(7, { st := .active, en := true, bundleEff := 2, roleEff := 1, credit0 := 10, credit1 := 10 })] }
/-- A MOVE to window 3 of device 6: a WRITE flit with the elements and a TOKEN flit. -/
def moveFar : State := linked
  (slotAt ((running []).putElems 1 8 0 [1, 2]) [slotWord 6 (7 <<< 42), emitWord] { src := some (.tile 1 0), dst := some (.rwin 6 3 0) })
theorem test_move_rwin : (moveFar.slotReady 0 1 6 && moveFar.mayOpen 0 1 && ok (exec (.move 0 1) moveFar) fun t =>
    (t.link 7).wire.map Flit.type == [tyWrite, tyToken] && (t.slotOf 0 1).pc == 2 && t.mem == [] &&
    ((t.link 7).wire.map fun f => (f.payload.drop 16).take 16) == [leBytes 8 1 ++ leBytes 8 2, leBytes 8 64]) = true := by decide +kernel
def parked (poison : Bool) : State :=
  let s := slotAt { running [] with queues := [(14, [⟨9, poison⟩])] } [moveWord 5, emitWord] { src := some (.tile 1 0), dst := some (.tile 2 0), pos := some {} }
  s.setSlotOf 0 1 { s.slotOf 0 1 with st := .parked }
theorem test_slot_gate_resume : (((parked false).strmStarts 0 && ((parked false).q14For 0 1).isSome && ok (exec (.slotGateResume 0 1) (parked false)) fun t =>
    (t.slotOf 0 1).st == .running && (t.slotOf 0 1).passed && (t.eng 0).queue 14 == []) &&
    ok (exec (.slotGateResume 0 1) (parked true)) fun t => (t.slotOf 0 1).st == .draining) = true := by decide +kernel
def emitAt : State := slotAt (running []) [emitWord, srcTile] {}
theorem test_emit_forms : (emitAt.slotReady 0 1 7 && !emitAt.emitForeign 0 emitWord && ok (exec (.emit 0 1) emitAt) fun t => (t.slotOf 0 1).pc == 1 &&
    (t.slotOf 0 1).out == [{ eng := 0, q := 9, tok := ⟨0xABC, false⟩ }]) = true := by decide +kernel
def emitDue : State := emitAt.setSlotOf 0 1 { emitAt.slotOf 0 1 with out := [{ eng := 0, q := 9, tok := ⟨0xABC, false⟩ }], pc := 1 }
theorem test_emit_enters : (emitDue.strmLive 0 && emitDue.canTake 0 { eng := 0, q := 9, tok := ⟨0xABC, false⟩ } && ok (exec (.emit 0 1) emitDue) fun t =>
    (t.eng 0).queue 9 == [⟨0xABC, false⟩]) = true := by decide +kernel

/-! ## Fills and squeezes -/

/-- KFILL of a switching key into ring tile T4 from argument slot 0 (LHI 0, DNUM 1, one special prime). -/
def kfWord : Nat := slotWord 8 (4 <<< 45)
def kfEngine : Engine := { running [] with
  tiles := [(0, tl 0 8), (1, tl 8 8), (2, tl 16 8), (3, tl 24 8), (4, { tl 32 8 with key := true })] }
def kfAt : State :=
  let s := vm kfEngine (keyHdr ++ (List.range 192).map (fun k => if k % 8 = 0 then BitVec.ofNat 8 (k / 8 % 16) else 0))
  s.setStrm 0 { slots := [(1, { words := ((slotHdr 1 :: [kfWord]).map (BitVec.ofNat 64)), st := .running })] }
theorem test_kfill : (kfAt.slotReady 0 1 8 && kfAt.dripReady 0 && (match kfAt.needEnt 0 1 with
    | some s1 => !s1.kfRefused 0 kfWord && (match s1.argSlot 0 (kfHslot kfWord) with
      | (s2, .ok l) => (match s2.kfHeader 0 kfWord l true with
        | (_, .ok h) => ok (exec (.kfill 0 1) kfAt) fun t => match (t.slotOf 0 1).kf with
            | some k => k.next == 0 && k.hdr == h && k.hdrVa == l.word && !k.failed
            | none => false
        | _ => false)
      | _ => false)
    | none => false)) = true := by decide +kernel
def kfRun : State := match exec (.kfill 0 1) kfAt with | .next t => t | _ => State.reset
theorem test_key_fill_deliver : (((kfRun.slotOf 0 1).kf.map fun k => k.due.isEmpty && decide (k.next < k.total)) == some true && kfRun.strmLive 0 && kfRun.dripReady 0 &&
    (kfRun.eng 0).named 4 && ((kfRun.eng 0).tile 4).kst == .empty && ok (exec (.keyFillDeliver 0 1) kfRun) fun t =>
      ((t.eng 0).tile 4).kst == .full && (match (t.slotOf 0 1).kf with | some k => k.next == 1 && k.due == [⟨0, false⟩] | none => false) &&
      (t.eng 0).elems 4 8 0 8 == ((List.range 8).map fun k => (k * 2 ^ 64) % 113)) = true := by decide +kernel
def kfDue : State := match exec (.keyFillDeliver 0 1) kfRun with | .next t => t | _ => State.reset
theorem test_fill_token_emit : (((kfDue.slotOf 0 1).kf.map KFill.due) == some [⟨0, false⟩] && kfDue.strmLive 0 && (kfDue.eng 0).room 9 &&
    ok (exec (.fillTokenEmit 0 1) kfDue) fun t => (t.eng 0).queue 9 == [⟨0, false⟩] && ((t.slotOf 0 1).kf.map KFill.due) == some []) = true := by decide +kernel
/-- NFILL into T1 under a noise key that is not zero. -/
def nfAt : State :=
  (slotAt (running []) [slotWord 9 (1 <<< 54 ||| 3 <<< 28 ||| 5 <<< 12 - 5 <<< 12 ||| 4 <<< 12 - 4 <<< 12), 77] {}).setDrip 0 { nk := [(0, [1])] }
theorem test_nfill : (nfAt.slotReady 0 1 9 && nfAt.dripReady 0 && (match nfAt.needEnt 0 1 with
    | some s1 => (s1.nfillBad 0 (s1.slotOf 0 1).instr).isNone && ok (exec (.nfill 0 1) nfAt) fun t =>
        (t.slotOf 0 1).out == [{ eng := 0, q := 9, tok := ⟨0, false⟩ }]
    | none => false)) = true := by decide +kernel
/-- SQZ of the two polynomials of one limb, L to C: one limb stays as it is; the descriptor's LAYOUT changes. -/
def sqzAt : State :=
  let s := vm (running []) (descBytes desc1 [1, 2, 3, 4, 5, 6, 7, 8] ++ zeros 64 ++ ((List.range 8).map fun k => leBytes 8 (k + 9)).flatten)
  s.setStrm 0 { slots := [(1, { words := ((slotHdr 1 :: [slotWord 0xA (0 <<< 57 ||| 1 <<< 41)]).map (BitVec.ofNat 64)), st := .running })] }
theorem test_sqz : (sqzAt.slotReady 0 1 0xA && ok (exec (.sqz 0 1) sqzAt) fun t => (t.slotOf 0 1).st == .done && bit (t.num (spDpa 0 0x800) 8) 47 &&
    t.bytes (spDpa 0 0x880) 64 == ([1, 2, 3, 4, 5, 6, 7, 8].map (leBytes 8)).flatten && t.bytes (spDpa 0 0x8C0) 8 == leBytes 8 9) = true := by decide +kernel
/-- SQZ, TRANS of a 2 by 3 matrix of 32-bit elements between buffers of the scratchpad. -/
def transAt : State :=
  let s := vm (running []) (([1, 2, 3, 4, 5, 6].map (leBytes 4)).flatten)
  s.setStrm 0 { slots := [(1, { words := ((slotHdr 1 :: [slotWord 0xA (2 <<< 57 ||| 1 <<< 40 ||| 2 <<< 23 ||| 1 <<< 22)]).map (BitVec.ofNat 64)), st := .running, src := some (.sp 0 0), dst := some (.sp 0 64) })] }
theorem test_sqz_trans : (transAt.slotReady 0 1 0xA && ok (exec (.sqz 0 1) transAt) fun t => (t.slotOf 0 1).st == .done &&
    t.bytes (spDpa 0 64) 24 == ([1, 4, 2, 5, 3, 6].map (leBytes 4)).flatten) = true := by decide +kernel
/-- A slot and a TLD halted by a fault. -/
def haltedSlot : State :=
  let s := moveAt 0
  (s.setSlotOf 0 1 { s.slotOf 0 1 with st := .halted, ent := some 2 }).setXfer 0 2 { kind := .slot, slot := 1, fault := true }
theorem test_ent_resume : (haltedSlot.takes (.stream 0) && ok (exec (.entResume 0 2) haltedSlot) fun t => !(t.xfer 0 2).fault && (t.slotOf 0 1).st == .running) = true := by
  decide +kernel
theorem test_ent_abort : (ok (exec (.entAbort 0 2) haltedSlot) fun t => (t.slotOf 0 1).st == .draining && (t.slotOf 0 1).ent.isNone) = true := by decide +kernel
def haltedTld : State := tldDone.setXfer 0 0 { tldDone.xfer 0 0 with fault := true, last := false }
theorem test_ent_abort_tld : ((haltedTld.xfer 0 0).kind == .tld && ok (exec (.entAbort 0 0) haltedTld) fun t => (t.xfer 0 0).last && !(t.xfer 0 0).fault &&
    (t.eng 0).window.all fun u => u.fault == some .translationFault && u.poison) = true := by decide +kernel
theorem test_ent_resume_tld : ((haltedTld.holder 0 0).i.opc == 0x09 && gives (exec (.entResume 0 0) haltedTld)
    ((haltedTld.setXfer 0 0 { haltedTld.xfer 0 0 with fault := false }).tldRun 0 0 (haltedTld.xfer 0 0).pos.o)) = true := by decide +kernel

/-! ## Peer links and transfers -/

def lk (x : Link) : State := State.reset.setLink 7 x
theorem test_link_enable : ((lk {}).takes (.link 7) && ok (exec (.linkEnable 7 0x30002) (lk {})) fun t => (t.link 7).st == .training && (t.link 7).en &&
    (t.link 7).minw == 2 && (t.link 7).bundle == 3) = true := by decide +kernel
theorem test_link_disable : (ok (exec (.linkDisable 7 0x80030004) (lk { st := .active, en := true })) fun t => (t.link 7).st == .disabled && !(t.link 7).en &&
    (t.link 7).downCause == 1) = true := by decide +kernel
theorem test_link_retrain : (ok (exec (.linkRetrain 7) (lk { st := .active, en := true, roleEff := 1, minw := 1 })) fun t => (t.link 7).st == .training &&
    (t.link 7).retrain) = true := by decide +kernel
theorem test_link_train_complete : (widthOf 0xC == 2 && ok (exec (.linkTrainComplete 7 true 0xC) (lk { st := .training, minw := 2 })) fun t =>
    (t.link 7).st == .ident && (t.link 7).width == 2 && (t.link 7).laneLocked == 0xC && (t.link 7).laneFailed == 3 &&
    (t.link 7).lanes == 0xC && (t.link 7).wire.map Flit.type == [tyIdent]) = true := by decide +kernel
theorem test_link_train_fails : ((ok (exec (.linkTrainComplete 7 true 0x3) (lk { st := .training, minw := 4 })) fun t => (t.link 7).st == .down && (t.link 7).downCause == 5) &&
    (ok (exec (.linkTrainComplete 7 false 0xF) (lk { st := .training })) fun t => (t.link 7).st == .down && (t.link 7).downCause == 2) &&
    ok (exec (.linkTrainComplete 7 true 0) (lk { st := .training })) fun t => (t.link 7).st == .down && (t.link 7).downCause == 3) = true := by decide +kernel
theorem test_lane_lock_loss : ((ok (exec (.laneLockLoss 7 2) (lk { st := .found, laneLocked := 0xF, lanes := 0xF })) fun t => (t.link 7).st == .training &&
    (t.link 7).laneLocked == 0xB) && ok (exec (.laneLockLoss 7 2) (lk { st := .found, laneLocked := 0xF, lanes := 3 })) fun t => (t.link 7).st == .found &&
    (t.link 7).laneLocked == 0xB) = true := by decide +kernel
theorem test_replay_limit : ((ok (exec (.replayLimit 7) (lk { st := .active, lastReplay := some (3, 8) })) fun t => (t.link 7).st == .training && (t.link 7).downCause == 4) &&
    gives (exec (.replayLimit 7) (lk { st := .active, lastReplay := some (3, 7) })) (lk { st := .active, lastReplay := some (3, 7) })) = true := by decide +kernel
theorem test_link_down_retry : (ok (exec (.linkDownRetry 7) (lk { st := .down, en := true })) fun t => (t.link 7).st == .training) = true := by decide +kernel
theorem wit_ident_nonce : (((lk { st := .ident }).link 7).st == .ident && Instr.wf (.ident 7 (.nonce (zeros 32)))) = true := by decide +kernel
theorem test_ident_refused : (!identOk [] (zeros 8) && ok (exec (.ident 7 (.block (zeros 8) 6)) (lk { st := .ident })) fun t => (t.link 7).st == .untrusted &&
    (t.link 7).downCause == 6) = true := by decide +kernel
theorem test_link_role_write : ((lk { st := .found, en := true }).takes (.link 7) && !(lk { st := .found, en := true }).bundleClash 7 5 &&
    ok (exec (.linkRoleWrite 7 0x80050101) (lk { st := .found, en := true })) fun t => (t.link 7).st == .active && (t.link 7).roleEff == 1 &&
      (t.link 7).bundleEff == 5) = true := by decide +kernel
def routeAt : State := linked State.reset
theorem test_route_set_complete : (let s := { routeAt with dev := { routeAt.dev with routeNew := some [] } }
  ok (exec .routeSetComplete s) fun t => t.dev.routes == [] && t.dev.routeNew.isNone) = true := by decide +kernel
theorem test_route_set_without_id : (ok (exec (.routeSet 1) State.reset) fun t => t.dev.routeNew.isNone && t.dev.routeRefused) = true := by decide +kernel
theorem test_dev_id_write : (gives (exec (.devIdWrite 0xFFFFF123) State.reset) { State.reset with dev := { State.reset.dev with devId := 0x80000123 } } &&
    ok (exec (.devIdWrite 0x80000001) routeAt) fun t => t.dev.devId == 0x80000005) = true := by decide +kernel
/-- Flits of LSEQ 3 and 4 in the replay buffer. -/
def fl (l : BitVec 12) : Flit := { type := tyWrite, hdr := { vc := false, ttl := 8, dest := 6, src := 5, bsn := 0, lseq := l }, payload := [] }
def heardAt : State := lk { st := .active, replay := [fl 3, fl 4], txLseq := 5, rxLseq := 9 }
theorem test_ack : (ok (exec (.ack 7 3) heardAt) fun t => (t.link 7).replay == [fl 4]) = true := by decide +kernel
theorem test_nak : (ok (exec (.nak 7 4) heardAt) fun t => (t.link 7).wire == [fl 4] && (t.link 7).replay == [fl 3, fl 4] && (t.link 7).replays == 1) = true := by decide +kernel
theorem test_credit : (ok (exec (.credit 7 true 3) heardAt) fun t => (t.link 7).credit true == 3 && (t.link 7).credit false == 0) = true := by decide +kernel
def flitWaits : State := (lk { st := .active, roleEff := 1, txLseq := 5 }).setBundle 0 { tx := [(false, fl 0)], txBsn := 9 }
theorem test_credit_sends : (flitWaits.bundleLinks 0 (fl 0) == [7] && ok (exec (.credit 7 false 2) flitWaits) fun t => (t.bundle 0).tx == [] && (t.bundle 0).txBsn == 10 &&
    (t.link 7).txLseq == 6 && (t.link 7).credit false == 1 && (t.link 7).wire == [{ fl 5 with hdr := { (fl 5).hdr with bsn := 9 } }]) = true := by decide +kernel
theorem test_idle : gives (exec (.idle 7) heardAt) (heardAt.event (.link 7) 2 1) = true := by decide +kernel
theorem test_mgmt : gives (exec (.mgmt 7 [1, 2]) heardAt) (heardAt.event (.link 7) 2 1) = true := by decide +kernel
theorem test_flit_crc_fail : (ok (exec (.flitCrcFail 7) heardAt) fun t => (t.link 7).wire == [localFlit tyNak false 9 []] && (t.link 7).rxLseq == 9) = true := by decide +kernel

/-- Device 5 in turn: window 3 for device 6 over the first virtual page of tenant 0. -/
def turn : State :=
  let s := vm (running []) []
  linked { s with dev := { s.dev with wins := [(3, some { base := 0x100, pages := 1, tenant := 0, srcTenant := 9, srcs := [(6, 6)] })], dedupBase := 0x300000 } }
def hdr6 : FlitHdr := { vc := false, ttl := 8, dest := 5, src := 6, bsn := 0, lseq := 0 }
def inTurn (s : State) (n : Nat) (h : FlitHdr) : Bool :=
  (s.link n).st == .active && h.lseq == (s.link n).rxLseq && h.bsn == (s.bundle (s.link n).bundleEff).rxBsn && (s.bundle (s.link n).bundleEff).held == [] &&
    s.dev.ownId == some h.dest.val
theorem test_write : (inTurn turn 7 hdr6 && (turn.delivered 11).isNone && ((turn.winFor 3 6).map Win.srcTenant) == some 9 &&
    ok (exec (.write 7 hdr6 11 3 9 0x20 [1, 2, 3]) turn) fun t => t.bytes 0x100120 3 == [1, 2, 3] && t.dev.refused == [] && (t.link 7).rxLseq == 1) = true := by
  decide +kernel
theorem test_token_waits : (let s := turn.setEng 0 { turn.eng 0 with st := .saved }
  s.tokWaits 0 12 && ok (exec (.token 7 hdr6 11 3 0 false false 5 64) s) fun t => t.dev.waitToks.length == 1 && (t.eng 0).queue 12 == []) = true := by decide +kernel
def waiting : State := { turn with dev := { turn.dev with waitToks := [{ xid := 11, dest := 6, eng := 0, q := 12, tok := ⟨5, false⟩ }] } }
/-- An earlier token waits for the same queue: the later one does not pass it. -/
theorem test_wait_timer_in_order : (let v : WaitTok := { xid := 12, dest := 6, eng := 0, q := 12, tok := ⟨6, false⟩ }
  let s := { waiting with dev := { waiting.dev with waitToks := waiting.dev.waitToks ++ [v] } }
  v.before s.dev.waitToks && gives (exec (.waitTimer 12) s) s) = true := by decide +kernel
theorem wit_wait_timer : ((waiting.dev.waitToks.all fun v => !v.before waiting.dev.waitToks) && (waiting.dev.waitToks.find? fun v => v.xid == 11).isSome && !waiting.tokWaits 0 12 && decide (waiting.dev.dedup.length < 4096)) = true := by decide +kernel
theorem wit_token : (inTurn turn 7 hdr6 && (turn.winFor 3 6).isSome && !turn.dev.refused.contains 11 && (turn.eng 0).tenant == 0 && !turn.tokWaits 0 12 &&
    turn.dev.dedup == [] && turn.dev.waitToks == []) = true := by decide +kernel
def sending : State := { turn with dev := { turn.dev with transfers := [{ xid := 21, eng := 0, slot := 1, dest := 6, flits := [endFlit tyToken 0 6 0 []], tries := 1, own := [], done := false }] } }
theorem test_compl : ((sending.awaiting 21).isSome && ok (exec (.compl 7 hdr6 21 0) sending) fun t => (t.awaiting 21).isNone && t.dev.transfers == []) = true := by decide +kernel
theorem test_wait : (ok (exec (.wait 7 hdr6 21) sending) fun t => t.dev.transfers == sending.dev.transfers && (t.link 7).rxLseq == (sending.link 7).rxLseq + 1) = true := by decide +kernel
def dedupAt : State := { turn with dev := { turn.dev with dedup := [{ xid := BitVec.ofNat 64 (6 <<< 52 ||| 4 <<< 39), status := .ok, slot := none, tok := none }] } }
theorem wit_release : (inTurn dedupAt 7 hdr6 && dedupAt.dev.dedup.any fun d => fld d.xid.toNat 52 12 == 6 && fld d.xid.toNat 39 13 == 4) = true := by decide +kernel
theorem wit_e2e_timeout_ends : ((sending.awaiting 21).map fun tr => decide (({ sending.dev with e2eTries := 1 } : Dev).e2eTries ≤ tr.tries)) = some true := by decide +kernel
theorem test_e2e_timeout : (sending.reachable 6 && ok (exec (.e2eTimeout 21) sending) fun t => (t.dev.transfers.map Transfer.tries) == [2] &&
    (t.link 7).wire.map Flit.type == [tyToken]) = true := by decide +kernel

/-! ## Host rings and the journal -/

/-- Port 0, function 0, ring 2 and completion ring 1 of 16 entries; both journal copies lost, so that records stand in State alone. -/
def host (q : Sq) (c : Cq) (m : List Host.Cell) : State :=
  let s := { State.reset with mem := m, journal := { en := true, lostA := true, lostB := true }, geode := { ctx := [(0, { st := .live, ptRoot := 0x1000, rseed := 6 })] } }
  let s := s.setPort 0 { up := true }
  s.setFn 0 0 { sq := [(2, q)], cq := [(1, c)], wall := 0x77 }
def sqRun : Sq := { en := true, size := 16, head := 4, tail := 6, next := 9, ack := 0x500 }
def cqRun : Cq := { en := true, size := 16, tail := 15, head := 3, base := 0x8000, iv := 5 }
def hostAt : State := host sqRun cqRun pageTable
/-- An entry of tenant 0 with SEQ 9 for completion ring 1, its launch block at 0x10000 and its arguments at 0x20000. -/
def entryOf (opc seq cq : Nat) (more : Nat := 0) : BitVec 512 :=
  BitVec.ofNat 512 (opc ||| 1 <<< 16 ||| cq <<< 24 ||| seq <<< 64 ||| (if opc = 1 then 0x10000 <<< 128 ||| 0x20000 <<< 192 else 0) ||| more)
theorem test_sq_doorbell : (ok (exec (.sqDoorbell 0 0 2 15) hostAt) fun t => t.sqOf 0 0 2 == { sqRun with tail := 15 }) = true := by decide +kernel
theorem test_sq_doorbell_refused : (ok (exec (.sqDoorbell 0 0 2 16) hostAt) fun t => t.sqOf 0 0 2 == sqRun && (t.hdr (.pciep 0 0)).errCnt == 1) = true := by decide +kernel
theorem test_cq_doorbell : (ok (exec (.cqDoorbell 0 0 1 7) hostAt) fun t => t.cqOf 0 0 1 == { cqRun with head := 7 }) = true := by decide +kernel
theorem test_sq_en_write : (let s := host { sqRun with en := false, err := true } cqRun []
  s.takes (.pciep 0 0) && (ok (exec (.sqEnWrite 0 0 2 0x80000000) s) fun t => t.sqOf 0 0 2 == { sqRun with head := 0, tail := 0 }) &&
    ok (exec (.sqEnWrite 0 0 2 0) hostAt) fun t => !(t.sqOf 0 0 2).en && (t.sqOf 0 0 2).next == 9) = true := by decide +kernel
theorem test_cq_en_write : (let s := host sqRun { cqRun with en := false } []
  (ok (exec (.cqEnWrite 0 0 1 0x80000009) s) fun t => (t.cqOf 0 0 1).en && (t.cqOf 0 0 1).tail == 0 && (t.cqOf 0 0 1).phase && (t.cqOf 0 0 1).iv == 9) &&
    ok (exec (.cqEnWrite 0 0 1 0) hostAt) fun t => !(t.cqOf 0 0 1).en) = true := by decide +kernel
theorem test_run : (hostAt.canFetch 0 0 2 && hostAt.nextSlot == some 0 && ok (exec (.run 0 0 2 (entryOf 1 9 1)) hostAt) fun t =>
    (t.slotJ 0).entry == entryOf 1 9 1 && (t.slotJ 0).ring == 2 && t.pendOf 0 == some { refusal := .ok, argsDpa := 0x120000 } && t.sqOf 0 0 2 == sqRun) = true := by
  decide +kernel
theorem test_run_out_of_turn : ((ok (exec (.run 0 0 2 (entryOf 1 8 1)) hostAt) fun t => t.sqOf 0 0 2 == { sqRun with head := 5 }) &&
    (ok (exec (.run 0 0 2 (entryOf 1 10 1)) hostAt) fun t => t.sqOf 0 0 2 == { sqRun with err := true }) &&
    ok (exec (.run 0 0 2 (entryOf 1 9 0)) hostAt) fun t => t.sqOf 0 0 2 == { sqRun with err := true }) = true := by decide +kernel
theorem test_mark : (ok (exec (.mark 0 0 2 (entryOf 2 9 1)) hostAt) fun t => (t.slotJ 0).entry == entryOf 2 9 1 && t.pendOf 0 == some { refusal := .ok, argsDpa := 0 }) = true := by
  decide +kernel
def pendAt : State := match exec (.run 0 0 2 (entryOf 1 9 1)) hostAt with | .next t => t | _ => State.reset
theorem test_command_accept : ((pendAt.pendOf 0).isSome && ok (exec (.commandAccept 0) pendAt) fun t => (t.pendOf 0).isNone && (t.slotJ 0).st == .accepted &&
    (t.slotJ 0).status == .ok && (t.slotJ 0).seed == 6 && (t.slotJ 0).home == 0 && (t.sqOf 0 0 2).next == 10 && (t.sqOf 0 0 2).head == 5 &&
    memRun t.hostOut 0 0x500 16 == leBytes 8 9 ++ leBytes 4 5 ++ zeros 4) = true := by decide +kernel
theorem test_command_accept_refusal : (match exec (.mark 0 0 2 (entryOf 2 9 1 (1 <<< 320))) hostAt with
    | .next s => ok (exec (.commandAccept 0) s) fun t => (t.slotJ 0).st == .committed && (t.slotJ 0).status == .badCommand && (t.sqOf 0 0 2).next == 10
    | _ => false) = true := by decide +kernel
def accepted : State := match exec (.commandAccept 0) pendAt with | .next t => t | _ => State.reset
theorem test_acceptance_notice : (let s := { accepted with cycles := [(0, 5)] }
  !latched (s.gal 0).tAccept 0 && ok (exec (.acceptanceNotice 0) s) fun t => (t.slotJ 0).tAccept == s.engCycles 0 && tget (t.gal 0).tAccept 0 0 == s.engCycles 0) = true := by
  decide +kernel
/-- The launch block of one engine at 0x10000: its program at 0xFFC0. -/
def launch : State :=
  let b := leBytes 2 1 ++ leBytes 1 1 ++ leBytes 1 0 ++ leBytes 2 0 ++ zeros 10 ++ leBytes 8 0xFFC0 ++ zeros 104
  { accepted with mem := memPut accepted.mem 0 0x110000 b }
theorem test_command_dispatch : (!launch.workHeld 0 && launch.depMet (launch.slotJ 0) && (match launch.launchBlock (launch.slotJ 0) with
    | (s1, .ok (emap, imgs)) => (s1.runGallery 0 imgs.length) == some 0 && ok (exec (.commandDispatch 0) launch) fun t => (t.slotJ 0).disp == 1 &&
        tget t.journal.runs 0 none == some { gallery := 0, engines := [0], emap := emap } && (t.eng 0).progBase == 0xFFC0 && (t.eng 0).argBase == 0x20000 &&
        (t.eng 0).tenant == 0 && (t.eng 0).rndSeed == 6 && (t.eng 0).slot == some 0
    | _ => false)) = true := by decide +kernel
theorem test_command_dispatch_fails : (ok (exec (.commandDispatch 0) accepted) fun t =>
    tget t.journal.runs 0 none == some { gallery := 0, engines := [], emap := false, fail := some .badCommand }) = true := by decide +kernel
def dispatched : State := match exec (.commandDispatch 0) launch with | .next t => t | _ => State.reset
theorem test_start_notice : (ok (exec (.startNotice 0) dispatched) fun t => tget (t.gal 0).tStart 0 9 == dispatched.engCycles 0) = true := by decide +kernel
/-- The run has ended on engine 0 with RESULT 5; acceptance at 10, start at 20. -/
def ended : State :=
  let s := dispatched.setEng 0 { dispatched.eng 0 with ended := some .ok, result := 5 }
  (s.setGal 0 { s.gal 0 with tAccept := [(0, 10)], tStart := [(0, 20)] }).setSlotJ 0 { s.slotJ 0 with tAccept := 10 }
theorem test_commit_notice : (ended.mayCommit 0 && ok (exec (.commitNotice 0) ended) fun t => tget (t.gal 0).tCommit 0 9 == ended.engCycles 0) = true := by decide +kernel
def committing : State := ended.setGal 0 { ended.gal 0 with tCommit := [(0, 50)] }
theorem test_command_commit : (ok (exec (.commandCommit 0) committing) fun t => (t.slotJ 0).st == .committed && (t.slotJ 0).status == .ok &&
    (t.slotJ 0).result == 5 && (t.slotJ 0).tStart == 20 && (t.slotJ 0).tCommit == 50 && !(t.slotJ 0).late && (t.eng 0).slot.isNone &&
    tget t.journal.runs 0 none == none) = true := by decide +kernel
def committed : State := match exec (.commandCommit 0) committing with | .next t => t | _ => State.reset
theorem test_completion_post : ((committed.servedAt (committed.slotJ 0)) == (0, 0) && !committed.workHeld 0 && (committed.cqOf 0 0 1).canPost &&
    (ok (exec (.completionPost 0 true) committed) fun t => (t.slotJ 0).st == .posted && (t.cqOf 0 0 1).tail == 0 && !(t.cqOf 0 0 1).phase &&
      (t.sqOf 0 0 2).nextPost == some 10 &&
      memRun t.hostOut 0 (0x8000 + 32 * 15) 32 == leBytes 8 9 ++ leBytes 8 0x77 ++ leBytes 4 10 ++ leBytes 4 30 ++ leBytes 6 5 ++ [0, 1]) &&
    ok (exec (.completionPost 0 false) committed) fun t => (t.slotJ 0).st == .posting && (t.cqOf 0 0 1).err) = true := by decide +kernel
theorem test_journal_enable : (let s := { State.reset with journal := { baseB := 0x4000000000 } }
  s.takes .journal && s.journal.basesOk && (ok (exec (.journalEnable 0 1) s) fun t => t.journal.en) &&
    gives (exec (.journalEnable 0 0) s) s) = true := by decide +kernel
/-- Ring 2 of port 0 function 0 and ring 2 of port 1 function 4 are a pair; port 0 serves. -/
def paired : State :=
  let s := host { sqRun with pair := true, pfn := 4, active := true } cqRun []
  s.setFn 1 4 { sq := [(2, { sqRun with pair := true, pfn := 0, next := 1 })] }
theorem test_journal_takeover : (paired.takes .journal && paired.pairedRings 0 != [] && !paired.acceptsOn 0 && ok (exec (.journalTakeover 1 0x80000000) paired) fun t =>
    !t.journal.foBusy && t.journal.foPort == 1 && t.msix == [(1, 0, 0)] && (t.sqOf 1 4 2).active && (t.sqOf 1 4 2).next == 9 && !(t.sqOf 0 0 2).active) = true := by
  decide +kernel
theorem test_failover_timeout : (let s := paired.setPort 0 { up := false, downMs := 5, downTimer := true }
  ok (exec (.failoverTimeout 0) s) fun t => !(t.port 0).downTimer && t.journal.foPort == 1 && t.msix == [(1, 0, 0)]) = true := by decide +kernel
theorem test_pcie_link_down : (ok (exec (.pcieLinkDown 0) (State.reset.setPort 0 { up := true, downMs := 3 })) fun t => !(t.port 0).up && (t.port 0).downTimer) = true := by
  decide +kernel
theorem test_journal_query : (let s := { committed with journal := { committed.journal with qseq := 9 } }
  s.takes .journal && !s.journal.qbusy && (ok (exec (.journalQuery 0x80000002) s) fun t => t.journal.qres == BitVec.ofNat 64 (3 <<< 62 ||| 2 <<< 56 ||| 5)) &&
    ok (exec (.journalQuery 0x80000003) s) fun t => t.journal.qres == 0x8000000000000000) = true := by decide +kernel
def frozenAt : State := { committed with journal := { committed.journal with frozen := [5, 8192 + 2], slots := (5, { st := .accepted }) :: committed.journal.slots } }
theorem test_resolve_discard : (frozenAt.takes (.mgmt .W) && (ok (exec (.resolveDiscard 0 false 5) frozenAt) fun t => t.journal.frozen == [8192 + 2] &&
    t.journal.resolved == [5] && (t.slotJ 5).st == .committed && (t.slotJ 5).status == .aborted) &&
    ok (exec (.resolveDiscard 0 true 2) frozenAt) fun t => t.journal.frozen == [5] && !(t.sqOf 0 0 2).en) = true := by decide +kernel
theorem test_resolve_keep_a : (ok (exec (.resolveKeepA 0 true 2) frozenAt) fun t => t.journal.frozen == [5] && t.journal.resolved == [8192 + 2]) = true := by decide +kernel
theorem test_resolve_keep_b : (ok (exec (.resolveKeepB 0 true 2) frozenAt) fun t => t.journal.frozen == [5] && t.journal.resolved == [8192 + 2]) = true := by decide +kernel
theorem test_flr : (ok (exec (.flr 0 0) hostAt) fun t => t.sqOf 0 0 2 == { next := 9 } && !(t.cqOf 0 0 1).en && (t.cqOf 0 0 1).tail == 0 &&
    (t.cqOf 0 0 1).flr == some (0x8000, 16, 15, true)) = true := by decide +kernel
theorem test_deadline_expire : (let s := { ended with cycles := [(0, 5)] }
  let s := s.setSlotJ 0 { s.slotJ 0 with entry := entryOf 1 9 1 (1 <<< 256) }
  decide ((s.slotJ 0).budget < spanOfCounts 10 (s.engCycles 0)) && (s.slotJ 0).budget != 0 && latched (s.gal 0).tAccept 0 &&
    ok (exec (.deadlineExpire 0) s) fun t => (t.slotJ 0).late && (t.slotJ 0).st == .accepted) = true := by decide +kernel
def abortVal (seq : Nat) : Word64 := BitVec.ofNat 64 (1 <<< 63 ||| 2 <<< 52 ||| seq)
theorem test_cmd_abort : (accepted.takes (.mgmt .W) && accepted.slotOfSeq 0 0 2 9 == some 0 && !accepted.slotFrozen 0 && (ok (exec (.cmdAbort .W (abortVal 9)) accepted) fun t =>
    (t.mgmt .W).abortSts == 1 && (t.slotJ 0).st == .committed && (t.slotJ 0).status == .aborted && (t.slotJ 0).result == 0) &&
    (ok (exec (.cmdAbort .W (abortVal 9)) committed) fun t => (t.mgmt .W).abortSts == 2 && t.journal == committed.journal)) = true := by decide +kernel
theorem test_cmd_abort_unknown : (let s := host { sqRun with nextPost := none } cqRun []
  s.slotOfSeq 0 0 2 8 == none && ok (exec (.cmdAbort .W (abortVal 8)) s) fun t => (t.mgmt .W).abortSts == 4 && t.journal == s.journal) = true := by decide +kernel
def restarting : State := { hostAt with journal := { hostAt.journal with restart := true } }
theorem wit_journal_restart_scan : (restarting.journal.restart && restarting.outOfReset) = true := by decide +kernel

/-! ## The vector engine -/

/-- An instruction word of R307. -/
def vw (opc d a b c imm : Nat) (w32 : Nat := 0) (bs : Nat := 0) (ms : Nat := 0) (mf : Nat := 0) (rnd : Nat := 0) : Nat :=
  opc <<< 56 ||| d <<< 51 ||| a <<< 46 ||| b <<< 41 ||| c <<< 36 ||| w32 <<< 35 ||| bs <<< 34 ||| ms <<< 32 ||| mf <<< 31 ||| rnd <<< 28 ||| imm

def vh : Handler := { hdr := 0, queue := 0, tenant := 0, prog := 0x1000, pc := 0 }

/-- Vector engine 0 at one instruction: VL 2, q 97, S1, S2, S4 naming operands of two elements, S3 the result, mask MK1 = 1. -/
def vecAt (w : Nat) : State :=
  { State.reset with
    vecs := [(0, { s := [(1, 0x100), (2, 0x140), (3, 0x200), (4, 0x180), (5, 7)], vl := 2, q := 97, mks := [(1, 1), (2, 2)], run := some vh })],
    mem := memPut (memPut (memPut (memPut [] 0 (hpDpa 0 0x1000) (leBytes 8 w)) 0 (hpDpa 0 0x100) (leBytes 8 5 ++ leBytes 8 96)) 0
      (hpDpa 0 0x140) (leBytes 8 10 ++ leBytes 8 2)) 0 (hpDpa 0 0x180) (leBytes 8 90 ++ leBytes 8 3) }

def vecAtB (w opc : Nat) : Bool := vecHolds (vecAt w) w opc
  where vecHolds (s : State) (w opc : Nat) : Bool :=
    decide ((s.vec 0).run = some vh) && decide ((s.hdr (.vec 0)).pstate = .on) &&
      (match s.vecFetch 0 vh with | .ok v => v == w | .error _ => false) && fld w 56 8 == opc && !vecBad w

/-- The instruction's premise holds and its next state meets a check. -/
def vgo (i : Instr) (opc w : Nat) (f : State → Bool) : Bool :=
  vecAtB w opc && ok (exec i (vecAt w)) fun t => f t && (t.vec 0).vseq == 1
/-- The result at S3: two elements of eight bytes. -/
def vres (t : State) : List Nat := eltsOf 8 2 (t.bytes (hpDpa 0 0x200) 16)

theorem test_vnop : vgo (.vnop 0) 1 (vw 1 0 0 0 0 0) (fun t => t.vec 0 == ((vecAt (vw 1 0 0 0 0 0)).vec 0).next vh 1) = true := by
  decide +kernel
theorem test_vret : vgo (.vret 0) 2 (vw 2 0 0 0 0 0) (fun t => (t.vec 0).run.isNone && (t.vec 0).handled == 1 && !(t.vec 0).lastFaulted) = true := by
  decide +kernel
theorem test_vsi : (vgo (.vsi 0) 8 (vw 8 6 0 0 0 0xFFFFFFF) (fun t => (t.vec 0).sreg 6 == 2 ^ 64 - 1) &&
    vgo (.vsi 0) 8 (vw 8 0 0 0 0 9) fun t => (t.vec 0).sreg 0 == 0) = true := by decide +kernel
theorem test_vsadd : (vgo (.vsadd 0) 9 (vw 9 6 5 0 0 0xFFFFFFE) (fun t => (t.vec 0).sreg 6 == 5) &&
    vgo (.vsadd 0) 9 (vw 9 6 5 1 0 0 0 1) fun t => (t.vec 0).sreg 6 == 0x107) = true := by decide +kernel
theorem test_vbnz : (vgo (.vbnz 0) 10 (vw 10 5 0 0 0 33) (fun t => (t.vec 0).sreg 5 == 6 && (t.vec 0).run == some { vh with pc := 33 }) &&
    vgo (.vbnz 0) 10 (vw 10 6 0 0 0 33) fun t => (t.vec 0).sreg 6 == 2 ^ 64 - 1 && (t.vec 0).run == some { vh with pc := 33 }) = true := by
  decide +kernel
theorem test_vsetvl : (vgo (.vsetvl 0) 11 (vw 11 6 5 0 0 0) (fun t => (t.vec 0).vl == 7 && (t.vec 0).sreg 6 == 7)) = true := by decide +kernel
theorem test_vsetq : (vgo (.vsetq 0) 12 (vw 12 0 5 0 0 0) fun t => (t.vec 0).q == 7) = true := by decide +kernel
theorem test_vadd : (vecQOk (vw 0x10 3 1 2 0 0) 97 && vgo (.vadd 0) 0x10 (vw 0x10 3 1 2 0 0) (fun t => vres t == [15, 1]) &&
    vgo (.vadd 0) 0x10 (vw 0x10 3 1 2 0 0 0 0 1) fun t => vres t == [15, 0]) = true := by decide +kernel
theorem test_vsub : (vgo (.vsub 0) 0x11 (vw 0x11 3 1 2 0 0) (fun t => vres t == [92, 94]) &&
    vgo (.vsub 0) 0x11 (vw 0x11 3 1 5 0 0 0 1) fun t => vres t == [95, 89]) = true := by decide +kernel
theorem test_vmul : (vgo (.vmul 0) 0x12 (vw 0x12 3 1 2 0 0) (fun t => vres t == [50, 95]) &&
    vgo (.vmul 0) 0x12 (vw 0x12 3 1 2 0 0 0 0 0 1) fun t => (vres t).map (fun x => x * 2 ^ 64 % 97) == [50, 95]) = true := by decide +kernel
theorem test_vmac : (vgo (.vmac 0) 0x13 (vw 0x13 3 1 2 4 0) (fun t => vres t == [43, 1])) = true := by decide +kernel
theorem test_vneg : (vgo (.vneg 0) 0x14 (vw 0x14 3 1 0 0 0) (fun t => vres t == [92, 1])) = true := by decide +kernel
theorem test_vcmp : (vgo (.vcmp 0) 0x18 (vw 0x18 0 1 2 0 (2 ||| 2 <<< 2)) (fun t => (t.vec 0).mk_ 2 == 1) &&
    vgo (.vcmp 0) 0x18 (vw 0x18 0 1 2 0 (3 ||| 3 <<< 2)) fun t => (t.vec 0).mk_ 3 == 2) = true := by decide +kernel
theorem test_vsel : (vgo (.vsel 0) 0x19 (vw 0x19 3 1 2 0 1) (fun t => vres t == [5, 2])) = true := by decide +kernel
theorem wit_vmkld : (vecAtB (vw 0x1A 0 1 0 0 1) 0x1A && match (vecAt (vw 0x1A 0 1 0 0 1)).vecSp 0 0 0x100 1 1 with
    | .ok a => a == hpDpa 0 0x100 | .error _ => false) = true := by decide +kernel
theorem test_vmkst : (vgo (.vmkst 0) 0x1B (vw 0x1B 3 0 0 0 2) fun t => t.bytes (hpDpa 0 0x200) 1 == [2]) = true := by decide +kernel
/-- Digits of 5 and of 96 = −1 modulo 97 at two levels of three bits: round(64·5/97) = 3 and round(64·96/97) = 63. -/
theorem test_vdig : (let w := vw 0x20 3 1 0 0 (2 <<< 24 ||| 3 <<< 19)
  !(vecAt w).vecSeedBad 0 vh w 0 && vgo (.vdig 0) 0x20 w fun t => eltsOf 8 4 (t.bytes (hpDpa 0 0x200) 32) == [0, 0, 3, 96]) = true := by
  decide +kernel
theorem test_vrsh : (vgo (.vrsh 0) 0x21 (vw 0x21 3 1 0 0 1) (fun t => vres t == [3, 48]) &&
    vgo (.vrsh 0) 0x21 (vw 0x21 3 1 0 0 (3 ||| 1 <<< 6) 0 0 0 0 1) fun t => vres t == [0, 12]) = true := by decide +kernel
theorem test_vscan : (vgo (.vscan 0) 0x22 (vw 0x22 3 1 0 0 0) (fun t => vres t == [5, 4]) &&
    (vgo (.vscan 0) 0x22 (vw 0x22 3 1 0 0 1) fun t => vres t == [0, 5]) &&
    vgo (.vscan 0) 0x22 (vw 0x22 3 1 0 0 (2 <<< 1 ||| 1 <<< 3)) fun t => vres t == [5, 96]) = true := by decide +kernel
/-- One batch of two rows, each the scalar S5 = 7: 7·(10 + 2) mod 97. -/
theorem test_vmv : (vgo (.vmv 0) 0x28 (vw 0x28 3 2 5 6 (1 <<< 14 ||| 1 <<< 10) 0 1) fun t => vres t == [84, 84]) = true := by decide +kernel
theorem test_vld : (let w := vw 0x30 3 1 0 0 0
  (match (vecAt w).vecRead 0 0 0 8 0x100 16 with | (s1, b, f) => s1 == vecAt w && b.length == 16 && f.isNone) &&
    vgo (.vld 0) 0x30 w fun t => vres t == [5, 96]) = true := by decide +kernel
theorem test_vst : (vgo (.vst 0) 0x31 (vw 0x31 3 1 0 0 0 0 0 2) fun t => vres t == [0, 96]) = true := by decide +kernel
/-- VST to virtual address 0x100 of tenant 0's table. -/
def vstAt : State :=
  let s := vecAt (vw 0x31 6 1 0 0 0)
  { s with geode := { s.geode with ctx := [(0, { st := .live, ptRoot := 0x1000 })] },
           mem := (pageTable.foldl (fun m c => memPut m 0 c.1 [c.2]) s.mem),
           vecs := [(0, (s.vec 0).setS 6 (2 ^ 63 + 0x100))] }
theorem test_vst_virtual : (vecAtB.vecHolds vstAt (vw 0x31 6 1 0 0 0) 0x31 && (match vecVa (2 ^ 63 + 0x100) 8 with | .ok a => a == 0x100 | .error _ => false) &&
    ((vstAt.vecStore 0 0 0 8 none 0x100 [5, 96]).2.isNone) &&
    ok (exec (.vst 0) vstAt) fun t => t.bytes 0x100100 16 == leBytes 8 5 ++ leBytes 8 96 && (t.vec 0).vseq == 1) = true := by decide +kernel
/-- A request of engine 1 waits for vector engine 0; entry 3 of its table names the program. -/
def vdisp : State :=
  let m : QMsg := { hdr := deliveredHdr 0 3 1 false, payload := leBytes 8 77 ++ leBytes 8 78, ringOff := none }
  { State.reset with
    msgs := [(epOfVec 0, { (State.reset.msg (epOfVec 0)) with queues := [(1, [m])] })],
    mem := memPut [] 0 (hpDpa 0 24) (leBytes 8 (2 ^ 63 + 0x1000)) }
theorem test_vec_dispatch : ((vdisp.vec 0).run.isNone && vdisp.blkOn (.vec 0) && !(vdisp.hdr (.vec 0)).halt &&
    vecEntryOk (vdisp.num (hpDpa 0 24) 8) (vdisp.epTenant 1) && ok (exec (.vecDispatch 0) vdisp) fun t =>
      ((t.vec 0).run.any fun h => h.prog == 0x1000 && h.queue == 1 && mSrc h.hdr.toNat == 1) && (t.vec 0).sreg 1 == 77 && (t.vec 0).sreg 2 == 78 &&
        (t.vec 0).sreg 3 == 0 && ((t.msg 6).queue 1).isEmpty) = true := by decide +kernel
theorem test_vec_handler_timeout : (ok (exec (.vecHandlerTimeout 0) (vecAt (vw 1 0 0 0 0 0))) fun t => (t.vec 0).run.isNone && (t.vec 0).handled == 1 &&
    (t.vec 0).faultInfo == vecFaultInfo .aborted 1 0 && (t.vec 0).lastFaulted) = true := by decide +kernel

/-! ## Helper cores and messages -/

/-- Helper core 0 runs at PC 0x40: x1 names a buffer at 0x800, x2 holds a value. -/
def hAt (x : Helper) (m : Msg := {}) : State :=
  { State.reset with
    helpers := [(0, { x with run := true, running := true, pc := 0x40 })], msgs := [(epOfHelper 0, m)],
    engines := [(1, { st := .running })], mem := memPut [] 0 (hpDpa 0 0x800) [1, 2, 3] }
theorem test_helper_tenant_write : (State.reset.takes (.helper 2) && ok (exec (.helperTenantWrite 2 9)
    { State.reset with mem := memPut [] 0 (hpDpa 2 0x100) [7] }) fun t => (t.helper 2).tenant == 9 && t.mem == []) = true := by decide +kernel
theorem test_helper_run_write : (ok (exec (.helperRunWrite 2 3) { State.reset with helpers := [(2, { bootPc := 0x100, x := [(1, 5)] })] }) fun t =>
    (t.helper 2).running && (t.helper 2).pc == 0x100 && (t.helper 2).xr 1 == 0 && (t.helper 2).priv) = true := by decide +kernel
theorem test_helper_halt : ((hAt {}).takes (.helper 0) && ok (exec (.helperRunWrite 0 0) (hAt {})) fun t =>
    !(t.helper 0).run && !(t.helper 0).running && (t.helper 0).pc == 0x40) = true := by decide +kernel
theorem test_kmhost_write : ((hAt {}).helperFree 0 && ok (exec (.kmhostWrite 0 0x1ABCD0000) (hAt {})) fun t => (t.helper 0).mbox == 0xABCD0000 &&
    (t.hdr (.helper 0)).irqSts.getLsbD 0 && (t.helper 0).pc == 0x44) = true := by decide +kernel
/-- A request of three bytes to endpoint 5 under TAG 9. -/
def sendHdr (rreq : Nat := 0) : Word64 := BitVec.ofNat 64 (0x21 <<< 52 ||| 9 <<< 44 ||| 5 <<< 37 ||| rreq <<< 29 ||| 3)
def sender : State := hAt { x := [(1, 0x800), (2, sendHdr)] }
theorem test_ksend : (sender.helperFree 0 && ownMiss 0x800 3 == none && ok (exec (.ksend 0 7 1 2 2 false) sender) fun t =>
    ((t.msg 4).send 2).any fun m => m.hdr == sendHdr && m.payload == [1, 2, 3] && m.rd == 7) = true := by decide +kernel
/-- Helper core 1 holds a reservation for the reply of endpoint 4. -/
def replier : State :=
  let s := hAt { x := [(1, 0x800), (2, sendHdr)] }
  { s with msgs := [(5, { resv := [{ c := 2, dest := 4, tag := 9 }] })] }
theorem test_ksend_reply : (match replier.sendReply 4 2 sendHdr [1, 2, 3] with
    | (s1, c) => c == .ok && s1.helper 0 == replier.helper 0 && ok (exec (.ksend 0 7 1 2 2 true) replier) fun t => (t.helper 0).xr 7 == 0 &&
        (t.helper 0).pc == 0x44 && ((t.msg 5).queue 6).any fun m => m.payload == [1, 2, 3] && mSrc m.hdr.toNat == 4) = true := by decide +kernel
def held : QMsg := { hdr := deliveredHdr sendHdr.toNat 0x21 5 false, payload := [8, 9], ringOff := none }
def receiver : State := hAt { x := [(1, 0x900)], de := true, kmhtab := 0x400, kmbuf := 0x200 } { queues := [(3, [held])] }
theorem test_krecv : (receiver.helperFree 0 && ok (exec (.krecv 0 7 1 3 false) receiver) fun t => (t.helper 0).xr 7 == held.hdr &&
    (t.helper 0).pc == 0x44 && t.bytes (hpDpa 0 0x900) 2 == [8, 9] && ((t.msg 4).queue 3).isEmpty) = true := by decide +kernel
theorem test_krecv_blocks : (ok (exec (.krecv 0 7 1 2 false) receiver) fun t => (t.helper 0).blocked && (t.helper 0).pc == 0x40) = true := by
  decide +kernel
def ktAt : State := hAt { x := [(1, 5), (2, 0x10042)] }
theorem test_ktemit : (ktAt.helperFree 0 && !ktAt.tokWaits 1 13 && ktAt.blkOn (.engine 1) && !(ktAt.eng 1).inReset &&
    ok (exec (.ktemit 0 7 1 2) ktAt) fun t => (t.eng 1).queue 13 == [⟨0x42, true⟩] && (t.helper 0).xr 7 == 0 && (t.helper 0).pc == 0x44) = true := by
  decide +kernel
theorem test_khret : (ok (exec (.khret 0) (hAt { inh := true, kmepc := 0x88 })) fun t => !(t.helper 0).inh && (t.helper 0).pc == 0x88) = true := by
  decide +kernel
/-- Handler 0x21 at 0x2000. -/
def dispAt : State := { receiver with mem := memPut receiver.mem 0 (hpDpa 0 (0x400 + 8 * 0x21)) (leBytes 8 (2 ^ 63 + 0x2000)) }
theorem test_helper_dispatch : (dispAt.helperFree 0 && dispAt.dispatchable 0 == some (3, held) && ok (exec (.helperDispatch 0) dispAt) fun t =>
    (t.helper 0).inh && (t.helper 0).kmhdr == held.hdr && (t.helper 0).kmepc == 0x40 && (t.helper 0).pc == 0x2000 &&
      t.bytes (hpDpa 0 0x200) 2 == [8, 9]) = true := by decide +kernel
/-- The request of `sender` waits at its channel. -/
def sent (rreq : Nat) : State := hAt {} { sending := [(2, some { hdr := sendHdr rreq, payload := [1, 2, 3], rd := 7, at_ := 0 })] }
theorem test_message_deliver : ((match (sent 1).msgCheck 4 2 (sendHdr 1).toNat 3 with | .ok r => r == (5, 2, 0x21) | .error _ => false) &&
    decide (0 < ((sent 1).msg 4).credit 2) && ok (exec (.messageDeliver 4 2) (sent 1)) fun t => ((t.msg 4).send 2).isNone &&
      (t.msg 5).queue 2 == [{ hdr := deliveredHdr (sendHdr 1).toNat 0x21 4 false, payload := [1, 2, 3], ringOff := none }] &&
      (t.helper 0).xr 7 == 0 && (t.helper 0).pc == 0x44 && ((t.msg 4).resv.length == 1)) = true := by decide +kernel
theorem test_send_wait_expire : (let s : State := { sent 1 with
    cycles := [(epIsland 4, 0x1000)], msgs := [(4, { (sent 1).msg 4 with resv := List.replicate 16 { c := 2, dest := 5, tag := 1 } })] }
  decide ((s.msg 4).sendWaitLimit ≤ s.cyc (epIsland 4)) && !s.hasCredit 4 2 (sendHdr 1).toNat &&
    gives (exec (.sendWaitExpire 4 2) (sent 1)) (sent 1) && ok (exec (.sendWaitExpire 4 2) s) fun t => ((t.msg 4).send 2).isNone &&
    fld (t.msg 4).fault.toNat 56 8 == Code.queueWouldBlock.num && (t.helper 0).xr 7 == BitVec.ofNat 64 Code.queueWouldBlock.num) = true := by
  decide +kernel
/-- Engine 0's ORING1 of one 4-KiB area in handle 0's buffer at the scratchpad's start, one record of three bytes. -/
def outAt : State :=
  { State.reset with
    msgs := [(0, { rings := [(9, BitVec.ofNat 64 (2 ^ 63))] })], galleries := [(0, { ht := [(0, BitVec.ofNat 64 (1 <<< 63 ||| 1))] })],
    mem := memPut (memPut [] 0 (spDpa 0 0) (leBytes 8 64 ++ leBytes 8 0)) 0 (spDpa 0 64) (leBytes 8 sendHdr.toNat ++ leBytes 8 64 ++ [4, 5, 6]) }
theorem test_outbound_send : (((outAt.msg 0).send 1).isNone && outAt.ringDpa 0 ((outAt.msg 0).ring 9) == some (spDpa 0 0) && !outAt.epPaused 0 &&
    outAt.epUp 0 && ok (exec (.outboundSend 0 1) outAt) fun t => ((t.msg 0).send 1).any fun m => m.hdr == sendHdr && m.payload == [4, 5, 6]) = true := by
  decide +kernel
/-- Helper core 0's RING1 at 0x3000 with one record of 64 bytes in it. -/
def inAt : State :=
  { State.reset with
    msgs := [(4, { rings := [(1, BitVec.ofNat 64 (2 ^ 63 + 0x3000))] })],
    mem := memPut (memPut [] 0 (hpDpa 0 0x3000) (leBytes 8 64)) 0 (hpDpa 0 0x3048) (leBytes 8 64) }
theorem test_ring_ci_write : (inAt.ringDpa 4 ((inAt.msg 4).ring 1) == some (hpDpa 0 0x3000) &&
    inAt.ixReach (hpDpa 0 0x3000) 4096 64 64 16384 0 && ok (exec (.ringCiWrite 4 1 64) inAt) fun t =>
      t.num (hpDpa 0 0x3008) 8 == 64 && (t.msg 4).stopped == []) = true := by decide +kernel
theorem test_ring_ci_write_stops : (inAt.ixReach (hpDpa 0 0x3000) 4096 64 32 16384 0 == false && ok (exec (.ringCiWrite 4 1 32) inAt) fun t =>
    (t.msg 4).stopped == [1]) = true := by decide +kernel
theorem test_msg_ring_write : (let v : Word64 := BitVec.ofNat 64 (2 ^ 63 + 0x3000)
  State.reset.takes (.msg 4) && State.reset.mayMsg 0 0 4 && ringExists 4 1 && State.reset.ringOk 4 v.toNat && State.reset.ringIdle 4 1 &&
    ok (exec (.msgRingWrite 0 0 4 1 v) State.reset) fun t => tget (t.msg 4).rings 1 0 == v) = true := by decide +kernel
theorem test_route_entry_write : (State.reset.epStill 4 && ok (exec (.routeEntryWrite 0 0 4 63 0xFFFFFFFFFFFFFFFF) State.reset) fun t =>
    tget (t.msg 4).rt 63 0 == 0x80037F0000000FFF) = true := by decide +kernel

/-! ## Handles, translation, cache, HBM, windows -/

def hVal : Word64 := BitVec.ofNat 64 (1 <<< 63 ||| 3 <<< 52 ||| 5 <<< 16 ||| 1)
def tagged (t : Nat) : State :=
  { State.reset with galleries := [(0, { tags := [(5, t)] })], mem := memPut [] 0 (spDpa 0 (5 * 4096)) [7] }
theorem test_handle_write : ((tagged 4).takes (.gallery 0) && !(tagged 4).handleBad 0 hVal.toNat 2 && (tagged 4).foreignBlocks 0 hVal.toNat == [] &&
    ok (exec (.handleWrite 0 0 0 2 hVal) (tagged 4)) fun t => t.handle 0 2 == hVal.toNat && t.mem == (tagged 4).mem) = true := by decide +kernel
theorem test_handle_write_foreign : (!(tagged 9).handleBad 0 hVal.toNat 2 && (tagged 9).foreignBlocks 0 hVal.toNat == [5] &&
    ok (exec (.handleWrite 0 0 0 2 hVal) (tagged 9)) fun t => t.handle 0 2 == 0 && (t.gal 0).htNew == [(2, { val := hVal, port := 0, fn := 0 })]) = true := by decide +kernel
/-- A second write of the function waits for the first one's zero fill, and goes on after it. -/
theorem test_handle_write_waits : (match exec (.handleWrite 0 0 0 2 hVal) (tagged 9) with
    | .next s => s.behindFill 0 0 && (match exec (.handleWrite 0 0 0 3 0) s with
      | .next u => u.dev.waitW.length == 1 && ok (exec (.handleZeroFillDone 0 2) u) fun t => t.handle 0 2 == hVal.toNat && t.dev.waitW == []
      | _ => false)
    | _ => false) = true := by decide +kernel
theorem test_handle_zero_fill_done : (let s := (tagged 9).setGal 0 { (tagged 9).gal 0 with htNew := [(2, { val := hVal, port := 0, fn := 0 })] }
  ok (exec (.handleZeroFillDone 0 2) s) fun t => t.handle 0 2 == hVal.toNat && t.mem == [] && (t.gal 0).htNew == []) = true := by decide +kernel
/-- An invalidation of tenant 3's page 5 of 64 KiB. -/
def invVal : Word64 := BitVec.ofNat 64 (3 <<< 54 ||| 5 <<< 16)
theorem test_tlb_inv : (State.reset.takes .dev && State.reset.dev.tlbInv.isNone && ok (exec (.tlbInv invVal) State.reset) fun t =>
    t.dev.tlbInv == some invVal) = true := by decide +kernel
theorem test_tlb_inv_complete : (let c : Nat × Nat × Nat × Word64 := (3, 0x50000, 16, 1)
  let d : Nat × Nat × Nat × Word64 := (3, 0x60000, 16, 1)
  let s := { State.reset with galleries := [(7, { tlb := [c, d] })], dev := { State.reset.dev with tlbInv := some invVal } }
  tlbDrops invVal.toNat c && !tlbDrops invVal.toNat d && ok (exec .tlbInvComplete s) fun t => (t.gal 7).tlb == [d] && t.dev.tlbInv.isNone) = true := by
  decide +kernel
def hbmAt : State := { State.reset with mem := memPut [] 0 0x100 [1, 2, 3, 4] }
/-- A read of three bytes whose codeword has one symbol in error, corrected. -/
theorem test_flow_request_read : (let r : FlowReq := { dpa := 0x101, len := 3, hint := 0, data := none, errs := [[5]] }
  let s1 := hbmAt.codesRead r
  inHbm 0x101 3 && (linesOf 0x101 3).all (fun l => stackOf l / 2 == 0) && !s1.ueIn 0x101 3 &&
    ok (exec (.flowRequest 0 r) hbmAt) fun t => t.lastRead == 0x040302 && t.lastRead == s1.num 0x101 3 &&
      tget (t.hbmc 0).corr (36 * pcOf 0x100 + 5) 0 == 1) = true := by decide +kernel
/-- No slice holds a line at reset or here, so none brings back older bytes. -/
theorem wit_slices_clean : SlicesClean hbmAt := fun _ _ h => absurd h List.not_mem_nil
theorem test_flow_request_write : (let r : FlowReq := { dpa := 0x102, len := 2, hint := 0, data := some [9, 8], errs := [] }
  ((linesOf 0x102 2).all fun l => !(hbmAt.hbmc (stackOf l)).failed) && ok (exec (.flowRequest 0 r) hbmAt) fun t =>
    t.bytes 0x100 5 == [1, 2, 9, 8, 0]) = true := by decide +kernel
theorem test_flow_flush : (State.reset.takes (.flow 1) && !(State.reset.flow 1).busy && ok (exec (.flowFlush 1 3) State.reset) fun t =>
    (t.flow 1).busy && (t.flow 1).flush == some (true, true)) = true := by decide +kernel
theorem test_flow_flush_complete : (match exec (.flowRequest 0 { dpa := 0x102, len := 2, hint := 0, data := some [9, 8], errs := [] }) hbmAt with
    | .next s1 => (match exec (.flowFlush 0 3) s1 with
      | .next s2 => (s2.flow 0).lines.length == 1 && (s2.flow 0).flush == some (true, true) &&
          ok (exec (.flowFlushComplete 0) s2) fun t => (t.flow 0).lines == [] && !(t.flow 0).busy && t.bytes 0x102 2 == [9, 8]
      | _ => false)
    | _ => false) = true := by decide +kernel
theorem test_pin_declare : (let s := { State.reset with hbmcs := [(0, { corr := [(36 * 2 + 7, 256)] })] }
  pinCount ((s.hbmc 0).declared 2) == 0 && ok (exec (.pinDeclare 0 2 7) s) fun t => ((t.hbmc 0).declared 2) == 0x80) = true := by decide +kernel
theorem test_patrol_scrub : (ok (exec (.patrolScrub 0 4 [3, 9]) hbmAt) fun t => t.mem == hbmAt.mem && tget (t.hbmc 0).corr (36 * pcOf 0x100 + 9) 0 == 1 &&
    2 * ((hbmAt.hbmc 0).unknown (pcOf 0x100) [3, 9]).length + pinCount ((hbmAt.hbmc 0).declared (pcOf 0x100)) == 4) = true := by decide +kernel
theorem test_stack_fail : (ok (exec (.stackFail 3) State.reset) fun t => (t.hbmc 3).failed && !(t.hbmc 2).failed) = true := by decide +kernel
/-- Window 2: 64 KiB of tenant 0 at virtual address 0x10000, for devices 4 to 6 that write as tenant 9. -/
def winBytes : Bytes := leBytes 8 0x10000 ++ leBytes 4 0 ++ leBytes 2 0 ++ leBytes 2 9 ++ leBytes 4 (1 <<< 31 ||| 6 <<< 16 ||| 4) ++ zeros 12
def theWin : Win := { base := 0x10000, pages := 1, tenant := 0, srcTenant := 9, srcs := [(4, 6)] }
def winAt (w : Option Win) : State :=
  { State.reset with
    mem := memPut [] 0 (0x400000 + 64) winBytes, geode := { State.reset.geode with ctx := [(0, { st := .live })] },
    dev := { State.reset.dev with winBase := 0x400000, wins := [(2, w)] } }
theorem test_window_open : ((match (winAt none).devRead 0 (0x400000 + 64) 32 with
    | (s1, .ok b) => s1.winOf b == some theWin
    | _ => false) && ok (exec (.windowOpen 2) (winAt none)) fun t => tget t.dev.wins 2 none == some theWin) = true := by decide +kernel
theorem test_window_close : (ok (exec (.windowClose 2) (winAt (some theWin))) fun t => (tget t.dev.wins 2 none).any fun w => w.closing) = true := by
  decide +kernel
theorem test_window_close_complete : (ok (exec (.windowCloseComplete 2) (winAt (some { theWin with closing := true }))) fun t =>
    (tget t.dev.wins 2 none).isNone) = true := by decide +kernel
/-- Function 0's aperture begins at HBM 0x100, virtual function 1's at virtual address 0x40 of tenant 0. -/
def barAt : State :=
  let s := vm {} []
  { s with mem := memPut s.mem 0 0x100 [1, 2, 3, 4], fns := [(0, { apBase := 0x100 }), (1, { apBase := 0x40 })] }
theorem test_bar2_access : ((barAt.fn 0 0).apBase == 0x100 && (barAt.fn 0 1).apBase == 0x40 &&
    (ok (exec (.bar2Access 0 0 1 2 none) barAt) fun t => t.lastRead == 0x0302) &&
    ok (exec (.bar2Access 0 1 2 2 (some [5, 6])) barAt) fun t => t.bytes 0x100042 2 == [5, 6]) = true := by decide +kernel
theorem test_bar2_scratchpad : (let s := { barAt with fns := [(0, { apBase := BitVec.ofNat 64 spBase })] }
  ok (exec (.bar2Access 0 0 0x40 2 (some [5, 6])) s) fun t => t.bytes (spBase + 0x40) 2 == [5, 6]) = true := by decide +kernel

/-! ## Error records, engine failures, ownership -/

/-- A record of gallery 0's engine 2, class CORRECTED or another. -/
def rec1 (cls : Nat) : SumpRec :=
  { code := 9, cls := BitVec.ofNat 8 cls, unit := 0, place := 2, tenant := some 5, op := 0, slot := none, disp := 0, fpc := 0, detail0 := 7, detail1 := 8 }
theorem test_sump_record : ((ok (exec (.sumpRecord 0 (rec1 6)) State.reset) fun t => (t.gal 0).sump == [rec1 6]) &&
    ok (exec (.sumpRecord 0 (rec1 6)) { State.reset with galleries := [(0, { sump := List.replicate 256 (rec1 6) })] }) fun t =>
      (t.gal 0).sump.length == 256 && (t.gal 0).sumpLost == 1 && (t.gal 0).sumpLostFlag) = true := by decide +kernel
def sumpAt (cls : Nat) : State := { State.reset with galleries := [(0, { sump := [rec1 cls] })], dev := { State.reset.dev with rseq := 41 } }
theorem test_sump_drain : ((sumpAt 6).sumpErr 0 (rec1 6)).cls != .corrected && (ok (exec (.sumpDrain 0) (sumpAt 6)) fun t => (t.gal 0).sump == [] &&
    [t.mgmtW.buf, t.mgmtE.buf].all fun b => b.map (fun r => (r.rseq, r.btype, r.binst, r.bloc, r.tenant)) ==
      [(42, (Page.engine 2).type, (Page.engine 2).place.1, (Page.engine 2).place.2, some 5)]) = true := by decide +kernel
theorem test_sump_drain_corrected : ((sumpAt 1).sumpErr 0 (rec1 1)).cls == .corrected && (ok (exec (.sumpDrain 0) (sumpAt 1)) fun t =>
    t.dev.merges.length == 1 && t.mgmtW.buf == [] && t.dev.rseq == 41) = true := by decide +kernel
theorem test_merge_interval_expire : (match exec (.sumpDrain 0) (sumpAt 1) with
    | .next s => ok (exec (.mergeIntervalExpire 0) s) fun t => t.dev.merges == [] && t.mgmtE.buf.length == 1 && t.dev.rseq == 42
    | _ => false) = true := by decide +kernel
/-- The east controller's ring of 64 entries at host address 0x5000, its tail at the last entry. -/
def erqAt : State :=
  State.reset.setMgmt .E { (State.reset.mgmt .E) with
    erqEn := true, erqErr := false, erqSize := 64, erqBase := 0x5000, erqTail := 63, erqHead := 5, erqPhase := true, erqIv := 7,
    buf := [{ Page.geode.errRec .divergence .divergence with rseq := 3 }] }
theorem test_error_record_post : ((erqAt.mgmt .E).canPost && !erqAt.scanHolds .E && ok (exec (.errorRecordPost .E true) erqAt) fun t =>
    (t.mgmt .E).buf == [] && (t.mgmt .E).erqTail == 0 && (t.mgmt .E).erqPhase == false && t.msix == [(1, 0, 7)] && t.errN &&
      memRun t.hostOut 0 (2 ^ 64 + 0x5000 + 63 * 64) 10 == leBytes 8 3 ++ [BitVec.ofNat 8 Cls.divergence.num, Code.divergence.byte] &&
      memRun t.hostOut 0 (2 ^ 64 + 0x5000 + 63 * 64 + 63) 1 == [1]) = true := by decide +kernel
theorem test_error_record_post_fails : (ok (exec (.errorRecordPost .E false) erqAt) fun t => (t.mgmt .E).erqErr && (t.mgmt .E).buf.length == 1 &&
    t.hostOut == []) = true := by decide +kernel
theorem test_erq_en_write : (let s := State.reset.setMgmt .W { (State.reset.mgmt .W) with erqSize := 64, erqTail := 9, erqErr := true }
  !s.heldPage (.mgmt .W) && !(s.mgmt .W).erqEn && ok (exec (.erqEnWrite .W 0x80000003) s) fun t => (t.mgmt .W).erqEn && (t.mgmt .W).erqTail == 0 &&
    !(t.mgmt .W).erqErr && (t.mgmt .W).erqIv == 3 && (t.mgmt .W).erqPhase) = true := by decide +kernel
theorem test_erq_head_write : (ok (exec (.erqHeadWrite .E 63) erqAt) fun t => (t.mgmt .E).erqHead == 63) = true := by decide +kernel
def engFail (since : Option Nat) : State := { State.reset with engines := [(2, { st := .running, sinceTest := since })] }
theorem test_engine_check_fail : (!((engFail none).eng 2).inReset && (engFail none).blkOn (.engine 2) && ok (exec (.engineCheckFail 2) (engFail none)) fun t =>
    (t.eng 2).inReset && (t.eng 2).st == .idle && (t.gal 0).testing == 4 && (t.gal 0).failed == 0 && (t.gal 0).sump.length == 1) = true := by
  decide +kernel
theorem test_handshake_timeout : (((engFail (some 9)).eng 2).failsAgain && ok (exec (.handshakeTimeout 2) (engFail (some 9))) fun t =>
    (t.eng 2).inReset && (t.gal 0).failed == 4 && (t.gal 0).testing == 0) = true := by decide +kernel
def testing : State := { State.reset with engines := [(2, { inReset := true })], galleries := [(0, { testing := 4 })] }
theorem test_engine_selftest_end : ((ok (exec (.engineSelftestEnd 2 true) testing) fun t => !(t.eng 2).inReset && (t.gal 0).testing == 0 &&
    (t.eng 2).sinceTest == some 0) && ok (exec (.engineSelftestEnd 2 false) testing) fun t => (t.eng 2).inReset && (t.gal 0).failed == 4 &&
    (t.gal 0).testing == 0) = true := by decide +kernel
theorem test_err_cnt_threshold : (let s := (engFail none).setHdr (.engine 2) { errCnt := 4097 }
  ok (exec (.errCntThreshold 2) s) fun t => (t.eng 2).corrBase == 4097 && (t.gal 0).sump.length == 1) = true := by decide +kernel
theorem test_eng_retest : (ok (exec (.engRetest 0 4) { State.reset with galleries := [(0, { failed := 5 })] }) fun t => (t.gal 0).testing == 4) = true := by
  decide +kernel
theorem test_heartbeat_boot : (let s := { State.reset with geode := { State.reset.geode with bootWait := true, epoch := 0, holder := none }, mgmtE := { State.reset.mgmtE with beat := true } }
  s.outOfReset && ok (exec (.heartbeat .W 0 false) s) fun t => t.geode.epoch == 1 && t.geode.holder == some .W && !t.geode.bootWait) = true := by
  decide +kernel
theorem test_heartbeat_claims : (let s := { State.reset with geode := { State.reset.geode with epoch := 5, bootWait := false } }
  (ok (exec (.heartbeat .E 4 true) s) fun t => t.mgmtE.role == .mirror && t.mgmtE.reloading) &&
    match exec (.heartbeat .W 5 true) s with
    | .next t => t.geode.claim .W == some 5 && ok (exec (.heartbeat .E 5 true) t) fun u => u.geode.frozen && u.mgmtW.role == .frozen
    | _ => false) = true := by decide +kernel
theorem test_controller_lost : (ok (exec (.controllerLost .W) State.reset) fun t => t.mgmtW.lost && t.geode.holder == some .E && t.geode.scan &&
    t.geode.epoch == 2 && (t.cavern 1).secondary && !(t.cavern 2).secondary) = true := by decide +kernel
theorem test_controller_fault_report : (ok (exec (.controllerFaultReport .E) State.reset) fun t => t.mgmtE.lost && t.geode.holder == some .W &&
    t.geode.epoch == 1 && t.geode.scan && (t.cavern 3).secondary) = true := by decide +kernel
theorem test_mirror_reload_complete : (let s := State.reset.setMgmt .E { State.reset.mgmtE with reloading := true, lost := true, epoch := 0 }
  !s.scanHolds .E && ok (exec (.mirrorReloadComplete .E) s) fun t => !t.mgmtE.reloading && !t.mgmtE.lost && t.mgmtE.epoch == 1 && t.mgmtE.role == .mirror) = true := by
  decide +kernel
theorem test_epoch_resolve : (let s := { State.reset with geode := { State.reset.geode with frozen := true } }
  ok (exec (.epochResolve 0x80000001) s) fun t => !t.geode.frozen && t.geode.holder == some .E && t.geode.epoch == 2 && t.mgmtE.role == .holder &&
    t.mgmtW.role == .mirror && t.mgmtW.reloading) = true := by decide +kernel
theorem test_takeover_scan_complete : (let a : Access := { port := 0, fn := 0, off := 0, size := 4, val := 0 }
  let s := { State.reset with geode := { State.reset.geode with scan := true }, mgmtE := { State.reset.mgmtE with held := [a] } }
  ok (exec .takeoverScanComplete s) fun t => !t.geode.scan && t.mgmtE.held == []) = true := by decide +kernel

/-! ## The Geode -/

/-- A request through mailbox 1, whose response area takes 64 KiB at host address 0x7000. -/
def rq (payload : Bytes) : MReq := { via := .mbox 1, mver := 1, tag := 0xAB, payload := payload }
def geo (f : Geode → Geode) : State :=
  { State.reset with geode := f { State.reset.geode with mbox := [(1, { rspAddr := 0x7000, rspMax := 65536, reqLen := 100 })] } }
def geo0 : State := geo id
/-- The hypotheses `ReqReady`. -/
def ready (s : State) : Bool :=
  s.geodeUp && s.portServes 1 && !(s.mbox 1).busy && decide ((s.mbox 1).reqLen.toNat ≤ 65536) && s.geode.unlock.isNone && !s.geode.frozen
/-- The response as it stands in the host's memory. -/
def answered (t : State) (opc : Nat) (c : Code) (payload : Bytes) : Bool :=
  memRun t.hostOut 0 (2 ^ 64 + 0x7000) (16 + payload.length) == respBytes 1 opc c 0xAB payload && (t.mbox 1).code == c.byte &&
    (t.mbox 1).rspLen == 16 + payload.length && (t.hdr .geode).irqSts.getLsbD 1
theorem wit_get_certs : (ready geo0) = true := by decide +kernel
theorem wit_attest : (fld (pnum (rq (zeros 32 ++ leBytes 2 0x8005)) 32 2) 10 5 == 0 && (rq (zeros 32 ++ leBytes 2 0x8005)).payload.length == 34) = true := by
  decide +kernel
theorem wit_ctx_query : (pnum (rq (leBytes 2 5)) 0 2 == 5 && (rq (leBytes 2 5)).payload.length == 2) = true := by decide +kernel
theorem test_rollback_commit : (let s := geo fun g => { g with cidx := 3, svn := 9, arb := [(3, 4), (5, 2)] }
  ready s && !s.geode.fallback && ok (exec (.rollbackCommit (rq [])) s) fun t => tget t.geode.arb 3 0 == 9 && tget t.geode.arb 5 0 == 2 &&
    answered t 0x30 .ok []) = true := by decide +kernel
theorem test_request_bad_command : (ok (exec (.rollbackCommit (rq [1])) geo0) fun t => answered t 0x30 .badCommand []) = true := by decide +kernel
/-- An OPEN of tenant 5 without an owner key. -/
def openReq : MReq := rq (leBytes 2 5 ++ zeros 6 ++ leBytes 8 0x2000 ++ leBytes 8 77 ++ List.replicate 32 3 ++ zeros 512)
theorem wit_session_open : (openOk openReq && (geo0.ctx 5).st == .free && decide (geo0.sessions < 32) && !geo0.lie.busy) = true := by decide +kernel
def ses1 : Session := { sid := 1, ptRoot := 0x2000, rseed := 77, owner := false, ownerN := [], openRsp := [], dk := [], dg := 5 }
def sesAt : State := geo fun g => { g with ctx := [(5, { sid := 1, ses := some ses1 })] }
def finReq : MReq := rq (leBytes 2 5 ++ leBytes 2 1 ++ zeros 2252)
theorem wit_session_finish : (finReq.payload.length == 2256 && zeroAt finReq.payload 4 4 && zeroAt finReq.payload 0x689 7 && zeroAt finReq.payload 0x6CC 4 &&
    (sesAt.ctx 5).ses == some ses1 && ses1.sid == pnum finReq 2 2 && zeroAt finReq.payload 0x6D0 512 && !sesAt.lie.busy && sesAt.geode.holder.isSome) = true := by
  decide +kernel
/-- A FINISH whose client point is not in form discards the session. -/
theorem test_session_finish_refused : ((finishOpen ses1 finReq.payload).isNone && ok (exec (.sessionFinish finReq) sesAt) fun t =>
    (t.ctx 5).ses.isNone && (t.ctx 5).st == .free && answered t 0x11 .permission []) = true := by decide +kernel
theorem test_session_expire : (ok (exec (.sessionExpire 5) sesAt) fun t => (t.ctx 5).ses.isNone && (t.ctx 5).sid == 1) = true := by decide +kernel
def liveAt : State := geo fun g => { g with ctx := [(5, { st := .live, ptRoot := 0x1000, rseed := 3, cs := [1], nk := [2] })] }
theorem test_ctx_set : (let r := rq (leBytes 2 5 ++ leBytes 2 1 ++ zeros 4 ++ leBytes 8 0x3000 ++ leBytes 8 9)
  r.payload.length == 24 && ptRootOk 0x3000 && ok (exec (.ctxSet r) liveAt) fun t => (t.ctx 5).ptRoot == 0x3000 && (t.ctx 5).rseed == 3 &&
    answered t 0x12 .ok []) = true := by decide +kernel
theorem test_ctx_destroy : (let s := liveAt.setGal 1 { liveAt.gal 1 with tags := [(3, 6), (4, 2)] }
  s.tenantQuiet 5 && ok (exec (.ctxDestroy (rq (leBytes 2 5))) s) fun t => (t.ctx 5).st == .free && (t.ctx 5).cs == [] && (t.ctx 5).nk == [] &&
    (t.gal 1).tags == [(4, 2)] && answered t 0x13 .ok []) = true := by decide +kernel
/-- A journal slot of tenant 5 that has not been posted makes the destruction wait. -/
theorem test_ctx_destroy_waits : (let s := { liveAt with journal := { liveAt.journal with slots := [(0, { st := .accepted, entry := BitVec.ofNat 512 (5 <<< 32) })] } }
  !s.tenantQuiet 5 && ok (exec (.ctxDestroy (rq (leBytes 2 5))) s) fun t => (t.ctx 5).st == .destroying && (t.mbox 1).busy && t.hostOut == []) = true := by
  decide +kernel
theorem test_flash_write : (let r := rq ([1, 0, 0, 0] ++ leBytes 4 0x10 ++ [1, 2, 3])
  (!geo0.imageRuns || (1 == 1) != geo0.geode.imageB) && ok (exec (.flashWrite r) geo0) fun t => t.geode.flashRun 0x2000010 4 == [1, 2, 3, 0xFF] &&
    answered t 0x31 .ok []) = true := by decide +kernel
theorem test_owner_set : (let r := rq (List.replicate 2592 7 ++ [1])
  geo0.geode.ownerKey == [] && ok (exec (.ownerSet r) geo0) fun t => t.geode.ownerKey == List.replicate 2592 7 && t.geode.preferB && answered t 0x32 .ok []) = true := by
  decide +kernel
theorem test_debug_challenge : (ok (exec (.debugChallenge (rq [])) geo0) fun t => t.geode.challenge.isSome) = true := by decide +kernel
theorem test_challenge_expire : (ok (exec .challengeExpire (geo fun g => { g with challenge := some [1] })) fun t => t.geode.challenge.isNone) = true := by
  decide +kernel
theorem test_debug_unlock_refused : (ok (exec (.debugUnlock (rq (zeros 11942))) (geo fun g => { g with challenge := some [1] })) fun t =>
    t.geode.challenge.isNone && t.geode.unlock.isNone && answered t 0x41 .permission []) = true := by decide +kernel
theorem test_doe_request : (geo0.geodeUp && geo0.portServes 1 && (ok (exec (.doeRequest 1 (.ideKm true none)) geo0) fun t => (t.port 1).ideLink && (t.port 1).ideSel == 0) &&
    ok (exec (.doeRequest 1 (.ideKm true (some 3))) geo0) fun t => (t.port 1).ideSel == 8 && !(t.port 1).ideLink) = true := by decide +kernel

/-! ## The long-integer engine, the sideband, the TAP, block power -/

def lieAt (op len : Word32) : State := { State.reset with lie := { op := op, len := len, rAddr := 0x9000 } }
def began (t : State) (c : Code) (w : List Word64) (n : Nat) : Bool := t.lie.busy && t.lie.out == some (c, w, n)
theorem test_modmul : ((lieAt 1 1).takes .lie && (lieAt 1 1).lie.argsOk .modmul && (ok (exec (.modmul 1 (some [50]) (some [60]) (some [97])) (lieAt 1 1)) fun t =>
    began t .ok [90] (3 * 21 + 528) && t.lie.owner == 1) && ok (exec (.modmul 0 (some [98]) (some [60]) (some [97])) (lieAt 1 1)) fun t =>
    began t .lieFail [0] (3 * 21 + 528)) = true := by decide +kernel
theorem test_modexp : ((lieAt 2 0x10001).lie.argsOk .modexp && ok (exec (.modexp 0 (some [5]) (some [96]) (some [97])) (lieAt 2 0x10001)) fun t =>
    began t .ok [1] (132 * 21 + 512)) = true := by decide +kernel
/-- (n − 1)·G = −G on P-384. -/
theorem test_ecmul : ((lieAt 3 0).lie.argsOk .ecmul && ok (exec (.ecmul 0 (some (toWords 6 (p384N - 1))) (some (toWords 12 (p384Gx + 2 ^ 384 * p384Gy)))) (lieAt 3 0)) fun t =>
    began t .ok (toWords 12 (p384Gx + 2 ^ 384 * (p384P - p384Gy))) (10112 * 58 + 512)) = true := by decide +kernel
def lieRun : State := { State.reset with lie := { busy := true, owner := 1, rAddr := 0x9000, out := some (.ok, [7, 8], 99), work := [1] } }
theorem wit_lie_abort : (lieRun.takes .lie && lieRun.lie.busy && lieRun.lie.out.isSome) = true := by decide +kernel
theorem test_lie_complete : ((ok (exec (.lieComplete true) lieRun) fun t => !t.lie.busy && t.lie.code == Code.ok.byte && t.lie.cycles == 99 &&
    memRun t.hostOut 0 (2 ^ 64 + 0x9000) 16 == leBytes 8 7 ++ leBytes 8 8 && (t.hdr .lie).irqSts.getLsbD 0) &&
    ok (exec (.lieComplete false) lieRun) fun t => !t.lie.busy && t.lie.code == Code.aborted.byte && t.hostOut == []) = true := by decide +kernel
theorem test_set_endpoint_id : (State.reset.geodeUp && !State.reset.geode.sbBusy && (ok (exec (.setEndpointId 0x31) State.reset) fun t => t.geode.eid == 0x31 &&
    ok (exec .getEndpointId t) fun u => u.sideband == [0, 2, 0, 0x31, 0, 0]) && ok (exec (.setEndpointId 0xFF) State.reset) fun t => t.geode.eid == 0) = true := by
  decide +kernel
theorem test_get_message_type_support : (ok (exec .getMessageTypeSupport State.reset) fun t => t.sideband == [0, 5, 0, 1, 0x7E]) = true := by decide +kernel
theorem wit_idcode : (!State.reset.tap.trst && State.reset.geodeUp) = true := by decide +kernel
theorem test_tap : ((ok (exec .bypass State.reset) fun t => t.tap.ir == .bypass) && (ok (exec .samplePreload State.reset) fun t => t.tap.ir == .samplePreload) &&
    (ok (exec (.tapReset true) State.reset) fun t => t.tap.trst) && gives (exec .extest State.reset) State.reset) = true := by decide +kernel
theorem test_tap_board_test : (let s := geo fun g => { g with boardTest := true }
  (ok (exec .extest s) fun t => t.tap.driven) && (ok (exec .tapClamp s) fun t => t.tap.ir == .clamp && t.tap.driven) &&
    ok (exec .highz s) fun t => t.tap.hiz) = true := by decide +kernel
/-- Engine 5's page in a power state. -/
def pageIn (h : Hdr) : State := State.reset.setHdr (.engine 5) h
theorem test_block_enable : (Page.ofKey 0x449 == some (.engine 5) && (ok (exec (.blockEnable 0x449) (pageIn { en := false, pstate := .off })) fun t =>
    (t.hdr (.engine 5)).pstate == .starting && (t.hdr (.engine 5)).en) &&
    ok (exec (.blockEnable 0x449) (pageIn { en := false, pstate := .stopping })) fun t => (t.hdr (.engine 5)).pendingEnable) = true := by decide +kernel
theorem test_block_disable : (!State.reset.stopRefused (.engine 5) && (ok (exec (.blockDisable 0x449) State.reset) fun t => (t.hdr (.engine 5)).pstate == .stopping) &&
    ok (exec (.blockDisable 0x449) { State.reset with engines := [(5, { st := .running })] }) fun t => (t.hdr (.engine 5)).pstate == .on &&
      (t.hdr (.engine 5)).errCnt == 1) = true := by decide +kernel
theorem test_block_fixed : ((Page.dev).fixedEn && Page.ofKey 0 == some .dev && gives (exec (.blockDisable 0) State.reset) State.reset) = true := by decide +kernel
theorem test_block_halt : (ok (exec (.blockHalt 0x449 true) State.reset) fun t => (t.hdr (.engine 5)).halt && (t.hdr (.engine 5)).pstate == .on) = true := by
  decide +kernel
theorem test_block_reset : (ok (exec (.blockReset 0x449) { State.reset with engines := [(5, { st := .stopped, retired := 9 })] }) fun t =>
    (t.hdr (.engine 5)).pstate == .starting && (t.eng 5).retired == 0) = true := by decide +kernel
theorem test_block_start_complete : ((ok (exec (.blockStartComplete 0x449) (pageIn { en := true, pstate := .starting })) fun t => (t.hdr (.engine 5)).pstate == .on) &&
    ok (exec (.blockStartComplete 0x449) (pageIn { en := false, pstate := .starting })) fun t => (t.hdr (.engine 5)).pstate == .stopping) = true := by
  decide +kernel
theorem test_block_stop_complete : ((pageIn { en := false, pstate := .stopping }).stopReady (.engine 5) &&
    ok (exec (.blockStopComplete 0x449) (pageIn { en := false, pstate := .stopping })) fun t => (t.hdr (.engine 5)).pstate == .off) = true := by decide +kernel

/-! ## Resets, clocks, power, temperature -/

def pageOff (t : State) : Bool := [Page.dev, .msg 126].all fun p => (t.hdr p).pstate == .off
def pageOn (t : State) : Bool := [Page.dev, .msg 126].all fun p => (t.hdr p).pstate == .on
theorem test_standby_power_up : (ok (exec .standbyPowerUp { State.reset with pins := { standby := false, pwrgd := false }, mem := [(3, 1)] }) fun t =>
    t.pins.standby && t.mem == [] && pageOff t) = true := by decide +kernel
theorem test_pwrgd_rise_board_test : (ok (exec (.pwrgdRise true 5) { State.reset with pins := { pwrgd := false } }) fun t => t.pins.pwrgd && t.pins.smbAddr == 5 &&
    t.geode.boardTest && pageOff t) = true := by decide +kernel
/-- A flash whose images' magic numbers have been erased holds no valid image. -/
def noImage : Geode := { State.reset.geode with wiped := [0, 512], erased := [0, 512] }
theorem test_pwrgd_rise_recovery : (noImage.cold.imgChoice.isNone && ok (exec (.pwrgdRise false 0) { State.reset with geode := noImage, pins := { pwrgd := false } }) fun t =>
    t.geode.recovery && pageOff t) = true := by decide +kernel
theorem test_boot_heartbeat_timeout : (ok (exec .bootHeartbeatTimeout (geo fun g => { g with bootWait := true, fallback := true })) fun t => t.geode.recovery &&
    pageOff t) = true := by decide +kernel
theorem test_pwrgd_fall : (ok (exec (.pwrgdFall true) { liveAt with mem := [(3, 1)] }) fun t => !t.pins.pwrgd && t.mem == [] && t.geode.ctx == [] && pageOff t) = true := by
  decide +kernel
theorem test_sys_rst_assert : (let s := { liveAt with engines := [(2, { st := .running })], journal := { liveAt.journal with en := true } }
  s.pins.sysRst && s.outOfReset && ok (exec .sysRstAssert s) fun t => !t.pins.sysRst && t.journal.en && t.eng 2 == {} && t.geode.ctx == s.geode.ctx &&
    pageOff t) = true := by decide +kernel
theorem test_sys_rst_release : (let s := { liveAt with pins := { sysRst := false }, journal := { liveAt.journal with en := true } }
  ({ s with pins := { s.pins with sysRst := true } } : State).outOfReset && ok (exec .sysRstRelease s) fun t => t.pins.sysRst && t.journal.restart &&
    t.geode.epoch == 2 && t.geode.holder == some .W && pageOn t) = true := by decide +kernel
theorem test_perst_assert : (ok (exec (.perstAssert 1) (State.reset.setPort 1 { up := true, downMs := 5 })) fun t => (t.port 1).perst && !(t.port 1).up &&
    (t.port 1).downTimer) = true := by decide +kernel
theorem test_perst_release : (ok (exec (.perstRelease 1) (State.reset.setPort 1 { perst := true, up := false })) fun t => !(t.port 1).perst && (t.port 1).up) = true := by
  decide +kernel
theorem test_reference_clock_loss : ((ok (exec (.referenceClockLoss (.refclk 1)) (State.reset.setPort 1 { up := true })) fun t => t.errN && !(t.port 1).up) &&
    (ok (exec (.referenceClockLoss .lref) { State.reset with links := [(3, { st := .active })] }) fun t => (t.link 3).st == .down && t.errN) &&
    ok (exec (.referenceClockLoss .osc25m) State.reset) fun t => t.pins.oscDead && t.pins.smbAlert && !t.outOfReset && t.errN) = true := by decide +kernel
theorem test_reference_clock_restore : (match exec (.referenceClockLoss (.refclk 1)) State.reset with
    | .next s => ok (exec (.referenceClockRestore (.refclk 1)) s) fun t => !t.pins.lost1 && !t.errN
    | _ => false) = true := by decide +kernel
theorem test_power_evaluation : (let s := { State.reset with dev := { State.reset.dev with pwrLimit := 500, coolCap := 400 }, caverns := [(2, { step := 3 })] }
  s.outOfReset && s.geode.holder.isSome && !s.thermal 2 && ok (exec (.powerEvaluation 450 100 90 120 120) s) fun t => (t.cavern 2).step == 4 && t.dev.watts == 450 &&
    t.cavern 3 == s.cavern 3) = true := by decide +kernel
theorem test_throttle_temp_reached : (atLeast 2000 State.reset.dev.throtTemp && ok (exec (.throttleTempReached 1 2000) State.reset) fun t => (t.cavern 1).throttle &&
    tget t.dev.temp 1 0 == 2000) = true := by decide +kernel
theorem test_hbm_temp_85 : (ok (exec (.hbmTemp85 5 1360) State.reset) fun t => (t.hbmc 5).refresh2x) = true := by decide +kernel
theorem test_hbm_temp_95 : (ok (exec (.hbmTemp95 5 1520) State.reset) fun t => (t.hbmc 5).refresh2x && (t.cavern 2).hbm95 && !(t.cavern 1).hbm95) = true := by decide +kernel
theorem test_critical_temp : (ok (exec (.criticalTemp 4 1680) { State.reset with caverns := [(0, { step := 2 })] }) fun t => t.dev.critical && (t.cavern 0).step == 12) = true := by
  decide +kernel
theorem test_prochot : (ok (exec .prochotAssert { State.reset with caverns := [(0, { step := 2 })] }) fun t => t.dev.prochot && t.pins.prochotLow && (t.cavern 0).step == 12) = true := by
  decide +kernel
theorem test_prochot_deassert : (ok (exec .prochotDeassert { State.reset with dev := { State.reset.dev with prochot := true, pwrLimit := 300, pwrLimitNew := some 250 } }) fun t =>
    !t.dev.prochot && t.dev.pwrLimit == 250 && t.dev.pwrLimitNew.isNone) = true := by decide +kernel
theorem test_thermal_step : (ok (exec (.thermalStep 1) { State.reset with caverns := [(1, { step := 4, throttle := true })] }) fun t => (t.cavern 1).step == 5 &&
    (t.cavern 1).episode) = true := by decide +kernel
theorem test_thermal_clear : (ok (exec (.thermalClear 1) { State.reset with caverns := [(1, { step := 4, throttle := true, episode := true, hold := true })] }) fun t =>
    (t.cavern 1).step == 4 && !(t.cavern 1).throttle && !(t.cavern 1).episode) = true := by decide +kernel
theorem test_thermtrip : (ok (exec (.thermtrip 0 1840) { State.reset with mem := [(3, 1)] }) fun t => t.pins.thermtrip && t.pins.smbAlert && !t.outOfReset && t.mem == []) = true := by
  decide +kernel

/-! ## Register accesses -/

def wr (off size : Nat) (val : Word64) (fn : Fin 64 := 0) : Instr := .registerWrite { port := 0, fn := fn, off := off, size := size, val := val }
def irqAt : State := State.reset.setHdr (.hbmc 1) { irqSts := 0x800000F0 }
theorem test_register_write_header : (Page.ofKey 0x303 == some (.hbmc 1) && !irqAt.heldPage (.hbmc 1) && !irqAt.behindFill 0 0 && irqAt.heldOf 0 0 == [] &&
    !irqAt.leaderless (.hbmc 1) && (ok (exec (wr 0x303018 4 0x80000030) irqAt) fun t => (t.hdr (.hbmc 1)).irqSts == 0xF0) &&
    (ok (exec (wr 0x30301C 4 0x80000033) irqAt) fun t => (t.hdr (.hbmc 1)).irqEn == 0x80000000) &&
    (ok (exec (wr 0x303020 4 0x0F) irqAt) fun t => (t.hdr (.hbmc 1)).irqSts == 0x800000F0) && gives (exec (wr 0x303004 4 7) irqAt) irqAt) = true := by decide +kernel
theorem test_register_write_refused : ((Page.flow 2).regAt 0x100 == some (0x100, 4) && !frozenOk (.flow 2) 0x100 &&
    (let s := geo fun g => { g with frozen := true }
     ok (exec (wr 0x321100 4 7) s) fun t => t.flow 2 == s.flow 2 && (t.hdr (.flow 2)).errCnt == 1) &&
    (let s := State.reset.setHdr (.flow 2) { pstate := .off }
     ok (exec (wr 0x321100 4 7) s) fun t => t.flow 2 == s.flow 2 && (t.hdr (.flow 2)).errCnt == 1)) = true := by decide +kernel
theorem test_register_write_dev : ((ok (exec (wr 0x184 4 63) State.reset) fun t => t.dev.hopBudget == 63) &&
    (ok (exec (wr 0x184 4 0) State.reset) fun t => t.dev.hopBudget == 8 && (t.hdr .dev).errCnt == 1) &&
    gives (exec (wr 0x6000 4 1) State.reset) State.reset && (let s := geo fun g => { g with holder := none }
    s.leaderless .dev && gives (exec (wr 0x1C 4 1) s) s)) = true := by decide +kernel
/-- Virtual function 3 of port 0 of tenant 37 at the example of R473: engine 25's STOP_CNT at 0x2_9128. -/
def vfAt (t : Nat) : State := { State.reset with fns := [(3, { tenant := t })], engines := [(25, { tenant := 37 })] }
theorem test_register_write_vf : (((vfAt 37).fn 0 3).tenant == 37 && (vfAt 37).takes (.engine 25) && (ok (exec (wr 0x29128 8 9 3) (vfAt 37)) fun t =>
    (t.eng 25).stopCnt == 9) && ok (exec (wr 0x29128 8 9 3) (vfAt 36)) fun t => (t.eng 25).stopCnt == 0 &&
    (t.hdr (.engine 25)).errCnt == 1) = true := by decide +kernel
def ctlMsg (num : Word32) : Instr := .controlMessage 2 .W num { port := 0, fn := 0, off := 0x48001C, size := 4, val := 0x155 }
theorem test_control_message : (mseqOld 1 ((State.reset.gal 2).mseq .W) == false && Page.ofKey 0x480 == some (.gallery 2) && (Page.gallery 2).supervisor == some 2 &&
    match exec (ctlMsg 1) State.reset with
    | .next t => (t.gal 2).mseq .W == 1 && (t.hdr (.gallery 2)).irqEn == 0x100 && mseqOld 1 ((t.gal 2).mseq .W) && gives (exec (ctlMsg 1) t) t
    | _ => false) = true := by decide +kernel
theorem test_rc_read : (let s := { State.reset with galleries := [(2, { sumpLost := 9, sumpLostFlag := true })] }
  (ok (exec (.rcRead 0 0 0x4801C4 4) s) fun t => t.lastRead == 9 && (t.gal 2).sumpLost == 0 && !(t.gal 2).sumpLostFlag) &&
    ok (exec (.rcRead 0 0 0x184 4) s) fun t => t.lastRead == 8) = true := by decide +kernel
theorem test_blk_ver : (ok (exec (.rcRead 0 0 0x303004 4) State.reset) fun t => t.lastRead == 0x010000B0) = true := by decide +kernel
theorem test_helper_far_load : (let s := { hAt {} with mem := memPut [] 0 (hpDpa 0 0x804) [0xFE, 0xFF, 0xFF, 0xFF] }
  s.helperFree 0 && (ok (exec (.helperFarAccess 0 0x804 4 none 5 true true) s) fun t => (t.helper 0).xr 5 == 0xFFFFFFFFFFFFFFFE && (t.helper 0).pc == 0x42) &&
    ok (exec (.helperFarAccess 0 0x804 4 none 5 false false) s) fun t => (t.helper 0).xr 5 == 0xFFFFFFFE && (t.helper 0).pc == 0x44) = true := by decide +kernel
theorem test_helper_far_store : ((ok (exec (.helperFarAccess 0 0x900 2 (some 0x1234) 0 false false) (hAt {})) fun t => t.bytes (hpDpa 0 0x900) 4 == [0x34, 0x12, 0, 0]) &&
    ok (exec (.helperFarAccess 0 0x80001 2 (some 0x1234) 0 false false) (hAt { csr := [(0x305, 0x103)] })) fun t => (t.helper 0).pc == 0x100 &&
      (t.helper 0).csrOf 0x342 == 7 && (t.helper 0).csrOf 0x343 == 0x80001 && (t.helper 0).csrOf 0x341 == 0x40) = true := by decide +kernel

/-! ## Steps, reset, the stated values of R32 -/

theorem test_step : (gives (step { State.reset with pending := [.bypass, .highz] }) (match exec .bypass { State.reset with pending := [.highz] } with
    | .next t => t | _ => State.reset)) = true := by decide +kernel
theorem test_step_idle : step State.reset = .next State.reset.idleCycle := rfl
theorem test_tick : (State.reset.tick.cyc 0 == State.reset.cyc 0 + 1 && State.reset.tick.cyc 113 == State.reset.cyc 113 + 1) = true := by decide +kernel
theorem test_reset : (memWf 0 State.reset.mem && State.reset.readReg .dev 0x198 == 125000 && State.reset.readReg (.flow 3) 0x100 == 12) = true := by
  decide +kernel
theorem test_redc : (redc (14 * 39) 97 6656041676080766047 (2 ^ 64) == 1 && (6656041676080766047 * 97 + 1) % 2 ^ 64 == 0) = true := by decide +kernel
/-- The engine of the frames' statement, at an MADD: exec answers a next state. -/
theorem test_frame_engine : (ok (exec (.madd 0) (at1 (iw 0x10 2 0 1 0 0 0))) fun t => (t.eng 1) == {}) = true := by decide +kernel
/-! ## Well-formedness: an ill-formed command of each check -/

def acc3 : Access := { port := 0, fn := 0, off := 0, size := 3, val := 0 }
def fr (len : Nat) (data : Option Bytes) : FlowReq := { dpa := 0, len := len, hint := 0, data := data, errs := [] }
def fh : FlitHdr := { vc := false, ttl := 1, dest := 0, src := 0, bsn := 0, lseq := 0 }
theorem test_wf_refuses : ([Instr.registerWrite acc3, .controlMessage 0 .W 0 acc3, .dbgWinRead 0 0 0 0 2, .dbgWinRead 0 0 0 4 8, .flowRequest 0 (fr 0 none),
    .flowRequest 0 (fr 2 (some [1])), .patrolScrub 0 (2 ^ 30) [], .bar2Access 0 0 0 0 none, .bar2Access 0 0 0 2 (some [1]), .write 0 fh 0 0 0 0 [],
    .write 0 fh 0 0 0 0 (zeros 481), .ident 0 (.nonce [1]), .helperFarAccess 0 0 3 none 0 false false, .rcRead 0 0 0 2].any Instr.wf) = false := by
  decide +kernel
theorem test_wf_admits : ([wr 0x184 4 1, .controlMessage 0 .W 1 acc3, .dbgWinRead 0 0 0 8 8, .flowRequest 0 (fr 1 (some [1])), .patrolScrub 0 5 [], .bar2Access 0 0 0 1 none,
    .write 0 fh 0 0 0 0 (zeros 480), .ident 0 (.nonce (zeros 32)), .helperFarAccess 0 0 8 none 0 false false, .rcRead 0 0 0 8].all Instr.wf) = true := by
  decide +kernel
/-- KSEND.QUEUE2.REPLY x7, x1, x2; KRECV x7, x1 of reply queue 3; KTEMIT x7, x1, x2; KHRET: the words of R323, field by field. -/
theorem test_decode_xkmsg : (([0b000010_1_00010_00001_000_00111_0001011, 0b000011_1_00000_00001_001_00111_0001011, 0b000000_0_00010_00001_010_00111_0001011,
    0b000000_0_00000_00000_011_00000_0001011].map (decodeTableWord 32)) ==
    [some (.ksend 0 7 1 2 2 true), some (.krecv 0 7 1 3 true), some (.ktemit 0 7 1 2), some (.khret 0)]) = true := by decide +kernel
/-- A reserved bit, a KTEMIT with a queue, another opcode: no command. -/
theorem test_decode_refuses : (([0b000110_1_00010_00001_000_00111_0001011, 0b000001_0_00010_00001_010_00111_0001011, 0b000000_0_00010_00001_100_00111_0001011,
    0x13].all fun w => (decodeTableWord 32 w).isNone) && (decodeTableWord 8 0).isNone && State.reset.withFetchWord 8 0 == State.reset) = true := by
  decide +kernel

/-! ## Further clauses of the statements -/

/-- A write of TILE_CFG waits behind one that waits, and behind a stream that reaches the tile. -/
theorem test_tile_cfg_write_waits : (let s := withEngine { (running []) with st := .stopped, cfgW := [(3, 0)] }
  let m := ((moveAt 0).needEnt 0 1).getD (moveAt 0)
  let u := m.setEng 0 { m.eng 0 with st := .stopped }
  s.takes (.engine 0) && gives (exec (.tileCfgWrite 0 0 0 6 cfgWord) s) (s.setEng 0 { s.eng 0 with cfgW := [(3, 0), (6, cfgWord.toNat)] }) &&
    u.streamRef 0 ((u.eng 0).replaced 1 (cfgOfWord cfgWord.toNat)) &&
    gives (exec (.tileCfgWrite 0 0 0 1 cfgWord) u) (u.setEng 0 { u.eng 0 with cfgW := [(1, cfgWord.toNat)] })) = true := by decide +kernel
theorem test_engine_stopped_now : (let s := withEngine { running [] with stopNow := true, stopCnt := 3, retired := 5, issued := 5 }
  gives (exec (.engineStopped 0) s) (s.setEng 0 { s.eng 0 with st := .stopped, stopNow := false })) = true := by decide +kernel

/-- A MOVE of eight elements, tile 1 to tile 2, with no EMIT after it. -/
def moveTile : State :=
  slotAt ((running []).putElems 1 8 0 [1, 2, 3, 4, 5, 6, 7, 8]) [moveWord 0, srcTile] { src := some (.tile 1 0), dst := some (.tile 2 0) }
theorem test_move_tiles : (match moveTile.needEnt 0 1 with
    | some s1 => let x := s1.slotOf 0 1
      let w := x.instr
      x.st == .running && x.ends.isNone && x.pos.isNone && x.emits == [] && mvGate w == 0 && (match s1.moveCheck 0 x with
      | (s2, .ok (a, b)) => a == .tf 512 && b == .tf 1024 &&
          !(clash a b (hull ((List.range x.total).map fun k => spanOf (mvEs w) (x.srcIdx w k 0)))
            (hull ((List.range x.total).map fun k => (x.dstIdx w k * mvEs w, mvRun w * mvEs w)))) &&
          ok (exec (.move 0 1) moveTile) fun t => t.mem == s2.mem && (t.eng 0).tf ==
            (List.range x.total).foldl (fun m k => memPut m 0 (1024 + x.dstIdx w k * mvEs w)
              ((x.srcIdx w k 0).flatMap fun r => memRun (s2.eng 0).tf 0 (512 + r * mvEs w) (mvEs w))) (s2.eng 0).tf
      | _ => false)
    | none => false) = true := by decide +kernel
/-- The hypotheses of a MOVE's stretch that ends. -/
def stretchEnds (s : State) : Bool :=
  match s.needEnt 0 1 with
  | some s1 => let x := s1.slotOf 0 1
    let p := x.pos.getD {}
    let t1 := x.stretch x.total (x.iter p)
    match s1.moveCheck 0 x with
    | (s2, .ok (a, b)) =>
      let s3 := s2.setSlotOf 0 1 { s2.slotOf 0 1 with ends := some (a, b), pos := some p }
      (match s3.moveData 0 1 a b (x.iter p) p.o t1 with
       | (_, _, .done) => s3.mayOpen 0 1
       | _ => false)
    | _ => false
  | none => false
theorem wit_move_stretch : (stretchEnds (moveAt 0) && stretchEnds moveFar) = true := by decide +kernel
theorem test_move_draining : (let s := (moveAt 0).setSlotOf 0 1 { (moveAt 0).slotOf 0 1 with st := .draining }
  s.slotReady 0 1 6 && (s.needEnt 0 1).isSome && ok (exec (.move 0 1) s) fun t => (t.eng 0).tf == (s.eng 0).tf && t.mem == s.mem && (t.slotOf 0 1).pc == 2 &&
    ((t.slotOf 0 1).out.map fun m => m.tok.poison) == [true]) = true := by decide +kernel
/-- A draining slot at its gate takes its token and drains on. -/
theorem test_slot_gate_draining : (let s := (parked false).setSlotOf 0 1 { (parked false).slotOf 0 1 with st := .draining }
  (s.slotOf 0 1).waits && (s.q14For 0 1).isSome && ok (exec (.slotGateResume 0 1) s) fun t => (t.slotOf 0 1).st == .draining && (t.slotOf 0 1).passed &&
    (t.eng 0).queue 14 == []) = true := by decide +kernel
/-- An EMIT towards the window of a device goes out as a TOKEN of the slot's transfer. -/
def emitFar : State := linked (slotAt (running []) [emitWord, srcTile] { dst := some (.rwin 6 3 0) })
theorem test_emit_far : (emitFar.slotReady 0 1 7 && (match emitFar.needEnt 0 1 with
    | some s1 => s1.mayOpen 0 1
    | none => false) && ok (exec (.emit 0 1) emitFar) fun t => (t.slotOf 0 1).pc == 1) = true := by decide +kernel

/-- The hypotheses of a fill's delivery. -/
def fillDue (s : State) : Bool :=
  match (s.slotOf 0 1).kf with
  | some k => s.kfLive 0 1 k && k.due.isEmpty && s.ringTile 0 1 k == 4 && (k.cur == some 4 || (s.eng 0).ringEmpty 4)
  | none => false
theorem wit_key_fill : fillDue kfRun = true := by decide +kernel
/-- A fill assembled ahead, good or failed. -/
def kfAsm (bad : Option Code) : State :=
  kfRun.setSlotOf 0 1 { kfRun.slotOf 0 1 with kf := (kfRun.slotOf 0 1).kf.map fun k => { k with asm := [{ loc := k.hdrVa, tag := 0x55, vals := [3, 1, 4], bad := bad }] } }
theorem test_key_fill_assembled : (fillDue (kfAsm none) && (ok (exec (.keyFillDeliver 0 1) (kfAsm none)) fun t => ((t.eng 0).tile 4).kst == .full &&
    ((t.eng 0).tile 4).tag == 0x55 && (t.eng 0).elems 4 8 0 3 == [3, 1, 4] && (t.slotOf 0 1).kf.any fun k => k.next == 1 && k.due == [⟨0, false⟩]) &&
    ok (exec (.keyFillDeliver 0 1) (kfAsm (some .eccUncorrectable))) fun t => ((t.eng 0).tile 4).kst == .empty &&
      (t.slotOf 0 1).kf.any fun k => k.next == 1 && k.due == [⟨0, true⟩]) = true := by decide +kernel

/-- SQZ with another instruction after it. -/
def sqzMore (s : State) : State :=
  s.setSlotOf 0 1 { s.slotOf 0 1 with words := BitVec.ofNat 64 (slotHdr 2) :: ((s.slotOf 0 1).words.drop 1 ++ [BitVec.ofNat 64 srcTile]) }
theorem test_sqz_result : (let s := sqzMore sqzAt
  s.slotReady 0 1 0xA && match s.needEnt 0 1 with
  | some s1 => let x := s1.slotOf 0 1
    let h := x.ent.getD 0
    x.st == .running && x.pos.isNone && decide (x.pc + 1 < x.ninstr) && !s1.sqzBusy 0 1 && (match s1.sqzConvert 0 1 with
    | (s2, some (a, d, b)) =>
      (match (s2.setXfer 0 h { s2.xfer 0 h with src := some (a, d), out := some (b, d) }).sqzGo 0 (sqzBodies d) a b (sqzBodies d).total 0 with
       | (s3, none) =>
         (match s3.drawn.descAt 0 b (sqzDesc d (s3.cmdSeq 0)) with
          | (s4, none) => ok (exec (.sqz 0 1) s) fun t => t.mem == s4.mem && (t.slotOf 0 1).pc == 1 && (t.slotOf 0 1).pos.isNone
          | _ => false)
       | _ => false)
    | _ => false)
  | none => false) = true := by decide +kernel
theorem test_sqz_trans_result : (let s := sqzMore transAt
  s.slotReady 0 1 0xA && match s.needEnt 0 1 with
  | some s1 => !s1.sqzBusy 0 1 && (match s1.sqzTrans 0 1 with
    | (s2, some (a, b)) =>
      (match (s2.setSlotOf 0 1 { s2.slotOf 0 1 with ends := some (a, b) }).sqzGo 0
          { es := 4, total := 6, src := fun k => 4 * k, dst := fun k => 4 * (k % 3 * 2 + k / 3) } a b 6 0 with
       | (s3, none) => ok (exec (.sqz 0 1) s) fun t => t.mem == s3.mem && (t.slotOf 0 1).pc == 1
       | _ => false)
    | _ => false)
  | none => false) = true := by decide +kernel
/-- Slot 2's SQZ is half done: slot 1's waits with its entry. -/
theorem test_sqz_waits : (let y := (sqzMore transAt).slotOf 0 1
  let s := (sqzMore transAt).setSlotOf 0 2 { y with st := .halted, pos := some {} }
  match s.needEnt 0 1 with
  | some s1 => s1.sqzBusy 0 1 && (s1.slotOf 0 1).ent.isSome && gives (exec (.sqz 0 1) s) s1
  | none => false) = true := by decide +kernel

/-- A ring restarted since its entry was read: the head stays; no acknowledgement leaves where the ring was reset. -/
def stalePend (q : Sq) : State :=
  let s := { pendAt with journal := { pendAt.journal with pend := pendAt.journal.pend.map fun (p : Nat × Pend) => (p.1, { p.2 with stale := true }) } }
  s.putSq 0 0 2 q
theorem test_command_accept_stale : (((stalePend { sqRun with head := 0 }).pendOf 0).any (fun p => p.stale) &&
    (ok (exec (.commandAccept 0) (stalePend { sqRun with head := 0 })) fun t => (t.sqOf 0 0 2).head == 0 && (t.sqOf 0 0 2).next == 10 &&
      memRun t.hostOut 0 0x500 16 == leBytes 8 9 ++ leBytes 4 0 ++ zeros 4 && t.hostReq == (0, 0, false)) &&
    ok (exec (.commandAccept 0) (stalePend { next := 9 })) fun t => (t.sqOf 0 0 2).next == 10 && t.hostOut == []) = true := by decide +kernel
theorem wit_completion_post : (!committed.unserved 0 && !committed.scanHolds .W && !committed.journal.foBusy && !(committed.sqOf 0 0 2).lostStop &&
    (committed.sqOf 0 0 2).jumps.isEmpty && ((committed.sqOf 0 0 2).nextPost.map BitVec.toNat).getD 9 == 9 && (committed.slotJ 0).seq == 9 &&
    ok (exec (.completionPost 0 false) committed) fun t => t.msix.contains (0, 0, 0)) = true := by decide +kernel
/-- A takeover of port 0 waits while an entry of it is in acceptance. -/
theorem test_journal_takeover_waits : (let s := { paired with journal := { paired.journal with slots := [(0, { ring := 2 })], pend := [(0, { refusal := .ok, argsDpa := 0 })] } }
  s.takes .journal && s.acceptsOn 0 && ok (exec (.journalTakeover 1 0x80000000) s) fun t => t.journal.foBusy && t.journal.foFrom == 0) = true := by
  decide +kernel
/-- The slot of a command that was posting, in both copies. -/
def postingAt : State :=
  let x : JSlot := { committed.slotJ 0 with st := .posting }
  let s := { committed with journal := { baseB := 0x4000000000, restart := true } }
  { s with mem := memPut (memPut s.mem 0 0 x.image) 0 0x4000000000 x.image }
theorem test_scan_slot : ((match postingAt.readSlot 0 with
    | (_, .ok x) => x.st == .posting && ((postingAt.scanSlot 0).slotJ 0).st == .posted && ((postingAt.scanSlot 0).slotJ 0).entry == x.entry
    | _ => false) &&
    match committed.readSlot 0 with
    | (_, .lost) => (committed.scanSlot 0).slotJ 0 == {}
    | _ => false) = true := by decide +kernel
/-- SEQ 8 of ring 2 lost both copies of its slot: the abort commits it. -/
theorem wit_cmd_abort_lost : (let s := host { sqRun with nextPost := some 8, lostStop := true } cqRun []
  s.takes (.mgmt .W) && s.slotOfSeq 0 0 2 8 == none && s.nextSlot == some 0 && (s.sqOf 0 0 2).lostStop && (s.sqOf 0 0 2).nextPost == some 8 &&
    fld (abortVal 8).toNat 0 48 == 8 && !(s.mgmt .W).abortBusy && !s.journal.foBusy && !s.geode.scan) = true := by decide +kernel

/-- VMV with a matrix of one row in the scratchpad at S2: 5·(10, 2) mod 97, the accumulator at S3 from zero. -/
theorem test_vmv_matrix : (let w := vw 0x28 3 1 2 6 (1 <<< 10)
  (match (vecAt w).vecRows 0 0 0 8 0x140 0 16 [0] with | (s1, rows, f) => s1 == vecAt w && rows == [[10, 2]] && f.isNone) &&
    (match (vecAt w).vecSpan 0 0 0x200 8 0 1 16, (vecAt w).vecSpan 0 0 0x100 8 0 1 8, (vecAt w).vecSp 0 0 0x140 8 16 with
     | .ok accs, .ok digs, .ok m => accs == [hpDpa 0 0x200] && digs == [hpDpa 0 0x100] && m == hpDpa 0 0x140
     | _, _, _ => false) && vgo (.vmv 0) 0x28 w fun t => vres t == [50, 10]) = true := by decide +kernel
/-- A KTEMIT that has waited for room in Q13 as long as the limit. -/
theorem test_ktemit_expires : (let full : Token := ⟨0, false⟩
  let s : State := { hAt { ktWait := some (1, 13, ⟨0x42, true⟩, 7) } with
    cycles := [(epIsland 4, 0x1000)], engines := [(1, { st := .running, queues := [(13, List.replicate 16 full)] })] }
  s.tokWaits 1 13 && decide ((s.msg 4).sendWaitLimit ≤ s.cyc (epIsland 4) - (s.helper 0).ktAt) && ok (exec (.sendWaitExpire 4 2) s) fun t =>
    (t.helper 0).ktWait.isNone && (t.helper 0).xr 7 == BitVec.ofNat 64 Code.queueWouldBlock.num && (t.helper 0).pc == 0x44) = true := by decide +kernel
/-- The check value of CRC-64 with the polynomial of ECMA-182: of the bytes "123456789". -/
theorem test_crc64 : crc64 [0x31, 0x32, 0x33, 0x34, 0x35, 0x36, 0x37, 0x38, 0x39] = 0x6C40DF5F0B497347#64 := by decide +kernel
/-- The header of R389, field by field. -/
theorem test_flit_word : (let h : FlitHdr := { vc := true, ttl := 9, dest := 5, src := 6, bsn := 7, lseq := 3 }
  flitWord tyRelease h == 0b0101_1_001001_000000000101_000000000110_0000000000000111_000000000011_0 && flitHdrOf (flitWord tyRelease h) == h &&
    (flitBody { type := tyRelease, hdr := h, payload := releasePayload 6 4 }).length == 504 && flitCmd 3 [1] == some (.flitCrcFail 3)) = true := by
  decide +kernel

end Sys2Proof.Tests
end

/-! Register writes of a physical function through BAR0: how a write reaches its page, what it does there, and the write that waits (O52). -/

namespace Sys2Proof.RegisterWrites

open Sys2Proof Sys2Proof.Machine Sys2Proof.Laws

/-! ## The way of a write -/

theorem exec_registerWrite (a : Access) (s : State) : exec (.registerWrite a) s = .next (s.bar0Write a) := rfl

/-- A write behind a zero fill of its function's handle writes waits (R475). -/
theorem registerWrite_of_behindFill {s : State} {a : Access} (h : s.behindFill a.port a.fn = true) :
    exec (.registerWrite a) s = .next (s.waitFill a) := by
  simp [exec_registerWrite, State.bar0Write, State.waitsFill, h]

/-- A write that waits is one more write that waits. -/
theorem waitFill_ne (s : State) (a : Access) : s.waitFill a ≠ s := fun h => by
  simpa [State.waitFill] using congrArg (fun t => t.dev.waitW.length) h

/-- A write of a reserved page that waits for nothing is ignored (R472). -/
theorem registerWrite_reservedPage {s : State} {a : Access} (hs : s.behindFill a.port a.fn = false) (hp : pageAt a.port a.fn a.off = none)
    (hok : accessOk a.off a.size = true) : exec (.registerWrite a) s = .next s := by
  simp [exec_registerWrite, State.bar0Write, State.waitsFill, State.bar0Put, entryAt, hs, hp, hok]

/-- A write of a page that waits for nothing goes on to the page, with a message where a gallery's supervisor applies it. -/
theorem registerWrite_direct {s : State} {a : Access} {p : Page} (hs : s.direct a.port a.fn) (hp : pageAt a.port a.fn a.off = some p)
    (hheld : s.heldPage p = false) (hent : entryAt (some p) (a.off % 4096) = none) :
    exec (.registerWrite a) s = .next (s.bar0Put a fun u q => u.sendMessage (s.entry a.port) q) := by
  obtain ⟨hfill, hwait⟩ := hs
  simp [exec_registerWrite, State.bar0Write, State.waitsFill, hp, hfill, hent, hheld, hwait]

/-- A write by the physical function of a port: `size` bytes at offset o of page k. -/
def pfWrite (k : Nat) (port : Fin 2) (val : Word64) (o size : Nat) : Instr :=
  .registerWrite { port := port, fn := 0, off := 4096 * k + o, size := size, val := val }

/-- The value that a write of a register of `size` bytes carries. -/
def written (size : Nat) (val : Word64) : Word64 := if size = 4 then (val.setWidth 32).setWidth 64 else val

/-! ## What the message and the header keep -/

theorem hdr_of_within {ps : List Part} {s t : State} (h : Within ps s t) (hps : ps.contains .hdrs = false) (q : Page) : t.hdr q = s.hdr q := by
  rw [State.hdr, h.eq_hdrs hps, State.hdr]

@[simp] theorem sendMessage_hdr (s : State) (c : Ctl) (p q : Page) : (s.sendMessage c p).hdr q = s.hdr q :=
  hdr_of_within (State.sendMessage_within s c p) rfl q

@[simp] theorem sendMessage_mem (s : State) (c : Ctl) (p : Page) : (s.sendMessage c p).mem = s.mem := (State.sendMessage_within s c p).eq_mem rfl

@[simp] theorem sendMessage_geode (s : State) (c : Ctl) (p : Page) : (s.sendMessage c p).geode = s.geode :=
  (State.sendMessage_within s c p).eq_geode rfl

@[simp] theorem sendMessage_leaderless (s : State) (c : Ctl) (p q : Page) : (s.sendMessage c p).leaderless q = s.leaderless q := by
  simp [State.leaderless]

theorem sendMessage_of_no_supervisor {p : Page} (h : p.supervisor = none) (s : State) (c : Ctl) : s.sendMessage c p = s := by
  simp [State.sendMessage, h]

/-- Only interrupt messages follow the write of a header. -/
theorem putHdr_within_msix (s : State) (p : Page) (h : Hdr) : Within [.msix] (s.setHdr p h) (s.putHdr p h) :=
  Within.foldl (fun u q => by
    split
    · exact State.msixTo_within u q.1 q.2.1 0
    · exact Within.refl _ u) (Within.refl _ _)

@[simp] theorem putHdr_hdr (s : State) (p : Page) (h : Hdr) : (s.putHdr p h).hdr p = h :=
  (hdr_of_within (putHdr_within_msix s p h) rfl p).trans (setHdr_hdr s p h)

@[simp] theorem putHdr_mem (s : State) (p : Page) (h : Hdr) : (s.putHdr p h).mem = s.mem := (State.putHdr_within s p h).eq_mem rfl

/-! ## What a page's owner does with a write -/

/-- A header register takes a write at its owner (R462, R476). -/
theorem ownerPut_header {s : State} {p : Page} {o : Nat} (hf : s.geode.frozen = false) (hl : s.leaderless p = false) (ho : o < 0x100)
    (port fn : Nat) (v : Word64) : s.ownerPut port fn p o v = s.hdrPut p o (v.setWidth 32) := by
  simp [State.ownerPut, hf, hl, ho]

/-- A block register of a block that is not ON, or of any block in a freeze, is refused (R476, R483). -/
theorem ownerPut_refused {s : State} {p : Page} {o : Nat} (ho : 0x100 ≤ o) (hfo : frozenOk p o = false)
    (h : s.geode.frozen = true ∨ s.leaderless p = false ∧ s.blkOn p = false) (port fn : Nat) (v : Word64) :
    s.ownerPut port fn p o v = s.refuse p (if s.geode.frozen then .divergence else .badCommand) := by
  cases hf : s.geode.frozen with
  | true => simp [State.ownerPut, hf, hfo]
  | false =>
    obtain ⟨hl, hoff⟩ := h.resolve_left (by simp [hf])
    simp [State.ownerPut, hf, hl, hoff, Nat.not_lt.2 ho]

/-- A page that takes writes applies one of its own registers. -/
theorem ownerPut_takes {s : State} {p : Page} {o : Nat} (h : s.takes p = true) (ho : 0x100 ≤ o) (port fn : Nat) (v : Word64) :
    s.ownerPut port fn p o v = s.putReg port fn p o v := by
  simp only [State.takes, Bool.and_eq_true, Bool.not_eq_true'] at h
  obtain ⟨⟨⟨-, hf⟩, hl⟩, hon⟩ := h
  simp [State.ownerPut, hf, hl, hon, Nat.not_lt.2 ho]

/-- A read-only register of the header ignores a write (R10, R462). -/
theorem hdrPut_readOnly {o : Nat} (ho : o = 0x000 ∨ o = 0x004 ∨ o = 0x014 ∨ o = 0x028) (s : State) (p : Page) (v : Word32) :
    s.hdrPut p o v = s := by
  rcases ho with rfl | rfl | rfl | rfl <;> simp [State.hdrPut]

/-- A header after a write of v to IRQ_STS (clears where ones are written), IRQ_EN (takes the value) or IRQ_FRC (sets) (R468). -/
def irqWritten (h : Hdr) (o : Nat) (v : Word32) : Hdr :=
  match o with
  | 0x018 => { h with irqSts := h.irqSts &&& ~~~v }
  | 0x01C => { h with irqEn := v }
  | _ => { h with irqSts := h.irqSts ||| v }

/-- An interrupt register of the header takes the bits that the page defines. -/
theorem hdrPut_irq {o : Nat} (ho : o = 0x018 ∨ o = 0x01C ∨ o = 0x020) (s : State) (p : Page) (v : Word32) :
    s.hdrPut p o v = s.putHdr p (irqWritten (s.hdr p) o (v &&& p.irqBits)) := by
  rcases ho with rfl | rfl | rfl <;> rfl

/-! ## Registers, entries and rights of a page -/

/-- Every page has the common header's 4-byte registers (R462). -/
theorem regAt_header {o : Nat} (ho : o = 0x000 ∨ o = 0x004 ∨ o = 0x014 ∨ o = 0x018 ∨ o = 0x01C ∨ o = 0x020 ∨ o = 0x028) (p : Page) :
    p.regAt o = some (o, 4) := by
  rcases ho with rfl | rfl | rfl | rfl | rfl | rfl | rfl <;> rfl

theorem entryAt_of_lt {p : Page} {o : Nat} (ho : o < 0x800) : entryAt (some p) o = none := by
  cases p <;> simp [entryAt, Nat.not_le.2 ho]

theorem entryAt_of_no_supervisor {p : Page} (hp : p.supervisor = none) (o : Nat) : entryAt (some p) o = none := by
  cases p with
  | gallery g => simp [Page.supervisor] at hp
  | _ => rfl

/-- The holder of the epoch applies the writes of device-wide state itself (R474). -/
theorem supervisor_of_ofHolder {p : Page} (h : p.ofHolder = true) : p.supervisor = none := by
  cases p <;> simp [Page.ofHolder, Page.supervisor] at h ⊢

/-- The physical function has every right outside the mailboxes of the GEODE page (R461, R473). -/
theorem right_pf {p : Page} {o : Nat} (h : p ≠ .geode ∨ o < 0x100) (s : State) (port : Nat) (write : Bool) :
    s.right port 0 p o write = .served := by
  cases p <;> simp [State.right] at h ⊢
  omega

section Direct

variable {k o size : Nat} {p : Page} {port : Fin 2} {val : Word64} {s : State}
variable (hp : Page.ofKey k = some p) (hheld : s.heldPage p = false) (hs : s.direct port 0)
include hp hheld hs

/-- A served write that waits for nothing reaches the page's owner (R471, R474). -/
theorem pfWrite_served (ho : o < 4096) (hok : accessOk o size = true) (hreg : p.regAt o = some (o, size))
    (hent : entryAt (some p) o = none) (hr : s.right port 0 p o true = .served) :
    exec (pfWrite k port val o size) s =
      .next ((s.sendMessage (s.entry port) p).ownerPut port 0 p o (written size val)) := by
  have hdiv : (4096 * k + o) / 4096 = k := by omega
  have hmod : (4096 * k + o) % 4096 = o := by omega
  have hpage : pageAt port (0 : Fin 64) (4096 * k + o) = some p := by simp [pageAt, hdiv, hp]
  have hacc : accessOk (4096 * k + o) size = true := by
    simp only [accessOk, Bool.and_eq_true, Bool.or_eq_true, beq_iff_eq] at hok ⊢
    obtain ⟨rfl | rfl, halign⟩ := hok <;> omega
  rw [pfWrite, registerWrite_direct hs hpage hheld (by rwa [hmod])]
  simp only [Fin.val_zero] at hpage
  simp [State.bar0Put, hacc, hpage, hmod, hreg, hr, written]

/-- A write of a 4-byte header register reaches the header's owner. -/
theorem pfWrite_header (ho : o = 0x000 ∨ o = 0x004 ∨ o = 0x014 ∨ o = 0x018 ∨ o = 0x01C ∨ o = 0x020 ∨ o = 0x028) :
    exec (pfWrite k port val o 4) s = .next ((s.sendMessage (s.entry port) p).ownerPut port 0 p o ((val.setWidth 32).setWidth 64)) :=
  pfWrite_served hp hheld hs (by omega) (by rcases ho with rfl | rfl | rfl | rfl | rfl | rfl | rfl <;> rfl)
    (regAt_header ho p) (entryAt_of_lt (by omega)) (right_pf (.inr (by omega)) s port true)

/-- IRQ_STS, IRQ_EN and IRQ_FRC change the page's header as R468 gives and no byte of memory. -/
theorem pfWrite_irq (ho : o = 0x018 ∨ o = 0x01C ∨ o = 0x020) (hf : s.geode.frozen = false) (hl : s.leaderless p = false) :
    ∃ t, exec (pfWrite k port val o 4) s = .next t ∧ t.hdr p = irqWritten (s.hdr p) o (val.setWidth 32 &&& p.irqBits) ∧ t.mem = s.mem := by
  refine ⟨_, pfWrite_header hp hheld hs (by omega), ?_⟩
  rw [ownerPut_header (by simpa using hf) (by simpa using hl) (by omega), hdrPut_irq ho]
  simp

/-- A read-only header register of a page that no gallery's supervisor owns ignores a write. -/
theorem pfWrite_readOnlyHeader (ho : o = 0x000 ∨ o = 0x004 ∨ o = 0x014 ∨ o = 0x028) (hsup : p.supervisor = none)
    (hf : s.geode.frozen = false) (hl : s.leaderless p = false) : exec (pfWrite k port val o 4) s = .next s := by
  rw [pfWrite_header hp hheld hs (by omega), sendMessage_of_no_supervisor hsup, ownerPut_header hf hl (by omega), hdrPut_readOnly ho]

/-- Nobody applies a write of device-wide state while nobody holds the epoch (R474; log entry 104). -/
theorem pfWrite_leaderless (hf : s.geode.frozen = false) (hl : s.leaderless p = true) : exec (pfWrite k port val 0x01C 4) s = .next s := by
  have hsup : p.supervisor = none := supervisor_of_ofHolder (Bool.and_eq_true_iff.1 hl).1
  have hfo : frozenOk p 0x01C = false := by cases p <;> rfl
  rw [pfWrite_header hp hheld hs (by omega), sendMessage_of_no_supervisor hsup]
  simp [State.ownerPut, hf, hl, hfo]

/-- A block register of a block that is not ON, or of any block in a freeze, is refused as an error of the page (R476, R483). -/
theorem pfWrite_refused (hsup : p.supervisor = none) (ho : 0x100 ≤ o) (ho' : o < 4096) (hok : accessOk o size = true)
    (hreg : p.regAt o = some (o, size)) (hg : p ≠ .geode) (hfo : frozenOk p o = false)
    (h : s.geode.frozen = true ∨ s.leaderless p = false ∧ s.blkOn p = false) :
    exec (pfWrite k port val o size) s = .next (s.refuse p (if s.geode.frozen then .divergence else .badCommand)) := by
  rw [pfWrite_served hp hheld hs ho' hok hreg (entryAt_of_no_supervisor hsup o) (right_pf (.inl hg) s port true),
    sendMessage_of_no_supervisor hsup, ownerPut_refused ho hfo h]

end Direct

/-- HOP_BUDGET takes a value from 1 to 63 and discards 0 (R398). -/
theorem pfWrite_hopBudget {k : Nat} {port : Fin 2} {s : State} (hp : Page.ofKey k = some .dev) (hs : s.direct port 0)
    (ht : s.takes .dev = true) (val : Word64) :
    exec (pfWrite k port val 0x184 4) s = .next (if 1 ≤ fld (val.setWidth 32 : Word32).toNat 0 6
      then { s with dev := { s.dev with hopBudget := fld (val.setWidth 32 : Word32).toNat 0 6 } } else s.refuse .dev .badCommand) := by
  have h63 : ∀ n, fld n 0 6 ≤ 63 := fun n => Nat.le_of_lt_succ (Nat.mod_lt _ (by decide))
  have hn : ((val.setWidth 32).setWidth 64 : Word64).toNat = (val.setWidth 32 : Word32).toNat := by simp; omega
  rw [pfWrite_served hp rfl hs (by decide) rfl rfl rfl rfl, sendMessage_of_no_supervisor rfl, ownerPut_takes ht (by decide)]
  simp only [written, if_true, State.putReg, State.putDev, State.inRange, State.withDev, hn, h63, and_true]

/-! ## The write that waits -/

/-- Block 5 of engine 0's slice belongs to another tenant than 3. -/
def blockOfAnotherTenant : State := { State.reset with galleries := [(0, { tags := [(5, 9)] })] }

/-- A valid handle of tenant 3 for one block from block 5. -/
def handleOfBlock : Word64 := 0x8030000000050001

/-- The zero fill of port 1's write of entry 2 of engine 0 runs. -/
def fillingPort1 : State := State.reset.setGal 0 { tags := [(5, 9)], htNew := [(2, { val := handleOfBlock, port := 1, fn := 0 })] }

/-- HANDLE_WRITE through port 1 starts that zero fill (R275). -/
theorem handleWrite_fillingPort1 : exec (.handleWrite 1 0 0 2 handleOfBlock) blockOfAnotherTenant = .next fillingPort1 := rfl

/-- Port 1's function 0 writes the reserved page 6. -/
def reservedWritePort1 : Access := { port := 1, fn := 0, off := 0x6000, size := 4, val := 0 }

/-- Refutes O52: its last clause takes a write through any port, while its premise lets only the writes through `port` wait for nothing. Port
1's write of a reserved page waits behind the zero fill of port 1's handle write (R475), so the state is not as it was. For a write that waits
for nothing the clause is `registerWrite_reservedPage`; the other clauses are the theorems on `pfWrite`. -/
theorem not_registerWrites : ¬ Obligations.RegisterWrites := by
  unfold Obligations.RegisterWrites
  intro h
  have hdirect : fillingPort1.direct 0 0 := ⟨rfl, rfl⟩
  obtain ⟨-, -, -, -, hreserved⟩ := h 0 .dev 0 0 fillingPort1 rfl rfl hdirect
  have hignored := hreserved reservedWritePort1 rfl rfl rfl
  have hwaits : exec (.registerWrite reservedWritePort1) fillingPort1 = .next (fillingPort1.waitFill reservedWritePort1) :=
    registerWrite_of_behindFill rfl
  exact waitFill_ne _ _ (Host.Outcome.next.inj (hwaits.symm.trans hignored))

end Sys2Proof.RegisterWrites

/-! A step on an empty queue: only the tick of a cycle reaches the islands' counters (O2). -/

namespace Sys2Proof.EmptyQueue

open Sys2Proof Sys2Proof.Machine Sys2Proof.Laws

theorem step_of_empty {s : State} (h : s.pending = []) : step s = .next s.idleCycle := by simp [step, h]

/-- A table of the values of f reads f at a listed key. -/
theorem tget_map_of_mem {α : Type} (f : Nat → α) (d : α) {l : List Nat} {i : Nat} (h : i ∈ l) :
    tget (l.map fun k => (k, f k)) i d = f i := by
  induction l with
  | nil => simp at h
  | cons k l ih =>
    by_cases hk : k = i
    · simp [tget, hk]
    · simpa [tget, hk] using ih ((List.mem_cons.1 h).resolve_left (Ne.symm hk))

/-- A tick counts a cycle on each of the 114 islands (R25). -/
theorem tick_cyc (s : State) {i : Nat} (hi : i < 114) : s.tick.cyc i = s.cyc i + 1 :=
  tget_map_of_mem (fun k => s.cyc k + 1) 0 (List.mem_range.2 hi)

/-- A loop whose body keeps the counters keeps them. -/
theorem each_cycles (s : State) (n : Nat) {f : State → Nat → State} (hf : ∀ u k, (f u k).cycles = u.cycles) :
    (s.each n f).cycles = s.cycles :=
  List.foldlRecOn (motive := fun u => u.cycles = s.cycles) (List.range n) f rfl fun u hu k _ => (hf u k).trans hu

/-- Nothing that goes on in an idle cycle changes a counter once the cycle has been counted. -/
theorem idleCycle_cycles (s : State) : s.idleCycle.cycles = s.tick.cycles := by
  have hstarts : s.tick.pendingStarts.cycles = s.tick.cycles := (State.pendingStarts_within _).eq_cycles rfl
  have hvec : ∀ (v : State) (g : Nat), (if (v.vec g).run.isSome then v.event (.vec g) 1 1 else v).cycles = v.cycles := by
    intro v g
    split
    · exact (State.event_within _ _ _ _).eq_cycles rfl
    · rfl
  unfold State.idleCycle
  dsimp only
  split
  · rw [(State.destroyWaiting_within _).eq_cycles rfl, (State.unlockFinish_within _).eq_cycles rfl,
      (State.fillDrain_within _).eq_cycles rfl, (State.replayDrain_within _).eq_cycles rfl, (State.journalCycle_within _).eq_cycles rfl,
      each_cycles _ _ fun v k => (State.linkCycle_within v k).eq_cycles rfl, each_cycles _ _ hvec,
      each_cycles _ _ fun v k => (State.helperCycle_within v k).eq_cycles rfl,
      each_cycles _ _ fun v k => (State.engineCycle_within v k).eq_cycles rfl, hstarts]
  · exact hstarts

/-- Settles O2: a step on an empty queue is an idle cycle, whose tick alone reaches the counters. -/
theorem emptyQueueCountsACycle : Obligations.EmptyQueueCountsACycle := by
  unfold Obligations.EmptyQueueCountsACycle
  intro s hs
  refine ⟨s.idleCycle, step_of_empty hs, ((State.idleCycle_within s).eq_pending rfl).trans hs, fun i hi => ?_⟩
  calc s.idleCycle.cyc i = s.tick.cyc i := by rw [State.cyc, State.cyc, idleCycle_cycles]
    _ = s.cyc i + 1 := tick_cyc s hi

end Sys2Proof.EmptyQueue

/-! The instants that a home gallery's supervisor latches, and the dispatch of a RUN (O23). The engines of a run are set up one after the
other, and the messages that a change of tenant discards bring the other engines tokens at most. -/

namespace Sys2Proof.InstantsDispatch

open Sys2Proof Sys2Proof.Machine Sys2Proof.Laws

/-! ## The record of a slot -/

/-- Beside the memory's own state, writing a slot's record changes that record in the journal. -/
@[simp] theorem putSlot_journal (s : State) (n : Nat) (x : JSlot) : (s.putSlot n x).journal = (s.setSlotJ n x).journal := by
  have hwrite : ∀ (u : State) (a : Nat) (bs : Bytes), (u.devWrite 0 a bs).1.journal = u.journal := fun u a bs =>
    (State.devWrite_within u 0 a bs).eq_journal rfl
  unfold State.putSlot
  dsimp only
  split <;> split <;> simp only [hwrite]

@[simp] theorem putSlot_slotJ (s : State) (n : Nat) (x : JSlot) : (s.putSlot n x).slotJ n = x := by
  rw [State.slotJ, putSlot_journal]
  exact setSlotJ_slotJ s n x

@[simp] theorem putSlot_gal (s : State) (n : Nat) (x : JSlot) (g : Nat) : (s.putSlot n x).gal g = s.gal g := by
  rw [State.gal, (State.putSlot_within s n x).eq_galleries rfl, State.gal]

/-! ## The instants -/

/-- The acceptance instant of an accepted command is latched and recorded (R372). -/
theorem acceptanceNotice_accepted {s : State} {slot : Fin 8192} (hst : (s.slotJ slot).st = .accepted)
    (hnew : latched (s.gal (s.slotJ slot).home).tAccept slot = false) :
    let x := s.slotJ slot
    let g := s.gal x.home
    exec (.acceptanceNotice slot) s = .next ((s.setGal x.home { g with tAccept := tset g.tAccept slot (s.engCycles x.home) }).putSlot slot
      { x with tAccept := s.engCycles x.home }) := by
  show execAcceptanceNotice slot s = _
  simp [execAcceptanceNotice, hst, hnew]

/-- A refusal's acceptance instant is its start and its commit instant too (R372). -/
theorem acceptanceNotice_committed {s : State} {slot : Fin 8192} (hst : (s.slotJ slot).st = .committed)
    (hnew : latched (s.gal (s.slotJ slot).home).tAccept slot = false) :
    let x := s.slotJ slot
    let g := s.gal x.home
    let n := s.engCycles x.home
    exec (.acceptanceNotice slot) s = .next ((s.setGal x.home { g with
      tAccept := tset g.tAccept slot n, tStart := tset g.tStart slot n, tCommit := tset g.tCommit slot n }).putSlot slot
      { x with tAccept := n, tStart := n, tCommit := n }) := by
  show execAcceptanceNotice slot s = _
  simp [execAcceptanceNotice, hst, hnew]

/-- The start instant of a run with engines is latched once (R380). -/
theorem startNotice_latches {s : State} {slot : Fin 8192} {r : Run} (hr : tget s.journal.runs slot none = some r) (he : r.engines ≠ [])
    (hst : (s.slotJ slot).st = .accepted) (hheld : s.workHeld slot = false)
    (hnew : latched (s.gal (s.slotJ slot).home).tStart slot = false) :
    let x := s.slotJ slot
    let g := s.gal x.home
    exec (.startNotice slot) s = .next (s.setGal x.home { g with tStart := tset g.tStart slot (s.engCycles x.home) }) := by
  show execStartNotice slot s = _
  simp [execStartNotice, hr, he, hst, hheld, hnew]

/-- The commit instant is latched once, after the instants that come before it (R380). -/
theorem commitNotice_latches {s : State} {slot : Fin 8192} (hmay : s.mayCommit slot = true)
    (hacc : latched (s.gal (s.slotJ slot).home).tAccept slot = true)
    (hstart : ∀ r, tget s.journal.runs slot none = some r → r.engines ≠ [] → latched (s.gal (s.slotJ slot).home).tStart slot = true)
    (hnew : latched (s.gal (s.slotJ slot).home).tCommit slot = false) :
    let x := s.slotJ slot
    let g := s.gal x.home
    exec (.commitNotice slot) s = .next (s.setGal x.home { g with tCommit := tset g.tCommit slot (s.engCycles x.home) }) := by
  show execCommitNotice slot s = _
  cases hr : tget s.journal.runs slot none with
  | none => simp [execCommitNotice, hmay, hacc, hnew, hr]
  | some r =>
    have hstarted : (r.engines.isEmpty || latched (s.gal (s.slotJ slot).home).tStart slot) = true := by
      cases he : r.engines with
      | nil => rfl
      | cons e es => simp [hstart r hr (by simp [he])]
    simp only [execCommitNotice, hr, hmay, hacc, hnew, hstarted, Bool.not_true, Bool.false_eq_true, or_self, if_false]

section Tokens

/-! ## Engines that only get tokens -/

/-- Engine e differs from s to t in its token queues alone. -/
def OnlyTokens (e : Nat) (s t : State) : Prop := ∃ q, t.eng e = { s.eng e with queues := q }

variable {e : Nat} {s t u : State}

theorem OnlyTokens.of_eng (h : t.eng e = s.eng e) : OnlyTokens e s t := ⟨_, h⟩

theorem OnlyTokens.refl (e : Nat) (s : State) : OnlyTokens e s s := .of_eng rfl

theorem OnlyTokens.trans (h : OnlyTokens e s t) (h' : OnlyTokens e t u) : OnlyTokens e s u := by
  obtain ⟨_, h⟩ := h
  obtain ⟨q, h'⟩ := h'
  exact ⟨q, by rw [h', h]⟩

theorem OnlyTokens.of_within {ps : List Part} (h : Within ps s t) (hps : ps.contains .engines = false) : OnlyTokens e s t :=
  .of_eng (by rw [State.eng, h.eq_engines hps, State.eng])

theorem OnlyTokens.foldl {α : Type} {f : State → α → State} {l : List α} (h : OnlyTokens e s t)
    (hf : ∀ v a, a ∈ l → OnlyTokens e v (f v a)) : OnlyTokens e s (l.foldl f t) :=
  List.foldlRecOn (motive := OnlyTokens e s) l f h fun v hv a ha => hv.trans (hf v a ha)

/-! ## Messages bring an engine tokens and nothing else (R338) -/

theorem epToken_onlyTokens {ep : Nat} {q13 : Bool} {k : Token} (e : Nat) (h : s.epToken ep q13 k = some t) : OnlyTokens e s t := by
  simp only [State.epToken, Option.ite_none_left_eq_some, Option.some.injEq] at h
  obtain ⟨-, rfl⟩ := h
  by_cases he : e = epEngine ep
  · subst he
    exact ⟨_, setEng_eng _ _ _⟩
  · exact .of_eng (setEng_eng_other _ _ _ he)

theorem msgPop_onlyTokens (e : Nat) (s : State) (ep q : Nat) : OnlyTokens e s (s.msgPop ep q) :=
  .of_within (State.msgPop_within s ep q) rfl

/-- The head message leaves its queue where its token found room. -/
theorem epToken_msgPop_onlyTokens (e : Nat) (s : State) (ep q : Nat) (q13 : Bool) (k : Token) :
    OnlyTokens e s (match s.epToken ep q13 k with | some v => v.msgPop ep q | none => s) := by
  cases hk : s.epToken ep q13 k with
  | none => exact .refl e s
  | some v => exact (epToken_onlyTokens e hk).trans (msgPop_onlyTokens e v ep q)

theorem moveHead_onlyTokens (e : Nat) (s : State) (ep q : Nat) : OnlyTokens e s (s.moveHead ep q) := by
  unfold State.moveHead
  dsimp only
  split
  · exact .refl e s
  · split
    · exact .refl e s
    · split
      · exact epToken_msgPop_onlyTokens e s ep q _ _
      · split
        · exact .of_within (Within.after (State.msgPop_within _ _ _) (by rfl) (State.setFault_within _ _ _)) rfl
        · split
          · exact .refl e s
          · next hput =>
            exact (OnlyTokens.of_within (State.ringPut_within hput) rfl).trans
              ((OnlyTokens.of_eng (setMsg_eng _ _ _ _)).trans (epToken_msgPop_onlyTokens e _ ep q _ _))

theorem moveQueue_onlyTokens (e : Nat) (s : State) (ep q : Nat) : OnlyTokens e s (s.moveQueue ep q) := by
  unfold State.moveQueue
  split
  · exact .foldl (.refl e s) fun v _ _ => moveHead_onlyTokens e v ep q
  · exact .refl e s

theorem enqueue_onlyTokens (e : Nat) (s : State) (ep dst q h handler : Nat) (payload : Bytes) :
    OnlyTokens e s (s.enqueue ep dst q h handler payload) := by
  have hput : ∀ (v : State) (m : Msg), OnlyTokens e v ((v.setMsg dst m).moveQueue dst q) := fun v m =>
    (OnlyTokens.of_eng (setMsg_eng v dst m e)).trans (moveQueue_onlyTokens e _ dst q)
  unfold State.enqueue
  dsimp only
  split
  · split
    · next hring => exact (OnlyTokens.of_within (State.ringPutAt_within hring) rfl).trans (hput _ _)
    · exact .refl e s
  · exact hput _ _

theorem deliverReply_onlyTokens (e : Nat) (s : State) (ep dst c h : Nat) (payload : Bytes) :
    OnlyTokens e s (s.deliverReply ep dst c h payload) := by
  unfold State.deliverReply
  dsimp only
  split
  · exact .refl e s
  · split
    · exact .of_eng (setMsg_eng _ _ _ _)
    · exact (OnlyTokens.of_eng (setMsg_eng _ _ _ _)).trans (enqueue_onlyTokens e _ _ _ _ _ _ _)

theorem dropMessages_onlyTokens (e : Nat) (s : State) (ep : Nat) : OnlyTokens e s (s.dropMessages ep) := by
  unfold State.dropMessages
  dsimp only
  refine .foldl ?_ fun v c _ => .foldl (.refl e v) fun w m _ => ?_
  · exact (OnlyTokens.of_eng (setMsg_eng _ _ _ _)).trans (.of_within (State.countErrs_within _ _ _) rfl)
  split
  · exact (deliverReply_onlyTokens e _ _ _ _ _ _).trans (.of_within (State.drawn_within _) rfl)
  · exact .refl e w

/-! ## Setting up the engines of a run (R349, R362) -/

/-- A write of an engine's tenant leaves the other engines their state but tokens. -/
theorem engTenantPut_onlyTokens {d : Nat} (h : e ≠ d) (s : State) (tenant : Nat) : OnlyTokens e s (s.engTenantPut d tenant) := by
  unfold State.engTenantPut
  dsimp only
  split
  · exact .refl e s
  · exact (OnlyTokens.of_eng ((setEng_eng_other _ _ _ h).trans (setDrip_eng _ _ _ _))).trans (dropMessages_onlyTokens e _ _)

/-- The engine has been set up as launch engine i of slot n's command x: its program, its arguments, tenant and seed (R229, R362). -/
def SetUpFor (n : Nat) (x : JSlot) (i prog : Nat) (y : Engine) : Prop :=
  y.progBase = BitVec.ofNat 64 prog ∧ y.argBase = BitVec.ofNat 64 (x.args + 2048 * i) ∧ y.tenant = x.tenant ∧ y.rndSeed = x.seed ∧
    y.slot = some n ∧ y.launch = i

theorem SetUpFor.of_onlyTokens {n i prog : Nat} {x : JSlot} (h : SetUpFor n x i prog (s.eng e)) (h' : OnlyTokens e s t) :
    SetUpFor n x i prog (t.eng e) := by
  obtain ⟨q, h'⟩ := h'
  rw [h']
  exact h

theorem setUpEngine_setUpFor (s : State) (n : Nat) (x : JSlot) (i e prog simg : Nat) :
    SetUpFor n x i prog ((s.setUpEngine n x i e prog simg).eng e) := by
  simp [State.setUpEngine, State.loadNk, SetUpFor]

theorem setUpEngine_onlyTokens {d : Nat} (h : e ≠ d) (s : State) (n : Nat) (x : JSlot) (i prog simg : Nat) :
    OnlyTokens e s (s.setUpEngine n x i d prog simg) := by
  refine (engTenantPut_onlyTokens h s x.tenant).trans (.of_eng ?_)
  simp [State.setUpEngine, State.loadNk, setEng_eng_other _ _ _ h]

/-- The engines es are set up in order with the images imgs of slot n's command x. -/
def setUpAll (n : Nat) (x : JSlot) (es : List Nat) (imgs : List (Nat × Nat)) (s : State) : State :=
  ((List.range imgs.length).zip (es.zip imgs)).foldl (fun s v => s.setUpEngine n x v.1 v.2.1 v.2.2.1 v.2.2.2) s

theorem setUpAll_journal (n : Nat) (x : JSlot) (es : List Nat) (imgs : List (Nat × Nat)) (s : State) :
    (setUpAll n x es imgs s).journal = s.journal :=
  (Within.foldl (fun u _ => State.setUpEngine_within u n x _ _ _ _) (.refl _ s)).eq_journal rfl

theorem setUpAll_slotJ (n : Nat) (x : JSlot) (es : List Nat) (imgs : List (Nat × Nat)) (s : State) (k : Nat) :
    (setUpAll n x es imgs s).slotJ k = s.slotJ k := by
  rw [State.slotJ, setUpAll_journal, State.slotJ]

/-- Setting up engines that are all different, each keeps its own setup. -/
theorem setUpEngines_setUpFor (n : Nat) (x : JSlot) (l : List (Nat × Nat × Nat × Nat)) (s : State) (hl : (l.map fun v => v.2.1).Nodup)
    {v : Nat × Nat × Nat × Nat} (hv : v ∈ l) :
    SetUpFor n x v.1 v.2.2.1 ((l.foldl (fun s v => s.setUpEngine n x v.1 v.2.1 v.2.2.1 v.2.2.2) s).eng v.2.1) := by
  induction l generalizing s with
  | nil => simp at hv
  | cons w l ih =>
    obtain ⟨hw, hl⟩ := List.nodup_cons.1 hl
    rw [List.foldl_cons]
    rcases List.mem_cons.1 hv with rfl | hv
    · refine (setUpEngine_setUpFor s n x v.1 v.2.1 v.2.2.1 v.2.2.2).of_onlyTokens (.foldl (.refl _ _) fun u b hb => ?_)
      exact setUpEngine_onlyTokens (fun h => hw (List.mem_map.2 ⟨b, hb, h.symm⟩)) u n x _ _ _
    · exact ih _ hl hv

theorem setUpAll_setUpFor {es : List Nat} {imgs : List (Nat × Nat)} (hes : es.Nodup) (hlen : es.length ≤ imgs.length) (n : Nat) (x : JSlot)
    (s : State) {i e : Nat} {im : Nat × Nat} (he : es[i]? = some e) (him : imgs[i]? = some im) :
    SetUpFor n x i im.1 ((setUpAll n x es imgs s).eng e) := by
  have hpairs : ((List.range imgs.length).zip (es.zip imgs)).map Prod.snd = es.zip imgs := List.map_snd_zip (by simp)
  have hengines : (es.zip imgs).map Prod.fst = es := List.map_fst_zip hlen
  have hnodup : (((List.range imgs.length).zip (es.zip imgs)).map fun v => v.2.1).Nodup := by
    rw [← hengines, ← hpairs, List.map_map] at hes
    exact hes
  have hmem : (i, e, im) ∈ (List.range imgs.length).zip (es.zip imgs) := by
    obtain ⟨hi, -⟩ := List.getElem?_eq_some_iff.1 him
    refine List.mem_of_getElem? (i := i) ?_
    simp [List.getElem?_zip_eq_some, List.getElem?_range hi, he, him]
  exact setUpEngines_setUpFor n x _ s hnodup hmem

theorem idleIn_nodup (s : State) (g : Nat) : (s.idleIn g).Nodup :=
  (List.nodup_range.map fun _ _ h => Nat.add_left_cancel h).filter _

end Tokens

/-! ## Dispatch (R362, R365, R372) -/

/-- The command of a slot is a RUN that nothing keeps from being dispatched. -/
structure Dispatchable (s : State) (slot : Fin 8192) : Prop where
  accepted : (s.slotJ slot).st = .accepted
  isRun : (s.slotJ slot).opc = 1
  notRunning : tget s.journal.runs slot none = none
  notFrozen : s.geode.frozen = false
  hasHolder : s.geode.holder ≠ none
  notHeld : s.workHeld slot = false
  depMet : s.depMet (s.slotJ slot) = true

/-- A launch block that fails its check ends the run with its code, without an engine (R365). -/
theorem commandDispatch_error {s s1 : State} {slot : Fin 8192} {c : Code} (h : Dispatchable s slot)
    (hblock : s.launchBlock (s.slotJ slot) = (s1, .error c)) :
    exec (.commandDispatch slot) s = .next { s1 with journal := { s1.journal with
      runs := tset s1.journal.runs slot (some { gallery := (s.slotJ slot).home, engines := [], emap := false, fail := some c }) } } := by
  show execCommandDispatch slot s = _
  simp [execCommandDispatch, h.accepted, h.isRun, h.notRunning, h.notFrozen, h.hasHolder, h.notHeld, h.depMet, hblock]

/-- The record of a command counts one more dispatch, modulo its 16 bits (R371). -/
def onceMore (x : JSlot) : JSlot := { x with disp := (x.disp + 1) % 2 ^ 16 }

/-- The run r of slot n's command, whose record is now x, is known to the journal. -/
def withRun (s : State) (n : Nat) (x : JSlot) (r : Run) : State :=
  let t := s.putSlot n x
  { t with journal := { t.journal with runs := tset t.journal.runs n (some r) } }

/-- A gallery with enough idle working engines takes the run (R372). -/
theorem commandDispatch_ok {s s1 : State} {slot : Fin 8192} {emap : Bool} {imgs : List (Nat × Nat)} {g : Nat} (h : Dispatchable s slot)
    (hblock : s.launchBlock (s.slotJ slot) = (s1, .ok (emap, imgs)))
    (hgal : s1.runGallery (s.slotJ slot).home imgs.length = some g) :
    exec (.commandDispatch slot) s = .next (setUpAll slot (onceMore (s.slotJ slot)) ((s1.idleIn g).take imgs.length) imgs
      (withRun s1 slot (onceMore (s.slotJ slot)) { gallery := g, engines := (s1.idleIn g).take imgs.length, emap := emap })) := by
  show execCommandDispatch slot s = _
  simp [execCommandDispatch, h.accepted, h.isRun, h.notRunning, h.notFrozen, h.hasHolder, h.notHeld, h.depMet, hblock, hgal,
    setUpAll, withRun, onceMore]

@[simp] theorem withRun_slotJ (s : State) (n : Nat) (x : JSlot) (r : Run) : (withRun s n x r).slotJ n = x := putSlot_slotJ s n x

@[simp] theorem withRun_runs (s : State) (n : Nat) (x : JSlot) (r : Run) : tget (withRun s n x r).journal.runs n none = some r :=
  tget_tset_self _ _ _ _

/-- Settles O23: each instant is one write of the home gallery's table, and a dispatch sets up engines that are all different, so that no
setup undoes another. -/
theorem instantsAndDispatch : Obligations.InstantsAndDispatch := by
  unfold Obligations.InstantsAndDispatch
  refine ⟨fun slot s => ⟨?accept, fun r hr he hst hheld hnew => startNotice_latches hr he hst hheld hnew, commitNotice_latches⟩, ?dispatch⟩
  case accept =>
    rintro (hst | hst) hnew
    · exact ⟨_, acceptanceNotice_accepted hst hnew, by simp, by simp, by simp [hst]⟩
    · exact ⟨_, acceptanceNotice_committed hst hnew, by simp, by simp, by simp⟩
  case dispatch =>
    intro slot s s1 x hst hopc hrun hfrozen hholder hheld hdep
    have hready : Dispatchable s slot := ⟨hst, hopc, hrun, hfrozen, hholder, hheld, hdep⟩
    refine ⟨fun emap imgs g hblock hgal => ⟨_, commandDispatch_ok hready hblock hgal, ?_, ?_, fun i e im he him => ?_⟩,
      fun c hblock => ⟨_, _, commandDispatch_error hready hblock, tget_tset_self _ _ _ _, rfl, rfl⟩⟩
    · rw [setUpAll_slotJ, withRun_slotJ]
      rfl
    · rw [setUpAll_journal, withRun_runs]
    · exact setUpAll_setUpFor ((idleIn_nodup s1 g).take) (List.length_take_le _ _) slot (onceMore x) _ he him

end Sys2Proof.InstantsDispatch

/-! Montgomery reduction and the element-wise arithmetic on it (R32, R134; O9, O55). -/

namespace Sys2Proof.Reduction

open Sys2Proof Sys2Proof.Machine

/-- The u of R32, before its conditional subtraction. -/
def redcQuot (t q qneg R : Nat) : Nat := (t + t % R * qneg % R * q) / R

theorem redc_eq (t q qneg R : Nat) :
    redc t q qneg R = if q ≤ redcQuot t q qneg R then redcQuot t q qneg R - q else redcQuot t q qneg R := rfl

/-! ## REDC under a QNEG that is -q^(-1) mod R -/

section Montgomery

variable {q qneg R : Nat} (hneg : (qneg * q + 1) % R = 0)
include hneg

/-- The modulus is prime to the radix. -/
theorem coprime_radix : Nat.gcd q R = 1 := by
  have hprod : Nat.gcd q R ∣ qneg * q := (Nat.gcd_dvd_left q R).mul_left qneg
  have hsucc : Nat.gcd q R ∣ qneg * q + 1 := (Nat.gcd_dvd_right q R).trans (Nat.dvd_of_mod_eq_zero hneg)
  exact Nat.dvd_one.1 ((Nat.dvd_add_right hprod).1 hsucc)

/-- The multiple of q that R32 adds clears t's low part. -/
theorem radix_dvd_sum (t : Nat) : R ∣ t + t % R * qneg % R * q := by
  have hm : t % R * qneg % R ≡ t * qneg [MOD R] := (Nat.mod_modEq _ _).trans ((Nat.mod_modEq t R).mul_right qneg)
  have hsum : t + t % R * qneg % R * q ≡ 0 [MOD R] := calc
    t + t % R * qneg % R * q ≡ t + t * qneg * q [MOD R] := (hm.mul_right q).add_left t
    _ = t * (qneg * q + 1) := by ring
    _ ≡ t * 0 [MOD R] := ((Nat.modEq_zero_iff_dvd).2 (Nat.dvd_of_mod_eq_zero hneg)).mul_left t
    _ = 0 := Nat.mul_zero t
  exact (Nat.modEq_zero_iff_dvd).1 hsum

theorem redcQuot_mul_radix (t : Nat) : redcQuot t q qneg R * R = t + t % R * qneg % R * q :=
  Nat.div_mul_cancel (radix_dvd_sum hneg t)

/-- REDC divides by the radix modulo q. -/
theorem redc_mul_radix (t : Nat) : redc t q qneg R * R ≡ t [MOD q] := by
  have hquot : redcQuot t q qneg R * R ≡ t [MOD q] := by simp [redcQuot_mul_radix hneg, Nat.ModEq]
  rw [redc_eq]
  split
  · next hle =>
    have hsub : redcQuot t q qneg R - q ≡ redcQuot t q qneg R [MOD q] := (Nat.mod_eq_sub_mod hle).symm
    exact (hsub.mul_right R).trans hquot
  · exact hquot

/-- At most one residue below q times the radix is t modulo q. -/
theorem eq_of_mul_radix {u v t : Nat} (hu : u < q) (hv : v < q) (hut : u * R ≡ t [MOD q]) (hvt : v * R ≡ t [MOD q]) : v = u :=
  (Nat.ModEq.cancel_right_of_coprime (coprime_radix hneg) (hvt.trans hut.symm)).eq_of_lt_of_lt hv hu

end Montgomery

/-- Below q·R the quotient lies below 2·q, so that one subtraction suffices. -/
theorem redc_lt {t q qneg R : Nat} (ht : t < q * R) : redc t q qneg R < q := by
  have hR : 0 < R := Nat.pos_of_mul_pos_left (Nat.zero_lt_of_lt ht)
  have hq : 0 < q := Nat.pos_of_mul_pos_right (Nat.zero_lt_of_lt ht)
  have hmul : t % R * qneg % R * q < q * R := by
    rw [Nat.mul_comm q R]
    exact Nat.mul_lt_mul_of_pos_right (Nat.mod_lt _ hR) hq
  have hquot : redcQuot t q qneg R < 2 * q := Nat.div_lt_of_lt_mul (by linarith [Nat.mul_comm R (2 * q)])
  rw [redc_eq]
  split <;> omega

/-- Settles O55: the value of R32 lies below q, is t times the inverse of the radix, and no other residue is; the worked check follows, 1 being
a residue that does what REDC of it must. -/
theorem redcIsTheStatedReduction : Obligations.RedcIsTheStatedReduction := by
  unfold Obligations.RedcIsTheStatedReduction
  refine ⟨fun t q qneg R _ _ _ hneg ht => ⟨rfl, redc_lt ht, redc_mul_radix hneg t, fun v hv hvt =>
    eq_of_mul_radix hneg (redc_lt ht) hv (redc_mul_radix hneg t) hvt⟩, fun qneg _ hneg => ⟨rfl, rfl, ?_, rfl⟩, rfl, rfl⟩
  have hone : 1 * 2 ^ 64 ≡ 14 * 39 [MOD 97] := rfl
  exact (eq_of_mul_radix hneg (redc_lt (by decide)) (by decide) (redc_mul_radix hneg (14 * 39)) hone).symm

/-! ## The element-wise operations (R134) -/

theorem ewOp_add (c : Chain) (ent a b d : Nat) : ewOp c ent 0x10 a b d = (a + b) % c.q ent := rfl

theorem ewOp_sub (c : Chain) (ent a d : Nat) {b : Nat} (hb : b ≤ c.q ent) :
    ((ewOp c ent 0x11 a b d : Nat) : Int) = ((a : Int) - b) % c.q ent := by
  show (((a + (c.q ent - b)) % c.q ent : Nat) : Int) = _
  rw [Int.natCast_mod, Nat.cast_add, Nat.cast_sub hb, ← Int.add_emod_right ((a : Int) - b)]
  ring_nf

theorem ewOp_neg (c : Chain) (ent b d : Nat) {a : Nat} (ha : a ≤ c.q ent) :
    ((ewOp c ent 0x14 a b d : Nat) : Int) = (-(a : Int)) % c.q ent := by
  show (((c.q ent - a) % c.q ent : Nat) : Int) = _
  rw [Int.natCast_mod, Nat.cast_sub ha, ← Int.add_emod_right (-(a : Int))]
  ring_nf

section Product

variable {c : Chain} {ent a b : Nat} (hneg : ((c.ent ent).qneg * c.q ent + 1) % c.radix = 0)
include hneg

/-- MMUL multiplies Montgomery forms. -/
theorem ewOp_mul_radix (d : Nat) : ewOp c ent 0x12 a b d * c.radix ≡ a * b [MOD c.q ent] := redc_mul_radix hneg (a * b)

/-- MMAC adds a Montgomery form to the product of two. -/
theorem ewOp_mac_radix (d : Nat) : ewOp c ent 0x13 a b d * c.radix ≡ a * b + d * c.radix [MOD c.q ent] := calc
  ewOp c ent 0x13 a b d * c.radix ≡ (c.redc ent (a * b) + d) * c.radix [MOD c.q ent] := (Nat.mod_modEq _ _).mul_right _
  _ = c.redc ent (a * b) * c.radix + d * c.radix := Nat.add_mul _ _ _
  _ ≡ a * b + d * c.radix [MOD c.q ent] := (redc_mul_radix hneg (a * b)).add_right _

end Product

/-- Settles O9: differences by the integers' remainder, products by what REDC does. -/
theorem elementwiseArithmetic : Obligations.ElementwiseArithmetic := by
  unfold Obligations.ElementwiseArithmetic
  intro c ent a b d q hq _ hradix _ hneg ha hb _
  have hprod : a * b < q * c.radix := Nat.mul_lt_mul'' ha (by omega)
  exact ⟨ewOp_add c ent a b d, ewOp_sub c ent a d hb.le, ⟨redc_lt hprod, ewOp_mul_radix hneg d⟩,
    ⟨Nat.mod_lt _ (by omega), ewOp_mac_radix hneg d⟩, ewOp_neg c ent b d ha.le⟩

end Sys2Proof.Reduction

/-! Chain tables and the Drip's cores: SET, CLR and the end of a drain; the self-test, a core's parity error and CORE_EN (R36-R38, R218, R219,
R221, R477; O18). -/

namespace Sys2Proof.ChainDrip

open Sys2Proof Sys2Proof.Machine Sys2Proof.Laws

/-- A page that takes writes applies a permitted one. -/
theorem gate_takes {s : State} {p : Page} (h : s.takes p = true) (k : State → State) : s.gate p true k = k s := by
  simp only [State.takes, Bool.and_eq_true, Bool.not_eq_true'] at h
  obtain ⟨⟨⟨hheld, hfrozen⟩, hleader⟩, hon⟩ := h
  simp [State.gate, hheld, hfrozen, hleader, hon]

/-! ## The mask of one bit -/

theorem getLsbD_oneHot (w n m : Nat) : (BitVec.ofNat w (1 <<< n)).getLsbD m = decide (m < w ∧ m = n) := by
  rw [BitVec.getLsbD_ofNat, Nat.one_shiftLeft, Nat.testBit_two_pow, ← Bool.decide_and]
  exact decide_eq_decide.2 (and_congr_right fun _ => eq_comm)

theorem getLsbD_or_oneHot {w n : Nat} (hn : n < w) (x : BitVec w) : (x ||| BitVec.ofNat w (1 <<< n)).getLsbD n = true := by
  simp [getLsbD_oneHot, hn]

theorem getLsbD_or_oneHot_of_ne {w m n : Nat} (h : m ≠ n) (x : BitVec w) :
    (x ||| BitVec.ofNat w (1 <<< n)).getLsbD m = x.getLsbD m := by
  simp [getLsbD_oneHot, h]

theorem getLsbD_and_not_oneHot (w n : Nat) (x : BitVec w) : (x &&& ~~~BitVec.ofNat w (1 <<< n)).getLsbD n = false := by
  rw [BitVec.getLsbD_and, BitVec.getLsbD_not, getLsbD_oneHot]
  simp

theorem and_oneHot_ne_zero {w n : Nat} {x : BitVec w} (hx : x.getLsbD n = true) : x &&& BitVec.ofNat w (1 <<< n) ≠ 0 := fun h => by
  have hbit : (x &&& BitVec.ofNat w (1 <<< n)).getLsbD n = true := by
    rw [BitVec.getLsbD_and, hx, getLsbD_oneHot]
    simpa using BitVec.lt_of_getLsbD hx
  simp [h] at hbit

/-! ## Chains -/

section Set

variable {n : Fin 32} {s s1 : State} {b : Bytes}
variable (htakes : s.takes .dev = true) (hvalid : s.dev.chainValid.getLsbD n = false) (hbusy : s.dev.chainBusy.getLsbD n = false)
  (hhbm : inHbm (s.chainDpa n) 0x10000 = true) (hread : s.devRead 0 (s.chainDpa n) 0x10000 = (s1, .ok b)) (hok : chainTableOk b = true)
include htakes hvalid hbusy hhbm hread hok

/-- A table that passes is copied, and its chain becomes VALID (R36, R37). -/
theorem chainSet_of_tableOk : exec (.chainSet n) s = .next { s1 with dev := { s1.dev with
    chains := tset s1.dev.chains n (chainOfBytes b), chainValid := s1.dev.chainValid ||| BitVec.ofNat 32 (1 <<< n.val) } } := by
  show execChainSet n s = _
  simp only [execChainSet, gate_takes htakes, State.chainSet, hvalid, hbusy, hhbm, hread, hok, Bool.not_true, Bool.false_eq_true,
    or_false, if_false, if_true]

/-- SET changes no other chain's VALID bit, and memory only as the table's read does (R36). -/
theorem chainSet_makesValid : ∃ t, exec (.chainSet n) s = .next t ∧ t.dev.chainValid.getLsbD n = true ∧
    tget t.dev.chains n {} = chainOfBytes b ∧ t.mem = s1.mem ∧
    ∀ m, m < 32 → m ≠ n.val → t.dev.chainValid.getLsbD m = s.dev.chainValid.getLsbD m := by
  have hdev : s1.dev = s.dev := (Within.of_pair hread (State.devRead_within s 0 (s.chainDpa n) 0x10000)).eq_dev rfl
  refine ⟨_, chainSet_of_tableOk htakes hvalid hbusy hhbm hread hok, getLsbD_or_oneHot n.isLt _, tget_tset_self _ _ _ _, rfl,
    fun m _ hm => ?_⟩
  rw [← hdev]
  exact getLsbD_or_oneHot_of_ne hm _

end Set

/-! ## A table that passes -/

/-- A table of one split modulus, 12289, for N = 1024: header and entry 0. -/
def tableHead : Bytes :=
  [1, 1, 10, 1] ++ zeros 60 ++ [12289, 4143984639, 5664, 4803, 4599, 3755, 18446744073709545952].flatMap (leBytes 8)

/-- The whole table: nothing but zero bytes follows. -/
def oneModulusTable : Bytes := tableHead ++ zeros 65416

theorem length_oneModulusTable : oneModulusTable.length = 0x10000 := by
  rw [oneModulusTable, List.length_append, zeros, List.length_replicate]
  rfl

theorem drop_oneModulusTable {o : Nat} (ho : 120 ≤ o) : oneModulusTable.drop o = zeros (65416 - (o - 120)) := by
  have hlen : tableHead.length = 120 := rfl
  rw [oneModulusTable, List.drop_append, hlen, List.drop_eq_nil_of_le (hlen ▸ ho), zeros, List.drop_replicate]
  rfl

theorem ofLe_zeros (n : Nat) : ofLe (zeros n) = 0 := by
  induction n with
  | zero => rfl
  | succ n ih => simpa [zeros, List.replicate_succ, ofLe] using ih

theorem word8_oneModulusTable {o : Nat} (ho : 120 ≤ o) : word8 oneModulusTable o = 0 := by
  rw [word8, drop_oneModulusTable ho, zeros, List.take_replicate]
  exact ofLe_zeros _

theorem zeroAt_oneModulusTable {o : Nat} (ho : 120 ≤ o) (n : Nat) : zeroAt oneModulusTable o n = true := by
  simp [zeroAt, drop_oneModulusTable ho, zeros]

/-- Entry 0 alone is used. -/
theorem used_oneModulusTable (i : Nat) : (chainOfBytes oneModulusTable).used i = decide (i = 0) := by
  have hl : (chainOfBytes oneModulusTable).l = 1 := rfl
  have hk : (chainOfBytes oneModulusTable).k = 0 := rfl
  rw [Chain.used, hl, hk]
  split <;> exact decide_eq_decide.2 (by omega)

theorem invw_chainOfBytes (t : Bytes) {a b : Nat} (ha : a < 80) (hb : b < 80) :
    (chainOfBytes t).invw a b = word8 t (0x1440 + 8 * (80 * a + b)) := by
  have hmem : 80 * a + b ∈ List.range 6400 := List.mem_range.2 (by omega)
  simpa [Chain.invw, chainOfBytes] using EmptyQueue.tget_map_of_mem (fun i => word8 t (0x1440 + 8 * i)) 0 hmem

/-- One used modulus needs no conversion word. -/
theorem invOk_oneModulusTable {a b : Nat} (ha : a < 80) (hb : b < 80) : (chainOfBytes oneModulusTable).invOk a b = true := by
  have hword : (chainOfBytes oneModulusTable).invw a b = 0 :=
    (invw_chainOfBytes _ ha hb).trans (word8_oneModulusTable (by omega))
  have hunused : a = b ∨ !(chainOfBytes oneModulusTable).used a ∨ !(chainOfBytes oneModulusTable).used b := by
    simp only [used_oneModulusTable, Bool.not_eq_true', decide_eq_false_iff_not]
    omega
  rw [Chain.invOk, if_pos hunused, hword]
  rfl

theorem entOk_oneModulusTable : (chainOfBytes oneModulusTable).entOk 0 = true := by decide +kernel

/-- R36 admits the table. -/
theorem chainTableOk_oneModulusTable : chainTableOk oneModulusTable = true := by
  have hhead : zeroAt oneModulusTable 5 0x3B = true := by decide +kernel
  have htail : zeroAt oneModulusTable 0xDC40 0x23C0 = true := zeroAt_oneModulusTable (by decide) _
  simp only [chainTableOk, Bool.and_eq_true, List.all_eq_true, List.mem_range, used_oneModulusTable, hhead, htail, and_true]
  refine ⟨⟨⟨by decide +kernel, fun i _ => ?_⟩, fun i hi j hj => invOk_oneModulusTable hi hj⟩, fun i _ j hj => ?_⟩
  · by_cases hi : i = 0
    · simpa [hi, entOk_oneModulusTable] using zeroAt_oneModulusTable (o := 120) (by decide) 8
    · simpa [hi] using zeroAt_oneModulusTable (by omega) 64
  · have hi : i ≠ 0 := by omega
    simp [hi]

/-- The device after reset with that table as chain table 1. -/
def tableInHbm : State := { State.reset with mem := memPut [] 0 0x10000 oneModulusTable }

theorem chainDpa_tableInHbm : tableInHbm.chainDpa (1 : Fin 32) = 0x10000 := rfl

theorem devRead_tableInHbm : tableInHbm.devRead 0 (tableInHbm.chainDpa (1 : Fin 32)) 0x10000 =
    (tableInHbm.flowRun 0 0x10000 0x10000 false, .ok oneModulusTable) := by
  have hbytes : tableInHbm.bytes 0x10000 0x10000 = oneModulusTable := by
    have hrun := memRun_memPut [] 0 0x10000 oneModulusTable
    rwa [length_oneModulusTable] at hrun
  have hclean : tableInHbm.ueIn 0x10000 0x10000 = false := by
    simp [State.ueIn, tableInHbm, State.reset, State.hbmc]
  rw [chainDpa_tableInHbm]
  simp [State.devRead, inRegion, inHbm, hclean, hbytes]

/-- SET makes the chain of that table VALID. -/
theorem chainSet_tableInHbm : ∃ t, exec (.chainSet 1) tableInHbm = .next t ∧ t.dev.chainValid.getLsbD 1 = true ∧
    tget t.dev.chains 1 {} = chainOfBytes oneModulusTable := by
  have hhbm : inHbm (tableInHbm.chainDpa (1 : Fin 32)) 0x10000 = true := by
    rw [chainDpa_tableInHbm]
    simp [inHbm]
  obtain ⟨t, hexec, hvalid, hcopy, -⟩ := chainSet_makesValid rfl rfl rfl hhbm devRead_tableInHbm chainTableOk_oneModulusTable
  exact ⟨t, hexec, hvalid, hcopy⟩

/-! ## Clearing and draining -/

/-- CLR makes a chain BUSY and not VALID (R38). -/
theorem chainClr_makesBusy {n : Fin 32} {s : State} (htakes : s.takes .dev = true) :
    ∃ t, exec (.chainClr n) s = .next t ∧ t.dev.chainValid.getLsbD n = false ∧ t.dev.chainBusy.getLsbD n = true ∧ t.mem = s.mem := by
  refine ⟨s.chainClr n, ?_, getLsbD_and_not_oneHot 32 n _, getLsbD_or_oneHot n.isLt _, rfl⟩
  show execChainClr n s = _
  rw [execChainClr, gate_takes htakes]

/-- A chain that no window names has no users. -/
theorem chainUsers_eq_nil {s : State} {n : Nat} (h : ∀ e, e < 64 → ∀ v, v ∈ (s.eng e).window → v.chain ≠ some n) : s.chainUsers n = [] := by
  simp only [State.chainUsers, List.flatten_eq_nil_iff, List.forall_mem_map, List.mem_range, List.map_eq_nil_iff, List.filter_eq_nil_iff,
    beq_iff_eq]
  exact h

/-- BUSY ends once no window names the chain and no fill under it runs (R38). -/
theorem chainDrainComplete_of_drained {n : Fin 32} {s : State} (hwin : ∀ e, e < 64 → ∀ v, v ∈ (s.eng e).window → v.chain ≠ some n.val)
    (hfill : s.chainFill n = false) :
    ∃ t, exec (.chainDrainComplete n) s = .next t ∧ t.dev.chainBusy.getLsbD n = false ∧ t.mem = s.mem := by
  have hexec : exec (.chainDrainComplete n) s = .next { s with dev := { s.dev with
      chainBusy := s.dev.chainBusy &&& ~~~BitVec.ofNat 32 (1 <<< n.val), chainRefs := s.dev.chainRefs.filter fun r => r.1 != n.val } } := by
    show execChainDrainComplete n s = _
    simp [execChainDrainComplete, chainUsers_eq_nil hwin, hfill]
  exact ⟨_, hexec, getLsbD_and_not_oneHot 32 n _, rfl⟩

/-! ## The Drip -/

section Drip

variable {g : Fin 16} {s : State}

/-- The record of a Drip's fault, of class CORRECTED (R218). -/
def dripRec (cores : BitVec 40) : SumpRec :=
  { code := Code.internal.byte, cls := 1, unit := 4, place := 0, tenant := none, op := 0, slot := none, disp := 0, fpc := 0,
    detail0 := cores.setWidth 64, detail1 := 0 }

/-- A Sump with room stores the record of a Drip's fault (R421). -/
theorem dripFault_sump {k : Nat} (hroom : (s.gal k).sump.length < 256) (cores : BitVec 40) :
    ((s.dripFault k cores).gal k).sump = (s.gal k).sump ++ [dripRec cores] := by
  simp [State.dripFault, State.sumpPut, hroom, dripRec]

@[simp] theorem dripFault_drip (s : State) (k : Nat) (cores : BitVec 40) (j : Nat) : (s.dripFault k cores).drip j = s.drip j := by
  rw [State.drip, (State.dripFault_within s k cores).eq_drips rfl, State.drip]

@[simp] theorem dripFault_hdr (s : State) (k : Nat) (cores : BitVec 40) (p : Page) : (s.dripFault k cores).hdr p = s.hdr p := by
  rw [State.hdr, (State.dripFault_within s k cores).eq_hdrs rfl, State.hdr]

/-- A SELFTEST of an idle Drip without pending fills starts the test (R221). -/
theorem dripSelftest_starts (htakes : s.takes (.drip g) = true) (hfills : s.dripBusy g = false) (hbusy : (s.drip g).busy = false) :
    exec (.dripSelftest g) s = .next (s.setDrip g { s.drip g with busy := true, done := false }) := by
  show execDripSelftest g s = _
  simp [execDripSelftest, gate_takes htakes, State.dripTest, hfills, hbusy]

/-- The Drip after a self-test that `bad` of its enabled cores failed (R221). -/
def tested (d : Drip) (bad : BitVec 40) : Drip :=
  { d with busy := false, done := true, nfail := ones bad.toNat 0 40, coreFail := d.coreFail ||| bad, coreEn := d.coreEn &&& ~~~bad }

/-- The state with the test's result, and its record where a core failed (R218, R221). -/
def testRecorded (s : State) (g : Nat) (bad : BitVec 40) : State :=
  if bad = 0 then s.setDrip g (tested (s.drip g) bad) else (s.setDrip g (tested (s.drip g) bad)).dripFault g bad

theorem testRecorded_drip (s : State) (g : Nat) (bad : BitVec 40) : (testRecorded s g bad).drip g = tested (s.drip g) bad := by
  unfold testRecorded
  split <;> simp

theorem testRecorded_hdr (s : State) (g : Nat) (bad : BitVec 40) (p : Page) : (testRecorded s g bad).hdr p = s.hdr p := by
  unfold testRecorded
  split <;> simp

/-- The end of a test records it, and a Drip that was STARTING is ON or stops (R221, R477). -/
theorem dripSelftestEnd_eq (failed : BitVec 40) (hbusy : (s.drip g).busy = true) :
    let h := s.hdr (.drip g)
    let u := testRecorded s g (failed &&& (s.drip g).coreEn)
    exec (.dripSelftestEnd g failed) s =
      .next (if h.pstate = .starting then u.setHdr (.drip g) { h with pstate := if h.en then .on else .stopping } else u) := by
  intro h u
  have hhdr : u.hdr (.drip g) = h := testRecorded_hdr s g _ _
  rw [← hhdr]
  show execDripSelftestEnd g failed s = _
  simp only [execDripSelftestEnd, hbusy]
  rfl

/-- What the end of a test leaves in the Drip and its header. -/
theorem dripSelftestEnd_result (failed : BitVec 40) (hbusy : (s.drip g).busy = true) :
    let h := s.hdr (.drip g)
    ∃ t, exec (.dripSelftestEnd g failed) s = .next t ∧ t.drip g = tested (s.drip g) (failed &&& (s.drip g).coreEn) ∧
      (t.hdr (.drip g)).pstate = if h.pstate = .starting then (if h.en then .on else .stopping) else h.pstate := by
  refine ⟨_, dripSelftestEnd_eq failed hbusy, ?_, ?_⟩ <;> split <;> simp [testRecorded_drip, testRecorded_hdr]

/-- The Drip with a core failed and disabled (R218). -/
def withoutCore (d : Drip) (core : Nat) : Drip :=
  { d with coreFail := d.coreFail ||| BitVec.ofNat 40 (1 <<< core), coreEn := d.coreEn &&& ~~~BitVec.ofNat 40 (1 <<< core) }

theorem dripCoreParityError_eq {core : Fin 40} (hen : (s.drip g).coreEn.getLsbD core = true) :
    exec (.dripCoreParityError g core) s =
      .next ((s.setDrip g (withoutCore (s.drip g) core)).dripFault g (BitVec.ofNat 40 (1 <<< core.val))) :=
  if_neg (and_oneHot_ne_zero hen)

/-- A parity error of an enabled core disables it with a record (R218). -/
theorem dripCoreParityError_disables {core : Fin 40} (hen : (s.drip g).coreEn.getLsbD core = true)
    (hroom : (s.gal g).sump.length < 256) :
    ∃ t r, exec (.dripCoreParityError g core) s = .next t ∧ (t.drip g).coreEn.getLsbD core = false ∧
      (t.drip g).coreFail.getLsbD core = true ∧ (t.gal g).sump = (s.gal g).sump ++ [r] ∧ r.cls = 1 ∧ r.unit = 4 := by
  refine ⟨_, dripRec (BitVec.ofNat 40 (1 <<< core.val)), dripCoreParityError_eq hen, ?_, ?_, dripFault_sump (s := s.setDrip g _) hroom _, rfl, rfl⟩
  · rw [dripFault_drip, setDrip_drip]
    exact getLsbD_and_not_oneHot 40 core _
  · rw [dripFault_drip, setDrip_drip]
    exact getLsbD_or_oneHot core.isLt _

/-- CORE_EN takes the cores that have not failed (R219). -/
theorem dripCoreEnWrite_takes (val : Word64) (htakes : s.takes (.drip g) = true) :
    exec (.dripCoreEnWrite g val) s = .next (s.setDrip g { s.drip g with coreEn := val.setWidth 40 &&& ~~~(s.drip g).coreFail }) := by
  show execDripCoreEnWrite g val s = _
  rw [execDripCoreEnWrite, gate_takes htakes, State.coreEnPut, BitVec.ofNat_toNat]

end Drip

/-- Settles O18, one lemma per command on a chain or the Drip; `chainSet_tableInHbm` is a SET that meets its first clause. -/
theorem chainsAndDrip : Obligations.ChainsAndDrip := by
  unfold Obligations.ChainsAndDrip
  refine ⟨fun n s => ⟨fun s1 b => chainSet_makesValid, chainClr_makesBusy, chainDrainComplete_of_drained⟩, fun g s =>
    ⟨dripSelftest_starts, fun failed hbusy => ?_, fun core => dripCoreParityError_disables, fun val htakes => ?_⟩⟩
  · obtain ⟨t, hexec, hdrip, hpstate⟩ := dripSelftestEnd_result failed hbusy
    exact ⟨t, hexec, by simp [hdrip, tested], by simp [hdrip, tested], by simp [hdrip, tested], by simp [hdrip, tested], hpstate⟩
  · exact ⟨_, dripCoreEnWrite_takes val htakes, by simp⟩

end Sys2Proof.ChainDrip

/-! What the instructions of an engine do to it: the tile operations, the stages before an instruction's own part, the window entry, and what
all of them leave unchanged (R64-R71, R91-R101; O7, O57, O59). -/

namespace Sys2Proof.EngineInstr

open Sys2Proof Sys2Proof.Machine Sys2Proof.Laws

/-! ## Writes of single tiles -/

@[simp] theorem setTile_tile (y : Engine) (n : Nat) (v : Tile) : (y.setTile n v).tile n = v := tget_tset_self _ _ _ _

theorem setTile_tile_other (y : Engine) {m n : Nat} (v : Tile) (h : m ≠ n) : (y.setTile n v).tile m = y.tile m := tget_tset_other _ _ _ h

section Folds

variable {α : Type} {idx : α → Nat} {g : Engine → α → Tile} {P : Tile → Prop} {n : Nat}

/-- A property of tile n that every write of it keeps holds after a run of writes. -/
theorem foldl_setTile_keeps (hg : ∀ (y : Engine) a, idx a = n → P (y.tile n) → P (g y a)) {x : Engine} (hx : P (x.tile n)) (l : List α) :
    P ((l.foldl (fun y a => y.setTile (idx a) (g y a)) x).tile n) := by
  refine List.foldlRecOn (motive := fun y : Engine => P (y.tile n)) l _ hx fun y hy a _ => ?_
  by_cases ha : idx a = n
  · rw [ha, setTile_tile]
    exact hg y a ha hy
  · rw [setTile_tile_other y _ (Ne.symm ha)]
    exact hy

/-- A property that every write of tile n establishes holds after a run of writes of which one is of tile n. -/
theorem foldl_setTile_establishes (hg : ∀ y a, idx a = n → P (g y a)) (x : Engine) {l : List α} (hn : ∃ a ∈ l, idx a = n) :
    P ((l.foldl (fun y a => y.setTile (idx a) (g y a)) x).tile n) := by
  obtain ⟨a, ha, hidx⟩ := hn
  obtain ⟨l1, l2, rfl⟩ := List.append_of_mem ha
  rw [List.foldl_append, List.foldl_cons]
  exact foldl_setTile_keeps (fun y b hb _ => hg y b hb) (by rw [hidx, setTile_tile]; exact hg _ a hidx) l2

end Folds

/-! ## Operations that reach tiles, tile file and latches alone -/

/-- Engine y is x but for its tiles, its tile file and its reuse latches. -/
def TileChange (x y : Engine) : Prop := ∃ ts f a b, y = { x with tiles := ts, tf := f, latch0 := a, latch1 := b }

theorem TileChange.refl (x : Engine) : TileChange x x := ⟨_, _, _, _, rfl⟩

theorem TileChange.trans {x y z : Engine} (h : TileChange x y) (h' : TileChange y z) : TileChange x z := by
  obtain ⟨_, _, _, _, rfl⟩ := h
  obtain ⟨_, _, _, _, rfl⟩ := h'
  exact ⟨_, _, _, _, rfl⟩

theorem TileChange.foldl {α : Type} {f : Engine → α → Engine} (hf : ∀ y a, TileChange y (f y a)) (l : List α) (x : Engine) :
    TileChange x (l.foldl f x) :=
  List.foldlRecOn (motive := TileChange x) l f (.refl x) fun _ hy a _ => hy.trans (hf _ a)

theorem setTile_tileChange (x : Engine) (n : Nat) (v : Tile) : TileChange x (x.setTile n v) := ⟨_, _, _, _, rfl⟩

theorem setTf_tileChange (x : Engine) (f : List Host.Cell) : TileChange x { x with tf := f } := ⟨_, _, _, _, rfl⟩

theorem unlatch_tileChange (x : Engine) (ts : List Nat) : TileChange x (x.unlatch ts) := ⟨_, _, _, _, rfl⟩

theorem mark_tileChange (x : Engine) (ts : List Nat) (inUse : Bool) : TileChange x (x.mark ts inUse) :=
  .foldl (fun y t => setTile_tileChange y t _) ts x

theorem setKey_tileChange (x : Engine) (t : Nat) (k : KeyState) (tag : Word64) : TileChange x (x.setKey t k tag) :=
  .foldl (fun y m => setTile_tileChange y m _) _ x

theorem putElems_tileChange (x : Engine) (t sz off : Nat) (vs : List Nat) : TileChange x (x.putElems t sz off vs) := by
  unfold Engine.putElems
  dsimp only
  split
  · exact .refl x
  · exact (setTf_tileChange x _).trans (mark_tileChange _ _ _)

theorem zeroTile_tileChange (x : Engine) (t : Nat) : TileChange x (x.zeroTile t) := (setTf_tileChange x _).trans (mark_tileChange _ _ _)

theorem releaseKey_tileChange (x : Engine) (t : Nat) : TileChange x (x.releaseKey t) :=
  ((setKey_tileChange x t _ _).trans (mark_tileChange _ _ _)).trans (unlatch_tileChange _ _)

theorem cfgApply_tileChange (x : Engine) (n : Nat) (v : TileCfg) : TileChange x (x.cfgApply n v) := by
  have hgone := (unlatch_tileChange x (x.replaced n v)).trans
    (.foldl (fun y t => setTile_tileChange y t { gen := (y.tile t).gen + 1 }) (x.replaced n v) _)
  unfold Engine.cfgApply
  dsimp only
  split
  · exact hgone.trans (setTf_tileChange _ _)
  · exact (hgone.trans (.foldl (fun y m => setTile_tileChange y (n + m) _) (List.range v.len) _)).trans (setTf_tileChange _ _)

/-! ## What a configuration and a release leave of the tile -/

theorem self_mem_members (x : Engine) (t : Nat) : t ∈ x.members t := by
  have hlen : 0 < (x.tile t).len := by unfold Tile.len; split_ifs <;> decide
  exact List.mem_map.2 ⟨0, List.mem_range.2 hlen, rfl⟩

theorem self_mem_replaced (x : Engine) (n : Nat) (v : TileCfg) : n ∈ x.replaced n v := by
  have hlen : 0 < v.len := by unfold TileCfg.len; split_ifs <;> decide
  refine List.mem_map.2 ⟨0, List.mem_range.2 (lt_max_of_lt_right ?_), rfl⟩
  split
  · exact Nat.one_pos
  · exact hlen

/-- The head of a configuration holds it, or nothing where ROWS is 0 (R64, R66). -/
theorem cfgApply_tileIs (x : Engine) (n : Nat) (v : TileCfg) : TileIs (x.cfgApply n v) n v := by
  have hlen : 0 < v.len := by unfold TileCfg.len; split_ifs <;> decide
  by_cases hrows : v.rows = 0
  · refine ⟨?_, fun h => absurd hrows h⟩
    rw [Engine.cfgApply, if_pos hrows, hrows]
    exact foldl_setTile_establishes (idx := id) (P := fun u => u.cfg = false) (fun _ _ _ => rfl) _ ⟨n, self_mem_replaced x n v, rfl⟩
  · rw [Engine.cfgApply, if_neg hrows]
    refine foldl_setTile_establishes (idx := (n + ·)) (P := fun u => u.cfg = (v.rows != 0) ∧ (v.rows ≠ 0 → u.base = v.base ∧
      u.span = v.span ∧ u.key = v.key ∧ u.rows = v.rows ∧ u.rowb = v.rowb ∧ u.member = false)) (fun y m hm => ?_) _
      ⟨0, List.mem_range.2 hlen, rfl⟩
    obtain rfl : m = 0 := by simpa using hm
    simp [hrows]

/-- Zeroing a tile's rows clears its in-use flag (R68). -/
theorem mark_members_inUse (x y : Engine) (t : Nat) : ((y.mark (x.members t) false).tile t).inUse = false :=
  foldl_setTile_establishes (idx := id) (P := fun u => u.inUse = false) (fun _ _ _ => rfl) _ ⟨t, self_mem_members x t, rfl⟩

theorem zeroTile_inUse (x : Engine) (t : Nat) : ((x.zeroTile t).tile t).inUse = false := mark_members_inUse x _ t

theorem releaseKey_inUse (x : Engine) (t : Nat) : ((x.releaseKey t).tile t).inUse = false := mark_members_inUse x _ t

/-- A released key tile is EMPTY (R133). -/
theorem releaseKey_kst (x : Engine) (t : Nat) : ((x.releaseKey t).tile t).kst = .empty := by
  have hset : ((x.setKey t .empty 0).tile t).kst = .empty :=
    foldl_setTile_establishes (idx := id) (P := fun u => u.kst = .empty) (fun _ _ _ => rfl) x ⟨t, self_mem_members x t, rfl⟩
  exact foldl_setTile_keeps (idx := id) (P := fun u => u.kst = .empty) (fun y a ha hy => by obtain rfl : a = t := ha; exact hy) hset _

/-! ## Issue (R91, R101, R123) -/

/-- Removing tokens reaches the token queues alone (R91). -/
theorem takeTokens_eq (x : Engine) (i : Ins) : ∃ q, (x.takeTokens i).1 = { x with queues := q } := by
  refine List.foldlRecOn (motive := fun a : Engine × Bool × Word16 => ∃ q, a.1 = { x with queues := q }) i.waits _ ⟨_, rfl⟩ fun a ha w _ => ?_
  obtain ⟨q, ha⟩ := ha
  split
  · exact ⟨_, by rw [ha]; rfl⟩
  · exact ⟨q, ha⟩

/-- What an instruction that issues has done before its own part, and what that part receives. -/
structure IssuedAs (s : State) (e : Nat) (mine : Nat → Bool) (s1 : State) (x : Iss) : Prop where
  state : ∃ q, s1 = s.setEng e { s.eng e with queues := q, issued := (s.eng e).issued + 1, pc := (s.eng e).pc + 1 }
  word : x.w = (s.eng e).fetch
  pc : x.pc = (s.eng e).pc
  seq : x.seq = (s.eng e).issued + 1
  fields : x.i.opc = (insOf x.w).opc
  opcode : mine x.i.opc = true

theorem issuedAs_of_go {s s1 : State} {e : Nat} {mine : Nat → Bool} {x : Iss} (h : s.issue e mine = .go s1 x) : IssuedAs s e mine s1 x := by
  unfold State.issue at h
  dsimp only at h
  split at h
  · cases h
  next hmine =>
  obtain ⟨q, hq⟩ := takeTokens_eq (s.eng e) (insOf (s.eng e).fetch)
  rw [hq] at h
  split_ifs at h
  all_goals
    cases h
    refine ⟨⟨q, rfl⟩, rfl, rfl, rfl, rfl, ?_⟩
    simpa using (not_or.1 hmine).1

/-- The engine of an issued instruction, before the instruction's own part. -/
theorem IssuedAs.eng {s s1 : State} {e : Nat} {mine : Nat → Bool} {x : Iss} (h : IssuedAs s e mine s1 x) :
    ∃ q, s1.eng e = { s.eng e with queues := q, issued := (s.eng e).issued + 1, pc := (s.eng e).pc + 1 } := by
  obtain ⟨q, hs⟩ := h.state
  exact ⟨q, by rw [hs, setEng_eng]⟩

/-- An instruction that issues and passes the shared checks runs its own part and enters the window. -/
theorem issueRun_of_issues {s s1 : State} {e opc : Nat} {x : Iss} (h : Issues s e opc s1 x) {check : Bool}
    (hc : (if check then s1.issueCheck e x.i else none) = none) (body : State → Iss → State × Res) :
    s.issueRun e opc check body = (body s1 x).1.enter e x ((s1.eng e).rw x.i) none (body s1 x).2 := by
  rw [Issues] at h
  simp only [State.issueRun, h, hc]

/-- The window entry that an instruction makes (R92, R100). -/
def windowEntry (x : Iss) (rw : List Nat × List Nat) (xfer : Option Nat) (r : Res) : WinEnt :=
  { seq := x.seq, word := x.w, pc := x.pc, llo := x.i.llo, lhi := x.i.lhi, value := x.i.tokenValue x.seq, poison := x.poison || r.fault.isSome,
    fault := r.fault, tile := r.tile, detail1 := BitVec.ofNat 64 r.detail1, done := r.done, reads := rw.1, writes := rw.2,
    chain := x.i.named, xfer := xfer, result := r.result, mark := r.mark, rescMark := r.rescMark, sslot := r.sslot }

theorem enter_eq (s : State) (e : Nat) (x : Iss) (rw : List Nat × List Nat) (xfer : Option Nat) (r : Res) :
    s.enter e x rw xfer r = s.setEng e { s.eng e with window := (s.eng e).window ++ [windowEntry x rw xfer r] } := rfl

theorem enter_eng (s : State) (e : Nat) (x : Iss) (rw : List Nat × List Nat) (xfer : Option Nat) (r : Res) :
    (s.enter e x rw xfer r).eng e = { s.eng e with window := (s.eng e).window ++ [windowEntry x rw xfer r] } := setEng_eng _ _ _

/-- An instruction has run when its own part keeps the window and the issue number and ends without a fault. -/
theorem ran_enter {s s1 u : State} {e : Nat} {mine : Nat → Bool} {x : Iss} (h : IssuedAs s e mine s1 x) {r : Res}
    (hwin : (u.eng e).window = (s1.eng e).window) (hissued : (u.eng e).issued = (s1.eng e).issued) (hfault : r.fault = none)
    (rw : List Nat × List Nat) (xfer : Option Nat) : Ran s (u.enter e x rw xfer r) e := by
  obtain ⟨q, heng⟩ := h.eng
  refine ⟨windowEntry x rw xfer r, ?_, h.word, h.pc, h.seq, hfault, rfl, ?_⟩
  · rw [enter_eng, hwin, heng]
  · rw [enter_eng, hissued, heng]

/-- An instruction has run when its own part writes its engine but for the window and the issue number. -/
theorem ran_setEng {s s1 : State} {e : Nat} {mine : Nat → Bool} {x : Iss} (h : IssuedAs s e mine s1 x) {y : Engine}
    (hwin : y.window = (s1.eng e).window) (hissued : y.issued = (s1.eng e).issued) (u : State) (rw : List Nat × List Nat)
    (xfer : Option Nat) : Ran s ((u.setEng e y).enter e x rw xfer {}) e :=
  ran_enter h (by rw [setEng_eng, hwin]) (by rw [setEng_eng, hissued]) rfl rw xfer

theorem eng_of_within {ps : List Part} {s t : State} (h : Within ps s t) (hps : ps.contains .engines = false) (e : Nat) :
    t.eng e = s.eng e := by
  rw [State.eng, h.eq_engines hps, State.eng]

/-! ## What an instruction leaves unchanged (R60, R93) -/

/-- An engine without what an instruction may change of it: two engines that agree here have the same controls. -/
def controls (x : Engine) : Engine :=
  { x with tiles := [], tf := [], latch0 := none, latch1 := none, window := [], issued := 0, pc := 0, queues := [], ct := [], cp := [] }

/-- The controls of an engine are all of it but for the ten fields that an instruction may change. -/
theorem eq_of_controls {x y : Engine} (h : controls y = controls x) :
    { y with tiles := x.tiles, tf := x.tf, latch0 := x.latch0, latch1 := x.latch1, window := x.window, issued := x.issued, pc := x.pc,
             queues := x.queues, ct := x.ct, cp := x.cp } = x := by
  cases x
  cases y
  simp only [controls, Engine.mk.injEq] at h ⊢
  simpa using h

theorem TileChange.controls {x y : Engine} (h : TileChange x y) : controls y = controls x := by
  obtain ⟨_, _, _, _, rfl⟩ := h
  rfl

/-- From s to t no other engine and no other page's header changed, and engine e kept its controls. -/
structure OwnOnly (e : Nat) (s t : State) : Prop where
  engines : ∀ k, k ≠ e → t.eng k = s.eng k
  headers : ∀ p : Page, p.key ≠ (Page.engine e).key → t.hdr p = s.hdr p
  controls : controls (t.eng e) = controls (s.eng e)

section Own

variable {e : Nat} {s t u : State}

theorem OwnOnly.refl (e : Nat) (s : State) : OwnOnly e s s := ⟨fun _ _ => rfl, fun _ _ => rfl, rfl⟩

theorem OwnOnly.trans (h : OwnOnly e s t) (h' : OwnOnly e t u) : OwnOnly e s u :=
  ⟨fun k hk => (h'.engines k hk).trans (h.engines k hk), fun p hp => (h'.headers p hp).trans (h.headers p hp), h'.controls.trans h.controls⟩

theorem setEng_own {y : Engine} (h : EngineInstr.controls y = EngineInstr.controls (s.eng e)) : OwnOnly e s (s.setEng e y) :=
  ⟨fun _ hk => setEng_eng_other _ _ _ hk, fun _ _ => rfl, by rw [setEng_eng, h]⟩

theorem event_own (s : State) (e ev n : Nat) : OwnOnly e s (s.event (.engine e) ev n) :=
  ⟨fun _ _ => rfl, fun _ hp => setHdr_hdr_other _ _ _ hp, rfl⟩

theorem drawn_own (e : Nat) (s : State) : OwnOnly e s s.drawn := ⟨fun _ _ => rfl, fun _ _ => rfl, rfl⟩

theorem enter_own (s : State) (e : Nat) (x : Iss) (rw : List Nat × List Nat) (xfer : Option Nat) (r : Res) :
    OwnOnly e s (s.enter e x rw xfer r) := setEng_own rfl

theorem IssuedAs.own {mine : Nat → Bool} {x : Iss} (h : IssuedAs s e mine t x) : OwnOnly e s t := by
  obtain ⟨q, rfl⟩ := h.state
  exact setEng_own rfl

/-- An opcode without an output ciphertext: an instruction of it that is skipped writes no poisoned descriptor (R102). -/
def NoOutput (mine : Nat → Bool) : Prop := mine 0x0A = false ∧ mine 0x30 = false ∧ mine 0x2B = false

theorem NoOutput.outSlot {mine : Nat → Bool} (h : NoOutput mine) {i : Ins} (hi : mine i.opc = true) : i.outSlot = none := by
  obtain ⟨ha, hb, hc⟩ := h
  unfold Ins.outSlot
  split <;> simp_all

/-- An instruction without an output that waits, is refused or is skipped changes its own engine alone. -/
theorem stay_own {mine : Nat → Bool} (hmine : NoOutput mine) (h : s.issue e mine = .stay t) : OwnOnly e s t := by
  unfold State.issue at h
  dsimp only at h
  split at h
  · cases h
    exact .refl e s
  next hm =>
  have hfail : ∀ {x rw r}, OwnOnly e s ((s.setEng e (s.eng e).take).enter e x rw none r) :=
    (setEng_own (y := (s.eng e).take) rfl).trans (enter_own _ _ _ _ _ _)
  have htaken : EngineInstr.controls ((s.eng e).takeTokens (insOf (s.eng e).fetch)).1.take = EngineInstr.controls (s.eng e) := by
    obtain ⟨q, hq⟩ := takeTokens_eq (s.eng e) (insOf (s.eng e).fetch)
    rw [hq]
    rfl
  rw [hmine.outSlot (by simpa using (not_or.1 hm).1)] at h
  split_ifs at h
  all_goals cases h
  · exact hfail
  · exact hfail
  · exact .refl e s
  · exact .refl e s
  all_goals exact (setEng_own htaken).trans (setEng_own (s := s.setEng e _) rfl)

end Own

section Own

variable {e : Nat} {s t u : State}

/-- An instruction without an output, whose own part reaches its engine alone, reaches its engine alone. -/
theorem issueRun_own {opc : Nat} (hopc : NoOutput (fun o => o == opc)) {check : Bool} {body : State → Iss → State × Res}
    (hbody : ∀ v x, OwnOnly e v (body v x).1) (s : State) : OwnOnly e s (s.issueRun e opc check body) := by
  unfold State.issueRun
  split
  · next h => exact stay_own hopc h
  · next h =>
    dsimp only
    split
    · exact (issuedAs_of_go h).own.trans (enter_own _ _ _ _ _ _)
    · exact ((issuedAs_of_go h).own.trans (hbody _ _)).trans (enter_own _ _ _ _ _ _)

/-! ## The own parts of the instructions -/

theorem setTiles_own {y : Engine} (h : TileChange (s.eng e) y) : OwnOnly e s (s.setEng e y) := setEng_own h.controls

theorem putRes_own (s : State) (e t sz off : Nat) (bad : List Bool) (vs : List Nat) : OwnOnly e s (s.putRes e t sz off bad vs) := by
  unfold State.putRes
  split
  · exact (setTiles_own (putElems_tileChange _ _ _ _ _)).trans (drawn_own e _)
  · exact setTiles_own (putElems_tileChange _ _ _ _ _)

/-- The lane passes and the result elements of an instruction reach its engine alone. -/
@[simp] theorem lanePasses_putRes_own (s : State) (e n t sz off : Nat) (bad : List Bool) (vs : List Nat) :
    OwnOnly e s ((s.lanePasses e n).putRes e t sz off bad vs) := (event_own s e 9 n).trans (putRes_own _ _ _ _ _ _ _)

@[simp] theorem lanePasses_putLimbs_own (s : State) (e n t sz off : Nat) (ls : List (Bool × List Nat)) :
    OwnOnly e s ((s.lanePasses e n).putLimbs e t sz off ls) := lanePasses_putRes_own s e n t sz off _ _

@[simp] theorem refl_own (e : Nat) (s : State) : OwnOnly e s s := .refl e s

/-- The latches of an element-wise instruction, with the passes counted that they serve and miss (R62). -/
theorem latchRun_own (s : State) (e : Nat) (i : Ins) (c : Chain) (scal : Bool) : OwnOnly e s (s.latchRun e i c scal) := by
  have hcount : ∀ (v : State) (a b : Nat), OwnOnly e v ((v.event (.engine e) 6 a).event (.engine e) 7 b) := fun v a b =>
    (event_own v e 6 a).trans (event_own _ e 7 b)
  have hset : ∀ (v : State) (a b : Option LatchTag), OwnOnly e v (v.setEng e { v.eng e with latch0 := a, latch1 := b }) := fun v a b =>
    setEng_own rfl
  unfold State.latchRun
  dsimp only
  split_ifs
  · exact ((hcount s _ _).trans (hcount _ _ _)).trans (hset _ _ _)
  · exact (hcount s _ _).trans (hset _ _ _)
  · exact (hcount s _ _).trans (hset _ _ _)
  · exact hset s _ _

theorem elementwise_own {opc : Nat} (hopc : NoOutput (fun o => o == opc)) (s : State) (e : Nat) : OwnOnly e s (s.elementwise e opc) := by
  refine issueRun_own hopc (fun v x => ?_) s
  dsimp only
  split
  · exact .refl e v
  · exact ((latchRun_own v e _ _ _).trans (event_own _ e 9 _)).trans (putRes_own _ _ _ _ _ _ _)

theorem limbwise_own {opc : Nat} (hopc : NoOutput (fun o => o == opc)) (s : State) (e : Nat) (cond : Engine → Ins → Chain → Option Nat)
    (passes : Engine → Ins → Chain → Nat) (f : Chain → Ins → Nat → List Nat → List Nat) : OwnOnly e s (s.limbwise e opc cond passes f) := by
  refine issueRun_own hopc (fun v x => ?_) s
  dsimp only
  split
  · exact .refl e v
  · split
    · exact .refl e v
    · split
      · exact .refl e v
      · exact lanePasses_putLimbs_own v e _ _ _ _ _

end Own

/-- A command that answers a state which differs from s in engine e alone. -/
def Keeps (e : Nat) (c : Instr) (s : State) : Prop := ∃ t, exec c s = .next t ∧ OwnOnly e s t

section Commands

variable (e : Fin 64) (s : State)

theorem nop_keeps : Keeps e (.nop e) s := by
  show ∃ t, execNop e s = .next t ∧ OwnOnly e s t
  unfold execNop
  split
  · next h => exact ⟨_, rfl, stay_own ⟨rfl, rfl, rfl⟩ h⟩
  · next h => exact ⟨_, rfl, (issuedAs_of_go h).own.trans (enter_own _ _ _ _ _ _)⟩

theorem fence_keeps : Keeps e (.fence e) s := ⟨_, rfl, issueRun_own ⟨rfl, rfl, rfl⟩ (fun v _ => .refl e v) s⟩

theorem temit_keeps : Keeps e (.temit e) s := ⟨_, rfl, issueRun_own ⟨rfl, rfl, rfl⟩ (fun v _ => .refl e v) s⟩

theorem cnti_keeps : Keeps e (.cnti e) s := by
  refine ⟨_, rfl, issueRun_own ⟨rfl, rfl, rfl⟩ (fun v x => setEng_own ?_) s⟩
  split <;> rfl

theorem cntd_keeps : Keeps e (.cntd e) s := ⟨_, rfl, issueRun_own ⟨rfl, rfl, rfl⟩ (fun _ _ => setEng_own (by rfl)) s⟩

theorem cmpb_keeps : Keeps e (.cmpb e) s := by
  refine ⟨_, rfl, issueRun_own ⟨rfl, rfl, rfl⟩ (fun v x => ?_) s⟩
  dsimp only
  split_ifs
  · exact .refl e v
  · exact setEng_own rfl
  · exact .refl e v

theorem tcfg_keeps : Keeps e (.tcfg e) s := by
  refine ⟨_, rfl, issueRun_own ⟨rfl, rfl, rfl⟩ (fun v x => ?_) s⟩
  dsimp only
  split_ifs
  · exact setTiles_own (cfgApply_tileChange _ _ _)
  · exact .refl e v

theorem cancelFill_own (t : Nat) : OwnOnly e s (s.cancelFill e t) := ⟨fun _ _ => rfl, fun _ _ => rfl, rfl⟩

theorem trel_keeps : Keeps e (.trel e) s := by
  refine ⟨_, rfl, issueRun_own ⟨rfl, rfl, rfl⟩ (fun v x => ?_) s⟩
  dsimp only
  split_ifs
  · exact .refl e v
  · exact (cancelFill_own e v _).trans (setTiles_own (releaseKey_tileChange _ _))
  · exact setTiles_own ((zeroTile_tileChange _ _).trans (unlatch_tileChange _ _))

theorem elementwise_keeps {c : Instr} {opc : Nat} (hc : exec c s = .next (s.elementwise e opc)) (hopc : NoOutput (fun o => o == opc)) :
    Keeps e c s := ⟨_, hc, elementwise_own hopc s e⟩

theorem ntt_keeps : Keeps e (.ntt e) s := ⟨_, rfl, limbwise_own ⟨rfl, rfl, rfl⟩ s e _ _ _⟩

theorem intt_keeps : Keeps e (.intt e) s := ⟨_, rfl, limbwise_own ⟨rfl, rfl, rfl⟩ s e _ _ _⟩

theorem auto_keeps : Keeps e (.auto e) s := ⟨_, rfl, limbwise_own ⟨rfl, rfl, rfl⟩ s e _ _ _⟩

theorem bconv_keeps : Keeps e (.bconv e) s := by
  refine ⟨_, rfl, issueRun_own ⟨rfl, rfl, rfl⟩ (fun v x => ?_) s⟩
  dsimp only
  repeat' split
  all_goals simp

theorem modup_keeps : Keeps e (.modup e) s := by
  refine ⟨_, rfl, issueRun_own ⟨rfl, rfl, rfl⟩ (fun v x => ?_) s⟩
  dsimp only
  repeat' split
  all_goals simp

theorem moddn_keeps : Keeps e (.moddn e) s := by
  refine ⟨_, rfl, issueRun_own ⟨rfl, rfl, rfl⟩ (fun v x => ?_) s⟩
  dsimp only
  repeat' split
  all_goals simp

theorem dcmp_keeps : Keeps e (.dcmp e) s := by
  refine ⟨_, rfl, issueRun_own ⟨rfl, rfl, rfl⟩ (fun v x => ?_) s⟩
  dsimp only
  repeat' split
  all_goals simp

theorem sxtr_keeps : Keeps e (.sxtr e) s := by
  refine ⟨_, rfl, issueRun_own ⟨rfl, rfl, rfl⟩ (fun v x => ?_) s⟩
  dsimp only
  repeat' split
  all_goals simp

theorem msw_keeps : Keeps e (.msw e) s := by
  refine ⟨_, rfl, issueRun_own ⟨rfl, rfl, rfl⟩ (fun v x => ?_) s⟩
  dsimp only
  repeat' split
  all_goals simp

end Commands

/-- Settles O59: every one of these instructions reaches its own engine alone, and of that keeps the controls. -/
theorem engineInstructionFrame : Obligations.EngineInstructionFrame := by
  unfold Obligations.EngineInstructionFrame
  intro e c s t hc ht
  have hkeeps : Keeps e c s := by
    simp only [List.mem_cons, List.not_mem_nil, or_false] at hc
    rcases hc with rfl | rfl | rfl | rfl | rfl | rfl | rfl | rfl | rfl | rfl | rfl | rfl | rfl | rfl | rfl | rfl | rfl | rfl | rfl | rfl |
      rfl | rfl
    · exact nop_keeps e s
    · exact fence_keeps e s
    · exact temit_keeps e s
    · exact cnti_keeps e s
    · exact cntd_keeps e s
    · exact cmpb_keeps e s
    · exact tcfg_keeps e s
    · exact trel_keeps e s
    · exact elementwise_keeps e s rfl ⟨rfl, rfl, rfl⟩
    · exact elementwise_keeps e s rfl ⟨rfl, rfl, rfl⟩
    · exact elementwise_keeps e s rfl ⟨rfl, rfl, rfl⟩
    · exact elementwise_keeps e s rfl ⟨rfl, rfl, rfl⟩
    · exact elementwise_keeps e s rfl ⟨rfl, rfl, rfl⟩
    · exact ntt_keeps e s
    · exact intt_keeps e s
    · exact auto_keeps e s
    · exact bconv_keeps e s
    · exact modup_keeps e s
    · exact moddn_keeps e s
    · exact dcmp_keeps e s
    · exact sxtr_keeps e s
    · exact msw_keeps e s
  obtain ⟨u, hu, hown⟩ := hkeeps
  obtain rfl : u = t := by simpa [hu] using ht
  exact ⟨hown.engines, hown.headers, eq_of_controls hown.controls⟩

/-! ## Results of the scalar and tile instructions (R80, R99, R107, R110, R126, R133, R155, R156) -/

section Results

variable {e : Fin 64} {s s1 : State} {x : Iss}

theorem nop_runs (h : s.issue e (fun o => o == 0x01 || (opUse o).isNone) = .go s1 x) :
    ∃ t, exec (.nop e) s = .next t ∧ Ran s t e ∧ (t.eng e).pc = (s.eng e).pc + 1 := by
  have hgo := issuedAs_of_go h
  obtain ⟨q, heng⟩ := hgo.eng
  refine ⟨s1.enter e x ([], []) none {}, ?_, ran_enter hgo rfl rfl rfl _ _, by rw [enter_eng, heng]⟩
  show execNop e s = _
  rw [execNop, h]

theorem fence_runs (h : Issues s e 0x4A s1 x) : ∃ t, exec (.fence e) s = .next t ∧ Ran s t e ∧ (t.eng e).pc = (s.eng e).pc + 1 ∧
    ∃ v, (t.eng e).window.getLast? = some v ∧ v.done = false := by
  have hgo := issuedAs_of_go h
  obtain ⟨q, heng⟩ := hgo.eng
  refine ⟨_, congrArg Host.Outcome.next (issueRun_of_issues h rfl _), ran_enter hgo rfl rfl rfl _ _,
    by rw [enter_eng, heng], _, by rw [enter_eng, List.getLast?_concat], rfl⟩

/-- The token of a TEMIT carries its immediate (R99). -/
theorem temit_runs (h : Issues s e 0x49 s1 x) : ∃ t, exec (.temit e) s = .next t ∧ Ran s t e ∧
    ∃ v, (t.eng e).window.getLast? = some v ∧ v.value = BitVec.ofNat 16 (x.i.im 0 16) := by
  have hgo := issuedAs_of_go h
  have hopc : x.i.opc = 0x49 := by simpa using hgo.opcode
  refine ⟨_, congrArg Host.Outcome.next (issueRun_of_issues h rfl _), ran_enter hgo rfl rfl rfl _ _,
    _, by rw [enter_eng, List.getLast?_concat], ?_⟩
  simp [windowEntry, Ins.tokenValue, hopc]

/-- TWAIT puts the token's value where its bit asks for it (R156). -/
theorem twait_runs (h : Issues (s.exportPending e) e 0x48 s1 x) : ∃ t, exec (.twait e) s = .next t ∧ Ran s t e ∧
    (x.i.im 55 1 = 1 → (t.eng e).ctv (x.i.im 52 3) = x.value.setWidth 32) := by
  have hgo := issuedAs_of_go h
  have hran : ∀ {t}, Ran (s.exportPending e) t e → Ran s t e := fun ht => by
    rwa [Ran, eng_of_within (State.exportPending_within s e) rfl] at ht
  refine ⟨_, congrArg Host.Outcome.next (issueRun_of_issues h rfl _), ?_⟩
  dsimp only
  by_cases hbit : x.i.im 55 1 = 1
  · rw [if_pos hbit]
    refine ⟨hran (ran_setEng hgo (by rfl) (by rfl) _ _ _), fun _ => ?_⟩
    rw [enter_eng, setEng_eng]
    exact tget_tset_self _ _ _ _
  · rw [if_neg hbit]
    exact ⟨hran (ran_enter hgo rfl rfl rfl _ _), fun hb => absurd hb hbit⟩

/-- CNTI writes its counter or comparator (R107). -/
theorem cnti_runs (h : Issues s e 0x40 s1 x) : ∃ t, exec (.cnti e) s = .next t ∧ Ran s t e ∧
    (if x.i.im 56 4 < 8 then (t.eng e).ctv (x.i.im 56 4) else (t.eng e).cpv (x.i.im 56 4 - 8)) = BitVec.ofNat 32 (x.i.im 0 32) := by
  have hgo := issuedAs_of_go h
  refine ⟨_, congrArg Host.Outcome.next (issueRun_of_issues h rfl _), ?_⟩
  dsimp only
  split_ifs
  all_goals
    refine ⟨ran_setEng hgo (by rfl) (by rfl) _ _ _, ?_⟩
    rw [enter_eng, setEng_eng]
    exact tget_tset_self _ _ _ _

/-- CNTD subtracts its signed step from its counter (R107). -/
theorem cntd_runs (h : Issues s e 0x41 s1 x) : ∃ t, exec (.cntd e) s = .next t ∧ Ran s t e ∧
    (t.eng e).ctv (x.i.im 57 3) = (s.eng e).ctv (x.i.im 57 3) - (BitVec.ofNat 16 (x.i.im 0 16)).signExtend 32 := by
  have hgo := issuedAs_of_go h
  obtain ⟨q, heng⟩ := hgo.eng
  have hctv : (s1.eng e).ctv = (s.eng e).ctv := by rw [heng]; rfl
  refine ⟨_, congrArg Host.Outcome.next (issueRun_of_issues h rfl _), ran_setEng hgo (by rfl) (by rfl) _ _ _, ?_⟩
  rw [enter_eng, setEng_eng, ← hctv]
  exact tget_tset_self _ _ _ _

/-- CMPB goes to its target exactly when its condition holds (R108, R155). -/
theorem cmpb_runs (h : Issues s e 0x42 s1 x) (hlt : x.i.im 0 12 < (s.eng e).prog.length) : ∃ t, exec (.cmpb e) s = .next t ∧ Ran s t e ∧
    (t.eng e).pc = if cmpHolds (x.i.im 53 2) ((s.eng e).ctv (x.i.im 57 3)) ((s.eng e).cpv (x.i.im 55 2)) then x.i.im 0 12
      else (s.eng e).pc + 1 := by
  have hgo := issuedAs_of_go h
  obtain ⟨q, heng⟩ := hgo.eng
  have hprog : (s1.eng e).prog = (s.eng e).prog := by rw [heng]
  have hctv : (s1.eng e).ctv = (s.eng e).ctv := by rw [heng]; rfl
  have hcpv : (s1.eng e).cpv = (s.eng e).cpv := by rw [heng]; rfl
  refine ⟨_, congrArg Host.Outcome.next (issueRun_of_issues h rfl _), ?_⟩
  dsimp only
  rw [hprog, hctv, hcpv, if_neg (Nat.not_le.2 hlt)]
  split_ifs with hcond
  · exact ⟨ran_setEng hgo (by rfl) (by rfl) _ _ _, by rw [enter_eng, setEng_eng]⟩
  · exact ⟨ran_enter hgo rfl rfl rfl _ _, by rw [enter_eng, heng]⟩

/-- An instruction whose own part changes the tiles of its engine alone has run. -/
theorem ran_setTiles {mine : Nat → Bool} (hgo : IssuedAs s e mine s1 x) {u : State} {y : Engine} (hy : TileChange (s1.eng e) y) :
    Ran s ((u.setEng e y).enter e x ((s1.eng e).rw x.i) none {}) e := by
  obtain ⟨_, _, _, _, rfl⟩ := hy
  exact ran_setEng hgo (by rfl) (by rfl) u _ _

theorem enter_setEng_tile (u : State) (e : Nat) (y : Engine) (x : Iss) (rw : List Nat × List Nat) (xfer : Option Nat) (r : Res) (n : Nat) :
    (((u.setEng e y).enter e x rw xfer r).eng e).tile n = y.tile n := by
  rw [enter_eng, setEng_eng]
  rfl

/-- TCFG gives its tile a configuration that R65 admits (R80, R126). -/
theorem tcfg_runs (h : Issues s e 0x08 s1 x) (hok : (s1.eng e).cfgOk x.i.dst x.i.tileCfg = true) :
    ∃ t, exec (.tcfg e) s = .next t ∧ Ran s t e ∧ TileIs (t.eng e) x.i.dst x.i.tileCfg := by
  refine ⟨_, congrArg Host.Outcome.next (issueRun_of_issues h rfl _), ?_⟩
  dsimp only
  rw [if_pos hok]
  refine ⟨ran_setTiles (issuedAs_of_go h) (cfgApply_tileChange _ _ _), ?_⟩
  rw [TileIs, enter_setEng_tile]
  exact cfgApply_tileIs _ _ _

/-- TREL clears the in-use flag of its tile, and makes a key tile EMPTY (R68, R133). -/
theorem trel_runs (h : Issues s e 0x0B s1 x) (hnamed : (s1.eng e).named x.i.dst = true) : ∃ t, exec (.trel e) s = .next t ∧ Ran s t e ∧
    ((t.eng e).tile x.i.dst).inUse = false ∧ (((s.eng e).tile x.i.dst).key = true → ((t.eng e).tile x.i.dst).kst = .empty) := by
  have hgo := issuedAs_of_go h
  have htile : (s1.eng e).tile = (s.eng e).tile := by
    obtain ⟨q, heng⟩ := hgo.eng
    rw [heng]
    rfl
  refine ⟨_, congrArg Host.Outcome.next (issueRun_of_issues h rfl _), ?_⟩
  dsimp only
  rw [if_neg (by simp [hnamed])]
  split_ifs with hkey
  · rw [enter_setEng_tile]
    exact ⟨ran_setTiles hgo (releaseKey_tileChange _ _), releaseKey_inUse _ _, fun _ => releaseKey_kst _ _⟩
  · rw [enter_setEng_tile]
    exact ⟨ran_setTiles hgo ((zeroTile_tileChange _ _).trans (unlatch_tileChange _ _)), zeroTile_inUse _ _,
      fun hk => absurd (htile ▸ hk) hkey⟩

end Results

/-- Settles O7, one lemma per instruction: what its own part writes into the engine that issued it. -/
theorem scalarAndTileInstructions : Obligations.ScalarAndTileInstructions := by
  unfold Obligations.ScalarAndTileInstructions
  exact ⟨fun e s s1 x => ⟨nop_runs, fence_runs, temit_runs, twait_runs, cnti_runs, cntd_runs, cmpb_runs⟩,
    fun e s s1 x => ⟨tcfg_runs, trel_runs⟩⟩

/-! ## A TCFG that R65 refuses (R81) -/

/-- Marks of spent ciphertexts leave the token queues (R174). -/
theorem retireMarks_queues (s : State) (e : Nat) (v : WinEnt) : ((s.retireMarks e v).eng e).queues = (s.eng e).queues := by
  have hadd : ∀ (u : State) n m, (u.addMarks e n m).eng e = u.eng e := fun u n m => eng_of_within (State.addMarks_within u e n m) rfl e
  unfold State.retireMarks
  dsimp only
  split_ifs <;> simp [hadd]

/-- The token that a retiring instruction emits joins its queue, with the instruction's poison (R99, R101). -/
theorem retireHead_queue (s : State) (e : Nat) (v : WinEnt) (rest : List WinEnt) (hemit : (insOf v.word).emit ≠ 15) :
    ((s.retireHead e v rest).eng e).queue (insOf v.word).emit =
      (s.eng e).queue (insOf v.word).emit ++ [{ value := v.value, poison := v.poison }] := by
  have hevent : ∀ (u : State) ev n, (u.event (.engine e) ev n).eng e = u.eng e := fun _ _ _ => rfl
  have hsump : ∀ (u : State) g r, (u.sumpPut g r).eng e = u.eng e := fun u g r => eng_of_within (State.sumpPut_within u g r) rfl e
  unfold State.retireHead
  dsimp only
  rw [Engine.queue, retireMarks_queues, if_neg hemit]
  repeat' split
  all_goals
    simp only [hevent, hsump, setEng_eng]
    exact tget_tset_self _ _ _ _

/-- The oldest instruction retires once it is done and its token has room (R98). -/
theorem instructionRetire_of_done {e : Fin 64} {s : State} {v : WinEnt} {rest : List WinEnt} (hwin : (s.eng e).window = v :: rest)
    (hdone : s.headDone e v = true) (hroom : (s.eng e).room (insOf v.word).emit = true) :
    exec (.instructionRetire e) s = .next (s.retireHead e v rest) := by
  have hroom' : (s.eng e).room (fld v.word.toNat 108 4) = true := hroom
  show execInstructionRetire e s = _
  simp [execInstructionRetire, hwin, hdone, hroom']

/-- Settles O57: the refused TCFG enters the window with its fault and nothing else, and a fault is poison of the entry's token. -/
theorem refusedTcfgChangesNoTile : Obligations.RefusedTcfgChangesNoTile := by
  unfold Obligations.RefusedTcfgChangesNoTile
  intro e s s1 x h hbad
  have hgo := issuedAs_of_go h
  obtain ⟨q, heng⟩ := hgo.eng
  have hrun : exec (.tcfg e) s = .next (s1.enter e x ((s1.eng e).rw x.i) none (Res.shape x.i.dst)) := by
    refine congrArg Host.Outcome.next ((issueRun_of_issues h rfl _).trans ?_)
    dsimp only
    rw [if_neg (by simp [hbad])]
  refine ⟨_, windowEntry x ((s1.eng e).rw x.i) none (Res.shape x.i.dst), hrun, ?_⟩
  rw [enter_eng, heng]
  refine ⟨rfl, rfl, rfl, rfl, rfl, rfl, fun u rest hwin hemit hroom => ?_⟩
  have hopc : fld x.w.toNat 120 8 = 0x08 := (by simpa [hgo.fields] using hgo.opcode : (insOf x.w).opc = 0x08)
  have hdone : u.headDone e (windowEntry x ((s1.eng e).rw x.i) none (Res.shape x.i.dst)) = true := by
    simp only [State.headDone, windowEntry, hopc]
    rfl
  exact ⟨_, _, instructionRetire_of_done hwin hdone hroom, retireHead_queue u e _ rest hemit, by simp [windowEntry, Res.shape]⟩

end Sys2Proof.EngineInstr

/-! The controls of an engine: TILE_CFG, START, stop points, RND_SEED, the debug window, answers of exports (R82, R89, R112, R117, R118, R197,
R229, R466; O16). -/

namespace Sys2Proof.EngineCtl

open Sys2Proof Sys2Proof.Machine Sys2Proof.Laws Sys2Proof.InstantsDispatch Sys2Proof.EngineInstr
open Sys2Proof.ChainDrip (gate_takes getLsbD_and_not_oneHot)

/-- A block that is ON applies a write of its supervisor's. -/
theorem inner_on {s : State} {p : Page} (h : s.blkOn p = true) (k : State → State) : s.inner p k = k s := by simp [State.inner, h]

section TileCfg

variable {e : Fin 64} {s : State} {n : Fin 32} {val : Word64}

/-- Something refers to a tile that a configuration replaces, so that a write of it waits (R80). -/
def cfgWaits (s : State) (e n : Nat) (v : TileCfg) : Bool :=
  let ts := (s.eng e).replaced n v
  s.streamRef e ts || (s.eng e).window.any fun w => w.names.any fun u => (u :: (s.eng e).members u).any fun m => ts.contains m

theorem tileCfgWrite_eq (htakes : s.takes (.engine e) = true) (port : Fin 2) :
    exec (.tileCfgWrite port 0 e n val) s = .next (s.tileCfgPut e n val.toNat) :=
  congrArg Host.Outcome.next (gate_takes htakes _)

variable (hst : (s.eng e).st = .idle ∨ (s.eng e).st = .stopped ∨ (s.eng e).st = .halted)
include hst

/-- A write of TILE_CFG in a state that takes it waits, is applied or is refused (R80, R82). -/
theorem tileCfgPut_taken : s.tileCfgPut e n val.toNat =
    if (s.eng e).cfgW ≠ [] ∨ cfgWaits s e n (cfgOfWord val.toNat) = true then
      s.setEng e { s.eng e with cfgW := (s.eng e).cfgW ++ [(n.val, val.toNat)] }
    else if (s.eng e).cfgOk n (cfgOfWord val.toNat) then s.setEng e ((s.eng e).cfgApply n (cfgOfWord val.toNat))
    else s.refuse (.engine e) .badCommand := by
  have hgo : ¬((s.eng e).st ≠ .idle ∧ (s.eng e).st ≠ .stopped ∧ (s.eng e).st ≠ .halted) := by tauto
  simp only [State.tileCfgPut, if_neg hgo, cfgWaits, Bool.or_eq_true, ne_eq, ← List.isEmpty_iff, Bool.not_eq_true', Bool.not_eq_true]

end TileCfg

section Start

variable {e : Fin 64} {s s1 s2 : State}

/-- A token that was recorded for the command brings its engine at most a token (R403). -/
theorem replayTok_onlyTokens (e : Nat) (s : State) (q : Nat) (k : Token) : OnlyTokens e s (s.replayTok e q k) := by
  unfold State.replayTok
  split
  · exact ⟨_, setEng_eng _ _ _⟩
  · exact .of_eng rfl

theorem replayToks_onlyTokens (e : Nat) (s : State) : OnlyTokens e s (s.replayToks e) := by
  unfold State.replayToks
  split
  · exact .refl e s
  · split
    · exact .refl e s
    · refine .foldl (.refl e s) fun v d _ => ?_
      split
      · split
        · next hslot => exact hslot.2 ▸ replayTok_onlyTokens _ v _ _
        · exact .refl e v
      · exact .refl e v

/-- The engine of a program that has been read, before its recorded tokens. -/
def loaded (x : Engine) (stopat : Nat) (ws : List (BitVec 128)) : Engine :=
  { x with faultInfo := 0, retired := 0, issued := 0, pc := 0, ct := [], cp := [], queues := [], window := [], ringOp := none,
           firstFault := none, anySkip := false, ended := none, result := 0, rescPending := 0, rndLatched := x.rndSeed, prog := ws,
           stopNow := false, st := .running, stopCnt := if stopat = 0 then x.stopCnt else stopat }

/-- START of a program that passes its checks leaves the engine cleared, loaded and running, but for recorded tokens (R112, R240). -/
theorem startEngine_eng {stopat : Nat} {ws : List (BitVec 128)} {img : List (List Nat)}
    (hprog : (s.clearRun e).readProg e (s.eng e).progBase.toNat = (s1, .ok (stopat, ws))) (himg : s1.readImage e = (s2, .ok img)) :
    ∃ q, (s.startEngine e).eng e = { loaded (s.eng e) stopat ws with queues := q } := by
  have heng : s2.eng e = (s.clearRun e).eng e :=
    (eng_of_within (Within.of_pair himg (State.readImage_within s1 e)) rfl e).trans
      (eng_of_within (Within.of_pair hprog (State.readProg_within _ _ _)) rfl e)
  simp only [State.startEngine, hprog, himg]
  rw [eng_of_within (State.loadSlots_within _ _ _) rfl]
  obtain ⟨q, hq⟩ := replayToks_onlyTokens e (s2.setEng e { s2.eng e with
    prog := ws, st := .running, stopCnt := if stopat = 0 then (s2.eng e).stopCnt else stopat })
  refine ⟨q, ?_⟩
  rw [hq, setEng_eng, heng, State.clearRun, setEng_eng]
  rfl

/-- START of an idle engine (R112). -/
theorem engineStart_starts {val : Word32} {stopat : Nat} {ws : List (BitVec 128)} {img : List (List Nat)}
    (hon : s.blkOn (.engine e) = true) (hfrozen : s.engFrozen e = false) (hbit : bit val.toNat 0 = true) (hst : (s.eng e).st = .idle)
    (hreset : (s.eng e).inReset = false)
    (hprog : (s.clearRun e).readProg e (s.eng e).progBase.toNat = (s1, .ok (stopat, ws))) (himg : s1.readImage e = (s2, .ok img)) :
    ∃ t q, exec (.engineStart e val) s = .next t ∧ t.eng e = { loaded (s.eng e) stopat ws with queues := q } := by
  obtain ⟨q, hq⟩ := startEngine_eng hprog himg
  refine ⟨_, q, ?_, hq⟩
  show execEngineStart e val s = _
  rw [execEngineStart, inner_on hon]
  simp [State.startWrite, hbit, hfrozen, hst, hreset]

end Start

section Controls

variable {e : Fin 64} {s : State} {port : Fin 2} {fn : Fin 64}

/-- STOP_CNT takes its value (R117, R118). -/
theorem stopCntWrite_puts (htakes : s.takes (.engine e) = true) (hmay : s.mayUse port fn (s.eng e).tenant = true) (val : Word64) :
    exec (.stopCntWrite port fn e val) s = .next (s.stopCntPut e val.toNat) := by
  show execStopCntWrite port fn e val s = _
  rw [execStopCntWrite, hmay, gate_takes htakes]

/-- RND_SEED takes its value in IDLE and SAVED; the latched seed stays (R229). -/
theorem rndSeedWrite_puts (hon : s.blkOn (.engine e) = true) (hst : (s.eng e).st = .idle ∨ (s.eng e).st = .saved) (val : Word64) :
    exec (.rndSeedWrite e val) s = .next (s.setEng e { s.eng e with rndSeed := val }) := by
  show execRndSeedWrite e val s = _
  rw [execRndSeedWrite, inner_on hon, State.rndSeedPut, if_pos hst]

/-- The window reads in STOPPED and HALTED (R89). -/
theorem dbgWinRead_reads {off : Fin 2048} {size : Nat} (hsize : size = 4 ∨ size = 8) (halign : off.val % size = 0)
    (hmay : s.mayUse port fn (s.eng e).tenant = true) (hon : s.blkOn (.engine e) = true)
    (hst : (s.eng e).st = .stopped ∨ (s.eng e).st = .halted) :
    exec (.dbgWinRead port fn e off size) s = .next { s with lastRead := (s.eng e).dbgBytes off size } := by
  have hok : ¬((size ≠ 4 ∧ size ≠ 8) ∨ off.val % size ≠ 0) := by tauto
  show execDbgWinRead port fn e off size s = _
  simp [execDbgWinRead, if_neg hok, hmay, hon, State.dbgRead, if_pos hst]

/-- An answer with the number that HSIG waits for enters Q15 and ends the wait (R197). -/
theorem hsigWrite_answers {g : Fin 16} {j : Fin 4} {val : Word64} (hj : fld val.toNat 32 2 = j.val) (htakes : s.takes (.gallery g) = true)
    (hmay : s.mayUse port fn (s.eng (4 * g + j)).tenant = true) (hpend : (s.gal g).xportPend.getLsbD j = true)
    (hseq : fld val.toNat 48 16 = fld (tget (s.gal g).xportSeq j 0).toNat 0 16) :
    exec (.hsigWrite port fn g val) s =
      .next ((s.setEng (4 * g + j)
        ((s.eng (4 * g + j)).push 15 { value := BitVec.ofNat 16 (fld val.toNat 0 16), poison := bit val.toNat 16 })).setGal g { s.gal g with
          xportPend := (s.gal g).xportPend &&& ~~~(BitVec.ofNat 4 (1 <<< j.val)) }) := by
  show execHsigWrite port fn g val s = _
  rw [execHsigWrite, gate_takes htakes]
  simp [State.hsigPut, hj, hmay, hpend, hseq]

/-- The stop point is reached, or the window is empty after a write of STOP_CNT at or below RETIRED (R117). -/
theorem engineStopped_stops (hst : (s.eng e).st = .running) (hcnt : (s.eng e).stopCnt ≠ 0)
    (hreached : ((s.eng e).stopNow = false ∧ (s.eng e).stopCnt ≤ (s.eng e).retired ∧ s.startedQuiet e = true) ∨
      ((s.eng e).stopNow = true ∧ (s.eng e).window = [])) :
    exec (.engineStopped e) s = .next (s.setEng e { s.eng e with st := .stopped, stopNow := false }) := by
  refine if_pos ⟨hst, hcnt, ?_⟩
  rcases hreached with ⟨hnow, hle, hquiet⟩ | ⟨hnow, hwin⟩
  · rw [hnow]
    exact ⟨hle, hquiet⟩
  · rw [hnow]
    exact hwin

theorem engineHalted_halts (hhalt : (s.hdr (.engine e)).halt = true) (hst : (s.eng e).st = .running ∨ (s.eng e).st = .stopped)
    (hwin : (s.eng e).window = []) : exec (.engineHalted e) s = .next (s.setEng e { s.eng e with st := .halted }) :=
  if_pos ⟨hhalt, hst, hwin⟩

end Controls

/-- Settles O16, one lemma per control. -/
theorem engineControl : Obligations.EngineControl := by
  unfold Obligations.EngineControl
  refine ⟨fun port fn e s => ⟨fun n val htakes hst => ⟨?cfgApplied, ?cfgWaiting⟩, ?start, fun val htakes hmay => ?stopCnt,
    fun val hon hst => ?seed, fun off size hsize halign hmay hon hst => dbgWinRead_reads hsize halign hmay hon hst, ?hsig⟩,
    fun e s => ⟨engineStopped_stops, engineHalted_halts⟩⟩
  case cfgApplied =>
    intro hnone hfree hok
    have hwaits : cfgWaits s e n (cfgOfWord val.toNat) = false := hfree
    refine ⟨_, tileCfgWrite_eq htakes port, ?_⟩
    rw [tileCfgPut_taken hst, if_neg (by simp [hnone, hwaits]), if_pos hok, setEng_eng]
    exact cfgApply_tileIs _ _ _
  case cfgWaiting =>
    intro hwaits
    change _ ∨ cfgWaits s e n (cfgOfWord val.toNat) = true at hwaits
    rw [tileCfgWrite_eq htakes port, tileCfgPut_taken hst, if_pos hwaits]
  case start =>
    intro val s1 s2 stopat ws img hon hfrozen hbit hst hreset hprog himg
    obtain ⟨t, q, hexec, heng⟩ := engineStart_starts hon hfrozen hbit hst hreset hprog himg
    refine ⟨t, hexec, ?_⟩
    rw [heng]
    exact ⟨rfl, rfl, rfl, rfl, rfl, rfl, rfl, fun n => ⟨rfl, rfl⟩, fun hne => if_neg hne⟩
  case stopCnt =>
    refine ⟨_, stopCntWrite_puts htakes hmay val, ?_⟩
    rw [State.stopCntPut, setEng_eng]
    exact ⟨rfl, rfl⟩
  case seed =>
    refine ⟨_, rndSeedWrite_puts hon hst val, ?_⟩
    rw [setEng_eng]
    exact ⟨rfl, rfl⟩
  case hsig =>
    intro g j val hj htakes hmay hpend hseq
    refine ⟨_, hsigWrite_answers hj htakes hmay hpend hseq, ?_, ?_⟩
    · rw [setGal_gal]
      exact getLsbD_and_not_oneHot 4 j _
    · rw [setGal_eng, setEng_eng]
      exact tget_tset_self _ _ _ _

end Sys2Proof.EngineCtl

/-! Writes of memory that a clean slice serves: no byte outside the run changes (R282-R286, R292). -/

namespace Sys2Proof.CleanWrites

open Sys2Proof Sys2Proof.Machine Sys2Proof.Laws

/-! ## Steps that reach neither memory nor slices -/

/-- From s to t neither the memory nor a slice changed, and the same stacks have failed. -/
structure Unserved (s t : State) : Prop where
  mem : t.mem = s.mem
  flows : t.flows = s.flows
  failed : ∀ n, (t.hbmc n).failed = (s.hbmc n).failed

section Steps

variable {s t u : State}

theorem Unserved.refl (s : State) : Unserved s s := ⟨rfl, rfl, fun _ => rfl⟩

theorem Unserved.trans (h : Unserved s t) (h' : Unserved t u) : Unserved s u :=
  ⟨h'.mem.trans h.mem, h'.flows.trans h.flows, fun n => (h'.failed n).trans (h.failed n)⟩

theorem event_unserved (s : State) (p : Page) (ev n : Nat) : Unserved s (s.event p ev n) := ⟨rfl, rfl, fun _ => rfl⟩

theorem hbmTraffic_unserved (s : State) (a ev k : Nat) : Unserved s (s.hbmTraffic a ev k) :=
  (event_unserved s _ _ _).trans (event_unserved _ _ _ _)

theorem foundUe_unserved (s : State) (a : Nat) : Unserved s (s.foundUe a) := by
  refine Unserved.trans (t := s.setHbmc (stackOf a) { s.hbmc (stackOf a) with ueAddr := BitVec.ofNat 64 (a / 64 * 64) })
    ⟨rfl, rfl, fun n => ?_⟩ (event_unserved _ _ _ _)
  by_cases hn : n = stackOf a
  · rw [hn, setHbmc_hbmc]
  · rw [setHbmc_hbmc_other _ _ _ hn]

theorem missEvents_unserved (s : State) (hint a lo n : Nat) (write : Bool) : Unserved s (s.missEvents hint a lo n write) := by
  have hreads : ∀ (v : State) (l : List Nat), Unserved v (l.foldl (fun w p => w.foundUe (a + 64 * p)) v) := fun v l =>
    List.foldlRecOn (motive := Unserved v) l _ (.refl v) fun _ hw _ _ => hw.trans (foundUe_unserved _ _)
  have hserved := (hbmTraffic_unserved s a 1 (missReads hint a lo n write).length).trans
    (hreads _ ((missReads hint a lo n write).filter fun p => s.ue.contains (a / 64 + p)))
  unfold State.missEvents
  dsimp only
  split
  · exact (hserved.trans (hbmTraffic_unserved _ _ _ _)).trans (event_unserved _ _ _ _)
  · exact hserved

theorem wroteBack_unserved (s : State) (l : Line) : Unserved s (s.wroteBack l) := by
  unfold State.wroteBack
  split
  · exact .refl s
  · exact (event_unserved s _ _ _).trans (hbmTraffic_unserved _ _ _ _)

end Steps

/-! ## Clean lines -/

/-- A line that brings no older bytes back: its stack works, and the parts that HBM holds otherwise are dirty. -/
def LineClean (s : State) (l : Line) : Prop := (s.hbmc (stackOf l.dpa)).failed = false ∧ ∀ p ∈ l.shadow, p.1 ∈ l.dirty

theorem LineClean.of_unserved {s t : State} {l : Line} (h : LineClean s l) (h' : Unserved s t) : LineClean t l :=
  ⟨(h'.failed _).trans h.1, h.2⟩

theorem LineClean.setFlow {s : State} {l : Line} (h : LineClean s l) (c : Nat) (f : Flow) : LineClean (s.setFlow c f) l := h

theorem slicesClean_of_unserved {s t : State} (h : SlicesClean s) (h' : Unserved s t) : SlicesClean t := fun c l hl =>
  LineClean.of_unserved (h c l (by rwa [State.flow, h'.flows] at hl)) h'

/-- Written parts are dirty. -/
theorem marked_clean {s : State} {l : Line} (h : LineClean s l) (t : State) (parts : List Nat) : LineClean s (l.marked t parts) := by
  obtain ⟨hstack, hdirty⟩ := h
  refine ⟨hstack, fun p hp => ?_⟩
  have hadd : ∀ q ∈ parts, q ∈ (l.marked t parts).dirty := fun q hq => by
    by_cases hq' : q ∈ l.dirty <;> simp [Line.marked, hq, hq']
  rcases List.mem_append.1 hp with hp | hp
  · exact List.mem_append_left _ (hdirty p hp)
  · obtain ⟨q, hq, rfl⟩ := List.mem_map.1 hp
    exact hadd q (List.mem_of_mem_filter hq)

/-- A clean line that leaves its slice changes no byte. -/
theorem evicted_unserved {s : State} {v : Option Line} (h : ∀ l, v = some l → LineClean s l) : Unserved s (s.evicted v) := by
  cases v with
  | none => exact .refl s
  | some l =>
    obtain ⟨hstack, hdirty⟩ := h l rfl
    have hshadow : l.clean.shadow = [] := by
      simpa [Line.clean, List.filter_eq_nil_iff] using fun a b c hp => hdirty (a, b, c) hp
    simp only [State.evicted, hstack, Bool.false_eq_true, if_false, hshadow]
    exact wroteBack_unserved s l

/-! ## The ways of a set -/

theorem mem_lines_of_mem_set {f : Flow} {k : Nat} {l : Line} (h : l ∈ tget f.sets k []) : l ∈ f.lines := by
  have hset : ∀ t : Tbl (List Line), l ∈ tget t k [] → l ∈ (t.map fun p => p.2).flatten := by
    intro t
    induction t with
    | nil => intro h; simp at h
    | cons p t ih =>
      obtain ⟨j, ws⟩ := p
      intro h
      simp only [tget] at h
      split at h
      · exact List.mem_append_left _ h
      · exact List.mem_append_right _ (ih h)
  exact hset f.sets h

/-- A line of a slice whose set k was replaced is one of the new ways or was there. -/
theorem mem_lines_tset {f : Flow} {k : Nat} {ws : List Line} {l : Line} (h : l ∈ Flow.lines { f with sets := tset f.sets k ws }) :
    l ∈ ws ∨ l ∈ f.lines := by
  simp only [Flow.lines, tset, List.map_append, List.map_cons, List.flatten_append, List.flatten_cons, List.mem_append, List.mem_flatten,
    List.mem_map, List.mem_filter] at h ⊢
  rcases h with ⟨_, ⟨p, ⟨hp, -⟩, rfl⟩, hl⟩ | hl | ⟨_, ⟨p, ⟨hp, -⟩, rfl⟩, hl⟩
  · exact .inr ⟨_, ⟨p, hp, rfl⟩, hl⟩
  · exact .inl hl
  · exact .inr ⟨_, ⟨p, hp, rfl⟩, hl⟩

/-- Slices stay clean when one of them becomes a clean one with a set of clean ways. -/
theorem slicesClean_setFlow {s : State} (h : SlicesClean s) {f : Flow} (hf : ∀ l ∈ f.lines, LineClean s l) (c k : Nat) {ws : List Line}
    (hws : ∀ l ∈ ws, LineClean s l) : SlicesClean (s.setFlow c { f with sets := tset f.sets k ws }) := by
  intro c' l hl
  by_cases hc : c' = c
  · subst hc
    rw [setFlow_flow] at hl
    exact (mem_lines_tset hl).elim (hws l) (hf l)
  · rw [setFlow_flow_other _ _ _ hc] at hl
    exact h c' l hl

/-- Recency without a KEEP mark only reorders the ways. -/
theorem mem_touchWay {a : Nat} {ws : List Line} {l : Line} (h : l ∈ (touchWay 0 a false ws).1) : l ∈ ws := by
  unfold touchWay at h
  split at h
  · exact h
  · next v hv =>
    simp only [Bool.false_and, Bool.false_eq_true, if_false, List.mem_cons, List.mem_filter] at h
    rcases h with rfl | ⟨hl, -⟩
    · exact List.mem_of_find?_eq_some hv
    · exact hl

theorem mem_evict {ws : List Line} {l : Line} (h : l ∈ (evict ws).1) : l ∈ ws := by
  unfold evict at h
  split at h
  · exact h
  · split at h
    · exact List.mem_of_mem_filter h
    · exact h

theorem evict_mem {ws : List Line} {l : Line} (h : (evict ws).2 = some l) : l ∈ ws := by
  unfold evict at h
  split at h
  · simp at h
  · split at h
    · next v hv =>
      obtain rfl : v = l := by simpa using h
      exact List.mem_reverse.1 (List.mem_of_find?_eq_some hv)
    · simp at h

/-! ## A request under NORMAL -/

/-- Lines of which the written ones were marked are clean. -/
theorem dirtied_clean {s : State} {ws : List Line} (h : ∀ l ∈ ws, LineClean s l) (t : State) (a : Nat) (parts : List Nat) (write : Bool) :
    ∀ l ∈ (if write then ws.map fun x => if x.dpa = a then x.marked t parts else x else ws), LineClean s l := by
  split
  · intro l hl
    obtain ⟨x, hx, rfl⟩ := List.mem_map.1 hl
    split
    · exact marked_clean (h x hx) t parts
    · exact h x hx
  · exact h

/-- A request under NORMAL changes no byte and leaves every slice clean (R283). -/
theorem flowLine_normal {s : State} (h : SlicesClean s) (a lo n : Nat) (write : Bool) :
    (s.flowLine 0 a lo n write).mem = s.mem ∧ SlicesClean (s.flowLine 0 a lo n write) := by
  have hways : ∀ l ∈ tget (s.flow (stackOf a / 2)).sets (flowSet a) [], LineClean s l := fun l hl => h _ l (mem_lines_of_mem_set hl)
  have hput : ∀ {u : State} {ws : List Line}, Unserved s u → (∀ l ∈ ws, LineClean s l) → SlicesClean (u.setFlow (stackOf a / 2)
      { s.flow (stackOf a / 2) with sets := tset (s.flow (stackOf a / 2)).sets (flowSet a) ws }) := fun hu hws =>
    slicesClean_setFlow (slicesClean_of_unserved h hu) (fun l hl => LineClean.of_unserved (h _ l hl) hu) _ _ fun l hl =>
      (hws l hl).of_unserved hu
  have hdone : ∀ {t u : State} {p ev k}, SlicesClean t → t.mem = s.mem → Unserved t u →
      (u.event p ev k).mem = s.mem ∧ SlicesClean (u.event p ev k) := fun ht hmem hu =>
    ⟨hu.mem.trans hmem, slicesClean_of_unserved ht (hu.trans (event_unserved _ _ _ _))⟩
  have hcounted : ∀ ev, Unserved s (s.event (.flow (stackOf a / 2)) ev 1) := fun ev => event_unserved s _ ev 1
  have hstack : ∀ ev, ((s.event (.flow (stackOf a / 2)) ev 1).hbmc (stackOf a)).failed = (s.hbmc (stackOf a)).failed := fun _ => rfl
  unfold State.flowLine
  dsimp only
  rw [hstack]
  by_cases hhit : ((s.flow (stackOf a / 2)).line a).isSome = true
  · rw [if_pos hhit, if_neg (by decide), if_neg (by decide)]
    exact hdone (hput (hcounted _) (dirtied_clean (fun l hl => hways l (mem_touchWay hl)) _ _ _ _)) rfl (.refl _)
  rw [if_neg hhit]
  by_cases hfailed : (s.hbmc (stackOf a)).failed = true
  · rw [if_pos hfailed]
    exact ⟨rfl, slicesClean_of_unserved h (hcounted _)⟩
  · rw [if_neg hfailed, if_pos (.inl rfl)]
    have hnew : ∀ l ∈ (allocWay 0 a false (tget (s.flow (stackOf a / 2)).sets (flowSet a) [])).1, LineClean s l := fun l hl => by
      rcases List.mem_cons.1 hl with rfl | hl
      · exact ⟨by simpa using hfailed, by simp⟩
      · exact hways l (mem_evict hl)
    have hmissed : ∀ ev, Unserved s ((s.event (.flow (stackOf a / 2)) ev 1).missEvents 0 a lo n write) := fun ev =>
      (hcounted ev).trans (missEvents_unserved _ 0 a lo n write)
    exact hdone (hput (hmissed _) (dirtied_clean hnew _ _ _ _)) (hmissed _).mem (evicted_unserved fun l hl =>
      ((hways l (evict_mem hl)).of_unserved (hmissed _)).setFlow _ _)

/-- A run of requests under NORMAL changes no byte. -/
theorem flowRun_normal {s : State} (h : SlicesClean s) (a n : Nat) (write : Bool) : (s.flowRun 0 a n write).mem = s.mem := by
  have hrun : (s.flowRun 0 a n write).mem = s.mem ∧ SlicesClean (s.flowRun 0 a n write) :=
    List.foldlRecOn (motive := fun t : State => t.mem = s.mem ∧ SlicesClean t) (linesOf a n) _ ⟨rfl, h⟩ fun t ⟨hmem, ht⟩ l _ => by
      obtain ⟨hmem', ht'⟩ := flowLine_normal ht l a n write
      exact ⟨hmem'.trans hmem, ht'⟩
  exact hrun.1

/-- A write under NORMAL through clean slices changes no byte outside its run. -/
theorem devWrite_sameMemOutside {s : State} (h : SlicesClean s) (a : Nat) (bs : Bytes) :
    SameMemOutside s (s.devWrite 0 a bs).1 a bs.length := by
  have hput : ∀ m, m = s.mem → ∀ b, b < a ∨ a + bs.length ≤ b → memGet (memPut m 0 a bs) 0 b = memGet s.mem 0 b := fun m hm b hb => by
    rw [hm, memGet_memPut_out _ _ _ _ _ hb]
  intro b hb
  unfold State.devWrite State.devWriteBy
  dsimp only
  split
  · rfl
  split
  · rfl
  split
  · split
    · rw [(foundUe_unserved s a).mem]
    · exact hput _ (flowRun_normal h _ _ _) b hb
  · rw [(State.noteWatch_within _ _ _ _).eq_mem rfl]
    exact hput _ rfl b hb

end Sys2Proof.CleanWrites

/-! Save and restore of an engine (R73-R75, R88, R115, R198, R264; O17). -/

namespace Sys2Proof.SaveRestore

open Sys2Proof Sys2Proof.Machine Sys2Proof.Laws Sys2Proof.EngineInstr Sys2Proof.EngineCtl

/-! ## Save -/

/-- What a save area holds (R74, R115, R264). -/
def saveArea (s : State) (e : Nat) : Bytes := (s.eng e).saveHeader ++ (s.eng e).saveImages ++ (s.strm e).saveRecord

section Save

variable {e : Fin 64} {s : State}

/-- A save with its area in HBM begins (R73, R88). -/
theorem engineSave_begins (hon : s.blkOn (.engine e) = true)
    (hst : (s.eng e).st = .running ∨ (s.eng e).st = .stopped ∨ (s.eng e).st = .halted)
    (hhbm : inHbm (s.eng e).saveBase.toNat (s.eng e).saveBytes = true) :
    exec (.engineSave e) s = .next (s.setEng e { s.eng e with st := .saving }) := by
  show execEngineSave e s = _
  rw [execEngineSave, inner_on hon, State.saveWrite, if_pos ⟨hst, hhbm⟩]

/-- The engine, its stream unit, its place at the Drip and its bit of XPORT_PEND once the save area has been written. -/
def scrubbed (s t : State) (e : Nat) (kept : SavedProg) : State :=
  let t1 := t.setEng e { s.eng e with tiles := [], tf := [], latch0 := none, latch1 := none, st := .saved, queues := [] }
  let t2 := t1.setStrm e { simgBase := (s.strm e).simgBase }
  let t3 := t2.setDrip (e / 4) { t2.drip (e / 4) with
    nk := tdel (t2.drip (e / 4)).nk (e % 4)
    abuf := tdel (t2.drip (e / 4)).abuf (e % 4) }
  t3.setGal (e / 4) { t3.gal (e / 4) with
    xportPend := (t3.gal (e / 4)).xportPend &&& ~~~(BitVec.ofNat 4 (1 <<< (e % 4)))
    saved := tset (t3.gal (e / 4)).saved (s.eng e).saveBase.toNat kept }

/-- A save completes once the engine and its group are quiet (R73, R106). -/
theorem saveComplete_eq (hst : (s.eng e).st = .saving) (hwin : (s.eng e).window = []) (hring : (s.eng e).ringOp = none)
    (hquiet : s.saveQuiet e = true) (hgroup : s.groupQuiet e = true) :
    ∃ kept, exec (.saveComplete e) s = .next (scrubbed s (s.devWrite 0 (s.eng e).saveBase.toNat (saveArea s e)).1 e kept) := by
  refine ⟨_, if_neg ?_⟩
  simp [hst, hwin, hring, hquiet, hgroup]

end Save

/-- A save leaves the engine SAVED without tiles and tokens, its place without noise key and pending answer; memory is as the write left it. -/
structure Scrubbed (t u : State) (e : Nat) : Prop where
  st : (u.eng e).st = .saved
  tiles : (u.eng e).tiles = []
  tf : (u.eng e).tf = []
  queues : ∀ q, (u.eng e).queue q = []
  xport : (u.gal (e / 4)).xportPend.getLsbD (e % 4) = false
  nk : u.nkOf e = []
  mem : u.mem = t.mem

theorem scrubbed_scrubbed (s t : State) (e : Nat) (kept : SavedProg) : Scrubbed t (scrubbed s t e kept) e where
  st := by simp [scrubbed]
  tiles := by simp [scrubbed]
  tf := by simp [scrubbed]
  queues q := by simp [scrubbed, Engine.queue]
  xport := by
    rw [scrubbed, setGal_gal]
    exact ChainDrip.getLsbD_and_not_oneHot 4 _ _
  nk := by simp [scrubbed, State.nkOf]
  mem := by simp [scrubbed]

/-! ## Restore -/

/-- What a restore puts in place: the engine, its stream unit, HALT in its page's header, and its tenant's noise key at the Drip. -/
def placed (s : State) (e : Nat) (x : Engine) (y : Stream) : State :=
  let t := (s.setEng e x).setStrm e y
  (t.setHdr (.engine e) { t.hdr (.engine e) with halt := true }).loadNk e

section Placed

variable (s : State) (e : Nat) (x : Engine) (y : Stream)

theorem placed_eng : (placed s e x y).eng e = x := by simp [placed, State.loadNk]

theorem placed_halt : ((placed s e x y).hdr (.engine e)).halt = true := by simp [placed, State.loadNk]

theorem placed_nkOf : (placed s e x y).nkOf e = (s.ctx x.tenant).nk := by simp [placed, State.loadNk, State.nkOf]

end Placed

/-- What passes the checks of a restore is put into the engine: it is RESTORING at the saved position, HALT is set, and the Drip has its
tenant's noise key (R75, R115, R231, R466). -/
structure Restored (s t : State) (e : Nat) (h : SaveHdr) (ws : List (BitVec 128)) : Prop where
  st : (t.eng e).st = .restoring
  pc : (t.eng e).pc = h.pc
  retired : (t.eng e).retired = h.retired
  stopCnt : (t.eng e).stopCnt = h.stopCnt
  prog : (t.eng e).prog = ws
  window : (t.eng e).window = []
  halt : (t.hdr (.engine e)).halt = true
  nk : t.nkOf e = (s.ctx (s.eng e).tenant).nk

theorem restorePut_restored (s : State) (e : Nat) (h : SaveHdr) (y : Engine) (ws : List (BitVec 128)) (images rec_ : Bytes)
    (img : List (List Nat)) : Restored s (s.restorePut e h y ws images rec_ img) e h ws where
  st := congrArg Engine.st (placed_eng s e _ _)
  pc := congrArg Engine.pc (placed_eng s e _ _)
  retired := congrArg Engine.retired (placed_eng s e _ _)
  stopCnt := congrArg Engine.stopCnt (placed_eng s e _ _)
  prog := congrArg Engine.prog (placed_eng s e _ _)
  window := congrArg Engine.window (placed_eng s e _ _)
  halt := placed_halt s e _ _
  nk := placed_nkOf s e _ _

section Checks

variable {e : Fin 64} {s s1 s2 s3 s4 : State} {b b2 : Bytes} {h : SaveHdr} {y : Engine} {so : Nat} {ws : List (BitVec 128)}
variable {img : List (List Nat)}
variable (hread : s.devRead 0 (s.eng e).saveBase.toNat 4096 = (s1, .ok b))
  (hbody : s1.devRead 0 ((s.eng e).saveBase.toNat + 4096) (h.imageBytes y + 256) = (s2, .ok b2))
  (hprog : s2.readProg e h.progBase = (s3, .ok (so, ws)))
  (himg : (s3.restoreStream e (b2.drop (h.imageBytes y))).readImage e = (s4, .ok img))
include hread hbody hprog himg

/-- The reads of a restore leave the tenant of its engine and the keys of every tenant. -/
theorem restoreReads_key : (s4.ctx (s4.eng e).tenant).nk = (s.ctx (s.eng e).tenant).nk := by
  have h1 := Within.of_pair hread (State.devRead_within _ _ _ _)
  have h2 := Within.of_pair hbody (State.devRead_within _ _ _ _)
  have h3 := Within.of_pair hprog (State.readProg_within _ _ _)
  have h4 := Within.of_pair himg (State.readImage_within _ _)
  have heng : s3.eng e = s.eng e := ((eng_of_within h3 rfl e).trans (eng_of_within h2 rfl e)).trans (eng_of_within h1 rfl e)
  have htenant : (s4.eng e).tenant = (s.eng e).tenant := by
    rw [eng_of_within h4 rfl e, State.restoreStream, setEng_eng, ← heng]
  have hgeode : s4.geode = s.geode := by
    rw [h4.eq_geode rfl, (State.restoreStream_within _ _ _).eq_geode rfl, h3.eq_geode rfl, h2.eq_geode rfl, h1.eq_geode rfl]
  rw [htenant, State.ctx, hgeode, State.ctx]

/-- A restore whose area passes every check puts what was saved into its engine (R75). -/
theorem engineRestore_restores (hon : s.blkOn (.engine e) = true) (hst : (s.eng e).st = .idle ∨ (s.eng e).st = .saved)
    (hhbm : inHbm (s.eng e).saveBase.toNat 4096 = true) (hhdr : saveHdrOf b = some h) (htenant : h.tenant = (s.eng e).tenant)
    (hcfg : cfgRestore h.cfg = some y) (hlen : ws.length = h.ninstr) :
    exec (.engineRestore e) s = .next (s4.restorePut e h y ws b2 (b2.drop (h.imageBytes y)) img) := by
  have hgo : ¬(((s.eng e).st ≠ .idle ∧ (s.eng e).st ≠ .saved) ∨ (!inHbm (s.eng e).saveBase.toNat 4096) = true) := by
    rw [hhbm]
    rcases hst with h | h <;> simp [h]
  have hheader := Within.of_pair hread (State.devRead_within _ _ _ _)
  rw [← eng_of_within hheader rfl e] at hbody
  show execEngineRestore e s = _
  rw [execEngineRestore, inner_on hon, State.restoreWrite, if_neg hgo]
  simp only [hread, hhdr, htenant, if_true, hcfg]
  unfold State.restoreFrom
  simp only [hbody, hprog, hlen, ne_eq, not_true, if_false, himg]

end Checks

/-- Slots that take an entry again and key fills that read their headers again leave the engine (R75, R211). -/
theorem resumeSlots_eng (s : State) (e : Nat) :
    ((List.range 4).foldl (fun t n => (if (t.slotOf e n).st = .running then (t.needEnt e n).getD t else t).resumeKf e n) s).eng e =
      s.eng e := by
  refine List.foldlRecOn (motive := fun t : State => t.eng e = s.eng e) _ _ rfl fun t ht n _ => ?_
  rw [eng_of_within (State.resumeKf_within _ _ _) rfl]
  split
  · exact (eng_of_within (Within.getD (fun _ hu => State.needEnt_within hu) (.refl _ _)) rfl e).trans ht
  · exact ht

/-- A restore whose refills the Drip takes ends HALTED without any left (R75; log entry 22). -/
theorem restoreComplete_halts {e : Fin 64} {s : State} (hst : (s.eng e).st = .restoring)
    (hready : (s.eng e).refills = [] ∨ s.dripReady e = true) :
    ∃ t, exec (.restoreComplete e) s = .next t ∧ (t.eng e).st = .halted ∧ (t.eng e).refills = [] := by
  have hgo : ¬((s.eng e).st ≠ .restoring ∨ ((!(s.eng e).refills.isEmpty) = true ∧ (!s.dripReady e) = true)) := by
    rcases hready with h | h <;> simp [hst, h]
  refine ⟨_, if_neg hgo, ?_⟩
  rw [resumeSlots_eng, setEng_eng]
  exact ⟨rfl, rfl⟩

/-- Settles O17: the area is one write under NORMAL, what is scrubbed after it no memory; a restore's reads leave engine and keys; what a
restore resumes leaves the engine HALTED. -/
theorem saveAndRestore : Obligations.SaveAndRestore := by
  unfold Obligations.SaveAndRestore
  refine fun e s => ⟨engineSave_begins, ?save, ?restore, restoreComplete_halts⟩
  case save =>
    intro hst hwin hring hquiet hgroup
    obtain ⟨kept, hexec⟩ := saveComplete_eq hst hwin hring hquiet hgroup
    have hscrub := scrubbed_scrubbed s (s.devWrite 0 (s.eng e).saveBase.toNat (saveArea s e)).1 e kept
    have harea : (s.eng e).saveHeader ++ (s.eng e).saveImages ++ (s.strm e).saveRecord = saveArea s e := rfl
    rw [harea]
    refine ⟨_, hexec, hscrub.st, hscrub.tiles, hscrub.tf, hscrub.queues, hscrub.xport, hscrub.nk, hscrub.mem, fun h => ?_⟩
    rw [SameMemOutside, hscrub.mem]
    exact CleanWrites.devWrite_sameMemOutside h _ _
  case restore =>
    intro s1 s2 s3 s4 b h y b2 so ws img hon hst hhbm hread hhdr htenant hcfg hbody hprog hlen himg
    have hput := restorePut_restored s4 e h y ws b2 (b2.drop (h.imageBytes y)) img
    exact ⟨_, engineRestore_restores hread hbody hprog himg hon hst hhbm hhdr htenant hcfg hlen, hput.st, hput.pc, hput.retired,
      hput.stopCnt, hput.prog, hput.window, hput.halt, hput.nk.trans (restoreReads_key hread hbody hprog himg)⟩

end Sys2Proof.SaveRestore

/-! Retirement of the oldest instruction, and STOP (R92, R98, R100, R113; O15). -/

namespace Sys2Proof.Retirement

open Sys2Proof Sys2Proof.Machine Sys2Proof.Laws Sys2Proof.EngineInstr

/-! ## The engine after a retirement -/

/-- The engine x whose oldest instruction v has left the window for its retirement, its token in its queue (R92, R98, R99). -/
def leftWindow (x : Engine) (v : WinEnt) (rest : List WinEnt) : Engine :=
  let y := { x with window := rest, retired := v.seq }
  if (insOf v.word).emit = 15 then y else y.push (insOf v.word).emit { value := v.value, poison := v.poison }

/-- The engine reports the fault of v, which is the program's first one unless it has one already (R100, R113). -/
def faultReported (y : Engine) (first : Option Code) (v : WinEnt) : Engine :=
  match v.fault with
  | some c => if v.silent then y else
      { y with faultInfo := faultInfoImage c (insOf v.word).opc v.tile v.pc, lastCode := c.byte,
               firstFault := match first with | some f => some f | none => some c }
  | none => y

/-- The engine x after the retirement of v, but for the marks of spent ciphertexts (R92, R98-R100, R113). -/
def retiredEngine (x : Engine) (v : WinEnt) (rest : List WinEnt) : Engine :=
  let y := faultReported (leftWindow x v rest) x.firstFault v
  { y with anySkip := x.anySkip || v.skipped || v.silent, result := match v.result with | some w => w | none => x.result,
           sinceTest := x.sinceTest.map (· + 1) }

/-- The counters of engine e's page and the Sump take note of v's retirement (R100, R420). -/
def retirementNoted (s : State) (e : Nat) (v : WinEnt) (record : Code → SumpRec) : State :=
  let s1 := s.event (.engine e) 2 1
  let s2 := if v.skipped || v.silent then s1.event (.engine e) 0x0B 1 else s1
  match v.fault with
  | some c => if v.silent then s2 else
      let t := s2.sumpPut (e / 4) (record c)
      if c = Code.shape then t.event (.engine e) 0x0A 1 else t
  | none => s2

theorem retireHead_eq (s : State) (e : Nat) (v : WinEnt) (rest : List WinEnt) :
    s.retireHead e v rest =
      (retirementNoted (s.setEng e (retiredEngine (s.eng e) v rest)) e v (s.faultRecord e v)).retireMarks e v := rfl

theorem retirementNoted_eng (s : State) (e : Nat) (v : WinEnt) (record : Code → SumpRec) :
    (retirementNoted s e v record).eng e = s.eng e := by
  have hevent : ∀ (u : State) ev n, (u.event (.engine e) ev n).eng e = u.eng e := fun _ _ _ => rfl
  have hsump : ∀ (u : State) g r, (u.sumpPut g r).eng e = u.eng e := fun u g r => eng_of_within (State.sumpPut_within u g r) rfl e
  unfold retirementNoted
  dsimp only
  repeat' split
  all_goals simp only [hevent, hsump]

/-- Marks of spent ciphertexts reach of the engine the count of pending ones alone (R174). -/
theorem retireMarks_eng (s : State) (e : Nat) (v : WinEnt) : ∃ n, (s.retireMarks e v).eng e = { s.eng e with rescPending := n } := by
  have hadd : ∀ (u : State) n m, (u.addMarks e n m).eng e = u.eng e := fun u n m => eng_of_within (State.addMarks_within u e n m) rfl e
  unfold State.retireMarks
  dsimp only
  split_ifs
  · exact ⟨_, by rw [setEng_eng, hadd]⟩
  · exact ⟨_, by rw [setEng_eng, hadd, hadd]⟩
  · exact ⟨_, hadd _ _ _⟩

theorem retireHead_eng (s : State) (e : Nat) (v : WinEnt) (rest : List WinEnt) :
    ∃ n, (s.retireHead e v rest).eng e = { retiredEngine (s.eng e) v rest with rescPending := n } := by
  rw [retireHead_eq]
  obtain ⟨n, hn⟩ := retireMarks_eng (retirementNoted (s.setEng e (retiredEngine (s.eng e) v rest)) e v (s.faultRecord e v)) e v
  exact ⟨n, by rw [hn, retirementNoted_eng, setEng_eng]⟩

/-- A report of a fault reaches FAULT_INFO, LAST_CODE and the program's first fault alone. -/
theorem faultReported_eq (y : Engine) (first : Option Code) (v : WinEnt) :
    ∃ info code f, faultReported y first v = { y with faultInfo := info, lastCode := code, firstFault := f } := by
  unfold faultReported
  split
  · split
    · exact ⟨_, _, _, rfl⟩
    · exact ⟨_, _, _, rfl⟩
  · exact ⟨_, _, _, rfl⟩

/-- A retirement removes v from the window, takes its number and issues nothing. -/
theorem retiredEngine_window (x : Engine) (v : WinEnt) (rest : List WinEnt) :
    (retiredEngine x v rest).window = rest ∧ (retiredEngine x v rest).retired = v.seq ∧ (retiredEngine x v rest).issued = x.issued := by
  obtain ⟨info, code, f, hy⟩ := faultReported_eq (leftWindow x v rest) x.firstFault v
  rw [retiredEngine, hy]
  unfold leftWindow
  split
  · exact ⟨rfl, rfl, rfl⟩
  · exact ⟨rfl, rfl, rfl⟩

/-- A fault sets LAST_CODE and FAULT_INFO (R100). -/
theorem retiredEngine_of_fault {x : Engine} {v : WinEnt} {rest : List WinEnt} {c : Code} (hfault : v.fault = some c) (hloud : v.silent = false) :
    (retiredEngine x v rest).lastCode = c.byte ∧
      (retiredEngine x v rest).faultInfo = faultInfoImage c (fld v.word.toNat 120 8) v.tile v.pc := by
  simp [retiredEngine, faultReported, hfault, hloud, insOf]

/-! ## INSTRUCTION_RETIRE -/

theorem headDone_of_done {s : State} {e : Nat} {v : WinEnt} (h : v.done = true) : s.headDone e v = true := by
  unfold State.headDone
  split
  · exact h
  · simp [h]
  · exact h

/-- The oldest instruction retires once it is done and its token, if it emits one, has room (R98). -/
theorem instructionRetire_eq {e : Fin 64} {s : State} {v : WinEnt} {rest : List WinEnt} (hwin : (s.eng e).window = v :: rest)
    (hdone : v.done = true) (hemit : fld v.word.toNat 108 4 = 15 ∨ (s.eng e).room (fld v.word.toNat 108 4) = true) :
    exec (.instructionRetire e) s = .next (s.retireHead e v rest) := by
  show execInstructionRetire e s = _
  simp [execInstructionRetire, hwin, headDone_of_done hdone, hemit]

/-! ## STOP -/

/-- The end of the program sets its engine's state and status alone (R113). -/
theorem endProgram_eng (s : State) (e : Nat) :
    (s.endProgram e).eng e = { s.eng e with st := .idle, ended := some (s.eng e).status } := setEng_eng _ _ _

/-- A STOP in the window as the only instruction, which may complete, ends the program (R113). -/
theorem stop_ends {e : Fin 64} {s : State} {v : WinEnt} (hwin : (s.eng e).window = [v]) (hopc : fld v.word.toNat 120 8 = 0x02)
    (hdone : v.done = false) (hemit : fld v.word.toNat 108 4 = 15 ∨ (s.eng e).room (fld v.word.toNat 108 4) = true)
    (hquiet : s.streamsQuiet e = true) (hstay : s.issue e (fun o => o == 0x02) = .stay s) :
    exec (.stop e) s = .next ((s.retireHead e v []).endProgram e) := by
  show execStop e s = _
  simp [execStop, hstay, hwin, hopc, hdone, hquiet, hemit]

/-- A STOP that issues enters the window, and ends the program at once where it may complete (R92, R113). -/
theorem stop_of_issues {e : Fin 64} {s s1 : State} {x : Iss} (h : Issues s e 0x02 s1 x) :
    let u := s1.enter e x ([], []) none { done := false }
    exec (.stop e) s = .next u ∨ ∃ v, exec (.stop e) s = .next ((u.retireHead e v []).endProgram e) := by
  show execStop e s = _ ∨ ∃ v, execStop e s = _
  unfold execStop
  rw [Issues] at h
  rw [h]
  dsimp only
  split
  · split
    · exact .inr ⟨_, rfl⟩
    · exact .inl rfl
  · exact .inl rfl

/-- Settles O15: a retirement is one write of the engine; a STOP that issues takes its number when it enters the window, and neither its
retirement nor the program's end changes that. -/
theorem retirementAndStop : Obligations.RetirementAndStop := by
  unfold Obligations.RetirementAndStop
  refine fun e s v rest => ⟨fun hwin hdone hemit => ⟨_, instructionRetire_eq hwin hdone hemit, ?retired⟩,
    fun hwin hopc hdone hemit hquiet hstay => ⟨_, stop_ends hwin hopc hdone hemit hquiet hstay, ?ended⟩, fun s1 x h => ?issued⟩
  case retired =>
    have htoken := retireHead_queue s e v rest
    obtain ⟨n, hn⟩ := retireHead_eng s e v rest
    obtain ⟨hwindow, hretired, -⟩ := retiredEngine_window (s.eng e) v rest
    refine ⟨by rw [hn, hwindow], by rw [hn, hretired], htoken, fun c hfault hloud => ?_⟩
    rw [hn]
    exact retiredEngine_of_fault hfault hloud
  case ended =>
    obtain ⟨n, hn⟩ := retireHead_eng s e v []
    obtain ⟨hwindow, -, -⟩ := retiredEngine_window (s.eng e) v []
    rw [endProgram_eng, hn]
    exact ⟨hwindow, rfl, rfl⟩
  case issued =>
    obtain ⟨q, heng⟩ := (issuedAs_of_go h).eng
    rcases stop_of_issues h with hexec | ⟨v', hexec⟩
    · exact ⟨_, hexec, by rw [enter_eng, heng]⟩
    · obtain ⟨n, hn⟩ := retireHead_eng (s1.enter e x ([], []) none { done := false }) e v' []
      obtain ⟨-, -, hissued⟩ := retiredEngine_window ((s1.enter e x ([], []) none { done := false }).eng e) v' []
      refine ⟨_, hexec, ?_⟩
      rw [endProgram_eng, hn]
      exact hissued.trans (by rw [enter_eng, heng])

end Sys2Proof.Retirement

/-! Commit of a command and posting of its completion (R113, R359, R360, R365, R367, R368, R373, R425; O24). -/

namespace Sys2Proof.CommitPosting

open Sys2Proof Sys2Proof.Machine Sys2Proof.Laws Sys2Proof.InstantsDispatch

/-! ## RELEASE to the peers (R403) -/

/-- A RELEASE flit of the device's own reaches no engine, also where it is consumed here: it frees entries of the delivery table. -/
theorem originate_release_engines (s : State) (dest : Nat) (payload : Bytes) :
    (s.originate (endFlit tyRelease 0 dest 0 payload)).engines = s.engines := by
  have hconsume : ∀ (u : State) f, f.type = tyRelease → u.consume .dev f = u.takeRelease (fld (f.at8 0) 52 12) (fld (f.at8 0) 0 13) :=
    fun u f hf => by simp [State.consume, hf, tyRelease, tyWrite, tyToken, tyCompl]
  unfold State.originate
  dsimp only
  split
  · rw [hconsume _ _ rfl]
    exact (State.takeRelease_within s _ _).eq_engines rfl
  · split
    · next hsend => exact (State.sendOn_within hsend).eq_engines rfl
    · rfl

theorem releasePeers_engines (s : State) (n : Nat) : (s.releasePeers n).engines = s.engines := by
  unfold State.releasePeers
  dsimp only
  split
  · rfl
  · exact List.foldlRecOn (motive := fun u : State => u.engines = s.engines) _ _ rfl
      fun u hu d _ => (originate_release_engines u d.2 _).trans hu

/-! ## A slot's record and its run's engines at commit (R373) -/

/-- The record x of a command that has committed. -/
def committedRecord (x : JSlot) (status : Code) (result : Word64) (marks : List Word64) (start commit : Nat) : JSlot :=
  { x with st := .committed, status := status, result := result, marks := marks, tStart := start, tCommit := commit,
           late := x.late || (x.budget != 0 && decide (x.budget < spanOfCounts x.tAccept commit)) }

/-- The record y of slot n is in the journal, with a LATE record where it has become late, and the spend marks are applied. -/
def recordWritten (s : State) (n : Nat) (y : JSlot) (newlyLate : Bool) (tenant : Nat) (marks : List Word64) : State :=
  let t := s.putSlot n y
  marks.foldl (fun u m => u.applyMark tenant m) (if newlyLate then t.lateRecord n else t)

/-- The engines es run no command any more. -/
def enginesFreed (s : State) (es : List Nat) : State :=
  es.foldl (fun u e => u.setEng e { u.eng e with slot := none, ended := none }) s

theorem recordWritten_journal (s : State) (n : Nat) (y : JSlot) (newlyLate : Bool) (tenant : Nat) (marks : List Word64) :
    (recordWritten s n y newlyLate tenant marks).journal = (s.setSlotJ n y).journal := by
  refine ((Within.foldl (fun u m => State.applyMark_within u tenant m) (.refl _ _)).eq_journal rfl).trans ?_
  split
  · rw [(State.lateRecord_within _ n).eq_journal rfl, putSlot_journal]
  · exact putSlot_journal s n y

theorem enginesFreed_journal (s : State) (es : List Nat) : (enginesFreed s es).journal = s.journal :=
  (Within.foldl (fun u _ => State.setEng_within u _ _) (.refl _ _)).eq_journal rfl

/-- Each of the engines runs no command, also where it is freed twice. -/
theorem enginesFreed_slot (s : State) {es : List Nat} {e : Nat} (he : e ∈ es) : ((enginesFreed s es).eng e).slot = none := by
  obtain ⟨l1, l2, rfl⟩ := List.append_of_mem he
  rw [enginesFreed, List.foldl_append, List.foldl_cons]
  refine List.foldlRecOn (motive := fun u : State => (u.eng e).slot = none) l2 _ (by rw [setEng_eng]) fun u hu d _ => ?_
  by_cases hd : e = d
  · rw [← hd, setEng_eng]
  · rw [setEng_eng_other _ _ _ hd]
    exact hu

/-- What the supervisors keep of slot n's run goes; the journal forgets the run. -/
theorem dropRun_journal (s : State) (n : Nat) : (s.dropRun n).journal = { s.journal with runs := tdel s.journal.runs n } := by
  unfold State.dropRun
  dsimp only
  rw [(Within.each (fun u g => State.setGal_within u g _) (.refl _ s)).eq_journal rfl]

section Commit

variable (s : State) (n : Nat) (status : Code) (result : Word64) (marks : List Word64) (start commit : Nat)

theorem commitSlot_eq :
    let x := s.slotJ n
    let y := committedRecord x status result marks start commit
    let late := x.budget != 0 && decide (x.budget < spanOfCounts x.tAccept commit)
    let t := (((enginesFreed (recordWritten s n y (late && !x.late) x.tenant marks) (s.runEngines n)).event .journal 3 1).uncorrectedRecord
      n).releasePeers n
    s.commitSlot n status result marks start commit = { t.dropRun n with outs := tdel (t.dropRun n).outs n } := rfl

/-- A commit writes the slot's record and forgets its run. -/
theorem commitSlot_journal : (s.commitSlot n status result marks start commit).journal =
    { s.journal with slots := tset s.journal.slots n (committedRecord (s.slotJ n) status result marks start commit),
                     runs := tdel s.journal.runs n } := by
  rw [commitSlot_eq]
  dsimp only
  rw [dropRun_journal, (State.releasePeers_within _ n).eq_journal rfl, (State.uncorrectedRecord_within _ n).eq_journal rfl,
    (State.event_within _ _ _ _).eq_journal rfl, enginesFreed_journal, recordWritten_journal]
  rfl

theorem commitSlot_slotJ :
    (s.commitSlot n status result marks start commit).slotJ n = committedRecord (s.slotJ n) status result marks start commit := by
  rw [State.slotJ, commitSlot_journal]
  exact tget_tset_self _ _ _ _

theorem commitSlot_runs : tget (s.commitSlot n status result marks start commit).journal.runs n none = none := by
  rw [commitSlot_journal]
  exact tget_tdel_self _ _ _

/-- The engines of the command's run are free again (R113). -/
theorem commitSlot_frees {e : Nat} (he : e < 64) (hrun : (s.eng e).slot = some n) :
    ((s.commitSlot n status result marks start commit).eng e).slot = none := by
  have hmem : e ∈ s.runEngines n := List.mem_filter.2 ⟨List.mem_range.2 he, by simp [hrun]⟩
  rw [commitSlot_eq, State.eng]
  dsimp only
  rw [(State.dropRun_within _ n).eq_engines rfl, releasePeers_engines, (State.uncorrectedRecord_within _ n).eq_engines rfl,
    (State.event_within _ _ _ _).eq_engines rfl]
  exact enginesFreed_slot _ hmem

end Commit

/-! ## COMMAND_COMMIT -/

/-- Status, result and spend marks with which slot n's command commits (R113, R365, R373). -/
def commitOutcome (s : State) (n : Nat) : Code × Word64 × List Word64 :=
  match tget s.journal.runs n none with
  | none => (.ok, 0, [])
  | some r =>
    match r.fail with
    | some c => (c, 0, [])
    | none => (s.runStatus n r, match r.engines.head? with | some e => BitVec.ofNat 64 (fld (s.eng e).result.toNat 0 48) | none => 0,
        (tget (s.gal r.gallery).marks n []).take 16)

theorem commandCommit_commits {s : State} {slot : Fin 8192} (hmay : s.mayCommit slot = true)
    (hlatched : latched (s.gal (s.slotJ slot).home).tCommit slot = true) :
    let g := s.gal (s.slotJ slot).home
    let o := commitOutcome s slot
    exec (.commandCommit slot) s =
      .next (s.commitSlot slot o.1 o.2.1 o.2.2 (tget g.tStart slot (s.free 0)) (tget g.tCommit slot 0)).drawn := by
  show execCommandCommit slot s = _
  unfold execCommandCommit commitOutcome
  dsimp only
  rw [if_neg (by simp [hmay, hlatched])]
  cases tget s.journal.runs slot none with
  | none => rfl
  | some r =>
    dsimp only
    cases r.fail with
    | none => rfl
    | some c => rfl

theorem commitOutcome_of_no_run {s : State} {n : Nat} (h : tget s.journal.runs n none = none) : commitOutcome s n = (.ok, 0, []) := by
  simp [commitOutcome, h]

theorem commitOutcome_of_fail {s : State} {n : Nat} {r : Run} {c : Code} (h : tget s.journal.runs n none = some r) (hfail : r.fail = some c) :
    commitOutcome s n = (c, 0, []) := by
  simp [commitOutcome, h, hfail]

theorem commitOutcome_status {s : State} {n : Nat} {r : Run} (h : tget s.journal.runs n none = some r) (hfail : r.fail = none) :
    (commitOutcome s n).1 = s.runStatus n r := by
  simp [commitOutcome, h, hfail]

/-- The result is that of the run's first engine (R113). -/
theorem commitOutcome_result {s : State} {n e : Nat} {l : List Nat} {r : Run} (h : tget s.journal.runs n none = some r) (hfail : r.fail = none)
    (he : r.engines = e :: l) : (commitOutcome s n).2.1 = BitVec.ofNat 64 (fld (s.eng e).result.toNat 0 48) := by
  simp [commitOutcome, h, hfail, he]

/-! ## Rings (R360, R375) -/

section Rings

variable (s : State) (p f n m : Nat)

@[simp] theorem putSq_slotJ (x : Sq) : (s.putSq p f n x).slotJ m = s.slotJ m := rfl
@[simp] theorem putCq_slotJ (x : Cq) : (s.putCq p f n x).slotJ m = s.slotJ m := rfl
@[simp] theorem putSq_fn (x : Sq) : (s.putSq p f n x).fn p f = { s.fn p f with sq := tset (s.fn p f).sq n x } := setFn_fn s p f _
@[simp] theorem putCq_fn (x : Cq) : (s.putCq p f n x).fn p f = { s.fn p f with cq := tset (s.fn p f).cq n x } := setFn_fn s p f _

@[simp] theorem putSq_sqOf (x : Sq) : (s.putSq p f n x).sqOf p f n = x := by
  rw [State.sqOf, putSq_fn, tget_tset_self]

@[simp] theorem putCq_cqOf (x : Cq) : (s.putCq p f n x).cqOf p f n = x := by
  rw [State.cqOf, putCq_fn, tget_tset_self]

@[simp] theorem putSq_cqOf (x : Sq) : (s.putSq p f n x).cqOf p f m = s.cqOf p f m := by
  rw [State.cqOf, putSq_fn, State.cqOf]

end Rings

/-- A step that leaves the functions leaves their rings. -/
theorem sqOf_of_within {ps : List Part} {s t : State} (h : Within ps s t) (hps : ps.contains .fns = false) (p f n : Nat) :
    t.sqOf p f n = s.sqOf p f n := by
  rw [State.sqOf, State.fn, h.eq_fns hps, State.sqOf, State.fn]

theorem cqOf_of_within {ps : List Part} {s t : State} (h : Within ps s t) (hps : ps.contains .fns = false) (p f n : Nat) :
    t.cqOf p f n = s.cqOf p f n := by
  rw [State.cqOf, State.fn, h.eq_fns hps, State.cqOf, State.fn]

theorem slotJ_of_within {ps : List Part} {s t : State} (h : Within ps s t) (hps : ps.contains .journal = false) (n : Nat) :
    t.slotJ n = s.slotJ n := by
  rw [State.slotJ, h.eq_journal hps, State.slotJ]

/-- A ring whose next completion has lost its slot stops, and the record of it reaches no ring; any other ring is left alone (R417). -/
theorem lostStop_cases (s : State) (p f n : Nat) : s.lostStop p f n = s ∨
    Within [.dev, .mgmtW, .mgmtE, .freeCtr] (s.putSq p f n { s.sqOf p f n with lostStop := true }) (s.lostStop p f n) := by
  unfold State.lostStop
  dsimp only
  split
  · exact .inl rfl
  · split
    · exact .inl rfl
    · exact .inr (.after (State.drawn_within _) rfl (.after (State.logErr_within _ _) rfl (.refl _ _)))

theorem lostStop_slotJ (s : State) (p f n m : Nat) : (s.lostStop p f n).slotJ m = s.slotJ m := by
  rcases lostStop_cases s p f n with h | h
  · rw [h]
  · rw [slotJ_of_within h rfl, putSq_slotJ]

theorem lostStop_cqOf (s : State) (p f n m : Nat) : (s.lostStop p f n).cqOf p f m = s.cqOf p f m := by
  rcases lostStop_cases s p f n with h | h
  · rw [h]
  · rw [cqOf_of_within h rfl, putSq_cqOf]

/-- A ring that stops keeps the SEQ that is due. -/
theorem lostStop_nextPost (s : State) (p f n : Nat) : ((s.lostStop p f n).sqOf p f n).nextPost = (s.sqOf p f n).nextPost := by
  rcases lostStop_cases s p f n with h | h
  · rw [h]
  · rw [sqOf_of_within h rfl, putSq_sqOf]

/-! ## COMPLETION_POST -/

/-- The record x while its completion is being posted at the tail of the completion ring q (R373). -/
def postingRecord (x : JSlot) (q : Cq) (wall : Word64) : JSlot :=
  { x with st := .posting, phase := q.phase, idx := q.tail, wall := if x.st = .posting then x.wall else wall }

/-- The completion y of slot n is in the host's ring q of function f at port p, and q and the submission ring sq go on (R360, R368, R373). -/
def completionWritten (s : State) (n : Nat) (y : JSlot) (p f : Nat) (sq : Sq) (q : Cq) : State :=
  let written := (s.putSlot n y).hostPut p f (q.base.toNat + 32 * q.tail) y.completion
  let advanced := (written.putCq p f y.cq { q with tail := ringNext q.tail q.size, phase := q.phase ^^ (q.tail + 1 == q.size) }).putSq p f
    y.ring (sq.posted (BitVec.ofNat 64 y.seq))
  (advanced.slotPosted n).lostStop p f y.ring

/-- A completion has 32 bytes (R367). -/
theorem completion_length (y : JSlot) : y.completion.length = 32 := by
  simp [JSlot.completion, leBytes]

@[simp] theorem slotPosted_slotJ (s : State) (n : Nat) : (s.slotPosted n).slotJ n = { s.slotJ n with st := .posted } :=
  putSlot_slotJ s n _

section Written

variable (s : State) (n : Nat) (y : JSlot) (p f : Nat) (sq : Sq) (q : Cq)

theorem completionWritten_st : ((completionWritten s n y p f sq q).slotJ n).st = .posted := by
  rw [completionWritten, lostStop_slotJ, slotPosted_slotJ]

theorem completionWritten_hostOut :
    memRun (completionWritten s n y p f sq q).hostOut 0 (2 ^ 64 * p + (q.base.toNat + 32 * q.tail) % 2 ^ 64) 32 = y.completion := by
  rw [completionWritten, (State.lostStop_within _ _ _ _).eq_hostOut rfl, (State.slotPosted_within _ _).eq_hostOut rfl,
    (State.putSq_within _ _ _ _ _).eq_hostOut rfl, (State.putCq_within _ _ _ _ _).eq_hostOut rfl, ← completion_length y]
  exact memRun_memPut _ _ _ _

theorem completionWritten_tail : ((completionWritten s n y p f sq q).cqOf p f y.cq).tail = ringNext q.tail q.size := by
  rw [completionWritten, lostStop_cqOf, cqOf_of_within (State.slotPosted_within _ _) rfl, putSq_cqOf, putCq_cqOf]

theorem completionWritten_nextPost :
    ((completionWritten s n y p f sq q).sqOf p f y.ring).nextPost = (sq.posted (BitVec.ofNat 64 y.seq)).nextPost := by
  rw [completionWritten, lostStop_nextPost, sqOf_of_within (State.slotPosted_within _ _) rfl, putSq_sqOf]

theorem completionWritten_msix : (completionWritten s n y p f sq q).msix = s.msix := by
  rw [completionWritten, (State.lostStop_within _ _ _ _).eq_msix rfl, (State.slotPosted_within _ _).eq_msix rfl,
    (State.putSq_within _ _ _ _ _).eq_msix rfl, (State.putCq_within _ _ _ _ _).eq_msix rfl, (State.hostPut_within _ _ _ _ _).eq_msix rfl,
    (State.putSlot_within _ _ _).eq_msix rfl]

end Written

/-- Without a rewrite of NEXT the next SEQ is due after one that is posted (R364, R368). -/
theorem posted_nextPost {x : Sq} (h : x.jumps = []) (n : Nat) : (x.posted (BitVec.ofNat 64 n)).nextPost = some (BitVec.ofNat 64 (n + 1)) := by
  simp [Sq.posted, h, BitVec.ofNat_add]

/-- The command of a slot has committed, nothing holds its completion back, it is its turn, and its completion ring has room (R360, R368,
R373). -/
structure Postable (s : State) (slot : Fin 8192) (p f : Nat) : Prop where
  served : s.servedAt (s.slotJ slot) = (p, f)
  committed : (s.slotJ slot).st = .committed ∨ (s.slotJ slot).st = .posting
  notHeld : s.workHeld slot = false
  notScanned : s.scanHolds (ctlOfPort p) = false
  noTakeover : (s.journal.foBusy && s.journal.foFrom == p) = false
  notLost : (s.sqOf p f (s.slotJ slot).ring).lostStop = false
  inTurn : ((s.sqOf p f (s.slotJ slot).ring).nextPost.map BitVec.toNat).getD (s.slotJ slot).seq = (s.slotJ slot).seq
  room : (s.cqOf p f (s.slotJ slot).cq).canPost = true
  reached : s.unserved p = false

section Post

variable {s : State} {slot : Fin 8192} {p f : Nat}

/-- A completion that may be posted is written where its host takes it, and fails its ring otherwise (R359, R373). -/
theorem completionPost_eq (h : Postable s slot p f) (hostOk : Bool) :
    let x := s.slotJ slot
    let q := s.cqOf p f x.cq
    let y := postingRecord x q (s.fn p f).wall
    let t := completionWritten s slot y p f (s.sqOf p f x.ring) q
    exec (.completionPost slot hostOk) s =
      if !hostOk then .next (((s.putSlot slot y).putCq p f x.cq { q with err := true }).ringError p f)
      else .next (if x.irq then t.msixTo p f q.iv else t) := by
  obtain ⟨hserved, hst, hheld, hscan, htake, hlost, hturn, hroom, hreached⟩ := h
  show execCompletionPost slot hostOk s = _
  unfold execCompletionPost
  dsimp only
  rw [hserved, if_neg (by rcases hst with hst | hst <;> simp [hst, hheld, hscan, htake, hlost]), if_neg (not_not.2 hturn.symm),
    if_neg (by simp [hroom, hreached])]
  rfl

/-- Beside the write of a completion that its host takes, a command that asks for an interrupt raises the ring's vector (R359, R361). -/
theorem completionPost_posts (h : Postable s slot p f) :
    let x := s.slotJ slot
    let q := s.cqOf p f x.cq
    let t := completionWritten s slot (postingRecord x q (s.fn p f).wall) p f (s.sqOf p f x.ring) q
    ∃ u, exec (.completionPost slot true) s = .next u ∧ Within [.msix] t u ∧
      u.msix = if x.irq then s.msix ++ [(p, f, q.iv)] else s.msix := by
  refine ⟨_, completionPost_eq h true, .ite (State.msixTo_within _ _ _ _) (.refl _ _), ?_⟩
  split
  · exact congrArg (· ++ _) (completionWritten_msix _ _ _ _ _ _ _)
  · exact completionWritten_msix _ _ _ _ _ _ _

theorem completionPost_fails (h : Postable s slot p f) :
    let x := s.slotJ slot
    let q := s.cqOf p f x.cq
    exec (.completionPost slot false) s =
      .next (((s.putSlot slot (postingRecord x q (s.fn p f).wall)).putCq p f x.cq { q with err := true }).ringError p f) :=
  completionPost_eq h false

end Post

theorem ringError_msix (s : State) (p f : Nat) : (p, f, 0) ∈ (s.ringError p f).msix := by
  simp [State.ringError, State.msixTo]

/-- Settles O24: a commit writes one record and frees the run's engines, and its RELEASE flits reach no engine; a posted completion is one write
of the host's memory, and what follows it keeps the rings. -/
theorem commitAndPosting : Obligations.CommitAndPosting := by
  unfold Obligations.CommitAndPosting
  refine ⟨?commit, ?post⟩
  case commit =>
    intro slot s x g commit hmay hlatched
    refine ⟨_, commandCommit_commits hmay hlatched, ?_⟩
    rw [drawn_slotJ, commitSlot_slotJ, drawn_journal, commitSlot_runs]
    refine ⟨rfl, rfl, rfl, fun e he hrun => ?_, rfl, fun hnone => ?_, fun r hr => ⟨fun c hfail => ?_, fun hfail => ?_⟩⟩
    · rw [drawn_eng]
      exact commitSlot_frees s slot _ _ _ _ _ he hrun
    · rw [commitOutcome_of_no_run hnone]
      exact ⟨rfl, rfl⟩
    · rw [commitOutcome_of_fail hr hfail]
      exact ⟨rfl, rfl⟩
    · exact ⟨commitOutcome_status hr hfail, fun e l he => commitOutcome_result hr hfail he⟩
  case post =>
    intro slot s x p f sq q y hst hheld hscan htake hlost hturn hroom hreached
    have hready : Postable s slot p f := ⟨rfl, hst, hheld, hscan, htake, hlost, hturn, hroom, hreached⟩
    refine ⟨?taken, _, completionPost_fails hready, ?failed⟩
    case taken =>
      obtain ⟨u, hexec, hkept, hmsix⟩ := completionPost_posts hready
      have hnext := completionWritten_nextPost s slot y p f sq q
      refine ⟨u, hexec, ?_⟩
      rw [slotJ_of_within hkept rfl, hkept.eq_hostOut rfl, cqOf_of_within hkept rfl, sqOf_of_within hkept rfl]
      exact ⟨completionWritten_st s slot y p f sq q, completionWritten_hostOut s slot y p f sq q, completionWritten_tail s slot y p f sq q, hnext,
        fun hjumps => hnext.trans (posted_nextPost hjumps x.seq), hmsix⟩
    case failed =>
      rw [slotJ_of_within (State.ringError_within _ _ _) rfl, cqOf_of_within (State.ringError_within _ _ _) rfl, putCq_slotJ, putSlot_slotJ,
        putCq_cqOf]
      exact ⟨rfl, rfl, ringError_msix _ _ _⟩

end Sys2Proof.CommitPosting

/-! Results of the instructions of the engine's tiles: where every source element lies below its modulus, the elements written are the
instruction's own and none is free (R31, R134-R141, R149, R152, R154; O8, O10, O11, O12). -/

namespace Sys2Proof.TileResults

open Sys2Proof Sys2Proof.Machine Sys2Proof.Laws Sys2Proof.EngineInstr

/-! ## Writes without a free element (R31) -/

@[simp] theorem lanePasses_eng (s : State) (e n k : Nat) : (s.lanePasses e n).eng k = s.eng k := rfl

theorem putRes_of_noneFree {bad : List Bool} (h : ∀ b ∈ bad, b = false) (s : State) (e t sz off : Nat) (vs : List Nat) :
    s.putRes e t sz off bad vs = s.setEng e ((s.eng e).putElems t sz off vs) := by
  have hany : ¬ (bad.any id = true) := by simpa using h
  rw [State.putRes, if_neg hany]

theorem putLimbs_of_noneFree {ls : List (Bool × List Nat)} (h : ∀ l ∈ ls, l.1 = false) (s : State) (e t sz off : Nat) :
    s.putLimbs e t sz off ls = s.setEng e ((s.eng e).putElems t sz off (ls.map Prod.snd).flatten) := by
  refine putRes_of_noneFree (fun b hb => ?_) s e t sz off _
  obtain ⟨m, hm, hb⟩ := List.mem_flatten.1 hb
  obtain ⟨l, hl, rfl⟩ := List.mem_map.1 hm
  rw [List.eq_of_mem_replicate hb, h l hl]

theorem mark_tf (x : Engine) (ts : List Nat) (inUse : Bool) : (x.mark ts inUse).tf = x.tf :=
  List.foldlRecOn (motive := fun y : Engine => y.tf = x.tf) ts _ rfl fun _ hy _ _ => hy

/-- What a write of elements leaves in the tile file does not depend on the reuse latches. -/
theorem putElems_tf_of_latches (x : Engine) (a b : Option LatchTag) (t sz off : Nat) (vs : List Nat) :
    (({ x with latch0 := a, latch1 := b } : Engine).putElems t sz off vs).tf = (x.putElems t sz off vs).tf := by
  unfold Engine.putElems
  dsimp only
  split
  · rfl
  · rw [mark_tf, mark_tf]
    rfl

/-! ## Instructions that write their results to a tile -/

/-- An outcome that says: the instruction has run, and the tile file of its engine is f. -/
def RunsTo (s : State) (e : Nat) (o : Out) (f : List Host.Cell) : Prop := ∃ t, o = .next t ∧ Ran s t e ∧ (t.eng e).tf = f

section Runs

variable {e : Fin 64} {s s1 : State} {x : Iss} {opc : Nat}

/-- An instruction whose own part changes its engine in tiles, tile file and latches alone has run and leaves that tile file. -/
theorem enter_runsTo {mine : Nat → Bool} (hgo : IssuedAs s e mine s1 x) {u : State} (hu : TileChange (s1.eng e) (u.eng e)) :
    RunsTo s e (.next (u.enter e x ((s1.eng e).rw x.i) none {})) (u.eng e).tf := by
  obtain ⟨_, _, _, _, hu⟩ := hu
  exact ⟨_, rfl, ran_enter hgo (by rw [hu]) (by rw [hu]) rfl _ _, by rw [enter_eng]⟩

theorem issueRun_runsTo {body : State → Iss → State × Res} (h : Issues s e opc s1 x) (hcheck : s1.issueCheck e x.i = none) {u : State}
    (hbody : body s1 x = (u, {})) {y : Engine} (heng : u.eng e = y) (hy : TileChange (s1.eng e) y) {f : List Host.Cell} (hf : y.tf = f) :
    RunsTo s e (.next (s.issueRun e opc true body)) f := by
  rw [issueRun_of_issues h (check := true) hcheck, hbody, ← hf, ← heng]
  exact enter_runsTo (issuedAs_of_go h) (heng ▸ hy)

/-- An instruction that writes whole limbs, none of them free, to a tile. -/
theorem putLimbs_runsTo {body : State → Iss → State × Res} (h : Issues s e opc s1 x) (hcheck : s1.issueCheck e x.i = none)
    {n t sz : Nat} {ls : List (Bool × List Nat)} {vs : List Nat} (hbody : body s1 x = ((s1.lanePasses e n).putLimbs e t sz 0 ls, {}))
    (hbelow : ∀ l ∈ ls, l.1 = false) (hvs : (ls.map Prod.snd).flatten = vs) :
    RunsTo s e (.next (s.issueRun e opc true body)) ((s1.eng e).putElems t sz 0 vs).tf := by
  rw [putLimbs_of_noneFree hbelow, hvs, lanePasses_eng] at hbody
  exact issueRun_runsTo h hcheck hbody (setEng_eng _ _ _) (putElems_tileChange _ _ _ _ _) rfl

/-! ## Element-wise instructions (R134, R135) -/

/-- The reuse latches of an element-wise instruction are all of its engine that change before its results (R62). -/
theorem latchRun_eng (s : State) (e : Nat) (i : Ins) (c : Chain) (scal : Bool) :
    ∃ a b, (s.latchRun e i c scal).eng e = { s.eng e with latch0 := a, latch1 := b } := by
  unfold State.latchRun
  dsimp only
  split_ifs
  all_goals exact ⟨_, _, setEng_eng _ _ _⟩

theorem elementwise_runsTo (h : Issues s e opc s1 x) (hcheck : s1.issueCheck e x.i = none)
    (hshape : (s1.eng e).ewShape x.i (s1.chainOf x.i.chain) = none)
    (hbelow : ∀ k, k < x.i.n → ∀ p ∈ (s1.eng e).ewLimb x.i (s1.chainOf x.i.chain) k, p.1 = false) :
    RunsTo s e (.next (s.elementwise e opc)) ((s1.eng e).putElems x.i.dst (s1.chainOf x.i.chain).esz 0
      ((List.range x.i.n).flatMap fun k => ((s1.eng e).ewLimb x.i (s1.chainOf x.i.chain) k).map Prod.snd)).tf := by
  obtain ⟨a, b, hlatch⟩ := latchRun_eng s1 e x.i (s1.chainOf x.i.chain) (x.i.im 59 1 == 1)
  refine issueRun_runsTo h hcheck (u := ?u) ?body ?eng ?tiles (putElems_tf_of_latches _ a b _ _ _ _)
  case body =>
    dsimp only
    rw [hshape]
  case eng =>
    rw [putRes_of_noneFree (by simpa using hbelow), setEng_eng, lanePasses_eng, hlatch, List.map_flatten, List.map_map]
    rfl
  case tiles => exact .trans ⟨_, _, _, _, rfl⟩ (putElems_tileChange _ _ _ _ _)

end Runs

/-- Settles O8: the five instructions are one, of five opcodes. -/
theorem elementwiseResults : Obligations.ElementwiseResults := by
  unfold Obligations.ElementwiseResults
  intro e s s1 x io hio h hcheck hshape hbelow
  simp only [List.mem_cons, List.not_mem_nil, or_false] at hio
  rcases hio with rfl | rfl | rfl | rfl | rfl
  all_goals exact elementwise_runsTo h hcheck hshape hbelow

/-! ## Transforms and automorphisms (R136, R137) -/

section Transforms

variable {e : Fin 64} {s s1 : State} {x : Iss} {opc : Nat}

/-- A limb-wise instruction between tiles of one shape writes its transform of each limb (R136, R137). -/
theorem limbwise_runsTo {cond : Engine → Ins → Chain → Option Nat} {passes : Engine → Ins → Chain → Nat}
    {f : Chain → Ins → Nat → List Nat → List Nat} (hcheck : s1.issueCheck e x.i = none)
    (hholds : (s1.eng e).notHolding (s1.chainOf x.i.chain) x.i.n [x.i.dst, x.i.srca] = none)
    (hshape : (s1.eng e).sameShape x.i.dst x.i.srca = true)
    (hbelow : ∀ k, k < x.i.n →
      anyBad ((s1.chainOf x.i.chain).q (entryOf x.i.basis (x.i.llo + k))) ((s1.eng e).limb (s1.chainOf x.i.chain) x.i.srca k) = false)
    (h : Issues s e opc s1 x) (hcond : cond (s1.eng e) x.i (s1.chainOf x.i.chain) = none) :
    RunsTo s e (.next (s.limbwise e opc cond passes f)) ((s1.eng e).putElems x.i.dst (s1.chainOf x.i.chain).esz 0
      ((List.range x.i.n).flatMap fun k => f (s1.chainOf x.i.chain) x.i (entryOf x.i.basis (x.i.llo + k))
        ((s1.eng e).limb (s1.chainOf x.i.chain) x.i.srca k))).tf := by
  refine putLimbs_runsTo h hcheck (n := ?n) (ls := ?ls) ?body ?below ?values
  case body =>
    dsimp only
    rw [hholds]
    dsimp only
    rw [hshape, hcond]
    rfl
  case below => simpa using hbelow
  case values => rw [List.map_map]; rfl

end Transforms

/-- Settles O10: the three instructions differ in the transform of a limb, and AUTO in the condition on its generator. -/
theorem transformResults : Obligations.TransformResults := by
  unfold Obligations.TransformResults
  intro e s s1 x
  dsimp only
  intro hcheck hholds hshape hbelow
  refine ⟨fun h => limbwise_runsTo hcheck hholds hshape hbelow h rfl, fun h => limbwise_runsTo hcheck hholds hshape hbelow h rfl,
    fun h hodd hlt hne => limbwise_runsTo hcheck hholds hshape hbelow h (if_neg ?_)⟩
  rintro (heven | hle | heq)
  · omega
  · omega
  · exact hne heq

/-! ## Basis conversion, raising and division of moduli (R138-R141, R159-R162) -/

/-- Result rows, each with its mark, of which none is free. -/
theorem putRows_of_noneFree {α β : Type} {g : α → β → Bool × List Nat} {row : α → β → List Nat} {as : List α}
    (hg : ∀ a ∈ as, ∀ b, g a b = (false, row a b)) (bs : List β) (s : State) (e t sz : Nat) :
    s.putLimbs e t sz 0 (List.zipWith g as bs) = s.setEng e ((s.eng e).putElems t sz 0 (List.zipWith row as bs).flatten) := by
  have hrows : List.zipWith g as bs = (List.zipWith row as bs).map (Prod.mk false) := by
    rw [List.map_zipWith, ← List.map_uncurry_zip_eq_zipWith, ← List.map_uncurry_zip_eq_zipWith]
    exact List.map_congr_left fun p hp => hg p.1 (List.of_mem_zip hp).1 p.2
  rw [hrows, putLimbs_of_noneFree (fun l hl => ?_), List.map_map, Function.comp_def, List.map_id']
  obtain ⟨r, -, rfl⟩ := List.mem_map.1 hl
  rfl

/-- Where no element of a run of limbs is at or above its modulus, none of a limb in it is (R31). -/
theorem anyBad_of_plain {x : Engine} {c : Chain} {t lo n k : Nat} (h : (x.plain c t ((List.range n).map (lo + ·))).1 = false)
    (hk : k ∈ (List.range n).map (lo + ·)) : anyBad (c.q k) (x.limb c t (k - lo)) = false := by
  obtain ⟨j, hj, rfl⟩ := List.mem_map.1 hk
  have hrow : (j, lo + j) ∈ (List.range ((List.range n).map (lo + ·)).length).zip ((List.range n).map (lo + ·)) := by
    rw [List.length_map, List.length_range, ← List.map_prod_left_eq_zip]
    exact List.mem_map_of_mem hj
  have hgood := List.any_eq_false.1 h _ (List.mem_map_of_mem hrow)
  rw [Nat.add_sub_cancel_left]
  simpa using hgood

theorem zeroElems_tileChange (y : Engine) (t sz off cnt : Nat) : TileChange y (y.zeroElems t sz off cnt) :=
  (setTf_tileChange y _).trans (mark_tileChange _ _ _)

theorem entryOf_false (k : Nat) : entryOf false k = k := rfl

section Basis

variable {e : Fin 64} {s s1 : State} {x : Iss} {opc : Nat}

/-- An instruction that writes result rows, none of them free, to a tile. -/
theorem putRows_runsTo {α β : Type} {body : State → Iss → State × Res} (h : Issues s e opc s1 x) (hcheck : s1.issueCheck e x.i = none)
    {n t sz : Nat} {g : α → β → Bool × List Nat} {row : α → β → List Nat} {as : List α} {bs : List β}
    (hbody : body s1 x = ((s1.lanePasses e n).putLimbs e t sz 0 (List.zipWith g as bs), {}))
    (hg : ∀ a ∈ as, ∀ b, g a b = (false, row a b)) :
    RunsTo s e (.next (s.issueRun e opc true body)) ((s1.eng e).putElems t sz 0 (List.zipWith row as bs).flatten).tf := by
  rw [putRows_of_noneFree hg, lanePasses_eng] at hbody
  exact issueRun_runsTo h hcheck hbody (setEng_eng _ _ _) (putElems_tileChange _ _ _ _ _) rfl

/-- The tile form of RESC runs its own part as the other instructions do (R141). -/
theorem resc_runsTo (hcheck : s1.issueCheck e x.i = none) (hmop : x.i.mop = false) (h : Issues s e 0x2B s1 x) {u : State}
    (hbody : s1.rescTile e x = (u, {})) {y : Engine} (heng : u.eng e = y) (hy : TileChange (s1.eng e) y) :
    RunsTo s e (exec (.resc e) s) y.tf := by
  have hexec : exec (.resc e) s = .next (u.enter e x ((s1.eng e).rw x.i) none {}) := by
    show execResc e s = _
    rw [Issues] at h
    simp only [execResc, h, hcheck, hmop, hbody]
    rfl
  rw [hexec, ← heng]
  exact enter_runsTo (issuedAs_of_go h) (heng ▸ hy)

end Basis

/-- Settles O11: each of the four writes its rows as whole limbs, and RESC onto its own source one run of zeros after them. -/
theorem basisResults : Obligations.BasisResults := by
  unfold Obligations.BasisResults
  intro e s s1 x
  dsimp only
  intro hcheck
  refine ⟨?bconv, ?modup, ?moddn, ?resc⟩
  case bconv =>
    rintro tlo thi targets rfl rfl rfl hle hin hsrc hdst hne hbelow h
    apply putRows_runsTo h hcheck
    case hbody =>
      dsimp only
      rw [if_neg (by simpa [hle, or_iff_not_imp_left] using hin), hsrc, hdst]
      dsimp only
      rw [if_neg hne]
    case hg => exact fun _ _ _ => Prod.ext hbelow rfl
  case modup =>
    rintro targets rfl hbasis hle hl hk hsrc hdst hne hbelow h
    simp only [hbasis, entryOf_false] at hbelow ⊢
    apply putRows_runsTo h hcheck
    case hbody =>
      dsimp only
      rw [if_neg (by omega), hsrc, hdst]
      dsimp only
      rw [if_neg hne]
    case hg =>
      intro k _ row
      split
      · next hset => exact Prod.ext (anyBad_of_plain hbelow (by simpa using hset)) rfl
      · exact Prod.ext hbelow rfl
  case moddn =>
    rintro ents rfl hlo hk hsrc hdst hne hbelow h
    apply putRows_runsTo h hcheck
    case hbody =>
      dsimp only
      rw [if_neg (by omega), hsrc, hdst]
      dsimp only
      rw [if_neg hne]
    case hg => exact fun _ _ _ => Prod.ext hbelow rfl
  case resc =>
    rintro out rfl hmop hlo htop hsrc hdst hbelow h
    have hmax : max x.i.lhi 1 = x.i.lhi := max_eq_left htop
    apply resc_runsTo hcheck hmop h
    case hbody =>
      unfold State.rescTile
      dsimp only
      rw [if_neg (by omega), hmax, hsrc, hdst]
      dsimp only
      rw [if_neg (by omega)]
    case heng =>
      rw [hbelow, putRows_of_noneFree fun _ _ _ => rfl]
      split_ifs
      · rw [setEng_eng, setEng_eng, lanePasses_eng]
      · rw [setEng_eng, lanePasses_eng]
    case hy =>
      split_ifs
      · exact (putElems_tileChange _ _ _ _ _).trans (zeroElems_tileChange _ _ _ _ _)
      · exact putElems_tileChange _ _ _ _ _

/-! ## Gadget digits, modulus switching, extraction (R149, R152, R154, R181, R182, R188, R189) -/

theorem limb_length (y : Engine) (c : Chain) (t k : Nat) : (y.limb c t k).length = c.n := by
  simp [Engine.limb, Engine.elems]

/-- The elements of a limb, each beside its index. -/
theorem zip_limb (y : Engine) (c : Chain) (t k : Nat) :
    (List.range c.n).zip (y.limb c t k) = (List.range c.n).map fun j => (j, (y.limb c t k).getD j 0) := by
  refine List.ext_getElem (by simp [limb_length]) fun j hzip hmap => ?_
  have hj : j < (y.limb c t k).length := (by simpa using hzip : _ ∧ _).2
  simp [hj]

/-- Settles O12: digits and switched residues are limbs made element by element; a record is one run of elements. -/
theorem digitAndExtractionResults : Obligations.DigitAndExtractionResults := by
  unfold Obligations.DigitAndExtractionResults
  intro e s s1 x
  dsimp only
  intro hcheck
  refine ⟨?dcmp, ?msw, ?sxtr⟩
  case dcmp =>
    rintro l beta rfl rfl hsrc hdst hrowb hne hbelow h
    apply putLimbs_runsTo h hcheck
    case hbody =>
      dsimp only
      rw [hsrc]
      dsimp only
      rw [if_neg (by simp [hdst, hrowb, hne])]
    case hbelow =>
      simp only [← List.map_prod_left_eq_zip, List.forall_mem_flatten, List.forall_mem_map]
      exact fun _ _ k hk => hbelow k (List.mem_range.1 hk)
    case hvs =>
      simp only [← List.map_prod_left_eq_zip, zip_limb, List.flatMap_def, List.map_flatten, List.map_map, List.flatten_flatten, Function.comp_def]
  case msw =>
    rintro m rfl hhold hlt hbelow h
    apply putLimbs_runsTo h hcheck
    case hbody =>
      dsimp only
      rw [hhold]
      dsimp only
      rw [if_neg (by simpa using hlt)]
    case hbelow => simpa using hbelow
    case hvs => simp only [zip_limb, List.map_map, List.flatMap_def, Function.comp_def]
  case sxtr =>
    rintro coef k rfl rfl hsplit hbasis hlo hhi hcoef hsrc hne hcap hbelow h
    have hnone : ((s1.eng e).polys (s1.chainOf x.i.chain) x.i.srca (x.i.im 40 3)).any (anyBad ((s1.chainOf x.i.chain).q 0)) = false := by
      simpa using hbelow
    apply issueRun_runsTo h hcheck
    case hbody =>
      dsimp only
      rw [if_neg (by simp [hsplit, hbasis, hlo, hhi, hcoef]), if_neg (by simp [hsrc]), if_neg (by simp [hne, Nat.lt_of_succ_le hcap]), hnone]
    case heng => exact (congrArg (State.eng · e) (putRes_of_noneFree (by simp) _ _ _ _ _ _)).trans (setEng_eng _ _ _)
    case hy => exact putElems_tileChange _ _ _ _ _
    case hf => rfl

end Sys2Proof.TileResults

/-! The consumers of a key ring: KSW, EXTP, BROT and KPACK keep their source and read their first fill, RING_TOKEN_TAKE reads one more
(R143, R144, R148, R150, R151, R153; O13). -/

namespace Sys2Proof.RingConsumers

open Sys2Proof Sys2Proof.Machine Sys2Proof.Laws Sys2Proof.EngineInstr

/-! ## One fill (R143) -/

/-- The passes of a fill reach of the engine its latch 0 alone (R62). -/
theorem ringLatch_tileChange (s : State) (e : Nat) (i : Ins) (t : Nat) : TileChange (s.eng e) ((s.ringLatch e i t).eng e) := by
  unfold State.ringLatch
  split
  · exact .refl _
  · exact ⟨_, _, _, _, setEng_eng _ _ _⟩

/-- The consumer's record after one more fill: its rows, and the mark of undefined elements. -/
def withFill (r : RingOp) (rows : List (List Nat)) (bad : Bool) : RingOp := { r with fills := r.fills ++ [rows], bad := bad }

/-- The engine y is x after a consumer with the record r has read its next fill and released the ring tile. -/
structure Filled (x y : Engine) (i : Ins) (r : RingOp) : Prop where
  window : y.window = x.window
  issued : y.issued = x.issued
  queues : y.queues = x.queues
  ringOp : ∃ rows bad, y.ringOp = some (withFill r rows bad)
  released : (y.tile (x.ringTile i (r.fills.length % i.kr))).kst = .empty

theorem ringFill_filled {s : State} {e : Nat} {r : RingOp} (h : (s.eng e).ringOp = some r) (i : Ins) :
    Filled (s.eng e) ((s.ringFill e i).eng e) i r := by
  have hkst := releaseKey_kst ((s.ringLatch e i ((s.eng e).ringTile i (r.fills.length % i.kr))).eng e)
    ((s.eng e).ringTile i (r.fills.length % i.kr))
  obtain ⟨ts, f, a, b, hy⟩ := (ringLatch_tileChange s e i ((s.eng e).ringTile i (r.fills.length % i.kr))).trans
    (releaseKey_tileChange _ ((s.eng e).ringTile i (r.fills.length % i.kr)))
  unfold State.ringFill
  rw [h]
  dsimp only
  rw [setEng_eng]
  rw [hy] at hkst ⊢
  exact ⟨rfl, rfl, rfl, ⟨_, _, rfl⟩, hkst⟩

theorem ringEnd_of_pending {s : State} {e : Nat} {r : RingOp} (h : (s.eng e).ringOp = some r) (hlt : r.fills.length < r.total)
    (v : WinEnt) : s.ringEnd e v = s := by
  unfold State.ringEnd
  rw [h]
  dsimp only
  rw [if_pos hlt]

/-! ## The start of a consumer -/

/-- From s to t an instruction has begun to consume its ring: it is in the window without a fault, its source is kept, its first fill has
been read. -/
def Begun (s t : State) (e total : Nat) (src : List (List Nat)) : Prop :=
  Ran s t e ∧ ∃ op, (t.eng e).ringOp = some op ∧ op.seq = (s.eng e).issued + 1 ∧ op.total = total ∧ op.fills.length = 1 ∧ op.src = src

/-- The record of a consumer that has read no fill. -/
def freshOp (x : Iss) (total rot : Nat) (bad : Bool) (src : List (List Nat)) : RingOp :=
  { seq := x.seq, word := x.w, src := src, total := total, rot := rot, bad := bad, fills := [], wbuf := none }

/-- The state after a consumer's record has been set up. -/
def withOp (s : State) (e : Nat) (op : RingOp) : State := s.setEng e { s.eng e with ringOp := some op }

theorem withOp_eng (s : State) (e : Nat) (op : RingOp) : (withOp s e op).eng e = { s.eng e with ringOp := some op } := setEng_eng _ _ _

/-- A consumer's entry into the window, its record set up. -/
def entered (s : State) (e : Nat) (x : Iss) (op : RingOp) : State :=
  (withOp s e op).enter e x ((s.eng e).rw x.i) none { done := false }

theorem entered_ringOp (s : State) (e : Nat) (x : Iss) (op : RingOp) : ((entered s e x op).eng e).ringOp = some op := by
  rw [entered, enter_eng, withOp_eng]

section Start

variable {e : Nat} {s s1 t u : State} {x : Iss} {mine : Nat → Bool}

theorem ran_of_eng (h : Ran s t e) (hwin : (u.eng e).window = (t.eng e).window) (hissued : (u.eng e).issued = (t.eng e).issued) :
    Ran s u e := by rwa [Ran, hwin, hissued]

theorem extStart_eq_ringFill {fills : Nat} (hfills : 1 < fills) (s : State) (e : Nat) (x : Iss) (rot : Nat) (bad : Bool)
    (src : List (List Nat)) :
    s.extStart e x fills rot bad src = (entered s e x (freshOp x fills rot bad src)).ringFill e x.i := by
  obtain ⟨rows, bad', hring⟩ := (ringFill_filled (entered_ringOp s e x (freshOp x fills rot bad src)) x.i).ringOp
  unfold State.extStart
  dsimp only
  rw [if_neg (by omega)]
  split
  · exact ringEnd_of_pending hring hfills _
  · rfl

/-- EXTP, BROT and KPACK of more than one fill begin (R185). -/
theorem extStart_begun (hgo : IssuedAs s e mine s1 x) {fills : Nat} (hfills : 1 < fills) (rot : Nat) (bad : Bool) (src : List (List Nat)) :
    Begun s (s1.extStart e x fills rot bad src) e fills src := by
  rw [extStart_eq_ringFill hfills]
  have hran : Ran s (entered s1 e x (freshOp x fills rot bad src)) e := ran_enter hgo (by rw [withOp_eng]) (by rw [withOp_eng]) rfl _ _
  obtain ⟨hwin, hissued, -, ⟨rows, bad', hring⟩, -⟩ := ringFill_filled (entered_ringOp s1 e x (freshOp x fills rot bad src)) x.i
  exact ⟨ran_of_eng hran hwin hissued, _, hring, hgo.seq, rfl, rfl, rfl⟩

/-- A KSW of tiles begins: it enters the window after its first fill (R144). -/
theorem ringFill_enter_begun (hgo : IssuedAs s e mine s1 x) (heng : u.eng e = s1.eng e) (rw : List Nat × List Nat) (total rot : Nat)
    (bad : Bool) (src : List (List Nat)) :
    Begun s (((withOp u e (freshOp x total rot bad src)).ringFill e x.i).enter e x rw none { done := false }) e total src := by
  obtain ⟨hwin, hissued, -, ⟨rows, bad', hring⟩, -⟩ :=
    ringFill_filled (s := withOp u e (freshOp x total rot bad src)) (e := e) (by rw [withOp_eng]) x.i
  rw [withOp_eng, heng] at hwin hissued
  exact ⟨ran_enter hgo hwin hissued rfl _ _, _, (congrArg Engine.ringOp (enter_eng _ _ _ _ _ _)).trans hring, hgo.seq, rfl, rfl, rfl⟩

end Start

/-! ## The five commands -/

section Commands

variable {e : Fin 64} {s s1 s2 : State} {x : Iss}

/-- A KSW of tiles whose checks pass sets up its record, reads its first fill and enters the window (R144). -/
theorem ksw_eq (h : Issues s e 0x30 s1 x) (hcheck : s1.issueCheck e x.i = none) (hksw : s1.kswCheck e x.i = none) {a : KswArgs}
    (hargs : s1.kswArgs e x.i = (s2, .ok a)) (hmem : a.mem = none) (heng : s2.eng e = s1.eng e) :
    let src := (s1.eng e).plain (s1.chainOf x.i.chain) x.i.srca (List.range (x.i.lhi + 1))
    exec (.ksw e) s = .next (((withOp (s2.useSph e x.i) e (freshOp x ((s1.chainOf x.i.chain).kswFills x.i.dnum x.i.lhi x.i.nsp) 0 src.1
      src.2)).ringFill e x.i).enter e x ((s1.eng e).rw x.i) none { done := false }) := by
  show execKsw e s = _
  rw [Issues] at h
  rw [execKsw, h]
  dsimp only [State.ksw]
  rw [hcheck]
  dsimp only
  rw [hksw, hargs]
  dsimp only
  rw [hmem, heng]
  rfl

theorem extp_eq (h : Issues s e 0x39 s1 x) (hcheck : s1.issueCheck e x.i = none) (hext : s1.extCheck e x.i (x.i.gk + 1) = none)
    (hshape : (s1.eng e).sameShape x.i.srca x.i.dst = true) :
    let src := (s1.eng e).plain (s1.chainOf x.i.chain) x.i.srca (List.replicate (x.i.gk + 1) 0)
    exec (.extp e) s = .next (s1.extStart e x (x.i.gk + 1) 0 src.1 src.2) := by
  show execExtp e s = _
  rw [Issues] at h
  simp [execExtp, h, hcheck, hext, hshape]

/-- BROT starts with the rotation that SRCA's record gives (R151). -/
theorem brot_eq (h : Issues s e 0x3A s1 x) (hcheck : s1.issueCheck e x.i = none) (hext : s1.extCheck e x.i (x.i.gk + 1) = none)
    (hne : x.i.srca ≠ x.i.dst) (hkey : ((s1.eng e).tile x.i.srca).key = false)
    (hstep : x.i.im 34 12 + (if x.i.im 31 3 = 0 then 0 else ((s1.eng e).ctv (x.i.im 31 3)).toNat) <
      (s1.eng e).capacity x.i.srca (s1.chainOf x.i.chain).esz) :
    ∃ rot bad, exec (.brot e) s = .next (s1.extStart e x (x.i.gk + 1) rot bad
      ((s1.eng e).plain (s1.chainOf x.i.chain) x.i.dst (List.replicate (x.i.gk + 1) 0)).2) := by
  show ∃ rot bad, execBrot e s = _
  rw [Issues] at h
  simp only [execBrot, h, hcheck, hext]
  rw [if_neg (by simp [hne, hkey, hstep])]
  exact ⟨_, _, rfl⟩

theorem kpack_eq (h : Issues s e 0x3C s1 x) (hcheck : s1.issueCheck e x.i = none) (hext : s1.extCheck e x.i x.i.ldim = none)
    (hcnt : x.i.cnt ≤ (s1.chainOf x.i.chain).n)
    (hrows : x.i.cnt * cdiv (x.i.ldim + 1) ((s1.eng e).perRow (s1.chainOf x.i.chain) x.i.srca) ≤ ((s1.eng e).tile x.i.srca).lrows) :
    ∃ bad, exec (.kpack e) s = .next (s1.extStart e x x.i.ldim 0 bad ((List.range x.i.cnt).map fun r =>
      ((s1.eng e).elems x.i.srca (s1.chainOf x.i.chain).esz
        (r * cdiv (x.i.ldim + 1) ((s1.eng e).perRow (s1.chainOf x.i.chain) x.i.srca) * (s1.eng e).perRow (s1.chainOf x.i.chain) x.i.srca)
        (x.i.ldim + 1)).map ((s1.chainOf x.i.chain).redc 0))) := by
  show ∃ bad, execKpack e s = _
  rw [Issues] at h
  simp only [execKpack, h, hcheck, hext]
  rw [if_neg (by omega), if_neg (by omega), List.map_map]
  exact ⟨_, rfl⟩

/-- RING_TOKEN_TAKE removes its token and reads the next fill, which is not the last one (R143). -/
theorem ringTokenTake_eq {r : RingOp} {v : WinEnt} {tok : Token} {q : List Token} (hop : (s.eng e).ringOp = some r)
    (hwin : (s.eng e).winOf r.seq = some v) (hxfer : v.xfer = none) (hfills : r.fills ≠ [])
    (hqueue : (s.eng e).queue v.iss.i.wait0 = tok :: q) (hpoison : tok.poison = false)
    (hfull : (s.eng e).full ((s.eng e).ringTile v.iss.i (r.fills.length % v.iss.i.kr)) = true) (hlt : r.fills.length + 1 < r.total) :
    exec (.ringTokenTake e) s = .next ((s.setEng e ((s.eng e).pop v.iss.i.wait0)).ringFill e v.iss.i) := by
  have hop' : ((s.setEng e ((s.eng e).pop v.iss.i.wait0)).eng e).ringOp = some r := by rw [setEng_eng]; exact hop
  obtain ⟨rows, bad, hring⟩ := (ringFill_filled hop' v.iss.i).ringOp
  show execRingTokenTake e s = _
  simp only [execRingTokenTake, hop, hwin, hxfer, hqueue, hpoison, hfull]
  rw [if_neg (by simpa using hfills)]
  exact congrArg Host.Outcome.next (ringEnd_of_pending hring (by simpa [withFill] using hlt) v)

end Commands

/-- Settles O13: a consumer whose checks pass sets up its record with its source and reads one fill, and so does each later token. -/
theorem ringConsumersBegin : Obligations.RingConsumersBegin := by
  unfold Obligations.RingConsumersBegin
  intro e s s1 x
  dsimp only
  refine ⟨?ksw, ?extp, ?brot, ?kpack, ?take⟩
  case ksw =>
    intro s2 a h hcheck hksw hargs hmem
    have heng : s2.eng e = s1.eng e := eng_of_within (.of_pair hargs (State.kswArgs_within s1 e x.i)) rfl e
    exact ⟨_, ksw_eq h hcheck hksw hargs hmem heng,
      ringFill_enter_begun (issuedAs_of_go h) ((eng_of_within (State.useSph_within s2 e x.i) rfl e).trans heng) _ _ _ _ _⟩
  case extp =>
    intro h hcheck hext hshape hgk
    exact ⟨_, extp_eq h hcheck hext hshape, extStart_begun (issuedAs_of_go h) (by omega) _ _ _⟩
  case brot =>
    rintro step rfl h hcheck hext hne hkey hstep hgk
    obtain ⟨rot, bad, hexec⟩ := brot_eq h hcheck hext hne hkey hstep
    exact ⟨_, hexec, extStart_begun (issuedAs_of_go h) (by omega) _ _ _⟩
  case kpack =>
    rintro w rfl h hcheck hext hcnt hrows hldim
    obtain ⟨bad, hexec⟩ := kpack_eq h hcheck hext hcnt hrows
    exact ⟨_, hexec, extStart_begun (issuedAs_of_go h) hldim _ _ _⟩
  case take =>
    rintro r v tok q tile hop hwin hxfer hfills hqueue hpoison rfl hfull hlt
    obtain ⟨-, -, hqueues, ⟨rows, bad, hring⟩, hreleased⟩ :=
      ringFill_filled (s := s.setEng e ((s.eng e).pop v.iss.i.wait0)) (e := e) (r := r) (by rw [setEng_eng]; exact hop) v.iss.i
    rw [setEng_eng] at hqueues hreleased
    refine ⟨_, ringTokenTake_eq hop hwin hxfer hfills hqueue hpoison hfull hlt, ?_, hreleased, _, hring, by simp [withFill]⟩
    rw [Engine.queue, hqueues]
    exact (tget_tset_self _ _ _ _).trans (congrArg List.tail hqueue)

end Sys2Proof.RingConsumers

/-! Transfers of an instruction: it takes a transfer entry under its number, which every step of its work keeps, and TRANSFER_COMPLETE frees
the entry (R128-R132, R146, R147, R262; O14). -/

namespace Sys2Proof.TransferEntries

open Sys2Proof Sys2Proof.Machine Sys2Proof.Laws Sys2Proof.EngineInstr

/-! ## What keeps an entry (R131) -/

@[simp] theorem setXfer_xfer (s : State) (e n : Nat) (v : Ent) : (s.setXfer e n v).xfer e n = v := by
  simp [State.setXfer, State.xfer, Stream.ent, Stream.setEnt]

theorem xfer_of_within {ps : List Part} {s t : State} (h : Within ps s t) (hps : ps.contains .streams = false) (e n : Nat) :
    t.xfer e n = s.xfer e n := by
  rw [State.xfer, State.strm, h.eq_streams hps, State.xfer, State.strm]

/-- From s to t entry n of engine e stays under its number, its kind one of K if it was, and the engine issues nothing. -/
structure KeepsEntry (K : EntKind → Prop) (e n : Nat) (s t : State) : Prop where
  issued : (t.eng e).issued = (s.eng e).issued
  seq : (t.xfer e n).seq = (s.xfer e n).seq
  kind : K (s.xfer e n).kind → K (t.xfer e n).kind

section Keeps

variable {K : EntKind → Prop} {e n : Nat} {s t u : State}

theorem KeepsEntry.refl (s : State) : KeepsEntry K e n s s := ⟨rfl, rfl, id⟩

theorem KeepsEntry.trans (h : KeepsEntry K e n s t) (h' : KeepsEntry K e n t u) : KeepsEntry K e n s u :=
  ⟨h'.issued.trans h.issued, h'.seq.trans h.seq, h'.kind ∘ h.kind⟩

/-- A step that reaches neither engines nor streams. -/
theorem KeepsEntry.of_within {ps : List Part} (h : Within ps s t) (heng : ps.contains .engines = false) (hstrm : ps.contains .streams = false) :
    KeepsEntry K e n s t :=
  ⟨by rw [eng_of_within h heng], by rw [xfer_of_within h hstrm], by rw [xfer_of_within h hstrm]; exact id⟩

theorem setEng_keeps {y : Engine} (h : y.issued = (s.eng e).issued) : KeepsEntry K e n s (s.setEng e y) := ⟨by rw [setEng_eng, h], rfl, id⟩

theorem setTiles_keeps {y : Engine} (h : TileChange (s.eng e) y) : KeepsEntry K e n s (s.setEng e y) := by
  obtain ⟨_, _, _, _, rfl⟩ := h
  exact setEng_keeps rfl

theorem setXfer_keeps {v : Ent} (hseq : v.seq = (s.xfer e n).seq := by rfl) (hkind : K (s.xfer e n).kind → K v.kind := by exact id) :
    KeepsEntry K e n s (s.setXfer e n v) := ⟨rfl, by rw [setXfer_xfer, hseq], by rw [setXfer_xfer]; exact hkind⟩

theorem modWin_keeps (s : State) (seq : Nat) (f : WinEnt → WinEnt) : KeepsEntry K e n s (s.modWin e seq f) := setEng_keeps rfl

theorem event_keeps (s : State) (p : Page) (ev k : Nat) : KeepsEntry K e n s (s.event p ev k) := .of_within (State.event_within _ _ _ _) rfl rfl

theorem units_keeps (s : State) (ev : Nat) (t : Target) (k : Nat) : KeepsEntry K e n s (s.units e ev t k) :=
  .of_within (State.units_within _ _ _ _ _) rfl rfl

theorem drawn_keeps (s : State) : KeepsEntry K e n s s.drawn := ⟨rfl, rfl, id⟩

/-! ## Steps of a transfer (R128, R129, R132, R262) -/

theorem haltEnt_keeps (s : State) (write : Bool) (va : Nat) (pos : Pos) : KeepsEntry K e n s (s.haltEnt e n write va pos) :=
  (KeepsEntry.trans setXfer_keeps (event_keeps _ _ _ _)).trans (.of_within (State.raise_within _ _ _) rfl rfl)

theorem settle_keeps (s : State) (f : Fate) : KeepsEntry K e n s (s.settle e n f) := by
  cases f with
  | done => exact setXfer_keeps
  | halted => exact .refl s
  | bad c t =>
    exact .trans setXfer_keeps (modWin_keeps _ _ _)

theorem tldPut_tileChange (y : Engine) (i : Ins) (c : Chain) (d : Desc) (rev : Bool) (first : Nat) (vs : List Nat) :
    TileChange y (y.tldPut i c d rev first vs) := by
  unfold Engine.tldPut
  split
  · exact .refl y
  · split
    · exact putElems_tileChange _ _ _ _ _
    · exact putElems_tileChange _ _ _ _ _

theorem tldRun_keeps (s : State) (first : Nat) : KeepsEntry K e n s (s.tldRun e n first) := by
  unfold State.tldRun
  extract_lets x c
  split
  · exact .refl s
  · extract_lets w total base
    have hread := State.atRead_within s e base 0 ((total - first) * w)
    generalize s.atRead e base 0 ((total - first) * w) = r at hread ⊢
    obtain ⟨u, b, f⟩ := r
    have hmoved : ∀ t k, KeepsEntry K e n s (u.units e 2 t k) := fun t k => .trans (.of_within hread rfl rfl) (units_keeps _ _ _ _)
    dsimp only
    split
    · exact ((hmoved _ _).trans (setTiles_keeps (zeroTile_tileChange _ _))).trans (settle_keeps _ _)
    · have hput := fun t k i c d rev vs => (hmoved t k).trans (setTiles_keeps (tldPut_tileChange _ i c d rev first vs))
      split
      · exact (hput _ _ _ _ _ _ _).trans (settle_keeps _ _)
      · exact (hput _ _ _ _ _ _ _).trans (haltEnt_keeps _ _ _ _)
      · exact ((hput _ _ _ _ _ _ _).trans (setTiles_keeps (zeroTile_tileChange _ _))).trans (settle_keeps _ _)

theorem todoGo_keeps (l : List (Target × Nat × Nat × Bytes)) (s : State) (pos : Nat) : KeepsEntry K e n s (s.todoGo e n l pos).1 := by
  induction l generalizing s pos with
  | nil => exact setXfer_keeps
  | cons w r ih =>
    obtain ⟨t, u, rowB, bs⟩ := w
    unfold State.todoGo
    split
    · next hwrite => exact (KeepsEntry.of_within (.of_pair hwrite (State.bodyWrite_within _ _ _ _ _ _ _)) rfl rfl).trans (ih _ _)
    · next hwrite =>
      exact ((KeepsEntry.of_within (.of_pair hwrite (State.bodyWrite_within _ _ _ _ _ _ _)) rfl rfl).trans setXfer_keeps).trans
        (haltEnt_keeps _ _ _ _)
    · next hwrite => exact .of_within (.of_pair hwrite (State.bodyWrite_within _ _ _ _ _ _ _)) rfl rfl

theorem todoRun_keeps (s : State) : KeepsEntry K e n s (s.todoRun e n).1 := todoGo_keeps _ _ _

theorem mopRead_keeps (s : State) (poly lam : Nat) : KeepsEntry K e n s (s.mopRead e n poly lam).1 := by
  unfold State.mopRead
  extract_lets x c v start
  split
  · exact .refl s
  · extract_lets w base
    have hread := State.atRead_within s e base 0 ((c.n - start) * w)
    generalize s.atRead e base 0 ((c.n - start) * w) = r at hread ⊢
    obtain ⟨u, b, f⟩ := r
    have hmoved : ∀ t k, KeepsEntry K e n s (u.units e 2 t k) := fun t k => .trans (.of_within hread rfl rfl) (units_keeps _ _ _ _)
    dsimp only
    split
    · exact hmoved _ _
    · split
      · exact (hmoved _ _).trans setXfer_keeps
      · exact ((hmoved _ _).trans setXfer_keeps).trans (haltEnt_keeps _ _ _ _)
      · exact (hmoved _ _).trans setXfer_keeps

end Keeps

/-! ## Streams of memory operands (R146, R147) -/

/-- The kinds of an entry of a memory-operand stream: it reads a limb or it writes one. -/
def Streams (k : EntKind) : Prop := k = .tld ∨ k = .tst

section Streams

variable {e n : Nat} {s t : State}

theorem reads_keeps {v : Ent} (hseq : v.seq = (s.xfer e n).seq := by rfl) (hkind : v.kind = .tld := by rfl) :
    KeepsEntry Streams e n s (s.setXfer e n v) := setXfer_keeps hseq fun _ => .inl hkind

theorem writes_keeps {v : Ent} (hseq : v.seq = (s.xfer e n).seq := by rfl) (hkind : v.kind = .tst := by rfl) :
    KeepsEntry Streams e n s (s.setXfer e n v) := setXfer_keeps hseq fun _ => .inr hkind

/-- A step that answers a state and a fate. -/
theorem keeps_of_pair {K : EntKind → Prop} {β : Type} {p : State × β} {b : β} (hp : p = (t, b)) (h : KeepsEntry K e n s p.1) :
    KeepsEntry K e n s t := by rwa [hp] at h

theorem lanePasses_keeps {K : EntKind → Prop} (s : State) (k : Nat) : KeepsEntry K e n s (s.lanePasses e k) :=
  .of_within (State.lanePasses_within _ _ _) rfl rfl

theorem rescLimb_keeps (s : State) : KeepsEntry Streams e n s (s.rescLimb e n).1 := by
  unfold State.rescLimb
  extract_lets x c top k lam
  split
  · next hread =>
    have hmoved := keeps_of_pair hread (mopRead_keeps (K := Streams) _ _ _)
    extract_lets v coef
    split
    · exact hmoved.trans setXfer_keeps
    · split
      · exact hmoved
      · exact (hmoved.trans writes_keeps).trans (todoRun_keeps _)
  · exact mopRead_keeps _ _ _

theorem rescGo_keeps (k : Nat) (s : State) : KeepsEntry Streams e n s (s.rescGo e n k).1 := by
  induction k generalizing s with
  | zero => exact .refl s
  | succ k ih =>
    unfold State.rescGo
    extract_lets v top
    have hstep : KeepsEntry Streams e n s (if v.kind = .tst then s.todoRun e n else s.rescLimb e n).1 := by
      split
      · exact todoRun_keeps s
      · exact rescLimb_keeps s
    split
    · next hdone =>
      have hkept := keeps_of_pair hdone hstep
      split
      · exact hkept
      · exact (hkept.trans reads_keeps).trans (ih _)
    · exact hstep

theorem rescRun_keeps (s : State) : KeepsEntry Streams e n s (s.rescRun e n) := by
  unfold State.rescRun
  split
  · next hgo => exact keeps_of_pair hgo (rescGo_keeps _ _)
  · next hgo => exact ((keeps_of_pair hgo (rescGo_keeps _ _)).trans (lanePasses_keeps _ _)).trans (settle_keeps _ _)

theorem freeTile_keeps {K : EntKind → Prop} (s : State) (m : Nat) : KeepsEntry K e n s (s.freeTile e m) :=
  (setTiles_keeps (putElems_tileChange _ _ _ _ _)).trans (drawn_keeps _)

theorem ringFill_keeps {K : EntKind → Prop} (s : State) (i : Ins) : KeepsEntry K e n s (s.ringFill e i) := by
  have hxfer : (s.ringFill e i).xfer e n = s.xfer e n := xfer_of_within (State.ringFill_within s e i) rfl e n
  refine ⟨?_, by rw [hxfer], by rw [hxfer]; exact id⟩
  cases hop : (s.eng e).ringOp with
  | none => rw [State.ringFill, hop]
  | some r => exact (RingConsumers.ringFill_filled hop i).issued

theorem kswEnd_keeps (s : State) (f : Fate) : KeepsEntry Streams e n s (s.kswEnd e n f) :=
  ((lanePasses_keeps s _).trans (setEng_keeps (by rfl))).trans (settle_keeps _ _)

theorem kswWrites_keeps (s : State) : KeepsEntry Streams e n s (s.kswWrites e n) := by
  unfold State.kswWrites
  split
  · next hdone =>
    have hkept := keeps_of_pair hdone (todoRun_keeps (K := Streams) _)
    split
    · split
      · exact hkept
      · exact hkept.trans (kswEnd_keeps _ _)
    · exact hkept
  · next hhalt => exact keeps_of_pair hhalt (todoRun_keeps _)
  · next hbad => exact (keeps_of_pair hbad (todoRun_keeps _)).trans (kswEnd_keeps _ _)

theorem kswAfter_keeps (s : State) : KeepsEntry Streams e n s (s.kswAfter e n) := by
  unfold State.kswAfter
  split
  · exact ((drawn_keeps s).trans writes_keeps).trans (kswWrites_keeps _)
  · exact .refl s

theorem kswLimb_keeps (s : State) : KeepsEntry Streams e n s (s.kswLimb e n).1 := by
  unfold State.kswLimb
  extract_lets x c lam
  split
  · next hread =>
    exact (((keeps_of_pair hread (mopRead_keeps _ _ _)).trans (drawn_keeps _)).trans writes_keeps).trans (todoRun_keeps _)
  · exact mopRead_keeps _ _ _

theorem kswSource_keeps (k : Nat) (s : State) : KeepsEntry Streams e n s (s.kswSource e n k).1 := by
  induction k generalizing s with
  | zero => exact .refl s
  | succ k ih =>
    unfold State.kswSource
    extract_lets v
    have hstep : KeepsEntry Streams e n s (if v.kind = .tst then s.todoRun e n else s.kswLimb e n).1 := by
      split
      · exact todoRun_keeps s
      · exact kswLimb_keeps s
    split
    · next hdone =>
      have hkept := keeps_of_pair hdone hstep
      split
      · exact hkept
      · exact (hkept.trans reads_keeps).trans (ih _)
    · exact hstep

theorem kswRun_keeps (s : State) : KeepsEntry Streams e n s (s.kswRun e n) := by
  unfold State.kswRun
  extract_lets x
  split
  · exact .refl s
  · split
    · split
      · next hsource =>
        exact (((keeps_of_pair hsource (kswSource_keeps _ _)).trans (setEng_keeps (by rfl))).trans (ringFill_keeps _ _)).trans
          (kswAfter_keeps _)
      · next hsource => exact keeps_of_pair hsource (kswSource_keeps _ _)
      · next hsource => exact (keeps_of_pair hsource (kswSource_keeps _ _)).trans (kswEnd_keeps _ _)
    · exact kswWrites_keeps s

end Streams

/-! ## Instructions that take an entry (R131) -/

section Commands

variable {e : Fin 64} {s s1 s2 s3 s4 t u : State} {x : Iss}

/-- An instruction takes an entry under its number, which the steps of its work keep. -/
theorem kept_of_hold {K : EntKind → Prop} {mine : Nat → Bool} (hgo : IssuedAs s e mine s1 x) (hu : (u.eng e).issued = (s1.eng e).issued)
    {v : Ent} (hv : K v.kind) (h : KeepsEntry K e (u.hold e x v).2 (u.hold e x v).1 t) :
    K (t.xfer e (u.hold e x v).2).kind ∧ (t.xfer e (u.hold e x v).2).seq = (s.eng e).issued + 1 ∧
      (t.eng e).issued = (s.eng e).issued + 1 := by
  obtain ⟨q, hq⟩ := hgo.eng
  have hxfer : (u.hold e x v).1.xfer e (u.hold e x v).2 = { v with seq := x.seq } := setXfer_xfer _ _ _ _
  have hissued : ((u.hold e x v).1.eng e).issued = (u.eng e).issued := by
    rw [State.hold, enter_eng]
    rfl
  refine ⟨h.kind (by rw [hxfer]; exact hv), ?_, ?_⟩
  · rw [h.seq, hxfer, ← hgo.seq]
  · rw [h.issued, hissued, hu, hq]

/-- A stream of memory operands takes an entry that reads or writes. -/
theorem takesEntry_of_streams {mine : Nat → Bool} (hgo : IssuedAs s e mine s1 x) (hu : (u.eng e).issued = (s1.eng e).issued)
    {v : Ent} (hv : v.kind = .tld) (h : KeepsEntry Streams e (u.hold e x v).2 (u.hold e x v).1 t) :
    ∃ n, TakesEntry s t e n .tld ∨ TakesEntry s t e n .tst := by
  obtain ⟨hkind, hnumber⟩ := kept_of_hold hgo hu (.inl hv) h
  exact ⟨_, hkind.imp (⟨·, hnumber⟩) (⟨·, hnumber⟩)⟩

theorem firstSource_eng {slot out : Nat} {r : Except Res (Loc × Desc)} (h : s.firstSource e slot out = (t, r)) : t.eng e = s.eng e :=
  eng_of_within (.of_pair h (State.firstSource_within _ _ _ _)) rfl e

theorem readDesc_eng {slot : Nat} {source : Bool} {r : Except (Code × Option Loc) (Loc × Desc)} (h : s.readDesc e slot source = (t, r)) :
    t.eng e = s.eng e := eng_of_within (.of_pair h (State.readDesc_within _ _ _ _)) rfl e

/-- TLD whose checks pass takes an entry and moves its elements from the first on (R128). -/
theorem tld_eq (h : Issues s e 0x09 s1 x) (hcheck : s1.issueCheck e x.i = none) {l : Loc} {d : Desc}
    (hread : s1.readDesc e (x.i.im 52 8) true = (s2, .ok (l, d)))
    (hfits : (s2.eng e).bodyFits x.i (s2.chainOf x.i.chain) d x.i.dst (x.i.im 49 3) (x.i.im 48 1 == 1) = none)
    (hreach : s2.reaches e (l.plus (x.i.bodyOff (s2.chainOf x.i.chain) d (x.i.im 49 3)))
      (x.i.total (s2.chainOf x.i.chain) d * fmtBytes d.wfmt) = true) :
    let v : Ent := { kind := .tld, src := some (s2.locTarget e l, d) }
    exec (.tld e) s = .next ((s2.hold e x v).1.tldRun e (s2.hold e x v).2 0) := by
  show execTld e s = _
  rw [Issues] at h
  simp [execTld, h, State.tld, hcheck, hread, hfits, hreach]

/-- TST whose checks pass takes an entry, and does its writes (R129, R130). -/
theorem tst_eq (h : Issues s e 0x0A s1 x) (hcheck : s1.issueCheck e x.i = none) (hkey : ((s1.eng e).tile x.i.srca).key = false)
    {l : Loc} {d : Desc} {src : Loc × Desc}
    (hsource : x.i.im 47 1 = 0 ∧ s3 = s1 ∨ x.i.im 47 1 = 1 ∧ s1.firstSource e (x.i.im 39 8) (x.i.im 52 8) = (s3, .ok src) ∧
      d.noiseRefused (s2.chainOf x.i.chain) = false)
    (hread : s3.readDesc e (x.i.im 52 8) false = (s2, .ok (l, d)))
    (hfits : (s2.eng e).bodyFits x.i (s2.chainOf x.i.chain) d x.i.srca (x.i.im 49 3) (x.i.im 48 1 == 1) = none)
    (hreach : s2.reaches e (l.plus (x.i.bodyOff (s2.chainOf x.i.chain) d (x.i.im 49 3)))
      (x.i.total (s2.chainOf x.i.chain) d * fmtBytes d.wfmt) = true) :
    ∃ v : Ent, v.kind = .tst ∧ ∃ f : WinEnt → WinEnt,
      let u := (s2.tstBody e x.i (s2.chainOf x.i.chain) d).1
      let r := ((u.hold e x v).1.modWin e x.seq f).todoRun e (u.hold e x v).2
      exec (.tst e) s = .next (r.1.settle e (u.hold e x v).2 r.2) := by
  show ∃ v : Ent, v.kind = .tst ∧ ∃ f : WinEnt → WinEnt, execTst e s = _
  rw [Issues] at h
  rcases hsource with ⟨hdesc, rfl⟩ | ⟨hdesc, hfirst, hnoise⟩
  · simp only [execTst, h, State.tst, hcheck, hkey, hdesc, hread, hfits, hreach, ↓reduceIte, Nat.reduceBEq, Bool.false_eq_true,
      Bool.false_and, Bool.not_true]
    exact ⟨_, rfl, _, rfl⟩
  · simp only [execTst, h, State.tst, hcheck, hkey, hdesc, hfirst, hnoise, hread, hfits, hreach, ↓reduceIte, BEq.rfl, Bool.false_eq_true,
      Bool.and_false, Bool.not_true]
    exact ⟨_, rfl, _, rfl⟩

/-- RESC of memory operands whose checks pass takes an entry, with its staging tiles undefined (R147). -/
theorem resc_eq (h : Issues s e 0x2B s1 x) (hcheck : s1.issueCheck e x.i = none) (hmop : x.i.mop = true) {il l : Loc} {id d : Desc}
    (hlo : x.i.llo = 0) (htop : x.i.lhi ≠ 0) (hstaging : (s1.eng e).rescStaging x.i (s1.chainOf x.i.chain) = none)
    (hfirst : s1.firstSource e (x.i.im 51 8) (x.i.im 40 8) = (s2, .ok (il, id))) (hinput : id.mopSourceOk x.i (x.i.im 48 3) = true)
    (hsource : x.i.im 36 1 = 0 ∧ s3 = s2 ∨ ∃ ld, x.i.im 36 1 = 1 ∧ s2.firstSource e (x.i.im 28 8) (x.i.im 40 8) = (s3, .ok ld) ∧
      d.noiseRefused (s1.chainOf x.i.chain) = false)
    (hread : s3.readDesc e (x.i.im 40 8) false = (s4, .ok (l, d))) (houtput : d.mopOutputOk x.i (x.i.lhi - 1) (x.i.im 37 3 + 1) = true)
    (hin : s4.reaches e (il.plus (id.off (x.i.im 48 3))) ((x.i.lhi + 1) * (s1.chainOf x.i.chain).n * fmtBytes id.wfmt) = true)
    (hout : s4.reaches e (l.plus (d.off (x.i.im 37 3))) (x.i.lhi * (s1.chainOf x.i.chain).n * fmtBytes d.wfmt) = true) :
    ∃ v : Ent, v.kind = .tld ∧
      exec (.resc e) s = .next ((((s4.hold e x v).1.freeTile e x.i.srca).freeTile e x.i.dst).rescRun e (s4.hold e x v).2) := by
  show ∃ v : Ent, v.kind = .tld ∧ execResc e s = _
  rw [Issues] at h
  rcases hsource with ⟨hdesc, rfl⟩ | ⟨ld, hdesc, hsecond, hnoise⟩
  · simp only [execResc, h, hcheck, hmop, State.rescMop, hlo, htop, hstaging, hfirst, hinput, hdesc, hread, houtput, hin, hout, ↓reduceIte,
      ne_eq, not_true_eq_false, zero_ne_one, Bool.not_true, Bool.false_eq_true, false_and, or_self]
    exact ⟨_, rfl, rfl⟩
  · simp only [execResc, h, hcheck, hmop, State.rescMop, hlo, htop, hstaging, hfirst, hinput, hdesc, hsecond, hnoise, hread, houtput, hin,
      hout, ↓reduceIte, ne_eq, not_true_eq_false, Bool.not_true, Bool.false_eq_true, and_false, or_self]
    exact ⟨_, rfl, rfl⟩

/-- Before KSW takes its entry its operands' reads, the staging tiles and the consumer's record leave the numbering alone. -/
theorem withOp_freed_issued {i : Ins} {r : Except Res KswArgs} (hargs : s.kswArgs e i = (t, r)) {a b c : Nat} {op : RingOp} :
    ((RingConsumers.withOp ((((t.useSph e i).freeTile e a).freeTile e b).freeTile e c) e op).eng e).issued = (s.eng e).issued := by
  have hfree := (((freeTile_keeps (K := Streams) (e := e) (n := 0) (t.useSph e i) a).trans (freeTile_keeps _ b)).trans (freeTile_keeps _ c)).issued
  rw [RingConsumers.withOp_eng, hfree, eng_of_within (State.useSph_within _ _ _) rfl,
    eng_of_within (.of_pair hargs (State.kswArgs_within _ _ _)) rfl]

/-- KSW of memory operands whose checks pass takes an entry, with its record set up and its staging tiles undefined (R146). -/
theorem ksw_eq (h : Issues s e 0x30 s1 x) (hcheck : s1.issueCheck e x.i = none) (hksw : s1.kswCheck e x.i = none) {a : KswArgs}
    {il l wl : Loc} {id d : Desc} (hargs : s1.kswArgs e x.i = (s2, .ok a)) (hmem : a.mem = some (il, id, l, d, wl))
    (hnoise : (a.cd.scheme = 2 ∨ a.cd.scheme = 3) ∧ (d.scheme = 2 ∨ d.scheme = 3) → d.noiseRefused (s1.chainOf x.i.chain) = false)
    (hin : s2.reaches e (il.plus (id.off (x.i.im 16 3))) ((x.i.lhi + 1) * (s1.chainOf x.i.chain).n * fmtBytes id.wfmt) = true)
    (hbuf : s2.reaches e wl ((x.i.lhi + 1) * (s1.chainOf x.i.chain).n * (s1.chainOf x.i.chain).esz) = true)
    (hout0 : s2.reaches e l (d.off 0 + d.polySize) = true) (hout1 : s2.reaches e l (d.off 1 + d.polySize) = true) :
    ∃ (op : RingOp) (v : Ent), v.kind = .tld ∧
      let u := RingConsumers.withOp ((((s2.useSph e x.i).freeTile e x.i.srca).freeTile e x.i.dst).freeTile e x.i.srcc) e op
      exec (.ksw e) s = .next ((u.hold e x v).1.kswRun e (u.hold e x v).2) := by
  have hquiet : ¬ ((a.cd.scheme = 2 ∨ a.cd.scheme = 3) ∧ (d.scheme = 2 ∨ d.scheme = 3) ∧ d.noiseRefused (s1.chainOf x.i.chain) = true) := by
    rintro ⟨hcd, hd, hrefused⟩
    simp [hnoise ⟨hcd, hd⟩] at hrefused
  show ∃ (op : RingOp) (v : Ent), v.kind = .tld ∧ execKsw e s = _
  rw [Issues] at h
  simp only [execKsw, h, State.ksw, hcheck, hksw, hargs, hmem, if_neg hquiet]
  rw [if_neg (by simp [hin, hbuf, hout0, hout1])]
  exact ⟨_, _, rfl, rfl⟩

end Commands

/-! ## Completion (R130, R131) -/

/-- The state after a transfer of the instruction seq has completed, its window entry changed by f. -/
def finished (s : State) (e n seq : Nat) (f : WinEnt → WinEnt) : State :=
  (s.modWin e seq fun v => { f v with done := true }).setXfer e n {}

/-- A completed transfer has freed its entry, reached no memory, and its instruction is done. -/
theorem finished_completes (s : State) (e n seq : Nat) (f : WinEnt → WinEnt) :
    ((finished s e n seq f).xfer e n).kind = .free ∧ (finished s e n seq f).mem = s.mem ∧
      ∀ u ∈ ((finished s e n seq f).eng e).window, u.seq = seq → u.done = true := by
  refine ⟨by rw [finished, setXfer_xfer], rfl, fun u hu hseq => ?_⟩
  have hwindow : ((finished s e n seq f).eng e).window =
      (s.eng e).window.map fun v => if v.seq = seq then { f v with done := true } else v := congrArg Engine.window (setEng_eng _ _ _)
  rw [hwindow] at hu
  obtain ⟨v, -, rfl⟩ := List.mem_map.1 hu
  split_ifs at hseq ⊢ with hv
  · rfl
  · exact absurd hseq hv

theorem transferComplete_eq {e : Fin 64} {n : Fin 4} {s : State} {v : WinEnt} (hlast : (s.xfer e n).last = true)
    (hwin : (s.eng e).winOf (s.xfer e n).seq = some v) (hdesc : (s.xfer e n).cdesc = none) :
    exec (.transferComplete e n) s = .next (finished s e n (s.xfer e n).seq id) := by
  show execTransferComplete e n s = _
  cases hout : (s.xfer e n).out with
  | none => simp [execTransferComplete, hlast, hwin, hdesc, hout, finished]
  | some o => simp [execTransferComplete, hlast, hwin, hdesc, hout, finished]

/-- A transfer whose output's descriptor is due writes it first (R130). -/
theorem transferComplete_writes {e : Fin 64} {n : Fin 4} {s s2 : State} {v : WinEnt} {tg : Target} {o src : Desc}
    (hlast : (s.xfer e n).last = true) (hwin : (s.eng e).winOf (s.xfer e n).seq = some v) (hdesc : (s.xfer e n).cdesc = some src)
    (hout : (s.xfer e n).out = some (tg, o)) (hrows : s.earlierRows e v = false)
    (hwrite : s.descAt e tg (s.finalDesc e o src) = (s2, none)) :
    ∃ f, exec (.transferComplete e n) s = .next (finished s2 e n (s.xfer e n).seq f) := by
  show ∃ f, execTransferComplete e n s = _
  simp only [execTransferComplete, hlast, hwin, hdesc, hout, hrows, hwrite]
  exact ⟨_, rfl⟩

/-- Settles O14: what follows the taking of an entry keeps it, and a completion is one write of window and entry. -/
theorem transfersAndMemoryOperands : Obligations.TransfersAndMemoryOperands := by
  unfold Obligations.TransfersAndMemoryOperands
  refine ⟨fun e s s1 s2 x l d => ⟨?tld, ?tst, ?done, ?due⟩, fun e s s1 s2 s3 s4 x il l id d hmop hcheck => ⟨?resc, ?ksw⟩⟩
  case tld =>
    intro h hcheck hread hfits hreach
    exact ⟨_, _, tld_eq h hcheck hread hfits hreach,
      kept_of_hold (K := (· = .tld)) (issuedAs_of_go h) (by rw [readDesc_eng hread]) rfl (tldRun_keeps _ _)⟩
  case tst =>
    intro s3 src h hcheck hkey hsource hread hfits hreach
    obtain ⟨v, hv, f, hexec⟩ := tst_eq h hcheck hkey hsource hread hfits hreach
    have heng : s3.eng e = s1.eng e := by
      rcases hsource with ⟨-, rfl⟩ | ⟨-, hfirst, -⟩
      · rfl
      · exact firstSource_eng hfirst
    refine ⟨_, _, hexec, kept_of_hold (K := (· = .tst)) (issuedAs_of_go h) ?_ hv
      (((modWin_keeps _ _ _).trans (todoRun_keeps _)).trans (settle_keeps _ _))⟩
    rw [eng_of_within (State.tstBody_within _ _ _ _ _) rfl, readDesc_eng hread, heng]
  case done =>
    intro n v hlast hwin hdesc
    exact ⟨_, transferComplete_eq hlast hwin hdesc, finished_completes _ _ _ _ _⟩
  case due =>
    intro n v tg o src hlast hwin hdesc hout hrows hwrite
    obtain ⟨f, hexec⟩ := transferComplete_writes hlast hwin hdesc hout hrows hwrite
    exact ⟨_, hexec, finished_completes _ _ _ _ _⟩
  case resc =>
    intro h hlo htop hstaging hfirst hinput hsource hread houtput hin hout
    obtain ⟨v, hv, hexec⟩ := resc_eq h hcheck hmop hlo htop hstaging hfirst hinput hsource hread houtput hin hout
    have heng : s3.eng e = s2.eng e := by
      rcases hsource with ⟨-, rfl⟩ | ⟨ld, -, hsecond, -⟩
      · rfl
      · exact firstSource_eng hsecond
    obtain ⟨n, hentry⟩ := takesEntry_of_streams (issuedAs_of_go h) (by rw [readDesc_eng hread, heng, firstSource_eng hfirst]) hv
      (((freeTile_keeps _ _).trans (freeTile_keeps _ _)).trans (rescRun_keeps _))
    exact ⟨_, n, hexec, hentry⟩
  case ksw =>
    intro a wl h hksw hargs hmem hnoise hin hbuf hout0 hout1
    obtain ⟨op, v, hv, hexec⟩ := ksw_eq h hcheck hksw hargs hmem hnoise hin hbuf hout0 hout1
    obtain ⟨n, hentry⟩ := takesEntry_of_streams (issuedAs_of_go h) (withOp_freed_issued hargs) hv (kswRun_keeps _)
    exact ⟨_, n, hexec, hentry⟩

end Sys2Proof.TransferEntries

/-! Reset values, as their registers read (R219, R285, R293, R328, R350, R398, R406, R503; O6). -/

namespace Sys2Proof.ResetValues

open Sys2Proof Sys2Proof.Machine Sys2Proof.Laws

/-- CTL of a link holds MINW in its lowest bits and nothing else (R406). -/
theorem linkCtl_reset (n : Nat) : State.reset.readReg (.link n) 0x104 = 1 := calc
  State.reset.readReg (.link n) 0x104 = Link.ctl {} := rfl
  _ = 1 := by decide

/-- Settles O6: at reset no unit has a table entry of its own, so that each register reads as its unit's reset value in every unit of a
class; the reset state meets both invariants. -/
theorem resetState : Obligations.ResetState := by
  unfold Obligations.ResetState
  refine ⟨⟨fun _ _ => ?keepWays, fun _ _ => ?scrubHours, fun _ _ => ?hlimit, fun _ _ => ?sendWaitLimit, fun _ _ => ?coreEn, ?hopBudget,
    ?e2eLimit, ?e2eTries, ?pwrLimit, ?coolCap, ?throtTemp, fun n _ => linkCtl_reset n⟩, reset_mem_wf, rangesOk_start⟩
  all_goals rfl

end Sys2Proof.ResetValues

/-! Key fills, noise fills, SQZ and the service of halted transfers (R207-R214, R232-R236, R258-R263; O20). -/

namespace Sys2Proof.FillsAndSqueeze

open Sys2Proof Sys2Proof.Machine Sys2Proof.Laws Sys2Proof.EngineInstr
open Sys2Proof.TransferEntries (setXfer_xfer xfer_of_within)
open Sys2Proof.TileResults (mark_tf)
open Sys2Proof.ChainDrip (gate_takes)

/-! ## Slots and entries -/

@[simp] theorem setSlotOf_slotOf (s : State) (e n : Nat) (x : Slot) : (s.setSlotOf e n x).slotOf e n = x := by
  simp [State.setSlotOf, State.slotOf, Stream.slot, Stream.setSlot]

@[simp] theorem setKf_slotOf (s : State) (e n : Nat) (k : KFill) : (s.setKf e n k).slotOf e n = { s.slotOf e n with kf := some k } :=
  setSlotOf_slotOf _ _ _ _

@[simp] theorem setXfer_slotOf (s : State) (e m n : Nat) (v : Ent) : (s.setXfer e m v).slotOf e n = s.slotOf e n := by
  simp [State.setXfer, State.slotOf, Stream.slot, Stream.setEnt]

@[simp] theorem setSlotOf_xfer (s : State) (e n m : Nat) (x : Slot) : (s.setSlotOf e n x).xfer e m = s.xfer e m := by
  simp [State.setSlotOf, State.xfer, Stream.ent, Stream.setSlot]

theorem slotOf_of_within {ps : List Part} {s t : State} (h : Within ps s t) (hps : ps.contains .streams = false) (e n : Nat) :
    t.slotOf e n = s.slotOf e n := by
  rw [State.slotOf, State.strm, h.eq_streams hps, State.slotOf, State.strm]

theorem chainOf_of_within {ps : List Part} {s t : State} (h : Within ps s t) (hps : ps.contains .dev = false) (c : Nat) :
    t.chainOf c = s.chainOf c := by
  rw [State.chainOf, h.eq_dev hps, State.chainOf]

/-- A slot that is ready runs its instruction, with an entry where it needs one (R241, R243). -/
theorem slotStep_of_ready {s s1 : State} {e n sop : Nat} (hready : s.slotReady e n sop = true) (hent : s.needEnt e n = some s1)
    (k : State → State) : s.slotStep e n sop k = k s1 := by
  have hgo : (s.strmLive e && (s.slotOf e n).live && decide ((s.slotOf e n).pc < (s.slotOf e n).ninstr) && (s.slotOf e n).out.isEmpty &&
      sopOf (s.slotOf e n).instr == sop) = true := (Bool.and_eq_true_iff.1 hready).1
  rw [State.slotStep, if_pos hgo, hent]

/-- A slot that has instructions left goes on (R241). -/
theorem slotDone_of_left {s : State} {e n : Nat} (h : (s.slotOf e n).pc < (s.slotOf e n).ninstr) : s.slotDone e n = s :=
  if_pos (.inl h)

/-! ## Key tiles (R70-R72) -/

theorem members_of_span {x y : Engine} {t : Nat} (h : (y.tile t).span = (x.tile t).span) : y.members t = x.members t := by
  simp only [Engine.members, Tile.len, h]

theorem mark_span (x : Engine) (ts : List Nat) (inUse : Bool) (t : Nat) : ((x.mark ts inUse).tile t).span = (x.tile t).span :=
  foldl_setTile_keeps (idx := id) (P := fun u => u.span = (x.tile t).span) (fun y a ha hy => by obtain rfl : a = t := ha; exact hy) rfl ts

theorem putElems_members (x : Engine) (t sz off : Nat) (vs : List Nat) : (x.putElems t sz off vs).members t = x.members t := by
  unfold Engine.putElems
  dsimp only
  split
  · rfl
  · exact members_of_span (mark_span _ _ _ _)

theorem zeroTile_members (x : Engine) (t : Nat) : (x.zeroTile t).members t = x.members t := members_of_span (mark_span _ _ _ _)

theorem setKey_tile {x : Engine} {t m : Nat} (hm : m ∈ x.members t) (k : KeyState) (tag : Word64) :
    ((x.setKey t k tag).tile m).kst = k ∧ ((x.setKey t k tag).tile m).tag = tag :=
  foldl_setTile_establishes (idx := id) (P := fun u => u.kst = k ∧ u.tag = tag) (fun _ _ _ => ⟨rfl, rfl⟩) x ⟨m, hm, rfl⟩

theorem setFill_tile (x : Engine) (t w : Nat) (l : Word64) (m : Nat) :
    ((x.setFill t w l).tile m).kst = (x.tile m).kst ∧ ((x.setFill t w l).tile m).tag = (x.tile m).tag :=
  foldl_setTile_keeps (idx := id) (P := fun u => u.kst = (x.tile m).kst ∧ u.tag = (x.tile m).tag)
    (fun y a ha hy => by obtain rfl : a = m := ha; exact hy) ⟨rfl, rfl⟩ _

theorem setKey_tf (x : Engine) (t : Nat) (k : KeyState) (tag : Word64) : (x.setKey t k tag).tf = x.tf :=
  List.foldlRecOn (motive := fun y : Engine => y.tf = x.tf) _ _ rfl fun _ hy _ _ => hy

theorem setFill_tf (x : Engine) (t w : Nat) (l : Word64) : (x.setFill t w l).tf = x.tf :=
  List.foldlRecOn (motive := fun y : Engine => y.tf = x.tf) _ _ rfl fun _ hy _ _ => hy

/-- What a fill that ends well makes of its ring tile: its elements are written, it is FULL under its tag, and it keeps where they come from
(R70, R72, R75). -/
def filled (x : Engine) (t esz : Nat) (a : AsmFill) (w : Nat) : Engine :=
  ((x.putElems t esz 0 a.vals).setKey t .full a.tag).setFill t w a.loc

theorem filled_tile {x : Engine} {t m : Nat} (hm : m ∈ x.members t) (esz : Nat) (a : AsmFill) (w : Nat) :
    ((filled x t esz a w).tile m).kst = .full ∧ ((filled x t esz a w).tile m).tag = a.tag := by
  obtain ⟨hkst, htag⟩ := setFill_tile ((x.putElems t esz 0 a.vals).setKey t .full a.tag) t w a.loc m
  obtain ⟨hfull, hkey⟩ := setKey_tile ((putElems_members x t esz 0 a.vals).symm ▸ hm) .full a.tag
  exact ⟨hkst.trans hfull, htag.trans hkey⟩

theorem filled_tf (x : Engine) (t esz : Nat) (a : AsmFill) (w : Nat) : (filled x t esz a w).tf = (x.putElems t esz 0 a.vals).tf :=
  (setFill_tf _ _ _ _).trans (setKey_tf _ _ _ _)

/-! ## KFILL (R208, R211, R258) -/

section Slot

variable {e : Fin 64} {n : Fin 4} {s s1 s2 s3 : State}

/-- A KFILL whose entry, header and checks pass takes its operation from fill 0 on (R208, R258). -/
theorem kfill_takes {l : Loc} {h : KeyHdr} (hready : s.slotReady e n 8 = true) (hent : s.needEnt e n = some s1)
    (hrun : (s1.slotOf e n).st = .running) (hkf : (s1.slotOf e n).kf = none) (hdrip : s1.dripReady e = true)
    (harg : s1.argSlot e (kfHslot (s1.slotOf e n).instr) = (s2, .ok l)) (hok : s2.kfRefused e (s1.slotOf e n).instr = false)
    (hhdr : s2.kfHeader e (s1.slotOf e n).instr l true = (s3, .ok h)) :
    ∃ total, exec (.kfill e n) s =
      .next (s3.setKf e n { total := total, hdrVa := l.word, hdr := h, stride := 256 + cdiv h.bodyLen 256 * 256 }) := by
  have hstart : ¬((s1.slotOf e n).kf.isSome ∨ !s1.dripReady e) := by simp [hkf, hdrip]
  have hmoves : ¬(s1.slotOf e n).st = .draining := by simp [hrun]
  show ∃ total, execKfill e n s = _
  simp only [execKfill, slotStep_of_ready hready hent, if_neg hstart, State.kfillStart, if_neg hmoves, harg, hok, hhdr]
  exact ⟨_, rfl⟩

/-! ## KEY_FILL_DELIVER (R70, R208-R214) -/

/-- The next fill of operation k may be delivered: its tile waits for it, and the last token has entered its queue (R208, R210). -/
structure FillDue (s : State) (e : Fin 64) (n : Fin 4) (k : KFill) : Prop where
  op : (s.slotOf e n).kf = some k
  live : s.kfLive e n k = true
  sent : k.due = []
  tile : k.cur = some (s.ringTile e n k) ∨ (s.eng e).ringEmpty (s.ringTile e n k) = true

variable {k : KFill}

theorem FillDue.delivers (h : FillDue s e n k) {k' : KFill}
    (hop : ((if k.asm.isEmpty then s.assemble e n k else s).slotOf e n).kf = some k') :
    exec (.keyFillDeliver e n) s = .next ((if k.asm.isEmpty then s.assemble e n k else s).fillEnd e n k' (s.ringTile e n k)) := by
  obtain ⟨hk, hlive, hsent, htile⟩ := h
  have hgo : (!s.kfLive e n k || !k.due.isEmpty || !(k.cur == some (s.ringTile e n k) || (s.eng e).ringEmpty (s.ringTile e n k))) = false := by
    rcases htile with h | h <;> simp [hlive, hsent, h]
  show execKeyFillDeliver e n s = _
  simp only [execKeyFillDeliver, hk, hgo, hop, Bool.false_eq_true, if_false]

/-- A fill that was assembled ahead is delivered as it stands. -/
theorem FillDue.delivers_assembled (h : FillDue s e n k) {a : AsmFill} {r : List AsmFill} (hasm : k.asm = a :: r) :
    exec (.keyFillDeliver e n) s = .next (s.fillEnd e n k (s.ringTile e n k)) := by
  have hahead : (if k.asm.isEmpty then s.assemble e n k else s) = s := if_neg (by simp [hasm])
  have hdel := h.delivers (k' := k) (by rw [hahead, h.op])
  rwa [hahead] at hdel

/-- From s to t fill a of operation k has ended well: its ring tile at head m0 is filled and its token due (R70, R210). -/
structure Delivered (s t : State) (e : Fin 64) (n : Fin 4) (k : KFill) (a : AsmFill) (r : List AsmFill) (m0 esz : Nat) : Prop where
  op : (t.slotOf e n).kf =
    some { k with asm := r, cur := none, next := k.next + 1, due := [{ value := BitVec.ofNat 16 k.next, poison := false }] }
  full : ∀ m, m ∈ (s.eng e).members m0 → ((t.eng e).tile m).kst = .full ∧ ((t.eng e).tile m).tag = a.tag
  tf : (t.eng e).tf = ((s.eng e).putElems m0 esz 0 a.vals).tf

theorem fillEnd_delivered {a : AsmFill} {r : List AsmFill} (hasm : k.asm = a :: r) (hgood : a.bad = none) (tile : Nat) :
    Delivered s (s.fillEnd e n k tile) e n k a r tile (s.chainOf (kfChain (s.slotOf e n).instr)).esz := by
  have heng : (s.fillEnd e n k tile).eng e = filled (s.eng e) tile (s.chainOf (kfChain (s.slotOf e n).instr)).esz a (s.slotOf e n).instr := by
    simp only [State.fillEnd, hasm, hgood]
    rw [State.setKf, eng_of_within (State.setSlotOf_within _ _ _ _) rfl, eng_of_within (State.fillCount_within _ _) rfl, setEng_eng, filled]
  refine ⟨?op, fun m hm => ?full, ?tf⟩
  case op => simp [State.fillEnd, hasm, hgood]
  case full => rw [heng]; exact filled_tile hm _ a _
  case tf => rw [heng, filled_tf]

/-- A fill whose rows could not be read leaves its tile EMPTY and its token due with poison (R212). -/
theorem fillEnd_unreadable {a : AsmFill} {r : List AsmFill} {cd : Code} (hasm : k.asm = a :: r) (hbad : a.bad = some cd)
    (hgo : a.stop = false) (tile : Nat) :
    ((s.fillEnd e n k tile).slotOf e n).kf =
        some { k with asm := r, cur := none, next := k.next + 1, due := [{ value := BitVec.ofNat 16 k.next, poison := true }] } ∧
      ∀ m, m ∈ (s.eng e).members tile → (((s.fillEnd e n k tile).eng e).tile m).kst = .empty := by
  have heng : (s.fillEnd e n k tile).eng e = ((s.eng e).zeroTile tile).setKey tile .empty 0 := by
    simp only [State.fillEnd, hasm, hbad, hgo]
    rw [if_neg (by decide), State.setKf, eng_of_within (State.setSlotOf_within _ _ _ _) rfl, setEng_eng,
      eng_of_within (State.fillFault_within _ _ _ _ _ _ _) rfl]
  refine ⟨by simp [State.fillEnd, hasm, hbad, hgo], fun m hm => ?_⟩
  rw [heng]
  exact (setKey_tile ((zeroTile_members (s.eng e) tile).symm ▸ hm) .empty 0).1

/-! A fill that no cycle has assembled ahead is assembled when it is delivered (R205, R207-R209, R214). -/

/-- The chain of the slot's key fills. -/
def fillChain (s : State) (e n : Nat) : Chain := s.chainOf (kfChain (s.slotOf e n).instr)

/-- The plan of the operation's next fill. -/
def nextPlan (s : State) (e n : Nat) (k : KFill) : Nat × List FillRow × Nat :=
  fillPlan (fillChain s e n) (s.slotOf e n).instr k.hdr k.next

/-- The header of the entry that the next fill is of. -/
def nextLoc (s : State) (e n : Nat) (k : KFill) : Loc := k.entryLoc (s.slotOf e n).instr k.next

/-- The next fill as assembled from its elements: the address of its header completes its tag (R184, R209). -/
def nextFill (s : State) (e n : Nat) (k : KFill) (vs : List Nat) : AsmFill :=
  { loc := (nextLoc s e n k).word, vals := vs, tag := BitVec.ofNat 64 ((nextPlan s e n k).2.2 ||| fld (nextLoc s e n k).addr 8 40 <<< 8) }

section Read

variable {v : List Nat} {d : Drawn}
variable (hasm : k.asm = []) (hentry : kfKind (s.slotOf e n).instr = true → k.next ≠ 0 → k.next % kfFpe (s.slotOf e n).instr ≠ 0)
  (hread : s.fillRead e (nextPlan s e n k).1 (fillChain s e n) k.hdr ((nextLoc s e n k).plus 256) (nextPlan s e n k).2.1 = (s2, .ok (v, d)))
include hasm hentry hread

/-- Assembly of a fill that begins no further entry reads its rows; slots, engines and chain tables stay. -/
theorem assemble_reads : ∃ u, s.assemble e n k = u.setKf e n { k with asm := [nextFill s e n k v] } ∧
    Within [.mem, .ue, .hdrs, .flows, .hbmcs, .galleries, .drips] s u := by
  have hstay : ¬(kfKind (s.slotOf e n).instr ∧ k.next ≠ 0 ∧ k.next % kfFpe (s.slotOf e n).instr = 0) :=
    fun h => hentry h.1 h.2.1 h.2.2
  have hrows := Within.of_pair hread (State.fillRead_within _ _ _ _ _ _ _)
  simp only [nextPlan, nextLoc, fillChain] at hread
  simp only [State.assemble, hasm, List.length_nil, Nat.add_zero, if_neg hstay, hread]
  exact ⟨_, rfl, .after (State.dripCount_within _ _ _) rfl (.after (State.setDrip_within _ _ _) rfl (.after hrows rfl (.refl _ _)))⟩

theorem FillDue.delivers_read (h : FillDue s e n k) : ∃ t, exec (.keyFillDeliver e n) s = .next t ∧
    Delivered s t e n k (nextFill s e n k v) [] (s.ringTile e n k) (fillChain s e n).esz := by
  obtain ⟨u, hu, hwithin⟩ := assemble_reads hasm hentry hread
  have hset := State.setKf_within u e n { k with asm := [nextFill s e n k v] }
  have hslot : (s.assemble e n k).slotOf e n = { s.slotOf e n with kf := some { k with asm := [nextFill s e n k v] } } := by
    rw [hu, setKf_slotOf, slotOf_of_within hwithin rfl]
  have heng : (s.assemble e n k).eng e = s.eng e := by rw [hu, eng_of_within hset rfl, eng_of_within hwithin rfl]
  have hchain : ∀ c, (s.assemble e n k).chainOf c = s.chainOf c := fun c => by
    rw [hu, chainOf_of_within hset rfl, chainOf_of_within hwithin rfl]
  have hnow : (if k.asm.isEmpty then s.assemble e n k else s) = s.assemble e n k := if_pos (by simp [hasm])
  have hexec := h.delivers (by rw [hnow, hslot])
  rw [hnow] at hexec
  obtain ⟨hop, hfull, htf⟩ := fillEnd_delivered (e := e) (n := n) (s := s.assemble e n k)
    (k := { k with asm := [nextFill s e n k v] }) rfl rfl (s.ringTile e n k)
  rw [heng] at hfull
  rw [heng, hchain, hslot] at htf
  exact ⟨_, hexec, hop, hfull, htf⟩

end Read

/-! ## FILL_TOKEN_EMIT (R210) -/

/-- The oldest due token of a fill enters Q(8 + s) (R210). -/
theorem fillTokenEmit_eq {tok : Token} {r : List Token} (hkf : (s.slotOf e n).kf = some k) (hdue : k.due = tok :: r)
    (hlive : s.strmLive e = true) (hroom : (s.eng e).room (8 + n) = true) :
    exec (.fillTokenEmit e n) s = .next ((s.setEng e ((s.eng e).push (8 + n) tok)).setKf e n { k with due := r }) := by
  show execFillTokenEmit e n s = _
  simp only [execFillTokenEmit, hlive, hkf, hdue, State.pushOwn, hroom, Bool.not_true, Bool.false_eq_true, if_false, if_true]

/-! ## NFILL (R232-R236, R259) -/

/-- The rows of the noise fill that slot x has reached: its one polynomial under each modulus from LLO to LHI (R232, R235). -/
def noiseRows (s : State) (e : Nat) (x : Slot) : List Nat :=
  let w := x.instr
  let c := s.chainOf (fld w 49 5)
  (List.range (fld w 36 6 + 1 - fld w 42 6)).flatMap fun k =>
    (noisePoly (s.nkOf e) (x.word (x.pc + 2)) (fld w 12 16) (fld w 34 2) (fld w 28 6) c.n).map fun v =>
      c.mont (fld w 42 6 + k) (v % (c.q (fld w 42 6 + k) : Int)).toNat

/-- An NFILL whose conditions hold writes its rows; its token is due (R234, R236). -/
theorem nfill_writes (hready : s.slotReady e n 9 = true) (hent : s.needEnt e n = some s1) (hrun : (s1.slotOf e n).st = .running)
    (hdrip : s1.dripReady e = true) (hgood : s1.nfillBad e (s1.slotOf e n).instr = none) :
    ∃ t, exec (.nfill e n) s = .next t ∧
      (t.slotOf e n).out =
        [{ eng := e, q := 8 + n, tok := { value := BitVec.ofNat 16 (fld (s1.slotOf e n).instr 12 16), poison := false } }] ∧
      t.eng e = (s1.eng e).putElems (fld (s1.slotOf e n).instr 54 5) (s1.chainOf (fld (s1.slotOf e n).instr 49 5)).esz 0
        (noiseRows s1 e (s1.slotOf e n)) := by
  have hmoves : ¬(s1.slotOf e n).st = .draining := by simp [hrun]
  refine ⟨s1.nfillRun e n, ?exec, ?token, ?rows⟩
  case exec =>
    show execNfill e n s = _
    simp only [execNfill, slotStep_of_ready hready hent, hdrip, if_true]
  case token => simp only [State.nfillRun, if_neg hmoves, hgood, setSlotOf_slotOf]
  case rows =>
    simp only [State.nfillRun, if_neg hmoves, hgood]
    rw [eng_of_within (State.setSlotOf_within _ _ _ _) rfl, eng_of_within (State.dripCount_within _ _ _) rfl, setEng_eng]
    rfl

end Slot

/-! ## SQZ (R260, R261) -/

/-- A conversion whose descriptors pass the checks has only read (R260, R276). -/
theorem sqzConvert_reads {s t : State} {e n : Nat} {p : Target × Desc × Target} (h : s.sqzConvert e n = (t, some p)) :
    Within [.mem, .ue, .hdrs, .flows, .hbmcs, .galleries] s t := by
  unfold State.sqzConvert at h
  dsimp only at h
  split at h
  · cases h
  next hdesc =>
  have hread := Within.of_pair hdesc (State.readDesc_within _ _ _ _)
  split at h
  · cases h
  split at h
  · cases h
  next harg =>
  have hslot := hread.trans (.of_pair harg (State.argSlot_within _ _ _))
  split at h <;> cases h
  exact hslot

/-- A matrix copy whose places resolve has only read (R260, R276). -/
theorem sqzTrans_reads {s t : State} {e n : Nat} {p : Target × Target} (h : s.sqzTrans e n = (t, some p)) :
    Within [.mem, .ue, .hdrs, .flows, .hbmcs, .galleries] s t := by
  unfold State.sqzTrans at h
  extract_lets x w len okPlace at h
  split at h
  next =>
    split at h
    · cases h
    split at h
    · cases h
    next hsrc =>
    have hread := Within.of_pair hsrc (State.resolve_within _ _ _ _ _)
    split at h
    · cases h
    next hdst =>
    cases h
    exact hread.trans (.of_pair hdst (State.resolve_within _ _ _ _ _))
  · cases h

/-- A copy that meets no failure is followed by what its mode asks for. -/
theorem sqzRun_copied {s s3 : State} {e n per : Nat} {m : SqzMap} {a b : Target} (h : s.sqzGo e m a b m.total 0 = (s3, none))
    (fin : State → State) : s.sqzRun e n per 0 m a b fin = fin s3.drawn := by
  simp only [State.sqzRun, Nat.sub_zero, h]

theorem sqzDone_of_left {s : State} {e n : Nat} (h : (s.slotOf e n).pc + 1 < (s.slotOf e n).ninstr) :
    s.sqzDone e n = s.setSlotOf e n { s.slotOf e n with pc := (s.slotOf e n).pc + 1, pos := none, ends := none } := by
  rw [State.sqzDone]
  exact slotDone_of_left (by rw [setSlotOf_slotOf]; exact h)

/-- A Squeeze instruction that has ended with others left: the slot goes on at the next one and memory stays (R241, R260). -/
theorem sqzDone_goesOn {s : State} {e n : Nat} {x : Slot} (hx : ∃ p, s.slotOf e n = { x with ends := p }) (hleft : x.pc + 1 < x.ninstr) :
    (s.sqzDone e n).mem = s.mem ∧ ((s.sqzDone e n).slotOf e n).pos = none ∧ ((s.sqzDone e n).slotOf e n).pc = x.pc + 1 := by
  obtain ⟨p, hx⟩ := hx
  rw [sqzDone_of_left (by rw [hx]; exact hleft), setSlotOf_slotOf, hx]
  exact ⟨rfl, rfl, rfl⟩

/-- The copy of a matrix into its new order: element (i, j) of ROWS by COLS elements becomes element (j, i) (R260). -/
def matrixMap (w : Nat) : SqzMap :=
  let rows := fld w 40 17 + 1
  let cols := fld w 23 17 + 1
  let es := if bit w 22 then 4 else 8
  { es := es, total := rows * cols, src := fun k => es * k, dst := fun k => es * (k % cols * rows + k / cols) }

section Squeeze

variable {e : Fin 64} {n : Fin 4} {s s1 s2 s3 s4 : State} {a b : Target}
variable (hready : s.slotReady e n 0xA = true) (hent : s.needEnt e n = some s1) (hrun : (s1.slotOf e n).st = .running)
include hready hent hrun

theorem sqz_waits (hbusy : s1.sqzBusy e n = true) : exec (.sqz e n) s = .next s1 := by
  show execSqz e n s = _
  simp [execSqz, slotStep_of_ready hready hent, hrun, hbusy]

variable (hpos : (s1.slotOf e n).pos = none) (hfree : s1.sqzBusy e n = false)
include hpos hfree

/-- A conversion between layouts copies the bodies and writes the output's descriptor (R260). -/
theorem sqz_converts {d : Desc} (hmode : fld (s1.slotOf e n).instr 57 2 ≠ 2) (hstart : s1.sqzConvert e n = (s2, some (a, d, b)))
    (hcopy : (s2.setXfer e ((s1.slotOf e n).ent.getD 0)
      { s2.xfer e ((s1.slotOf e n).ent.getD 0) with src := some (a, d), out := some (b, d) }).sqzGo e (sqzBodies d) a b (sqzBodies d).total 0 =
        (s3, none))
    (hdesc : s3.drawn.descAt e b (sqzDesc d (s3.cmdSeq e)) = (s4, none)) : exec (.sqz e n) s = .next (s4.sqzDone e n) := by
  have hseq : s3.drawn.cmdSeq e = s3.cmdSeq e := rfl
  show execSqz e n s = _
  simp [execSqz, slotStep_of_ready hready hent, hrun, hfree, hpos, hmode, hstart, State.sqzBody, sqzRun_copied hcopy, hseq, hdesc]

/-- A matrix is copied in its new order (R260). -/
theorem sqz_transposes (hmode : fld (s1.slotOf e n).instr 57 2 = 2) (hstart : s1.sqzTrans e n = (s2, some (a, b)))
    (hcopy : (s2.setSlotOf e n { s2.slotOf e n with ends := some (a, b) }).sqzGo e (matrixMap (s1.slotOf e n).instr) a b
      (matrixMap (s1.slotOf e n).instr).total 0 = (s3, none)) : exec (.sqz e n) s = .next (s3.drawn.sqzDone e n) := by
  have hslot : s2.slotOf e n = s1.slotOf e n := slotOf_of_within (sqzTrans_reads hstart) rfl e n
  have hmatrix : (s2.setSlotOf e n { s2.slotOf e n with ends := some (a, b) }).sqzMatrix e n 0 a b = s3.drawn.sqzDone e n := by
    unfold State.sqzMatrix
    rw [setSlotOf_slotOf, hslot]
    rw [hslot] at hcopy
    exact sqzRun_copied hcopy _
  show execSqz e n s = _
  simp [execSqz, slotStep_of_ready hready hent, hrun, hfree, hpos, hmode, hstart, hmatrix]

end Squeeze

/-! ## Fault service (R262, R263) -/

section Service

variable {e : Fin 64} {m : Fin 4} {s : State}

theorem entResume_takes (htakes : s.takes (.stream e) = true) (hfault : (s.xfer e m).fault = true) :
    exec (.entResume e m) s = .next (s.entResume e m) := by
  show execEntResume e m s = _
  rw [execEntResume, gate_takes htakes, State.entCtl, if_neg (by rw [hfault]; decide), if_pos (by decide)]

theorem entAbort_takes (htakes : s.takes (.stream e) = true) (hfault : (s.xfer e m).fault = true) :
    exec (.entAbort e m) s = .next (s.entAbort e m) := by
  show execEntAbort e m s = _
  rw [execEntAbort, gate_takes htakes, State.entCtl, if_neg (by rw [hfault]; decide), if_neg (by decide), if_pos (by decide)]

end Service

/-- A slot that fails drains and gives its entry back (R243, R252). -/
theorem slotFail_drains (s : State) (e n sop : Nat) (c : Code) (d1 : Nat) :
    ((s.slotFail e n sop c d1).slotOf e n).st = .draining ∧ ((s.slotFail e n sop c d1).slotOf e n).ent = none := by
  unfold State.slotFail State.dropEnt
  dsimp only
  split
  · simp
  next hnone => exact ⟨by simp, hnone⟩

/-- The instruction with number seq ends with TRANSLATION_FAULT, and its transfer entry with it (R132, R263). -/
structure Aborted (t : State) (e m seq : Nat) : Prop where
  last : (t.xfer e m).last = true
  clear : (t.xfer e m).fault = false
  fault : ∀ u, u ∈ (t.eng e).window → u.seq = seq → u.fault = some .translationFault ∧ u.poison = true

theorem settle_aborted {s : State} {e m seq : Nat} (hclear : (s.xfer e m).fault = false) (hseq : (s.xfer e m).seq = seq) :
    Aborted (s.settle e m (.bad .translationFault none)) e m seq := by
  have hwin : ∀ (t : State) (seq : Nat) (c : Code) (tile : Option Nat), (t.winFault e seq c tile).xfer e m = t.xfer e m := fun _ _ _ _ => rfl
  subst hseq
  refine ⟨?last, ?clear, fun u hu hseq => ?fault⟩
  case last => rw [State.settle, hwin, setXfer_xfer]
  case clear => rw [State.settle, hwin, setXfer_xfer]; exact hclear
  case fault =>
    rw [State.settle, State.winFault, State.modWin, setEng_eng] at hu
    obtain ⟨v, -, rfl⟩ := List.mem_map.1 hu
    by_cases hv : v.seq = (s.xfer e m).seq
    · simp [hv]
    · simp [hv] at hseq

theorem kswEnd_aborted {s : State} {e m seq : Nat} (hclear : (s.xfer e m).fault = false) (hseq : (s.xfer e m).seq = seq) :
    Aborted (s.kswEnd e m (.bad .translationFault none)) e m seq := by
  rw [← xfer_of_within (State.lanePasses_within s e (s.kswMopDone e m)) rfl e m] at hclear hseq
  exact settle_aborted hclear hseq

theorem rescEnd_aborted {s : State} {e m seq : Nat} (hclear : (s.xfer e m).fault = false) (hseq : (s.xfer e m).seq = seq) :
    Aborted (s.rescEnd e m (.bad .translationFault none)) e m seq := by
  have hxfer : ∀ k, (s.lanePasses e k).xfer e m = s.xfer e m := fun k => xfer_of_within (State.lanePasses_within s e k) rfl e m
  exact settle_aborted (by rw [hxfer]; exact hclear) (by rw [hxfer]; exact hseq)

/-- An abort of an instruction's transfer ends the instruction, whichever it is (R132, R263). -/
theorem entAbort_aborted {s : State} {e m : Nat} (hkind : (s.xfer e m).kind ≠ .slot) : Aborted (s.entAbort e m) e m (s.xfer e m).seq := by
  unfold State.entAbort
  extract_lets v s0 sop x i s1 f
  rw [if_neg hkind]
  have hx : s1.xfer e m = { v with fault := false } := by
    unfold s1
    split
    · exact setXfer_xfer s e m _
    · exact setXfer_xfer s e m _
  have hclear : (s1.xfer e m).fault = false := by rw [hx]
  have hseq : (s1.xfer e m).seq = (s.xfer e m).seq := by rw [hx]
  split
  · exact kswEnd_aborted hclear hseq
  split
  · exact rescEnd_aborted hclear hseq
  · exact settle_aborted hclear hseq

/-- A halted slot that is resumed executes again (R263). -/
theorem entResume_slot {s : State} {e m : Nat} (hkind : (s.xfer e m).kind = .slot) :
    ((s.entResume e m).xfer e m).fault = false ∧ ((s.entResume e m).slotOf e (s.xfer e m).slot).st = .running := by
  rw [State.entResume, if_pos hkind, setSlotOf_xfer, setXfer_xfer, setSlotOf_slotOf]
  exact ⟨rfl, rfl⟩

/-- A halted TLD that is resumed goes on from its recorded element (R263). -/
theorem entResume_tld {s u : State} {e m : Nat} (hu : u = s.setXfer e m { s.xfer e m with fault := false })
    (hkind : (s.xfer e m).kind ≠ .slot) (hopc : (s.holder e m).i.opc = 0x09) :
    s.entResume e m = u.tldRun e m ((s.xfer e m).pos.elt (u.tldPer e m)) := by
  have hholder : u.holder e m = s.holder e m := by
    subst hu
    simp only [State.holder, setXfer_xfer]
    rfl
  rw [← hholder] at hopc
  subst hu
  simp only [State.entResume, if_neg hkind, hopc]

/-- An abort of a slot's entry, other than of SQZ, drains the slot (R263). -/
theorem entAbort_slot {s : State} {e m : Nat} (hkind : (s.xfer e m).kind = .slot) (hsop : sopOf (s.slotOf e (s.xfer e m).slot).instr ≠ 0xA) :
    ((s.entAbort e m).slotOf e (s.xfer e m).slot).st = .draining ∧ ((s.entAbort e m).slotOf e (s.xfer e m).slot).ent = none := by
  unfold State.entAbort
  dsimp only
  rw [if_pos hkind, setXfer_slotOf, if_neg hsop]
  exact slotFail_drains _ _ _ _ _ _

/-- Settles O20: a fill is delivered by one write of its tile, a Squeeze copy frames its slot, and a halted entry goes on or ends by the case
of its holder. -/
theorem fillsAndSqueezes : Obligations.FillsAndSqueezes := by
  unfold Obligations.FillsAndSqueezes
  refine ⟨fun e n s s1 s2 s3 => ⟨?kfill, ?deliver, ?token, ?nfill⟩, fun e n m s s1 s2 s3 s4 a b => ⟨?sqz, ?service⟩⟩
  case kfill =>
    intro l h hready hent hrun hkf hdrip harg hok hhdr
    obtain ⟨total, hexec⟩ := kfill_takes hready hent hrun hkf hdrip harg hok hhdr
    exact ⟨_, _, hexec, congrArg Slot.kf (setKf_slotOf _ _ _ _), rfl, rfl, rfl, rfl⟩
  case deliver =>
    intro k y tile c plan l hkf hlive hdue htile
    have hfill : FillDue s e n k := ⟨hkf, hlive, hdue, htile⟩
    refine ⟨fun v d hasm hentry hread => ?_, fun a r hasm hgood => ?_, fun a r cd hasm hbad hgo => ?_⟩
    · obtain ⟨t, hexec, hop, hfull, htf⟩ := hfill.delivers_read hasm hentry hread
      exact ⟨t, _, hexec, hop, rfl, rfl, hfull, by
        rw [eng_of_within (.of_pair hread (State.fillRead_within _ _ _ _ _ _ _)) rfl]; exact htf⟩
    · obtain ⟨hop, hfull, htf⟩ := fillEnd_delivered (e := e) (n := n) (s := s) hasm hgood tile
      exact ⟨_, _, hfill.delivers_assembled hasm, hop, rfl, rfl, rfl, hfull, htf⟩
    · obtain ⟨hop, hempty⟩ := fillEnd_unreadable (e := e) (n := n) (s := s) hasm hbad hgo tile
      exact ⟨_, _, hfill.delivers_assembled hasm, hop, rfl, rfl, hempty⟩
  case token =>
    intro k tok r hkf hdue hlive hroom
    exact ⟨_, fillTokenEmit_eq hkf hdue hlive hroom, by simp [State.setKf, State.setSlotOf, Engine.push, Engine.queue], _,
      congrArg Slot.kf (setKf_slotOf _ _ _ _), rfl⟩
  case nfill =>
    intro hready hent hrun hdrip hgood c
    obtain ⟨t, hexec, htoken, heng⟩ := nfill_writes hready hent hrun hdrip hgood
    exact ⟨t, hexec, htoken, congrArg Engine.tf heng⟩
  case sqz =>
    intro hready hent hrun hpos hleft
    refine ⟨sqz_waits hready hent hrun, fun d hfree hmode hstart hcopy hdesc => ?_, fun hfree hmode hstart hcopy => ?_⟩
    · have hslot : s4.slotOf e n = s1.slotOf e n := by
        rw [slotOf_of_within (.of_pair hdesc (State.descAt_within _ _ _ _)) rfl, slotOf_of_within (State.drawn_within s3) rfl,
          slotOf_of_within (.of_pair hcopy (State.sqzGo_within _ _ _ _ _ _ _)) rfl, setXfer_slotOf,
          slotOf_of_within (sqzConvert_reads hstart) rfl]
      exact ⟨_, sqz_converts hready hent hrun hpos hfree hmode hstart hcopy hdesc, sqzDone_goesOn ⟨_, hslot⟩ hleft⟩
    · have hslot : s3.drawn.slotOf e n = { s1.slotOf e n with ends := some (a, b) } := by
        rw [slotOf_of_within (State.drawn_within s3) rfl, slotOf_of_within (.of_pair hcopy (State.sqzGo_within _ _ _ _ _ _ _)) rfl,
          setSlotOf_slotOf, slotOf_of_within (sqzTrans_reads hstart) rfl]
      exact ⟨_, sqz_transposes hready hent hrun hpos hfree hmode hstart hcopy, sqzDone_goesOn ⟨_, hslot⟩ hleft⟩
  case service =>
    intro htakes hfault
    rw [entResume_takes htakes hfault, entAbort_takes htakes hfault]
    refine ⟨fun hkind => ⟨_, rfl, entResume_slot hkind⟩, fun u hu hkind hopc => congrArg _ (entResume_tld hu hkind hopc),
      fun hkind hsop => ⟨_, rfl, entAbort_slot hkind hsop⟩, fun hkind => ?_⟩
    obtain ⟨hlast, hclear, hwin⟩ := entAbort_aborted hkind
    exact ⟨_, rfl, hlast, hclear, hwin⟩

end Sys2Proof.FillsAndSqueeze

/-! Stream slots: their settings and end, MOVE with its gates, its data and its emissions, and EMIT (R241-R252, R254, R401; O19). -/

namespace Sys2Proof.SlotSteps

open Sys2Proof Sys2Proof.Machine Sys2Proof.Laws Sys2Proof.EngineInstr Sys2Proof.FillsAndSqueeze
open Sys2Proof.TileResults (mark_tf)

/-! ## Slots, their entries and their end (R241, R243) -/

@[simp] theorem setEng_slotOf (s : State) (i e n : Nat) (x : Engine) : (s.setEng i x).slotOf e n = s.slotOf e n := rfl

@[simp] theorem setSlotOf_eng (s : State) (e n i : Nat) (x : Slot) : (s.setSlotOf e n x).eng i = s.eng i := rfl

section Slot

variable {e n : Nat} {s s1 : State}

/-- A slot that takes an entry changes in nothing else (R243). -/
theorem needEnt_slotOf (h : s.needEnt e n = some s1) : ∃ m, s1.slotOf e n = { s.slotOf e n with ent := m } := by
  unfold State.needEnt at h
  dsimp only at h
  split at h
  · cases h
    exact ⟨_, rfl⟩
  split at h
  · cases h
    exact ⟨_, setSlotOf_slotOf _ _ _ _⟩
  · cases h

/-- A slot that takes an entry where one is free keeps all but its entry (R243). -/
theorem needEnt_getD_slotOf (s : State) (e n : Nat) : ∃ m, ((s.needEnt e n).getD s).slotOf e n = { s.slotOf e n with ent := m } := by
  cases h : s.needEnt e n with
  | none => exact ⟨_, rfl⟩
  | some s1 => exact needEnt_slotOf h

theorem needEnt_of_ready {sop : Nat} (h : s.slotReady e n sop = true) : ∃ s1, s.needEnt e n = some s1 :=
  Option.isSome_iff_exists.1 (Bool.and_eq_true_iff.1 h).2

theorem out_of_ready {sop : Nat} (h : s.slotReady e n sop = true) : (s.slotOf e n).out = [] := by
  simp only [State.slotReady, Bool.and_eq_true] at h
  obtain ⟨⟨⟨-, hout⟩, -⟩, -⟩ := h
  exact List.isEmpty_iff.1 hout

theorem dropEnt_slotOf (s : State) (e n : Nat) : (s.dropEnt e n).slotOf e n = { s.slotOf e n with ent := none } := by
  unfold State.dropEnt
  dsimp only
  split
  · exact setSlotOf_slotOf _ _ _ _
  next hnone => rw [← hnone]

/-- A slot that owes tokens does not end (R241). -/
theorem slotDone_of_owing (h : (s.slotOf e n).out ≠ []) : s.slotDone e n = s :=
  if_pos (.inr (.inl (by simpa using h)))

/-- A slot owes after its end what it owed before (R241). -/
theorem slotDone_out (s : State) (e n : Nat) : ((s.slotDone e n).slotOf e n).out = (s.slotOf e n).out := by
  unfold State.slotDone
  dsimp only
  split
  · rfl
  next hend =>
    simp only [not_or, Bool.not_eq_true, Bool.not_eq_false'] at hend
    obtain ⟨-, hout, -⟩ := hend
    rw [setSlotOf_slotOf, List.isEmpty_iff.1 hout]

/-- A slot that has nothing left ends without an entry: ARMED again with START = 0 and REPEAT, else DONE (R241, R243). -/
theorem slotDone_ends (hpc : ¬(s.slotOf e n).pc < (s.slotOf e n).ninstr) (hout : (s.slotOf e n).out = []) (hkf : (s.slotOf e n).kf = none)
    (hpos : (s.slotOf e n).pos = none) (hsent : (s.dev.transfers.all fun t => t.eng != e || t.slot != n) = true) :
    ((s.slotDone e n).slotOf e n).ent = none ∧ ((s.slotDone e n).slotOf e n).st =
      if fld ((s.slotOf e n).word 0) 46 2 = 0 ∧ bit ((s.slotOf e n).word 0) 45 = true then .armed else .done := by
  have hnone : (s.dev.transfers.any fun t => t.eng == e && t.slot == n) = false := by
    simpa [List.any_eq_false, List.all_eq_true, imp_iff_not_or] using hsent
  simp [State.slotDone, hpc, hout, hkf, hpos, hnone]

end Slot

/-! ## Settings (R244-R247, R254) -/

/-- Instruction i of operation sop sets what f writes, which is settings alone. -/
structure IsSetting (e n : Nat) (i : Instr) (sop : Nat) (f : Slot → Nat → Slot) : Prop where
  exec_eq : ∀ s, exec i s = .next (s.slotSet e n sop f)
  keeps : ∀ x w, ∃ src dst lvls clamp xform, f x w = { x with src := src, dst := dst, lvls := lvls, clamp := clamp, xform := xform }

section Setting

variable {e : Fin 64} {n : Fin 4}

theorem src_isSetting : IsSetting e n (.src e n) 1 fun x w => { x with src := placeOf w false } :=
  ⟨fun _ => rfl, fun _ _ => ⟨_, _, _, _, _, rfl⟩⟩

theorem dst_isSetting : IsSetting e n (.dst e n) 2 fun x w => { x with dst := placeOf w true } :=
  ⟨fun _ => rfl, fun _ _ => ⟨_, _, _, _, _, rfl⟩⟩

theorem loop_isSetting : IsSetting e n (.loop e n) 3 fun x w =>
    { x with lvls := tset x.lvls (fld w 57 2) { count := fld w 40 17 + 1, ss := signed 20 (fld w 20 20), ds := signed 20 (fld w 0 20) } } :=
  ⟨fun _ => rfl, fun _ _ => ⟨_, _, _, _, _, rfl⟩⟩

theorem clamp_isSetting : IsSetting e n (.clamp e n) 4 fun x w =>
    { x with clamp := if fld w 0 56 = 0 then none else some (fld w 28 28, fld w 0 28) } :=
  ⟨fun _ => rfl, fun _ _ => ⟨_, _, _, _, _, rfl⟩⟩

theorem xform_isSetting : IsSetting e n (.xform e n) 5 fun x w => { x with xform := some (fld w 41 18, fld w 36 5, bit w 35) } :=
  ⟨fun _ => rfl, fun _ _ => ⟨_, _, _, _, _, rfl⟩⟩

variable {s : State} {i : Instr} {sop : Nat} {f : Slot → Nat → Slot} (h : IsSetting e n i sop f) (hready : s.slotReady e n sop = true)
include h hready

/-- A setting takes effect and PC moves on, before the slot ends where it was its last instruction. -/
theorem IsSetting.sets : ∃ (t : State) (m : Option Nat), exec i s = .next (t.slotDone e n) ∧ t.dev = s.dev ∧
    t.slotOf e n = { f { s.slotOf e n with ent := m } (s.slotOf e n).instr with pc := (s.slotOf e n).pc + 1 } := by
  obtain ⟨s1, hent⟩ := needEnt_of_ready hready
  obtain ⟨m, hslot⟩ := needEnt_slotOf hent
  refine ⟨s1.setSlotOf e n { f (s1.slotOf e n) (s1.slotOf e n).instr with pc := (s1.slotOf e n).pc + 1 }, m, ?_,
    (State.needEnt_within hent).eq_dev rfl, ?_⟩
  · rw [h.exec_eq, State.slotSet, slotStep_of_ready hready hent]
  · rw [setSlotOf_slotOf, hslot]
    rfl

/-- A slot with instructions left goes on after a setting (R241). -/
theorem IsSetting.goesOn (hleft : (s.slotOf e n).pc + 1 < (s.slotOf e n).ninstr) : ∃ t m, exec i s = .next t ∧
    t.slotOf e n = { f { s.slotOf e n with ent := m } (s.slotOf e n).instr with pc := (s.slotOf e n).pc + 1 } := by
  obtain ⟨t, m, hexec, -, hslot⟩ := h.sets hready
  obtain ⟨_, _, _, _, _, hf⟩ := h.keeps { s.slotOf e n with ent := m } (s.slotOf e n).instr
  exact ⟨t, m, by rw [hexec, slotDone_of_left (by rw [hslot, hf]; exact hleft)], hslot⟩

/-- A setting that is the slot's last instruction ends it (R241). -/
theorem IsSetting.ends (hlast : (s.slotOf e n).pc + 1 = (s.slotOf e n).ninstr) (hkf : (s.slotOf e n).kf = none)
    (hpos : (s.slotOf e n).pos = none) (hsent : (s.dev.transfers.all fun t => t.eng != e.val || t.slot != n.val) = true) :
    ∃ t, exec i s = .next t ∧ (t.slotOf e n).ent = none ∧
      (t.slotOf e n).st = if fld ((s.slotOf e n).word 0) 46 2 = 0 ∧ bit ((s.slotOf e n).word 0) 45 = true then .armed else .done := by
  obtain ⟨t, m, hexec, hdev, hslot⟩ := h.sets hready
  obtain ⟨_, _, _, _, _, hf⟩ := h.keeps { s.slotOf e n with ent := m } (s.slotOf e n).instr
  rw [hf] at hslot
  have hword : (t.slotOf e n).word 0 = (s.slotOf e n).word 0 := by rw [hslot]; rfl
  have hend : ¬(t.slotOf e n).pc < (t.slotOf e n).ninstr := by
    rw [hslot]
    exact fun hlt => absurd hlast (Nat.ne_of_lt hlt)
  refine ⟨_, hexec, hword ▸ slotDone_ends hend ?out ?kf ?pos (hdev ▸ hsent)⟩
  case out => rw [hslot]; exact out_of_ready hready
  case kf => rw [hslot]; exact hkf
  case pos => rw [hslot]; exact hpos

end Setting

/-! ## Tokens of Q14 (R242, R252) -/

section Gate

variable {e : Fin 64} {n : Fin 4} {s : State} {tok : Token}

theorem pop_queue (x : Engine) (q : Nat) : (x.pop q).queue q = (x.queue q).tail := tget_tset_self _ _ _ _

theorem push_queue (x : Engine) (q : Nat) (t : Token) : (x.push q t).queue q = x.queue q ++ [t] := tget_tset_self _ _ _ _

/-- An ARMED slot removes the token at whose turn it is, and runs or drains (R241, R242). -/
theorem slotStart_starts (harmed : (s.slotOf e n).st = .armed) (hpc : (s.slotOf e n).pc < (s.slotOf e n).ninstr)
    (hstarts : s.strmStarts e = true) (htok : s.q14For e n = some tok) :
    ∃ t, exec (.slotStart e n) s = .next t ∧ (t.slotOf e n).st = (if tok.poison then .draining else .running) ∧
      (t.eng e).queue 14 = ((s.eng e).queue 14).tail := by
  let u := (s.setEng e ((s.eng e).pop 14)).setSlotOf e n { s.slotOf e n with st := if tok.poison then .draining else .running }
  have hexec : exec (.slotStart e n) s = .next (((u.needEnt e n).getD u).slotDone e n) := by
    show execSlotStart e n s = _
    simp [execSlotStart, harmed, hstarts, htok, u]
  obtain ⟨m, hslot⟩ := needEnt_getD_slotOf u e n
  have hu : u.slotOf e n = { s.slotOf e n with st := if tok.poison then .draining else .running } := setSlotOf_slotOf _ _ _ _
  rw [hu] at hslot
  have hwithin : Within [.streams] u ((u.needEnt e n).getD u) := Within.getD (fun _ h => State.needEnt_within h) (Within.refl _ _)
  refine ⟨_, hexec, ?_, ?_⟩
  · rw [slotDone_of_left (by rw [hslot]; exact hpc), hslot]
  · rw [eng_of_within (State.slotDone_within _ _ _) rfl, eng_of_within hwithin rfl, setSlotOf_eng, setEng_eng, pop_queue]

/-- A slot at its gate removes the token and has passed it (R242, R248, R252). -/
theorem slotGateResume_passes (hwaits : (s.slotOf e n).waits = true) (harmed : (s.slotOf e n).st ≠ .armed)
    (hstarts : s.strmStarts e = true) (htok : s.q14For e n = some tok) :
    ∃ t, exec (.slotGateResume e n) s = .next t ∧ (t.eng e).queue 14 = ((s.eng e).queue 14).tail ∧ (t.slotOf e n).passed = true ∧
      (t.slotOf e n).st = if tok.poison = true ∨ (s.slotOf e n).st = .draining then .draining else .running := by
  refine ⟨(s.setEng e ((s.eng e).pop 14)).setSlotOf e n { s.slotOf e n with
    st := if tok.poison || (s.slotOf e n).st == .draining then .draining else .running, passed := true }, ?_, ?_, ?_, ?_⟩
  · show execSlotGateResume e n s = _
    simp [execSlotGateResume, hwaits, harmed, hstarts, htok]
  · rw [setSlotOf_eng, setEng_eng, pop_queue]
  · rw [setSlotOf_slotOf]
  · rw [setSlotOf_slotOf]
    simp

end Gate

/-! ## The nest of a MOVE (R248) -/

theorem gateAt_of_ungated {x : Slot} (h : mvGate x.instr = 0) (t : Nat) : x.gateAt t = false := by
  simp [Slot.gateAt, h]

theorem emitsAfter_of_none {x : Slot} (h : x.emits = []) (t : Nat) : x.emitsAfter t = [] := by
  simp [Slot.emitsAfter, h]

/-- Without emissions or gates one stretch reaches the end of the nest. -/
theorem stretch_of_plain {x : Slot} (hemits : x.emits = []) (hgate : mvGate x.instr = 0) {k t : Nat} (h : t + k = x.total) :
    x.stretch k t = x.total := by
  induction k generalizing t with
  | zero => exact h
  | succ k ih =>
    rw [Slot.stretch, emitsAfter_of_none hemits, gateAt_of_ungated hgate]
    split
    · rfl
    · simpa using ih (by omega)

theorem iter_start (x : Slot) : x.iter {} = 0 := by simp [Slot.iter]

/-- A MOVE in progress: the slot as it stands between the iterations of its nest. -/
def underway (x : Slot) (ends : Option (Target × Target)) (p : Pos) : Slot := { x with ends := ends, pos := some p }

theorem underway_stretch (x : Slot) (ends : Option (Target × Target)) (p : Pos) (k t : Nat) :
    (underway x ends p).stretch k t = x.stretch k t := by
  induction k generalizing t with
  | zero => rfl
  | succ k ih =>
    rw [Slot.stretch, Slot.stretch, ih]
    rfl

theorem length_srcIdx (x : Slot) (w t o : Nat) : (x.srcIdx w t o).length = mvRun w - o := by
  simp [Slot.srcIdx]

/-! ## Bytes of a stretch (R248, R255) -/

/-- The bytes of an element lie in the span of its elements. -/
theorem elt_in_span {xs : List Nat} {r : Nat} (h : r ∈ xs) (es : Nat) :
    (spanOf es xs).1 ≤ r * es ∧ r * es + es ≤ (spanOf es xs).1 + (spanOf es xs).2 := by
  have hlo : xs.foldl min (xs.headD 0) ≤ r := by
    rw [List.foldl_min]
    exact (Nat.min_le_right _ _).trans (List.min?_getD_le_of_mem h)
  have hhi : r ≤ xs.foldl max 0 := by
    rw [List.foldl_max]
    exact (List.le_max?_getD_of_mem h).trans (Nat.le_max_right _ _)
  refine ⟨Nat.mul_le_mul_right _ hlo, ?_⟩
  show _ ≤ _ * es + _ * es
  rw [← Nat.add_mul, ← Nat.succ_mul]
  exact Nat.mul_le_mul_right _ (by omega)

/-- A part of a run of bytes. -/
theorem memRun_part (m : List Host.Cell) (d : Byte) (a : Nat) {off k n : Nat} (h : off + k ≤ n) :
    ((memRun m d a n).drop off).take k = memRun m d (a + off) k := by
  apply List.ext_getElem
  · simp; omega
  · intro i h1 h2
    simp [memRun, Nat.add_assoc]

/-- The elements of runs whose spans have been read whole. -/
theorem pickElts_spans (m : List Host.Cell) (a es : Nat) (xss : List (List Nat)) :
    (pickElts es xss (xss.flatMap fun xs => memRun m 0 (a + (spanOf es xs).1) (spanOf es xs).2)).flatten =
      xss.flatMap fun xs => xs.flatMap fun r => memRun m 0 (a + r * es) es := by
  induction xss with
  | nil => rfl
  | cons xs xss ih =>
    have hlen : (memRun m 0 (a + (spanOf es xs).1) (spanOf es xs).2).length = (spanOf es xs).2 := memRun_length _ _ _ _
    have hall : (xs.takeWhile fun i => decide (i * es + es ≤ (spanOf es xs).1 + (spanOf es xs).2)) = xs :=
      List.takeWhile_eq_self_iff.2 fun r hr => decide_eq_true (elt_in_span hr es).2
    have helt : ∀ r ∈ xs, ((memRun m 0 (a + (spanOf es xs).1) (spanOf es xs).2).drop (r * es - (spanOf es xs).1)).take es =
        memRun m 0 (a + r * es) es := fun r hr => by
      obtain ⟨hlo, hhi⟩ := elt_in_span hr es
      rw [memRun_part _ _ _ (by omega), Nat.add_assoc, Nat.add_sub_cancel' hlo]
    rw [List.flatMap_cons, List.flatMap_cons, pickElts]
    simp only [List.take_left' hlen, List.drop_left' hlen, hlen, hall, Nat.lt_irrefl, if_false, List.map_congr_left helt,
      List.flatten_append, ih, ← List.flatMap_def]

/-- Runs of which every byte is there are not cut. -/
theorem cutRuns_whole {ps : List (Nat × Bytes)} (h : ∀ p ∈ ps, p.2 ≠ []) :
    cutRuns (ps.map fun p => (p.1, p.2.length)) (ps.flatMap Prod.snd).length = ps.map fun p => (p.1, p.2.length) := by
  induction ps with
  | nil => rfl
  | cons p ps ih =>
    have hp : p.2 ≠ [] := h p (by simp)
    have hcut := ih fun q hq => h q (by simp [hq])
    simp [cutRuns, hp, -List.length_flatMap, hcut]

/-! ## Reads and writes of operand tiles (R249, R250) -/

section Tiles

variable {s : State} {e : Nat}

theorem readReqs_tf (s : State) (e i hint : Nat) (runs : List (Nat × Nat)) :
    s.readReqs e (.tf i) hint (requestsOf (.tf i) runs) = (s, runs.flatMap fun r => memRun (s.eng e).tf 0 (i + r.1) r.2, none) := by
  induction runs with
  | nil => rfl
  | cons r runs ih =>
    simp only [requestsOf, List.map_cons, State.readReqs, State.reqEvents, State.tgtRead, List.flatMap_cons] at ih ⊢
    rw [ih]

/-- Byte runs put into a tile file, each at its place from byte j on. -/
def putRuns (tf : List Host.Cell) (j : Nat) (ps : List (Nat × Bytes)) : List Host.Cell :=
  ps.foldl (fun m p => memPut m 0 (j + p.1) p.2) tf

/-- From s to t byte runs were put into the tile file of engine e, and nothing outside the engines changed. -/
structure Put (s t : State) (e j : Nat) (ps : List (Nat × Bytes)) : Prop where
  tf : (t.eng e).tf = putRuns (s.eng e).tf j ps
  rest : Within [.engines] s t

theorem tgtWrite_tf {bs : Bytes} (h : bs ≠ []) (j hint off unit : Nat) :
    ∃ t, s.tgtWrite e (.tf j) hint off unit bs = (t, none) ∧ Put s t e j [(off, bs)] := by
  refine ⟨_, if_neg (by simpa using h), ?tf, State.setEng_within _ _ _⟩
  rw [setEng_eng, mark_tf]
  rfl

theorem writeReqs_tf (j hint es : Nat) {ps : List (Nat × Bytes)} (h : ∀ p ∈ ps, p.2 ≠ []) :
    ∃ t k, s.writeReqs e (.tf j) hint es (requestsOf (.tf j) (ps.map fun p => (p.1, p.2.length))) (ps.flatMap Prod.snd) = (t, k, none) ∧
      Put s t e j ps := by
  induction ps generalizing s with
  | nil => exact ⟨s, 0, rfl, rfl, Within.refl _ _⟩
  | cons p ps ih =>
    obtain ⟨u, hwrite, hput⟩ := tgtWrite_tf (s := s) (e := e) (h p (by simp)) j hint p.1 es
    obtain ⟨t, k, hrest, htf, hwithin⟩ := ih (s := u) fun q hq => h q (by simp [hq])
    refine ⟨t, p.2.length / es + k, ?_, by rw [htf, hput.tf]; rfl, hput.rest.trans hwithin⟩
    simp only [requestsOf, List.map_cons, List.flatMap_cons, State.writeReqs, State.reqEvents, List.take_left' rfl, List.drop_left' rfl] at hrest ⊢
    rw [hwrite]
    simp only [hrest]

end Tiles

/-- The runs that the nest of a MOVE between tiles writes: of each iteration, its source elements from byte i of the tile file on (R248). -/
def nestRuns (x : Slot) (tf : List Host.Cell) (i : Nat) : List (Nat × Bytes) :=
  let w := x.instr
  (List.range x.total).map fun k =>
    (x.dstIdx w k * mvEs w, (x.srcIdx w k 0).flatMap fun r => memRun tf 0 (i + r * mvEs w) (mvEs w))

theorem mvEs_pos (w : Nat) : 0 < mvEs w := by
  unfold mvEs
  split <;> decide

theorem length_nestRun (x : Slot) (tf : List Host.Cell) (i k : Nat) :
    ((x.srcIdx x.instr k 0).flatMap fun r => memRun tf 0 (i + r * mvEs x.instr) (mvEs x.instr)).length = mvRun x.instr * mvEs x.instr := by
  simp [List.length_flatMap, length_srcIdx]

theorem nestRuns_sizes (x : Slot) (tf : List Host.Cell) (i : Nat) : (nestRuns x tf i).map (fun p => (p.1, p.2.length)) =
    (List.range x.total).map fun k => (x.dstIdx x.instr k * mvEs x.instr, mvRun x.instr * mvEs x.instr) := by
  simp only [nestRuns, List.map_map, Function.comp_def, length_nestRun]

theorem nestRuns_full {x : Slot} {tf : List Host.Cell} {i : Nat} {p : Nat × Bytes} (hp : p ∈ nestRuns x tf i) : p.2 ≠ [] := by
  obtain ⟨k, -, rfl⟩ := List.mem_map.1 hp
  rw [← List.length_pos_iff, length_nestRun]
  exact Nat.mul_pos (Nat.succ_pos _) (mvEs_pos _)

/-- The bytes of a nest's runs are the elements picked from the spans of its sources. -/
theorem nestRuns_picked (x : Slot) (tf : List Host.Cell) (i : Nat) :
    (pickElts (mvEs x.instr) ((List.range x.total).map fun k => x.srcIdx x.instr k 0) ((List.range x.total).flatMap fun k =>
      memRun tf 0 (i + (spanOf (mvEs x.instr) (x.srcIdx x.instr k 0)).1) (spanOf (mvEs x.instr) (x.srcIdx x.instr k 0)).2)).flatten =
      (nestRuns x tf i).flatMap Prod.snd := by
  have hpicked := pickElts_spans tf i (mvEs x.instr) ((List.range x.total).map fun k => x.srcIdx x.instr k 0)
  simp only [List.flatMap_map] at hpicked
  simp only [nestRuns, List.flatMap_map, hpicked]

/-- The data of a whole nest from tile to tile, with the sides apart (R248). -/
theorem moveData_tiles {s : State} {e n i j : Nat} {x : Slot} (hx : s.slotOf e n = x)
    (hapart : clash (.tf i) (.tf j) (hull ((List.range x.total).map fun k => spanOf (mvEs x.instr) (x.srcIdx x.instr k 0)))
      (hull ((List.range x.total).map fun k => (x.dstIdx x.instr k * mvEs x.instr, mvRun x.instr * mvEs x.instr))) = false) :
    ∃ t k, s.moveData e n (.tf i) (.tf j) 0 0 x.total = (t, k, .done) ∧ Put s t e j (nestRuns x (s.eng e).tf i) := by
  have hfull : ∀ p ∈ nestRuns x (s.eng e).tf i, p.2 ≠ [] := fun _ => nestRuns_full
  obtain ⟨t, k, hwrite, hput⟩ := writeReqs_tf (s := s) (e := e) j (mvHint x.instr) (mvEs x.instr) hfull
  have hcut := cutRuns_whole hfull
  rw [nestRuns_sizes] at hcut hwrite
  refine ⟨t, k, ?_, hput⟩
  rw [State.moveData, hx]
  simp only [Nat.sub_zero, Nat.zero_add, Nat.add_zero, ite_self, List.map_map, Function.comp_def, List.flatMap_map, hapart, readReqs_tf,
    nestRuns_picked, hcut, hwrite, Bool.false_eq_true, if_false]

/-! ## MOVE (R248, R252) -/

section Move

variable {s s1 s2 s4 t : State} {e n k : Nat} {x : Slot} {ends : Option (Target × Target)} {a b : Target} {p : Pos}

/-- What a stretch had read ahead when its data have ended is counted alone: nothing is discarded (R296). -/
theorem readAhead_done_within (s : State) (e n : Nat) (a : Target) (t0 o t1 k : Nat) :
    Within [.hdrs, .freeCtr] s (s.readAhead e n a t0 o t1 k false) := by
  cases a with
  | va v =>
    simp only [State.readAhead, Bool.false_eq_true, if_false, List.take_nil, List.foldl_nil]
    exact Within.after (State.drawn_within _) rfl (Within.after (State.event_within _ _ _ _) rfl
      (Within.after (State.event_within _ _ _ _) rfl (Within.after (State.event_within _ _ _ _) rfl (Within.refl _ _))))
  | tf _ | dpa _ | rwin _ _ _ => exact Within.refl _ _

/-- What the data of a stretch that stays in this device may change. -/
def localParts : List Part := [.mem, .ue, .hdrs, .flows, .hbmcs, .galleries, .helpers, .engines, .freeCtr, .outs]

/-- The data of a stretch that stays in this device reach no slot. -/
theorem moveData_local_within (h : ∀ d w o, b ≠ .rwin d w o) (s : State) (e n : Nat) (a : Target) (t0 o t1 : Nat) :
    Within localParts s (s.moveData e n a b t0 o t1).1 := by
  unfold State.moveData
  extract_lets x w es hint its xss druns sruns
  split
  · split
    next hiters =>
      exact Within.after (State.mergeEvents_within _ _ _ _) rfl (Within.after (State.mergeEvents_within _ _ _ _) rfl
        (.of_pair hiters (State.moveIters_within _ _ _ _ _ _)))
    · exact State.moveIters_within _ _ _ _ _ _
  · split
    next u bs f hreads =>
    have hread := Within.of_pair hreads (State.readReqs_within _ _ _ _ _)
    extract_lets els bs' cut wrote
    have hwrote : Within localParts u wrote.1 := by
      cases b with
      | rwin d w o => exact absurd rfl (h d w o)
      | tf _ | dpa _ | va _ => exact (State.writeReqs_within _ _ _ _ _ _ _).mono (by decide)
    have hall : Within localParts s wrote.1 := (hread.mono (by decide)).trans hwrote
    clear_value wrote
    obtain ⟨v, k, g⟩ := wrote
    cases g with
    | some g => exact hall
    | none => cases f <;> exact hall

/-- Tokens into queues of this device are due at the slot. -/
theorem emitToks_local (h : (s.slotOf e n).dst.any Place.isRwin = false) (ws : List Nat) (poison : Bool) :
    s.emitToks e n ws poison = s.setSlotOf e n { s.slotOf e n with out := (s.slotOf e n).out ++ s.localToks e n ws poison } := by
  unfold State.emitToks
  dsimp only
  split
  next hdst => simp [hdst, Place.isRwin] at h
  · rfl

/-- After a stretch that stays in this device the slot alone changes. -/
theorem moveNext_local_within (h : (s.slotOf e n).dst.any Place.isRwin = false) (t1 : Nat) : Within [.streams] s (s.moveNext e n t1) := by
  unfold State.moveNext
  extract_lets x ws last y u remote drain v
  have hremote : remote = false := by
    rcases hdst : (s.slotOf e n).dst with - | place
    · simp [remote, x, hdst]
    · simpa [remote, x, hdst] using h
  have hdst : (u.slotOf e n).dst.any Place.isRwin = false := by
    have hsame : y.dst = x.dst := by
      unfold y
      split <;> rfl
    rw [setSlotOf_slotOf, hsame]
    exact h
  have hu : Within [.streams] s u := State.setSlotOf_within _ _ _ _
  have hv : Within [.streams] s v := by
    unfold v
    rw [hremote, Bool.and_false, Bool.false_and, if_neg Bool.false_ne_true, emitToks_local hdst]
    split
    · exact hu
    · exact hu.trans (State.setSlotOf_within _ _ _ _)
  split
  · exact hv.trans (State.slotDone_within _ _ _)
  · exact hv

/-- A MOVE at position p whose start is checked: at a gate it parks, else its stretch moves (R243, R248). -/
def moveFrom (s : State) (e n : Nat) (p : Pos) : State :=
  let x := s.slotOf e n
  if !x.passed && x.gateAt (x.iter p) then
    if x.st = .running then (s.setSlotOf e n { x with st := .parked }).dropEnt e n else s
  else s.moveGo e n p

/-- The slot's MOVE has its source a and its destination b, and stands at position p (R249, R276). -/
def started (s : State) (e n : Nat) (a b : Target) (p : Pos) : State :=
  s.setSlotOf e n (underway (s.slotOf e n) (some (a, b)) p)

/-- The start of a MOVE: its check, unless that has been made or the slot drains (R249). -/
def startMove (s : State) (e n : Nat) : State :=
  let x := s.slotOf e n
  let p := x.pos.getD {}
  if x.st = .running ∧ x.ends.isNone then
    match s.moveCheck e x with
    | (s, .ok ab) => s.setSlotOf e n { s.slotOf e n with ends := some ab, pos := some p }
    | (s, .error c) => (s.setSlotOf e n { s.slotOf e n with pos := some p }).slotFail e n 6 c 0
  else s.setSlotOf e n { x with pos := some p }

theorem exec_move (e : Fin 64) (n : Fin 4) (s : State) : exec (.move e n) s =
    .next ((s.slotStep e n 6 fun s => moveFrom (startMove s e n) e n ((s.slotOf e n).pos.getD {})).ringsSeen s (e / 4)) := rfl

theorem startMove_of_draining (h : (s.slotOf e n).st = .draining) :
    startMove s e n = s.setSlotOf e n (underway (s.slotOf e n) (s.slotOf e n).ends ((s.slotOf e n).pos.getD {})) :=
  if_neg (by simp [h])

theorem startMove_of_checked (h : (s.slotOf e n).ends = some (a, b)) : startMove s e n = started s e n a b ((s.slotOf e n).pos.getD {}) := by
  rw [started, ← h]
  exact if_neg (by simp [h])

theorem startMove_of_passing (hrun : (s.slotOf e n).st = .running) (hends : (s.slotOf e n).ends = none)
    (hcheck : s.moveCheck e (s.slotOf e n) = (t, .ok (a, b))) : startMove s e n = started t e n a b ((s.slotOf e n).pos.getD {}) := by
  rw [startMove]
  simp only [hrun, hends, hcheck, Option.isNone_none, and_self, if_true]
  rfl

theorem moveFrom_parks (hx : s.slotOf e n = underway x ends p) (hrun : x.st = .running) (hpassed : x.passed = false)
    (hgate : x.gateAt (x.iter p) = true) :
    (moveFrom s e n p).slotOf e n = { underway x ends p with st := .parked, ent := none } := by
  have hstops : (!(underway x ends p).passed && (underway x ends p).gateAt ((underway x ends p).iter p)) = true := by
    show (!x.passed && x.gateAt (x.iter p)) = true
    simp [hpassed, hgate]
  rw [moveFrom, hx]
  dsimp only
  rw [if_pos hstops, if_pos (show (underway x ends p).st = .running from hrun), dropEnt_slotOf, setSlotOf_slotOf]

theorem moveFrom_goes (hx : s.slotOf e n = underway x ends p) (h : x.passed = true ∨ x.gateAt (x.iter p) = false) :
    moveFrom s e n p = s.moveGo e n p := by
  have hgoes : ¬(!(underway x ends p).passed && (underway x ends p).gateAt ((underway x ends p).iter p)) = true := by
    show ¬(!x.passed && x.gateAt (x.iter p)) = true
    rcases h with h | h <;> simp [h]
  rw [moveFrom, hx]
  exact if_neg hgoes

/-- A stretch whose data have all moved leads to the next one (R248). -/
theorem moveGo_done (hx : s.slotOf e n = underway x (some (a, b)) p) (hrun : x.st = .running)
    (hopen : (∀ d w o, b ≠ .rwin d w o) ∨ s.mayOpen e n = true)
    (hdata : s.moveData e n a b (x.iter p) p.o (x.stretch x.total (x.iter p)) = (s4, k, .done)) :
    s.moveGo e n p =
      (s4.readAhead e n a (x.iter p) p.o (x.stretch x.total (x.iter p)) k false).moveNext e n (x.stretch x.total (x.iter p)) := by
  have hstretch : (underway x (some (a, b)) p).stretch (underway x (some (a, b)) p).total ((underway x (some (a, b)) p).iter p) =
      x.stretch x.total (x.iter p) := underway_stretch _ _ _ _ _
  have hiter : (underway x (some (a, b)) p).iter p = x.iter p := rfl
  have hst : (underway x (some (a, b)) p).st = .running := hrun
  have hends : (underway x (some (a, b)) p).ends = some (a, b) := rfl
  rw [State.moveGo, hx]
  dsimp only
  rw [hstretch, hiter, hst, hends]
  dsimp only
  rw [hdata]
  refine if_neg fun hwaits => ?_
  rcases hopen with hlocal | hopen
  · cases b with
    | rwin d w o => exact hlocal d w o rfl
    | tf _ | dpa _ | va _ => exact Bool.false_ne_true hwaits.1
  · simp [hopen] at hwaits

/-- A draining MOVE moves nothing (R252). -/
theorem moveGo_drains (hx : s.slotOf e n = underway x ends p) (hdrain : x.st = .draining) :
    s.moveGo e n p = s.moveNext e n (x.stretch x.total (x.iter p)) := by
  have hst : (underway x ends p).st = .draining := hdrain
  rw [State.moveGo, hx]
  dsimp only
  rw [hst, underway_stretch]
  rfl

/-- The end of a stretch that stays in this device: its data stay as they were written. -/
theorem moved_within (hdst : (s4.slotOf e n).dst.any Place.isRwin = false) (a : Target) (t0 o t1 k : Nat) (s : State) (g : Nat) :
    Within [.hdrs, .streams, .msgs, .freeCtr] s4 (((s4.readAhead e n a t0 o t1 k false).moveNext e n t1).ringsSeen s g) := by
  have hread := readAhead_done_within s4 e n a t0 o t1 k
  refine Within.ringsSeen rfl (Within.after (moveNext_local_within ?_ t1) rfl (hread.mono (by decide)))
  rw [slotOf_of_within hread rfl]
  exact hdst

end Move

/-- Slot n of engine e is at a MOVE that it may execute: x is the slot with the entry that it needs, p the MOVE's position (R243, R248). -/
structure AtMove (s s1 : State) (e : Fin 64) (n : Fin 4) (x : Slot) (p : Pos) : Prop where
  ready : s.slotReady e n 6 = true
  entry : s.needEnt e n = some s1
  slot : s1.slotOf e n = x
  pos : x.pos.getD {} = p

/-- The slot runs, and its MOVE has the source a and the destination b: from its start check, that leads to s2, or since before (R249). -/
structure Moving (s s1 s2 : State) (e : Fin 64) (n : Fin 4) (x : Slot) (p : Pos) (a b : Target) : Prop extends AtMove s s1 e n x p where
  run : x.st = .running
  start : x.ends = none ∧ s1.moveCheck e x = (s2, .ok (a, b)) ∨ x.ends = some (a, b) ∧ s2 = s1

section Exec

variable {e : Fin 64} {n : Fin 4} {s s1 s2 s4 : State} {x : Slot} {p : Pos} {a b : Target} {k : Nat}

theorem AtMove.exec_eq (h : AtMove s s1 e n x p) : exec (.move e n) s = .next ((moveFrom (startMove s1 e n) e n p).ringsSeen s (e / 4)) := by
  obtain ⟨hready, hent, rfl, rfl⟩ := h
  rw [exec_move, slotStep_of_ready hready hent]

/-- A draining MOVE that has passed its gate moves nothing (R252). -/
theorem AtMove.drains (h : AtMove s s1 e n x p) (hdrain : x.st = .draining) (hgoes : x.passed = true ∨ x.gateAt (x.iter p) = false)
    (hdst : x.dst.any Place.isRwin = false) : ∃ t, exec (.move e n) s = .next t ∧ Within [.streams, .msgs, .freeCtr] s t := by
  have hexec := h.exec_eq
  obtain ⟨-, hent, rfl, rfl⟩ := h
  have hslot := setSlotOf_slotOf s1 e n (underway (s1.slotOf e n) (s1.slotOf e n).ends ((s1.slotOf e n).pos.getD {}))
  rw [startMove_of_draining hdrain, moveFrom_goes hslot hgoes, moveGo_drains hslot hdrain] at hexec
  refine ⟨_, hexec, Within.ringsSeen rfl (Within.after (moveNext_local_within ?_ _) rfl (Within.after (State.setSlotOf_within _ _ _ _) rfl
    ((State.needEnt_within hent).mono (by decide))))⟩
  rw [hslot]
  exact hdst

theorem Moving.slot_eq (h : Moving s s1 s2 e n x p a b) : s2.slotOf e n = x := by
  obtain ⟨⟨-, -, rfl, -⟩, -, ⟨-, hcheck⟩ | ⟨-, rfl⟩⟩ := h
  · exact slotOf_of_within (.of_pair hcheck (State.moveCheck_within _ _ _)) rfl e n
  · rfl

theorem Moving.started_slotOf (h : Moving s s1 s2 e n x p a b) : (started s2 e n a b p).slotOf e n = underway x (some (a, b)) p := by
  rw [started, setSlotOf_slotOf, h.slot_eq]

theorem Moving.exec_started (h : Moving s s1 s2 e n x p a b) :
    exec (.move e n) s = .next ((moveFrom (started s2 e n a b p) e n p).ringsSeen s (e / 4)) := by
  have hexec := h.exec_eq
  obtain ⟨⟨-, -, rfl, rfl⟩, hrun, ⟨hends, hcheck⟩ | ⟨hends, rfl⟩⟩ := h
  · rw [hexec, startMove_of_passing hrun hends hcheck]
  · rw [hexec, startMove_of_checked hends]

/-- A running MOVE at a gate that it has not passed parks without its entry (R243, R248). -/
theorem Moving.parks (h : Moving s s1 s2 e n x p a b) (hpassed : x.passed = false) (hgate : x.gateAt (x.iter p) = true) :
    ∃ t, exec (.move e n) s = .next t ∧ t.slotOf e n = { underway x (some (a, b)) p with st := .parked, ent := none } := by
  refine ⟨_, h.exec_started, ?_⟩
  rw [slotOf_of_within (Within.ringsSeen (ps := [.msgs, .freeCtr]) rfl (Within.refl _ _)) rfl,
    moveFrom_parks h.started_slotOf h.run hpassed hgate]

section Stretch

variable (h : Moving s s1 s2 e n x p a b) (hgoes : x.passed = true ∨ x.gateAt (x.iter p) = false)
  (hdata : (started s2 e n a b p).moveData e n a b (x.iter p) p.o (x.stretch x.total (x.iter p)) = (s4, k, .done))
include h hgoes hdata

/-- A running MOVE moves its stretch (R248, R401). -/
theorem Moving.moves (hopen : (∀ d w o, b ≠ .rwin d w o) ∨ (started s2 e n a b p).mayOpen e n = true) : exec (.move e n) s =
    .next (((s4.readAhead e n a (x.iter p) p.o (x.stretch x.total (x.iter p)) k false).moveNext e n
      (x.stretch x.total (x.iter p))).ringsSeen s (e / 4)) := by
  rw [h.exec_started, moveFrom_goes h.started_slotOf hgoes, moveGo_done h.started_slotOf h.run hopen hdata]

/-- A stretch that stays in this device leaves what its data have written (R248). -/
theorem Moving.moves_local (hb : ∀ d w o, b ≠ .rwin d w o) (hdst : x.dst.any Place.isRwin = false) :
    ∃ t, exec (.move e n) s = .next t ∧ Within [.hdrs, .streams, .msgs, .freeCtr] s4 t := by
  refine ⟨_, h.moves hgoes hdata (.inl hb), moved_within ?_ _ _ _ _ _ _ _⟩
  rw [slotOf_of_within (.of_pair hdata (moveData_local_within hb _ _ _ _ _ _ _)) rfl, h.started_slotOf]
  exact hdst

end Stretch

/-- A whole nest from tile to tile, without emissions or gates and with the sides apart (R248). -/
theorem Moving.fills_tiles {i j : Nat} (h : Moving s s1 s2 e n x {} (.tf i) (.tf j)) (hemits : x.emits = []) (hgate : mvGate x.instr = 0)
    (hdst : x.dst.any Place.isRwin = false)
    (hapart : clash (.tf i) (.tf j) (hull ((List.range x.total).map fun k => spanOf (mvEs x.instr) (x.srcIdx x.instr k 0)))
      (hull ((List.range x.total).map fun k => (x.dstIdx x.instr k * mvEs x.instr, mvRun x.instr * mvEs x.instr))) = false) :
    ∃ t, exec (.move e n) s = .next t ∧ t.mem = s2.mem ∧ (t.eng e).tf = putRuns (s2.eng e).tf j (nestRuns x (s2.eng e).tf i) := by
  obtain ⟨s4, k, hdata, htf, hrest⟩ := moveData_tiles h.started_slotOf hapart
  have hstretch : x.stretch x.total (x.iter {}) = x.total := stretch_of_plain hemits hgate (by rw [iter_start, Nat.zero_add])
  obtain ⟨t, hexec, hwithin⟩ := h.moves_local (.inr (gateAt_of_ungated hgate _)) (by rw [hstretch, iter_start]; exact hdata)
    (fun _ _ _ => Target.noConfusion) hdst
  exact ⟨t, hexec, (hwithin.eq_mem rfl).trans (hrest.eq_mem rfl), by rw [eng_of_within hwithin rfl, htf]; rfl⟩

end Exec

/-! ## EMIT (R251, R401) -/

section Emit

variable {e : Fin 64} {n : Fin 4} {s s1 : State}

/-- The oldest token that is due enters its queue (R251). -/
theorem emit_enters {m : Emission} {r : List Emission} (hout : (s.slotOf e n).out = m :: r) (hlive : s.strmLive e = true)
    (htakes : s.canTake e m = true) : ∃ t, exec (.emit e n) s = .next t ∧
      (t.eng m.eng).queue m.q = (s.eng m.eng).queue m.q ++ [m.tok] ∧ (t.slotOf e n).out = r := by
  refine ⟨((s.setEng m.eng ((s.eng m.eng).push m.q m.tok)).setSlotOf e n { s.slotOf e n with out := r }).slotDone e n, ?_, ?_, ?_⟩
  · show execEmit e n s = _
    simp [execEmit, hout, hlive, htakes]
  · rw [eng_of_within (State.slotDone_within _ _ _) rfl, setSlotOf_eng, setEng_eng, push_queue]
  · rw [slotDone_out, setSlotOf_slotOf]

variable (hready : s.slotReady e n 7 = true) (hent : s.needEnt e n = some s1)
include hready hent

/-- An EMIT whose transfer may go out, or whose engine has this tenant, forms its token and the slot goes on (R251, R401). -/
theorem emit_forms (hopen : (s1.slotOf e n).dst.any Place.isRwin = true → s1.mayOpen e n = true)
    (hown : (s1.slotOf e n).dst.any Place.isRwin = false → s1.emitForeign e (s1.slotOf e n).instr = false) :
    exec (.emit e n) s = .next (((s1.setSlotOf e n { s1.slotOf e n with pc := (s1.slotOf e n).pc + 1 }).emitToks e n [(s1.slotOf e n).instr]
      ((s1.slotOf e n).st == .draining)).slotDone e n) := by
  show execEmit e n s = _
  rw [execEmit]
  simp only [out_of_ready hready, slotStep_of_ready hready hent]
  rcases hdst : (s1.slotOf e n).dst with - | place
  · simp only [hdst, Option.any_none] at hown
    simp [hdst, hown]
  · simp only [hdst, Option.any_some] at hopen hown
    cases hfar : place.isRwin
    · simp [hdst, hfar, hown hfar]
    · simp [hdst, hfar, hopen hfar]

/-- The token of an EMIT for an engine of this device is due at the slot, which goes on (R251). -/
theorem emit_forms_local (hdst : (s1.slotOf e n).dst.any Place.isRwin = false) (hown : s1.emitForeign e (s1.slotOf e n).instr = false) :
    ∃ t, exec (.emit e n) s = .next t ∧ t.slotOf e n = { s1.slotOf e n with
      pc := (s1.slotOf e n).pc + 1, out := s1.localToks e n [(s1.slotOf e n).instr] ((s1.slotOf e n).st == .draining) } := by
  obtain ⟨m, hslot⟩ := needEnt_slotOf hent
  have hnone : (s1.slotOf e n).out = [] := by rw [hslot]; exact out_of_ready hready
  have hsame := setSlotOf_slotOf s1 e n { s1.slotOf e n with pc := (s1.slotOf e n).pc + 1 }
  have hdue : s1.localToks e n [(s1.slotOf e n).instr] ((s1.slotOf e n).st == .draining) ≠ [] := by
    simp [State.localToks, hown]
  refine ⟨_, emit_forms hready hent (fun hfar => by simp [hdst] at hfar) (fun _ => hown), ?_⟩
  rw [emitToks_local (by rw [hsame]; exact hdst), hsame]
  dsimp only
  rw [hnone, List.nil_append]
  rw [slotDone_of_owing (by rw [setSlotOf_slotOf]; exact hdue), setSlotOf_slotOf]
  rfl

end Emit

/-- Settles O19: a setting frames its slot, a MOVE parks or moves by its position in its nest, and an EMIT's token is due at its slot or goes
out with the slot's transfer. -/
theorem slotInstructions : Obligations.SlotInstructions := by
  unfold Obligations.SlotInstructions
  refine ⟨fun e n s => ⟨fun hleft => ?settings, fun io hio hready hlast hkf hpos hsent => ?ends,
    fun _ => slotStart_starts, fun _ => slotGateResume_passes⟩,
    fun e n s s1 s2 a b hready hent => ⟨fun hrun hstart => ?move, fun hdrain hgoes hdst => ?drains⟩,
    fun e n s s1 => ⟨fun _ _ => emit_enters, fun hready hent => ⟨fun hdst hown => ?forms, fun hfar hopen => ?far⟩⟩⟩
  case settings =>
    refine ⟨fun hready => ?_, fun hready => ?_, fun hready => ?_, fun hready => ?_, fun hready => ?_⟩
    · obtain ⟨t, m, hexec, hslot⟩ := src_isSetting.goesOn hready hleft
      exact ⟨t, hexec, by rw [hslot], by rw [hslot]⟩
    · obtain ⟨t, m, hexec, hslot⟩ := dst_isSetting.goesOn hready hleft
      exact ⟨t, hexec, by rw [hslot], by rw [hslot]⟩
    · obtain ⟨t, m, hexec, hslot⟩ := loop_isSetting.goesOn hready hleft
      exact ⟨t, hexec, by rw [hslot], by rw [hslot]; exact tget_tset_self _ _ _ _⟩
    · obtain ⟨t, m, hexec, hslot⟩ := clamp_isSetting.goesOn hready hleft
      exact ⟨t, hexec, by rw [hslot], by rw [hslot]⟩
    · obtain ⟨t, m, hexec, hslot⟩ := xform_isSetting.goesOn hready hleft
      exact ⟨t, hexec, by rw [hslot], by rw [hslot]⟩
  case ends =>
    obtain ⟨f, hset⟩ : ∃ f, IsSetting e n io.1 io.2 f := by
      simp only [List.mem_cons, List.not_mem_nil, or_false] at hio
      obtain rfl | rfl | rfl | rfl | rfl := hio
      exacts [⟨_, src_isSetting⟩, ⟨_, dst_isSetting⟩, ⟨_, loop_isSetting⟩, ⟨_, clamp_isSetting⟩, ⟨_, xform_isSetting⟩]
    exact hset.ends hready hlast hkf hpos hsent
  case move =>
    have hmove : Moving s s1 s2 e n _ _ a b := ⟨⟨hready, hent, rfl, rfl⟩, hrun, hstart⟩
    refine ⟨fun hpassed hgate => ?_, fun i j ha hb hp hemits hgate hdst hapart => ?_,
      fun s4 k hgoes hdata => ⟨fun hlocal => ?_, fun hopen => ?_⟩⟩
    · obtain ⟨t, hexec, hslot⟩ := hmove.parks hpassed hgate
      exact ⟨t, hexec, by rw [hslot], by rw [hslot], by rw [hslot]; rfl, by rw [hslot]; rfl⟩
    · subst ha hb
      obtain ⟨t, hexec, hmem, htf⟩ := (hp ▸ hmove).fills_tiles hemits hgate hdst hapart
      exact ⟨t, hexec, hmem, by rw [htf, putRuns, nestRuns, List.foldl_map]⟩
    · obtain ⟨hdst, hb⟩ := Bool.or_eq_false_iff.1 hlocal
      obtain ⟨t, hexec, hwithin⟩ := hmove.moves_local hgoes hdata (by rintro d w o rfl; cases hb) hdst
      exact ⟨t, hexec, hwithin.eq_mem rfl, congrArg Engine.tf (eng_of_within hwithin rfl e)⟩
    · exact hmove.moves hgoes hdata (.inr hopen)
  case drains =>
    have hmove : AtMove s s1 e n _ _ := ⟨hready, hent, rfl, rfl⟩
    obtain ⟨t, hexec, hwithin⟩ := hmove.drains hdrain hgoes hdst
    exact ⟨t, hexec, hwithin.eq_mem rfl, congrArg Engine.tf (eng_of_within hwithin rfl e)⟩
  case forms =>
    obtain ⟨t, hexec, hslot⟩ := emit_forms_local hready hent hdst hown
    exact ⟨t, hexec, by rw [hslot], by rw [hslot]; simp [State.localToks, hown]⟩
  case far =>
    exact emit_forms hready hent (fun _ => hopen) fun hlocal => by simp [hlocal] at hfar

end Sys2Proof.SlotSteps

/-! The frame of every command: what `mayChange` lists is all that its step may change, the memory keeps its canonical form and the DEV
registers their ranges (O4). One lemma per command, composed of the frames of the operations that its definition names. -/

namespace Sys2Proof.Laws

open Sys2Proof Sys2Proof.Machine

theorem Within.widen {ps qs : List Part} {s t : State} (h : Within qs s t) (hq : (qs.all fun q => ps.contains q) = true) :
    Within ps s t :=
  h.after hq (.refl ps s)

/-- A change that a condition guards. -/
theorem Within.when {ps : List Part} {s t u : State} {c : Prop} [Decidable c] (h' : Within ps t u) (h : Within ps s t) :
    Within ps s (if c then u else t) := .ite (h.trans h') h

theorem Within.unless {ps : List Part} {s t u : State} {c : Prop} [Decidable c] (h' : Within ps t u) (h : Within ps s t) :
    Within ps s (if c then t else u) := .ite h (h.trans h')

/-- A command answers with a next state, which differs from the state only in the parts ps. -/
def Answers (ps : List Part) (s : State) (o : Out) : Prop := ∃ t, o = .next t ∧ Within ps s t

theorem Answers.next {ps : List Part} {s t : State} (h : Within ps s t) : Answers ps s (.next t) := ⟨t, rfl, h⟩

theorem Answers.stay {ps : List Part} {s : State} : Answers ps s (.next s) := .next (.refl ps s)

theorem Answers.ite {ps : List Part} {s : State} {c : Prop} [Decidable c] {x y : Out} (hx : Answers ps s x) (hy : Answers ps s y) :
    Answers ps s (if c then x else y) := by split <;> assumption

/-- An instruction whose issue changes its engine alone: every opcode but 0x0A, 0x30 and 0x2B. -/
theorem Answers.issues {ps : List Part} {s : State} {e opc : Nat} {check : Bool} {body : State → Iss → State × Res}
    (hk : ∀ u x, Within ps u (body u x).1) (ho : opc ∉ [0x0A, 0x30, 0x2B]) (hq : ps.contains .engines = true) :
    Answers ps s (.next (s.issueRun e opc check body)) := by
  simp only [List.mem_cons, List.not_mem_nil, or_false, not_or] at ho
  exact .next (.issueRun_own hk ho.1 ho.2.1 ho.2.2 hq (.refl ps s))

end Sys2Proof.Laws

namespace Sys2Proof.CommandFrames

open Sys2Proof Sys2Proof.Machine Sys2Proof.Laws

/-- An elementwise instruction changes event counters and its engine. -/
theorem elementwise_engines {s : State} {e opc : Nat} (ha : opc ≠ 0x0A) (hb : opc ≠ 0x30) (hc : opc ≠ 0x2B) :
    Within [.hdrs, .engines, .freeCtr] s (s.elementwise e opc) := by
  unfold State.elementwise
  refine .issueRun_own (fun u x => ?_) ha hb hc rfl (.refl _ _)
  dsimp only
  split
  · exact .refl _ _
  · exact .after (State.putRes_within _ _ _ _ _ _ _) rfl (.after (State.lanePasses_within _ _ _) rfl
      (.widen (State.latchRun_within _ _ _ _ _) rfl))

/-- An instruction that maps limbs changes event counters and its engine. -/
theorem limbwise_engines {s : State} {e opc : Nat} {cond passes f} (ha : opc ≠ 0x0A) (hb : opc ≠ 0x30) (hc : opc ≠ 0x2B) :
    Within [.hdrs, .engines, .freeCtr] s (s.limbwise e opc cond passes f) := by
  unfold State.limbwise
  refine .issueRun_own (fun u x => ?_) ha hb hc rfl (.refl _ _)
  dsimp only
  split
  · exact .refl _ _
  · refine .ite_fst (.refl _ _) ?_
    split
    · exact .refl _ _
    · exact .after (State.putLimbs_within _ _ _ _ _ _) rfl (.widen (State.lanePasses_within _ _ _) rfl)

/-- Device memory goes, with its unknown errors and what a loss of power sets besides. -/
theorem memoryLost_thermtrip (t : State) (pins : Pins) (msg : List Byte) :
    Within [.mem, .ue, .pins, .sideband] t { t with pins := pins, mem := [], ue := [], sideband := msg } :=
  ⟨fun p hn => by cases p <;> first | exact absurd (by decide) hn | rfl, fun _ => rfl, id⟩

theorem memoryLost_oscillator (t : State) (pins : Pins) (ports : List (Nat × Port)) (fns : List (Nat × Fn)) (hdrs : List (Nat × Hdr)) :
    Within [.mem, .ue, .hdrs, .ports, .fns, .pins] t
      { t with pins := pins, ports := ports, fns := fns, mem := [], ue := [], hdrs := hdrs } :=
  ⟨fun p hn => by cases p <;> first | exact absurd (by decide) hn | rfl, fun _ => rfl, id⟩

/-! ### The commands of Machine/Engine -/

theorem execInstructionRetire_answers (e : Fin 64) (s : State) :
    Answers (mayChange (.instructionRetire e)) s (execInstructionRetire e s) := by
  unfold execInstructionRetire
  split
  · exact .stay
  · exact .ite (.next (.widen (State.retireHead_within _ _ _ _) rfl)) .stay

theorem execNop_answers (e : Fin 64) (s : State) : Answers (mayChange (.nop e)) s (execNop e s) := by
  unfold execNop
  split
  · exact .next (.widen (State.issue_own rfl rfl rfl ‹_›) rfl)
  · exact .next (.after (State.enter_within _ _ _ _ _ _) rfl (.widen (State.issue_go ‹_›) rfl))

theorem execStop_answers (e : Fin 64) (s : State) : Answers (mayChange (.stop e)) s (execStop e s) := by
  have hissue : Within (mayChange (.stop e)) s (match s.issue e (fun o => o == 0x02) with
      | .stay s => s
      | .go s x => s.enter e x ([], []) none { done := false }) := by
    split
    · exact .widen (State.issue_own rfl rfl rfl ‹_›) rfl
    · exact .after (State.enter_within _ _ _ _ _ _) rfl (.widen (State.issue_go ‹_›) rfl)
  unfold execStop
  dsimp only
  split
  · exact .ite (.next (.after (State.endProgram_within _ _) rfl (.after (State.retireHead_within _ _ _ _) rfl hissue))) (.next hissue)
  · exact .next hissue

theorem execFence_answers (e : Fin 64) (s : State) : Answers (mayChange (.fence e)) s (execFence e s) :=
  .issues (fun u x => .refl _ _) (by decide) rfl

theorem execTcfg_answers (e : Fin 64) (s : State) : Answers (mayChange (.tcfg e)) s (execTcfg e s) :=
  .issues (fun u x => .ite_fst (.widen (State.setEng_within _ _ _) rfl) (.refl _ _)) (by decide) rfl

theorem execTrel_answers (e : Fin 64) (s : State) : Answers (mayChange (.trel e)) s (execTrel e s) :=
  .issues (fun u x => .ite_fst (.refl _ _) (.ite_fst (.after (State.setEng_within _ _ _) rfl
    (.widen (State.cancelFill_within _ _ _) rfl)) (.widen (State.setEng_within _ _ _) rfl))) (by decide) rfl

theorem execCnti_answers (e : Fin 64) (s : State) : Answers (mayChange (.cnti e)) s (execCnti e s) :=
  .issues (fun u x => .widen (State.setEng_within _ _ _) rfl) (by decide) rfl

theorem execCntd_answers (e : Fin 64) (s : State) : Answers (mayChange (.cntd e)) s (execCntd e s) :=
  .issues (fun u x => .widen (State.setEng_within _ _ _) rfl) (by decide) rfl

theorem execCmpb_answers (e : Fin 64) (s : State) : Answers (mayChange (.cmpb e)) s (execCmpb e s) :=
  .issues (fun u x => .ite_fst (.refl _ _) (.ite_fst (.widen (State.setEng_within _ _ _) rfl) (.refl _ _))) (by decide) rfl

theorem execTwait_answers (e : Fin 64) (s : State) : Answers (mayChange (.twait e)) s (execTwait e s) :=
  .next (.issueRun_own (fun u x => .ite_fst (.widen (State.setEng_within _ _ _) rfl) (.refl _ _)) (by decide) (by decide) (by decide) rfl
    (.widen (State.exportPending_within _ _) rfl))

theorem execTemit_answers (e : Fin 64) (s : State) : Answers (mayChange (.temit e)) s (execTemit e s) :=
  .issues (fun u x => .refl _ _) (by decide) rfl

/-! ### The commands of Machine/EngineArith -/

theorem execMadd_answers (e : Fin 64) (s : State) : Answers (mayChange (.madd e)) s (execMadd e s) :=
  .next (elementwise_engines (by decide) (by decide) (by decide))

theorem execMsub_answers (e : Fin 64) (s : State) : Answers (mayChange (.msub e)) s (execMsub e s) :=
  .next (elementwise_engines (by decide) (by decide) (by decide))

theorem execMmul_answers (e : Fin 64) (s : State) : Answers (mayChange (.mmul e)) s (execMmul e s) :=
  .next (elementwise_engines (by decide) (by decide) (by decide))

theorem execMmac_answers (e : Fin 64) (s : State) : Answers (mayChange (.mmac e)) s (execMmac e s) :=
  .next (elementwise_engines (by decide) (by decide) (by decide))

theorem execMneg_answers (e : Fin 64) (s : State) : Answers (mayChange (.mneg e)) s (execMneg e s) :=
  .next (elementwise_engines (by decide) (by decide) (by decide))

theorem execNtt_answers (e : Fin 64) (s : State) : Answers (mayChange (.ntt e)) s (execNtt e s) :=
  .next (limbwise_engines (by decide) (by decide) (by decide))

theorem execIntt_answers (e : Fin 64) (s : State) : Answers (mayChange (.intt e)) s (execIntt e s) :=
  .next (limbwise_engines (by decide) (by decide) (by decide))

theorem execAuto_answers (e : Fin 64) (s : State) : Answers (mayChange (.auto e)) s (execAuto e s) :=
  .next (limbwise_engines (by decide) (by decide) (by decide))

theorem execBconv_answers (e : Fin 64) (s : State) : Answers (mayChange (.bconv e)) s (execBconv e s) := by
  unfold execBconv
  refine .issues (fun u x => .ite_fst (.refl _ _) ?_) (by decide) rfl
  split
  · exact .refl _ _
  · exact .refl _ _
  · exact .ite_fst (.refl _ _) (.after (State.putLimbs_within _ _ _ _ _ _) rfl (.widen (State.lanePasses_within _ _ _) rfl))

theorem execModup_answers (e : Fin 64) (s : State) : Answers (mayChange (.modup e)) s (execModup e s) := by
  unfold execModup
  refine .issues (fun u x => .ite_fst (.refl _ _) ?_) (by decide) rfl
  dsimp only
  split
  · exact .refl _ _
  · exact .refl _ _
  · exact .ite_fst (.refl _ _) (.after (State.putLimbs_within _ _ _ _ _ _) rfl (.widen (State.lanePasses_within _ _ _) rfl))

theorem execModdn_answers (e : Fin 64) (s : State) : Answers (mayChange (.moddn e)) s (execModdn e s) := by
  unfold execModdn
  refine .issues (fun u x => .ite_fst (.refl _ _) ?_) (by decide) rfl
  split
  · exact .refl _ _
  · exact .refl _ _
  · exact .ite_fst (.refl _ _) (.after (State.putLimbs_within _ _ _ _ _ _) rfl (.widen (State.lanePasses_within _ _ _) rfl))

theorem execDcmp_answers (e : Fin 64) (s : State) : Answers (mayChange (.dcmp e)) s (execDcmp e s) := by
  unfold execDcmp
  refine .issues (fun u x => ?_) (by decide) rfl
  dsimp only
  split
  · exact .refl _ _
  · exact .ite_fst (.refl _ _) (.after (State.putLimbs_within _ _ _ _ _ _) rfl (.widen (State.lanePasses_within _ _ _) rfl))

theorem execMsw_answers (e : Fin 64) (s : State) : Answers (mayChange (.msw e)) s (execMsw e s) := by
  unfold execMsw
  refine .issues (fun u x => ?_) (by decide) rfl
  dsimp only
  split
  · exact .refl _ _
  · exact .ite_fst (.refl _ _) (.after (State.putLimbs_within _ _ _ _ _ _) rfl (.widen (State.lanePasses_within _ _ _) rfl))

theorem execSxtr_answers (e : Fin 64) (s : State) : Answers (mayChange (.sxtr e)) s (execSxtr e s) :=
  .issues (fun u x => .ite_fst (.refl _ _) (.ite_fst (.refl _ _) (.ite_fst (.refl _ _) (.after (State.putRes_within _ _ _ _ _ _ _) rfl
    (.widen (State.lanePasses_within _ _ _) rfl))))) (by decide) rfl

/-! ### The commands of Machine/EngineMem -/

theorem execTld_answers (e : Fin 64) (s : State) : Answers (mayChange (.tld e)) s (execTld e s) := by
  unfold execTld
  split
  · exact .next (.widen (State.issue_own rfl rfl rfl ‹_›) rfl)
  · exact .next (.after (State.tld_within _ _ _) rfl (.widen (State.issue_go ‹_›) rfl))

theorem execTst_answers (e : Fin 64) (s : State) : Answers (mayChange (.tst e)) s (execTst e s) := by
  unfold execTst
  split
  · exact .next (.widen (State.issue_stay ‹_›) rfl)
  · exact .next (.after (State.tst_within _ _ _) rfl (.widen (State.issue_go ‹_›) rfl))

theorem execResc_answers (e : Fin 64) (s : State) : Answers (mayChange (.resc e)) s (execResc e s) := by
  unfold execResc
  split
  · exact .next (.widen (State.issue_stay ‹_›) rfl)
  · dsimp only
    split
    · exact .next (.after (State.enter_within _ _ _ _ _ _) rfl (.widen (State.issue_go ‹_›) rfl))
    · exact .ite (.next (.after (State.rescMop_within _ _ _) rfl (.widen (State.issue_go ‹_›) rfl))) (.next
        (.after (State.enter_within _ _ _ _ _ _) rfl (.after (State.rescTile_within _ _ _) rfl (.widen (State.issue_go ‹_›) rfl))))

theorem execTransferComplete_answers (e : Fin 64) (x : Fin 4) (s : State) :
    Answers (mayChange (.transferComplete e x)) s (execTransferComplete e x s) := by
  unfold execTransferComplete
  refine .ite .stay ?_
  split
  · exact .next (.widen (State.setXfer_within _ _ _ _) rfl)
  · dsimp only
    split
    · refine .ite .stay ?_
      split
      · exact .next (.after (State.setXfer_within _ _ _ _) rfl (.after (State.modWin_within _ _ _ _) rfl (.of_pair ‹_›
          (.widen (State.descAt_within _ _ _ _) rfl))))
      · exact .next (.after (State.setXfer_within _ _ _ _) rfl (.after (State.modWin_within _ _ _ _) rfl (.of_pair ‹_›
          (.widen (State.descAt_within _ _ _ _) rfl))))
    · exact .next (.after (State.setXfer_within _ _ _ _) rfl (.widen (State.modWin_within _ _ _ _) rfl))

/-! ### The commands of Machine/EngineKey -/

theorem execKsw_answers (e : Fin 64) (s : State) : Answers (mayChange (.ksw e)) s (execKsw e s) := by
  unfold execKsw
  split
  · exact .next (.widen (State.issue_stay ‹_›) rfl)
  · exact .next (.after (State.ksw_within _ _ _) rfl (.widen (State.issue_go ‹_›) rfl))

theorem execExtp_answers (e : Fin 64) (s : State) : Answers (mayChange (.extp e)) s (execExtp e s) := by
  unfold execExtp
  split
  · exact .next (.widen (State.issue_own rfl rfl rfl ‹_›) rfl)
  · dsimp only
    split
    · exact .next (.after (State.enter_within _ _ _ _ _ _) rfl (.widen (State.issue_go ‹_›) rfl))
    · exact .ite (.next (.after (State.enter_within _ _ _ _ _ _) rfl (.widen (State.issue_go ‹_›) rfl))) (.next
        (.after (State.extStart_within _ _ _ _ _ _ _) rfl (.widen (State.issue_go ‹_›) rfl)))

theorem execBrot_answers (e : Fin 64) (s : State) : Answers (mayChange (.brot e)) s (execBrot e s) := by
  unfold execBrot
  split
  · exact .next (.widen (State.issue_own rfl rfl rfl ‹_›) rfl)
  · dsimp only
    split
    · exact .next (.after (State.enter_within _ _ _ _ _ _) rfl (.widen (State.issue_go ‹_›) rfl))
    · exact .ite (.next (.after (State.enter_within _ _ _ _ _ _) rfl (.widen (State.issue_go ‹_›) rfl))) (.next
        (.after (State.extStart_within _ _ _ _ _ _ _) rfl (.widen (State.issue_go ‹_›) rfl)))

theorem execKpack_answers (e : Fin 64) (s : State) : Answers (mayChange (.kpack e)) s (execKpack e s) := by
  unfold execKpack
  split
  · exact .next (.widen (State.issue_own rfl rfl rfl ‹_›) rfl)
  · dsimp only
    split
    · exact .next (.after (State.enter_within _ _ _ _ _ _) rfl (.widen (State.issue_go ‹_›) rfl))
    · exact .ite (.next (.after (State.enter_within _ _ _ _ _ _) rfl (.widen (State.issue_go ‹_›) rfl))) (.ite (.next
        (.after (State.enter_within _ _ _ _ _ _) rfl (.widen (State.issue_go ‹_›) rfl))) (.next
        (.after (State.extStart_within _ _ _ _ _ _ _) rfl (.widen (State.issue_go ‹_›) rfl))))

theorem execRingTokenTake_answers (e : Fin 64) (s : State) : Answers (mayChange (.ringTokenTake e)) s (execRingTokenTake e s) := by
  unfold execRingTokenTake
  dsimp only
  split
  · exact .stay
  · split
    · exact .stay
    · split
      · exact .stay
      · refine .ite .stay (.ite (.next (.after (State.ringStop_within _ _ _ _) rfl (.widen (State.setEng_within _ _ _) rfl))) (.ite
          (.next (.after (State.ringStop_within _ _ _ _) rfl (.widen (State.setEng_within _ _ _) rfl))) ?_))
        split
        · exact .next (.after (State.kswAfter_within _ _ _) rfl (.after (State.ringFill_within _ _ _) rfl
            (.widen (State.setEng_within _ _ _) rfl)))
        · exact .next (.after (State.ringEnd_within _ _ _) rfl (.after (State.ringFill_within _ _ _) rfl
            (.widen (State.setEng_within _ _ _) rfl)))

/-! ### The commands of Machine/ErrorLog -/

theorem execSumpRecord_answers (g : Fin 16) (r : SumpRec) (s : State) :
    Answers (mayChange (.sumpRecord g r)) s (execSumpRecord g r s) :=
  .next (.widen (State.sumpPut_within _ _ _) rfl)

theorem execSumpDrain_answers (g : Fin 16) (s : State) : Answers (mayChange (.sumpDrain g)) s (execSumpDrain g s) := by
  unfold execSumpDrain
  refine .ite .stay ?_
  split
  · exact .stay
  · exact .next (.after (State.logErr_within _ _) rfl (.widen (State.setGal_within _ _ _) rfl))

theorem execMergeIntervalExpire_answers (id : Nat) (s : State) :
    Answers (mayChange (.mergeIntervalExpire id)) s (execMergeIntervalExpire id s) := by
  unfold execMergeIntervalExpire
  split
  · exact .stay
  · exact .next (.after (State.bufferErr_within _ _) rfl (.set_dev (fun h => ⟨h.hops, h.tries, h.throt, h.pwr, h.pwrNew, h.cool⟩) rfl
      (.refl _ _)))

theorem execErrorRecordPost_answers (c : Ctl) (hostOk : Bool) (s : State) :
    Answers (mayChange (.errorRecordPost c hostOk)) s (execErrorRecordPost c hostOk s) := by
  unfold execErrorRecordPost
  dsimp only
  split
  · exact .stay
  · exact .ite .stay (.ite (.next (.widen (State.setMgmt_within _ _ _) rfl)) (.next (.after (State.msixTo_within _ _ _ _) rfl
      (.after (State.setMgmt_within _ _ _) rfl (.widen (State.hostPut_within _ _ _ _ _) rfl)))))

theorem execErqEnWrite_answers (c : Ctl) (val : Word32) (s : State) :
    Answers (mayChange (.erqEnWrite c val)) s (execErqEnWrite c val s) :=
  .next (.erqGate (fun _ => .widen (State.erqCtl_within _ _ _) rfl) rfl (.refl _ _))

theorem execErqHeadWrite_answers (c : Ctl) (val : Word32) (s : State) :
    Answers (mayChange (.erqHeadWrite c val)) s (execErqHeadWrite c val s) :=
  .next (.erqGate (fun _ => .widen (State.erqHeadPut_within _ _ _) rfl) rfl (.refl _ _))

/-! ### The commands of Machine/StreamUnit -/

theorem execSlotStart_answers (e : Fin 64) (n : Fin 4) (s : State) : Answers (mayChange (.slotStart e n)) s (execSlotStart e n s) := by
  unfold execSlotStart
  refine .ite .stay ?_
  split
  · exact .stay
  · exact .next (.after (State.slotDone_within _ _ _) rfl (.getD (fun u h => .after (State.needEnt_within ‹_›) rfl
      (.after (State.setSlotOf_within _ _ _ _) rfl (.widen (State.setEng_within _ _ _) rfl)))
      (.after (State.setSlotOf_within _ _ _ _) rfl (.widen (State.setEng_within _ _ _) rfl))))

theorem execSrc_answers (e : Fin 64) (n : Fin 4) (s : State) : Answers (mayChange (.src e n)) s (execSrc e n s) :=
  .next (.widen (State.slotSet_within _ _ _ _ _) rfl)

theorem execDst_answers (e : Fin 64) (n : Fin 4) (s : State) : Answers (mayChange (.dst e n)) s (execDst e n s) :=
  .next (.widen (State.slotSet_within _ _ _ _ _) rfl)

theorem execLoop_answers (e : Fin 64) (n : Fin 4) (s : State) : Answers (mayChange (.loop e n)) s (execLoop e n s) :=
  .next (.widen (State.slotSet_within _ _ _ _ _) rfl)

theorem execClamp_answers (e : Fin 64) (n : Fin 4) (s : State) : Answers (mayChange (.clamp e n)) s (execClamp e n s) :=
  .next (.widen (State.slotSet_within _ _ _ _ _) rfl)

theorem execXform_answers (e : Fin 64) (n : Fin 4) (s : State) : Answers (mayChange (.xform e n)) s (execXform e n s) :=
  .next (.widen (State.slotSet_within _ _ _ _ _) rfl)

/-! ### The commands of Machine/DripUnit -/

theorem execKfill_answers (e : Fin 64) (n : Fin 4) (s : State) : Answers (mayChange (.kfill e n)) s (execKfill e n s) :=
  .next (.slotStep (fun _ => .ite (.refl _ _) (.widen (State.kfillStart_within _ _ _) rfl)) rfl (.refl _ _))

theorem execKeyFillDeliver_answers (e : Fin 64) (n : Fin 4) (s : State) :
    Answers (mayChange (.keyFillDeliver e n)) s (execKeyFillDeliver e n s) := by
  unfold execKeyFillDeliver
  split
  · exact .stay
  · refine .ite .stay ?_
    dsimp only
    split
    · exact .next (.after (State.fillEnd_within _ _ _ _ _) rfl (.ite (.widen (State.assemble_within _ _ _ _) rfl) (.refl _ _)))
    · exact .next (.ite (.widen (State.assemble_within _ _ _ _) rfl) (.refl _ _))

theorem execFillTokenEmit_answers (e : Fin 64) (n : Fin 4) (s : State) :
    Answers (mayChange (.fillTokenEmit e n)) s (execFillTokenEmit e n s) := by
  unfold execFillTokenEmit
  refine .ite .stay ?_
  split
  · split
    · exact .next (.pushOwn (fun u => .widen (State.setKf_within _ _ _ _) rfl) rfl (.refl _ _))
    · exact .ite (.next (.pushOwn (fun u => .after (State.slotDone_within _ _ _) rfl (.widen (State.setSlotOf_within _ _ _ _) rfl)) rfl
        (.refl _ _))) (.ite (.next (.pushOwn (fun u => .widen (State.setKf_within _ _ _ _) rfl) rfl (.refl _ _))) .stay)
  · exact .ite (.next (.pushOwn (fun u => .after (State.slotDone_within _ _ _) rfl (.widen (State.setSlotOf_within _ _ _ _) rfl)) rfl
      (.refl _ _))) .stay
  · exact .stay

theorem execNfill_answers (e : Fin 64) (n : Fin 4) (s : State) : Answers (mayChange (.nfill e n)) s (execNfill e n s) :=
  .next (.slotStep (fun _ => .ite (.widen (State.nfillRun_within _ _ _) rfl) (.refl _ _)) rfl (.refl _ _))

theorem execDripSelftest_answers (g : Fin 16) (s : State) : Answers (mayChange (.dripSelftest g)) s (execDripSelftest g s) :=
  .next (.gate (fun _ => .widen (State.dripTest_within _ _) rfl) rfl (.refl _ _))

theorem execDripSelftestEnd_answers (g : Fin 16) (failed : BitVec 40) (s : State) :
    Answers (mayChange (.dripSelftestEnd g failed)) s (execDripSelftestEnd g failed s) :=
  .ite .stay (.next (.when (.widen (State.setHdr_within _ _ _) rfl) (.unless (.widen (State.dripFault_within _ _ _) rfl)
    (.widen (State.setDrip_within _ _ _) rfl))))

theorem execDripCoreParityError_answers (g : Fin 16) (core : Fin 40) (s : State) :
    Answers (mayChange (.dripCoreParityError g core)) s (execDripCoreParityError g core s) :=
  .ite .stay (.next (.after (State.dripFault_within _ _ _) rfl (.widen (State.setDrip_within _ _ _) rfl)))

theorem execDripCoreEnWrite_answers (g : Fin 16) (val : Word64) (s : State) :
    Answers (mayChange (.dripCoreEnWrite g val)) s (execDripCoreEnWrite g val s) :=
  .next (.gate (fun _ => .widen (State.coreEnPut_within _ _ _) rfl) rfl (.refl _ _))

/-! ### The commands of Machine/EngineCtl -/

theorem execEngineStart_answers (e : Fin 64) (val : Word32) (s : State) :
    Answers (mayChange (.engineStart e val)) s (execEngineStart e val s) :=
  .next (.inner (fun _ => .widen (State.startWrite_within _ _ _) rfl) rfl (.refl _ _))

theorem execStopCntWrite_answers (port : Fin 2) (fn : Fin 64) (e : Fin 64) (val : Word64) (s : State) :
    Answers (mayChange (.stopCntWrite port fn e val)) s (execStopCntWrite port fn e val s) :=
  .next (.gate (fun _ => .widen (State.stopCntPut_within _ _ _) rfl) rfl (.refl _ _))

theorem execEngineStopped_answers (e : Fin 64) (s : State) : Answers (mayChange (.engineStopped e)) s (execEngineStopped e s) :=
  .ite (.next (.widen (State.setEng_within _ _ _) rfl)) .stay

theorem execEngineHalted_answers (e : Fin 64) (s : State) : Answers (mayChange (.engineHalted e)) s (execEngineHalted e s) :=
  .ite (.next (.widen (State.setEng_within _ _ _) rfl)) .stay

theorem execRndSeedWrite_answers (e : Fin 64) (val : Word64) (s : State) :
    Answers (mayChange (.rndSeedWrite e val)) s (execRndSeedWrite e val s) :=
  .next (.inner (fun _ => .widen (State.rndSeedPut_within _ _ _) rfl) rfl (.refl _ _))

theorem execTileCfgWrite_answers (_port : Fin 2) (fn : Fin 64) (e : Fin 64) (n : Fin 32) (val : Word64) (s : State) :
    Answers (mayChange (.tileCfgWrite _port fn e n val)) s (execTileCfgWrite _port fn e n val s) :=
  .next (.gate (fun _ => .widen (State.tileCfgPut_within _ _ _ _) rfl) rfl (.refl _ _))

theorem execDbgWinRead_answers (port : Fin 2) (fn : Fin 64) (e : Fin 64) (off : Fin 2048) (size : Nat) (s : State) :
    Answers (mayChange (.dbgWinRead port fn e off size)) s (execDbgWinRead port fn e off size s) :=
  .ite (.next (.set_lastRead rfl (.widen (State.refuse_within _ _ _) rfl))) (.ite (.next (.set_lastRead rfl
    (.widen (State.refuse_within _ _ _) rfl))) (.ite (.next (.set_lastRead rfl (.refl _ _))) (.next
    (.widen (State.dbgRead_within _ _ _ _) rfl))))

theorem execEngineSave_answers (e : Fin 64) (s : State) : Answers (mayChange (.engineSave e)) s (execEngineSave e s) :=
  .next (.inner (fun _ => .widen (State.saveWrite_within _ _) rfl) rfl (.refl _ _))

theorem execSaveComplete_answers (e : Fin 64) (s : State) : Answers (mayChange (.saveComplete e)) s (execSaveComplete e s) :=
  .ite .stay (.next (.after (State.setGal_within _ _ _) rfl (.after (State.setDrip_within _ _ _) rfl
    (.after (State.setStrm_within _ _ _) rfl (.after (State.setEng_within _ _ _) rfl (.widen (State.devWrite_within _ _ _ _) rfl))))))

theorem execEngineRestore_answers (e : Fin 64) (s : State) : Answers (mayChange (.engineRestore e)) s (execEngineRestore e s) :=
  .next (.inner (fun _ => .widen (State.restoreWrite_within _ _) rfl) rfl (.refl _ _))

theorem execRestoreComplete_answers (e : Fin 64) (s : State) :
    Answers (mayChange (.restoreComplete e)) s (execRestoreComplete e s) :=
  .ite .stay (.next (.foldl (fun u x => .after (State.resumeKf_within _ _ _) rfl (.ite (.getD
    (fun u h => .widen (State.needEnt_within ‹_›) rfl) (.refl _ _)) (.refl _ _))) (.after (State.setEng_within _ _ _) rfl (.foldl
    (fun u x => .widen (State.refillToken_within _ _ _) rfl) (.foldl (fun u x => .widen (State.refill_within _ _ _ _) rfl) (.refl _ _))))))

theorem execHsigWrite_answers (port : Fin 2) (fn : Fin 64) (g : Fin 16) (val : Word64) (s : State) :
    Answers (mayChange (.hsigWrite port fn g val)) s (execHsigWrite port fn g val s) :=
  .next (.gate (fun _ => .widen (State.hsigPut_within _ _ _ _ _) rfl) rfl (.refl _ _))

/-! ### The commands of Machine/LinkUnit -/

theorem execAck_answers (n : Fin 64) (lseq : BitVec 12) (s : State) : Answers (mayChange (.ack n lseq)) s (execAck n lseq s) := by
  unfold execAck
  refine .next (.heard (fun u => ?_) rfl (.refl _ _))
  dsimp only
  split
  · exact .refl _ _
  · exact .after (State.pump_within _ _) rfl (.widen (State.setLink_within _ _ _) rfl)

theorem execNak_answers (n : Fin 64) (lseq : BitVec 12) (s : State) : Answers (mayChange (.nak n lseq)) s (execNak n lseq s) := by
  unfold execNak
  refine .next (.heard (fun u => ?_) rfl (.refl _ _))
  dsimp only
  split
  · exact .refl _ _
  · exact .foldl (fun u x => .widen (State.wirePut_within _ _ _) rfl) (.after (State.event_within _ _ _ _) rfl
      (.widen (State.setLink_within _ _ _) rfl))

theorem execCredit_answers (n : Fin 64) (vc : Bool) (count : Nat) (s : State) :
    Answers (mayChange (.credit n vc count)) s (execCredit n vc count s) :=
  .next (.heard (fun _ => .after (State.pump_within _ _) rfl (.widen (State.setLink_within _ _ _) rfl)) rfl (.refl _ _))

theorem execIdle_answers (n : Fin 64) (s : State) : Answers (mayChange (.idle n)) s (execIdle n s) :=
  .next (.heard (fun _ => .refl _ _) rfl (.refl _ _))

theorem execMgmt_answers (n : Fin 64) (_payload : Bytes) (s : State) :
    Answers (mayChange (.mgmt n _payload)) s (execMgmt n _payload s) :=
  .next (.heard (fun _ => .refl _ _) rfl (.refl _ _))

theorem execFlitCrcFail_answers (n : Fin 64) (s : State) : Answers (mayChange (.flitCrcFail n)) s (execFlitCrcFail n s) :=
  .next (.ite (.after (State.wirePut_within _ _ _) rfl (.after (State.drawn_within _) rfl (.after (State.setLink_within _ _ _) rfl
    (.widen (State.event_within _ _ _ _) rfl)))) (.refl _ _))

/-! ### The commands of Machine/Transfers -/

theorem execWrite_answers (n : Fin 64) (h : FlitHdr) (xid : Word64) (win : Fin 256) (srcTenant : Fin 1024) (off : Nat) (data : Bytes) (s : State) :
    Answers (mayChange (.write n h xid win srcTenant off data)) s (execWrite n h xid win srcTenant off data s) :=
  .next (.widen (State.arrive_within _ _ _) rfl)

theorem execToken_answers (n : Fin 64) (h : FlitHdr) (xid : Word64) (win : Fin 256) (engine : Fin 64) (q13 poison : Bool) (value : Word16) (bytes : Word64) (s : State) :
    Answers (mayChange (.token n h xid win engine q13 poison value bytes)) s (execToken n h xid win engine q13 poison value bytes s) :=
  .next (.widen (State.arrive_within _ _ _) rfl)

theorem execCompl_answers (n : Fin 64) (h : FlitHdr) (xid : Word64) (status : Byte) (s : State) :
    Answers (mayChange (.compl n h xid status)) s (execCompl n h xid status s) :=
  .next (.widen (State.arrive_within _ _ _) rfl)

theorem execWait_answers (n : Fin 64) (h : FlitHdr) (xid : Word64) (s : State) :
    Answers (mayChange (.wait n h xid)) s (execWait n h xid s) :=
  .next (.widen (State.arrive_within _ _ _) rfl)

theorem execRelease_answers (n : Fin 64) (h : FlitHdr) (srcDev : Fin 4096) (slot : Fin 8192) (s : State) :
    Answers (mayChange (.release n h srcDev slot)) s (execRelease n h srcDev slot s) :=
  .next (.widen (State.arrive_within _ _ _) rfl)

theorem execWaitTimer_answers (xid : Word64) (s : State) : Answers (mayChange (.waitTimer xid)) s (execWaitTimer xid s) := by
  unfold execWaitTimer
  split
  · exact .stay
  · exact .ite (.next (.ite (.widen (State.answerWait_within _ _ _) rfl) (.refl _ _))) (.next (.ite
      (.after (State.answerCompl_within _ _ _ _) rfl (.set_dev (fun h => ⟨h.hops, h.tries, h.throt, h.pwr, h.pwrNew, h.cool⟩) rfl
      (.refl _ _))) (.after (State.enterTok_within _ _) rfl (.set_dev (fun h => ⟨h.hops, h.tries, h.throt, h.pwr, h.pwrNew, h.cool⟩) rfl
      (.refl _ _)))))

theorem execE2eTimeout_answers (xid : Word64) (s : State) : Answers (mayChange (.e2eTimeout xid)) s (execE2eTimeout xid s) := by
  unfold execE2eTimeout
  split
  · exact .stay
  · exact .ite (.next (.widen (State.peerLost_within _ _) rfl)) (.next (.foldl (fun u x => .widen (State.originate_within _ _) rfl)
      (.widen (State.modTransfer_within _ _ _) rfl)))

/-! ### The commands of Machine/Links -/

theorem execLinkTrainComplete_answers (n : Fin 64) (signal : Bool) (pass : BitVec 4) (s : State) :
    Answers (mayChange (.linkTrainComplete n signal pass)) s (execLinkTrainComplete n signal pass s) :=
  .ite .stay (.ite (.next (.after (State.linkStop_within _ _ _ _) rfl (.widen (State.setLink_within _ _ _) rfl))) (.ite (.next
    (.after (State.linkStop_within _ _ _ _) rfl (.widen (State.setLink_within _ _ _) rfl))) (.ite (.next
    (.after (State.linkStop_within _ _ _ _) rfl (.widen (State.setLink_within _ _ _) rfl))) (.next
    (.after (State.sendNonce_within _ _) rfl (.when (.after (State.drawn_within _) rfl (.widen (State.logErr_within _ _) rfl)) (.when
    (.widen (State.raise_within _ _ _) rfl) (.after (State.setLink_within _ _ _) rfl (.widen (State.setLink_within _ _ _) rfl)))))))))

theorem execLinkDownRetry_answers (n : Fin 64) (s : State) : Answers (mayChange (.linkDownRetry n)) s (execLinkDownRetry n s) :=
  .ite (.next (.widen (State.train_within _ _ _) rfl)) .stay

theorem execLaneLockLoss_answers (n : Fin 64) (lane : Fin 4) (s : State) :
    Answers (mayChange (.laneLockLoss n lane)) s (execLaneLockLoss n lane s) := by
  unfold execLaneLockLoss
  dsimp only
  split
  · exact .ite (.next (.after (State.setLink_within _ _ _) rfl (.ite (.widen (State.train_within _ _ _) rfl) (.refl _ _)))) .stay
  · exact .ite (.next (.after (State.setLink_within _ _ _) rfl (.ite (.widen (State.train_within _ _ _) rfl) (.refl _ _)))) .stay
  · exact .ite (.next (.after (State.setLink_within _ _ _) rfl (.ite (.widen (State.train_within _ _ _) rfl) (.refl _ _)))) .stay
  · exact .stay

theorem execReplayLimit_answers (n : Fin 64) (s : State) : Answers (mayChange (.replayLimit n)) s (execReplayLimit n s) := by
  unfold execReplayLimit
  split
  · exact .ite (.next (.widen (State.train_within _ _ _) rfl)) .stay
  · exact .stay

theorem execLinkEnable_answers (n : Fin 64) (val : Word32) (s : State) :
    Answers (mayChange (.linkEnable n val)) s (execLinkEnable n val s) :=
  .next (.widen (State.linkCtlWrite_within _ _ _) rfl)

theorem execLinkDisable_answers (n : Fin 64) (val : Word32) (s : State) :
    Answers (mayChange (.linkDisable n val)) s (execLinkDisable n val s) :=
  .next (.widen (State.linkCtlWrite_within _ _ _) rfl)

theorem execLinkRetrain_answers (n : Fin 64) (s : State) : Answers (mayChange (.linkRetrain n)) s (execLinkRetrain n s) :=
  .next (.widen (State.linkCtlWrite_within _ _ _) rfl)

theorem execLinkRoleWrite_answers (n : Fin 64) (val : Word32) (s : State) :
    Answers (mayChange (.linkRoleWrite n val)) s (execLinkRoleWrite n val s) :=
  .next (.widen (State.linkCtlWrite_within _ _ _) rfl)

theorem execIdent_answers (n : Fin 64) (i : IdentFlit) (s : State) : Answers (mayChange (.ident n i)) s (execIdent n i s) := by
  unfold execIdent
  refine .ite .stay ?_
  dsimp only
  split
  · exact .next (.foldl (fun u x => .widen (State.wirePut_within _ _ _) rfl) (.after (State.identBlock_within _ _) rfl
      (.after (State.setLink_within _ _ _) rfl (.widen (State.event_within _ _ _ _) rfl))))
  · exact .ite (.next (.after (State.identTaken_within _ _ _ _) rfl (.widen (State.event_within _ _ _ _) rfl))) (.next
      (.after (State.linkStop_within _ _ _ _) rfl (.widen (State.event_within _ _ _ _) rfl)))

theorem execRouteSet_answers (val : Word32) (s : State) : Answers (mayChange (.routeSet val)) s (execRouteSet val s) :=
  .next (.gate (fun _ => .widen (State.routeSetPut_within _ _) rfl) rfl (.refl _ _))

theorem execRouteSetComplete_answers (s : State) : Answers (mayChange (.routeSetComplete)) s (execRouteSetComplete s) := by
  unfold execRouteSetComplete
  split
  · exact .stay
  · exact .next (.set_dev (fun h => ⟨h.hops, h.tries, h.throt, h.pwr, h.pwrNew, h.cool⟩) rfl (.refl _ _))

theorem execDevIdWrite_answers (val : Word32) (s : State) : Answers (mayChange (.devIdWrite val)) s (execDevIdWrite val s) :=
  .next (.gate (fun _ => .widen (State.devIdPut_within _ _) rfl) rfl (.refl _ _))

/-! ### The commands of Machine/StreamMove -/

theorem execMove_answers (e : Fin 64) (n : Fin 4) (s : State) : Answers (mayChange (.move e n)) s (execMove e n s) := by
  unfold execMove
  refine .next (.ringsSeen rfl (.slotStep (fun u => .ite
    (.when (.after (State.dropEnt_within _ _ _) rfl (.widen (State.setSlotOf_within _ _ _ _) rfl))
      (.ite ?_ (.widen (State.setSlotOf_within _ _ _ _) rfl)))
    (.after (State.moveGo_within _ _ _ _) rfl (.ite ?_ (.widen (State.setSlotOf_within _ _ _ _) rfl)))) rfl (.refl _ _)))
  all_goals
    split
    · exact .after (State.setSlotOf_within _ _ _ _) rfl (.of_pair ‹_› (.widen (State.moveCheck_within _ _ _) rfl))
    · exact .after (State.slotFail_within _ _ _ _ _ _) rfl
        (.after (State.setSlotOf_within _ _ _ _) rfl (.of_pair ‹_› (.widen (State.moveCheck_within _ _ _) rfl)))

theorem execSlotGateResume_answers (e : Fin 64) (n : Fin 4) (s : State) :
    Answers (mayChange (.slotGateResume e n)) s (execSlotGateResume e n s) := by
  unfold execSlotGateResume
  refine .ite .stay ?_
  split
  · exact .stay
  · exact .next (.after (State.setSlotOf_within _ _ _ _) rfl (.widen (State.setEng_within _ _ _) rfl))

theorem execEmit_answers (e : Fin 64) (n : Fin 4) (s : State) : Answers (mayChange (.emit e n)) s (execEmit e n s) := by
  unfold execEmit
  dsimp only
  split
  · exact .ite (.next (.after (State.slotDone_within _ _ _) rfl (.after (State.setSlotOf_within _ _ _ _) rfl
      (.widen (State.setEng_within _ _ _) rfl)))) .stay
  · exact .next (.slotStep (fun u => .ite (.refl _ _) (.after (State.slotDone_within _ _ _) rfl
      (.after (State.emitToks_within _ _ _ _ _) rfl (.after (State.setSlotOf_within _ _ _ _) rfl (.ite
      (.widen (State.slotFail_within _ _ _ _ _ _) rfl) (.refl _ _)))))) rfl (.refl _ _))

theorem execSqz_answers (e : Fin 64) (n : Fin 4) (s : State) : Answers (mayChange (.sqz e n)) s (execSqz e n s) := by
  unfold execSqz
  refine .next (.slotStep (fun u => .ite (.widen (State.sqzDone_within _ _ _) rfl) (.ite (.refl _ _) ?_)) rfl (.refl _ _))
  split
  · refine .ite ?_ ?_
    · split
      · exact .widen (State.sqzMatrix_within _ _ _ _ _ _) rfl
      · exact .refl _ _
    · split
      · exact .widen (State.sqzBody_within _ _ _ _ _ _ _) rfl
      · exact .refl _ _
  · refine .ite ?_ ?_
    · split
      · exact .after (State.sqzMatrix_within _ _ _ _ _ _) rfl (.after (State.setSlotOf_within _ _ _ _) rfl (.of_pair ‹_›
          (.widen (State.sqzTrans_within _ _ _) rfl)))
      · exact .of_pair ‹_› (.widen (State.sqzTrans_within _ _ _) rfl)
    · split
      · exact .after (State.sqzBody_within _ _ _ _ _ _ _) rfl (.after (State.setXfer_within _ _ _ _) rfl (.of_pair ‹_›
          (.widen (State.sqzConvert_within _ _ _) rfl)))
      · exact .of_pair ‹_› (.widen (State.sqzConvert_within _ _ _) rfl)

theorem execEntResume_answers (e : Fin 64) (x : Fin 4) (s : State) : Answers (mayChange (.entResume e x)) s (execEntResume e x s) :=
  .next (.gate (fun _ => .widen (State.entCtl_within _ _ _ _) rfl) rfl (.refl _ _))

theorem execEntAbort_answers (e : Fin 64) (x : Fin 4) (s : State) : Answers (mayChange (.entAbort e x)) s (execEntAbort e x s) :=
  .next (.gate (fun _ => .widen (State.entCtl_within _ _ _ _) rfl) rfl (.refl _ _))

/-! ### The commands of Machine/ChainOps -/

theorem execChainSet_answers (n : Fin 32) (s : State) : Answers (mayChange (.chainSet n)) s (execChainSet n s) :=
  .next (.gate (fun _ => .widen (State.chainSet_within _ _) rfl) rfl (.refl _ _))

theorem execChainClr_answers (n : Fin 32) (s : State) : Answers (mayChange (.chainClr n)) s (execChainClr n s) :=
  .next (.gate (fun _ => .widen (State.chainClr_within _ _) rfl) rfl (.refl _ _))

theorem execChainDrainComplete_answers (n : Fin 32) (s : State) :
    Answers (mayChange (.chainDrainComplete n)) s (execChainDrainComplete n s) :=
  .ite .stay (.next (.set_dev (fun h => ⟨h.hops, h.tries, h.throt, h.pwr, h.pwrNew, h.cool⟩) rfl (.refl _ _)))

/-! ### The commands of Machine/Memory -/

theorem execHandleWrite_answers (port : Fin 2) (fn : Fin 64) (e : Fin 64) (h : Fin 64) (val : Word64) (s : State) :
    Answers (mayChange (.handleWrite port fn e h val)) s (execHandleWrite port fn e h val s) :=
  .ite (.next (.widen (State.waitFill_within _ _) rfl)) (.next (.gate (fun _ => .widen (State.handlePut_within _ _ _ _ _ _) rfl) rfl
    (.refl _ _)))

theorem execTlbInv_answers (val : Word64) (s : State) : Answers (mayChange (.tlbInv val)) s (execTlbInv val s) :=
  .next (.gate (fun _ => .widen (State.tlbInvPut_within _ _) rfl) rfl (.refl _ _))

theorem execTlbInvComplete_answers (s : State) : Answers (mayChange (.tlbInvComplete)) s (execTlbInvComplete s) := by
  unfold execTlbInvComplete
  split
  · exact .stay
  · exact .next (.after (State.dropTlb_within _ _) rfl (.set_dev (fun h => ⟨h.hops, h.tries, h.throt, h.pwr, h.pwrNew, h.cool⟩) rfl
      (.refl _ _)))

theorem execPinDeclare_answers (n : Fin 8) (pc : Fin 64) (sym : Fin 36) (s : State) :
    Answers (mayChange (.pinDeclare n pc sym)) s (execPinDeclare n pc sym s) :=
  .ite .stay (.next (.after (State.drawn_within _) rfl (.after (State.logErr_within _ _) rfl (.widen (State.setHbmc_within _ _ _) rfl))))

theorem execPatrolScrub_answers (n : Fin 8) (cw : Nat) (errs : List (Fin 36)) (s : State) :
    Answers (mayChange (.patrolScrub n cw errs)) s (execPatrolScrub n cw errs s) :=
  .ite .stay (.next (.when (.widen (State.foundUe_within _ _) rfl) (.after (State.codeRead_within _ _ _) rfl
    (.after (State.hbmTraffic_within _ _ _ _) rfl (.widen (State.event_within _ _ _ _) rfl)))))

theorem execStackFail_answers (n : Fin 8) (s : State) : Answers (mayChange (.stackFail n)) s (execStackFail n s) :=
  .ite .stay (.next (.after (State.copyLost_within _ _) rfl (.after (State.drawn_within _) rfl (.after (State.logErr_within _ _) rfl
    (.widen (State.setHbmc_within _ _ _) rfl)))))

theorem execFlowRequest_answers (c : Fin 4) (r : FlowReq) (s : State) :
    Answers (mayChange (.flowRequest c r)) s (execFlowRequest c r s) := by
  unfold execFlowRequest
  refine .ite .stay ?_
  dsimp only
  split
  · exact .next (.after (State.devWrite_within _ _ _ _) rfl (.widen (State.codesRead_within _ _) rfl))
  · split
    · exact .next (.set_lastRead rfl (.of_pair ‹_› (.after (State.devRead_within _ _ _ _) rfl (.widen (State.codesRead_within _ _) rfl))))
    · exact .next (.set_lastRead rfl (.of_pair ‹_› (.after (State.devRead_within _ _ _ _) rfl (.widen (State.codesRead_within _ _) rfl))))

theorem execFlowFlush_answers (c : Fin 4) (val : Word32) (s : State) :
    Answers (mayChange (.flowFlush c val)) s (execFlowFlush c val s) :=
  .next (.gate (fun _ => .widen (State.flushPut_within _ _ _) rfl) rfl (.refl _ _))

theorem execFlowFlushComplete_answers (c : Fin 4) (s : State) :
    Answers (mayChange (.flowFlushComplete c)) s (execFlowFlushComplete c s) := by
  unfold execFlowFlushComplete
  dsimp only
  split
  · exact .stay
  · exact .next (.widen (State.flushRun_within _ _ _ _ _) rfl)

theorem execWindowOpen_answers (w : Fin 256) (s : State) : Answers (mayChange (.windowOpen w)) s (execWindowOpen w s) :=
  .next (.gate (fun _ => .widen (State.winOpen_within _ _) rfl) rfl (.refl _ _))

theorem execWindowClose_answers (w : Fin 256) (s : State) : Answers (mayChange (.windowClose w)) s (execWindowClose w s) :=
  .next (.gate (fun _ => .widen (State.winClose_within _ _) rfl) rfl (.refl _ _))

theorem execWindowCloseComplete_answers (w : Fin 256) (s : State) :
    Answers (mayChange (.windowCloseComplete w)) s (execWindowCloseComplete w s) := by
  unfold execWindowCloseComplete
  split
  · exact .ite (.next (.set_dev (fun h => ⟨h.hops, h.tries, h.throt, h.pwr, h.pwrNew, h.cool⟩) rfl (.refl _ _))) .stay
  · exact .stay

theorem execBar2Access_answers (port : Fin 2) (fn : Fin 64) (off len : Nat) (data : Option Bytes) (s : State) :
    Answers (mayChange (.bar2Access port fn off len data)) s (execBar2Access port fn off len data s) := by
  unfold execBar2Access
  refine .ite .stay ?_
  split
  · split
    · exact .next (.of_pair ‹_› (.widen (State.hostWrite_within _ _ _ _) rfl))
    · exact .next (.after (State.refuse_within _ _ _) rfl (.of_pair ‹_› (.widen (State.hostWrite_within _ _ _ _) rfl)))
  · split
    · exact .next (.set_lastRead rfl (.of_pair ‹_› (.widen (State.hostRead_within _ _ _ _) rfl)))
    · exact .next (.set_lastRead rfl (.after (State.refuse_within _ _ _) rfl (.of_pair ‹_› (.widen (State.hostRead_within _ _ _ _) rfl))))

/-! ### The commands of Machine/Messages -/

theorem execMessageDeliver_answers (ep : Fin 128) (ch : Fin 8) (s : State) :
    Answers (mayChange (.messageDeliver ep ch)) s (execMessageDeliver ep ch s) := by
  unfold execMessageDeliver
  dsimp only
  split
  · exact .next (.after (State.sendToken_within _ _ _) rfl (.widen (State.moveQueue_within _ _ _) rfl))
  · exact .ite (.next (.after (State.sendToken_within _ _ _) rfl (.widen (State.moveQueue_within _ _ _) rfl))) (.next
      (.after (State.routeRequest_within _ _ _ _) rfl (.after (State.sendToken_within _ _ _) rfl
      (.widen (State.moveQueue_within _ _ _) rfl))))

theorem execSendWaitExpire_answers (ep : Fin 128) (ch : Fin 8) (s : State) :
    Answers (mayChange (.sendWaitExpire ep ch)) s (execSendWaitExpire ep ch s) := by
  unfold execSendWaitExpire
  dsimp only
  split
  · exact .next (.ite (.widen (State.ktRetry_within _ _) rfl) (.refl _ _))
  · exact .next (.ite (.widen (State.routeRequest_within _ _ _ _) rfl) (.refl _ _))

theorem execOutboundSend_answers (e : Fin 64) (c : Fin 4) (s : State) :
    Answers (mayChange (.outboundSend e c)) s (execOutboundSend e c s) := by
  unfold execOutboundSend
  refine .ite .stay ?_
  split
  · exact .stay
  · exact .ite .stay (.ite (.next (.widen (State.devWrite_within _ _ _ _) rfl)) (.next (.widen (State.setMsg_within _ _ _) rfl)))

theorem execRingCiWrite_answers (ep : Fin 128) (q : Fin 8) (ci : Word64) (s : State) :
    Answers (mayChange (.ringCiWrite ep q ci)) s (execRingCiWrite ep q ci s) := by
  unfold execRingCiWrite
  refine .ite .stay ?_
  split
  · exact .stay
  · exact .ite (.next (.after (State.moveQueue_within _ _ _) rfl (.widen (State.devWrite_within _ _ _ _) rfl))) (.next
      (.after (State.stopRing_within _ _ _) rfl (.widen (State.devWrite_within _ _ _ _) rfl)))

theorem execMsgRingWrite_answers (port : Fin 2) (fn : Fin 64) (ep : Fin 128) (r : Fin 12) (val : Word64) (s : State) :
    Answers (mayChange (.msgRingWrite port fn ep r val)) s (execMsgRingWrite port fn ep r val s) :=
  .ite .stay (.next (.gate (fun _ => .widen (State.ringPutReg_within _ _ _ _) rfl) rfl (.refl _ _)))

theorem execRouteEntryWrite_answers (port : Fin 2) (fn : Fin 64) (ep : Fin 128) (n : Fin 64) (val : Word64) (s : State) :
    Answers (mayChange (.routeEntryWrite port fn ep n val)) s (execRouteEntryWrite port fn ep n val s) :=
  .ite .stay (.next (.gate (fun _ => .widen (State.routeEntryPut_within _ _ _ _) rfl) rfl (.refl _ _)))

/-! ### The commands of Machine/Vector -/

theorem execVnop_answers (g : Fin 16) (s : State) : Answers (mayChange (.vnop g)) s (execVnop g s) :=
  .next (.vecRun (fun _ _ _ => .refl _ _) rfl (.refl _ _))

theorem execVret_answers (g : Fin 16) (s : State) : Answers (mayChange (.vret g)) s (execVret g s) :=
  .next (.vecRun (fun _ _ _ => .refl _ _) rfl (.refl _ _))

theorem execVsi_answers (g : Fin 16) (s : State) : Answers (mayChange (.vsi g)) s (execVsi g s) :=
  .next (.vecRun (fun _ _ _ => .widen (State.vecReg_within _ _ _) rfl) rfl (.refl _ _))

theorem execVsadd_answers (g : Fin 16) (s : State) : Answers (mayChange (.vsadd g)) s (execVsadd g s) :=
  .next (.vecRun (fun _ _ _ => .widen (State.vecReg_within _ _ _) rfl) rfl (.refl _ _))

theorem execVbnz_answers (g : Fin 16) (s : State) : Answers (mayChange (.vbnz g)) s (execVbnz g s) :=
  .next (.vecRun (fun _ _ _ => .widen (State.setVec_within _ _ _) rfl) rfl (.refl _ _))

theorem execVsetvl_answers (g : Fin 16) (s : State) : Answers (mayChange (.vsetvl g)) s (execVsetvl g s) :=
  .next (.vecRun (fun _ _ _ => .widen (State.vecReg_within _ _ _) rfl) rfl (.refl _ _))

theorem execVsetq_answers (g : Fin 16) (s : State) : Answers (mayChange (.vsetq g)) s (execVsetq g s) :=
  .next (.vecRun (fun _ _ _ => .widen (State.vecReg_within _ _ _) rfl) rfl (.refl _ _))

theorem execVadd_answers (g : Fin 16) (s : State) : Answers (mayChange (.vadd g)) s (execVadd g s) :=
  .next (.widen (State.vecModular_within _ _ _ _ _) rfl)

theorem execVsub_answers (g : Fin 16) (s : State) : Answers (mayChange (.vsub g)) s (execVsub g s) :=
  .next (.widen (State.vecModular_within _ _ _ _ _) rfl)

theorem execVmul_answers (g : Fin 16) (s : State) : Answers (mayChange (.vmul g)) s (execVmul g s) :=
  .next (.widen (State.vecModular_within _ _ _ _ _) rfl)

theorem execVmac_answers (g : Fin 16) (s : State) : Answers (mayChange (.vmac g)) s (execVmac g s) :=
  .next (.widen (State.vecModular_within _ _ _ _ _) rfl)

theorem execVneg_answers (g : Fin 16) (s : State) : Answers (mayChange (.vneg g)) s (execVneg g s) :=
  .next (.widen (State.vecModular_within _ _ _ _ _) rfl)

theorem execVcmp_answers (g : Fin 16) (s : State) : Answers (mayChange (.vcmp g)) s (execVcmp g s) := by
  unfold execVcmp
  refine .next (.vecRun (fun u r w => ?_) rfl (.refl _ _))
  dsimp only
  split
  · exact .refl _ _
  · exact .refl _ _
  · exact .widen (State.vecReg_within _ _ _) rfl

theorem execVsel_answers (g : Fin 16) (s : State) : Answers (mayChange (.vsel g)) s (execVsel g s) := by
  unfold execVsel
  refine .next (.vecRun (fun u r w => ?_) rfl (.refl _ _))
  dsimp only
  split
  · exact .refl _ _
  · exact .refl _ _
  · exact .refl _ _
  · dsimp only
    exact .widen (State.vecOut_within _ _ _ _ _ _) rfl

theorem execVmkld_answers (g : Fin 16) (s : State) : Answers (mayChange (.vmkld g)) s (execVmkld g s) := by
  unfold execVmkld
  refine .next (.vecRun (fun u r w => ?_) rfl (.refl _ _))
  dsimp only
  split
  · exact .refl _ _
  · exact .widen (State.setVec_within _ _ _) rfl

theorem execVmkst_answers (g : Fin 16) (s : State) : Answers (mayChange (.vmkst g)) s (execVmkst g s) := by
  unfold execVmkst
  refine .next (.vecRun (fun u r w => ?_) rfl (.refl _ _))
  dsimp only
  split
  · exact .refl _ _
  · dsimp only
    exact .ringsSeen rfl (.widen (State.devWrite_within _ _ _ _) rfl)

theorem execVdig_answers (g : Fin 16) (s : State) : Answers (mayChange (.vdig g)) s (execVdig g s) := by
  unfold execVdig
  refine .next (.vecRun (fun u r w => .ite_fst (.refl _ _) (.ite_fst (.refl _ _) ?_)) rfl (.refl _ _))
  split
  · exact .refl _ _
  · exact .refl _ _
  · dsimp only
    exact .foldl (fun u x => .widen (State.vecOut_within _ _ _ _ _ _) rfl) (.refl _ _)

theorem execVrsh_answers (g : Fin 16) (s : State) : Answers (mayChange (.vrsh g)) s (execVrsh g s) := by
  unfold execVrsh
  refine .next (.vecRun (fun u r w => .ite_fst (.refl _ _) ?_) rfl (.refl _ _))
  split
  · exact .refl _ _
  · exact .refl _ _
  · dsimp only
    exact .widen (State.vecOut_within _ _ _ _ _ _) rfl

theorem execVscan_answers (g : Fin 16) (s : State) : Answers (mayChange (.vscan g)) s (execVscan g s) := by
  unfold execVscan
  refine .next (.vecRun (fun u r w => .ite_fst (.refl _ _) ?_) rfl (.refl _ _))
  split
  · exact .refl _ _
  · exact .refl _ _
  · dsimp only
    exact .widen (State.vecOut_within _ _ _ _ _ _) rfl

theorem execVmv_answers (g : Fin 16) (s : State) : Answers (mayChange (.vmv g)) s (execVmv g s) := by
  unfold execVmv
  refine .next (.vecRun (fun u r w => .ite_fst (.refl _ _) ?_) rfl (.refl _ _))
  split
  · exact .refl _ _
  · exact .refl _ _
  · dsimp only
    split
    · exact .refl _ _
    · split
      · exact .of_pair ‹_› (.ite_fst (.refl _ _) (.widen (State.vecRows_within _ _ _ _ _ _ _ _ _) rfl))
      · dsimp only
        exact .foldl (fun u x => .widen (State.vecOut_within _ _ _ _ _ _) rfl) (.of_pair ‹_› (.ite_fst (.refl _ _)
          (.widen (State.vecRows_within _ _ _ _ _ _ _ _ _) rfl)))

theorem execVld_answers (g : Fin 16) (s : State) : Answers (mayChange (.vld g)) s (execVld g s) := by
  unfold execVld
  refine .next (.vecRun (fun u r w => ?_) rfl (.refl _ _))
  dsimp only
  split
  · exact .refl _ _
  · dsimp only
    exact .after (State.vecOut_within _ _ _ _ _ _) rfl (.widen (State.vecRead_within _ _ _ _ _ _ _) rfl)

theorem execVst_answers (g : Fin 16) (s : State) : Answers (mayChange (.vst g)) s (execVst g s) := by
  unfold execVst
  refine .next (.vecRun (fun u r w => ?_) rfl (.refl _ _))
  dsimp only
  split
  · exact .refl _ _
  · refine .ite_fst ?_ ?_
    · split
      · exact .refl _ _
      · split
        · exact .of_pair ‹_› (.widen (State.vecStore_within _ _ _ _ _ _ _ _) rfl)
        · exact .of_pair ‹_› (.widen (State.vecStore_within _ _ _ _ _ _ _ _) rfl)
    · split
      · exact .refl _ _
      · dsimp only
        exact .widen (State.vecOut_within _ _ _ _ _ _) rfl

theorem execVecDispatch_answers (g : Fin 16) (s : State) : Answers (mayChange (.vecDispatch g)) s (execVecDispatch g s) := by
  unfold execVecDispatch
  refine .ite .stay ?_
  split
  · exact .stay
  · split
    · exact .stay
    · exact .next (.after (State.vecTake_within _ _ _ _) rfl (.widen (State.msgPop_within _ _ _) rfl))

theorem execVecHandlerTimeout_answers (g : Fin 16) (s : State) :
    Answers (mayChange (.vecHandlerTimeout g)) s (execVecHandlerTimeout g s) := by
  unfold execVecHandlerTimeout
  split
  · exact .stay
  · exact .ite .stay (.next (.widen (State.vecFault_within _ _ _ _ _ _) rfl))

/-! ### The commands of Machine/HelperOps -/

theorem execHelperTenantWrite_answers (h : Fin 32) (val : Word32) (s : State) :
    Answers (mayChange (.helperTenantWrite h val)) s (execHelperTenantWrite h val s) :=
  .next (.gate (fun _ => .widen (State.helperTenantPut_within _ _ _) rfl) rfl (.refl _ _))

theorem execHelperRunWrite_answers (h : Fin 32) (val : Word32) (s : State) :
    Answers (mayChange (.helperRunWrite h val)) s (execHelperRunWrite h val s) :=
  .next (.gate (fun _ => .widen (State.helperCtl_within _ _ _) rfl) rfl (.refl _ _))

theorem execKsend_answers (h : Fin 32) (rd rs1 rs2 : Fin 32) (queue : Fin 4) (reply : Bool) (s : State) :
    Answers (mayChange (.ksend h rd rs1 rs2 queue reply)) s (execKsend h rd rs1 rs2 queue reply s) :=
  .next (.ite (.widen (State.ksend_within _ _ _ _ _ _ _) rfl) (.refl _ _))

theorem execKrecv_answers (h : Fin 32) (rd rs1 : Fin 32) (queue : Fin 4) (reply : Bool) (s : State) :
    Answers (mayChange (.krecv h rd rs1 queue reply)) s (execKrecv h rd rs1 queue reply s) :=
  .next (.ite (.widen (State.krecv_within _ _ _ _ _) rfl) (.refl _ _))

theorem execKtemit_answers (h : Fin 32) (rd rs1 rs2 : Fin 32) (s : State) :
    Answers (mayChange (.ktemit h rd rs1 rs2)) s (execKtemit h rd rs1 rs2 s) :=
  .next (.ite (.widen (State.ktRetry_within _ _) rfl) (.ite (.widen (State.ktemit_within _ _ _ _ _) rfl) (.refl _ _)))

theorem execKhret_answers (h : Fin 32) (s : State) : Answers (mayChange (.khret h)) s (execKhret h s) :=
  .next (.ite (.widen (State.khret_within _ _) rfl) (.refl _ _))

theorem execHelperDispatch_answers (h : Fin 32) (s : State) : Answers (mayChange (.helperDispatch h)) s (execHelperDispatch h s) :=
  .next (.widen (State.helperDispatch_within _ _) rfl)

theorem execKmhostWrite_answers (h : Fin 32) (val : Word64) (s : State) :
    Answers (mayChange (.kmhostWrite h val)) s (execKmhostWrite h val s) :=
  .next (.ite (.after (State.helperDone_within _ _ _ _ _) rfl (.widen (State.kmhost_within _ _ _) rfl)) (.refl _ _))

/-! ### The commands of Machine/HostOps -/

theorem execSqDoorbell_answers (port : Fin 2) (fn : Fin 64) (n : Fin 16) (tail : Word32) (s : State) :
    Answers (mayChange (.sqDoorbell port fn n tail)) s (execSqDoorbell port fn n tail s) :=
  .ite .stay (.ite (.next (.widen (State.refuse_within _ _ _) rfl)) (.next (.widen (State.putSq_within _ _ _ _ _) rfl)))

theorem execCqDoorbell_answers (port : Fin 2) (fn : Fin 64) (n : Fin 16) (head : Word32) (s : State) :
    Answers (mayChange (.cqDoorbell port fn n head)) s (execCqDoorbell port fn n head s) :=
  .ite .stay (.ite (.next (.widen (State.refuse_within _ _ _) rfl)) (.next (.widen (State.putCq_within _ _ _ _ _) rfl)))

theorem execSqEnWrite_answers (port : Fin 2) (fn : Fin 64) (n : Fin 16) (val : Word32) (s : State) :
    Answers (mayChange (.sqEnWrite port fn n val)) s (execSqEnWrite port fn n val s) :=
  .next (.gate (fun _ => .widen (State.sqCtl_within _ _ _ _ _) rfl) rfl (.refl _ _))

theorem execCqEnWrite_answers (port : Fin 2) (fn : Fin 64) (n : Fin 16) (val : Word32) (s : State) :
    Answers (mayChange (.cqEnWrite port fn n val)) s (execCqEnWrite port fn n val s) :=
  .next (.gate (fun _ => .widen (State.cqCtl_within _ _ _ _ _) rfl) rfl (.refl _ _))

theorem execRun_answers (port : Fin 2) (fn : Fin 64) (n : Fin 16) (entry : BitVec 512) (s : State) :
    Answers (mayChange (.run port fn n entry)) s (execRun port fn n entry s) :=
  .ite (.next (.widen (State.takeEntry_within _ _ _ _ _) rfl)) .stay

theorem execMark_answers (port : Fin 2) (fn : Fin 64) (n : Fin 16) (entry : BitVec 512) (s : State) :
    Answers (mayChange (.mark port fn n entry)) s (execMark port fn n entry s) :=
  .ite (.next (.widen (State.takeEntry_within _ _ _ _ _) rfl)) .stay

theorem execCommandAccept_answers (slot : Fin 8192) (s : State) :
    Answers (mayChange (.commandAccept slot)) s (execCommandAccept slot s) := by
  unfold execCommandAccept
  split
  · exact .stay
  · exact .next (.when (.widen (State.moveRings_within _ _) rfl) (.unless (.after (State.uncorrectedRecord_within _ _) rfl
      (.widen (State.event_within _ _ _ _) rfl)) (.unless (.widen (State.event_within _ _ _ _) rfl)
      (.after (State.event_within _ _ _ _) rfl (.unless (.widen (State.hostPut_within _ _ _ _ _) rfl)
      (.after (State.putSq_within _ _ _ _ _) rfl (.after (State.putSlot_within _ _ _) rfl (.set_journal rfl (.refl _ _)))))))))

theorem execAcceptanceNotice_answers (slot : Fin 8192) (s : State) :
    Answers (mayChange (.acceptanceNotice slot)) s (execAcceptanceNotice slot s) :=
  .ite .stay (.ite (.next (.after (State.putSlot_within _ _ _) rfl (.widen (State.setGal_within _ _ _) rfl))) (.next
    (.after (State.putSlot_within _ _ _) rfl (.widen (State.setGal_within _ _ _) rfl))))

theorem execCommandDispatch_answers (slot : Fin 8192) (s : State) :
    Answers (mayChange (.commandDispatch slot)) s (execCommandDispatch slot s) := by
  unfold execCommandDispatch
  refine .ite .stay ?_
  split
  · exact .next (.set_journal rfl (.of_pair ‹_› (.widen (State.launchBlock_within _ _) rfl)))
  · split
    · exact .stay
    · exact .next (.foldl (fun u x => .widen (State.setUpEngine_within _ _ _ _ _ _ _) rfl) (.set_journal rfl
        (.after (State.putSlot_within _ _ _) rfl (.of_pair ‹_› (.widen (State.launchBlock_within _ _) rfl)))))

theorem execStartNotice_answers (slot : Fin 8192) (s : State) : Answers (mayChange (.startNotice slot)) s (execStartNotice slot s) := by
  unfold execStartNotice
  dsimp only
  split
  · exact .stay
  · exact .ite .stay (.next (.widen (State.setGal_within _ _ _) rfl))

theorem execCommitNotice_answers (slot : Fin 8192) (s : State) :
    Answers (mayChange (.commitNotice slot)) s (execCommitNotice slot s) :=
  .ite .stay (.next (.widen (State.setGal_within _ _ _) rfl))

theorem execCommandCommit_answers (slot : Fin 8192) (s : State) :
    Answers (mayChange (.commandCommit slot)) s (execCommandCommit slot s) := by
  unfold execCommandCommit
  refine .ite .stay ?_
  dsimp only
  split
  · exact .next (.after (State.drawn_within _) rfl (.widen (State.commitSlot_within _ _ _ _ _ _ _) rfl))
  · split
    · exact .next (.after (State.drawn_within _) rfl (.widen (State.commitSlot_within _ _ _ _ _ _ _) rfl))
    · exact .next (.after (State.drawn_within _) rfl (.widen (State.commitSlot_within _ _ _ _ _ _ _) rfl))

theorem execCompletionPost_answers (slot : Fin 8192) (hostOk : Bool) (s : State) :
    Answers (mayChange (.completionPost slot hostOk)) s (execCompletionPost slot hostOk s) :=
  .ite .stay (.ite .stay (.ite .stay (.ite (.next (.after (State.ringError_within _ _ _) rfl (.after (State.putCq_within _ _ _ _ _) rfl
    (.widen (State.putSlot_within _ _ _) rfl)))) (.next (.when (.widen (State.msixTo_within _ _ _ _) rfl)
    (.after (State.lostStop_within _ _ _ _) rfl (.after (State.slotPosted_within _ _) rfl (.after (State.putSq_within _ _ _ _ _) rfl
    (.after (State.putCq_within _ _ _ _ _) rfl (.after (State.hostPut_within _ _ _ _ _) rfl
    (.widen (State.putSlot_within _ _ _) rfl)))))))))))

theorem execJournalRestartScan_answers (s : State) : Answers (mayChange (.journalRestartScan)) s (execJournalRestartScan s) :=
  .ite .stay (.next (.set_journal rfl (.after (State.lostStops_within _) rfl (.each (fun _ _ => .widen (State.scanSlot_within _ _) rfl)
    (.foldl (fun _ _ => .widen (State.ringRestore_within _ _) rfl) (.refl _ _))))))

theorem execJournalEnable_answers (_port : Fin 2) (val : Word32) (s : State) :
    Answers (mayChange (.journalEnable _port val)) s (execJournalEnable _port val s) :=
  .next (.gate (fun _ => .widen (State.journalCtl_within _ _) rfl) rfl (.refl _ _))

theorem execJournalTakeover_answers (port : Fin 2) (val : Word32) (s : State) :
    Answers (mayChange (.journalTakeover port val)) s (execJournalTakeover port val s) :=
  .next (.gate (fun _ => .widen (State.takeoverPut_within _ _ _) rfl) rfl (.refl _ _))

theorem execFailoverTimeout_answers (port : Fin 2) (s : State) :
    Answers (mayChange (.failoverTimeout port)) s (execFailoverTimeout port s) :=
  .ite .stay (.next (.after (State.takeover_within _ _) rfl (.widen (State.setPort_within _ _ _) rfl)))

theorem execPcieLinkDown_answers (port : Fin 2) (s : State) : Answers (mayChange (.pcieLinkDown port)) s (execPcieLinkDown port s) :=
  .ite .stay (.next (.widen (State.setPort_within _ _ _) rfl))

theorem execJournalQuery_answers (val : Word32) (s : State) : Answers (mayChange (.journalQuery val)) s (execJournalQuery val s) :=
  .next (.gate (fun _ => .widen (State.qringPut_within _ _) rfl) rfl (.refl _ _))

theorem execFlr_answers (port : Fin 2) (fn : Fin 64) (s : State) : Answers (mayChange (.flr port fn)) s (execFlr port fn s) :=
  .next (.each (fun _ _ => .after (State.putCq_within _ _ _ _ _) rfl (.after (State.putSq_within _ _ _ _ _) rfl
    (.widen (State.stalePend_within _ _ _ _) rfl))) (.refl _ _))

theorem execDeadlineExpire_answers (slot : Fin 8192) (s : State) :
    Answers (mayChange (.deadlineExpire slot)) s (execDeadlineExpire slot s) :=
  .ite .stay (.next (.after (State.lateRecord_within _ _) rfl (.widen (State.putSlot_within _ _ _) rfl)))

theorem execCmdAbort_answers (c : Ctl) (val : Word64) (s : State) : Answers (mayChange (.cmdAbort c val)) s (execCmdAbort c val s) :=
  .next (.gate (fun _ => .widen (State.cmdAbort_within _ _ _) rfl) rfl (.refl _ _))

theorem execResolveKeepA_answers (port : Fin 2) (ring : Bool) (item : Fin 8192) (s : State) :
    Answers (mayChange (.resolveKeepA port ring item)) s (execResolveKeepA port ring item s) :=
  .next (.gate (fun _ => .resolveItem (fun _ _ => .widen (State.keepCopy_within _ _ _) rfl) rfl (.refl _ _)) rfl (.refl _ _))

theorem execResolveKeepB_answers (port : Fin 2) (ring : Bool) (item : Fin 8192) (s : State) :
    Answers (mayChange (.resolveKeepB port ring item)) s (execResolveKeepB port ring item s) :=
  .next (.gate (fun _ => .resolveItem (fun _ _ => .widen (State.keepCopy_within _ _ _) rfl) rfl (.refl _ _)) rfl (.refl _ _))

theorem execResolveDiscard_answers (port : Fin 2) (ring : Bool) (item : Fin 8192) (s : State) :
    Answers (mayChange (.resolveDiscard port ring item)) s (execResolveDiscard port ring item s) :=
  .next (.gate (fun _ => .resolveItem (fun _ _ => .widen (State.discardItem_within _ _) rfl) rfl (.refl _ _)) rfl (.refl _ _))

/-! ### The commands of Machine/Errors -/

theorem execEngineCheckFail_answers (e : Fin 64) (s : State) :
    Answers (mayChange (.engineCheckFail e)) s (execEngineCheckFail e s) :=
  .next (.widen (State.engineFail_within _ _) rfl)

theorem execHandshakeTimeout_answers (e : Fin 64) (s : State) :
    Answers (mayChange (.handshakeTimeout e)) s (execHandshakeTimeout e s) :=
  .next (.widen (State.engineFail_within _ _) rfl)

theorem execEngineSelftestEnd_answers (e : Fin 64) (pass : Bool) (s : State) :
    Answers (mayChange (.engineSelftestEnd e pass)) s (execEngineSelftestEnd e pass s) :=
  .ite .stay (.ite (.next (.after (State.engineNote_within _ _ _) rfl (.after (State.setEng_within _ _ _) rfl
    (.widen (State.setGal_within _ _ _) rfl)))) (.next (.after (State.engineNote_within _ _ _) rfl
    (.widen (State.setGal_within _ _ _) rfl))))

theorem execErrCntThreshold_answers (e : Fin 64) (s : State) :
    Answers (mayChange (.errCntThreshold e)) s (execErrCntThreshold e s) :=
  .ite .stay (.next (.after (State.engineNote_within _ _ _) rfl (.after (State.setEng_within _ _ _) rfl (.ite
    (.after (State.drawn_within _) rfl (.widen (State.countErrs_within _ _ _) rfl)) (.refl _ _)))))

theorem execEngRetest_answers (g : Fin 16) (val : Word32) (s : State) :
    Answers (mayChange (.engRetest g val)) s (execEngRetest g val s) :=
  .next (.inner (fun _ => .widen (State.engRetestPut_within _ _ _) rfl) rfl (.refl _ _))

theorem execHeartbeat_answers (c : Ctl) (epoch : Word64) (holds : Bool) (s : State) :
    Answers (mayChange (.heartbeat c epoch holds)) s (execHeartbeat c epoch holds s) :=
  .ite .stay (.ite (.next (.widen (State.bootBeat_within _ _) rfl)) (.next (.when (.widen (State.claimCheck_within _ _ _) rfl)
    (.widen (State.setMgmt_within _ _ _) rfl))))

theorem execControllerLost_answers (c : Ctl) (s : State) : Answers (mayChange (.controllerLost c)) s (execControllerLost c s) :=
  .next (.widen (State.controllerLost_within _ _) rfl)

theorem execControllerFaultReport_answers (c : Ctl) (s : State) :
    Answers (mayChange (.controllerFaultReport c)) s (execControllerFaultReport c s) :=
  .next (.widen (State.controllerLost_within _ _) rfl)

theorem execMirrorReloadComplete_answers (c : Ctl) (s : State) :
    Answers (mayChange (.mirrorReloadComplete c)) s (execMirrorReloadComplete c s) :=
  .ite .stay (.next (.when (.widen (State.returnCaverns_within _ _) rfl) (.widen (State.setMgmt_within _ _ _) rfl)))

theorem execEpochResolve_answers (val : Word32) (s : State) : Answers (mayChange (.epochResolve val)) s (execEpochResolve val s) :=
  .next (.widen (State.epochResolvePut_within _ _) rfl)

/-! ### The commands of Machine/LieOps -/

theorem execModmul_answers (port : Fin 2) (a b m : Option (List Word64)) (s : State) :
    Answers (mayChange (.modmul port a b m)) s (execModmul port a b m s) :=
  .next (.lieStart (fun _ => .widen (State.goModmul_within _ _ _ _ _) rfl) rfl (.refl _ _))

theorem execModexp_answers (port : Fin 2) (a b m : Option (List Word64)) (s : State) :
    Answers (mayChange (.modexp port a b m)) s (execModexp port a b m s) :=
  .next (.lieStart (fun _ => .widen (State.goModexp_within _ _ _ _ _) rfl) rfl (.refl _ _))

theorem execEcmul_answers (port : Fin 2) (a b : Option (List Word64)) (s : State) :
    Answers (mayChange (.ecmul port a b)) s (execEcmul port a b s) :=
  .next (.lieStart (fun _ => .widen (State.goEcmul_within _ _ _ _) rfl) rfl (.refl _ _))

theorem execLieAbort_answers (s : State) : Answers (mayChange (.lieAbort)) s (execLieAbort s) :=
  .next (.gate (fun _ => .widen (State.lieAbortPut_within _) rfl) rfl (.refl _ _))

theorem execLieComplete_answers (hostOk : Bool) (s : State) :
    Answers (mayChange (.lieComplete hostOk)) s (execLieComplete hostOk s) := by
  unfold execLieComplete
  dsimp only
  split
  · exact .stay
  · exact .ite .stay (.ite (.next (.widen (State.lieDone_within _ _ _) rfl)) (.ite (.next (.widen (State.lieDone_within _ _ _) rfl))
      (.next (.after (State.lieDone_within _ _ _) rfl (.widen (State.hostPut_within _ _ _ _ _) rfl)))))

/-! ### The commands of Machine/GeodeOps -/

theorem execGetCerts_answers (r : MReq) (s : State) : Answers (mayChange (.getCerts r)) s (execGetCerts r s) :=
  .next (.request (fun _ => .ite (.widen (State.answer_within _ _ _ _) rfl) (.widen (State.respond_within _ _ _ _ _ _) rfl)) rfl
    (.refl _ _))

theorem execAttest_answers (r : MReq) (s : State) : Answers (mayChange (.attest r)) s (execAttest r s) :=
  .next (.request (fun _ => .ite (.widen (State.answer_within _ _ _ _) rfl) (.after (State.respond_within _ _ _ _ _ _) rfl
    (.set_geode rfl (.refl _ _)))) rfl (.refl _ _))

theorem execSessionOpen_answers (r : MReq) (s : State) : Answers (mayChange (.sessionOpen r)) s (execSessionOpen r s) :=
  .next (.request (fun _ => .ite (.widen (State.answer_within _ _ _ _) rfl) (.ite (.widen (State.answer_within _ _ _ _) rfl) (.ite
    (.refl _ _) (.widen (State.openSession_within _ _) rfl)))) rfl (.refl _ _))

theorem execSessionFinish_answers (r : MReq) (s : State) : Answers (mayChange (.sessionFinish r)) s (execSessionFinish r s) := by
  unfold execSessionFinish
  refine .next (.request (fun u => .ite (.widen (State.answer_within _ _ _ _) rfl) ?_) rfl (.refl _ _))
  split
  · exact .widen (State.answer_within _ _ _ _) rfl
  · refine .ite (.widen (State.answer_within _ _ _ _) rfl) (.ite (.refl _ _) ?_)
    split
    · exact .after (State.answer_within _ _ _ _) rfl (.after (State.finishLie_within _ _ _) rfl (.widen (State.setCtx_within _ _ _) rfl))
    · exact .after (State.respond_within _ _ _ _ _ _) rfl (.after (State.finishLie_within _ _ _) rfl
        (.widen (State.setCtx_within _ _ _) rfl))

theorem execSessionExpire_answers (tenant : Fin 1024) (s : State) :
    Answers (mayChange (.sessionExpire tenant)) s (execSessionExpire tenant s) :=
  .next (.widen (State.setCtx_within _ _ _) rfl)

theorem execCtxSet_answers (r : MReq) (s : State) : Answers (mayChange (.ctxSet r)) s (execCtxSet r s) :=
  .next (.request (fun _ => .ite (.widen (State.answer_within _ _ _ _) rfl) (.ite (.refl _ _) (.after (State.answer_within _ _ _ _) rfl
    (.widen (State.setCtx_within _ _ _) rfl)))) rfl (.refl _ _))

theorem execCtxDestroy_answers (r : MReq) (s : State) : Answers (mayChange (.ctxDestroy r)) s (execCtxDestroy r s) :=
  .next (.request (fun _ => .ite (.widen (State.answer_within _ _ _ _) rfl) (.ite (.refl _ _) (.ite
    (.after (State.destroyCtx_within _ _ _) rfl (.widen (State.setCtx_within _ _ _) rfl)) (.set_geode rfl
    (.after (State.holdReq_within _ _) rfl (.widen (State.setCtx_within _ _ _) rfl)))))) rfl (.refl _ _))

theorem execCtxQuery_answers (r : MReq) (s : State) : Answers (mayChange (.ctxQuery r)) s (execCtxQuery r s) :=
  .next (.request (fun _ => .ite (.widen (State.answer_within _ _ _ _) rfl) (.widen (State.respond_within _ _ _ _ _ _) rfl)) rfl
    (.refl _ _))

theorem execRollbackCommit_answers (r : MReq) (s : State) : Answers (mayChange (.rollbackCommit r)) s (execRollbackCommit r s) :=
  .next (.request (fun _ => .ite (.widen (State.answer_within _ _ _ _) rfl) (.after (State.answer_within _ _ _ _) rfl (.set_geode rfl
    (.refl _ _)))) rfl (.refl _ _))

theorem execFlashWrite_answers (r : MReq) (s : State) : Answers (mayChange (.flashWrite r)) s (execFlashWrite r s) :=
  .next (.request (fun _ => .ite (.widen (State.answer_within _ _ _ _) rfl) (.ite (.widen (State.answer_within _ _ _ _) rfl)
    (.after (State.answer_within _ _ _ _) rfl (.set_geode rfl (.refl _ _))))) rfl (.refl _ _))

theorem execOwnerSet_answers (r : MReq) (s : State) : Answers (mayChange (.ownerSet r)) s (execOwnerSet r s) :=
  .next (.request (fun _ => .ite (.widen (State.answer_within _ _ _ _) rfl) (.ite (.widen (State.answer_within _ _ _ _) rfl)
    (.after (State.answer_within _ _ _ _) rfl (.set_geode rfl (.refl _ _))))) rfl (.refl _ _))

theorem execDebugChallenge_answers (r : MReq) (s : State) : Answers (mayChange (.debugChallenge r)) s (execDebugChallenge r s) :=
  .next (.request (fun _ => .ite (.widen (State.answer_within _ _ _ _) rfl) (.after (State.respond_within _ _ _ _ _ _) rfl
    (.set_geode rfl (.set_geode rfl (.refl _ _))))) rfl (.refl _ _))

theorem execChallengeExpire_answers (s : State) : Answers (mayChange (.challengeExpire)) s (execChallengeExpire s) :=
  .next (.set_geode rfl (.refl _ _))

theorem execDebugUnlock_answers (r : MReq) (s : State) : Answers (mayChange (.debugUnlock r)) s (execDebugUnlock r s) :=
  .next (.request (fun _ => .ite (.widen (State.answer_within _ _ _ _) rfl) (.ite (.after (State.answer_within _ _ _ _) rfl
    (.set_geode rfl (.refl _ _))) (.ite (.after (State.answer_within _ _ _ _) rfl (.set_geode rfl (.refl _ _))) (.set_geode rfl
    (.after (State.holdReq_within _ _) rfl (.after (State.haltAll_within _) rfl (.set_geode rfl (.refl _ _)))))))) rfl (.refl _ _))

theorem execDoeRequest_answers (port : Fin 2) (r : DoeReq) (s : State) :
    Answers (mayChange (.doeRequest port r)) s (execDoeRequest port r s) := by
  unfold execDoeRequest
  refine .ite .stay ?_
  dsimp only
  split
  · exact .next (.after (State.setPort_within _ _ _) rfl (.set_geode rfl (.refl _ _)))
  · split
    · exact .next (.after (State.setPort_within _ _ _) rfl (.set_geode rfl (.refl _ _)))
    · exact .next (.after (State.setPort_within _ _ _) rfl (.set_geode rfl (.refl _ _)))

/-! ### The commands of Machine/Sideband -/

theorem execSetEndpointId_answers (eid : Byte) (s : State) : Answers (mayChange (.setEndpointId eid)) s (execSetEndpointId eid s) :=
  .next (.mctp (fun _ => .ite (.widen (State.control_within _ _ _ _) rfl) (.after (State.control_within _ _ _ _) rfl (.set_geode rfl
    (.refl _ _)))) rfl (.refl _ _))

theorem execGetEndpointId_answers (s : State) : Answers (mayChange (.getEndpointId)) s (execGetEndpointId s) :=
  .next (.mctp (fun _ => .widen (State.control_within _ _ _ _) rfl) rfl (.refl _ _))

theorem execGetEndpointUuid_answers (s : State) : Answers (mayChange (.getEndpointUuid)) s (execGetEndpointUuid s) :=
  .next (.mctp (fun _ => .widen (State.control_within _ _ _ _) rfl) rfl (.refl _ _))

theorem execGetMctpVersionSupport_answers (msgType : Byte) (s : State) :
    Answers (mayChange (.getMctpVersionSupport msgType)) s (execGetMctpVersionSupport msgType s) :=
  .next (.mctp (fun _ => .ite (.widen (State.control_within _ _ _ _) rfl) (.widen (State.control_within _ _ _ _) rfl)) rfl (.refl _ _))

theorem execGetMessageTypeSupport_answers (s : State) :
    Answers (mayChange (.getMessageTypeSupport)) s (execGetMessageTypeSupport s) :=
  .next (.mctp (fun _ => .widen (State.control_within _ _ _ _) rfl) rfl (.refl _ _))

theorem execGetVendorDefinedMessageSupport_answers (selector : Byte) (s : State) :
    Answers (mayChange (.getVendorDefinedMessageSupport selector)) s (execGetVendorDefinedMessageSupport selector s) :=
  .next (.mctp (fun _ => .ite (.widen (State.control_within _ _ _ _) rfl) (.widen (State.control_within _ _ _ _) rfl)) rfl (.refl _ _))

/-! ### The commands of Machine/TapOps -/

theorem execBypass_answers (s : State) : Answers (mayChange (.bypass)) s (execBypass s) :=
  .next (.widen (State.tapDo_within _ _) rfl)

theorem execIdcode_answers (s : State) : Answers (mayChange (.idcode)) s (execIdcode s) :=
  .next (.widen (State.tapDo_within _ _) rfl)

theorem execSamplePreload_answers (s : State) : Answers (mayChange (.samplePreload)) s (execSamplePreload s) :=
  .next (.ite (.refl _ _) (.after (State.drawn_within _) rfl (.widen (State.tapDo_within _ _) rfl)))

theorem execExtest_answers (s : State) : Answers (mayChange (.extest)) s (execExtest s) :=
  .next (.ite (.refl _ _) (.after (State.drawn_within _) rfl (.widen (State.boardTestDo_within _ _) rfl)))

theorem execTapClamp_answers (s : State) : Answers (mayChange (.tapClamp)) s (execTapClamp s) :=
  .next (.widen (State.boardTestDo_within _ _) rfl)

theorem execHighz_answers (s : State) : Answers (mayChange (.highz)) s (execHighz s) :=
  .next (.widen (State.boardTestDo_within _ _) rfl)

theorem execTapReset_answers (asserted : Bool) (s : State) : Answers (mayChange (.tapReset asserted)) s (execTapReset asserted s) :=
  .next (.set_tap rfl (.refl _ _))

/-! ### The commands of Machine/Blocks -/

theorem execBlockEnable_answers (page : Fin 16384) (s : State) :
    Answers (mayChange (.blockEnable page)) s (execBlockEnable page s) :=
  .next (.blkWrite (fun _ _ => .widen (State.enableBlock_within _ _) rfl) rfl (.refl _ _))

theorem execBlockDisable_answers (page : Fin 16384) (s : State) :
    Answers (mayChange (.blockDisable page)) s (execBlockDisable page s) :=
  .next (.blkWrite (fun _ _ => .widen (State.disableBlock_within _ _) rfl) rfl (.refl _ _))

theorem execBlockHalt_answers (page : Fin 16384) (halt : Bool) (s : State) :
    Answers (mayChange (.blockHalt page halt)) s (execBlockHalt page halt s) :=
  .next (.blkWrite (fun _ _ => .widen (State.haltBlock_within _ _ _) rfl) rfl (.refl _ _))

theorem execBlockStopComplete_answers (page : Fin 16384) (s : State) :
    Answers (mayChange (.blockStopComplete page)) s (execBlockStopComplete page s) := by
  unfold execBlockStopComplete
  split
  · exact .stay
  · exact .ite .stay (.next (.after (State.setHdr_within _ _ _) rfl (.widen (State.stopWork_within _ _) rfl)))

theorem execBlockStartComplete_answers (page : Fin 16384) (s : State) :
    Answers (mayChange (.blockStartComplete page)) s (execBlockStartComplete page s) := by
  unfold execBlockStartComplete
  split
  · exact .stay
  · exact .ite (.next (.widen (State.startBlock_within _ _ _) rfl)) (.ite .stay (.next (.widen (State.startDone_within _ _) rfl)))

theorem execBlockReset_answers (page : Fin 16384) (s : State) : Answers (mayChange (.blockReset page)) s (execBlockReset page s) :=
  .next (.blkWrite (fun _ _ => .widen (State.rstBlock_within _ _) rfl) rfl (.refl _ _))

/-! ### The commands of Machine/Power -/

theorem execSysRstAssert_answers (s : State) : Answers (mayChange (.sysRstAssert)) s (execSysRstAssert s) :=
  .ite .stay (.next (.ite (.set_pins rfl (.after (State.holdReset_within _) rfl (.widen (State.warmEntry_within _) rfl))) (.set_pins rfl
    (.refl _ _))))

theorem execSysRstRelease_answers (s : State) : Answers (mayChange (.sysRstRelease)) s (execSysRstRelease s) :=
  .ite .stay (.ite (.next (.set_pins rfl (.refl _ _))) (.next (.unless (.widen (State.regrant_within _) rfl)
    (.after (State.linksTrain_within _) rfl (.after (State.portsTrain_within _) rfl (.after (State.hbmTrain_within _) rfl
    (.after (State.islandsStart_within _) rfl (.when (.widen (State.unlockResume_within _) rfl) (.set_journal rfl (.set_pins rfl
    (.refl _ _)))))))))))

theorem execStandbyPowerUp_answers (s : State) : Answers (mayChange (.standbyPowerUp)) s (execStandbyPowerUp s) :=
  .ite .stay (.next (.after (State.darken_within _) rfl (.widen (State.coldState_within _ _ _) rfl)))

theorem execPwrgdRise_answers (testMode : Bool) (smbAddr : Fin 8) (s : State) :
    Answers (mayChange (.pwrgdRise testMode smbAddr)) s (execPwrgdRise testMode smbAddr s) := by
  unfold execPwrgdRise
  refine .ite .stay (.ite (.next (.after (State.darken_within _) rfl (.widen (State.coldState_within _ _ _) rfl))) ?_)
  split
  · exact .next (.after (State.darken_within _) rfl (.widen (State.coldState_within _ _ _) rfl))
  · exact .next (.ite (.after (State.portsTrain_within _) rfl (.after (State.dripsStart_within _) rfl
      (.widen (State.coldState_within _ _ _) rfl))) (.after (State.darken_within _) rfl (.widen (State.coldState_within _ _ _) rfl)))

theorem execBootHeartbeatTimeout_answers (s : State) : Answers (mayChange (.bootHeartbeatTimeout)) s (execBootHeartbeatTimeout s) :=
  .ite (.next (.widen (State.bootFails_within _) rfl)) .stay

theorem execPwrgdFall_answers (hbmGood : Bool) (s : State) : Answers (mayChange (.pwrgdFall hbmGood)) s (execPwrgdFall hbmGood s) :=
  .ite .stay (.next (.after (State.darken_within _) rfl (.after (State.coldState_within _ _ _) rfl (.ite
    (.widen (State.warmEntry_within _) rfl) (.refl _ _)))))

theorem execPerstAssert_answers (port : Fin 2) (s : State) : Answers (mayChange (.perstAssert port)) s (execPerstAssert port s) :=
  .ite .stay (.next (.widen (State.setPort_within _ _ _) rfl))

theorem execPerstRelease_answers (port : Fin 2) (s : State) : Answers (mayChange (.perstRelease port)) s (execPerstRelease port s) :=
  .ite .stay (.next (.when (.foldl (fun _ _ => .widen (State.ringRestore_within _ _) rfl) (.refl _ _))
    (.after (State.portTrain_within _ _ _ _) rfl (.set_fns rfl (.refl _ _)))))

theorem execReferenceClockLoss_answers (r : RefClk) (s : State) :
    Answers (mayChange (.referenceClockLoss r)) s (execReferenceClockLoss r s) := by
  cases r with
  | refclk p =>
    exact .ite (.next (.after (State.setPort_within _ _ _) rfl (.set_pins rfl (.refl _ _)))) (.next (.set_pins rfl (.refl _ _)))
  | lref =>
    refine .next (.each (fun u n => ?_) (.set_pins rfl (.refl _ _)))
    split
    · exact .refl _ _
    · exact .widen (State.setLink_within _ _ _) rfl
    · exact .widen (State.linkStop_within _ _ _ _) rfl
  | osc25m =>
    exact .ite (.next (.after (memoryLost_oscillator _ _ _ _ _) rfl (.widen (State.holdReset_within _) rfl)))
      (.next (.set_pins rfl (.refl _ _)))

theorem execReferenceClockRestore_answers (r : RefClk) (s : State) :
    Answers (mayChange (.referenceClockRestore r)) s (execReferenceClockRestore r s) :=
  .next (.set_pins rfl (.refl _ _))

theorem execPowerEvaluation_answers (watts w0 w1 w2 w3 : Nat) (s : State) :
    Answers (mayChange (.powerEvaluation watts w0 w1 w2 w3)) s (execPowerEvaluation watts w0 w1 w2 w3 s) :=
  .ite .stay (.next (.set_dev (fun h => ⟨h.hops, h.tries, h.throt, h.pwr, h.pwrNew, h.cool⟩) rfl (.after (State.evaluate_within _ _) rfl
    (.set_dev (fun h => ⟨h.hops, h.tries, h.throt, h.pwr, h.pwrNew, h.cool⟩) rfl (.refl _ _)))))

theorem execThrottleTempReached_answers (c : Fin 4) (temp : Word16) (s : State) :
    Answers (mayChange (.throttleTempReached c temp)) s (execThrottleTempReached c temp s) :=
  .next (.when (.widen (State.setCavern_within _ _ _) rfl) (.widen (State.setTemp_within _ _ _) rfl))

theorem execHbmTemp85_answers (n : Fin 8) (temp : Word16) (s : State) :
    Answers (mayChange (.hbmTemp85 n temp)) s (execHbmTemp85 n temp s) :=
  .next (.when (.widen (State.setHbmc_within _ _ _) rfl) (.widen (State.setHbmTemp_within _ _ _) rfl))

theorem execHbmTemp95_answers (n : Fin 8) (temp : Word16) (s : State) :
    Answers (mayChange (.hbmTemp95 n temp)) s (execHbmTemp95 n temp s) :=
  .next (.when (.after (State.setCavern_within _ _ _) rfl (.widen (State.setHbmc_within _ _ _) rfl))
    (.widen (State.setHbmTemp_within _ _ _) rfl))

theorem execCriticalTemp_answers (die : Fin 5) (temp : Word16) (s : State) :
    Answers (mayChange (.criticalTemp die temp)) s (execCriticalTemp die temp s) :=
  .next (.when (.after (State.coolAll_within _) rfl (.set_dev (fun h => ⟨h.hops, h.tries, h.throt, h.pwr, h.pwrNew, h.cool⟩) rfl
    (.refl _ _))) (.widen (State.setTemp_within _ _ _) rfl))

theorem execProchotAssert_answers (s : State) : Answers (mayChange (.prochotAssert)) s (execProchotAssert s) := by
  have h : Within (mayChange .prochotAssert) s
      { s with pins := { s.pins with prochotLow := true }, dev := { s.dev with prochot := true } } :=
    .set_dev (t := { s with pins := { s.pins with prochotLow := true } })
      (fun h => ⟨h.hops, h.tries, h.throt, h.pwr, h.pwrNew, h.cool⟩) rfl (.set_pins rfl (.refl _ _))
  exact .next (.ite (.after (State.coolAll_within _) rfl h) h)

theorem execProchotDeassert_answers (s : State) : Answers (mayChange (.prochotDeassert)) s (execProchotDeassert s) := by
  refine .next (.set_dev (t := { s with pins := { s.pins with prochotLow := false } }) (fun h => ?_) rfl (.set_pins rfl (.refl _ _)))
  refine ⟨h.hops, h.tries, h.throt, ?_, nofun, h.cool⟩
  show s.dev.pwrLimitNew.getD s.dev.pwrLimit = 0 ∨ _
  cases hnew : s.dev.pwrLimitNew with
  | none => exact h.pwr
  | some v => exact .inr (h.pwrNew v hnew)

theorem execThermalStep_answers (c : Fin 4) (s : State) : Answers (mayChange (.thermalStep c)) s (execThermalStep c s) :=
  .next (.ite (.widen (State.coolTo_within _ _ _) rfl) (.refl _ _))

theorem execThermalClear_answers (c : Fin 4) (s : State) : Answers (mayChange (.thermalClear c)) s (execThermalClear c s) :=
  .ite .stay (.next (.set_dev (fun h => ⟨h.hops, h.tries, h.throt, h.pwr, h.pwrNew, h.cool⟩) rfl (.unless
    (.widen (State.setHbmc_within _ _ _) rfl) (.unless (.widen (State.setHbmc_within _ _ _) rfl)
    (.widen (State.setCavern_within _ _ _) rfl)))))

theorem execThermtrip_answers (die : Fin 5) (temp : Word16) (s : State) :
    Answers (mayChange (.thermtrip die temp)) s (execThermtrip die temp s) :=
  have htemp : Within (mayChange (.thermtrip die temp)) s (s.setTemp die temp) := .widen (State.setTemp_within _ _ _) rfl
  .ite (.next htemp) (.next (.after (memoryLost_thermtrip _ _ _) rfl
    (.after (State.drawn_within _) rfl (.after (State.holdReset_within _) rfl htemp))))

/-! ### The commands of Machine/RegMap -/

theorem execRcRead_answers (port : Fin 2) (fn : Fin 64) (off size : Nat) (s : State) :
    Answers (mayChange (.rcRead port fn off size)) s (execRcRead port fn off size s) :=
  .ite .stay (.next (.widen (State.bar0Read_within _ _ _ _ _) rfl))

/-! ### The commands of Machine/Regs -/

theorem execHandleZeroFillDone_answers (e : Fin 64) (h : Fin 64) (s : State) :
    Answers (mayChange (.handleZeroFillDone e h)) s (execHandleZeroFillDone e h s) := by
  unfold execHandleZeroFillDone
  split
  · exact .stay
  · exact .next (.after (State.fillDrain_within _) rfl (.widen (State.handleTake_within _ _ _ _) rfl))

theorem execRegisterWrite_answers (a : Access) (s : State) : Answers (mayChange (.registerWrite a)) s (execRegisterWrite a s) :=
  .next (.widen (State.bar0Write_within _ _) rfl)

theorem execControlMessage_answers (g : Fin 16) (c : Ctl) (num : Word32) (wr : Access) (s : State) :
    Answers (mayChange (.controlMessage g c num wr)) s (execControlMessage g c num wr s) := by
  unfold execControlMessage
  refine .ite .stay ?_
  dsimp only
  split
  · exact .next (.unless (.widen (State.setMgmt_within _ _ _) rfl) (.widen (State.setGal_within _ _ _) rfl))
  · exact .next (.when (.bar0Put (fun u p => .refl _ _) rfl (.refl _ _)) (.unless (.widen (State.setMgmt_within _ _ _) rfl)
      (.widen (State.setGal_within _ _ _) rfl)))

theorem execTakeoverScanComplete_answers (s : State) : Answers (mayChange (.takeoverScanComplete)) s (execTakeoverScanComplete s) := by
  have h : Within (mayChange .takeoverScanComplete) s
      { s with geode := { s.geode with scan := false }, mgmtW := { s.mgmtW with held := [] }, mgmtE := { s.mgmtE with held := [] } } :=
    .set_mgmtE (t := { s with geode := { s.geode with scan := false }, mgmtW := { s.mgmtW with held := [] } }) rfl
      (.set_mgmtW (t := { s with geode := { s.geode with scan := false } }) rfl (.set_geode rfl (.refl _ _)))
  exact .ite .stay (.next (.foldl (fun u x => .widen (State.bar0Write_within _ _) rfl) h))

theorem execHelperFarAccess_answers (h : Fin 32) (addr : Word64) (size : Nat) (store : Option Word64) (rd : Fin 32) (signed short : Bool) (s : State) :
    Answers (mayChange (.helperFarAccess h addr size store rd signed short)) s (execHelperFarAccess h addr size store rd signed short s) :=
  .next (.ite (.widen (State.farAccess_within _ _ _ _ _ _ _ _) rfl) (.refl _ _))

/-! ### Every command, every step -/

/-- Every command answers with a next state that differs from the state only in what `mayChange` lists for it. -/
theorem exec_answers (c : Instr) (s : State) : Answers (mayChange c) s (exec c s) :=
  match c with
  | .registerWrite a => execRegisterWrite_answers a s
  | .controlMessage g c num wr => execControlMessage_answers g c num wr s
  | .acceptanceNotice slot => execAcceptanceNotice_answers slot s
  | .startNotice slot => execStartNotice_answers slot s
  | .commitNotice slot => execCommitNotice_answers slot s
  | .chainSet n => execChainSet_answers n s
  | .chainClr n => execChainClr_answers n s
  | .chainDrainComplete n => execChainDrainComplete_answers n s
  | .nop e => execNop_answers e s
  | .stop e => execStop_answers e s
  | .tcfg e => execTcfg_answers e s
  | .tld e => execTld_answers e s
  | .tst e => execTst_answers e s
  | .trel e => execTrel_answers e s
  | .madd e => execMadd_answers e s
  | .msub e => execMsub_answers e s
  | .mmul e => execMmul_answers e s
  | .mmac e => execMmac_answers e s
  | .mneg e => execMneg_answers e s
  | .ntt e => execNtt_answers e s
  | .intt e => execIntt_answers e s
  | .auto e => execAuto_answers e s
  | .bconv e => execBconv_answers e s
  | .modup e => execModup_answers e s
  | .moddn e => execModdn_answers e s
  | .resc e => execResc_answers e s
  | .ksw e => execKsw_answers e s
  | .ringTokenTake e => execRingTokenTake_answers e s
  | .dcmp e => execDcmp_answers e s
  | .extp e => execExtp_answers e s
  | .brot e => execBrot_answers e s
  | .sxtr e => execSxtr_answers e s
  | .kpack e => execKpack_answers e s
  | .msw e => execMsw_answers e s
  | .cnti e => execCnti_answers e s
  | .cntd e => execCntd_answers e s
  | .cmpb e => execCmpb_answers e s
  | .twait e => execTwait_answers e s
  | .temit e => execTemit_answers e s
  | .fence e => execFence_answers e s
  | .instructionRetire e => execInstructionRetire_answers e s
  | .transferComplete e x => execTransferComplete_answers e x s
  | .tileCfgWrite port fn e n val => execTileCfgWrite_answers port fn e n val s
  | .engineStart e val => execEngineStart_answers e val s
  | .engineSave e => execEngineSave_answers e s
  | .saveComplete e => execSaveComplete_answers e s
  | .engineRestore e => execEngineRestore_answers e s
  | .restoreComplete e => execRestoreComplete_answers e s
  | .stopCntWrite port fn e val => execStopCntWrite_answers port fn e val s
  | .engineStopped e => execEngineStopped_answers e s
  | .rndSeedWrite e val => execRndSeedWrite_answers e val s
  | .dbgWinRead port fn e off size => execDbgWinRead_answers port fn e off size s
  | .engineHalted e => execEngineHalted_answers e s
  | .hsigWrite port fn g val => execHsigWrite_answers port fn g val s
  | .slotStart e k => execSlotStart_answers e k s
  | .src e k => execSrc_answers e k s
  | .dst e k => execDst_answers e k s
  | .loop e k => execLoop_answers e k s
  | .clamp e k => execClamp_answers e k s
  | .xform e k => execXform_answers e k s
  | .move e k => execMove_answers e k s
  | .slotGateResume e k => execSlotGateResume_answers e k s
  | .emit e k => execEmit_answers e k s
  | .kfill e k => execKfill_answers e k s
  | .keyFillDeliver e k => execKeyFillDeliver_answers e k s
  | .fillTokenEmit e k => execFillTokenEmit_answers e k s
  | .nfill e k => execNfill_answers e k s
  | .sqz e k => execSqz_answers e k s
  | .entResume e x => execEntResume_answers e x s
  | .entAbort e x => execEntAbort_answers e x s
  | .dripSelftest g => execDripSelftest_answers g s
  | .dripSelftestEnd g failed => execDripSelftestEnd_answers g failed s
  | .dripCoreParityError g core => execDripCoreParityError_answers g core s
  | .dripCoreEnWrite g val => execDripCoreEnWrite_answers g val s
  | .handleWrite port fn e h val => execHandleWrite_answers port fn e h val s
  | .handleZeroFillDone e h => execHandleZeroFillDone_answers e h s
  | .tlbInv val => execTlbInv_answers val s
  | .tlbInvComplete => execTlbInvComplete_answers s
  | .flowRequest c r => execFlowRequest_answers c r s
  | .flowFlush c val => execFlowFlush_answers c val s
  | .flowFlushComplete c => execFlowFlushComplete_answers c s
  | .pinDeclare k pc sym => execPinDeclare_answers k pc sym s
  | .patrolScrub k cw errs => execPatrolScrub_answers k cw errs s
  | .stackFail k => execStackFail_answers k s
  | .windowOpen w => execWindowOpen_answers w s
  | .windowClose w => execWindowClose_answers w s
  | .windowCloseComplete w => execWindowCloseComplete_answers w s
  | .bar2Access port fn off len data => execBar2Access_answers port fn off len data s
  | .vnop g => execVnop_answers g s
  | .vret g => execVret_answers g s
  | .vsi g => execVsi_answers g s
  | .vsadd g => execVsadd_answers g s
  | .vbnz g => execVbnz_answers g s
  | .vsetvl g => execVsetvl_answers g s
  | .vsetq g => execVsetq_answers g s
  | .vadd g => execVadd_answers g s
  | .vsub g => execVsub_answers g s
  | .vmul g => execVmul_answers g s
  | .vmac g => execVmac_answers g s
  | .vneg g => execVneg_answers g s
  | .vcmp g => execVcmp_answers g s
  | .vsel g => execVsel_answers g s
  | .vmkld g => execVmkld_answers g s
  | .vmkst g => execVmkst_answers g s
  | .vdig g => execVdig_answers g s
  | .vrsh g => execVrsh_answers g s
  | .vscan g => execVscan_answers g s
  | .vmv g => execVmv_answers g s
  | .vld g => execVld_answers g s
  | .vst g => execVst_answers g s
  | .vecDispatch g => execVecDispatch_answers g s
  | .vecHandlerTimeout g => execVecHandlerTimeout_answers g s
  | .helperTenantWrite h val => execHelperTenantWrite_answers h val s
  | .helperRunWrite h val => execHelperRunWrite_answers h val s
  | .ksend h rd rs1 rs2 queue reply => execKsend_answers h rd rs1 rs2 queue reply s
  | .krecv h rd rs1 queue reply => execKrecv_answers h rd rs1 queue reply s
  | .ktemit h rd rs1 rs2 => execKtemit_answers h rd rs1 rs2 s
  | .khret h => execKhret_answers h s
  | .helperDispatch h => execHelperDispatch_answers h s
  | .kmhostWrite h val => execKmhostWrite_answers h val s
  | .messageDeliver ep ch => execMessageDeliver_answers ep ch s
  | .sendWaitExpire ep ch => execSendWaitExpire_answers ep ch s
  | .outboundSend e c => execOutboundSend_answers e c s
  | .ringCiWrite ep q ci => execRingCiWrite_answers ep q ci s
  | .msgRingWrite port fn ep r val => execMsgRingWrite_answers port fn ep r val s
  | .routeEntryWrite port fn ep n val => execRouteEntryWrite_answers port fn ep n val s
  | .sqDoorbell port fn n tail => execSqDoorbell_answers port fn n tail s
  | .cqDoorbell port fn n head => execCqDoorbell_answers port fn n head s
  | .sqEnWrite port fn n val => execSqEnWrite_answers port fn n val s
  | .cqEnWrite port fn n val => execCqEnWrite_answers port fn n val s
  | .run port fn n entry => execRun_answers port fn n entry s
  | .mark port fn n entry => execMark_answers port fn n entry s
  | .commandAccept slot => execCommandAccept_answers slot s
  | .commandDispatch slot => execCommandDispatch_answers slot s
  | .commandCommit slot => execCommandCommit_answers slot s
  | .completionPost slot hostOk => execCompletionPost_answers slot hostOk s
  | .journalRestartScan => execJournalRestartScan_answers s
  | .journalEnable port val => execJournalEnable_answers port val s
  | .journalTakeover port val => execJournalTakeover_answers port val s
  | .failoverTimeout port => execFailoverTimeout_answers port s
  | .journalQuery val => execJournalQuery_answers val s
  | .flr port fn => execFlr_answers port fn s
  | .deadlineExpire slot => execDeadlineExpire_answers slot s
  | .cmdAbort c val => execCmdAbort_answers c val s
  | .linkEnable n val => execLinkEnable_answers n val s
  | .linkDisable n val => execLinkDisable_answers n val s
  | .linkRetrain n => execLinkRetrain_answers n s
  | .laneLockLoss n lane => execLaneLockLoss_answers n lane s
  | .replayLimit n => execReplayLimit_answers n s
  | .linkTrainComplete n signal pass => execLinkTrainComplete_answers n signal pass s
  | .linkDownRetry n => execLinkDownRetry_answers n s
  | .linkRoleWrite n val => execLinkRoleWrite_answers n val s
  | .idle n => execIdle_answers n s
  | .write n h xid win srcTenant off data => execWrite_answers n h xid win srcTenant off data s
  | .token n h xid win engine q13 poison value bytes => execToken_answers n h xid win engine q13 poison value bytes s
  | .compl n h xid status => execCompl_answers n h xid status s
  | .wait n h xid => execWait_answers n h xid s
  | .waitTimer xid => execWaitTimer_answers xid s
  | .release n h srcDev slot => execRelease_answers n h srcDev slot s
  | .ack n lseq => execAck_answers n lseq s
  | .nak n lseq => execNak_answers n lseq s
  | .credit n vc count => execCredit_answers n vc count s
  | .ident n q => execIdent_answers n q s
  | .mgmt n payload => execMgmt_answers n payload s
  | .e2eTimeout xid => execE2eTimeout_answers xid s
  | .routeSet val => execRouteSet_answers val s
  | .routeSetComplete => execRouteSetComplete_answers s
  | .devIdWrite val => execDevIdWrite_answers val s
  | .engineCheckFail e => execEngineCheckFail_answers e s
  | .handshakeTimeout e => execHandshakeTimeout_answers e s
  | .engineSelftestEnd e pass => execEngineSelftestEnd_answers e pass s
  | .errCntThreshold e => execErrCntThreshold_answers e s
  | .engRetest g val => execEngRetest_answers g val s
  | .heartbeat c epoch holds => execHeartbeat_answers c epoch holds s
  | .controllerLost c => execControllerLost_answers c s
  | .sumpRecord g r => execSumpRecord_answers g r s
  | .sumpDrain g => execSumpDrain_answers g s
  | .errorRecordPost c hostOk => execErrorRecordPost_answers c hostOk s
  | .mergeIntervalExpire id => execMergeIntervalExpire_answers id s
  | .erqEnWrite c val => execErqEnWrite_answers c val s
  | .resolveKeepA port ring item => execResolveKeepA_answers port ring item s
  | .resolveKeepB port ring item => execResolveKeepB_answers port ring item s
  | .resolveDiscard port ring item => execResolveDiscard_answers port ring item s
  | .epochResolve val => execEpochResolve_answers val s
  | .getCerts r => execGetCerts_answers r s
  | .attest r => execAttest_answers r s
  | .sessionOpen r => execSessionOpen_answers r s
  | .sessionFinish r => execSessionFinish_answers r s
  | .sessionExpire tenant => execSessionExpire_answers tenant s
  | .ctxSet r => execCtxSet_answers r s
  | .ctxDestroy r => execCtxDestroy_answers r s
  | .ctxQuery r => execCtxQuery_answers r s
  | .rollbackCommit r => execRollbackCommit_answers r s
  | .flashWrite r => execFlashWrite_answers r s
  | .ownerSet r => execOwnerSet_answers r s
  | .debugChallenge r => execDebugChallenge_answers r s
  | .challengeExpire => execChallengeExpire_answers s
  | .debugUnlock r => execDebugUnlock_answers r s
  | .modmul port a b m => execModmul_answers port a b m s
  | .modexp port a b m => execModexp_answers port a b m s
  | .ecmul port a b => execEcmul_answers port a b s
  | .lieAbort => execLieAbort_answers s
  | .lieComplete hostOk => execLieComplete_answers hostOk s
  | .setEndpointId eid => execSetEndpointId_answers eid s
  | .getEndpointId => execGetEndpointId_answers s
  | .getEndpointUuid => execGetEndpointUuid_answers s
  | .getMctpVersionSupport msgType => execGetMctpVersionSupport_answers msgType s
  | .getMessageTypeSupport => execGetMessageTypeSupport_answers s
  | .getVendorDefinedMessageSupport selector => execGetVendorDefinedMessageSupport_answers selector s
  | .bypass => execBypass_answers s
  | .idcode => execIdcode_answers s
  | .samplePreload => execSamplePreload_answers s
  | .extest => execExtest_answers s
  | .tapClamp => execTapClamp_answers s
  | .highz => execHighz_answers s
  | .tapReset asserted => execTapReset_answers asserted s
  | .blockEnable page => execBlockEnable_answers page s
  | .blockDisable page => execBlockDisable_answers page s
  | .blockReset page => execBlockReset_answers page s
  | .blockHalt page halt => execBlockHalt_answers page halt s
  | .blockStartComplete page => execBlockStartComplete_answers page s
  | .blockStopComplete page => execBlockStopComplete_answers page s
  | .standbyPowerUp => execStandbyPowerUp_answers s
  | .pwrgdRise testMode smbAddr => execPwrgdRise_answers testMode smbAddr s
  | .bootHeartbeatTimeout => execBootHeartbeatTimeout_answers s
  | .pwrgdFall hbmGood => execPwrgdFall_answers hbmGood s
  | .sysRstAssert => execSysRstAssert_answers s
  | .sysRstRelease => execSysRstRelease_answers s
  | .perstAssert port => execPerstAssert_answers port s
  | .perstRelease port => execPerstRelease_answers port s
  | .referenceClockLoss r => execReferenceClockLoss_answers r s
  | .powerEvaluation watts w0 w1 w2 w3 => execPowerEvaluation_answers watts w0 w1 w2 w3 s
  | .throttleTempReached c temp => execThrottleTempReached_answers c temp s
  | .hbmTemp85 k temp => execHbmTemp85_answers k temp s
  | .hbmTemp95 k temp => execHbmTemp95_answers k temp s
  | .criticalTemp die temp => execCriticalTemp_answers die temp s
  | .prochotAssert => execProchotAssert_answers s
  | .thermalStep c => execThermalStep_answers c s
  | .thermalClear c => execThermalClear_answers c s
  | .thermtrip die temp => execThermtrip_answers die temp s
  | .rcRead port fn off size => execRcRead_answers port fn off size s
  | .erqHeadWrite c val => execErqHeadWrite_answers c val s
  | .flitCrcFail n => execFlitCrcFail_answers n s
  | .pcieLinkDown port => execPcieLinkDown_answers port s
  | .referenceClockRestore r => execReferenceClockRestore_answers r s
  | .prochotDeassert => execProchotDeassert_answers s
  | .controllerFaultReport c => execControllerFaultReport_answers c s
  | .mirrorReloadComplete c => execMirrorReloadComplete_answers c s
  | .takeoverScanComplete => execTakeoverScanComplete_answers s
  | .doeRequest port r => execDoeRequest_answers port r s
  | .helperFarAccess h addr size store rd signed short => execHelperFarAccess_answers h addr size store rd signed short s

theorem step_keeps_memWf {s t : State} (hs : Memory.wf s.mem) (h : step s = .next t) : Memory.wf t.mem := by
  unfold step at h
  split at h
  · obtain ⟨u, hexec, hwithin⟩ := exec_answers ‹Instr› { s with pending := ‹List Instr› }
    rw [hexec] at h
    cases h
    exact hwithin.mem hs
  · cases h
    exact (State.idleCycle_within s).mem hs

/-- Settles O4: a step runs a command, whose frame keeps the memory's canonical form, or passes an idle cycle, whose frame keeps it too. -/
theorem stepKeepsMemoryCanonical : Obligations.StepKeepsMemoryCanonical := by
  unfold Obligations.StepKeepsMemoryCanonical
  exact fun s t hs h => step_keeps_memWf hs h

end Sys2Proof.CommandFrames

/-! Handle writes with their zero fill and translation invalidation (O34). -/

namespace Sys2Proof.HandleFills

open Sys2Proof Sys2Proof.Machine Sys2Proof.Laws

/-! ## Zero fills -/

/-- A zero fill makes its run zero and keeps every zero. -/
theorem zeroRun_zero {s : State} {a n b : Nat} (h : memGet s.mem 0 b = 0 ∨ a ≤ b ∧ b < a + n) : memGet (s.zeroRun a n).mem 0 b = 0 := by
  show memGet (memClear s.mem a n) 0 b = 0
  by_cases hin : a ≤ b ∧ b < a + n
  · exact memGet_memClear_in s.mem 0 a n b hin.1 hin.2
  · rw [memGet_memClear_out s.mem 0 a n b (by omega)]
    exact h.resolve_right hin

/-- Zero fills of several runs: each run is zero afterwards. -/
theorem zeroRuns_zero {f : Nat → Nat} {n b : Nat} (l : List Nat) (s : State)
    (h : memGet s.mem 0 b = 0 ∨ ∃ k ∈ l, f k ≤ b ∧ b < f k + n) :
    memGet (l.foldl (fun t k => t.zeroRun (f k) n) s).mem 0 b = 0 := by
  induction l generalizing s with
  | nil => simpa using h
  | cons k l ih =>
    refine ih (s.zeroRun (f k) n) ?_
    rcases h with hzero | ⟨j, hj, hin⟩
    · exact .inl (zeroRun_zero (.inl hzero))
    · rcases List.mem_cons.1 hj with rfl | hj
      · exact .inl (zeroRun_zero (.inr hin))
      · exact .inr ⟨j, hj, hin⟩

theorem zeroRuns_within {f : Nat → Nat} {n : Nat} (l : List Nat) (s : State) :
    Within [.mem] s (l.foldl (fun t k => t.zeroRun (f k) n) s) :=
  .foldl (fun t _ => State.zeroRun_within t _ _) (.refl _ s)

/-! ## Handle entries -/

section Entry

variable {s : State} {e h : Nat} {v : Word64}

/-- The entry that takes effect is the one that was written. -/
theorem handleTake_handle : (s.handleTake e h v).handle e h = v.toNat := by
  simp only [State.handleTake, State.handle, setGal_gal, tget_tset_self]

/-- An entry that needs no block of another tenant changes no byte. -/
theorem handleTake_mem (hfree : bit v.toNat 63 = false ∨ s.foreignBlocks e v.toNat = []) : (s.handleTake e h v).mem = s.mem := by
  rw [State.handleTake]
  rcases hfree with hinvalid | hnone
  · simp [hinvalid]
  · simp [hnone]

/-- The blocks of another tenant that a valid entry takes are zero. -/
theorem handleTake_zero {b a : Nat} (hvalid : bit v.toNat 63 = true) (hb : b ∈ s.foreignBlocks e v.toNat) (hlo : spDpa e (b * 4096) ≤ a)
    (hhi : a < spDpa e (b * 4096) + 4096) : memGet (s.handleTake e h v).mem 0 a = 0 := by
  simp only [State.handleTake, hvalid, if_true, setGal_mem]
  exact zeroRuns_zero (f := fun b => spDpa e (b * 4096)) _ s (.inr ⟨b, hb, hlo, hhi⟩)

theorem handleTake_dev : (s.handleTake e h v).dev = s.dev := (State.handleTake_within s e h v).eq_dev rfl

/-- The write that waits for its zero fill is the one found under its entry. -/
theorem find?_tset {α : Type} (t : Tbl α) (k : Nat) (v : α) : ((tset t k v).find? fun p => p.1 == k) = some (k, v) := by
  rw [tset, List.find?_append, List.find?_eq_none.2, Option.none_or, List.find?_cons_of_pos (by simp)]
  intro p hp
  have hlt := (List.mem_filter.1 hp).2
  simp only [decide_eq_true_eq] at hlt
  simp [Nat.ne_of_lt hlt]

/-- An admitted entry that needs no block of another tenant takes effect. -/
theorem handlePut_takes {port fn : Nat} (hgood : s.handleBad e v.toNat h = false)
    (hfree : bit v.toNat 63 = false ∨ s.foreignBlocks e v.toNat = []) : s.handlePut port fn e h v = s.handleTake e h v := by
  rw [State.handlePut, if_neg (by simp [hgood]), if_neg]
  rintro ⟨hvalid, hforeign⟩
  rcases hfree with hinvalid | hnone
  · exact absurd hvalid (by simp [hinvalid])
  · exact hforeign hnone

/-- An admitted valid entry that needs blocks of another tenant waits for their zero fill. -/
theorem handlePut_fills {port fn : Nat} (hgood : s.handleBad e v.toNat h = false) (hvalid : bit v.toNat 63 = true)
    (hforeign : s.foreignBlocks e v.toNat ≠ []) :
    s.handlePut port fn e h v = s.setGal (e / 4) { s.gal (e / 4) with
      htNew := tset (s.gal (e / 4)).htNew (64 * (e % 4) + h) { val := v, port := port, fn := fn } } := by
  rw [State.handlePut, if_neg (by simp [hgood]), if_pos ⟨hvalid, hforeign⟩]

variable {port : Fin 2} {e h : Fin 64}

/-- A handle write by the physical function that waits for no fill is put into its entry. -/
theorem handleWrite_puts (htakes : s.takes (.gallery (e / 4)) = true)
    (hfree : s.waitsFill { port := port, fn := 0, off := handleOff 0 e h, size := 8, val := v } (some (e.val, h.val)) = false) :
    exec (.handleWrite port 0 e h v) s = .next (s.handlePut port 0 e h v) := by
  show execHandleWrite port 0 e h v s = _
  exact (if_neg fun hwaits => absurd (hwaits.symm.trans hfree) (by decide)).trans
    (congrArg Host.Outcome.next (ChainDrip.gate_takes htakes _))

/-- With nothing waiting behind the fills, the end of a fill is the entry's taking effect. -/
theorem fillDrain_none {t : State} (hnone : t.dev.waitW = []) :
    t.fillDrain = { t with dev := { t.dev with waitW := [] } } := by
  simp only [State.fillDrain, hnone, List.foldl_nil]

/-- A zero fill that ends lets its entry take effect. -/
theorem handleZeroFillDone_takes {w : HandleNew} (hfill : ((s.gal (e / 4)).htNew.find? fun p => p.1 == 64 * (e.val % 4) + h.val) =
      some (64 * (e.val % 4) + h.val, w)) :
    exec (.handleZeroFillDone e h) s = .next (s.handleTake e h w.val).fillDrain := by
  show execHandleZeroFillDone e h s = _
  simp only [execHandleZeroFillDone, hfill]

end Entry

/-! ## Translation invalidation -/

/-- The gallery without the translations that an invalidation names. -/
def tlbKept (v : Nat) (x : Gallery) : Gallery := { x with tlb := x.tlb.filter fun t => !tlbDrops v t }

/-- Steps through the first n galleries rewrite each of them. -/
theorem each_setGal {f : Gallery → Gallery} {s : State} {n g : Nat} (hg : g < n) :
    (s.each n fun s g => s.setGal g (f (s.gal g))).gal g = f (s.gal g) := by
  have hrun : ∀ n, (s.each n fun s g => s.setGal g (f (s.gal g))).gal g = if g < n then f (s.gal g) else s.gal g := by
    intro n
    induction n with
    | zero => rfl
    | succ n ih =>
      rw [State.each, List.range_succ, List.foldl_append, ← State.each, List.foldl_cons, List.foldl_nil]
      by_cases hgn : g = n
      · subst hgn
        rw [setGal_gal, ih, if_neg (by omega), if_pos (by omega)]
      · rw [setGal_gal_other _ _ _ hgn, ih]
        simp only [show g < n + 1 ↔ g < n by omega]
  rw [hrun, if_pos hg]

/-- After an invalidation no gallery's cache holds a translation that it names. -/
theorem dropTlb_dropped {s : State} {v g : Nat} (hg : g < 16) {c} (hc : c ∈ ((s.dropTlb v).gal g).tlb) : tlbDrops v c = false := by
  have hgal : (s.dropTlb v).gal g = tlbKept v (s.gal g) := each_setGal (f := tlbKept v) hg
  rw [hgal] at hc
  simpa using (List.mem_filter.1 hc).2

/-- Settles O34: a handle write takes effect at once, joins those that wait, or leaves its entry to the zero fill of the blocks of another
tenant; an invalidation ends with every cache filtered. -/
theorem handlesAndTranslation : Obligations.HandlesAndTranslation := by
  unfold Obligations.HandlesAndTranslation
  refine ⟨fun port e h val s => ⟨fun htakes hfree hgood => ⟨fun hown => ?takes, fun hvalid hforeign => ?fills⟩, fun hwaits => ?waits,
    fun v hfill => ⟨handleZeroFillDone_takes hfill, fun hnone => ?done⟩⟩, fun val s => ⟨fun htakes hidle => ?begins, fun hrun => ?completes⟩⟩
  case takes =>
    refine ⟨s.handleTake e h val, ?_, handleTake_handle, handleTake_mem hown⟩
    rw [handleWrite_puts htakes hfree, handlePut_takes hgood hown]
  case fills =>
    refine ⟨_, (handleWrite_puts htakes hfree).trans (congrArg Host.Outcome.next (handlePut_fills hgood hvalid hforeign)), ?_, rfl, ?_⟩
    · simp only [State.handle, setGal_gal]
    · rw [setGal_gal]
      exact find?_tset _ _ _
  case waits =>
    exact if_pos (c := s.waitsFill _ _ = true) hwaits
  case done =>
    have hdrain := fillDrain_none (handleTake_dev (s := s) (e := e) (h := h) (v := v.val) ▸ hnone)
    refine ⟨_, handleZeroFillDone_takes hfill, ?_, fun hvalid b hb a hlo hhi => ?_⟩
    · rw [hdrain]
      exact handleTake_handle
    · rw [hdrain]
      exact handleTake_zero (h := h) hvalid hb hlo hhi
  case begins =>
    show execTlbInv val s = _
    simp only [execTlbInv, ChainDrip.gate_takes htakes, State.tlbInvPut, hidle, Option.isSome_none, Bool.false_eq_true, if_false]
  case completes =>
    have hdrop := State.dropTlb_within ({ s with dev := { s.dev with tlbInv := none } } : State) val.toNat
    refine ⟨({ s with dev := { s.dev with tlbInv := none } } : State).dropTlb val.toNat, ?_, ?_, hdrop.eq_mem rfl,
      fun g hg c hc => dropTlb_dropped hg hc⟩
    · show execTlbInvComplete s = _
      simp only [execTlbInvComplete, hrun]
    · rw [hdrop.eq_dev rfl]

end Sys2Proof.HandleFills

/-! Requests and flushes of the cache, HBM corrections and failures (O35). -/

namespace Sys2Proof.CacheHbm

open Sys2Proof Sys2Proof.Machine Sys2Proof.Laws Sys2Proof.CleanWrites

/-! ## Recency and allocation keep clean lines clean -/

section Ways

variable {s : State} {ws : List Line}

theorem capKeep_clean (h : ∀ l ∈ ws, LineClean s l) (cap : Nat) : ∀ l ∈ (capKeep cap ws).1, LineClean s l := by
  unfold capKeep
  split
  · exact h
  · split
    · intro l hl
      obtain ⟨x, hx, rfl⟩ := List.mem_map.1 hl
      split <;> exact h x hx
    · exact h

theorem touchWay_clean (h : ∀ l ∈ ws, LineClean s l) (keepWays a : Nat) (keep : Bool) :
    ∀ l ∈ (touchWay keepWays a keep ws).1, LineClean s l := by
  have hrest : ∀ l ∈ ws.filter fun x => x.dpa != a, LineClean s l := fun l hl => h l (List.mem_of_mem_filter hl)
  unfold touchWay
  split
  · exact h
  · next v hv =>
    have hmem := h v (List.mem_of_find?_eq_some hv)
    dsimp only
    split
    · exact List.forall_mem_cons.2 ⟨hmem, capKeep_clean hrest _⟩
    · exact List.forall_mem_cons.2 ⟨hmem, hrest⟩

/-- A new line of a working stack is clean, and so are the ways beside it and the line that it evicts. -/
theorem allocWay_clean {a : Nat} (h : ∀ l ∈ ws, LineClean s l) (ha : (s.hbmc (stackOf a)).failed = false) (keepWays : Nat) (keep : Bool) :
    (∀ l ∈ (allocWay keepWays a keep ws).1, LineClean s l) ∧ ∀ v, (allocWay keepWays a keep ws).2.1 = some v → LineClean s v := by
  have hcap : ∀ l ∈ (if (keep && keepWays != 0) = true then capKeep keepWays ws else (ws, 0)).1, LineClean s l := by
    split
    · exact capKeep_clean h _
    · exact h
  exact ⟨List.forall_mem_cons.2 ⟨⟨ha, nofun⟩, fun l hl => hcap l (mem_evict hl)⟩, fun v hv => hcap v (evict_mem hv)⟩

end Ways

/-! ## A request under any hint but LAST -/

/-- A request that is not under LAST changes no byte and leaves every slice clean (R283, R285, R286). -/
theorem flowLine_clean {s : State} (h : SlicesClean s) {hint : Nat} (hhint : hint ≠ 3) (a lo n : Nat) (write : Bool) :
    (s.flowLine hint a lo n write).mem = s.mem ∧ SlicesClean (s.flowLine hint a lo n write) := by
  have hways : ∀ l ∈ tget (s.flow (stackOf a / 2)).sets (flowSet a) [], LineClean s l := fun l hl => h _ l (mem_lines_of_mem_set hl)
  have hput : ∀ {u : State} {ws : List Line}, Unserved s u → (∀ l ∈ ws, LineClean s l) → SlicesClean (u.setFlow (stackOf a / 2)
      { s.flow (stackOf a / 2) with sets := tset (s.flow (stackOf a / 2)).sets (flowSet a) ws }) := fun hu hws =>
    slicesClean_setFlow (slicesClean_of_unserved h hu) (fun l hl => LineClean.of_unserved (h _ l hl) hu) _ _ fun l hl =>
      (hws l hl).of_unserved hu
  have hdone : ∀ {t u : State}, SlicesClean t → t.mem = s.mem → Unserved t u → u.mem = s.mem ∧ SlicesClean u := fun ht hmem hu =>
    ⟨hu.mem.trans hmem, slicesClean_of_unserved ht hu⟩
  have hcounted : ∀ ev, Unserved s (s.event (.flow (stackOf a / 2)) ev 1) := fun ev => event_unserved s _ ev 1
  have hstack : ∀ ev, ((s.event (.flow (stackOf a / 2)) ev 1).hbmc (stackOf a)).failed = (s.hbmc (stackOf a)).failed := fun _ => rfl
  unfold State.flowLine
  dsimp only
  rw [hstack]
  by_cases hhit : ((s.flow (stackOf a / 2)).line a).isSome = true
  · rw [if_pos hhit, if_neg hhint]
    split
    · exact ⟨rfl, hput (hcounted _) (dirtied_clean hways _ _ _ _)⟩
    · exact hdone (hput (hcounted _) (dirtied_clean (touchWay_clean hways _ _ _) _ _ _ _)) rfl (event_unserved _ _ _ _)
  rw [if_neg hhit]
  by_cases hfailed : (s.hbmc (stackOf a)).failed = true
  · rw [if_pos hfailed]
    exact hdone h rfl (hcounted _)
  rw [if_neg hfailed]
  have hmissed : ∀ ev, Unserved s ((s.event (.flow (stackOf a / 2)) ev 1).missEvents hint a lo n write) := fun ev =>
    (hcounted ev).trans (missEvents_unserved _ hint a lo n write)
  split
  · obtain ⟨hnew, hout⟩ := allocWay_clean hways (by simpa using hfailed) (if hint = 2 then (s.flow (stackOf a / 2)).keepWays else 0)
      (hint = 2 : Bool)
    exact hdone (hput (hmissed _) (dirtied_clean hnew _ _ _ _)) (hmissed _).mem
      ((evicted_unserved fun l hl => ((hout l hl).of_unserved (hmissed _)).setFlow _ _).trans (event_unserved _ _ _ _))
  · exact hdone h rfl (hmissed _)

theorem flowRun_clean {s : State} (h : SlicesClean s) {hint : Nat} (hhint : hint ≠ 3) (a n : Nat) (write : Bool) :
    (s.flowRun hint a n write).mem = s.mem := by
  have hrun : (s.flowRun hint a n write).mem = s.mem ∧ SlicesClean (s.flowRun hint a n write) :=
    List.foldlRecOn (motive := fun t : State => t.mem = s.mem ∧ SlicesClean t) (linesOf a n) _ ⟨rfl, h⟩ fun t ⟨hmem, ht⟩ l _ => by
      obtain ⟨hmem', ht'⟩ := flowLine_clean ht hhint l a n write
      exact ⟨hmem'.trans hmem, ht'⟩
  exact hrun.1

section Requests

variable {s : State} {c : Fin 4} {r : FlowReq}

/-- A write to working stacks puts its bytes into memory as the requests of its lines leave it. -/
theorem devWrite_hbm {hint a : Nat} {b : Bytes} (hpos : b.length ≠ 0) (hhbm : inHbm a b.length = true)
    (hstacks : ((linesOf a b.length).all fun l => !(s.hbmc (stackOf l)).failed) = true) :
    (s.devWrite hint a b).1.mem = memPut (s.flowRun hint a b.length true).mem 0 a b := by
  have halive : ((linesOf a b.length).any fun l => (s.hbmc (stackOf l)).failed && ((s.flow (stackOf l / 2)).line l).isNone) = false := by
    rw [List.all_eq_true] at hstacks
    simp only [List.any_eq_false]
    intro l hl
    have hworks := hstacks l hl
    simp_all
  simp [State.devWrite, State.devWriteBy, hpos, hhbm, inRegion, halive]

/-- A cache request within its slice is served (R283). -/
theorem flowRequest_admitted (hlen : r.len ≠ 0) (hhbm : inHbm r.dpa r.len = true) (hhome : ∀ l, l ∈ linesOf r.dpa r.len → stackOf l / 2 = c.val)
    (hlast : ¬(r.hint = 3 ∧ r.data.isSome)) :
    ¬(r.len = 0 ∨ !inHbm r.dpa r.len ∨ (linesOf r.dpa r.len).any (fun l => stackOf l / 2 != c.val) ∨ (r.hint = 3 ∧ r.data.isSome)) := by
  rintro (h | h | h | h)
  · exact hlen h
  · simp [hhbm] at h
  · obtain ⟨l, hl, hne⟩ := List.any_eq_true.1 h
    simp [hhome l hl] at hne
  · exact hlast h

/-- A read returns the bytes that memory holds once its codewords have been corrected. -/
theorem flowRequest_reads (hlen : r.len ≠ 0) (hhbm : inHbm r.dpa r.len = true)
    (hhome : ∀ l, l ∈ linesOf r.dpa r.len → stackOf l / 2 = c.val) (hread : r.data = none)
    (hgood : (s.codesRead r).ueIn r.dpa r.len = false) :
    ∃ t, exec (.flowRequest c r) s = .next t ∧ t.lastRead = (s.codesRead r).num r.dpa r.len := by
  refine ⟨{ (s.codesRead r).flowRun r.hint r.dpa r.len false with lastRead := (s.codesRead r).num r.dpa r.len }, ?_, rfl⟩
  have hdata : (s.codesRead r).devRead r.hint r.dpa r.len =
      ((s.codesRead r).flowRun r.hint r.dpa r.len false, .ok ((s.codesRead r).bytes r.dpa r.len)) := by
    simp [State.devRead, inRegion, hhbm, hgood]
  show execFlowRequest c r s = _
  rw [execFlowRequest, if_neg (flowRequest_admitted hlen hhbm hhome (by simp [hread]))]
  simp only [hread, hdata, State.num]

/-- A write that is not under LAST, through clean slices of working stacks, puts its bytes where they belong and changes no other. -/
theorem flowRequest_writes {b : Bytes} (hlen : r.len ≠ 0) (hhbm : inHbm r.dpa r.len = true)
    (hhome : ∀ l, l ∈ linesOf r.dpa r.len → stackOf l / 2 = c.val) (hwrite : r.data = some b) (hb : b.length = r.len) (hhint : r.hint ≠ 3)
    (hclean : SlicesClean (s.codesRead r))
    (hstacks : ((linesOf r.dpa r.len).all fun l => !((s.codesRead r).hbmc (stackOf l)).failed) = true) :
    ∃ t, exec (.flowRequest c r) s = .next t ∧ t.bytes r.dpa r.len = b ∧ SameMemOutside (s.codesRead r) t r.dpa r.len := by
  have hmem := devWrite_hbm (hint := r.hint) (by rwa [hb]) (by rwa [hb]) (by rwa [hb])
  rw [flowRun_clean hclean (fun h => hhint (Fin.ext h))] at hmem
  refine ⟨((s.codesRead r).devWrite r.hint r.dpa b).1, ?_, ?_, fun x hx => ?_⟩
  · show execFlowRequest c r s = _
    rw [execFlowRequest, if_neg (flowRequest_admitted hlen hhbm hhome fun h => hhint h.1)]
    simp only [hwrite]
  · rw [State.bytes, hmem, ← hb]
    exact memRun_memPut _ 0 _ b
  · rw [hmem]
    exact memGet_memPut_out _ 0 _ x b (by rwa [hb])

end Requests

/-! ## Flushes -/

section Flush

variable {s : State} {c : Nat} {wb inv : Bool} {lines : List Nat}

/-- What a flush makes of one of the lines that it writes back: a failed stack takes none (R287, R414). -/
def flushed (s : State) (wb : Bool) (lines : List Nat) (l : Line) : Line :=
  if (wb && lines.contains l.dpa) = true then (if (s.hbmc (stackOf l.dpa)).failed then l else l.clean) else l

theorem flushed_dpa (l : Line) : (flushed s wb lines l).dpa = l.dpa := by
  unfold flushed
  split
  · split <;> rfl
  · rfl

/-- A line that a flush leaves in its slice was there; with WB and INV it is none of the flush's lines. -/
theorem mem_flushRun {l : Line} (hl : l ∈ ((s.flushRun c wb inv lines).flow c).lines) :
    (∃ k ∈ (s.flow c).lines, l = flushed s wb lines k) ∧ (wb && lines.contains l.dpa && inv) = false := by
  simp only [State.flushRun, setFlow_flow, Flow.lines, List.map_map, List.mem_flatten, List.mem_map] at hl
  obtain ⟨_, ⟨p, hp, rfl⟩, hl⟩ := hl
  obtain ⟨hl, hkept⟩ := List.mem_filter.1 hl
  obtain ⟨k, hk, rfl⟩ := List.mem_map.1 hl
  exact ⟨⟨k, List.mem_flatten.2 ⟨p.2, List.mem_map_of_mem hp, hk⟩, rfl⟩, by simpa only [Bool.not_eq_true'] using hkept⟩

theorem shadow_clean_of_lineClean {l : Line} (h : LineClean s l) : l.clean.shadow = [] := by
  simpa [Line.clean, List.filter_eq_nil_iff] using fun a b c hp => h.2 (a, b, c) hp

/-- A flush of clean slices changes no byte. -/
theorem flushRun_mem (h : SlicesClean s) : (s.flushRun c wb inv lines).mem = s.mem := by
  have hback : ∀ ls : List Line, (ls.foldl State.wroteBack s).mem = s.mem := fun ls =>
    (List.foldlRecOn (motive := Unserved s) ls _ (.refl s) fun _ hu l _ => hu.trans (wroteBack_unserved _ l)).mem
  have hgone : ∀ (t : State) (ls : List Line), (∀ l ∈ ls, LineClean s l) →
      ls.foldl (fun t l => t.restoreShadow l.dpa l.clean.shadow) t = t := fun t ls hls =>
    List.foldlRecOn (motive := fun u => u = t) ls _ rfl fun u hu l hl => by
      rw [shadow_clean_of_lineClean (hls l hl)]
      exact hu
  simp only [State.flushRun, setFlow_mem]
  rw [hgone _ _ fun l hl => h c l (List.mem_of_mem_filter hl)]
  exact hback _

/-- The lines of a flush with WB that stay in a clean slice are written back. -/
theorem flushRun_written (h : SlicesClean s) {l : Line} (hl : l ∈ ((s.flushRun c true inv lines).flow c).lines) (hline : l.dpa ∈ lines) :
    l.dirty = [] ∧ l.shadow = [] := by
  obtain ⟨⟨k, hk, rfl⟩, -⟩ := mem_flushRun hl
  rw [flushed_dpa] at hline
  have hclean := h c k hk
  have hk' : flushed s true lines k = k.clean := by simp [flushed, hline, hclean.1]
  rw [hk']
  exact ⟨rfl, shadow_clean_of_lineClean hclean⟩

end Flush

/-! ## Corrections of HBM -/

/-- Positions that are counted once each: the counts of a pseudo-channel after a codeword's corrections (R291). -/
theorem tget_counted {k i : Nat} : ∀ (l : List Nat) (t : Tbl Nat), l.Nodup →
    tget (l.foldl (fun c i => tset c (k + i) (min 256 (tget c (k + i) 0 + 1))) t) (k + i) 0 =
      if l.contains i then min 256 (tget t (k + i) 0 + 1) else tget t (k + i) 0
  | [], _, _ => rfl
  | j :: l, t, h => by
    obtain ⟨hj, hl⟩ := List.nodup_cons.1 h
    rw [List.foldl_cons, tget_counted l _ hl]
    by_cases hij : i = j
    · subst hij
      simp [hj]
    · simp [hij, tget_tset_other]

theorem nodup_eraseDups : ∀ l : List Nat, l.eraseDups.Nodup
  | [] => by simp
  | a :: l => by
    rw [List.eraseDups_cons]
    exact List.nodup_cons.2 ⟨by simp, nodup_eraseDups _⟩
termination_by l => l.length
decreasing_by
  simp only [List.length_cons]
  exact Nat.lt_succ_of_le (List.length_filter_le _ _)

theorem unknown_nodup (x : Hbmc) (pc : Nat) (errs : List (Fin 36)) : (x.unknown pc errs).Nodup := (nodup_eraseDups _).filter _

/-- Codeword cw of stack n lies in stack n. -/
theorem stackOf_codeword {n cw : Nat} (hn : n < 8) (hcw : cw < 2 ^ 30) : stackOf ((n * 2 ^ 30 + cw) * 64) = n := by
  simp only [stackOf, fld, Nat.shiftRight_eq_div_pow]
  omega

/-- Whether HBM's codeword is uncorrectable hangs on the slices and on the unknown errors. -/
theorem hbmUe_congr {s t : State} (hflows : t.flows = s.flows) (hue : t.ue = s.ue) (w : Nat) : t.hbmUe w = s.hbmUe w := by
  simp only [State.hbmUe, State.lineOver, State.flow, hflows, hue]

/-- Corrections change event counters and the stack's counts (R291). -/
theorem corrected_corr (s : State) (a : Nat) (bad : List Nat) :
    ((s.corrected a bad).hbmc (stackOf a)).corr = bad.foldl (fun c i => tset c (36 * pcOf (a % 2 ^ 36) + i)
      (min 256 (tget c (36 * pcOf (a % 2 ^ 36) + i) 0 + 1))) (s.hbmc (stackOf a)).corr := by
  have hcounted : ∀ (u : State) p ev k m, (u.event p ev k).hbmc m = u.hbmc m := fun _ _ _ _ _ => rfl
  unfold State.corrected
  dsimp only
  split
  · rw [hcounted, setHbmc_hbmc]
  · rw [State.hbmc, (State.hbmTraffic_within _ _ _ _).eq_hbmcs rfl, ← State.hbmc, hcounted, setHbmc_hbmc]

section Patrol

variable {n : Fin 8} {s : State} {cw : Nat} {errs : List (Fin 36)}

/-- The patrol's read of a codeword, counted. -/
def patrolRead (s : State) (n cw : Nat) : State := (s.event (.hbmc n) 6 1).hbmTraffic ((n * 2 ^ 30 + cw) * 64) 1 1

theorem patrolRead_within (s : State) (n cw : Nat) : Within [.hdrs] s (patrolRead s n cw) :=
  .after (State.hbmTraffic_within _ _ _ _) rfl (State.event_within _ _ _ _)

/-- A codeword whose unknown errors the code covers is corrected. -/
theorem codeRead_corrects {w : Nat} (hgood : s.hbmUe w = false)
    (hcovers : 2 * ((s.hbmc (stackOf (w * 64))).unknown (pcOf (w * 64 % 2 ^ 36)) errs).length +
      pinCount ((s.hbmc (stackOf (w * 64))).declared (pcOf (w * 64 % 2 ^ 36))) ≤ 4) :
    s.codeRead w errs = s.corrected (w * 64) ((s.hbmc (stackOf (w * 64))).unknown (pcOf (w * 64 % 2 ^ 36)) errs) := by
  simp only [State.codeRead, hgood, Bool.false_eq_true, if_false, if_pos hcovers]

/-- The patrol of a codeword whose unknown errors the code covers corrects it. -/
theorem patrolScrub_corrects (hhours : (s.hbmc n).scrubHours ≠ 0) (hworks : (s.hbmc n).failed = false)
    (hawake : (s.hbmc n).selfRefresh = false) (hcw : cw < 2 ^ 30) (hgood : s.hbmUe (n.val * 2 ^ 30 + cw) = false)
    (hcovers : 2 * ((s.hbmc n).unknown (pcOf ((n.val * 2 ^ 30 + cw) * 64 % 2 ^ 36)) errs).length +
      pinCount ((s.hbmc n).declared (pcOf ((n.val * 2 ^ 30 + cw) * 64 % 2 ^ 36))) ≤ 4) :
    exec (.patrolScrub n cw errs) s = .next ((patrolRead s n cw).corrected ((n.val * 2 ^ 30 + cw) * 64)
      ((s.hbmc n).unknown (pcOf ((n.val * 2 ^ 30 + cw) * 64 % 2 ^ 36)) errs)) := by
  have hread := patrolRead_within s n cw
  have hstack : (patrolRead s n cw).hbmc (stackOf ((n.val * 2 ^ 30 + cw) * 64)) = s.hbmc n := by
    rw [stackOf_codeword n.isLt hcw, State.hbmc, hread.eq_hbmcs rfl]
    rfl
  have hue : (patrolRead s n cw).hbmUe (n.val * 2 ^ 30 + cw) = false :=
    (hbmUe_congr (hread.eq_flows rfl) (hread.eq_ue rfl) _).trans hgood
  have hcode := codeRead_corrects (errs := errs) hue (by rw [hstack]; exact hcovers)
  rw [hstack] at hcode
  have hkept := State.corrected_within (patrolRead s n cw) ((n.val * 2 ^ 30 + cw) * 64)
    ((s.hbmc n).unknown (pcOf ((n.val * 2 ^ 30 + cw) * 64 % 2 ^ 36)) errs)
  show execPatrolScrub n cw errs s = _
  rw [execPatrolScrub, if_neg (by simpa [hhours, hworks, hawake] using hcw)]
  dsimp only
  rw [← patrolRead, hcode, if_neg]
  rw [hbmUe_congr (hkept.eq_flows rfl) (hkept.eq_ue rfl), hue]
  exact Bool.false_ne_true

end Patrol

/-! ## Declared pins and failed stacks -/

section Faults

variable {n : Fin 8} {s : State}

/-- A position with 256 corrections is declared failed, and the repair record with it, while fewer than three pins are (R291). -/
theorem pinDeclare_declares {pc : Fin 64} {sym : Fin 36} (hcount : 256 ≤ tget (s.hbmc n).corr (36 * pc.val + sym.val) 0)
    (hnew : ((s.hbmc n).declared pc).getLsbD sym = false) (hfew : pinCount ((s.hbmc n).declared pc) < 3) :
    ∃ t, exec (.pinDeclare n pc sym) s = .next t ∧ ((t.hbmc n).declared pc).getLsbD sym = true ∧ t.mem = s.mem ∧
      tget (t.hbmc n).repair pc 0 = (t.hbmc n).declared pc := by
  have hlog : ∀ (u : State) r, Within [.dev, .mgmtW, .mgmtE, .freeCtr] u (u.logErr r).drawn := fun u r =>
    .after (State.drawn_within _) rfl (.after (State.logErr_within _ _) rfl (.refl _ u))
  have hcommand : ¬(tget (s.hbmc n).corr (36 * pc.val + sym.val) 0 < 256 ∨ ((s.hbmc n).declared pc).getLsbD sym = true ∨
      3 ≤ pinCount ((s.hbmc n).declared pc)) := by
    rw [hnew]
    simp only [Bool.false_eq_true, false_or, not_or, Nat.not_lt, Nat.not_le]
    exact ⟨hcount, hfew⟩
  refine ⟨_, if_neg hcommand, ?_, (hlog _ _).eq_mem rfl, ?_⟩
  all_goals rw [State.hbmc, (hlog _ _).eq_hbmcs rfl, ← State.hbmc, setHbmc_hbmc]
  · rw [Hbmc.declared, tget_tset_self]
    exact ChainDrip.getLsbD_or_oneHot sym.isLt _
  · exact (tget_tset_self _ _ _ _).trans (tget_tset_self _ _ _ _).symm

/-- A stack that fails is FAILED; no byte changes (R414). -/
theorem stackFail_fails (hworks : (s.hbmc n).failed = false) :
    ∃ t, exec (.stackFail n) s = .next t ∧ (t.hbmc n).failed = true ∧ t.mem = s.mem := by
  have hlog : ∀ (u : State) r k, Within [.dev, .mgmtW, .mgmtE, .journal, .freeCtr] u ((u.logErr r).drawn.copyLost k) := fun u r k =>
    .after (State.copyLost_within _ _) rfl (.after (State.drawn_within _) rfl (.after (State.logErr_within _ _) rfl (.refl _ u)))
  refine ⟨_, if_neg (by simp [hworks]), ?_, (hlog _ _ _).eq_mem rfl⟩
  rw [State.hbmc, (hlog _ _ _).eq_hbmcs rfl, ← State.hbmc, setHbmc_hbmc]

end Faults

/-- Settles O35: requests that are not under LAST keep clean slices clean; a flush leaves none of its lines, or leaves them written back;
corrections count each position once. -/
theorem cacheAndHbm : Obligations.CacheAndHbm := by
  unfold Obligations.CacheAndHbm
  refine ⟨fun c r s => ⟨fun hlen hhbm hhome => ⟨flowRequest_reads hlen hhbm hhome, fun b => flowRequest_writes hlen hhbm hhome⟩,
    fun val htakes hidle => ?flush, fun wb inv hflush => ?flushed⟩,
    fun n s => ⟨fun pc sym => pinDeclare_declares, fun cw errs hhours hworks hawake hcw hgood hcovers => ?patrol, stackFail_fails⟩⟩
  case flush =>
    refine ⟨s.flushPut c val.toNat, congrArg Host.Outcome.next (ChainDrip.gate_takes htakes _), ?_⟩
    simp only [State.flushPut, hidle, Bool.false_eq_true, if_false, setFlow_flow, setFlow_mem, and_self]
  case flushed =>
    refine ⟨s.flushRun c wb inv (s.flow c).flushLines, ?_, ?_, ?_, ?_, fun hclean => ⟨flushRun_mem hclean, ?_⟩⟩
    · show execFlowFlushComplete c s = _
      simp only [execFlowFlushComplete, hflush]
    · simp only [State.flushRun, setFlow_flow]
    · simp only [State.flushRun, setFlow_flow]
    · rintro rfl rfl l hl hline
      simpa [hline] using (mem_flushRun hl).2
    · rintro rfl l hl hline
      exact flushRun_written hclean hl hline
  case patrol =>
    have hread := patrolRead_within s n cw
    have hkept := State.corrected_within (patrolRead s n cw) ((n.val * 2 ^ 30 + cw) * 64)
      ((s.hbmc n).unknown (pcOf ((n.val * 2 ^ 30 + cw) * 64 % 2 ^ 36)) errs)
    refine ⟨_, patrolScrub_corrects hhours hworks hawake hcw hgood hcovers, (hkept.eq_mem rfl).trans (hread.eq_mem rfl),
      (hkept.eq_ue rfl).trans (hread.eq_ue rfl), fun i _ => ?_⟩
    have hcorr := corrected_corr (patrolRead s n cw) ((n.val * 2 ^ 30 + cw) * 64)
      ((s.hbmc n).unknown (pcOf ((n.val * 2 ^ 30 + cw) * 64 % 2 ^ 36)) errs)
    rw [stackOf_codeword n.isLt hcw] at hcorr
    have hstack : (patrolRead s n cw).hbmc n = s.hbmc n := by rw [State.hbmc, hread.eq_hbmcs rfl, ← State.hbmc]
    rw [hcorr, hstack]
    exact tget_counted _ _ (unknown_nodup _ _ _)

end Sys2Proof.CacheHbm

/-! Remote windows and the BAR2 aperture (O36). -/

namespace Sys2Proof.WindowsAperture

open Sys2Proof Sys2Proof.Machine Sys2Proof.Laws

/-- A write to the engine scratchpads holds its bytes and changes none outside its run. -/
theorem devWrite_scratchpad {s : State} {hint a : Nat} {b : Bytes} (hpos : 0 < b.length) (hlo : spBase ≤ a)
    (hhi : a + b.length ≤ spBase + 0x20000000) :
    ∃ t, s.devWrite hint a b = (t, none) ∧ t.bytes a b.length = b ∧ SameMemOutside s t a b.length := by
  have hregion : inRegion a b.length = true := by simp [inRegion, hlo, hhi]
  have hhbm : inHbm a b.length = false := by
    have hbase : 2 ^ 39 < spBase := by decide
    simp only [inHbm, decide_eq_false_iff_not]
    omega
  have hmem := (State.noteWatch_within { s with mem := memPut s.mem 0 a b } none a b.length).eq_mem rfl
  refine ⟨({ s with mem := memPut s.mem 0 a b } : State).noteWatch none a b.length, ?_, ?_, fun c hc => ?_⟩
  · simp [State.devWrite, State.devWriteBy, hregion, hhbm, show b.length ≠ 0 by omega]
  · rw [State.bytes, hmem]
    exact memRun_memPut s.mem 0 a b
  · rw [hmem]
    exact memGet_memPut_out s.mem 0 a c b hc

/-- Within the aperture a write ends with the state that the host's write leaves. -/
theorem bar2Access_write {port : Fin 2} {fn : Fin 64} {off len : Nat} {s t : State} {b : Bytes}
    (hlen : off + len ≤ if fn.val = 0 then 2 ^ 30 else 2 ^ 28)
    (hwrite : s.hostWrite (if fn.val = 0 then none else some (s.fn port fn).tenant) ((s.fn port fn).apBase.toNat + off) b = (t, none)) :
    exec (.bar2Access port fn off len (some b)) s = .next t := by
  show execBar2Access port fn off len (some b) s = _
  simp only [execBar2Access, if_neg (Nat.not_lt.2 hlen), hwrite]

/-- Within the aperture a read returns what the host's read gives. -/
theorem bar2Access_read {port : Fin 2} {fn : Fin 64} {off len : Nat} {s t : State} {b : Bytes}
    (hlen : off + len ≤ if fn.val = 0 then 2 ^ 30 else 2 ^ 28)
    (hread : s.hostRead (if fn.val = 0 then none else some (s.fn port fn).tenant) ((s.fn port fn).apBase.toNat + off) len = (t, .ok b)) :
    exec (.bar2Access port fn off len none) s = .next { t with lastRead := ofLe b } := by
  show execBar2Access port fn off len none s = _
  simp only [execBar2Access, if_neg (Nat.not_lt.2 hlen), hread]

/-- OPEN of a closed window whose entry is read and passes opens it and leaves memory as the read did. -/
theorem winOpen_opens {s s1 : State} {i : Nat} {b : Bytes} {v : Win} (hclosed : tget s.dev.wins i none = none)
    (hread : s.devRead 0 (s.dev.winBase.toNat + 32 * i) 32 = (s1, .ok b)) (hentry : s1.winOf b = some v) :
    tget (s.winOpen i).dev.wins i none = some v ∧ (s.winOpen i).mem = s1.mem := by
  simp only [State.winOpen, hclosed, hread, hentry, Option.isSome_none]
  exact ⟨tget_tset_self _ _ _ _, rfl⟩

/-- CLOSE of an open window marks it. -/
theorem winClose_marks {s : State} {i : Nat} {v : Win} (hopen : tget s.dev.wins i none = some v) :
    tget (s.winClose i).dev.wins i none = some { v with closing := true } := by
  simp only [State.winClose, hopen]
  exact tget_tset_self _ _ _ _

/-- Settles O36: a window opens, is marked and goes under the device's gate; the aperture leads a function's accesses to the host's read and
write, and the scratchpads hold what the physical function writes. -/
theorem windowsAndAperture : Obligations.WindowsAndAperture := by
  unfold Obligations.WindowsAndAperture
  refine fun w port fn off len s s1 => ⟨fun b v htakes hclosed hread hentry => ?opens, fun v htakes hopen => ?closes,
    fun v hopen hclosing => ?ends, fun hlen => ⟨fun b => bar2Access_read hlen, fun b => bar2Access_write hlen⟩,
    fun b hfn hlen hb hpos hlo hhi => ?scratchpad⟩
  case opens => exact ⟨_, congrArg Host.Outcome.next (ChainDrip.gate_takes htakes _), winOpen_opens hclosed hread hentry⟩
  case closes => exact ⟨_, congrArg Host.Outcome.next (ChainDrip.gate_takes htakes _), winClose_marks hopen⟩
  case ends =>
    refine ⟨{ s with dev := { s.dev with wins := tset s.dev.wins w none } }, ?_, tget_tset_self _ _ _ _⟩
    show execWindowCloseComplete w s = _
    simp only [execWindowCloseComplete, hopen, hclosing, if_true]
  case scratchpad =>
    subst hb
    obtain ⟨t, hwrite, hbytes, hout⟩ := devWrite_scratchpad (s := s) (hint := 0) hpos hlo hhi
    exact ⟨t, bar2Access_write (by simpa [hfn] using hlen) (by simpa [hfn, State.hostWrite] using hwrite), hbytes, hout⟩

end Sys2Proof.WindowsAperture

/-! End-to-end flits, waiting tokens, resending (O40). -/

namespace Sys2Proof.EndToEnd

open Sys2Proof Sys2Proof.Machine Sys2Proof.Laws

/-! ## Words of a payload (R8, R389) -/

theorem leBytes_succ (n v : Nat) : leBytes (n + 1) v = BitVec.ofNat 8 v :: leBytes n (v / 256) := by
  simp only [leBytes, List.range_succ_eq_map, List.map_cons, List.map_map]
  refine congrArg₂ _ (by simp) (List.map_congr_left fun i _ => ?_)
  rw [Function.comp, show 256 = 2 ^ 8 from rfl, ← Nat.shiftRight_eq_div_pow, ← Nat.shiftRight_add]
  congr 2
  omega

theorem leBytes_length (n v : Nat) : (leBytes n v).length = n := by simp [leBytes]

/-- The bytes of a number spell the number. -/
theorem ofLe_leBytes (n v : Nat) : ofLe (leBytes n v) = v % 256 ^ n := by
  induction n generalizing v with
  | zero => simp [leBytes, ofLe, Nat.mod_one]
  | succ n ih =>
    have hcons : ofLe (leBytes (n + 1) v) = v % 256 + 256 * ofLe (leBytes n (v / 256)) := by
      rw [leBytes_succ]
      simp [ofLe]
    rw [hcons, ih, Nat.pow_succ', Nat.mod_mul]

/-- The first word of a payload. -/
theorem at8_first {f : Flit} {x : Nat} {rest : Bytes} (hf : f.payload = leBytes 8 x ++ rest) (hx : x < 2 ^ 64) : f.at8 0 = x := by
  rw [Flit.at8, hf, List.drop_zero, List.take_left' (leBytes_length 8 x), ofLe_leBytes]
  exact Nat.mod_eq_of_lt hx

/-- The second word of a payload. -/
theorem at8_second {f : Flit} {x w : Nat} {rest : Bytes} (hf : f.payload = leBytes 8 x ++ leBytes 8 w ++ rest) (hw : w < 2 ^ 64) :
    f.at8 8 = w := by
  rw [Flit.at8, hf, List.append_assoc, List.drop_left' (leBytes_length 8 x), List.take_left' (leBytes_length 8 w), ofLe_leBytes]
  exact Nat.mod_eq_of_lt hw

theorem fld_eq_div_mod (v lo n : Nat) : fld v lo n = v / 2 ^ lo % 2 ^ n := by rw [fld, Nat.shiftRight_eq_div_pow]

theorem bit_eq_decide (v b : Nat) : bit v b = decide (v / 2 ^ b % 2 = 1) := Nat.testBit_eq_decide_div_mod_eq

/-- Two fields side by side. -/
theorem shiftLeft_or {a b k : Nat} (hb : b < 2 ^ k) : a <<< k ||| b = a * 2 ^ k + b := by
  rw [← Nat.shiftLeft_add_eq_or_of_lt hb, Nat.shiftLeft_eq]

/-- The window, source tenant, length and offset of a WRITE's second word. -/
theorem writeWord_eq (win ten len off : Nat) :
    (win % 256) <<< 56 ||| (ten % 1024) <<< 46 ||| (len % 512) <<< 37 ||| off % 2 ^ 36 =
      win % 256 * 2 ^ 56 + (ten % 1024 * 2 ^ 46 + (len % 512 * 2 ^ 37 + off % 2 ^ 36)) := by
  rw [Nat.or_assoc, Nat.or_assoc, shiftLeft_or (a := len % 512) (by omega), shiftLeft_or (a := ten % 1024) (by omega),
    shiftLeft_or (by omega)]

/-- The window, engine, queue, poison and value of a TOKEN's second word. -/
theorem tokenWord_eq (win engine : Nat) (q13 poison : Bool) (value : Word16) :
    (win % 256) <<< 56 ||| (engine % 64) <<< 48 ||| b2n q13 <<< 47 ||| b2n poison <<< 16 ||| value.toNat =
      win % 256 * 2 ^ 56 + (engine % 64 * 2 ^ 48 + (b2n q13 * 2 ^ 47 + (b2n poison * 2 ^ 16 + value.toNat))) := by
  have hq : b2n q13 < 2 := by cases q13 <;> decide
  have hp : b2n poison < 2 := by cases poison <;> decide
  have hv : value.toNat < 2 ^ 16 := value.isLt
  rw [Nat.or_assoc, Nat.or_assoc, Nat.or_assoc, shiftLeft_or hv, shiftLeft_or (a := b2n q13) (by omega),
    shiftLeft_or (a := engine % 64) (by omega), shiftLeft_or (by omega)]

theorem decide_b2n_eq_one (b : Bool) : decide (b2n b = 1) = b := by cases b <;> rfl

section Fields

variable {h : FlitHdr} {xid : Word64} {win : Fin 256}

/-- What a WRITE says: its XID, window, source tenant, offset and data (R389). -/
theorem write_fields {srcTenant : Fin 1024} {off : Nat} {data : Bytes} (hdata : data.length < 512) (hoff : off < 2 ^ 36) :
    let f := flitOf tyWrite h (writePayload xid win.val srcTenant.val off data)
    BitVec.ofNat 64 (f.at8 0) = xid ∧ fld (f.at8 8) 56 8 = win ∧ fld (f.at8 8) 46 10 = srcTenant ∧ fld (f.at8 8) 0 36 = off ∧
      (f.payload.drop 16).take (fld (f.at8 8) 37 9) = data := by
  intro f
  have hwin := win.isLt
  have hten := srcTenant.isLt
  have hword : f.at8 8 = _ := at8_second rfl (by rw [writeWord_eq]; omega)
  rw [writeWord_eq] at hword
  have hbytes : f.payload.drop 16 = data := List.drop_left' (by simp [leBytes_length])
  have hlen : data.length = fld (f.at8 8) 37 9 := by
    rw [hword, fld_eq_div_mod]
    omega
  refine ⟨?_, ?_, ?_, ?_, by rw [hbytes, ← hlen, List.take_length]⟩
  · rw [at8_first (List.append_assoc _ _ _) xid.isLt, BitVec.ofNat_toNat, BitVec.setWidth_eq]
  all_goals
    rw [hword, fld_eq_div_mod]
    omega

/-- What a TOKEN says: its XID, window and token (R389, R401). -/
theorem token_fields {engine : Fin 64} {q13 poison : Bool} {value : Word16} {bytes : Word64}
    (hsome : engine.val ≠ 0 ∨ q13 = true ∨ poison = true ∨ value ≠ 0) :
    let f := flitOf tyToken h (tokenPayload xid win.val engine.val q13 poison value bytes)
    BitVec.ofNat 64 (f.at8 0) = xid ∧ fld (f.at8 8) 56 8 = win ∧
      f.tok = some (engine.val, if q13 then 13 else 12, { value := value, poison := poison }) := by
  intro f
  have hwin := win.isLt
  have heng := engine.isLt
  have hq : b2n q13 < 2 := by cases q13 <;> decide
  have hp : b2n poison < 2 := by cases poison <;> decide
  have hv : value.toNat < 2 ^ 16 := value.isLt
  have hword : f.at8 8 = _ := at8_second rfl (by rw [tokenWord_eq]; omega)
  rw [tokenWord_eq] at hword
  have hengine : fld (f.at8 8) 48 6 = engine := by
    rw [hword, fld_eq_div_mod]
    omega
  have hqsel : bit (f.at8 8) 47 = q13 := by
    rw [← decide_b2n_eq_one q13, hword, bit_eq_decide]
    exact decide_eq_decide.2 (by omega)
  have hpoison : bit (f.at8 8) 16 = poison := by
    rw [← decide_b2n_eq_one poison, hword, bit_eq_decide]
    exact decide_eq_decide.2 (by omega)
  have hvalue : BitVec.ofNat 16 (fld (f.at8 8) 0 16) = value := by
    refine BitVec.eq_of_toNat_eq ?_
    rw [hword, fld_eq_div_mod, BitVec.toNat_ofNat]
    omega
  refine ⟨?_, ?_, ?_⟩
  · rw [at8_first (List.append_assoc _ _ _) xid.isLt, BitVec.ofNat_toNat, BitVec.setWidth_eq]
  · rw [hword, fld_eq_div_mod]
    omega
  · simp only [Flit.tok, hengine, hqsel, hpoison, hvalue]
    rw [if_neg]
    rintro ⟨he, hq13, hp0, hv0⟩
    rcases hsome with hsome | rfl | rfl | hsome
    · exact hsome he
    · exact absurd hq13 (by decide)
    · exact absurd hp0 (by decide)
    · exact hsome hv0

/-- What a COMPL says (R389). -/
theorem compl_fields {status : Byte} :
    let f := flitOf tyCompl h (complPayload xid status)
    BitVec.ofNat 64 (f.at8 0) = xid ∧ ofLe ((f.payload.drop 8).take 1) = status.toNat := by
  intro f
  have hpayload : f.payload = leBytes 8 xid.toNat ++ [status] := rfl
  refine ⟨?_, ?_⟩
  · rw [at8_first hpayload xid.isLt, BitVec.ofNat_toNat, BitVec.setWidth_eq]
  · rw [hpayload, List.drop_left' (leBytes_length _ _)]
    simp [ofLe]

/-- What a RELEASE says (R389, R403). -/
theorem release_fields {srcDev : Fin 4096} {slot : Fin 8192} :
    let f := flitOf tyRelease h (releasePayload srcDev slot)
    fld (f.at8 0) 52 12 = srcDev ∧ fld (f.at8 0) 0 13 = slot := by
  intro f
  have hdev := srcDev.isLt
  have hslot := slot.isLt
  have hor : (srcDev.val % 4096) <<< 52 ||| slot.val % 8192 = srcDev.val % 4096 * 2 ^ 52 + slot.val % 8192 := shiftLeft_or (by omega)
  have hword : f.at8 0 = _ := at8_first (List.append_nil _).symm (by rw [hor]; omega)
  rw [hword, hor, fld_eq_div_mod, fld_eq_div_mod]
  omega

end Fields

/-! ## A flit in its turn (R390, R397, R400) -/

section Arrival

variable {s : State} {n : Fin 64} {h : FlitHdr} {ty : Nat} {p : Bytes}

theorem wirePut_rxLseq (s : State) (n : Nat) (f : Flit) : ((s.wirePut n f).link n).rxLseq = (s.link n).rxLseq := by
  rw [State.wirePut, setLink_link]
  rfl

theorem wirePut_bundle (s : State) (n b : Nat) (f : Flit) : (s.wirePut n f).bundle b = s.bundle b := rfl

/-- A bundle that holds nothing delivers a flit whose turn it is. -/
theorem drainHeld_one (b : Word16) (n : Nat) {f : Flit} (hf : f.hdr.bsn = b) : (drainHeld 1 b [(n, f)]).1 = [(n, f)] := by
  simp [drainHeld, hf]

/-- A flit in its turn is taken and delivered at once. -/
theorem receive_inTurn (hturn : InTurn s n h) :
    (s.receive n (flitOf ty h p)).2 = [(n.val, flitOf ty h p)] ∧
      ((s.receive n (flitOf ty h p)).1.link n).rxLseq = (s.link n).rxLseq + 1 := by
  obtain ⟨hactive, hlseq, hbsn, hheld, -⟩ := hturn
  have hlink : ∀ u : State, ((u.event (.link n) 2 1).link n) = u.link n := fun _ => rfl
  have hbundle : ∀ (u : State) b, (u.event (.link n) 2 1).bundle b = u.bundle b := fun _ _ => rfl
  unfold State.receive
  simp only [hactive, ne_eq, not_true_eq_false, if_false, hlink, flitOf, hlseq, wirePut_bundle, setLink_bundle, hbundle, hbsn, hheld]
  rw [if_neg (by simp)]
  refine ⟨drainHeld_one _ _ hbsn, ?_⟩
  rw [setBundle_link, wirePut_rxLseq, wirePut_rxLseq, setLink_link]

/-- A flit for this device that arrives in its turn is consumed. -/
theorem arrive_inTurn (hturn : InTurn s n h) :
    s.arrive n (flitOf ty h p) = (s.receive n (flitOf ty h p)).1.consume (.link n) (flitOf ty h p) := by
  rw [State.arrive, (receive_inTurn hturn).1]
  obtain ⟨-, -, -, -, hdest⟩ := hturn
  have hown : (s.receive n (flitOf ty h p)).1.dev.ownId = some (flitOf ty h p).hdr.dest.val := by
    rw [(State.receive_within s n _).eq_dev rfl]
    exact hdest
  simp only [List.foldl_cons, List.foldl_nil, State.deliver, hown, if_true]

end Arrival

/-! ## What an answer leaves of the delivery table and the waiting tokens -/

/-- The delivery table and the tokens that wait are the same. -/
structure TablesKept (s t : State) : Prop where
  dedup : t.dev.dedup = s.dev.dedup
  waitToks : t.dev.waitToks = s.dev.waitToks

section Tables

variable {s t u : State}

theorem TablesKept.trans (h : TablesKept s t) (h' : TablesKept t u) : TablesKept s u :=
  ⟨h'.dedup.trans h.dedup, h'.waitToks.trans h.waitToks⟩

theorem TablesKept.of_dev (h : t.dev = s.dev) : TablesKept s t := ⟨by rw [h], by rw [h]⟩

/-- A record changes neither table nor the transfers. -/
theorem logErr_tables (s : State) (r : ErrRec) : TablesKept s (s.logErr r) ∧ (s.logErr r).dev.transfers = s.dev.transfers := by
  unfold State.logErr
  split
  · dsimp only
    split <;> exact ⟨⟨rfl, rfl⟩, rfl⟩
  · exact ⟨⟨rfl, rfl⟩, rfl⟩

theorem freeErr_tables (s : State) (p : Page) (c : Option Code) :
    TablesKept s (s.freeErr p c) ∧ (s.freeErr p c).dev.transfers = s.dev.transfers := by
  have hdrawn := (State.drawn_within s).eq_dev rfl
  obtain ⟨htables, htransfers⟩ := logErr_tables s.drawn
    { p.errRec (Cls.ofNum (s.free 0 % 7)) (c.getD (Code.ofNum (s.free 1 % 256))) with
      d0 := BitVec.ofNat 64 (s.free 2), d1 := BitVec.ofNat 64 (s.free 3) }
  exact ⟨(TablesKept.of_dev hdrawn).trans htables, htransfers.trans (congrArg Dev.transfers hdrawn)⟩

theorem sendOut_tables (s : State) (f : Flit) : TablesKept s (s.sendOut f) := by
  unfold State.sendOut
  split
  · next hsend => exact .of_dev ((State.sendOn_within hsend).eq_dev rfl)
  · exact (freeErr_tables s _ _).1

/-- What comes due behind a slot's delivered transfers changes the transfers alone, to some of them. -/
theorem flushDone_dev (s : State) (e n : Nat) : ∃ f : Transfer → Bool,
    (s.flushDone e n).dev = { s.dev with transfers := s.dev.transfers.filter f } :=
  ⟨_, (State.slotDone_within _ _ _).eq_dev rfl⟩

/-- Transfers of an XID that were all marked as done are so behind the slot's delivered ones. -/
theorem flushDone_done {g : Transfer → Transfer} {xid : Word64} (hg : ∀ v, (g v).done = true) (hu : u.dev = (s.modTransfer xid g).dev)
    (e n : Nat) : ∃ l : List Transfer,
    (u.flushDone e n).dev = { s.dev with transfers := l } ∧ ∀ v ∈ l, v.xid = xid → v.done = true := by
  obtain ⟨f, hf⟩ := flushDone_dev u e n
  rw [hu] at hf
  refine ⟨_, hf, fun v hv hxid => ?_⟩
  obtain ⟨k, -, rfl⟩ := List.mem_map.1 (List.mem_of_mem_filter hv)
  split at hxid
  · rw [if_pos ‹_›]
    exact hg k
  · exact absurd hxid ‹_›

/-- A transfer that ends changes the transfers alone, and leaves none of its XID that is not done. -/
theorem endTransfer_dev (s : State) (t : Transfer) (c : Code) : ∃ l : List Transfer,
    (s.endTransfer t c).dev = { s.dev with transfers := l } ∧ ∀ v ∈ l, v.xid = t.xid → v.done = true := by
  unfold State.endTransfer
  dsimp only
  split
  · exact flushDone_done (fun _ => rfl) rfl _ _
  · split
    · exact flushDone_done (fun _ => rfl) rfl _ _
    · exact flushDone_done (fun _ => rfl) ((State.slotFail_within _ _ _ _ _ _).eq_dev rfl) _ _

theorem endTransfer_tables (s : State) (t : Transfer) (c : Code) : TablesKept s (s.endTransfer t c) := by
  obtain ⟨l, hdev, -⟩ := endTransfer_dev s t c
  exact ⟨by rw [hdev], by rw [hdev]⟩

theorem takeCompl_tables (s : State) (xid : Word64) (status : Nat) : TablesKept s (s.takeCompl xid status) := by
  unfold State.takeCompl
  split
  · exact .of_dev rfl
  · split
    · exact .of_dev rfl
    · exact endTransfer_tables s _ _

theorem answerCompl_tables (s : State) (dest : Nat) (xid : Word64) (c : Code) : TablesKept s (s.answerCompl dest xid c) := by
  unfold State.answerCompl
  split
  · exact takeCompl_tables s _ _
  · exact sendOut_tables s _

theorem dedupPut_dev (s : State) (d : Dedup) : (s.dedupPut d).dev =
    { s.dev with dedup := s.dev.dedup ++ [d], refused := s.dev.refused.filter fun x => x != d.xid } :=
  (State.dedupBytes_within _ _).eq_dev rfl

/-- A token enters its queue and the delivery table; the tokens that wait stay. -/
theorem enterTok_delivers (s : State) (v : WaitTok) :
    ((s.enterTok v).eng v.eng).queue v.q = (s.eng v.eng).queue v.q ++ [v.tok] ∧ ((s.enterTok v).delivered v.xid).isSome = true ∧
      (s.enterTok v).dev.waitToks = s.dev.waitToks := by
  have hput := dedupPut_dev (s.setEng v.eng ((s.eng v.eng).push v.q v.tok))
    { xid := v.xid, status := .ok, slot := (s.eng v.eng).slot, tok := some (v.eng, v.q, v.tok) }
  have hanswer := answerCompl_tables ((s.setEng v.eng ((s.eng v.eng).push v.q v.tok)).dedupPut
    { xid := v.xid, status := .ok, slot := (s.eng v.eng).slot, tok := some (v.eng, v.q, v.tok) }) v.dest v.xid .ok
  refine ⟨?_, ?_, ?_⟩
  · rw [State.enterTok, EngineInstr.eng_of_within (State.answerCompl_within _ _ _ _) rfl,
      EngineInstr.eng_of_within (State.dedupPut_within _ _) rfl, setEng_eng]
    exact SlotSteps.push_queue _ _ _
  · rw [State.delivered, State.enterTok, hanswer.dedup, hput, List.find?_isSome]
    exact ⟨_, List.mem_append_right _ (List.mem_singleton.2 rfl), by simp⟩
  · rw [State.enterTok, hanswer.waitToks, hput]
    rfl

end Tables

/-! ## Flits that arrive -/

section Consumed

variable {s : State} {p : Page} {f : Flit}

theorem consume_write (hf : f.type = tyWrite) : s.consume p f = s.takeWrite p f.hdr.src f := by
  simp [State.consume, hf]

theorem consume_token (hf : f.type = tyToken) : s.consume p f = s.takeToken f.hdr.src f := by
  simp [State.consume, hf, tyToken, tyWrite]

theorem consume_compl (hf : f.type = tyCompl) :
    s.consume p f = s.takeCompl (BitVec.ofNat 64 (f.at8 0)) (ofLe ((f.payload.drop 8).take 1)) := by
  simp [State.consume, hf, tyCompl, tyToken, tyWrite]

theorem consume_wait (hf : f.type = tyWait) : s.consume p f = s := by
  simp [State.consume, hf, tyWait, tyRelease, tyCompl, tyToken, tyWrite]

theorem consume_release (hf : f.type = tyRelease) :
    s.consume p f = s.takeRelease (fld (f.at8 0) 52 12) (fld (f.at8 0) 0 13) := by
  simp [State.consume, hf, tyRelease, tyCompl, tyToken, tyWrite]

end Consumed

section Taken

variable {s : State}

/-- A window write that its window allows goes on with the runs of its translation (R300). -/
theorem windowWrite_allowed {s2 : State} {win src srcTenant off : Nat} {data : Bytes} {w : Win} {runs : List (Nat × Nat × Nat)}
    (hwin : s.winFor win src = some w) (htenant : w.srcTenant = srcTenant) (hin : off + data.length ≤ w.pages * 65536)
    (hx : s.xlateAll none w.tenant (w.base + off) data.length true = (s2, runs, none)) :
    s.windowWrite win src srcTenant off data = (s2.writeEach runs data, true) := by
  simp only [State.windowWrite, hwin, hx]
  exact if_neg (by rintro (h | h) <;> omega)

/-- A WRITE whose window takes it is applied (R402). -/
theorem takeWrite_applied {t : State} {p : Page} {src : Nat} {f : Flit} (hnew : s.delivered (BitVec.ofNat 64 (f.at8 0)) = none)
    (hwrite : s.windowWrite (fld (f.at8 8) 56 8) src (fld (f.at8 8) 46 10) (fld (f.at8 8) 0 36)
      ((f.payload.drop 16).take (fld (f.at8 8) 37 9)) = (t, true)) :
    s.takeWrite p src f = t := by
  simp only [State.takeWrite, hnew, hwrite, Option.isSome_none, Bool.false_eq_true, if_false]

/-- A token that nothing keeps back enters its queue (R402). -/
theorem takeToken_enters {src e q : Nat} {xid : Word64} {tok : Token} {w : Win} {f : Flit} (hxid : BitVec.ofNat 64 (f.at8 0) = xid)
    (htok : f.tok = some (e, q, tok)) (hdedup : ∀ d, d ∈ s.dev.dedup → d.xid ≠ xid)
    (hwait : ∀ v, v ∈ s.dev.waitToks → v.xid ≠ xid ∧ (v.eng ≠ e ∨ v.q ≠ q)) (hroom : s.dev.dedup.length < 4096)
    (hwin : s.winFor (fld (f.at8 8) 56 8) src = some w) (hrefused : s.dev.refused.contains xid = false) (hten : (s.eng e).tenant = w.tenant)
    (hready : s.tokWaits e q = false) :
    s.takeToken src f = s.enterTok { xid := xid, dest := src, eng := e, q := q, tok := tok } := by
  have hnew : (s.dev.dedup.find? fun d => d.xid == xid && (d.tok == f.tok || d.status != .ok)) = none :=
    List.find?_eq_none.2 fun d hd => by simp [hdedup d hd]
  have hwaits : (s.dev.waitToks.any fun v => v.xid == xid && some (v.eng, v.q, v.tok) == f.tok) = false :=
    List.any_eq_false.2 fun v hv => by simp [(hwait v hv).1]
  have hbefore : WaitTok.before { xid := xid, dest := src, eng := e, q := q, tok := tok } s.dev.waitToks = false :=
    List.any_eq_false.2 fun v hv => by
      have hother := (hwait v ((List.takeWhile_sublist _).subset hv)).2
      simp only [Bool.and_eq_true, beq_iff_eq]
      omega
  unfold State.takeToken
  simp only [hxid, hnew, hwaits, hwin, hrefused, Bool.false_eq_true, if_false]
  rw [if_neg (Nat.not_le.2 hroom), htok]
  simp only [hten, ne_eq, not_true_eq_false, if_false, hready, hbefore, Bool.false_eq_true, or_self]

theorem xid_of_awaiting {xid : Word64} {tr : Transfer} (h : s.awaiting xid = some tr) : tr.xid = xid := by
  have hp := List.find?_some h
  simp only [Bool.and_eq_true, beq_iff_eq] at hp
  exact hp.1.1

/-- COMPL with OK ends its transfer. -/
theorem takeCompl_ok {xid : Word64} {tr : Transfer} (h : s.awaiting xid = some tr) : s.takeCompl xid 0 = s.endTransfer tr .ok := by
  simp only [State.takeCompl, h]
  rfl

/-- No transfer with an XID is awaited where each of them is done. -/
theorem awaiting_none {xid : Word64} (h : ∀ v ∈ s.dev.transfers, v.xid = xid → v.done = true) : s.awaiting xid = none :=
  List.find?_eq_none.2 fun v hv => by
    by_cases hxid : v.xid = xid
    · simp [h v hv hxid]
    · simp [hxid]

/-- A transfer that ends is awaited no more. -/
theorem endTransfer_awaiting {xid : Word64} {tr : Transfer} (h : s.awaiting xid = some tr) (c : Code) :
    (s.endTransfer tr c).awaiting xid = none := by
  obtain ⟨l, hdev, hdone⟩ := endTransfer_dev s tr c
  refine awaiting_none fun v hv hxid => hdone v ?_ (hxid.trans (xid_of_awaiting h).symm)
  rwa [hdev] at hv

/-- The entries of a released slot leave the delivery table (R403). -/
theorem takeRelease_frees {srcDev slot : Nat} {d : Dedup} (hd : d ∈ (s.takeRelease srcDev slot).dev.dedup) :
    ¬(fld d.xid.toNat 52 12 = srcDev ∧ fld d.xid.toNat 39 13 = slot) := by
  have hbytes : ∀ (l : List Dedup) (u : State), (l.foldl (fun t _ => t.dedupBytes []) u).dev = u.dev := fun l u =>
    (Within.foldl (fun v _ => State.dedupBytes_within v []) (.refl _ u)).eq_dev rfl
  rw [State.takeRelease, hbytes] at hd
  simpa only [Bool.not_eq_true', Bool.and_eq_false_iff, beq_eq_false_iff_ne, not_and_or] using (List.mem_filter.1 hd).2

end Taken

section Commands

variable {n : Fin 64} {h : FlitHdr} {s : State}

theorem write_arrives {xid : Word64} {win : Fin 256} {srcTenant : Fin 1024} {off : Nat} {data : Bytes} {s2 : State} {w : Win}
    {runs : List (Nat × Nat × Nat)} (hturn : InTurn s n h) (hdata : data.length < 512) (hoff : off < 2 ^ 36)
    (hnew : s.delivered xid = none) (hwin : s.winFor win h.src = some w) (hten : w.srcTenant = srcTenant)
    (hin : off + data.length ≤ w.pages * 65536)
    (hx : (s.receive n (flitOf tyWrite h (writePayload xid win.val srcTenant.val off data))).1.xlateAll none w.tenant (w.base + off)
      data.length true = (s2, runs, none)) :
    exec (.write n h xid win srcTenant off data) s = .next (s2.writeEach runs data) := by
  obtain ⟨hxid, hwinf, htenf, hofff, hdataf⟩ := write_fields (h := h) (xid := xid) (win := win) (srcTenant := srcTenant) hdata hoff
  have hdev := (State.receive_within s n (flitOf tyWrite h (writePayload xid win.val srcTenant.val off data))).eq_dev rfl
  show Host.Outcome.next (s.arrive n _) = _
  rw [arrive_inTurn hturn, consume_write rfl]
  refine congrArg Host.Outcome.next (takeWrite_applied ?_ ?_)
  · rw [hxid, State.delivered, hdev]
    exact hnew
  · rw [hwinf, htenf, hofff, hdataf]
    exact windowWrite_allowed (by rw [State.winFor, hdev]; exact hwin) hten hin hx

theorem token_arrives {xid : Word64} {win : Fin 256} {engine : Fin 64} {q13 poison : Bool} {value : Word16} {bytes : Word64} {w : Win}
    (hturn : InTurn s n h) (hsome : engine.val ≠ 0 ∨ q13 = true ∨ poison = true ∨ value ≠ 0) (hdedup : ∀ d, d ∈ s.dev.dedup → d.xid ≠ xid)
    (hwait : ∀ v, v ∈ s.dev.waitToks → v.xid ≠ xid ∧ (v.eng ≠ engine.val ∨ v.q ≠ if q13 then 13 else 12))
    (hroom : s.dev.dedup.length < 4096) (hwin : s.winFor win h.src = some w) (hrefused : s.dev.refused.contains xid = false)
    (hten : (s.eng engine).tenant = w.tenant) (hready : s.tokWaits engine (if q13 then 13 else 12) = false) :
    exec (.token n h xid win engine q13 poison value bytes) s =
      .next ((s.receive n (flitOf tyToken h (tokenPayload xid win.val engine.val q13 poison value bytes))).1.enterTok
        { xid := xid, dest := h.src, eng := engine, q := if q13 then 13 else 12, tok := { value := value, poison := poison } }) := by
  obtain ⟨hxid, hwinf, htok⟩ := token_fields (h := h) (xid := xid) (win := win) (bytes := bytes) hsome
  have hkeeps := State.receive_within s n (flitOf tyToken h (tokenPayload xid win.val engine.val q13 poison value bytes))
  have hdev := hkeeps.eq_dev rfl
  have heng := EngineInstr.eng_of_within hkeeps rfl
  show Host.Outcome.next (s.arrive n _) = _
  rw [arrive_inTurn hturn, consume_token rfl]
  refine congrArg Host.Outcome.next (takeToken_enters hxid htok (by rwa [hdev]) (by rwa [hdev]) (by rwa [hdev]) (w := w) ?_ (by rwa [hdev])
    (by rwa [heng]) ?_)
  · rw [hwinf, State.winFor, hdev]
    exact hwin
  · rw [State.tokWaits, heng, hdev]
    exact hready

end Commands

/-- Settles O40: a flit in its turn is consumed by the state that received it; its words name what it is for. -/
theorem endToEndTransfers : Obligations.EndToEndTransfers := by
  unfold Obligations.EndToEndTransfers
  refine ⟨fun n h s hturn => ⟨?write, ?token, fun xid tr hawaits => ?compl, fun xid => ?wait, fun srcDev slot => ?release⟩,
    fun xid s => ⟨fun v hv hready hfirst hroom => ?waitTimer, fun tr hawaits htries hpath => ?resends, fun tr hawaits hends => ?ends⟩⟩
  case write =>
    rintro xid win srcTenant off data s1 s2 w runs rfl hdata hoff hnew hwin hten hin hx
    have hall := (State.writeEach_within s2 runs data)
    have hxlate := Within.of_pair hx (State.xlateAll_within _ none w.tenant (w.base + off) data.length true)
    have hdev := (State.receive_within s n (flitOf tyWrite h (writePayload xid win.val srcTenant.val off data))).eq_dev rfl
    refine ⟨_, write_arrives hturn hdata hoff hnew hwin hten hin hx, rfl, ?_, ?_⟩
    · rw [hall.eq_dev rfl, hxlate.eq_dev rfl, hdev]
    · rw [State.link, hall.eq_links rfl, hxlate.eq_links rfl]
      exact (receive_inTurn hturn).2
  case token =>
    intro xid win engine q13 poison value bytes w q hsome hdedup hwait hroom hwin hrefused hten hready
    obtain ⟨hqueue, hdelivered, -⟩ := enterTok_delivers
      (s.receive n (flitOf tyToken h (tokenPayload xid win.val engine.val q13 poison value bytes))).1
      { xid := xid, dest := h.src, eng := engine, q := q, tok := { value := value, poison := poison } }
    refine ⟨_, token_arrives hturn hsome hdedup hwait hroom hwin hrefused hten hready, ?_, hdelivered⟩
    rw [EngineInstr.eng_of_within (State.receive_within s n _) rfl] at hqueue
    exact hqueue
  case compl =>
    obtain ⟨hxid, hstatus⟩ := compl_fields (h := h) (xid := xid) (status := 0)
    have hawaits' : (s.receive n (flitOf tyCompl h (complPayload xid 0))).1.awaiting xid = some tr := by
      rw [State.awaiting, (State.receive_within s n _).eq_dev rfl]
      exact hawaits
    refine ⟨_, rfl, ?_⟩
    rw [arrive_inTurn hturn, consume_compl rfl, hxid, hstatus, show (0 : Byte).toNat = 0 from rfl, takeCompl_ok hawaits']
    exact endTransfer_awaiting hawaits' _
  case wait =>
    show Host.Outcome.next (s.arrive n _) = _
    rw [arrive_inTurn hturn, consume_wait rfl]
  case release =>
    obtain ⟨hdev, hslot⟩ := release_fields (h := h) (srcDev := srcDev) (slot := slot)
    refine ⟨_, rfl, fun d hd => ?_⟩
    rw [arrive_inTurn hturn, consume_release rfl, hdev, hslot] at hd
    exact takeRelease_frees hd
  case waitTimer =>
    obtain ⟨hqueue, -, hwait⟩ := enterTok_delivers { s with dev := { s.dev with waitToks := s.dev.waitToks.filter fun u => u != v } } v
    refine ⟨_, ?_, hqueue, ?_⟩
    · show execWaitTimer xid s = _
      simp only [execWaitTimer, hv, hready, hfirst, Bool.false_eq_true, or_self, if_false]
      rw [if_neg (Nat.not_le.2 hroom)]
    · rw [hwait]
      simp
  case resends =>
    show execE2eTimeout xid s = _
    simp only [execE2eTimeout, hawaits, hpath]
    exact if_neg (by simpa using htries)
  case ends =>
    refine ⟨s.peerLost tr, ?_, ?_⟩
    · show execE2eTimeout xid s = _
      simp only [execE2eTimeout, hawaits]
      exact if_pos (by simpa using hends)
    · rw [State.awaiting, State.peerLost, (freeErr_tables _ _ _).2]
      exact endTransfer_awaiting hawaits _

end Sys2Proof.EndToEnd

/-! Vector instructions: how one retires, the scratchpad runs that it writes, and the elements of its result (R302-R307, R315; O27-O30, O60). -/

namespace Sys2Proof.VectorRun

open Sys2Proof Sys2Proof.Machine Sys2Proof.Laws
open Sys2Proof.EndToEnd (leBytes_length)

theorem vec_of_within {ps : List Part} {s t : State} (h : Within ps s t) (hps : ps.contains .vecs = false) (k : Nat) :
    t.vec k = s.vec k := by rw [State.vec, h.eq_vecs hps, State.vec]

/-! ## Fields of an instruction word (R306) -/

/-- A field of IMM is a field of the word. -/
theorem vImm_eq_fld (w : Nat) {lo n : Nat} (h : lo + n ≤ 28) : vImm w lo n = fld w lo n := by
  refine Nat.eq_of_testBit_eq fun i => ?_
  simp only [vImm, fld, Nat.shiftRight_zero, Nat.testBit_mod_two_pow, Nat.testBit_shiftRight]
  by_cases hi : i < n
  · simp [hi, show lo + i < 28 by omega]
  · simp [hi]

theorem signed_eq_toInt {n : Nat} (hn : 0 < n) (v : Nat) : signed n (fld v 0 n) = (BitVec.ofNat n v).toInt := by
  have hpow : 2 ^ n = 2 * 2 ^ (n - 1) := by rw [← Nat.pow_succ', Nat.succ_eq_add_one, Nat.sub_add_cancel hn]
  simp only [signed, fld, Nat.shiftRight_zero, BitVec.toInt_eq_toNat_cond, BitVec.toNat_ofNat]
  generalize 2 ^ (n - 1) = half at hpow ⊢
  simp only [hpow, Nat.mul_lt_mul_left (Nat.zero_lt_two)]

/-- IMM as a 64-bit number is its 28 bits, sign-extended. -/
theorem vSimm_eq_signExtend (w : Nat) : vSimm w = ((BitVec.ofNat 28 w).signExtend 64).toNat := by
  rw [vSimm, signed_eq_toInt (by decide), BitVec.signExtend, BitVec.toNat_ofInt]
  rfl

/-! ## The retirement of an instruction (R304, R307) -/

/-- What the engine's event counters count of an instruction that retires. -/
def eventsCounted (u : State) (g opc : Nat) : State :=
  let u := u.event (.vec g) 2 1
  if 0x10 ≤ opc then u.event (.vec g) 3 (u.vec g).vl else u

theorem eventsCounted_within (u : State) (g opc : Nat) : Within [.hdrs] u (eventsCounted u g opc) :=
  .when (State.event_within _ _ _ _) (State.event_within _ _ _ _)

/-- The state after an instruction without a fault, from what its own part left and how that ended. -/
def retired (u : State) (g opc : Nat) (r : Handler) (e : VEnd) : State :=
  let u := eventsCounted u g opc
  let x := { u.vec g with vseq := (u.vec g).vseq + 1 }
  match e with
  | .jump pc => u.setVec g { x with run := some { r with pc := pc } }
  | .ret => (u.setVec g x).vecEnd g r .ok (leBytes 8 (x.sreg 1))
  | _ => u.setVec g { x with run := some { r with pc := r.pc + 1 } }

section Retire

variable {s u : State} {g opc w pc : Nat} {r : Handler} {e : VEnd} {body : State → Handler → Nat → State × VEnd} {c : Instr}

/-- An instruction that is the handler's next one runs its own part and retires. -/
theorem vecRun_retires (h : VecAt s g opc r w) (hbody : body s r w = (u, e)) (he : ∀ c va, e ≠ .fault c va) :
    s.vecRun g opc body = retired u g opc r e := by
  obtain ⟨hrun, hstate, hfetch, hopc, hgood⟩ := h
  have hon : ¬((s.hdr (.vec g)).pstate ≠ .on ∧ (s.hdr (.vec g)).pstate ≠ .stopping) := by
    rintro ⟨h1, h2⟩
    exact hstate.elim h1 h2
  simp only [State.vecRun, hrun, if_neg hon, hfetch, hopc, hgood, hbody, beq_self_eq_true, Bool.true_or, Bool.not_true,
    Bool.false_eq_true, if_false]
  cases e with
  | fault c va => exact absurd rfl (he c va)
  | go | jump | ret => rfl

/-- An instruction that goes on at pc changes its engine as its own part did, and memory no further. -/
theorem exec_goes (hexec : exec c s = .next (s.vecRun g opc body)) (h : VecAt s g opc r w) (hbody : body s r w = (u, e))
    (hend : e = .go ∧ pc = r.pc + 1 ∨ e = .jump pc) :
    ∃ t, exec c s = .next t ∧ t.vec g = (u.vec g).next r pc ∧ t.mem = u.mem := by
  have hcount := eventsCounted_within u g opc
  refine ⟨_, hexec, ?_⟩
  obtain ⟨rfl, rfl⟩ | rfl := hend
  all_goals
    rw [vecRun_retires h hbody nofun]
    exact ⟨(setVec_vec _ _ _).trans (by rw [vec_of_within hcount rfl]; rfl), hcount.eq_mem rfl⟩

/-- The end of a handler frees its engine and counts it (R313). -/
theorem vecEnd_vec (s : State) (g : Nat) (r : Handler) (status : Code) (payload : Bytes) : (s.vecEnd g r status payload).vec g =
    { s.vec g with run := none, lastTenant := r.tenant, lastFaulted := status != .ok, handled := (s.vec g).handled + 1 } := by
  rw [State.vecEnd, setVec_vec, vec_of_within (State.autoReply_within s _ _ _ _ _) rfl]

/-- An instruction that ends its handler. -/
theorem exec_returns (hexec : exec c s = .next (s.vecRun g opc body)) (h : VecAt s g opc r w) (hbody : body s r w = (s, .ret)) :
    ∃ t, exec c s = .next t ∧ t.vec g = { s.vec g with
      vseq := (s.vec g).vseq + 1, run := none, lastTenant := r.tenant, lastFaulted := false, handled := (s.vec g).handled + 1 } := by
  refine ⟨_, hexec, ?_⟩
  rw [vecRun_retires h hbody nofun, retired, vecEnd_vec, setVec_vec, vec_of_within (eventsCounted_within s g opc) rfl]
  rfl

end Retire

/-! ## Bytes outside a run -/

theorem sameMemOutside_of_mem {s t : State} (h : t.mem = s.mem) (a n : Nat) : SameMemOutside s t a n := fun b _ => by rw [h]

theorem sameMemOutside_congr {s t u : State} {a n : Nat} (h : SameMemOutside s t a n) (hmem : u.mem = t.mem) : SameMemOutside s u a n := by
  simpa only [SameMemOutside, hmem] using h

theorem sameMemOutside_trans {s t u : State} {a n : Nat} (h : SameMemOutside s t a n) (h' : SameMemOutside t u a n) :
    SameMemOutside s u a n := fun b hb => (h' b hb).trans (h b hb)

theorem sameMemOutside_mono {s t : State} {a n b k : Nat} (h : SameMemOutside s t b k) (hlo : a ≤ b) (hhi : b + k ≤ a + n) :
    SameMemOutside s t a n := fun c hc => h c (by omega)

/-- A run that lies outside reads as before. -/
theorem memRun_outside {s t : State} {a n b k : Nat} (h : SameMemOutside s t a n) (hout : b + k ≤ a ∨ a + n ≤ b) :
    memRun t.mem 0 b k = memRun s.mem 0 b k :=
  List.map_congr_left fun i hi => h (b + i) (by have := List.mem_range.1 hi; omega)

/-! ## Runs in the helper scratchpads (R268, R302) -/

/-- The run of n bytes at DPA a lies in the helper scratchpads. -/
def InPads (a n : Nat) : Prop := hpBase ≤ a ∧ a + n ≤ hpBase + 0x1000000

theorem InPads.part {a n b k : Nat} (h : InPads a n) (hlo : a ≤ b) (hhi : b + k ≤ a + n) : InPads b k := by
  unfold InPads at *
  omega

theorem inPads_hpDpa {h off n : Nat} (hh : h < 32) (hoff : off + n ≤ 0x80000) : InPads (hpDpa h off) n := by
  unfold InPads hpDpa
  omega

/-- A legal scratchpad operand of a vector engine lies in its gallery's scratchpads. -/
theorem vecSp_inPads {s : State} {g tenant v unit n a : Nat} (hg : g < 16) (h : s.vecSp g tenant v unit n = .ok a) : InPads a n := by
  have hhalf : fld v 19 1 < 2 := Nat.mod_lt _ (by decide)
  simp only [State.vecSp] at h
  split at h
  · cases h
  · split at h
    · cases h
    · cases h
      exact inPads_hpDpa (by omega) (by omega)

theorem InPads.inRegion {a n : Nat} (h : InPads a n) : inRegion a n = true := by
  obtain ⟨hlo, hhi⟩ := h
  simp [Machine.inRegion, hlo, hhi]

theorem InPads.not_inHbm {a n : Nat} (h : InPads a n) : inHbm a n = false := by
  have hbase : 2 ^ 39 < hpBase := by decide
  have hlo := h.1
  simp only [inHbm, decide_eq_false_iff_not]
  omega

/-- A write to the helper scratchpads puts its bytes into memory and is noted by the core whose scratchpad it is (R318, R322). -/
theorem devWriteBy_pads {a : Nat} {bs : Bytes} (h : InPads a bs.length) (s : State) (by_ : Option Nat) (hint : Nat) :
    s.devWriteBy by_ hint a bs =
      (if bs.length = 0 then s else ({ s with mem := memPut s.mem 0 a bs } : State).noteWatch by_ a bs.length, none) := by
  by_cases hbs : bs.length = 0
  · simp only [State.devWriteBy, if_pos hbs]
  · simp only [State.devWriteBy, if_neg hbs, h.inRegion, h.not_inHbm, Bool.not_true, Bool.false_eq_true, if_false]

/-- What a write to the helper scratchpads leaves in memory. -/
theorem devWriteBy_pads_mem {a n : Nat} {bs : Bytes} (h : InPads a n) (hlen : bs.length = n) (s : State) (by_ : Option Nat) (hint : Nat) :
    memRun (s.devWriteBy by_ hint a bs).1.mem 0 a n = bs ∧ SameMemOutside s (s.devWriteBy by_ hint a bs).1 a n := by
  subst hlen
  rw [devWriteBy_pads h]
  by_cases hbs : bs.length = 0
  · rw [if_pos hbs, List.length_eq_zero_iff.1 hbs]
    exact ⟨rfl, sameMemOutside_of_mem rfl _ _⟩
  · rw [if_neg hbs]
    have hmem := (State.noteWatch_within { s with mem := memPut s.mem 0 a bs } by_ a bs.length).eq_mem rfl
    exact ⟨by rw [hmem]; exact memRun_memPut s.mem 0 a bs, fun b hb => by rw [hmem]; exact memGet_memPut_out s.mem 0 a b bs hb⟩

theorem devWrite_pads_mem {a n : Nat} {bs : Bytes} (h : InPads a n) (hlen : bs.length = n) (s : State) (hint : Nat) :
    memRun (s.devWrite hint a bs).1.mem 0 a n = bs ∧ SameMemOutside s (s.devWrite hint a bs).1 a n :=
  devWriteBy_pads_mem h hlen s none hint

/-! ## The elements of a result (R306) -/

theorem length_eltBytes (e : Nat) (vs : List Nat) : (eltBytes e vs).length = vs.length * e := by
  simp [eltBytes, Function.comp_def, leBytes_length]

/-- The bytes of one element in those of all. -/
theorem eltBytes_elt (e : Nat) {vs : List Nat} {i : Nat} (hi : i < vs.length) :
    ((eltBytes e vs).drop (i * e)).take e = leBytes e (vs.getD i 0) := by
  induction vs generalizing i with
  | nil => simp at hi
  | cons v vs ih =>
    have hcons : eltBytes e (v :: vs) = leBytes e v ++ eltBytes e vs := rfl
    cases i with
    | zero => rw [hcons, Nat.zero_mul, List.drop_zero, List.take_left' (leBytes_length e v)]; rfl
    | succ i =>
      rw [hcons, Nat.succ_mul, Nat.add_comm, ← List.drop_drop, List.drop_left' (leBytes_length e v), ih (by simpa using hi)]
      rfl

/-- The elements vs that sel selects stand at DPA d, the others are as they were, and so is everything outside. -/
def Placed (s t : State) (d e : Nat) (sel : Nat → Prop) [DecidablePred sel] (vs : List Nat) : Prop :=
  SameMemOutside s t d (vs.length * e) ∧
    ∀ i, i < vs.length → memRun t.mem 0 (d + i * e) e = if sel i then leBytes e (vs.getD i 0) else memRun s.mem 0 (d + i * e) e

/-- A write of all elements. -/
theorem devWrite_placed {d e : Nat} {vs : List Nat} (h : InPads d (vs.length * e)) (s : State) (hint : Nat) :
    Placed s (s.devWrite hint d (eltBytes e vs)).1 d e (fun _ => True) vs := by
  have hlen := length_eltBytes e vs
  obtain ⟨hrun, hout⟩ := devWrite_pads_mem h hlen s hint
  refine ⟨hout, fun i hi => ?_⟩
  have hin : i * e + e ≤ vs.length * e := by
    rw [← Nat.succ_mul]
    exact Nat.mul_le_mul_right e hi
  rw [if_pos trivial, ← SlotSteps.memRun_part _ _ _ hin, hrun, eltBytes_elt e hi]

/-- One element of a masked result is written where the mask selects it. -/
def putElt (m : BitVec 4096) (e d : Nat) (s : State) (iv : Nat × Nat) : State :=
  if m.getLsbD iv.1 then (s.devWrite 0 (d + iv.1 * e) (leBytes e iv.2)).1 else s

theorem putElt_mem {m : BitVec 4096} {e d i : Nat} (v : Nat) (h : InPads (d + i * e) e) (s : State) :
    (memRun (putElt m e d s (i, v)).mem 0 (d + i * e) e = if m.getLsbD i = true then leBytes e v else memRun s.mem 0 (d + i * e) e) ∧
      SameMemOutside s (putElt m e d s (i, v)) (d + i * e) e := by
  have hwrite := devWrite_pads_mem h (leBytes_length e v) s 0
  by_cases hsel : m.getLsbD i = true
  · simpa only [putElt, if_pos hsel] using hwrite
  · simp only [putElt, if_neg hsel]
    exact ⟨trivial, sameMemOutside_of_mem rfl _ _⟩

/-- The writes of the elements that a mask selects, in order. -/
theorem putElts_placed (m : BitVec 4096) {d e : Nat} {vs : List Nat} (h : InPads d (vs.length * e)) (s : State) :
    Placed s (((List.range vs.length).zip vs).foldl (putElt m e d) s) d e (fun i => m.getLsbD i = true) vs := by
  induction vs using List.reverseRecOn with
  | nil => exact ⟨sameMemOutside_of_mem rfl _ _, fun i hi => absurd hi (Nat.not_lt_zero i)⟩
  | append_singleton vs v ih =>
    have hlen : (vs ++ [v]).length * e = vs.length * e + e := by simp [Nat.succ_mul]
    rw [hlen] at h
    obtain ⟨hout, helts⟩ := ih (h.part le_rfl (by omega))
    rw [List.length_append, List.length_singleton, List.range_succ, List.zip_append (by simp), List.foldl_append]
    generalize ((List.range vs.length).zip vs).foldl (putElt m e d) s = t at hout helts ⊢
    obtain ⟨hlast, hkeep⟩ := putElt_mem (m := m) v (h.part (b := d + vs.length * e) (k := e) (by omega) (by omega)) t
    refine ⟨?_, fun i hi => ?_⟩
    · rw [hlen]
      exact sameMemOutside_trans (sameMemOutside_mono hout le_rfl (by omega)) (sameMemOutside_mono hkeep (by omega) (by omega))
    · rcases Nat.lt_succ_iff_lt_or_eq.1 (by simpa using hi) with hi | rfl
      · have hbefore : i * e + e ≤ vs.length * e := by
          rw [← Nat.succ_mul]
          exact Nat.mul_le_mul_right e hi
        rw [show List.getD (vs ++ [v]) i 0 = vs.getD i 0 from List.getD_append _ _ _ _ hi, ← helts i hi]
        exact memRun_outside hkeep (.inl (by omega))
      · rw [show List.getD (vs ++ [v]) vs.length 0 = v by simp, ← memRun_outside hout (.inr le_rfl)]
        exact hlast

theorem Placed.of_mem {s t u : State} {d e : Nat} {sel : Nat → Prop} [DecidablePred sel] {vs : List Nat} (h : Placed s t d e sel vs)
    (hmem : u.mem = t.mem) : Placed s u d e sel vs := by
  simpa only [Placed, SameMemOutside, hmem] using h

theorem ringsSeen_vec (t old : State) (g k : Nat) : (t.ringsSeen old g).vec k = t.vec k :=
  vec_of_within (Within.ringsSeen (ps := [.msgs, .freeCtr]) rfl (.refl _ _)) rfl k

theorem ringsSeen_mem (t old : State) (g : Nat) : (t.ringsSeen old g).mem = t.mem :=
  (Within.ringsSeen (ps := [.msgs, .freeCtr]) rfl (.refl _ _)).eq_mem rfl

/-- The elements of a result that MS selects. -/
theorem vecOut_placed {d w : Nat} {vs : List Nat} (h : InPads d (vs.length * vE w)) (s : State) (g : Nat) :
    Placed s (s.vecOut g w d false vs) d (vE w) (fun i => vMs w = 0 ∨ ((s.vec g).mk_ (vMs w)).getLsbD i = true) vs := by
  by_cases hms : vMs w = 0
  · have hout : s.vecOut g w d false vs = (s.devWrite 0 d (eltBytes (vE w) vs)).1.ringsSeen s g := by
      simp only [State.vecOut, Bool.false_eq_true, if_false, if_pos hms]
    rw [hout]
    simpa [hms] using (devWrite_placed h s 0).of_mem (ringsSeen_mem _ s g)
  · have hout : s.vecOut g w d false vs =
        (((List.range vs.length).zip vs).foldl (putElt ((s.vec g).mk_ (vMs w)) (vE w) d) s).ringsSeen s g := by
      simp only [State.vecOut, Bool.false_eq_true, if_false, if_neg hms]
      rfl
    rw [hout]
    simpa [hms] using (putElts_placed ((s.vec g).mk_ (vMs w)) h s).of_mem (ringsSeen_mem _ s g)

/-- A vector result leaves what is outside its run, whatever its operands (R306, R315). -/
theorem vecOut_outside {d w : Nat} {vs : List Nat} (h : InPads d (vs.length * vE w)) (s : State) (g : Nat) (clash : Bool) :
    SameMemOutside s (s.vecOut g w d clash vs) d (vs.length * vE w) := by
  cases clash with
  | false => exact (vecOut_placed h s g).1
  | true =>
    have hlen : ((List.range vs.length).map (s.vecOpen g w vs)).length = vs.length := by simp
    rw [← hlen] at h ⊢
    exact (vecOut_placed h s g).1

theorem vecOut_vec (s : State) (g w d : Nat) (clash : Bool) (vs : List Nat) (k : Nat) : (s.vecOut g w d clash vs).vec k = s.vec k :=
  vec_of_within (State.vecOut_within s g w d clash vs) rfl k

/-! ## Operands and instructions that write one result (R305, R306) -/

theorem eltsOf_length (e n : Nat) (b : Bytes) : (eltsOf e n b).length = n := by
  induction n generalizing b with
  | zero => rfl
  | succ n ih => rw [eltsOf, List.length_cons, ih]

section Operands

variable {s u : State} {g w n : Nat} {r : Handler}

theorem vecIn_length {reg a : Nat} {as : List Nat} (h : s.vecIn g r w reg n = .ok (a, as)) : as.length = n := by
  rw [State.vecIn] at h
  split at h
  · cases h
    exact eltsOf_length _ _ _
  · cases h

theorem vecInB_length {ba : Option Nat} {bs : List Nat} (h : s.vecInB g r w n = .ok (ba, bs)) : bs.length = n := by
  rw [State.vecInB] at h
  split at h
  · cases h
    exact List.length_replicate
  · split at h
    · cases h
      exact vecIn_length ‹_›
    · cases h

/-- No operand stands in the way of a result at d. -/
theorem noClash_of_operands {k d a : Nat} {os : List (Option Nat)} (ha : runsClash k a d = false)
    (hos : ∀ o ∈ os, ∀ p, o = some p → runsClash k p d = false) :
    (((some a :: os).filterMap id).any fun p => runsClash k p d) = false := by
  simp only [List.any_eq_false, List.mem_filterMap, List.mem_cons, id, exists_eq_right, Bool.not_eq_true]
  rintro p (hp | hp)
  · exact Option.some.inj hp ▸ ha
  · exact hos _ hp p rfl

variable {opc d : Nat} {clash : Bool} {vs : List Nat} {body : State → Handler → Nat → State × VEnd} {c : Instr}

/-- An instruction that writes one result of n elements at d, to the state u that its reads left. -/
theorem exec_writes (hexec : exec c s = .next (s.vecRun g opc body)) (h : VecAt s g opc r w) (hd : InPads d (n * vE w))
    (hu : u.vec g = s.vec g) (hbody : body s r w = (u.vecOut g w d clash vs, .go)) (hlen : vs.length = n) :
    ∃ t, exec c s = .next t ∧ t.vec g = (s.vec g).next r (r.pc + 1) ∧ SameMemOutside u t d (n * vE w) ∧
      (clash = false → ∀ f : Nat → Nat, (∀ i, i < n → vs.getD i 0 = f i) → VecResult u t g w d n f) := by
  subst hlen
  obtain ⟨t, ht, hvec, hmem⟩ := exec_goes hexec h hbody (.inl ⟨rfl, rfl⟩)
  refine ⟨t, ht, by rw [hvec, vecOut_vec, hu], sameMemOutside_congr (vecOut_outside hd u g clash) hmem, ?_⟩
  rintro rfl f hf i hi
  rw [hmem, (vecOut_placed hd u g).2 i hi, hf i hi]

end Operands

end Sys2Proof.VectorRun

/-! The modular vector instructions (R306-R308; O28). -/

namespace Sys2Proof.ModularVectors

open Sys2Proof Sys2Proof.Machine Sys2Proof.Laws Sys2Proof.VectorRun

/-! ## Residues (R308) -/

/-- The modulus of an instruction: q, or 2^EW-width where q is 0. -/
def modulus (w q : Nat) : Nat := if q = 0 then 2 ^ vBits w else q

theorem modulus_pos (w q : Nat) : 0 < modulus w q := by
  rw [modulus]
  split
  · exact Nat.two_pow_pos _
  · omega

theorem vmod_eq (w q x : Nat) : vmod w q x = x % modulus w q := by
  rw [vmod, modulus]
  split <;> rfl

/-- A difference of residues is the residue of the integers' difference. -/
theorem residue_sub {m : Nat} (hm : 0 < m) (a b : Nat) : (a % m + (m - b % m)) % m = (((a : Int) - b) % m).toNat := by
  have hb : b % m ≤ m := (Nat.mod_lt b hm).le
  have hint : (((a % m + (m - b % m)) % m : Nat) : Int) = ((a : Int) - b) % m := by
    push_cast [Nat.cast_sub hb]
    rw [show (a : Int) % m + (m - b % m) = a % m - b % m + m by ring, Int.add_emod_right, ← Int.sub_emod]
  rw [← hint, Int.toNat_natCast]

theorem residue_neg {m : Nat} (hm : 0 < m) (a : Nat) : (m - a % m) % m = ((-(a : Int)) % m).toNat := by
  simpa using residue_sub hm 0 a

/-- The product that MF asks for. -/
theorem vmul_eq (w q a b : Nat) : vmul w q a b =
    if vMf w then redc (a % modulus w q * (b % modulus w q)) q (negInv q % 2 ^ vBits w) (2 ^ vBits w) else a * b % modulus w q := by
  simp only [vmul, vmod_eq, ← Nat.mul_mod]

/-! ## The instructions -/

section Modular

variable {s : State} {g opc srcs w a d : Nat} {r : Handler} {f : Nat → Nat → Nat → Nat → Nat → Nat} {op : Nat → Nat → Nat → Nat}
  {as bs cs : List Nat} {ba ca : Option Nat} {c : Instr}

/-- An element-wise modular instruction with legal operands writes its operation of each place's elements. -/
theorem exec_modular (hexec : exec c s = .next (s.vecModular g opc srcs f)) (hg : g < 16) (h : VecAt s g opc r w)
    (hq : vecQOk w (s.vec g).q.toNat = true) (ha : s.vecIn g r w (vA w) (s.vec g).vl = .ok (a, as))
    (hb : (if srcs ≤ 1 then .ok (none, List.replicate (s.vec g).vl 0) else s.vecInB g r w (s.vec g).vl) = Except.ok (ba, bs))
    (hc : (if srcs ≤ 2 then .ok (none, List.replicate (s.vec g).vl 0)
      else (s.vecIn g r w (vC w) (s.vec g).vl).map fun p => (some p.1, p.2)) = Except.ok (ca, cs))
    (hblen : bs.length = (s.vec g).vl) (hclen : cs.length = (s.vec g).vl)
    (hd : s.vecSp g r.tenant ((s.vec g).sreg (vD w)) (vE w) ((s.vec g).vl * vE w) = .ok d)
    (hop : ∀ a b c, f w (s.vec g).q.toNat a b c = op a b c) :
    ∃ t, exec c s = .next t ∧ t.vec g = (s.vec g).next r (r.pc + 1) ∧ SameMemOutside s t d ((s.vec g).vl * vE w) ∧
      (runsClash ((s.vec g).vl * vE w) a d = false → (∀ b, ba = some b → runsClash ((s.vec g).vl * vE w) b d = false) →
        (∀ c, ca = some c → runsClash ((s.vec g).vl * vE w) c d = false) →
        VecResult s t g w d (s.vec g).vl fun i => op (as.getD i 0) (bs.getD i 0) (cs.getD i 0)) := by
  have halen := vecIn_length ha
  obtain ⟨t, ht, hvec, hout, hres⟩ := exec_writes hexec h (vecSp_inPads hg hd) rfl (by
    simp only [hq, ha, hb, hc, hd, Bool.not_true, Bool.false_eq_true, if_false]
    rfl) (by simp [halen, hblen, hclen])
  refine ⟨t, ht, hvec, hout, fun hca hcb hcc => hres (noClash_of_operands hca ?_) _ fun i hi => ?_⟩
  · simpa using ⟨hcb, hcc⟩
  · rw [← hop]
    simp [hi, halen, hblen, hclen]

end Modular

/-- Settles O28: the five instructions are one, of five operations on residues. -/
theorem vectorModular : Obligations.VectorModular := by
  unfold Obligations.VectorModular
  intro g s r w a as ba ca bs cs d io x n q m prod hio h hq ha hb hc hd
  have hm : 0 < m := modulus_pos w q
  have hmod : ∀ v, vmod w q v = v % m := vmod_eq w q
  have hmul : ∀ a b, vmul w q a b = prod a b := vmul_eq w q
  have hzeros : (List.replicate n 0).length = n := List.length_replicate
  simp only [List.mem_cons, List.not_mem_nil, or_false] at hio
  rcases hio with rfl | rfl | rfl | rfl | rfl
  · obtain ⟨rfl, rfl⟩ := hc
    exact exec_modular rfl g.isLt h hq ha hb rfl (vecInB_length hb) hzeros hd fun a b _ => by
      rw [hmod, hmod, hmod, ← Nat.add_mod]
  · obtain ⟨rfl, rfl⟩ := hc
    exact exec_modular rfl g.isLt h hq ha hb rfl (vecInB_length hb) hzeros hd fun a b _ => by
      rw [hmod, hmod, hmod]
      exact residue_sub hm a b
  · obtain ⟨rfl, rfl⟩ := hc
    exact exec_modular rfl g.isLt h hq ha hb rfl (vecInB_length hb) hzeros hd fun a b _ => hmul a b
  · obtain ⟨cp, hcp, rfl⟩ := hc
    exact exec_modular rfl g.isLt h hq ha hb (by rw [hcp]; rfl) (vecInB_length hb) (vecIn_length hcp) hd fun a b c => by
      rw [hmod, hmod, hmul, Nat.add_mod_mod]
  · obtain ⟨rfl, rfl⟩ := hb
    obtain ⟨rfl, rfl⟩ := hc
    exact exec_modular rfl g.isLt h hq ha rfl rfl hzeros hzeros hd fun a _ _ => by
      rw [hmod, hmod]
      exact residue_neg hm a

end Sys2Proof.ModularVectors

/-! The scalar vector instructions and those on masks (R304, R307, R313; O27). -/

namespace Sys2Proof.ScalarsAndMasks

open Sys2Proof Sys2Proof.Machine Sys2Proof.Laws Sys2Proof.VectorRun
open Sys2Proof.EndToEnd (leBytes_length)

/-! ## Scalar registers (R304) -/

theorem sreg_lt (x : Vec) (k : Nat) : x.sreg k < 2 ^ 64 := by
  rw [Vec.sreg]
  split
  · decide
  · exact BitVec.isLt _

theorem setS_vl (x : Vec) (k v : Nat) : (x.setS k v).vl = x.vl := by
  rw [Vec.setS]
  split <;> rfl

theorem setS_sreg (x : Vec) {k v : Nat} (hk : k ≠ 0) (hv : v < 2 ^ 64) : (x.setS k v).sreg k = v := by
  rw [Vec.setS, if_neg hk, Vec.sreg, if_neg hk, tget_tset_self, BitVec.toNat_ofNat, Nat.mod_eq_of_lt hv]

theorem next_sreg (x : Vec) (r : Handler) (pc k : Nat) : (x.next r pc).sreg k = x.sreg k := rfl

/-! ## Masks (R304, R307) -/

theorem maskOf_getLsbD (l : List Bool) {i : Nat} (hi : i < 4096) : (maskOf l).getLsbD i = l.getD i false := by
  rw [maskOf, BitVec.getLsbD_ofNat, decide_eq_true hi, Bool.true_and]
  clear hi
  induction l generalizing i with
  | nil => simp
  | cons b l ih =>
    have hb : b2n b < 2 ^ 1 := by cases b <;> decide
    rw [List.foldr_cons, Nat.add_comm]
    cases i with
    | zero => cases b <;> simp [b2n, Nat.testBit_zero, Nat.add_mod]
    | succ i =>
      rw [List.getD_cons_succ, ← ih, Nat.testBit_succ]
      congr 1
      omega

/-- A bit of the number that a run of memory spells. -/
theorem ofLe_testBit (b : Bytes) (i : Nat) : (ofLe b).testBit i = (b.getD (i / 8) 0).getLsbD (i % 8) := by
  induction b generalizing i with
  | nil => simp [ofLe]
  | cons x b ih =>
    have hcons : ofLe (x :: b) = 2 ^ 8 * ofLe b + x.toNat := by simp only [ofLe, List.foldr_cons]; omega
    rw [hcons, Nat.testBit_two_pow_mul_add _ x.isLt]
    by_cases hi : i < 8
    · rw [if_pos hi, Nat.div_eq_of_lt hi, Nat.mod_eq_of_lt hi]
      rfl
    · obtain ⟨j, rfl⟩ := Nat.exists_eq_add_of_le (Nat.le_of_not_lt hi)
      rw [if_neg hi, Nat.add_sub_cancel_left, ih, Nat.add_mod_left, Nat.add_comm, Nat.add_div_right _ (by decide)]
      rfl

theorem num_testBit (s : State) (a : Nat) {i n : Nat} (hi : i / 8 < n) :
    (s.num a n).testBit i = (memGet s.mem 0 (a + i / 8)).getLsbD (i % 8) := by
  rw [State.num, ofLe_testBit, State.bytes, memRun, List.getD_eq_getElem?_getD]
  simp [hi]

theorem mk_setMask (x : Vec) (k : Nat) (m : BitVec 4096) : ({ x with mks := tset x.mks k m } : Vec).mk_ k = m := tget_tset_self _ _ _ _

/-! ## The scalar instructions -/

section Scalar

variable {g : Fin 16} {s : State} {r : Handler} {w : Nat}

/-- An instruction that changes its engine's registers alone. -/
theorem exec_vecReg {c : Instr} {opc : Nat} {f : Nat → Vec → Vec}
    (hexec : exec c s = .next (s.vecRun g opc fun s _ w => s.vecReg g (f w))) (h : VecAt s g opc r w) :
    ∃ t, exec c s = .next t ∧ t.mem = s.mem ∧ t.vec g = (f w (s.vec g)).next r (r.pc + 1) := by
  obtain ⟨t, ht, hvec, hmem⟩ := exec_goes hexec h rfl (.inl ⟨rfl, rfl⟩)
  exact ⟨t, ht, hmem, by rw [hvec, setVec_vec]⟩

theorem vbnz_branches (h : VecAt s g 0x0A r w) : ∃ t, exec (.vbnz g) s = .next t ∧ t.mem = s.mem ∧
    t.vec g = ((s.vec g).setS (vD w) ((s.vec g).sreg (vD w) + (2 ^ 64 - 1))).next r
      (if ((s.vec g).setS (vD w) ((s.vec g).sreg (vD w) + (2 ^ 64 - 1))).sreg (vD w) ≠ 0 then fld w 0 12 else r.pc + 1) := by
  obtain ⟨t, ht, hvec, hmem⟩ := exec_goes (c := .vbnz g) rfl h rfl
    (pc := if ((s.vec g).setS (vD w) ((s.vec g).sreg (vD w) + (2 ^ 64 - 1))).sreg (vD w) ≠ 0 then fld w 0 12 else r.pc + 1) (by
      rw [vImm_eq_fld w (by decide)]
      split
      · exact .inr rfl
      · exact .inl ⟨rfl, rfl⟩)
  exact ⟨t, ht, hmem, by rw [hvec, setVec_vec]⟩

theorem vsetvl_sets (h : VecAt s g 0x0B r w) : ∃ t, exec (.vsetvl g) s = .next t ∧ t.mem = s.mem ∧
    (t.vec g).vl = min ((s.vec g).sreg (vA w)) 4096 ∧
    (vD w ≠ 0 → (t.vec g).sreg (vD w) = min ((s.vec g).sreg (vA w)) 4096) := by
  obtain ⟨t, ht, hmem, hvec⟩ := exec_vecReg (c := .vsetvl g) rfl h
  refine ⟨t, ht, hmem, by rw [hvec]; exact setS_vl _ _ _, fun hd => ?_⟩
  rw [hvec, next_sreg]
  exact setS_sreg _ hd (by omega)

end Scalar

/-! ## Comparison, selection, masks in memory -/

section Masks

variable {g : Fin 16} {s : State} {r : Handler} {w a d : Nat} {as bs : List Nat} {ba : Option Nat}

theorem vcmp_sets (h : VecAt s g 0x18 r w) (ha : s.vecIn g r w (vA w) (s.vec g).vl = .ok (a, as))
    (hb : s.vecInB g r w (s.vec g).vl = .ok (ba, bs)) : ∃ t, exec (.vcmp g) s = .next t ∧ t.mem = s.mem ∧
      (t.vec g).vseq = (s.vec g).vseq + 1 ∧ ∀ i, i < 4096 → ((t.vec g).mk_ (fld w 0 2)).getLsbD i =
        (decide (i < (s.vec g).vl) && vecCond (fld w 2 2) (as.getD i 0) (bs.getD i 0)) := by
  obtain ⟨t, ht, hvec, hmem⟩ := exec_goes (c := .vcmp g) rfl h (by
    simp only [ha, hb]
    rfl) (.inl ⟨rfl, rfl⟩)
  rw [setVec_vec] at hvec
  refine ⟨t, ht, hmem, by rw [hvec]; rfl, fun i hi => ?_⟩
  rw [hvec, vImm_eq_fld w (lo := 0) (by decide), vImm_eq_fld w (lo := 2) (by decide)]
  refine ((congrArg (·.getLsbD i) (mk_setMask _ _ _)).trans (maskOf_getLsbD _ hi)).trans ?_
  by_cases hin : i < (s.vec g).vl
  · simp [hin, vecIn_length ha, vecInB_length hb]
  · simp [hin, vecIn_length ha, vecInB_length hb]

theorem vsel_writes (h : VecAt s g 0x19 r w) (ha : s.vecIn g r w (vA w) (s.vec g).vl = .ok (a, as))
    (hb : s.vecInB g r w (s.vec g).vl = .ok (ba, bs))
    (hd : s.vecSp g r.tenant ((s.vec g).sreg (vD w)) (vE w) ((s.vec g).vl * vE w) = .ok d) :
    ∃ t, exec (.vsel g) s = .next t ∧ t.vec g = (s.vec g).next r (r.pc + 1) ∧ SameMemOutside s t d ((s.vec g).vl * vE w) ∧
      (runsClash ((s.vec g).vl * vE w) a d = false → (∀ b, ba = some b → runsClash ((s.vec g).vl * vE w) b d = false) →
        VecResult s t g w d (s.vec g).vl fun i => if ((s.vec g).mk_ (fld w 0 2)).getLsbD i then as.getD i 0 else bs.getD i 0) := by
  have halen := vecIn_length ha
  have hblen := vecInB_length hb
  obtain ⟨t, ht, hvec, hout, hres⟩ := exec_writes (c := .vsel g) rfl h (vecSp_inPads g.isLt hd) rfl (by
    simp only [ha, hb, hd]
    rfl) (by simp [halen, hblen])
  refine ⟨t, ht, hvec, hout, fun hca hcb => hres (noClash_of_operands hca (by simpa using hcb)) _ fun i hi => ?_⟩
  rw [vImm_eq_fld w (by decide)]
  simp [hi, halen, hblen]

theorem vmkld_loads (h : VecAt s g 0x1A r w) (ha : s.vecSp g r.tenant ((s.vec g).sreg (vA w)) 1 (((s.vec g).vl + 7) / 8) = .ok a) :
    ∃ t, exec (.vmkld g) s = .next t ∧ t.mem = s.mem ∧ (t.vec g).vseq = (s.vec g).vseq + 1 ∧ ∀ i, i < (s.vec g).vl → i < 4096 →
      ((t.vec g).mk_ (fld w 0 2)).getLsbD i = (memGet s.mem 0 (a + i / 8)).getLsbD (i % 8) := by
  obtain ⟨t, ht, hvec, hmem⟩ := exec_goes (c := .vmkld g) rfl h (by
    simp only [ha]
    rfl) (.inl ⟨rfl, rfl⟩)
  rw [setVec_vec, vImm_eq_fld w (by decide)] at hvec
  refine ⟨t, ht, hmem, by rw [hvec]; rfl, fun i hi hi' => ?_⟩
  rw [hvec]
  refine (congrArg (·.getLsbD i) (mk_setMask _ _ _)).trans ?_
  rw [BitVec.getLsbD_ofNat, decide_eq_true hi', Bool.true_and, Nat.mul_comm, Nat.add_comm,
    Nat.testBit_two_pow_mul_add _ (Nat.mod_lt _ (Nat.two_pow_pos _)), if_pos hi, Nat.testBit_mod_two_pow, decide_eq_true hi, Bool.true_and]
  exact num_testBit s a (by omega)

theorem vmkst_stores (h : VecAt s g 0x1B r w) (hd : s.vecSp g r.tenant ((s.vec g).sreg (vD w)) 1 (((s.vec g).vl + 7) / 8) = .ok d) :
    ∃ t, exec (.vmkst g) s = .next t ∧ t.vec g = (s.vec g).next r (r.pc + 1) ∧ SameMemOutside s t d (((s.vec g).vl + 7) / 8) ∧
      memRun t.mem 0 d (((s.vec g).vl + 7) / 8) = leBytes (((s.vec g).vl + 7) / 8) ((s.vec g).mk_ (fld w 0 2)).toNat := by
  obtain ⟨t, ht, hvec, hmem⟩ := exec_goes (c := .vmkst g) rfl h (by
    simp only [hd]
    rfl) (.inl ⟨rfl, rfl⟩)
  obtain ⟨hrun, hout⟩ := devWrite_pads_mem (vecSp_inPads g.isLt hd)
    (leBytes_length (((s.vec g).vl + 7) / 8) ((s.vec g).mk_ (fld w 0 2)).toNat) s 0
  rw [ringsSeen_mem, vImm_eq_fld w (by decide)] at hmem
  refine ⟨t, ht, ?_, sameMemOutside_congr hout hmem, by rw [hmem]; exact hrun⟩
  rw [hvec, ringsSeen_vec, vec_of_within (State.devWrite_within _ _ _ _) rfl]

end Masks

/-- Settles O27: a scalar instruction changes registers alone, a mask's bits are those of its comparisons or of its bytes. -/
theorem vectorScalarsAndMasks : Obligations.VectorScalarsAndMasks := by
  unfold Obligations.VectorScalarsAndMasks
  refine ⟨fun g s r w => ⟨fun h => ?vnop, fun h => exec_returns rfl h rfl, fun h => ?vsi, fun h => ?vsadd, vbnz_branches, vsetvl_sets,
    fun h => ?vsetq⟩, fun g s r w a as bs ba d => ⟨vcmp_sets, vsel_writes, vmkld_loads, vmkst_stores⟩⟩
  case vnop => exact exec_goes rfl h rfl (.inl ⟨rfl, rfl⟩)
  case vsi =>
    rw [← vSimm_eq_signExtend]
    exact exec_vecReg (c := .vsi g) rfl h
  case vsadd =>
    rw [← vSimm_eq_signExtend]
    exact exec_vecReg (c := .vsadd g) rfl h
  case vsetq =>
    obtain ⟨t, ht, hmem, hvec⟩ := exec_vecReg (c := .vsetq g) rfl h
    refine ⟨t, ht, hmem, ?_⟩
    rw [hvec]
    exact Nat.mod_eq_of_lt (sreg_lt _ _)

end Sys2Proof.ScalarsAndMasks

/-! Several results of one vector instruction: digits and accumulators (R309, R312; O29, O30). -/

namespace Sys2Proof.VectorResults

open Sys2Proof Sys2Proof.Machine Sys2Proof.Laws Sys2Proof.VectorRun

/-- The results of an instruction, each an address with its elements, written in order. -/
def writeResults (s : State) (g w : Nat) (clash : Bool) (outs : List (Nat × List Nat)) : State :=
  outs.foldl (fun s o => s.vecOut g w o.1 clash o.2) s

theorem writeResults_within (s : State) (g w : Nat) (clash : Bool) (outs : List (Nat × List Nat)) :
    Within [.mem, .ue, .hdrs, .flows, .hbmcs, .helpers, .msgs, .freeCtr] s (writeResults s g w clash outs) :=
  .foldl (fun _ _ => State.vecOut_within _ _ _ _ _ _) (.refl _ _)

section Results

variable {n w : Nat} {outs : List (Nat × List Nat)}

/-- Every result has n elements and lies in the helper scratchpads. -/
def AllInPads (n w : Nat) (outs : List (Nat × List Nat)) : Prop := ∀ o ∈ outs, o.2.length = n ∧ InPads o.1 (n * vE w)

/-- A byte outside all results reads as before. -/
theorem writeResults_outside (h : AllInPads n w outs) (s : State) (g : Nat) (clash : Bool) {b : Nat}
    (hb : ∀ o ∈ outs, b < o.1 ∨ o.1 + n * vE w ≤ b) : memGet (writeResults s g w clash outs).mem 0 b = memGet s.mem 0 b := by
  induction outs generalizing s with
  | nil => rfl
  | cons o outs ih =>
    obtain ⟨⟨hlen, hpads⟩, hrest⟩ := List.forall_mem_cons.1 h
    obtain ⟨hbo, hbrest⟩ := List.forall_mem_cons.1 hb
    subst hlen
    exact (ih hrest (s.vecOut g w o.1 clash o.2) hbrest).trans (vecOut_outside hpads s g clash b hbo)

/-- Results that lie apart stand as they were written. -/
theorem writeResults_result (h : AllInPads n w outs) (s : State) (g : Nat)
    (hapart : outs.Pairwise fun o p => o.1 + n * vE w ≤ p.1 ∨ p.1 + n * vE w ≤ o.1) {o : Nat × List Nat} (ho : o ∈ outs) :
    VecResult s (writeResults s g w false outs) g w o.1 n fun i => o.2.getD i 0 := by
  induction outs generalizing s with
  | nil => simp at ho
  | cons p outs ih =>
    obtain ⟨⟨hlen, hpads⟩, hrest⟩ := List.forall_mem_cons.1 h
    obtain ⟨hp, hapart⟩ := List.pairwise_cons.1 hapart
    subst hlen
    intro i hi
    have hin : i * vE w + vE w ≤ p.2.length * vE w := by
      rw [← Nat.succ_mul]
      exact Nat.mul_le_mul_right _ hi
    rcases List.mem_cons.1 ho with rfl | ho
    · rw [← (vecOut_placed hpads s g).2 i hi]
      refine List.map_congr_left fun j hj => writeResults_outside hrest _ g false fun q hq => ?_
      have hj := List.mem_range.1 hj
      rcases hp q hq with hq | hq <;> omega
    · rw [← memRun_outside (vecOut_outside hpads s g false) (k := vE w) (by rcases hp o ho with hq | hq <;> omega),
        ← vecOut_vec s g w p.1 false p.2 g]
      exact ih hrest (s.vecOut g w p.1 false p.2) hapart ho i hi

end Results

end Sys2Proof.VectorResults

/-! VDIG, VRSH and VSCAN (R307, R309-R311; O29). -/

namespace Sys2Proof.DigitsShiftsScans

open Sys2Proof Sys2Proof.Machine Sys2Proof.Laws Sys2Proof.VectorRun Sys2Proof.VectorResults

/-- The digits of element i, of value v (R309). -/
def digitsOf (s : State) (g w sel q l beta i v : Nat) : List Int :=
  gadget (vRnd w) q l beta (v % q) (s.vecDraw g sel i (v % q * 2 ^ (l * beta) % q) 32)

/-- The results of VDIG: a run for each digit (R309). -/
def digitRuns (s : State) (g w sel q l beta n d : Nat) (as : List Nat) : List (Nat × List Nat) :=
  (List.range l).map fun k => (d + k * n * vE w,
    (((List.range n).zip as).map fun iv => digitsOf s g w sel q l beta iv.1 iv.2).map fun ds => resOf q (ds.getD k 0))

section Digits

variable {s : State} {g w sel q l beta n d : Nat} {as : List Nat}

theorem digitRun_end {k j : Nat} (h : k < j) : k * n * vE w + n * vE w ≤ j * n * vE w := by
  rw [← Nat.add_mul, ← Nat.succ_mul]
  exact Nat.mul_le_mul_right _ (Nat.mul_le_mul_right _ h)

theorem digitRuns_inPads (hlen : as.length = n) (hd : InPads d (l * n * vE w)) :
    AllInPads n w (digitRuns s g w sel q l beta n d as) := by
  simp only [AllInPads, digitRuns, List.forall_mem_map, List.mem_range]
  refine fun k hk => ⟨by simp [hlen], hd.part (by omega) ?_⟩
  have := digitRun_end (n := n) (w := w) hk
  omega

theorem digitRuns_apart : (digitRuns s g w sel q l beta n d as).Pairwise fun o p => o.1 + n * vE w ≤ p.1 ∨ p.1 + n * vE w ≤ o.1 :=
  List.pairwise_map.2 (List.pairwise_lt_range.imp fun {k j} hkj => .inl (by
    have := digitRun_end (n := n) (w := w) hkj
    dsimp only
    omega))

end Digits

section Instructions

variable {g : Fin 16} {s : State} {r : Handler} {w a d : Nat} {as : List Nat}

/-- The digits of each element stand digit by digit (R309). -/
theorem vdig_writes {l beta sel q : Nat} (hl : l = fld w 24 4) (hbeta : beta = fld w 19 5) (hsel : sel = fld w 17 2)
    (hq : q = (s.vec g).q.toNat) (ha : s.vecIn g r w (vA w) (s.vec g).vl = .ok (a, as)) (h : VecAt s g 0x20 r w)
    (hqok : vecQOk w q = true) (hpos : q ≠ 0) (hbits : l * beta ≤ if vW32 w then 30 else 60) (hseed : s.vecSeedBad g r w sel = false)
    (hd : s.vecSp g r.tenant ((s.vec g).sreg (vD w)) (vE w) (l * (s.vec g).vl * vE w) = .ok d) :
    ∃ t, exec (.vdig g) s = .next t ∧ t.vec g = (s.vec g).next r (r.pc + 1) ∧ SameMemOutside s t d (l * (s.vec g).vl * vE w) ∧
      (beta ≠ 0 → (a = d ∨ overlap a (a + (s.vec g).vl * vE w) d (d + l * (s.vec g).vl * vE w) = false) → ∀ k, k < l →
        VecResult s t g w (d + k * (s.vec g).vl * vE w) (s.vec g).vl fun i => resOf q ((gadget (vRnd w) q l beta (as.getD i 0 % q)
          (s.vecDraw g sel i (as.getD i 0 % q * 2 ^ (l * beta) % q) 32)).getD k 0)) := by
  have halen := vecIn_length ha
  have hall := digitRuns_inPads (s := s) (g := g) (sel := sel) (q := q) (beta := beta) halen (vecSp_inPads g.isLt hd)
  have hlegal : ¬((!vecQOk w q) = true ∨ q = 0 ∨ (if vW32 w then 30 else 60) < l * beta) := by simp [hqok, hpos, hbits]
  obtain ⟨t, ht, hvec, hmem⟩ := exec_goes (c := .vdig g) (u := writeResults s g w
      (beta == 0 || (a != d && overlap a (a + (s.vec g).vl * vE w) d (d + l * (s.vec g).vl * vE w)))
      (digitRuns s g w sel q l beta (s.vec g).vl d as)) rfl h (by
    subst hl hbeta hsel hq
    simp only [vImm_eq_fld w (lo := 24) (n := 4) (by decide), vImm_eq_fld w (lo := 19) (n := 5) (by decide),
      vImm_eq_fld w (lo := 17) (n := 2) (by decide), if_neg hlegal, hseed, ha, hd, Bool.false_eq_true, if_false]
    rw [writeResults, digitRuns, List.foldl_map]
    rfl) (.inl ⟨rfl, rfl⟩)
  refine ⟨t, ht, by rw [hvec, vec_of_within (writeResults_within _ _ _ _ _) rfl], fun b hb => ?_, fun hsome hapart k hk i hi => ?_⟩
  · rw [hmem]
    refine writeResults_outside hall s g _ ?_
    simp only [digitRuns, List.forall_mem_map, List.mem_range]
    intro k hk
    have := digitRun_end (n := (s.vec g).vl) (w := w) hk
    omega
  · have hrun := writeResults_result hall s g digitRuns_apart (List.mem_map_of_mem (List.mem_range.2 hk)) i hi
    have hclear : (beta == 0 || (a != d && overlap a (a + (s.vec g).vl * vE w) d (d + l * (s.vec g).vl * vE w))) = false := by
      rcases hapart with rfl | hapart
      · simp [hsome]
      · simp [hsome, hapart]
    rw [hmem, hclear, hrun]
    simp [hi, halen, digitsOf]

/-- The shifted value of an element with its rounding (R310). -/
theorem vrsh_writes {k sel : Nat} (hk : k = fld w 0 6) (hsel : sel = fld w 26 2)
    (ha : s.vecIn g r w (vA w) (s.vec g).vl = .ok (a, as)) (h : VecAt s g 0x21 r w) (hseed : s.vecSeedBad g r w sel = false)
    (hd : s.vecSp g r.tenant ((s.vec g).sreg (vD w)) (vE w) ((s.vec g).vl * vE w) = .ok d) :
    ∃ t, exec (.vrsh g) s = .next t ∧ t.vec g = (s.vec g).next r (r.pc + 1) ∧ SameMemOutside s t d ((s.vec g).vl * vE w) ∧
      (runsClash ((s.vec g).vl * vE w) a d = false → VecResult s t g w d (s.vec g).vl fun i =>
        let v := as.getD i 0
        let c := v % 2 ^ k
        (((if bit w 6 then signed (vBits w) v else (v : Int)) / (2 ^ k : Nat) +
          (if vRnd w = 0 then (if 2 ^ (k - 1) ≤ c then 1 else 0)
            else if vRnd w = 2 then (if s.vecDraw g sel i c k < c then 1 else 0) else 0)) % (2 ^ vBits w : Nat)).toNat) := by
  subst hk hsel
  have halen := vecIn_length ha
  obtain ⟨t, ht, hvec, hout, hres⟩ := exec_writes (c := .vrsh g) rfl h (vecSp_inPads g.isLt hd) rfl (by
    simp only [vImm_eq_fld w (lo := 26) (n := 2) (by decide), vImm_eq_fld w (lo := 0) (n := 6) (by decide), hseed, ha, hd,
      Bool.false_eq_true, if_false]
    rfl) (by simp [halen])
  exact ⟨t, ht, hvec, hout, fun hclear => hres hclear _ fun i hi => by simp [hi, halen]⟩

theorem scanGo_length (w q : Nat) (excl : Bool) (acc : Nat) (l : List (Nat × Bool)) : (scanGo w q excl acc l).length = l.length := by
  induction l generalizing acc with
  | nil => rfl
  | cons p l ih => rw [scanGo, List.length_cons, List.length_cons, ih]

/-- The running sums with their segments (R311). -/
theorem vscan_writes (ha : s.vecIn g r w (vA w) (s.vec g).vl = .ok (a, as)) (h : VecAt s g 0x22 r w)
    (hq : vecQOk w (s.vec g).q.toNat = true)
    (hd : s.vecSp g r.tenant ((s.vec g).sreg (vD w)) (vE w) ((s.vec g).vl * vE w) = .ok d) :
    ∃ t, exec (.vscan g) s = .next t ∧ t.vec g = (s.vec g).next r (r.pc + 1) ∧ SameMemOutside s t d ((s.vec g).vl * vE w) ∧
      (runsClash ((s.vec g).vl * vE w) a d = false → VecResult s t g w d (s.vec g).vl fun i =>
        (scanGo w (s.vec g).q.toNat (bit w 0) 0 (((List.range (s.vec g).vl).zip as).map fun iv =>
          (iv.2, bit w 3 && ((s.vec g).mk_ (fld w 1 2)).getLsbD iv.1))).getD i 0) := by
  obtain ⟨t, ht, hvec, hout, hres⟩ := exec_writes (c := .vscan g) rfl h (vecSp_inPads g.isLt hd) rfl (by
    simp only [vImm_eq_fld w (lo := 1) (n := 2) (by decide), hq, ha, hd, Bool.not_true, Bool.false_eq_true, if_false]
    rfl) (by rw [scanGo_length]; simp [vecIn_length ha])
  exact ⟨t, ht, hvec, hout, fun hclear => hres hclear _ fun i _ => rfl⟩

end Instructions

/-- Settles O29: VDIG writes a run for each digit, VRSH and VSCAN one result. -/
theorem vectorDigitsShiftsScans : Obligations.VectorDigitsShiftsScans := by
  unfold Obligations.VectorDigitsShiftsScans
  exact fun g s r w a as d ha => ⟨fun l beta sel q hl hbeta hsel hq => vdig_writes hl hbeta hsel hq ha,
    fun k sel hk hsel => vrsh_writes hk hsel ha, vscan_writes ha⟩

end Sys2Proof.DigitsShiftsScans

/-! VMV, VLD and VST (R305, R307, R312; O30). -/

namespace Sys2Proof.VectorMemoryOps

open Sys2Proof Sys2Proof.Machine Sys2Proof.Laws Sys2Proof.VectorRun Sys2Proof.VectorResults

theorem vE_pos (w : Nat) : 0 < vE w := by
  rw [vE]
  split <;> decide

/-! ## The operands of VMV (R312) -/

section Operands

variable {s s1 : State} {g tenant v unit stride cnt n hint base : Nat}

/-- The runs of a span lie in the scratchpads, one for each stride. -/
theorem vecSpan_inPads {l : List Nat} (hg : g < 16) (h : s.vecSpan g tenant v unit stride cnt n = .ok l) :
    l.length = cnt ∧ ∀ p ∈ l, InPads p n := by
  rw [State.vecSpan] at h
  split at h
  · cases h
  · split at h
    · cases h
    · rename_i a ha
      cases h
      refine ⟨by simp, List.forall_mem_map.2 fun b hb => (vecSp_inPads hg ha).part (by omega) ?_⟩
      have := Nat.mul_le_mul_right stride (Nat.le_sub_one_of_lt (List.mem_range.1 hb))
      omega

theorem vecRows_length {rows : List (List Nat)} {l : List Nat} {f : Option (Code × Option Nat)}
    (h : s.vecRows g tenant hint unit base stride n l = (s1, rows, f)) : ∀ row ∈ rows, row.length = n / unit := by
  induction l generalizing s rows with
  | nil =>
    cases h
    exact fun _ hrow => by simp at hrow
  | cons k l ih =>
    rw [State.vecRows] at h
    split at h
    · cases h
      exact fun _ hrow => by simp at hrow
    · cases h
      exact List.forall_mem_cons.2 ⟨eltsOf_length _ _ _, ih rfl⟩

/-- What the reads of the rows leave of the vector engines. -/
theorem vecRows_vec {rows : List (List Nat)} {l : List Nat} {f : Option (Code × Option Nat)}
    (h : s.vecRows g tenant hint unit base stride n l = (s1, rows, f)) (k : Nat) : s1.vec k = s.vec k :=
  vec_of_within (Within.of_pair h (State.vecRows_within _ _ _ _ _ _ _ _ _)) rfl k

end Operands

theorem vmvAcc_length (w q : Nat) {init dig : List Nat} {rows : List (List Nat)} (h : ∀ row ∈ rows, row.length = init.length) :
    (vmvAcc w q init dig rows).length = init.length := by
  have hfold : ∀ (ps : List (Nat × List Nat)) (acc : List Nat), (∀ p ∈ ps, p.2.length = acc.length) →
      (ps.foldl (fun acc dr => List.zipWith (fun x m => x + vmul w q dr.1 m) acc dr.2) acc).length = acc.length := by
    intro ps
    induction ps with
    | nil => exact fun _ _ => rfl
    | cons p ps ih =>
      intro acc hps
      obtain ⟨hp, hps⟩ := List.forall_mem_cons.1 hps
      have hlen : (List.zipWith (fun x m => x + vmul w q p.1 m) acc p.2).length = acc.length := by simp [hp]
      exact (ih _ (hlen ▸ hps)).trans hlen
  rw [vmvAcc, List.length_map, hfold _ _ fun p hp => (h _ (List.of_mem_zip hp).2).trans (List.length_map _).symm, List.length_map]

/-- Where each element of a list is related to at most one, itself, no two of them are related. -/
theorem pairwise_of_filter_le_one {α : Type} {p : α → α → Bool} {l : List α} (hself : ∀ a ∈ l, p a a = true)
    (h : ∀ a ∈ l, (l.filter (p a)).length ≤ 1) : l.Pairwise fun a b => p a b = false := by
  induction l with
  | nil => exact .nil
  | cons a l ih =>
    obtain ⟨ha, hself⟩ := List.forall_mem_cons.1 hself
    obtain ⟨hfirst, hrest⟩ := List.forall_mem_cons.1 h
    refine List.pairwise_cons.2 ⟨?_, ih hself fun b hb => (((List.sublist_cons_self a l).filter _).length_le).trans (hrest b hb)⟩
    rw [List.filter_cons_of_pos ha, List.length_cons] at hfirst
    have hnone := List.filter_eq_nil_iff.1 (List.length_eq_zero_iff.1 (Nat.le_zero.1 (Nat.le_of_succ_le_succ hfirst)))
    exact fun b hb => Bool.eq_false_iff.2 (hnone b hb)

/-- An accumulator of k bytes meets a digit run, the matrix in the scratchpad, or another accumulator. -/
def accMeets (accs digs : List Nat) (k kd : Nat) (sp : Bool) (ma mend a : Nat) : Bool :=
  (digs.any fun p => overlap a (a + k) p (p + kd)) || (sp && overlap a (a + k) ma mend) ||
    decide (1 < (accs.filter fun p => overlap a (a + k) p (p + k)).length)

/-- The accumulators of all batches after all rows (R312). -/
def accRuns (s : State) (w q n rcnt : Nat) (accs digs : List Nat) (rows : List (List Nat)) : List (Nat × List Nat) :=
  (accs.zip digs).map fun ad => (ad.1, vmvAcc w q (if bit w 10 then List.replicate n 0 else eltsOf (vE w) n (s.bytes ad.1 (n * vE w)))
    (eltsOf (vE w) rcnt (s.bytes ad.2 (rcnt * vE w))) rows)

section Accumulators

variable {s : State} {w q n rcnt : Nat} {accs digs : List Nat} {rows : List (List Nat)}

theorem accRuns_inPads (hrows : ∀ row ∈ rows, row.length = n) (h : ∀ p ∈ accs, InPads p (n * vE w)) :
    AllInPads n w (accRuns s w q n rcnt accs digs rows) := by
  refine List.forall_mem_map.2 fun ad had => ⟨?_, h _ (List.of_mem_zip had).1⟩
  have hinit : (if bit w 10 then List.replicate n 0 else eltsOf (vE w) n (s.bytes ad.1 (n * vE w))).length = n := by
    split
    · exact List.length_replicate
    · exact eltsOf_length _ _ _
  exact (vmvAcc_length w q (by rwa [hinit])).trans hinit

theorem accRuns_apart (hlen : accs.length = digs.length)
    (h : ∀ a ∈ accs, (accs.filter fun p => overlap a (a + n * vE w) p (p + n * vE w)).length ≤ 1) :
    (accRuns s w q n rcnt accs digs rows).Pairwise fun o p => o.1 + n * vE w ≤ p.1 ∨ p.1 + n * vE w ≤ o.1 := by
  have hpair : accs.Pairwise fun a b => a + n * vE w ≤ b ∨ b + n * vE w ≤ a := by
    rcases Nat.eq_zero_or_pos (n * vE w) with hzero | hpos
    · exact List.pairwise_of_forall fun a b => by omega
    · refine (pairwise_of_filter_le_one (fun a _ => ?_) h).imp fun {a b} hab => ?_
      · simpa [overlap] using hpos
      · simp only [overlap, Bool.and_eq_false_iff, decide_eq_false_iff_not] at hab
        omega
  rw [← List.map_fst_zip hlen.le] at hpair
  exact List.pairwise_map.2 (List.pairwise_map.1 hpair)

end Accumulators

/-! ## The instructions -/

section LoadsStores

variable {g : Fin 16} {s s1 : State} {r : Handler} {w a d va : Nat} {vs : List Nat} {b : Bytes}

theorem vld_writes (h : VecAt s g 0x30 r w)
    (hd : s.vecSp g r.tenant ((s.vec g).sreg (vD w)) (vE w) ((s.vec g).vl * vE w) = .ok d)
    (hread : s.vecRead g r.tenant (fld w 0 2) (vE w) ((s.vec g).sreg (vA w)) ((s.vec g).vl * vE w) = (s1, b, none))
    (hlen : b.length = (s.vec g).vl * vE w) :
    ∃ t, exec (.vld g) s = .next t ∧ t.vec g = (s.vec g).next r (r.pc + 1) ∧ SameMemOutside s1 t d ((s.vec g).vl * vE w) ∧
      ((∀ a, bit ((s.vec g).sreg (vA w)) 63 = false →
          s.vecSp g r.tenant ((s.vec g).sreg (vA w)) (vE w) ((s.vec g).vl * vE w) = .ok a → runsClash ((s.vec g).vl * vE w) a d = false) →
        VecResult s1 t g w d (s.vec g).vl fun i => (eltsOf (vE w) (s.vec g).vl b).getD i 0) := by
  have hs1 := vec_of_within (Within.of_pair hread (State.vecRead_within _ _ _ _ _ _ _)) rfl g
  have hcount : b.length / vE w = (s.vec g).vl := by rw [hlen, Nat.mul_div_cancel _ (vE_pos w)]
  obtain ⟨t, ht, hvec, hout, hres⟩ := exec_writes (c := .vld g) rfl h (vecSp_inPads g.isLt hd) hs1 (by
    simp only [vImm_eq_fld w (lo := 0) (n := 2) (by decide), hd, hread, hcount]
    rfl) (eltsOf_length _ _ _)
  refine ⟨t, ht, hvec, hout, fun hclear => hres ?_ _ fun i _ => rfl⟩
  cases hbit : bit ((s.vec g).sreg (vA w)) 63 with
  | true => rfl
  | false =>
    cases hsp : s.vecSp g r.tenant ((s.vec g).sreg (vA w)) (vE w) ((s.vec g).vl * vE w) with
    | error c => rfl
    | ok a => exact hclear a hbit hsp

variable (h : VecAt s g 0x31 r w) (ha : s.vecIn g r w (vA w) (s.vec g).vl = .ok (a, vs))
include h ha

theorem vst_writesScratchpad (hbit : bit ((s.vec g).sreg (vD w)) 63 = false)
    (hd : s.vecSp g r.tenant ((s.vec g).sreg (vD w)) (vE w) ((s.vec g).vl * vE w) = .ok d) :
    ∃ t, exec (.vst g) s = .next t ∧ t.vec g = (s.vec g).next r (r.pc + 1) ∧ SameMemOutside s t d ((s.vec g).vl * vE w) ∧
      (runsClash ((s.vec g).vl * vE w) a d = false → VecResult s t g w d (s.vec g).vl fun i => vs.getD i 0) := by
  obtain ⟨t, ht, hvec, hout, hres⟩ := exec_writes (c := .vst g) rfl h (vecSp_inPads g.isLt hd) rfl (by
    simp only [ha, hd, hbit, Bool.false_eq_true, if_false]
    rfl) (vecIn_length ha)
  exact ⟨t, ht, hvec, hout, fun hclear => hres hclear _ fun i _ => rfl⟩

theorem vst_stores (hbit : bit ((s.vec g).sreg (vD w)) 63 = true) (hva : vecVa ((s.vec g).sreg (vD w)) (vE w) = .ok va)
    (hstore : s.vecStore g r.tenant (fld w 0 2) (vE w) (if vMs w = 0 then none else some ((s.vec g).mk_ (vMs w))) va vs = (s1, none)) :
    ∃ t, exec (.vst g) s = .next t ∧ t.vec g = (s.vec g).next r (r.pc + 1) ∧ t.mem = s1.mem := by
  have hs1 := vec_of_within (Within.of_pair hstore (State.vecStore_within _ _ _ _ _ _ _ _)) rfl g
  obtain ⟨t, ht, hvec, hmem⟩ := exec_goes (c := .vst g) (u := s1) rfl h (by
    simp only [vImm_eq_fld w (lo := 0) (n := 2) (by decide), ha, hbit, hva, hstore, if_true]) (.inl ⟨rfl, rfl⟩)
  exact ⟨t, ht, by rw [hvec, hs1], hmem⟩

end LoadsStores

/-- Settles O30: VMV writes one result for each batch, VLD and VST one. -/
theorem vectorMemory : Obligations.VectorMemory := by
  unfold Obligations.VectorMemory
  intro g s s1 r w x n e
  refine ⟨fun accs digs rows ma => ?vmv, fun b d => vld_writes, fun a vs h ha => ⟨fun d => vst_writesScratchpad h ha, fun va => vst_stores h ha⟩⟩
  case vmv =>
    intro rcnt c mv sp h hq hstride haccs hdigs hma hrows
    have hlegal : ¬((!vecQOk w x.q.toNat) = true ∨ (!vBs w) = true ∧ fld c 40 24 % e ≠ 0 ∧ 1 < rcnt) := by
      rintro (hbad | ⟨hbs, hodd, hmany⟩)
      · simp [hq] at hbad
      · rcases hstride with hbs' | hmul | hone
        · simp [hbs'] at hbs
        · exact hodd hmul
        · omega
    obtain ⟨ma', hma', hmeans⟩ : ∃ ma', (if sp then s.vecSp g r.tenant mv e ((rcnt - 1) * fld c 40 24 + n * e) else .ok 0) = Except.ok ma' ∧
        (sp = true → ma' = ma) := by
      cases hsp : sp with
      | true => exact ⟨ma, by rw [← hma hsp]; rfl, fun _ => rfl⟩
      | false => exact ⟨0, rfl, nofun⟩
    have hread : (if vBs w then (s, List.replicate rcnt (List.replicate n mv), none)
        else s.vecRows g r.tenant (fld w 0 2) e mv (fld c 40 24) (n * e) (List.range rcnt)) = (s1, rows, none) := by
      by_cases hbs : vBs w = true
      · rw [if_pos hbs] at hrows ⊢
        rw [hrows.1, hrows.2]
      · rw [if_neg hbs] at hrows ⊢
        exact hrows
    obtain ⟨t, ht, hvec, hmem⟩ := exec_goes (c := .vmv g) (u := writeResults s1 g w
      (accs.any (accMeets accs digs (n * e) (rcnt * e) sp ma' (ma' + (rcnt - 1) * fld c 40 24 + n * e)))
      (accRuns s1 w x.q.toNat n rcnt accs digs rows)) rfl h (by
        simp only [vImm_eq_fld w (lo := 14) (n := 14) (by decide), vImm_eq_fld w (lo := 11) (n := 3) (by decide),
          vImm_eq_fld w (lo := 0) (n := 2) (by decide)]
        rw [if_neg hlegal, haccs, hdigs]
        dsimp only
        rw [hma']
        dsimp only
        rw [hread]
        rfl) (.inl ⟨rfl, rfl⟩)
    have hs1 : s1.vec g = s.vec g := by
      by_cases hbs : vBs w = true
      · rw [if_pos hbs] at hrows
        rw [hrows.1]
      · rw [if_neg hbs] at hrows
        exact vecRows_vec hrows g
    have hwide : ∀ row ∈ rows, row.length = n := by
      by_cases hbs : vBs w = true
      · rw [if_pos hbs] at hrows
        rw [hrows.2]
        exact fun row hrow => List.eq_of_mem_replicate hrow ▸ List.length_replicate
      · rw [if_neg hbs] at hrows
        exact fun row hrow => (vecRows_length hrows row hrow).trans (Nat.mul_div_cancel _ (vE_pos w))
    obtain ⟨haccLen, haccPads⟩ := vecSpan_inPads g.isLt haccs
    have hlens : accs.length = digs.length := haccLen.trans (vecSpan_inPads g.isLt hdigs).1.symm
    have hall := accRuns_inPads (s := s1) (q := x.q.toNat) (rcnt := rcnt) (digs := digs) hwide haccPads
    refine ⟨t, ht, by rw [hvec, vec_of_within (writeResults_within _ _ _ _ _) rfl, hs1], fun b hb => ?_, fun hapart k acc dig hacc hdig => ?_⟩
    · rw [hmem]
      exact writeResults_outside hall s1 g _ (List.forall_mem_map.2 fun ad had => hb _ (List.of_mem_zip had).1)
    · have hclear : accs.any (accMeets accs digs (n * e) (rcnt * e) sp ma' (ma' + (rcnt - 1) * fld c 40 24 + n * e)) = false := by
        refine List.any_eq_false.2 fun p hp => ?_
        obtain ⟨hdigs, hmat, hone⟩ := hapart p hp
        have hmat' : (sp && overlap p (p + n * e) ma' (ma' + (rcnt - 1) * fld c 40 24 + n * e)) = false := by
          by_cases hsp : sp = true
          · rw [hmeans hsp, hmat hsp, Bool.and_false]
          · rw [Bool.eq_false_iff.2 hsp, Bool.false_and]
        simp [accMeets, hmat', hone, List.any_eq_false.2 fun q hq => Bool.eq_false_iff.1 (hdigs q hq)]
      have hpair : (acc, dig) ∈ accs.zip digs := List.mem_of_getElem? (List.getElem?_zip_eq_some.2 ⟨hacc, hdig⟩)
      intro i hi
      rw [hmem, hclear]
      exact writeResults_result hall s1 g (accRuns_apart hlens fun a ha => (hapart a ha).2.2) (List.mem_map_of_mem hpair) i hi

end Sys2Proof.VectorMemoryOps

/-! What vector instructions leave alone: the other vector engines, and every part that `mayChange` does not list (R303, R307; O60). -/

namespace Sys2Proof.VectorFrames

open Sys2Proof Sys2Proof.Machine Sys2Proof.Laws Sys2Proof.VectorRun

/-- Every vector engine but g is as it was. -/
def KeepsOthers (g : Nat) (s t : State) : Prop := ∀ k, k ≠ g → t.vec k = s.vec k

section Composition

variable {g : Nat} {s t u : State}

theorem KeepsOthers.refl (g : Nat) (s : State) : KeepsOthers g s s := fun _ _ => rfl

theorem KeepsOthers.trans (h : KeepsOthers g s t) (h' : KeepsOthers g t u) : KeepsOthers g s u := fun k hk => (h' k hk).trans (h k hk)

theorem KeepsOthers.of_within {ps : List Part} (h : Within ps s t) (hps : ps.contains .vecs = false) : KeepsOthers g s t :=
  fun k _ => vec_of_within h hps k

theorem KeepsOthers.of_pair {β : Type} {x : State × β} {r : β} (h : x = (u, r)) (h' : KeepsOthers g s x.1) : KeepsOthers g s u := by
  rw [h] at h'
  exact h'

theorem KeepsOthers.ite_fst {β : Type} {c : Prop} [Decidable c] {x y : State × β} (hx : KeepsOthers g s x.1) (hy : KeepsOthers g s y.1) :
    KeepsOthers g s (if c then x else y).1 := by split <;> assumption

theorem setVec_keepsOthers (s : State) (g : Nat) (x : Vec) : KeepsOthers g s (s.setVec g x) := fun _ hk => setVec_vec_other s g x hk

theorem vecEnd_keepsOthers (s : State) (g : Nat) (r : Handler) (status : Code) (payload : Bytes) :
    KeepsOthers g s (s.vecEnd g r status payload) :=
  .trans (.of_within (State.autoReply_within _ _ _ _ _ _) rfl) (setVec_keepsOthers _ _ _)

theorem vecFault_keepsOthers (s : State) (g : Nat) (r : Handler) (opc : Nat) (c : Code) (va : Option Nat) :
    KeepsOthers g s (s.vecFault g r opc c va) :=
  .trans (.trans (.trans (setVec_keepsOthers _ _ _) (.of_within (Within.after (State.drawn_within _) rfl
    (.widen (State.sumpPut_within _ _ _) rfl) : Within [.galleries, .freeCtr] _ _) rfl)) (vecEnd_keepsOthers _ _ _ _ _))
    (.of_within (State.event_within _ _ _ _) rfl)

theorem retired_keepsOthers (u : State) (g opc : Nat) (r : Handler) (e : VEnd) : KeepsOthers g u (retired u g opc r e) := by
  have hcount : KeepsOthers g u (eventsCounted u g opc) := .of_within (eventsCounted_within u g opc) rfl
  cases e with
  | ret => exact hcount.trans ((setVec_keepsOthers _ _ _).trans (vecEnd_keepsOthers _ _ _ _ _))
  | go | jump | fault => exact hcount.trans (setVec_keepsOthers _ _ _)

/-- An instruction whose own part keeps the others. -/
theorem vecRun_keepsOthers {opc : Nat} {body : State → Handler → Nat → State × VEnd}
    (h : ∀ u r w, KeepsOthers g u (body u r w).1) (s : State) : KeepsOthers g s (s.vecRun g opc body) := by
  rw [State.vecRun]
  split
  · exact .refl _ _
  · rename_i r _
    split
    · exact .refl _ _
    · split
      · split
        · exact vecFault_keepsOthers _ _ _ _ _ _
        · exact .refl _ _
      · rename_i w _
        dsimp only
        split
        · exact .refl _ _
        · split
          · exact vecFault_keepsOthers _ _ _ _ _ _
          · have hbody := h s r w
            split
            · exact (KeepsOthers.of_pair ‹_› hbody).trans (vecFault_keepsOthers _ _ _ _ _ _)
            · exact (KeepsOthers.of_pair ‹_› hbody).trans (retired_keepsOthers _ _ opc r _)

theorem vecOut_keepsOthers (s : State) (g w d : Nat) (clash : Bool) (vs : List Nat) (k : Nat) : KeepsOthers k s (s.vecOut g w d clash vs) :=
  .of_within (State.vecOut_within _ _ _ _ _ _) rfl

end Composition

/-! ## The instructions -/

theorem vecModular_keepsOthers (g opc srcs : Nat) (f : Nat → Nat → Nat → Nat → Nat → Nat) (s : State) :
    KeepsOthers g s (s.vecModular g opc srcs f) := by
  refine vecRun_keepsOthers (fun u r w => .ite_fst (.refl _ _) ?_) s
  dsimp only
  split
  · exact .refl _ _
  · exact .refl _ _
  · exact .refl _ _
  · exact .refl _ _
  · dsimp only
    exact vecOut_keepsOthers _ _ _ _ _ _ _

/-- A command that keeps the vector engines other than g. -/
def CommandKeepsOthers (g : Nat) (o : Out) (s : State) : Prop := ∀ t, o = .next t → KeepsOthers g s t

theorem CommandKeepsOthers.next {g : Nat} {s t : State} (h : KeepsOthers g s t) : CommandKeepsOthers g (.next t) s := by
  rintro _ ⟨⟩
  exact h

section Instructions

variable (g : Fin 16) (s : State)

theorem execVcmp_keepsOthers : CommandKeepsOthers g (execVcmp g s) s := by
  refine .next (vecRun_keepsOthers (fun u r w => ?_) s)
  dsimp only
  split
  · exact .refl _ _
  · exact .refl _ _
  · exact setVec_keepsOthers _ _ _

theorem execVsel_keepsOthers : CommandKeepsOthers g (execVsel g s) s := by
  refine .next (vecRun_keepsOthers (fun u r w => ?_) s)
  dsimp only
  split
  · exact .refl _ _
  · exact .refl _ _
  · exact .refl _ _
  · dsimp only
    exact vecOut_keepsOthers _ _ _ _ _ _ _

theorem execVmkld_keepsOthers : CommandKeepsOthers g (execVmkld g s) s := by
  refine .next (vecRun_keepsOthers (fun u r w => ?_) s)
  dsimp only
  split
  · exact .refl _ _
  · exact setVec_keepsOthers _ _ _

theorem execVmkst_keepsOthers : CommandKeepsOthers g (execVmkst g s) s := by
  refine .next (vecRun_keepsOthers (fun u r w => ?_) s)
  dsimp only
  split
  · exact .refl _ _
  · dsimp only
    exact .trans (.of_within (State.devWrite_within _ _ _ _) rfl) fun k _ => ringsSeen_vec _ _ _ k

theorem execVdig_keepsOthers : CommandKeepsOthers g (execVdig g s) s := by
  refine .next (vecRun_keepsOthers (fun u r w => .ite_fst (.refl _ _) (.ite_fst (.refl _ _) ?_)) s)
  split
  · exact .refl _ _
  · exact .refl _ _
  · dsimp only
    exact .of_within (Within.foldl (fun _ _ => State.vecOut_within _ _ _ _ _ _) (.refl _ _)) rfl

theorem execVrsh_keepsOthers : CommandKeepsOthers g (execVrsh g s) s := by
  refine .next (vecRun_keepsOthers (fun u r w => .ite_fst (.refl _ _) ?_) s)
  split
  · exact .refl _ _
  · exact .refl _ _
  · dsimp only
    exact vecOut_keepsOthers _ _ _ _ _ _ _

theorem execVscan_keepsOthers : CommandKeepsOthers g (execVscan g s) s := by
  refine .next (vecRun_keepsOthers (fun u r w => .ite_fst (.refl _ _) ?_) s)
  split
  · exact .refl _ _
  · exact .refl _ _
  · dsimp only
    exact vecOut_keepsOthers _ _ _ _ _ _ _

theorem execVmv_keepsOthers : CommandKeepsOthers g (execVmv g s) s := by
  refine .next (vecRun_keepsOthers (fun u r w => .ite_fst (.refl _ _) ?_) s)
  split
  · exact .refl _ _
  · exact .refl _ _
  · dsimp only
    split
    · exact .refl _ _
    · have hrows : ∀ {c : Prop} [Decidable c] {rows : List (List Nat)} {h e mv str n : Nat} {l : List Nat}, KeepsOthers g u
          (if c then (u, rows, none) else u.vecRows g r.tenant h e mv str n l).1 :=
        .ite_fst (.refl _ _) (.of_within (State.vecRows_within _ _ _ _ _ _ _ _ _) rfl)
      split
      · exact .of_pair ‹_› hrows
      · dsimp only
        exact (KeepsOthers.of_pair ‹_› hrows).trans
          (.of_within (Within.foldl (fun _ _ => State.vecOut_within _ _ _ _ _ _) (.refl _ _)) rfl)

theorem execVld_keepsOthers : CommandKeepsOthers g (execVld g s) s := by
  refine .next (vecRun_keepsOthers (fun u r w => ?_) s)
  dsimp only
  split
  · exact .refl _ _
  · dsimp only
    exact .trans (.of_within (State.vecRead_within _ _ _ _ _ _ _) rfl) (vecOut_keepsOthers _ _ _ _ _ _ _)

theorem execVst_keepsOthers : CommandKeepsOthers g (execVst g s) s := by
  refine .next (vecRun_keepsOthers (fun u r w => ?_) s)
  dsimp only
  split
  · exact .refl _ _
  · refine .ite_fst ?_ ?_
    · split
      · exact .refl _ _
      · split
        · exact .of_pair ‹_› (.of_within (State.vecStore_within _ _ _ _ _ _ _ _) rfl)
        · exact .of_pair ‹_› (.of_within (State.vecStore_within _ _ _ _ _ _ _ _) rfl)
    · split
      · exact .refl _ _
      · dsimp only
        exact vecOut_keepsOthers _ _ _ _ _ _ _

end Instructions

/-- The instructions of vector engine g. -/
def vectorInstrs (g : Fin 16) : List Instr :=
  [.vnop g, .vret g, .vsi g, .vsadd g, .vbnz g, .vsetvl g, .vsetq g, .vadd g, .vsub g, .vmul g, .vmac g, .vneg g, .vcmp g, .vsel g,
    .vmkld g, .vmkst g, .vdig g, .vrsh g, .vscan g, .vmv g, .vld g, .vst g]

theorem vectorInstrs_keepOthers (g : Fin 16) (s : State) : ∀ c ∈ vectorInstrs g, CommandKeepsOthers g (exec c s) s := by
  have hreg : ∀ (opc : Nat) (f : Nat → Vec → Vec), CommandKeepsOthers g (.next (s.vecRun g opc fun s _ w => s.vecReg g (f w))) s :=
    fun _ _ => .next (vecRun_keepsOthers (fun _ _ _ => setVec_keepsOthers _ _ _) s)
  have hmod := fun opc srcs f => CommandKeepsOthers.next (vecModular_keepsOthers g opc srcs f s)
  simp only [vectorInstrs, List.forall_mem_cons]
  exact ⟨.next (vecRun_keepsOthers (fun _ _ _ => .refl _ _) s), .next (vecRun_keepsOthers (fun _ _ _ => .refl _ _) s),
    hreg _ _, hreg _ _, .next (vecRun_keepsOthers (fun _ _ _ => setVec_keepsOthers _ _ _) s), hreg _ _, hreg _ _,
    hmod _ _ _, hmod _ _ _, hmod _ _ _, hmod _ _ _, hmod _ _ _, execVcmp_keepsOthers g s, execVsel_keepsOthers g s,
    execVmkld_keepsOthers g s, execVmkst_keepsOthers g s, execVdig_keepsOthers g s, execVrsh_keepsOthers g s, execVscan_keepsOthers g s,
    execVmv_keepsOthers g s, execVld_keepsOthers g s, execVst_keepsOthers g s, fun _ h => absurd h List.not_mem_nil⟩

/-- What a vector instruction may change, by its rules. -/
theorem mayChange_vectorInstr {g : Fin 16} {c : Instr} (h : c ∈ vectorInstrs g) :
    mayChange c = [.mem, .ue, .hdrs, .flows, .hbmcs, .galleries, .vecs, .helpers, .engines, .msgs, .freeCtr] := by
  simp only [vectorInstrs, List.mem_cons, List.not_mem_nil, or_false] at h
  rcases h with rfl | rfl | rfl | rfl | rfl | rfl | rfl | rfl | rfl | rfl | rfl | rfl | rfl | rfl | rfl | rfl | rfl | rfl | rfl | rfl |
    rfl | rfl
  all_goals rfl

/-- Settles O60: every write of a vector engine's registers is one of engine g, and what else the instructions may change is what
`mayChange` lists for them. -/
theorem vectorInstructionFrame : Obligations.VectorInstructionFrame := by
  unfold Obligations.VectorInstructionFrame
  intro g c s t hc ht
  obtain ⟨t', ht', h⟩ := CommandFrames.exec_answers c s
  obtain rfl : t = t' := Host.Outcome.next.inj (ht.symm.trans ht')
  rw [mayChange_vectorInstr hc] at h
  exact ⟨vectorInstrs_keepOthers g s c hc t ht, h.eq_journal rfl, h.eq_links rfl, h.eq_bundles rfl, h.eq_ports rfl, h.eq_fns rfl,
    h.eq_streams rfl, h.eq_geode rfl, h.eq_dev rfl⟩

end Sys2Proof.VectorFrames

/-! Handlers of a vector engine: dispatch and timeout (R313, R314, R328; O31). -/

namespace Sys2Proof.HandlerEntries

open Sys2Proof Sys2Proof.Machine Sys2Proof.Laws Sys2Proof.VectorRun

theorem helper_of_within {ps : List Part} {s t : State} (h : Within ps s t) (hps : ps.contains .helpers = false) (k : Nat) :
    t.helper k = s.helper k := by rw [State.helper, h.eq_helpers hps, State.helper]

theorem num_of_mem {s t : State} (h : t.mem = s.mem) (a n : Nat) : t.num a n = s.num a n := by
  rw [State.num, State.bytes, h, State.num, State.bytes]

/-! ## A message leaves its queue (R338, R341) -/

theorem setQueue_queue (m : Msg) (q : Nat) (l : List QMsg) : (m.setQueue q l).queue q = l := tget_tset_self _ _ _ _

theorem release_queue (m : Msg) (c src tag q : Nat) : (m.release c src tag).queue q = m.queue q := rfl

/-- The head message has left its queue. -/
theorem msgPop_queue {s : State} {ep q : Nat} {m : QMsg} {l : List QMsg} (h : (s.msg ep).queue q = m :: l) :
    ((s.msgPop ep q).msg ep).queue q = l := by
  simp only [State.msgPop, h, setMsg_msg]
  split
  · rw [release_queue, setQueue_queue]
  · rw [setQueue_queue]

theorem msgPop_epTenant (s : State) (ep q k : Nat) : (s.msgPop ep q).epTenant k = s.epTenant k := by
  have hpop := State.msgPop_within s ep q
  rw [State.epTenant, EngineInstr.eng_of_within hpop rfl, helper_of_within hpop rfl, State.epTenant]

/-! ## Dispatch (R313) -/

/-- The handler that a dispatch starts, from its entry. -/
def handlerOf (m : QMsg) (q e : Nat) : Handler := { hdr := m.hdr, queue := q, tenant := fld e 52 10, prog := fld e 0 20, pc := 0 }

/-- The vector engine at a handler's start: the payload in S1-S31, everything else zero. -/
def dispatched (x : Vec) (m : QMsg) (q e : Nat) : Vec :=
  { x with s := (List.range 31).map (fun w => (w + 1, BitVec.ofNat 64 (payWord m.payload w))), vl := 0, q := 0, mks := [], vseq := 0,
           run := some (handlerOf m q e), lastTenant := fld e 52 10 }

theorem vecTake_dispatches {s : State} {g q e : Nat} {m : QMsg}
    (hroom : fld (s.vec g).htabBase.toNat 3 16 * 8 + 8 * mHandler m.hdr.toNat + 8 ≤ 0x80000)
    (he : e = s.num (hpDpa (2 * g) (fld (s.vec g).htabBase.toNat 3 16 * 8 + 8 * mHandler m.hdr.toNat)) 8)
    (hok : vecEntryOk e (s.epTenant (mSrc m.hdr.toNat)) = true) :
    s.vecTake g q m = s.setVec g (dispatched (s.vec g) m q e) := by
  have hten : s.epTenant (mSrc m.hdr.toNat) = some (fld e 52 10) := by
    simp only [vecEntryOk, Bool.and_eq_true, beq_iff_eq] at hok
    exact hok.1.1.1.2
  rw [State.vecTake]
  simp only [if_pos hroom, ← he, hok, Bool.not_true, Bool.false_eq_true, if_false]
  rw [hten]
  rfl

theorem dispatched_sreg (x : Vec) (m : QMsg) (q e : Nat) {k : Nat} (hk : k < 31) :
    (dispatched x m q e).sreg (k + 1) = payWord m.payload k % 2 ^ 64 := by
  have hkeys : (List.range 31).map (fun w => (w + 1, BitVec.ofNat 64 (payWord m.payload w))) =
      ((List.range 31).map (· + 1)).map fun i => (i, BitVec.ofNat 64 (payWord m.payload (i - 1))) := by
    rw [List.map_map]
    rfl
  rw [Vec.sreg, if_neg (Nat.succ_ne_zero k), dispatched, hkeys,
    EmptyQueue.tget_map_of_mem _ _ (List.mem_map_of_mem (List.mem_range.2 hk)), BitVec.toNat_ofNat, Nat.add_sub_cancel]

theorem vecDispatch_takes {g : Fin 16} {s : State} {q : Nat} {m : QMsg} {l : List QMsg} (hidle : (s.vec g).run = none)
    (hon : s.blkOn (.vec g) = true) (hhalt : (s.hdr (.vec g)).halt = false)
    (hfirst : ((List.range 4).find? fun q => !((s.msg (epOfVec g)).queue q).isEmpty) = some q)
    (hqueue : (s.msg (epOfVec g)).queue q = m :: l) :
    exec (.vecDispatch g) s = .next ((s.msgPop (epOfVec g) q).vecTake g q m) := by
  show execVecDispatch g s = _
  simp only [execVecDispatch, hidle, hon, hhalt, hfirst, hqueue, Option.isSome_none, Bool.not_true, Bool.false_eq_true, or_self, if_false]

/-! ## Faults (R314) -/

/-- A handler that faults: its engine is free and holds the fault. -/
theorem vecFault_vec (s : State) (g : Nat) (r : Handler) (opc : Nat) (c : Code) (va : Option Nat) : (s.vecFault g r opc c va).vec g =
    { s.vec g with faultInfo := vecFaultInfo c opc r.pc, run := none, lastTenant := r.tenant, lastFaulted := c != .ok,
                   handled := (s.vec g).handled + 1 } := by
  rw [State.vecFault, vec_of_within (State.event_within _ _ _ _) rfl, vecEnd_vec, vec_of_within (State.drawn_within _) rfl,
    vec_of_within (State.sumpPut_within _ _ _) rfl, setVec_vec]

theorem vecHandlerTimeout_faults {g : Fin 16} {s : State} {r : Handler} {w : Nat} (hrun : (s.vec g).run = some r)
    (hlimit : (s.vec g).hlimit ≠ 0) (hfetch : s.vecFetch g r = .ok w) :
    exec (.vecHandlerTimeout g) s = .next (s.vecFault g r (fld w 56 8) .aborted none) := by
  show execVecHandlerTimeout g s = _
  simp only [execVecHandlerTimeout, hrun, if_neg hlimit, hfetch]

/-- Settles O31: a dispatch is one write of the engine at the entry's handler; a timeout is a fault. -/
theorem vectorHandlers : Obligations.VectorHandlers := by
  unfold Obligations.VectorHandlers
  intro g s x
  refine ⟨?dispatch, fun r w hrun hlimit hfetch => ?timeout⟩
  case dispatch =>
    intro q m l hidle hon hhalt hfirst hqueue off e hroom hok
    have hpop := State.msgPop_within s (epOfVec g) q
    have hvec := vec_of_within hpop rfl g
    have htake := vecTake_dispatches (s := s.msgPop (epOfVec g) q) (g := g) (q := q) (e := e) (m := m) (by rw [hvec]; exact hroom)
      (by rw [hvec, num_of_mem (hpop.eq_mem rfl)]) (by rw [msgPop_epTenant]; exact hok)
    refine ⟨_, handlerOf m q e, (vecDispatch_takes hidle hon hhalt hfirst hqueue).trans (congrArg _ htake), ?_, ?_⟩
    · rw [setVec_msg]
      exact msgPop_queue hqueue
    · rw [setVec_vec]
      exact ⟨rfl, rfl, rfl, rfl, rfl, rfl, rfl, rfl, fun k => rfl, fun k hk => dispatched_sreg _ m q e hk⟩
  case timeout =>
    refine ⟨_, vecHandlerTimeout_faults hrun hlimit hfetch, ?_⟩
    rw [vecFault_vec]
    exact ⟨rfl, rfl, rfl, rfl⟩

end Sys2Proof.HandlerEntries

/-! Far accesses of a helper core (R318, R319; O54). -/

namespace Sys2Proof.FarAccesses

open Sys2Proof Sys2Proof.Machine Sys2Proof.Laws Sys2Proof.VectorRun
open Sys2Proof.EndToEnd (leBytes_length)
open Sys2Proof.HandlerEntries (helper_of_within)

/-! ## The end of a helper core's instruction, and its trap -/

/-- A helper core after an instruction whose next one is n bytes on (R318, R324, R343). -/
theorem helperDone_helper (s : State) (h rd : Nat) (v : Word64) (n : Nat) : (s.helperDone h rd v n).helper h =
    { s.helper h with
      x := if rd = 0 then (s.helper h).x else tset (s.helper h).x rd v,
      pc := if (s.helper h).held then (s.helper h).pc else (s.helper h).pc + BitVec.ofNat 64 n, blocked := false, wfi := false,
      ktWait := none, held := false, csr := tset (s.helper h).csr 0xB02 (tget (s.helper h).csr 0xB02 0 + 1),
      running := (s.helper h).running && (s.helper h).run } := by
  rw [State.helperDone, helper_of_within (State.event_within _ _ _ _) rfl, setHelper_helper]

theorem helperDone_xr (s : State) (h : Nat) {rd : Nat} (hrd : rd ≠ 0) (v : Word64) (n : Nat) :
    ((s.helperDone h rd v n).helper h).xr rd = v := by
  rw [helperDone_helper, Helper.xr, if_neg hrd]
  simp only [if_neg hrd, tget_tset_self]

theorem helperDone_pc (s : State) (h rd : Nat) (v : Word64) (n : Nat) : ((s.helperDone h rd v n).helper h).pc =
    if (s.helper h).held then (s.helper h).pc else (s.helper h).pc + BitVec.ofNat 64 n := by rw [helperDone_helper]

theorem helperDone_mem (s : State) (h rd : Nat) (v : Word64) (n : Nat) : (s.helperDone h rd v n).mem = s.mem :=
  (State.helperDone_within s h rd v n).eq_mem rfl

/-- A trap saves its place, cause and value and goes to mtvec (R318). -/
theorem helperTrap_csrs (s : State) (h cause : Nat) (tval : Word64) :
    ((s.helperTrap h cause tval).helper h).pc = (s.helper h).csrOf 0x305 &&& ~~~3#64 ∧
      ((s.helperTrap h cause tval).helper h).csrOf 0x341 = (s.helper h).pc ∧
      ((s.helperTrap h cause tval).helper h).csrOf 0x343 = tval ∧
      ((s.helperTrap h cause tval).helper h).csrOf 0x342 = BitVec.ofNat 64 cause := by
  rw [State.helperTrap, setHelper_helper]
  refine ⟨rfl, ?_, ?_, ?_⟩
  all_goals simp [Helper.csrOf, Helper.enter]

/-! ## A core's own scratchpad -/

/-- What a core writes into its own scratchpad raises no WATCH and ends no reservation of it (R318, R322). -/
theorem devWriteBy_own_helper {h off : Nat} (hoff : off < 0x80000) (s : State) (hint : Nat) (bs : Bytes) (k : Nat) :
    (s.devWriteBy (some h) hint (hpDpa h off) bs).1.helper k = s.helper k := by
  have hown : (hpDpa h off - hpBase) / 0x80000 = h := by
    unfold hpDpa
    omega
  have hhbm : inHbm (hpDpa h off) bs.length = false := by
    have hbase : 2 ^ 39 < hpBase := by decide
    refine decide_eq_false ?_
    unfold hpDpa
    omega
  simp only [State.devWriteBy, State.noteWatch, hown, hhbm, ne_eq, not_true_eq_false, false_and, if_false, Bool.false_eq_true]
  split_ifs <;> rfl

theorem devRead_pads {a n : Nat} (h : InPads a n) (s : State) (hint : Nat) : s.devRead hint a n = (s, .ok (s.bytes a n)) := by
  simp only [State.devRead, h.inRegion, h.not_inHbm, Bool.not_true, Bool.false_eq_true, if_false]

/-- A far access that ends with a value completes its instruction. -/
theorem farAccess_of_value {s u : State} {h n v : Nat} {addr : Word64} {store : Option Word64}
    (hrun : s.farRun h addr.toNat n store = (u, .value v)) (rd : Nat) (signed : Bool) (len : Nat) :
    s.farAccess h addr n store rd signed len = u.helperDone h (if store.isSome then 0 else rd) (loadValue n v signed) len := by
  rw [State.farAccess, hrun]

theorem farMem_loads {s : State} {d n : Nat} (h : Nat) (hread : s.devRead 0 d n = (s, .ok (s.bytes d n))) :
    s.farMem h d n none = (s, .ok (s.num d n)) := by rw [State.farMem, hread, State.num]

section Own

variable {h rd : Fin 32} {n : Nat} {addr val : Word64} {signed short : Bool} {s : State}

/-- The address after the instruction (R343). -/
theorem next_pc (pc : Word64) (held short : Bool) : (if held then pc else pc + BitVec.ofNat 64 (if short then 2 else 4)) =
    if held then pc else pc + (if short then 2 else 4) := by cases short <;> rfl

theorem helperFarAccess_free (hfree : s.helperFree h = true) (store : Option Word64) : exec (.helperFarAccess h addr n store rd signed short) s =
    .next (s.farAccess h addr n store rd signed (if short then 2 else 4)) :=
  congrArg Host.Outcome.next (if_pos hfree)

variable (hn : n = 1 ∨ n = 2 ∨ n = 4 ∨ n = 8)
include hn

/-- An access to the own scratchpad is one of memory (R319). -/
theorem farRun_own (hin : addr.toNat + n ≤ 0x80000) (store : Option Word64) :
    s.farRun h addr.toNat n store = farEnd (s.farMem h (hpDpa h addr.toNat) n store) := by
  have hsize : ¬(n ≠ 1 ∧ n ≠ 2 ∧ n ≠ 4 ∧ n ≠ 8) := by omega
  simp only [State.farRun, if_neg hsize, if_pos hin]

theorem farAccess_loads (hin : addr.toNat + n ≤ 0x80000) (len : Nat) : s.farAccess h addr n none rd signed len =
    s.helperDone h rd (loadValue n (s.num (hpDpa h addr.toNat) n) signed) len := by
  have hmem := farMem_loads h (devRead_pads (inPads_hpDpa h.isLt hin) s 0)
  exact farAccess_of_value ((farRun_own hn hin none).trans (by rw [hmem, farEnd])) rd signed len

theorem farAccess_stores (hin : addr.toNat + n ≤ 0x80000) (len : Nat) : s.farAccess h addr n (some val) rd signed len =
    ((s.devWriteBy (some h) 0 (hpDpa h addr.toNat) (leBytes n val.toNat)).1.ringsSeen s (h / 2)).helperDone h 0
      (loadValue n 0 signed) len := by
  have hpads : InPads (hpDpa h addr.toNat) (leBytes n val.toNat).length := by
    rw [leBytes_length]
    exact inPads_hpDpa h.isLt hin
  obtain ⟨t, ht⟩ : ∃ t, s.devWriteBy (some h) 0 (hpDpa h addr.toNat) (leBytes n val.toNat) = (t, none) := ⟨_, devWriteBy_pads hpads _ _ _⟩
  have hmem : s.farMem h (hpDpa h addr.toNat) n (some val) = (t.ringsSeen s (h / 2), .ok 0) := by simp only [State.farMem, ht]
  rw [ht]
  exact farAccess_of_value ((farRun_own hn hin (some val)).trans (by rw [hmem, farEnd])) rd signed len

/-- A misaligned access elsewhere, and one to a reserved window without PRIV, is an access fault (R319). -/
theorem farRun_faults (hbad : addr.toNat % n ≠ 0 ∧ 0x80000 < addr.toNat + n ∨ ((s.helper h).priv = false ∧ 2 ≤ fld addr.toNat 62 2))
    (store : Option Word64) : s.farRun h addr.toNat n store = (s, .fault) := by
  have hsize : ¬(n ≠ 1 ∧ n ≠ 2 ∧ n ≠ 4 ∧ n ≠ 8) := by omega
  have hout : ¬ addr.toNat + n ≤ 0x80000 := by
    rcases hbad with ⟨_, hout⟩ | ⟨_, hwin⟩
    · omega
    · rw [EndToEnd.fld_eq_div_mod] at hwin
      omega
  simp only [State.farRun, if_neg hsize, if_neg hout]
  by_cases halign : addr.toNat % n ≠ 0
  · rw [if_pos halign]
  · rw [if_neg halign]
    obtain ⟨hpriv, hwin⟩ := hbad.resolve_left fun h => halign h.1
    have hlt : fld addr.toNat 62 2 < 4 := Nat.mod_lt _ (by decide)
    obtain hw | hw : fld addr.toNat 62 2 = 2 ∨ fld addr.toNat 62 2 = 3 := by omega
    · simp [hw, hpriv]
    · simp [hw, hpriv]

end Own

/-- Settles O54: an access to the own scratchpad reads or writes memory, a fault traps. -/
theorem helperFarAccesses : Obligations.HelperFarAccesses := by
  unfold Obligations.HelperFarAccesses
  intro h rd n signed short val addr s hfree x d next hn
  refine ⟨fun hin => ⟨?load, ?store⟩, fun hbad store => ?trap⟩
  case load =>
    refine ⟨_, (helperFarAccess_free hfree none).trans (congrArg _ (farAccess_loads hn hin _)), ?_, helperDone_mem _ _ _ _ _, fun hrd => ?_⟩
    · rw [helperDone_pc]
      exact next_pc _ _ short
    · exact helperDone_xr s h (Fin.val_ne_of_ne hrd) _ _
  case store =>
    have hpads := inPads_hpDpa (h := h) h.isLt hin
    obtain ⟨hrun, hout⟩ := devWriteBy_pads_mem hpads (leBytes_length n val.toNat) s (some h) 0
    have hmem := (helperDone_mem (((s.devWriteBy (some h) 0 d (leBytes n val.toNat)).1.ringsSeen s (h / 2))) h 0
      (loadValue n 0 signed) (if short then 2 else 4)).trans (ringsSeen_mem _ _ _)
    refine ⟨_, (helperFarAccess_free hfree _).trans (congrArg _ (farAccess_stores hn hin _)), ?_, ?_, sameMemOutside_congr hout hmem⟩
    · rw [helperDone_pc, helper_of_within (Within.ringsSeen (ps := [.msgs, .freeCtr]) rfl (.refl _ _)) rfl,
        devWriteBy_own_helper (by omega)]
      exact next_pc _ _ short
    · rw [State.bytes, hmem]
      exact hrun
  case trap =>
    have htrap : s.farAccess h addr n store rd signed (if short then 2 else 4) = s.helperTrap h (if store.isSome then 7 else 5) addr := by
      simp only [State.farAccess, farRun_faults hn hbad]
    obtain ⟨hpc, hepc, htval, hcause⟩ := helperTrap_csrs s h (if store.isSome then 7 else 5) addr
    refine ⟨_, (helperFarAccess_free hfree store).trans (congrArg _ htrap), rfl, hpc, hepc, htval, hcause.trans ?_⟩
    cases store <;> rfl

end Sys2Proof.FarAccesses

/-! A helper core's controls (R302, R318, R322, R329) and its message instructions (R324-R327; O32). -/

namespace Sys2Proof.HelperInstr

open Sys2Proof Sys2Proof.Machine Sys2Proof.Laws Sys2Proof.VectorRun Sys2Proof.FarAccesses
open Sys2Proof.ChainDrip (gate_takes getLsbD_or_oneHot)
open Sys2Proof.HandlerEntries (helper_of_within msgPop_queue)
open Sys2Proof.RegisterWrites (putHdr_hdr hdr_of_within)
open Sys2Proof.EngineInstr (eng_of_within)
open Sys2Proof.SlotSteps (push_queue)

theorem msg_of_within {ps : List Part} {s t : State} (h : Within ps s t) (hps : ps.contains .msgs = false) (k : Nat) :
    t.msg k = s.msg k := by rw [State.msg, h.eq_msgs hps, State.msg]

/-! ## Controls -/

section Controls

variable {h : Fin 32} {s : State} (htakes : s.takes (.helper h) = true)

/-- TENANT of a core that stands is taken over a zeroed scratchpad; the messages of another tenant are dropped (R302, R329, R349). -/
theorem helperTenantPut_stands (v : Nat) (hrun : (s.helper h).run = false) (hrunning : (s.helper h).running = false)
    (hbusy : ((s.vec (h / 2)).run.any fun r => r.tenant == (s.helper h).tenant) = false) :
    ∃ u : State, s.helperTenantPut h v = (u.setHelper h { u.helper h with tenant := fld v 0 10 }).zeroRun (hpDpa h 0) 0x80000 := by
  have hidle : (match (s.vec (h / 2)).run with | some r => r.tenant == (s.helper h).tenant | none => false) = false := by
    rw [← hbusy]
    cases (s.vec (h / 2)).run <;> rfl
  refine ⟨if fld v 0 10 = (s.helper h).tenant then s else s.dropMessages (epOfHelper h), ?_⟩
  simp only [State.helperTenantPut, hrun, hrunning, Bool.false_or]
  exact if_neg (Bool.not_eq_true _ ▸ hidle)

include htakes

theorem helperTenantWrite_takes (val : Word32) (hrun : (s.helper h).run = false) (hrunning : (s.helper h).running = false)
    (hbusy : ((s.vec (h / 2)).run.any fun r => r.tenant == (s.helper h).tenant) = false) :
    ∃ t, exec (.helperTenantWrite h val) s = .next t ∧ (t.helper h).tenant = fld val.toNat 0 10 ∧
      ∀ a, hpDpa h 0 ≤ a → a < hpDpa h 0 + 0x80000 → memGet t.mem 0 a = 0 := by
  obtain ⟨u, hu⟩ := helperTenantPut_stands val.toNat hrun hrunning hbusy
  refine ⟨_, congrArg Host.Outcome.next ((gate_takes htakes _).trans hu), ?_, fun a hlo hhi => memGet_memClear_in _ _ _ _ _ hlo hhi⟩
  exact congrArg Helper.tenant (setHelper_helper u h _)

/-- RUN starts a core that stands (R329). -/
theorem helperRunWrite_starts (val : Word32) (hset : bit val.toNat 0 = true) (hrun : (s.helper h).run = false)
    (hrunning : (s.helper h).running = false) :
    ∃ t, exec (.helperRunWrite h val) s = .next t ∧ (t.helper h).run = true ∧ (t.helper h).running = true ∧
      (t.helper h).pc = BitVec.ofNat 64 (fld (s.helper h).bootPc.toNat 1 18 * 2) ∧ (∀ r, (t.helper h).xr r = 0) ∧
      (t.helper h).priv = bit val.toNat 1 ∧ (t.helper h).inh = false := by
  have hstands : ¬(bit val.toNat 1 ≠ (s.helper h).priv ∧ ((s.helper h).run = true ∨ (s.helper h).running = true)) := by
    simp [hrun, hrunning]
  refine ⟨_, congrArg Host.Outcome.next ((gate_takes htakes _).trans ((if_neg hstands).trans (if_pos ?_))), ?_⟩
  · rw [hset, hrun]
    rfl
  · rw [setHelper_helper]
    exact ⟨rfl, rfl, rfl, fun r => ite_self 0, rfl, rfl⟩

/-- Clearing RUN halts a core that waits for nothing (R329). -/
theorem helperRunWrite_halts (val : Word32) (hclear : bit val.toNat 0 = false) (hpriv : bit val.toNat 1 = (s.helper h).priv)
    (hkt : (s.helper h).ktWait = none) (hsend : ((List.range 8).all fun c => ((s.msg (epOfHelper h)).send c).isNone) = true) :
    ∃ t, exec (.helperRunWrite h val) s = .next t ∧ (t.helper h).run = false ∧ (t.helper h).running = false ∧
      (t.helper h).pc = (s.helper h).pc := by
  have hwaits : s.helperWaits h = false := by
    simp only [List.all_eq_true, Option.isNone_iff_eq_none] at hsend
    simp only [State.helperWaits, hkt, Option.isSome_none, Bool.false_or, List.any_eq_false]
    intro c hc
    rw [hsend c hc]
    decide
  refine ⟨_, congrArg Host.Outcome.next (gate_takes htakes _), ?_⟩
  have hkeeps : ¬(bit val.toNat 1 ≠ (s.helper h).priv ∧ ((s.helper h).run = true ∨ (s.helper h).running = true)) :=
    fun hne => hne.1 hpriv
  simp only [State.helperCtl, if_neg hkeeps, hclear, hwaits, Bool.false_and, Bool.false_eq_true, if_false, setHelper_helper, Bool.or_self,
    Bool.and_false, and_self]

end Controls

/-! ## Instructions of a free core -/

section Free

variable {h : Fin 32} {s : State} (hfree : s.helperFree h = true)

theorem helperDone_pc_next (hheld : (s.helper h).held = false) (rd : Nat) (v : Word64) (n : Nat) :
    ((s.helperDone h rd v n).helper h).pc = (s.helper h).pc + BitVec.ofNat 64 n := by
  rw [helperDone_pc, hheld]
  rfl

/-- The end of an instruction counts an event in the page's header (R330). -/
theorem helperDone_irqSts (s : State) (h rd : Nat) (v : Word64) (n : Nat) :
    ((s.helperDone h rd v n).hdr (.helper h)).irqSts = (s.hdr (.helper h)).irqSts := by
  rw [State.helperDone, State.event, setHdr_hdr]
  rfl

theorem helperReady_of_free (hfree : s.helperFree h = true) : s.helperReady h = true := by
  simp only [State.helperFree, Bool.and_eq_true] at hfree
  exact hfree.1.1

/-- A free core's KTEMIT does not wait (R326, R343). -/
theorem ktWait_of_free (hfree : s.helperFree h = true) : (s.helper h).ktWait = none := by
  have hready := helperReady_of_free hfree
  simp only [State.helperReady, State.helperWaits, Bool.and_eq_true, Bool.not_eq_true', Bool.or_eq_false_iff] at hready
  exact Option.not_isSome_iff_eq_none.1 (Bool.not_eq_true _ ▸ hready.2.1)

include hfree

/-- kmhost: MBOX and its interrupt (R322). -/
theorem kmhostWrite_raises (hheld : (s.helper h).held = false) (val : Word64) :
    ∃ t, exec (.kmhostWrite h val) s = .next t ∧ (t.helper h).mbox = val.setWidth 32 ∧ (t.hdr (.helper h)).irqSts.getLsbD 0 = true ∧
      (t.helper h).pc = (s.helper h).pc + 4 := by
  have hcore : (s.kmhost h val).helper h = { s.helper h with mbox := val.setWidth 32 } := by
    rw [State.kmhost, helper_of_within (State.raise_within _ _ _) rfl, setHelper_helper]
  refine ⟨_, congrArg Host.Outcome.next (if_pos hfree), ?_, ?_, ?_⟩
  · rw [helperDone_helper, hcore]
  · rw [helperDone_irqSts, State.kmhost, State.raise, putHdr_hdr]
    exact getLsbD_or_oneHot (by decide) _
  · rw [helperDone_pc_next (by rw [hcore]; exact hheld), hcore]
    rfl

/-! ### KSEND (R324) -/

/-- What waits at a channel after a KSEND of a request whose payload begins at a (R324, R343). -/
def requestOf (s : State) (h rd a : Nat) (hdr : Word64) : SendMsg :=
  { hdr := hdr, payload := s.bytes (hpDpa h a) (mLen hdr.toNat), rd := rd, at_ := s.cyc (epIsland (epOfHelper h)) }

section Send

variable {rd rs1 rs2 : Fin 32} {queue : Fin 4}
  (hin : ownMiss ((s.helper h).xr rs1).toNat (mLen ((s.helper h).xr rs2).toNat) = none)
include hin

/-- A request waits at its channel with its payload. -/
theorem ksend_waits : ∃ t m, exec (.ksend h rd rs1 rs2 queue false) s = .next t ∧ (t.msg (epOfHelper h)).send queue = some m ∧
    m.hdr = (s.helper h).xr rs2 ∧ m.payload = s.bytes (hpDpa h ((s.helper h).xr rs1).toNat) (mLen ((s.helper h).xr rs2).toNat) ∧
    m.rd = rd.val ∧ t.helper h = s.helper h := by
  have hwaits : s.ksend h rd rs1 rs2 queue false = s.setMsg (epOfHelper h) { s.msg (epOfHelper h) with
      sending := tset (s.msg (epOfHelper h)).sending queue (some
        (requestOf s h rd ((s.helper h).xr rs1).toNat ((s.helper h).xr rs2))) } := by
    simp only [State.ksend, hin, Bool.false_eq_true, if_false, requestOf]
  refine ⟨_, requestOf s h rd ((s.helper h).xr rs1).toNat ((s.helper h).xr rs2),
    congrArg Host.Outcome.next ((if_pos hfree).trans hwaits), ?_, rfl, rfl, rfl, rfl⟩
  rw [setMsg_msg]
  exact tget_tset_self _ _ _ _

/-- A reply goes at once: its status is in rd. -/
theorem ksend_replies (hheld : (s.helper h).held = false) {s1 : State} {c : Code}
    (hsend : s.sendReply (epOfHelper h) queue ((s.helper h).xr rs2)
      (s.bytes (hpDpa h ((s.helper h).xr rs1).toNat) (mLen ((s.helper h).xr rs2).toNat)) = (s1, c))
    (hcore : s1.helper h = s.helper h) :
    ∃ t, exec (.ksend h rd rs1 rs2 queue true) s = .next t ∧ (t.helper h).pc = (s.helper h).pc + 4 ∧
      (rd ≠ 0 → (t.helper h).xr rd = BitVec.ofNat 64 c.num) := by
  have hdone : s.ksend h rd rs1 rs2 queue true = s1.helperDone h rd (BitVec.ofNat 64 c.num) 4 := by
    simp only [State.ksend, hin, if_true, hsend]
  refine ⟨_, congrArg Host.Outcome.next ((if_pos hfree).trans hdone), ?_, fun hrd => helperDone_xr s1 h (Fin.val_ne_of_ne hrd) _ _⟩
  rw [helperDone_pc_next (by rw [hcore]; exact hheld), hcore]
  rfl

end Send

/-! ### KTEMIT and KHRET (R326, R327) -/

/-- A token that has room is in its queue. -/
theorem ktemit_delivers {rd rs1 rs2 : Fin 32} {e q : Nat} (ha : ((s.helper h).xr rs1).toNat < 8)
    (hv : ((s.helper h).xr rs2).toNat < 2 ^ 17) (he : e = 4 * (h / 2) + ((s.helper h).xr rs1).toNat % 4)
    (hq : q = if bit ((s.helper h).xr rs1).toNat 2 then 13 else 12) (hten : (s.eng e).tenant = (s.helper h).tenant)
    (hst : (s.eng e).st ≠ .idle) (hreset : (s.eng e).inReset = false) (hon : s.blkOn (.engine e) = true)
    (hroom : s.tokWaits e q = false) :
    ∃ t, exec (.ktemit h rd rs1 rs2) s = .next t ∧ (rd ≠ 0 → (t.helper h).xr rd = 0) ∧
      (t.eng e).queue q = (s.eng e).queue q ++
        [⟨BitVec.ofNat 16 ((s.helper h).xr rs2).toNat, bit ((s.helper h).xr rs2).toNat 16⟩] := by
  have hops : ¬(8 ≤ ((s.helper h).xr rs1).toNat ∨ 2 ^ 17 ≤ ((s.helper h).xr rs2).toNat) := by omega
  have htakes : ¬((s.eng e).st = .idle ∨ (s.eng e).inReset = true ∨ (!s.blkOn (.engine e)) = true) := by
    simp [hst, hreset, hon]
  have hgo (tok : Token) : s.ktGo h e q tok rd =
      (s.setEng e ((s.eng e).push q tok)).helperDone h rd (BitVec.ofNat 64 Code.ok.num) 4 := by
    rw [State.ktGo]
    dsimp only
    rw [if_neg (not_not_intro hten), if_neg htakes, if_neg (by rw [hroom]; decide)]
  have hktemit : execKtemit h rd rs1 rs2 s = .next (s.ktemit h rd rs1 rs2) := by
    rw [execKtemit, ktWait_of_free hfree, if_neg (by decide), if_pos hfree]
  refine ⟨_, hktemit.trans (congrArg _ (Eq.trans ?_ (hgo ⟨BitVec.ofNat 16 ((s.helper h).xr rs2).toNat,
    bit ((s.helper h).xr rs2).toNat 16⟩))), fun hrd => helperDone_xr _ h (Fin.val_ne_of_ne hrd) _ _, ?_⟩
  · rw [State.ktemit, he, hq]
    exact if_neg hops
  · rw [eng_of_within (State.helperDone_within _ _ _ _ _) rfl, setEng_eng, push_queue]

/-- KHRET goes back to kmepc. -/
theorem khret_resumes (hheld : (s.helper h).held = false) (hinh : (s.helper h).inh = true) :
    ∃ t, exec (.khret h) s = .next t ∧ (t.helper h).inh = false ∧ (t.helper h).pc = (s.helper h).kmepc := by
  have hback : s.khret h = (s.setHelper h { s.helper h with inh := false, pc := (s.helper h).kmepc }).helperDone h 0 0 0 := by
    simp only [State.khret, hinh, Bool.not_true, Bool.false_eq_true, if_false]
  refine ⟨_, congrArg Host.Outcome.next ((if_pos hfree).trans hback), ?_, ?_⟩
  · rw [helperDone_helper, setHelper_helper]
  · rw [helperDone_pc_next (by rw [setHelper_helper]; exact hheld), setHelper_helper]
    exact BitVec.add_zero _

end Free

/-! ### A received message's bytes (R325, R348) -/

/-- A ring that stops keeps the messages that wait (R348). -/
theorem stopRing_queue (s : State) (ep q k c : Nat) : ((s.stopRing ep q).msg k).queue c = (s.msg k).queue c := by
  rw [State.stopRing, msg_of_within (State.drawn_within _) rfl]
  by_cases hk : k = ep
  · subst hk
    rw [setMsg_msg]
    rfl
  · rw [setMsg_msg_other _ _ _ hk]

theorem ringsSeen_queue (t old : State) (g k c : Nat) : ((t.ringsSeen old g).msg k).queue c = (t.msg k).queue c := by
  rw [State.ringsSeen]
  refine List.foldlRecOn (motive := fun u : State => (u.msg k).queue c = (t.msg k).queue c) _ _ rfl fun u hu i _ => ?_
  dsimp only
  split
  · exact hu
  · split
    · exact hu
    · split
      · exact hu
      · rw [stopRing_queue]
        exact hu

/-- The state in which a message's bytes stand in the own scratchpad of core h at offset off, its queue without it. -/
def received (s : State) (h q off : Nat) (m : QMsg) : State :=
  ((s.msgPop (epOfHelper h) q).devWriteBy (some h) 0 (hpDpa h off) m.image).1.ringsSeen (s.msgPop (epOfHelper h) q) (h / 2)

section Receive

variable {h : Fin 32} {s : State} {q off : Nat} {m : QMsg}

theorem received_helper (hoff : off < 0x80000) (k : Nat) : (received s h q off m).helper k = s.helper k := by
  rw [received, helper_of_within (Within.ringsSeen (ps := [.msgs, .freeCtr]) rfl (.refl _ _)) rfl, devWriteBy_own_helper hoff,
    helper_of_within (State.msgPop_within _ _ _) rfl]

theorem received_queue {l : List QMsg} (hqueue : (s.msg (epOfHelper h)).queue q = m :: l) :
    ((received s h q off m).msg (epOfHelper h)).queue q = l := by
  rw [received, ringsSeen_queue, msg_of_within (State.devWriteBy_within _ _ _ _ _) rfl]
  exact msgPop_queue hqueue

theorem received_mem (hin : off + m.image.length ≤ 0x80000) :
    memRun (received s h q off m).mem 0 (hpDpa h off) m.image.length = m.image ∧
      SameMemOutside s (received s h q off m) (hpDpa h off) m.image.length := by
  obtain ⟨hrun, hout⟩ := devWriteBy_pads_mem (inPads_hpDpa h.isLt hin) rfl (s.msgPop (epOfHelper h) q) (some h) 0
  have hpop := sameMemOutside_of_mem ((State.msgPop_within s (epOfHelper h) q).eq_mem rfl) (hpDpa h off) m.image.length
  have hmem : (received s h q off m).mem = _ := ringsSeen_mem _ _ _
  exact ⟨by rw [hmem]; exact hrun, sameMemOutside_congr (sameMemOutside_trans hpop hout) hmem⟩

/-- A run of one byte or more that ownMiss does not fault lies in the scratchpad (R319). -/
theorem run_in_of_ownMiss {a n : Nat} (hn : n ≠ 0) (hmiss : ownMiss a n = none) : a + n ≤ 0x80000 := by
  by_contra hout
  rw [ownMiss, if_neg hn] at hmiss
  split_ifs at hmiss
  omega

/-- KRECV takes the head message: its bytes into the buffer, its header into rd (R325). -/
theorem krecv_takes (hfree : s.helperFree h = true) (hheld : (s.helper h).held = false) {rd rs1 : Fin 32} {queue : Fin 4} {reply : Bool}
    {l : List QMsg} (hq : q = (if reply then 4 else 0) + queue.val) (hoff : off = ((s.helper h).xr rs1).toNat)
    (hqueue : (s.msg (epOfHelper h)).queue q = m :: l) (hmiss : ownMiss off m.image.length = none) (himage : m.image ≠ []) :
    ∃ t, exec (.krecv h rd rs1 queue reply) s = .next t ∧ (t.msg (epOfHelper h)).queue q = l ∧
      (t.helper h).pc = (s.helper h).pc + 4 ∧ (rd ≠ 0 → (t.helper h).xr rd = m.hdr) ∧
      memRun t.mem 0 (hpDpa h off) m.image.length = m.image ∧ SameMemOutside s t (hpDpa h off) m.image.length := by
  have hlen : m.image.length ≠ 0 := fun h0 => himage (List.length_eq_zero_iff.1 h0)
  have hin := run_in_of_ownMiss hlen hmiss
  have hcore : (received s h q off m).helper h = s.helper h := received_helper (by omega) _
  obtain ⟨hrun, hout⟩ := received_mem (s := s) (h := h) (q := q) hin
  have htake : s.krecv h rd rs1 q = (received s h q off m).helperDone h rd m.hdr 4 := by
    subst hoff
    simp only [State.krecv, hqueue, hmiss, received]
  refine ⟨(received s h q off m).helperDone h rd m.hdr 4, ?_, ?_, ?_, fun hrd => helperDone_xr _ h (Fin.val_ne_of_ne hrd) _ _, ?_, ?_⟩
  · rw [← htake, hq]
    exact congrArg Host.Outcome.next (if_pos (by rw [hfree]; rfl))
  · rw [msg_of_within (State.helperDone_within _ _ _ _ _) rfl]
    exact received_queue hqueue
  · rw [helperDone_pc_next (by rw [hcore]; exact hheld), hcore]
    rfl
  · rw [helperDone_mem]
    exact hrun
  · exact sameMemOutside_congr hout (helperDone_mem _ _ _ _ _)

/-- KRECV of an empty queue blocks (R325). -/
theorem krecv_blocks (hfree : s.helperFree h = true) {rd rs1 : Fin 32} {queue : Fin 4} {reply : Bool}
    (hempty : (s.msg (epOfHelper h)).queue ((if reply then 4 else 0) + queue.val) = []) :
    exec (.krecv h rd rs1 queue reply) s = .next (s.setHelper h
      { s.helper h with blocked := true, recv := (rd.val, rs1.val, (if reply then 4 else 0) + queue.val) }) := by
  refine congrArg Host.Outcome.next ((if_pos (by rw [hfree]; rfl)).trans ?_)
  simp only [State.krecv, hempty]

/-! ### Dispatch (R327) -/

/-- The entry of a message's handler in the table of core h (R327). -/
def entryOff (x : Helper) (m : QMsg) : Nat := x.kmhtab.toNat / 8 * 8 + 8 * mHandler m.hdr.toNat

/-- A dispatch with a valid entry enters the handler. -/
theorem helperDispatch_enters (hfree : s.helperFree h = true) (hde : (s.helper h).de = true) (hinh : (s.helper h).inh = false)
    (hhead : s.dispatchable h = some (q, m)) (hroom : entryOff (s.helper h) m + 8 ≤ 0x80000)
    (hvalid : bit (s.num (hpDpa h (entryOff (s.helper h) m)) 8) 63 = true) :
    ∃ t, exec (.helperDispatch h) s = .next t ∧ (t.helper h).inh = true ∧ (t.helper h).kmhdr = m.hdr ∧
      (t.helper h).kmepc = (s.helper h).pc ∧
      (t.helper h).pc = BitVec.ofNat 64 (fld (s.num (hpDpa h (entryOff (s.helper h) m)) 8) 1 18 * 2) := by
  have htaken : ¬((!s.helperReady h) = true ∨ (!(s.helper h).de) = true ∨ (s.helper h).inh = true) := by
    simp [helperReady_of_free hfree, hde, hinh]
  have hbuf : fld (s.helper h).kmbuf.toNat 8 11 * 256 < 0x80000 := by
    rw [EndToEnd.fld_eq_div_mod]
    omega
  have hcore := received_helper (s := s) (h := h) (q := q) (m := m) hbuf h
  have henter : s.helperDispatch h =
      ((received s h q (fld (s.helper h).kmbuf.toNat 8 11 * 256) m).setHelper h
        { (received s h q (fld (s.helper h).kmbuf.toNat 8 11 * 256) m).helper h with
          kmhdr := m.hdr, kmepc := (s.helper h).pc, inh := true,
          pc := BitVec.ofNat 64 (fld (s.num (hpDpa h (entryOff (s.helper h) m)) 8) 1 18 * 2),
          blocked := false, wfi := false }).event (.helper h) 7 1 := by
    rw [entryOff] at hroom hvalid ⊢
    simp only [State.helperDispatch, if_neg htaken, hhead, if_pos hroom, hvalid, Bool.not_true, Bool.false_eq_true, if_false, received]
  refine ⟨_, congrArg Host.Outcome.next henter, ?_⟩
  rw [helper_of_within (State.event_within _ _ _ _) rfl, setHelper_helper]
  exact ⟨rfl, rfl, rfl, rfl⟩

end Receive

/-- Settles O32: each control and each message instruction has its rule above. -/
theorem helperCores : Obligations.HelperCores := by
  unfold Obligations.HelperCores
  refine ⟨?controls, ?instructions⟩
  case controls =>
    intro h s x
    exact ⟨fun val htakes hrun hrunning hbusy => helperTenantWrite_takes htakes val hrun hrunning hbusy,
      fun val htakes hset hrun hrunning => helperRunWrite_starts htakes val hset hrun hrunning,
      fun val htakes hclear hpriv hkt hsend => helperRunWrite_halts htakes val hclear hpriv hkt hsend,
      fun val hfree hheld => kmhostWrite_raises hfree hheld val⟩
  case instructions =>
    intro h rd rs1 rs2 queue reply s hfree hheld x ep a
    refine ⟨?send, ?receive, ?block, ?emit, ?resume, ?dispatch⟩
    case send =>
      exact fun hin => ⟨ksend_waits hfree hin, fun s1 c hsend hcore => ksend_replies hfree hin hheld hsend hcore⟩
    case receive =>
      exact fun m l hqueue hmiss himage => krecv_takes hfree hheld rfl rfl hqueue hmiss himage
    case block => exact fun hempty => krecv_blocks hfree hempty
    case emit =>
      exact fun e q ha hv he hq hten hst hreset hon hroom => ktemit_delivers hfree ha hv he hq hten hst hreset hon hroom
    case resume => exact fun hinh => khret_resumes hfree hheld hinh
    case dispatch =>
      intro q m hde hinh hhead at_ hroom hvalid
      exact helperDispatch_enters hfree hde hinh hhead hroom hvalid

end Sys2Proof.HelperInstr

/-! Host rings: doorbells, EN, and the entries at the head of a ring (R360, R361, R364, R365; O21). -/

namespace Sys2Proof.HostRings

open Sys2Proof Sys2Proof.Machine Sys2Proof.Laws Sys2Proof.CommitPosting

section Controls

variable {port : Fin 2} {fn : Fin 64} {n : Fin 16} {val : Word32} {s : State}

/-! ## Doorbells -/

/-- A doorbell of an enabled submission ring moves its tail. -/
theorem sqDoorbell_moves (hen : (s.sqOf port fn n).en = true) (hin : val.toNat < (s.sqOf port fn n).size) :
    exec (.sqDoorbell port fn n val) s = .next (s.putSq port fn n { s.sqOf port fn n with tail := val.toNat }) := by
  show execSqDoorbell port fn n val s = _
  simp [execSqDoorbell, hen, Nat.not_le.2 hin]

/-- A doorbell of an enabled completion ring moves its head. -/
theorem cqDoorbell_moves (hen : (s.cqOf port fn n).en = true) (hin : val.toNat < (s.cqOf port fn n).size) :
    exec (.cqDoorbell port fn n val) s = .next (s.putCq port fn n { s.cqOf port fn n with head := val.toNat }) := by
  show execCqDoorbell port fn n val s = _
  simp [execCqDoorbell, hen, Nat.not_le.2 hin]

/-! ## EN -/

theorem sqEnWrite_applies (htakes : s.takes (.pciep port fn) = true) :
    exec (.sqEnWrite port fn n val) s = .next (s.sqCtl port fn n val.toNat) :=
  congrArg Host.Outcome.next (ChainDrip.gate_takes htakes _)

theorem cqEnWrite_applies (htakes : s.takes (.pciep port fn) = true) :
    exec (.cqEnWrite port fn n val) s = .next (s.cqCtl port fn n val.toNat) :=
  congrArg Host.Outcome.next (ChainDrip.gate_takes htakes _)

end Controls

theorem ringSizeOk_of_le {size : Nat} (hlo : 16 ≤ size) (hhi : size ≤ 65536) : ringSizeOk size = true := by simp [ringSizeOk, hlo, hhi]

section Rings

variable {p f n v : Nat} {s : State}

/-- EN starts a submission ring that is off, of a size in range, at its first entry. -/
theorem sqCtl_starts (hset : bit v 31 = true) (hoff : (s.sqOf p f n).en = false) (hsize : ringSizeOk (s.sqOf p f n).size = true) :
    s.sqCtl p f n v = (s.stalePend p f n).putSq p f n { s.sqOf p f n with
      en := true, pair := bit v 15, pfn := fld v 8 6, head := 0, tail := 0, err := false, cqUsed := none } := by
  simp [State.sqCtl, hset, hoff, hsize]

/-- A write without EN turns a submission ring off. -/
theorem sqCtl_stops (hclear : bit v 31 = false) :
    s.sqCtl p f n v = s.putSq p f n { s.sqOf p f n with en := false, pair := bit v 15, pfn := fld v 8 6 } := by
  simp [State.sqCtl, hclear]

/-- EN starts a completion ring that is off, of a size in range, with no place kept from an FLR, at its first entry. -/
theorem cqCtl_starts (hset : bit v 31 = true) (hoff : (s.cqOf p f n).en = false) (hsize : ringSizeOk (s.cqOf p f n).size = true)
    (hflr : (s.cqOf p f n).flr = none) :
    s.cqCtl p f n v = s.putCq p f n { s.cqOf p f n with
      en := true, iv := fld v 0 6, err := false, tail := 0, phase := true, head := 0, flr := none } := by
  simp [State.cqCtl, hset, hoff, hsize, hflr]

/-- A write without EN turns a completion ring off. -/
theorem cqCtl_stops (hclear : bit v 31 = false) : s.cqCtl p f n v = s.putCq p f n { s.cqOf p f n with en := false, iv := fld v 0 6 } := by
  simp [State.cqCtl, hclear]

/-! ## Entries -/

/-- A slot that is taken has the entry's record and what its checks gave. -/
theorem takeSlot_journal (m : Nat) (x : JSlot) (pend : Pend) :
    (s.takeSlot m x pend).journal = { s.journal with
      postedOrder := s.journal.postedOrder.filter fun k => k != m, pend := tset s.journal.pend m pend,
      slots := tset s.journal.slots m x } :=
  (Within.each (fun u g => State.setGal_within u g _) (.refl _ _)).eq_journal rfl

theorem takeSlot_slotJ (m : Nat) (x : JSlot) (pend : Pend) : (s.takeSlot m x pend).slotJ m = x := by
  rw [State.slotJ, takeSlot_journal]
  exact tget_tset_self _ _ _ _

theorem takeSlot_pendOf (m : Nat) (x : JSlot) (pend : Pend) : (s.takeSlot m x pend).pendOf m = some pend := by
  rw [State.pendOf, takeSlot_journal, HandleFills.find?_tset]
  rfl

variable {entry : BitVec 512}

/-- The entry with the SEQ that the ring expects takes the next slot, with the outcome of its checks. -/
theorem takeEntry_expected {m : Nat} (hseq : fld entry.toNat 64 64 = (s.sqOf p f n).next.toNat)
    (hcq : (s.cqOf p f (fld entry.toNat 24 4)).en = true) (hslot : s.nextSlot = some m) :
    let c := s.entryCheck p f entry.toNat
    s.takeEntry p f n entry =
      c.1.takeSlot m { entry := entry, port := p, fn := f, ring := n } { refusal := c.2.1, argsDpa := c.2.2 } := by
  simp [State.takeEntry, hseq, hcq, hslot]

/-- An entry whose SEQ has been taken before is consumed. -/
theorem takeEntry_duplicate (hseq : fld entry.toNat 64 64 < (s.sqOf p f n).next.toNat) :
    s.takeEntry p f n entry =
      (s.putSq p f n { s.sqOf p f n with head := ringNext (s.sqOf p f n).head (s.sqOf p f n).size }).event .journal 5 1 := by
  simp [State.takeEntry, hseq]

/-- An entry ahead of the ring, or one whose completion ring is off, stops the ring. -/
theorem takeEntry_stops (h : (s.sqOf p f n).next.toNat < fld entry.toNat 64 64 ∨
      fld entry.toNat 64 64 = (s.sqOf p f n).next.toNat ∧ (s.cqOf p f (fld entry.toNat 24 4)).en = false) :
    s.takeEntry p f n entry = (s.putSq p f n { s.sqOf p f n with err := true }).refuse (.pciep p f) .badCommand := by
  have hnew : ¬fld entry.toNat 64 64 < (s.sqOf p f n).next.toNat := by omega
  have hstop : (s.sqOf p f n).next.toNat < fld entry.toNat 64 64 ∨ (!(s.cqOf p f (fld entry.toNat 24 4)).en) = true :=
    h.imp_right fun hcq => by simp [hcq.2]
  rw [State.takeEntry]
  simp only [if_neg hnew, if_pos hstop]

end Rings

/-- RUN and MARK take the entries of their own operation at the head of a ring that may be fetched. -/
theorem exec_entry {port : Fin 2} {fn : Fin 64} {n : Fin 16} {entry : BitVec 512} {s : State} {io : Instr × Bool}
    (hio : io ∈ [(Instr.run port fn n entry, false), (Instr.mark port fn n entry, true)]) (hopc : (fld entry.toNat 0 8 == 2) = io.2)
    (hfetch : s.canFetch port fn n = true) : exec io.1 s = .next (s.takeEntry port fn n entry) := by
  simp only [List.mem_cons, List.not_mem_nil, or_false] at hio
  rcases hio with rfl | rfl
  · show execRun port fn n entry s = _
    exact if_pos ⟨beq_eq_false_iff_ne.1 hopc, hfetch⟩
  · show execMark port fn n entry s = _
    exact if_pos ⟨beq_iff_eq.1 hopc, hfetch⟩

/-- Settles O21: each write of a ring's registers is one write of the ring, and an entry at its head is taken, consumed, or stops it by its SEQ. -/
theorem ringsAndEntries : Obligations.RingsAndEntries := by
  unfold Obligations.RingsAndEntries
  refine ⟨?registers, ?entries⟩
  case registers =>
    intro port fn n val s q c
    refine ⟨fun hen hin => ⟨_, sqDoorbell_moves hen hin, putSq_sqOf _ _ _ _ _⟩,
      fun hen hin => ⟨_, cqDoorbell_moves hen hin, putCq_cqOf _ _ _ _ _⟩, fun htakes hset hoff hlo hhi => ⟨_, sqEnWrite_applies htakes, ?_⟩,
      fun htakes hset hoff hlo hhi hflr => ⟨_, cqEnWrite_applies htakes, ?_⟩,
      fun htakes hclear => ⟨⟨_, sqEnWrite_applies htakes, ?_⟩, _, cqEnWrite_applies htakes, ?_⟩⟩
    · rw [sqCtl_starts hset hoff (ringSizeOk_of_le hlo hhi), putSq_sqOf]
      exact ⟨rfl, rfl, rfl, rfl, rfl⟩
    · rw [cqCtl_starts hset hoff (ringSizeOk_of_le hlo hhi) hflr, putCq_cqOf]
      exact ⟨rfl, rfl, rfl, rfl, rfl⟩
    · rw [sqCtl_stops hclear, putSq_sqOf]
      exact ⟨rfl, rfl⟩
    · rw [cqCtl_stops hclear, putCq_cqOf]
  case entries =>
    intro port fn n entry s io hio hopc hfetch q seq
    refine ⟨fun m hseq hcq hslot => ⟨_, exec_entry hio hopc hfetch, ?_⟩, fun hseq => ⟨_, exec_entry hio hopc hfetch, ?_⟩,
      fun hstop => ⟨_, exec_entry hio hopc hfetch, ?_⟩⟩
    · have hring : ∀ u : State, Within [.journal, .galleries] (s.entryCheck port fn entry.toNat).1 u → u.sqOf port fn n = q := fun u hu =>
        (sqOf_of_within hu rfl _ _ _).trans (sqOf_of_within (State.entryCheck_within s _ _ _) rfl _ _ _)
      rw [takeEntry_expected hseq hcq hslot]
      simp only [takeSlot_slotJ, takeSlot_pendOf, hring _ (State.takeSlot_within _ _ _ _), and_self]
    · rw [takeEntry_duplicate hseq, sqOf_of_within (State.event_within _ _ _ _) rfl, putSq_sqOf]
    · rw [takeEntry_stops hstop, sqOf_of_within (State.refuse_within _ _ _) rfl, putSq_sqOf]

end Sys2Proof.HostRings

/-! The journal's controls: EN, takeover, query, the restart scan, and the items whose copies differ (R370, R375, R378, R379, R383, R385, R417,
R429; O25). -/

namespace Sys2Proof.JournalControls

open Sys2Proof Sys2Proof.Machine Sys2Proof.Laws Sys2Proof.InstantsDispatch Sys2Proof.CommitPosting

/-! ## EN (R370) -/

theorem journalEnable_applies {s : State} (htakes : s.takes .journal = true) (port : Fin 2) (val : Word32) :
    exec (.journalEnable port val) s = .next (s.journalCtl val.toNat) :=
  congrArg Host.Outcome.next (ChainDrip.gate_takes htakes _)

/-- With legal bases EN enables the journal, and it stays enabled while the records in use are written to the bases. -/
theorem journalCtl_enables {s : State} {v : Nat} (hset : bit v 0 = true) (hoff : s.journal.en = false) (hbases : s.journal.basesOk = true) :
    (s.journalCtl v).journal.en = true := by
  simp only [State.journalCtl, hset, hoff, hbases, Bool.not_true, Bool.not_false, Bool.and_self, Bool.false_eq_true, if_true, if_false]
  exact List.foldlRecOn (motive := fun u : State => u.journal.en = true) _ _ rfl
    fun u hu r _ => (congrArg Journal.en (putSlot_journal u r.1 r.2)).trans hu

theorem journalCtl_disables {s : State} {v : Nat} (hclear : bit v 0 = false) :
    s.journalCtl v = { s with journal := { s.journal with en := false } } := by
  simp [State.journalCtl, hclear]

/-! ## Takeover (R378, R379, R383) -/

/-- Writing one submission ring leaves every other. -/
theorem putSq_sqOf_other {s : State} {p f n q g m : Nat} (x : Sq) (h : 64 * q + g ≠ 64 * p + f ∨ m ≠ n) :
    (s.putSq p f n x).sqOf q g m = s.sqOf q g m := by
  by_cases hfn : 64 * q + g = 64 * p + f
  · have hread : ∀ u : State, u.fn q g = u.fn p f := fun u => by rw [State.fn, State.fn, hfn]
    rw [State.sqOf, State.sqOf, hread, hread, putSq_fn]
    exact tget_tset_other _ _ _ (h.resolve_left (not_not.2 hfn))
  · exact congrArg (fun x : Fn => tget x.sq m {}) (tget_tset_other _ _ _ hfn)

/-- A ring of a pair is its partner's partner. -/
theorem partner_pfn {s : State} {p f n q g : Nat} (h : s.partner p f n = some (q, g)) :
    q = 1 - p ∧ g = (s.sqOf p f n).pfn ∧ f = (s.sqOf q g n).pfn := by
  simp only [State.partner, Option.ite_none_right_eq_some, Option.some.injEq, Prod.mk.injEq] at h
  obtain ⟨⟨-, -, hpfn, -, -⟩, rfl, rfl⟩ := h
  exact ⟨rfl, rfl, hpfn.symm⟩

theorem mem_pairedRings {s : State} {p f n q g : Nat} (h : (f, n, q, g) ∈ s.pairedRings p) : f < 64 ∧ s.partner p f n = some (q, g) := by
  simp only [State.pairedRings, List.mem_flatMap, List.mem_range, List.mem_filterMap, Option.map_eq_some_iff, Prod.mk.injEq] at h
  obtain ⟨f', hf, n', -, ⟨q', g'⟩, hpartner, rfl, rfl, rfl, rfl⟩ := h
  exact ⟨hf, hpartner⟩

/-- The ring r of port p hands over to its partner, unless the partner is ACTIVE already. -/
def handedOver (p : Nat) (s : State) (r : Nat × Nat × Nat × Nat) : State :=
  let x := s.sqOf p r.1 r.2.1
  let y := s.sqOf r.2.2.1 r.2.2.2 r.2.1
  if y.active then s
  else
    (s.putSq p r.1 r.2.1 { x with active := false, movedTo := some (r.2.2.1, r.2.2.2) }).putSq r.2.2.1 r.2.2.2 r.2.1
      { y with next := x.next, nextPost := x.nextPost, jumps := x.jumps, lostStop := x.lostStop, cqUsed := x.cqUsed, active := true,
               movedTo := none }

/-- Each of the pairs of rings l hands over. -/
def allHandedOver (p : Nat) (l : List (Nat × Nat × Nat × Nat)) (s : State) : State := l.foldl (handedOver p) s

theorem moveRings_eq (s : State) (p : Nat) :
    let t := allHandedOver p (s.pairedRings p) s
    s.moveRings p = ({ t with journal := { t.journal with foBusy := false, foPort := 1 - p } }).msixTo (1 - p) 0 0 := rfl

theorem handedOver_within (p : Nat) (s : State) (r : Nat × Nat × Nat × Nat) : Within [.journal, .fns] s (handedOver p s r) :=
  .ite (.refl _ s) (.trans (State.putSq_within s _ _ _ _) (State.putSq_within _ _ _ _ _))

theorem allHandedOver_within (p : Nat) (l : List (Nat × Nat × Nat × Nat)) (s : State) : Within [.journal, .fns] s (allHandedOver p l s) :=
  .foldl (handedOver_within p) (.refl _ s)

/-- A pair that hands over leaves every ring but its own two. -/
theorem handedOver_sqOf_other {p : Nat} {s : State} {r : Nat × Nat × Nat × Nat} {q g m : Nat}
    (h : 64 * q + g ≠ 64 * p + r.1 ∨ m ≠ r.2.1) (h' : 64 * q + g ≠ 64 * r.2.2.1 + r.2.2.2 ∨ m ≠ r.2.1) :
    (handedOver p s r).sqOf q g m = s.sqOf q g m := by
  unfold handedOver
  dsimp only
  split
  · rfl
  · rw [putSq_sqOf_other _ h', putSq_sqOf_other _ h]

/-- Once the partner is ACTIVE a pair hands over no more. -/
theorem handedOver_of_active {p : Nat} {s : State} {r : Nat × Nat × Nat × Nat} (h : (s.sqOf r.2.2.1 r.2.2.2 r.2.1).active = true) :
    handedOver p s r = s := if_pos h

/-- The partner (q, g) of ring n of function f at port p goes on from the ring's NEXT in s, and the ring is ACTIVE no more. -/
def PartnerServes (s t : State) (p f n q g : Nat) : Prop :=
  (t.sqOf q g n).active = true ∧ (t.sqOf q g n).next = (s.sqOf p f n).next ∧ (t.sqOf p f n).active = false

theorem PartnerServes.congr {s s' t t' : State} {p f n q g : Nat} (h : PartnerServes s t p f n q g)
    (hs : s'.sqOf p f n = s.sqOf p f n) (hp : t'.sqOf p f n = t.sqOf p f n) (hq : t'.sqOf q g n = t.sqOf q g n) :
    PartnerServes s' t' p f n q g := by
  rwa [PartnerServes, hs, hp, hq]

theorem handedOver_serves {p f n q g : Nat} {s : State} (hinactive : (s.sqOf q g n).active = false) (hapart : 64 * q + g ≠ 64 * p + f) :
    PartnerServes s (handedOver p s (f, n, q, g)) p f n q g := by
  have hgoes : ¬(s.sqOf q g n).active = true := by simp [hinactive]
  simp only [PartnerServes, handedOver, if_neg hgoes, putSq_sqOf, putSq_sqOf_other _ (.inl hapart.symm), and_self]

/-- A takeover of port p from s to t: it waits for an acceptance in progress, or the partners serve and the surviving PF gets its interrupt. -/
def TakenOver (s t : State) (p : Nat) : Prop :=
  if s.acceptsOn p = true then t.journal.foBusy = true ∧ t.journal.foFrom = p
  else t.journal.foBusy = false ∧ t.journal.foPort = 1 - p ∧ t.msix = s.msix ++ [(1 - p, 0, 0)] ∧
    ∀ f n q g, (f, n, q, g) ∈ s.pairedRings p → (s.sqOf q g n).active = false → PartnerServes s t p f n q g

section Takeover

variable {s : State} {p : Nat} (hp : p < 2) (hpfn : ∀ p f n, (s.sqOf p f n).pfn < 64)
include hp hpfn

/-- The two rings of a pair are none of another pair's. -/
theorem pairedRings_apart {u : State} {f n q g : Nat} {r : Nat × Nat × Nat × Nat} (h : (f, n, q, g) ∈ s.pairedRings p)
    (hr : r ∈ s.pairedRings p) (hne : r ≠ (f, n, q, g)) :
    (handedOver p u r).sqOf p f n = u.sqOf p f n ∧ (handedOver p u r).sqOf q g n = u.sqOf q g n := by
  obtain ⟨f', n', q', g'⟩ := r
  obtain ⟨hf, hpartner⟩ := mem_pairedRings h
  obtain ⟨hf', hpartner'⟩ := mem_pairedRings hr
  obtain ⟨rfl, hg, hback⟩ := partner_pfn hpartner
  obtain ⟨rfl, hg', hback'⟩ := partner_pfn hpartner'
  have hlt : g < 64 := hg ▸ hpfn p f n
  have hlt' : g' < 64 := hg' ▸ hpfn p f' n'
  have hdiff : n = n' → f ≠ f' ∧ g ≠ g' := by
    rintro rfl
    refine ⟨?_, ?_⟩
    · rintro rfl
      exact hne (by rw [hg, hg'])
    · rintro rfl
      exact hne (by rw [hback, hback'])
  have hports : ∀ a b, a < 64 → b < 64 → 64 * p + a ≠ 64 * (1 - p) + b := by omega
  have happly : ∀ {a b : Nat}, (n = n' → a ≠ b) → ∀ k, 64 * k + a ≠ 64 * k + b ∨ n ≠ n' := fun hab k =>
    (em (n = n')).imp (fun hn => by have := hab hn; omega) id
  exact ⟨handedOver_sqOf_other (happly (fun hn => (hdiff hn).1) p) (.inl (hports f g' hf hlt')),
    handedOver_sqOf_other (.inl (hports f' g hf' hlt).symm) (happly (fun hn => (hdiff hn).2) (1 - p))⟩

/-- After the pairs of a port have handed over, the partner of each of its rings serves that was not ACTIVE. -/
theorem allHandedOver_serves {f n q g : Nat} (h : (f, n, q, g) ∈ s.pairedRings p) (hinactive : (s.sqOf q g n).active = false) :
    PartnerServes s (allHandedOver p (s.pairedRings p) s) p f n q g := by
  obtain ⟨before, after, hsplit, hfirst⟩ := List.eq_append_cons_of_mem h
  have hmem : ∀ r, r ∈ before ∨ r ∈ after → r ∈ s.pairedRings p := fun r hr => by
    rw [hsplit]
    simp only [List.mem_append, List.mem_cons]
    tauto
  obtain ⟨hf, hpartner⟩ := mem_pairedRings h
  obtain ⟨rfl, hg, -⟩ := partner_pfn hpartner
  have hlt : g < 64 := hg ▸ hpfn p f n
  have hkept : (allHandedOver p before s).sqOf p f n = s.sqOf p f n ∧ (allHandedOver p before s).sqOf (1 - p) g n = s.sqOf (1 - p) g n := by
    refine List.foldlRecOn (motive := fun u : State => u.sqOf p f n = s.sqOf p f n ∧ u.sqOf (1 - p) g n = s.sqOf (1 - p) g n) _ _
      ⟨rfl, rfl⟩ fun u hu r hr => ?_
    obtain ⟨hown, hpartnerKept⟩ := pairedRings_apart hp hpfn (u := u) h (hmem r (.inl hr)) fun he => hfirst (he ▸ hr)
    exact ⟨hown.trans hu.1, hpartnerKept.trans hu.2⟩
  obtain ⟨hown, hpartnerKept⟩ := hkept
  have hserves : PartnerServes s (handedOver p (allHandedOver p before s) (f, n, 1 - p, g)) p f n (1 - p) g :=
    (handedOver_serves (by rw [hpartnerKept, hinactive]) (by omega)).congr hown.symm rfl rfl
  have hall : allHandedOver p (s.pairedRings p) s =
      allHandedOver p after (handedOver p (allHandedOver p before s) (f, n, 1 - p, g)) := by
    rw [hsplit, allHandedOver, List.foldl_append, List.foldl_cons]
    rfl
  rw [hall]
  refine List.foldlRecOn (motive := fun u : State => PartnerServes s u p f n (1 - p) g) _ _ hserves fun u hu r hr => ?_
  by_cases hre : r = (f, n, 1 - p, g)
  · rw [hre, handedOver_of_active hu.1]
    exact hu
  · obtain ⟨hkept, hkept'⟩ := pairedRings_apart hp hpfn (u := u) h (hmem r (.inr hr)) hre
    exact hu.congr rfl hkept hkept'

theorem takeover_takenOver : TakenOver s (s.takeover p) p := by
  unfold TakenOver State.takeover
  split
  · exact ⟨rfl, rfl⟩
  · rw [moveRings_eq]
    refine ⟨rfl, rfl, ?_, fun f n q g h hinactive => ?_⟩
    · exact congrArg (· ++ _) ((allHandedOver_within p _ s).eq_msix rfl)
    · exact (allHandedOver_serves hp hpfn h hinactive).congr rfl rfl rfl

end Takeover

/-- The PF of the other port takes over the pairs of a port (R379). -/
theorem journalTakeover_takesOver {s : State} {port : Fin 2} {val : Word32} (htakes : s.takes .journal = true) (hgo : bit val.toNat 31 = true)
    (hfree : s.journal.foBusy = false) (hother : fld val.toNat 0 1 ≠ port.val) (hpairs : s.pairedRings (fld val.toNat 0 1) ≠ []) :
    exec (.journalTakeover port val) s = .next (s.takeover (fld val.toNat 0 1)) := by
  refine (congrArg Host.Outcome.next (ChainDrip.gate_takes htakes _)).trans ?_
  simp [State.takeoverPut, hgo, hfree, hother, hpairs]

/-- DOWN_MS after its link went down a port with pairs is taken over (R379). -/
theorem failoverTimeout_takesOver {s : State} {port : Fin 2} (hdown : (s.port port).up = false) (hms : (s.port port).downMs ≠ 0)
    (htimer : (s.port port).downTimer = true) (hfree : s.journal.foBusy = false) (hpairs : s.pairedRings port ≠ []) :
    exec (.failoverTimeout port) s = .next ((s.setPort port { s.port port with downTimer := false }).takeover port) := by
  show execFailoverTimeout port s = _
  simp [execFailoverTimeout, hdown, hms, htimer, hfree, hpairs]

theorem pcieLinkDown_startsTimer {s : State} {port : Fin 2} (hup : (s.port port).up = true) :
    exec (.pcieLinkDown port) s = .next (s.setPort port { s.port port with up := false, downTimer := true }) := by
  show execPcieLinkDown port s = _
  simp [execPcieLinkDown, hup]

/-! ## Queries (R385) -/

/-- The slot that a query of the ring that v names finds. -/
def queried (s : State) (v : Nat) : Option (Nat × JSlot) :=
  s.journal.slots.find? fun p => p.2.st != .free && p.2.port == fld v 24 1 && p.2.fn == fld v 16 6 && p.2.ring == fld v 0 4 &&
    p.2.seq == s.journal.qseq.toNat

/-- QRES after a query that found a slot with the record x, or none. -/
def queryWord : Option JSlot → Nat
  | some x => 3 * 2 ^ 62 + (x.st.num * 2 ^ 56 + (x.status.num * 2 ^ 48 + fld x.result.toNat 0 48))
  | none => 2 ^ 63

theorem jstate_num_lt (x : JState) : x.num < 2 ^ 4 := by cases x <;> decide

theorem code_num_lt (c : Code) : c.num < 2 ^ 8 := by cases c <;> decide

theorem fld_lt (v lo n : Nat) : fld v lo n < 2 ^ n := Nat.mod_lt _ (Nat.two_pow_pos n)

/-- FOUND, STATE, STATUS and RESULT of a slot side by side. -/
theorem queryWord_some (x : JSlot) :
    2 ^ 63 ||| 2 ^ 62 ||| x.st.num <<< 56 ||| x.status.num <<< 48 ||| fld x.result.toNat 0 48 = queryWord (some x) := by
  have hst := jstate_num_lt x.st
  have hstatus := code_num_lt x.status
  have hresult := fld_lt x.result.toNat 0 48
  rw [show 2 ^ 63 ||| 2 ^ 62 = 3 <<< 62 from rfl, Nat.or_assoc, Nat.or_assoc, EndToEnd.shiftLeft_or hresult,
    EndToEnd.shiftLeft_or (a := x.st.num) (by omega), EndToEnd.shiftLeft_or (by omega), queryWord]

theorem query_eq (s : State) (v : Nat) :
    s.query v = { s with journal := { s.journal with qres := BitVec.ofNat 64 (queryWord ((queried s v).map Prod.snd)) } } := by
  unfold State.query
  dsimp only
  split
  next m x hfound => rw [show queried s v = some (m, x) from hfound, Option.map_some, ← queryWord_some]
  next hnone => rw [show queried s v = none from hnone]; rfl

theorem journalQuery_answers {s : State} {val : Word32} (htakes : s.takes .journal = true) (hres : fld val.toNat 25 6 = 0)
    (hres' : fld val.toNat 22 2 = 0) (hres'' : fld val.toNat 4 12 = 0) (hgo : bit val.toNat 31 = true) (hfree : s.journal.qbusy = false) :
    exec (.journalQuery val) s =
      .next { s with journal := { s.journal with qres := BitVec.ofNat 64 (queryWord ((queried s val.toNat).map Prod.snd)) } } := by
  refine (congrArg Host.Outcome.next (ChainDrip.gate_takes htakes _)).trans (congrArg Host.Outcome.next ?_)
  have hput : s.qringPut val.toNat = s.query val.toNat := by simp [State.qringPut, hres, hres', hres'', hgo, hfree]
  rw [hput, query_eq]

/-- What the query's word says: DONE, whether a slot was found, and its STATE, STATUS and RESULT. -/
theorem queryWord_fields (hit : Option (Nat × JSlot)) :
    let w := BitVec.ofNat 64 (queryWord (hit.map Prod.snd))
    w.getLsbD 63 = true ∧ w.getLsbD 62 = hit.isSome ∧ ∀ m y, hit = some (m, y) →
      fld w.toNat 56 4 = y.st.num ∧ fld w.toNat 48 8 = y.status.num ∧ fld w.toNat 0 48 = fld y.result.toNat 0 48 := by
  cases hit with
  | none => exact ⟨by decide, by decide, fun _ _ h => (Option.some_ne_none _ h.symm).elim⟩
  | some r =>
    obtain ⟨m, y⟩ := r
    have hst := jstate_num_lt y.st
    have hstatus := code_num_lt y.status
    have hresult := fld_lt y.result.toNat 0 48
    have hword : queryWord (some y) < 2 ^ 64 := by
      simp only [queryWord]
      omega
    dsimp only [Option.map_some]
    refine ⟨?_, ?_, ?_⟩
    · rw [BitVec.getLsbD_ofNat, Nat.testBit_eq_decide_div_mod_eq, queryWord]
      simp
      omega
    · rw [BitVec.getLsbD_ofNat, Nat.testBit_eq_decide_div_mod_eq, queryWord]
      simp
      omega
    · rintro _ _ ⟨rfl, rfl⟩
      rw [BitVec.toNat_ofNat, Nat.mod_eq_of_lt hword, EndToEnd.fld_eq_div_mod (queryWord _), EndToEnd.fld_eq_div_mod (queryWord _),
        EndToEnd.fld_eq_div_mod (queryWord _), queryWord]
      omega

/-! ## The restart scan (R375, R376, R381) -/

/-- The restart scan has ended. -/
def restartDone (u : State) : State := { u with journal := { u.journal with restart := false } }

theorem restartDone_restart (u : State) : (restartDone u).journal.restart = false := rfl

theorem restartDone_slots (u : State) : (restartDone u).journal.slots = u.journal.slots := rfl

/-- The scan restores the rings, reads every slot, stops the rings that lost the completion due next, and ends. -/
theorem journalRestartScan_scans {s : State} (hrestart : s.journal.restart = true) (hup : s.outOfReset = true) :
    exec .journalRestartScan s =
      .next (restartDone (((s.journal.ringA.map Prod.fst).foldl State.ringRestore s).each 8192 State.scanSlot).lostStops) := by
  show execJournalRestartScan s = _
  simp only [execJournalRestartScan, hrestart, hup, Bool.not_true, Bool.false_eq_true, or_self, if_false, restartDone]

theorem applyMarks_slotJ (s : State) (tenant : Nat) (marks : List Word64) (n : Nat) :
    (marks.foldl (fun u m => u.applyMark tenant m) s).slotJ n = s.slotJ n :=
  slotJ_of_within (.foldl (fun u m => State.applyMark_within u tenant m) (.refl _ s)) rfl n

/-- Slot n has the entry of the record x and the state st. -/
def HasRecord (t : State) (n : Nat) (x : JSlot) (st : JState) : Prop := (t.slotJ n).entry = x.entry ∧ (t.slotJ n).st = st

theorem HasRecord.of_slotJ {t : State} {n : Nat} {x y : JSlot} (h : t.slotJ n = y) (hentry : y.entry = x.entry) : HasRecord t n x y.st :=
  ⟨by rw [h, hentry], by rw [h]⟩

section Restart

variable {s : State} {n : Nat} {x : JSlot}

/-- A command that had been dispatched is dispatched again from its record, which may become late (R374, R381). -/
theorem restartSlot_accepted (hst : x.st = .accepted) : HasRecord (s.restartSlot n x) n x x.st := by
  have hcounted : ∀ u : State, Within [.hdrs, .galleries] u (if x.disp = 0 then u else u.event .journal 6 1) := fun u =>
    .ite (.refl _ u) (.after (State.event_within _ _ _ _) rfl (.refl _ u))
  have hkept : ∀ {u v : State} {y : JSlot}, Within [.hdrs, .galleries] (u.putSlot n y) v → v.slotJ n = y := fun hv =>
    (slotJ_of_within hv rfl n).trans (putSlot_slotJ _ n _)
  simp only [State.restartSlot, hst]
  exact .of_slotJ (hkept (.ite (.after (State.lateRecord_within _ _) rfl (hcounted _)) (hcounted _))) rfl

/-- A command that had committed keeps its instants, and its spend marks are applied again. -/
theorem restartSlot_committed (hst : x.st = .committed) : HasRecord (s.restartSlot n x) n x x.st := by
  simp only [State.restartSlot, hst]
  exact hst ▸ .of_slotJ (by rw [applyMarks_slotJ, setGal_slotJ, setSlotJ_slotJ]) rfl

/-- A completion that was being posted is written again at its index, and its rings go on past it. -/
def writtenAgain (s : State) (x : JSlot) : State :=
  let served := s.servedAt x
  let q := s.cqOf served.1 served.2 x.cq
  let t := s.hostPut served.1 served.2 (q.base.toNat + 32 * x.idx) x.completion
  let t := if q.tail = x.idx then
      t.putCq served.1 served.2 x.cq { q with tail := ringNext q.tail q.size, phase := q.phase ^^ (q.tail + 1 == q.size) } else t
  t.putSq served.1 served.2 x.ring ((t.sqOf served.1 served.2 x.ring).posted (BitVec.ofNat 64 x.seq))

theorem writtenAgain_slotJ (n : Nat) : (writtenAgain s x).slotJ n = s.slotJ n := by
  unfold writtenAgain
  dsimp only
  rw [putSq_slotJ]
  split
  · rw [putCq_slotJ, slotJ_of_within (State.hostPut_within _ _ _ _ _) rfl]
  · rw [slotJ_of_within (State.hostPut_within _ _ _ _ _) rfl]

theorem restartSlot_posting (hst : x.st = .posting) : HasRecord (s.restartSlot n x) n x .posted := by
  have hposted : s.restartSlot n x = (writtenAgain (s.setSlotJ n x) x).slotPosted n := by simp only [State.restartSlot, hst, writtenAgain]
  have hslot : (s.restartSlot n x).slotJ n = { x with st := .posted } := by
    rw [hposted, slotPosted_slotJ, writtenAgain_slotJ, setSlotJ_slotJ]
  exact .of_slotJ hslot rfl

theorem restartSlot_posted (hst : x.st = .posted) : HasRecord (s.restartSlot n x) n x x.st := by
  refine .of_slotJ ?_ rfl
  simp only [State.restartSlot, hst]
  split
  · exact setSlotJ_slotJ s n x
  · exact setSlotJ_slotJ s n x

theorem restartSlot_free (hst : x.st = .free) : HasRecord (s.restartSlot n x) n x x.st := by
  simp only [State.restartSlot, hst]
  exact hst ▸ .of_slotJ (setSlotJ_slotJ s n x) rfl

/-- A slot that the scan or a resolution has read has its entry and state, and is POSTED where its completion was being posted. -/
theorem restartSlot_record : HasRecord (s.restartSlot n x) n x (if x.st = .posting then .posted else x.st) := by
  by_cases hposting : x.st = .posting
  · rw [if_pos hposting]
    exact restartSlot_posting hposting
  · rw [if_neg hposting]
    cases hst : x.st with
    | free => exact hst ▸ restartSlot_free hst
    | accepted => exact hst ▸ restartSlot_accepted hst
    | committed => exact hst ▸ restartSlot_committed hst
    | posting => exact absurd hst hposting
    | posted => exact hst ▸ restartSlot_posted hst

end Restart

theorem scanSlot_of_ok {s s1 : State} {n : Nat} {x : JSlot} (h : s.readSlot n = (s1, .ok x)) : s.scanSlot n = s1.restartSlot n x := by
  simp only [State.scanSlot, h]

/-- A slot that neither copy keeps is free (R417). -/
theorem scanSlot_of_lost {s s1 : State} {n : Nat} (h : s.readSlot n = (s1, .lost)) : s.scanSlot n = s1.setSlotJ n {} := by
  simp only [State.scanSlot, h]

/-! ## Items whose copies differ (R428, R429) -/

/-- A slot's item has its number, a ring's its place in the ring table. -/
def itemOf (ring : Bool) (item : Nat) : Nat := if ring then 8192 + item else item

/-- Item i of the state t is frozen no more, and counts as resolved. -/
def unfrozen (t : State) (i : Nat) : State :=
  { t with journal := { t.journal with frozen := t.journal.frozen.filter fun k => k != i, resolved := t.journal.resolved ++ [i] } }

section Resolve

variable {s : State} {port : Fin 2} {ring : Bool} {item : Fin 8192} (htakes : s.takes (.mgmt (ctlOfPort port)) = true)
  (hfrozen : s.journal.frozen.contains (itemOf ring item) = true)
include htakes hfrozen

/-- A resolution that its page takes acts on the item, which is frozen no more. -/
theorem gate_resolveItem (f : State → Nat → State) :
    (s.gate (.mgmt (ctlOfPort port)) true fun u => u.resolveItem port ring item f) =
      (unfrozen (f s (itemOf ring item)) (itemOf ring item)).haltFrozen s.heldEngines := by
  have h : ¬(!s.journal.frozen.contains (itemOf ring item)) = true := by rw [hfrozen]; decide
  exact (ChainDrip.gate_takes htakes _).trans (if_neg h)

theorem resolveDiscard_discards : exec (.resolveDiscard port ring item) s =
    .next ((unfrozen (s.discardItem (itemOf ring item)) (itemOf ring item)).haltFrozen s.heldEngines) :=
  congrArg Host.Outcome.next (gate_resolveItem htakes hfrozen fun s i => s.discardItem i)

/-- Each of the three resolutions acts on the item first. -/
theorem resolve_unfreezes {c : Instr}
    (hc : c ∈ [Instr.resolveKeepA port ring item, Instr.resolveKeepB port ring item, Instr.resolveDiscard port ring item]) :
    ∃ u, exec c s = .next ((unfrozen u (itemOf ring item)).haltFrozen s.heldEngines) := by
  simp only [List.mem_cons, List.not_mem_nil, or_false] at hc
  rcases hc with rfl | rfl | rfl
  · exact ⟨_, congrArg Host.Outcome.next (gate_resolveItem htakes hfrozen fun s i => s.keepCopy false i)⟩
  · exact ⟨_, congrArg Host.Outcome.next (gate_resolveItem htakes hfrozen fun s i => s.keepCopy true i)⟩
  · exact ⟨_, resolveDiscard_discards htakes hfrozen⟩

end Resolve

theorem unfrozen_haltFrozen_journal (u : State) (i : Nat) (was : List Nat) :
    (((unfrozen u i).haltFrozen was).journal.frozen.contains i = false) ∧ i ∈ ((unfrozen u i).haltFrozen was).journal.resolved := by
  rw [(State.haltFrozen_within _ _).eq_journal rfl]
  simp [unfrozen]

theorem unfrozen_haltFrozen_slotJ (u : State) (i : Nat) (was : List Nat) (n : Nat) :
    ((unfrozen u i).haltFrozen was).slotJ n = u.slotJ n :=
  slotJ_of_within (State.haltFrozen_within _ _) rfl n

theorem unfrozen_haltFrozen_sqOf (u : State) (i : Nat) (was : List Nat) (p f n : Nat) :
    ((unfrozen u i).haltFrozen was).sqOf p f n = u.sqOf p f n :=
  sqOf_of_within (State.haltFrozen_within _ _) rfl p f n

/-- Discarding a slot whose command has not been posted commits it with ABORTED. -/
theorem discardItem_aborts {s : State} {i : Nat} (hi : i < 8192) (hposted : (s.slotJ i).st ≠ .posted) (hfree : (s.slotJ i).st ≠ .free) :
    ((s.discardItem i).slotJ i).st = .committed ∧ ((s.discardItem i).slotJ i).status = .aborted := by
  have habort : s.discardItem i = s.abortSlot i := by
    rw [State.discardItem, if_pos hi]
    cases hst : (s.slotJ i).st with
    | posted => exact absurd hst hposted
    | free => exact absurd hst hfree
    | accepted | committed | posting => rfl
  rw [habort, State.abortSlot]
  rw [drawn_slotJ, commitSlot_slotJ]
  exact ⟨rfl, rfl⟩

/-- Discarding a submission ring disables it. -/
theorem discardItem_disables {s : State} {k : Nat} (hk : k % 32 < 16) :
    ((s.discardItem (8192 + k)).sqOf (k / 32 / 64) (k / 32 % 64) (k % 16)).en = false := by
  have hput : s.discardItem (8192 + k) =
      s.putSq (k / 32 / 64) (k / 32 % 64) (k % 16) { s.sqOf (k / 32 / 64) (k / 32 % 64) (k % 16) with en := false } := by
    rw [State.discardItem, if_neg (by omega), Nat.add_sub_cancel_left]
    exact if_pos hk
  rw [hput, putSq_sqOf]

/-- Settles O25: the pairs of a port are apart, so that each hands over by itself; a query is one word; what the scan has read stays in its
slot; a resolution leaves its item out of those frozen. -/
theorem journalAndFrozenItems : Obligations.JournalAndFrozenItems := by
  unfold Obligations.JournalAndFrozenItems
  refine ⟨?controls, ?scan, ?items⟩
  case controls =>
    intro port val s v
    refine ⟨fun htakes hset hoff hbases => ⟨_, journalEnable_applies htakes port val, journalCtl_enables hset hoff hbases⟩,
      fun htakes hclear => ?disable, fun hpfn => ⟨fun htakes hgo hfree hother hpairs => ?takeover, fun hdown hms htimer hfree hpairs => ?failover⟩,
      pcieLinkDown_startsTimer, fun htakes hr hr' hr'' hgo hfree => ⟨_, journalQuery_answers htakes hr hr' hr'' hgo hfree, ?query⟩⟩
    case disable => rw [journalEnable_applies htakes, journalCtl_disables hclear]
    case query => exact queryWord_fields (queried s v)
    case takeover =>
      exact ⟨_, journalTakeover_takesOver htakes hgo hfree hother hpairs, takeover_takenOver (fld_lt val.toNat 0 1) hpfn⟩
    case failover =>
      refine ⟨_, failoverTimeout_takesOver hdown hms htimer hfree hpairs, ?_,
        takeover_takenOver (s := s.setPort port { s.port port with downTimer := false }) port.isLt hpfn⟩
      rw [State.port, (State.takeover_within _ _).eq_ports rfl]
      exact congrArg Port.downTimer (setPort_port s port _)
  case scan =>
    refine fun s => ⟨fun hrestart hup => ⟨_, journalRestartScan_scans hrestart hup, ?_⟩,
      fun n hn => ⟨fun s1 x hread => ?_, fun s1 hread => ?_⟩⟩
    · exact ⟨restartDone_restart _, restartDone_slots _⟩
    · rw [scanSlot_of_ok hread]
      exact restartSlot_record
    · rw [scanSlot_of_lost hread, setSlotJ_slotJ]
  case items =>
    intro port ring item s i htakes hfrozen
    refine ⟨fun c hc => ?_, fun hslot hposted hfree => ?_, fun hring hsub => ?_⟩
    · obtain ⟨u, hexec⟩ := resolve_unfreezes htakes hfrozen hc
      exact ⟨_, hexec, unfrozen_haltFrozen_journal u _ _⟩
    · subst hslot
      refine ⟨_, resolveDiscard_discards htakes hfrozen, ?_⟩
      rw [unfrozen_haltFrozen_slotJ]
      exact discardItem_aborts item.isLt hposted hfree
    · subst hring
      refine ⟨_, resolveDiscard_discards htakes hfrozen, ?_⟩
      rw [unfrozen_haltFrozen_sqOf]
      exact discardItem_disables hsub

end Sys2Proof.JournalControls

/-! The Geode's mailboxes: a request that meets no refusal, and its answer (R442; O45, O46). -/

namespace Sys2Proof.Mailboxes

open Sys2Proof Sys2Proof.Machine Sys2Proof.Laws

/-- A request that is ready gets its own meaning. -/
theorem request_ready {s : State} {r : MReq} {p : Fin 2} (h : ReqReady s r p) (opc : Nat) (side recov : Bool) (k : State → State) :
    s.request r opc side recov k = k s := by
  obtain ⟨hup, hvia, hserves, hfree, hreq, hpayload, hver, hunlock, hfrozen⟩ := h
  simp only [State.request, hup, hvia, hserves, hfree, Nat.not_lt.2 hreq, Nat.not_lt.2 hpayload, hver, hunlock, hfrozen, Bool.not_true,
    Bool.false_eq_true, Option.isSome_none, ne_eq, not_true_eq_false, false_and, or_self, if_false]

theorem respBytes_length (mver : Byte) (opc : Nat) (code : Code) (tag : Word64) (payload : Bytes) :
    (respBytes mver opc code tag payload).length = 16 + payload.length := by
  simp [respBytes, EndToEnd.leBytes_length]
  omega

/-- The Geode of t differs from that of s in its mailboxes alone. -/
def OnlyMailboxes (s t : State) : Prop := ∃ m, t.geode = { s.geode with mbox := m }

section Respond

variable {s u : State} {r : MReq} {p : Fin 2} {opc : Nat} {code : Code} {payload : Bytes}

/-- An answer leaves of the Geode all but the mailbox. -/
theorem respond_onlyMailboxes (hvia : r.via = .mbox p) (mver : Byte) : OnlyMailboxes u (u.respond r mver opc code payload) := by
  simp only [State.respond, hvia]
  exact ⟨_, (State.raise_within _ _ _).eq_geode rfl⟩

/-- The bytes bs stand at address a of the host at port p, whose mailbox becomes m, and the mailbox's interrupt is raised. -/
def delivered (u : State) (p : Fin 2) (a : Word64) (bs : Bytes) (m : Mbox) : State :=
  ((u.hostPut p 0 a.toNat bs).setMbox p m).raise .geode p

theorem delivered_hostOut (a : Word64) {bs : Bytes} {n : Nat} (hn : bs.length = n) (m : Mbox) :
    memRun (delivered u p a bs m).hostOut 0 (2 ^ 64 * p + a.toNat) n = bs := by
  have haddr : 2 ^ 64 * p.val + a.toNat = 2 ^ 64 * p + a.toNat % 2 ^ 64 := by rw [Nat.mod_eq_of_lt a.isLt]
  rw [delivered, (State.raise_within _ _ _).eq_hostOut rfl, haddr, ← hn]
  exact memRun_memPut _ _ _ _

theorem delivered_mbox (a : Word64) (bs : Bytes) (m : Mbox) : (delivered u p a bs m).mbox p = m := by
  rw [delivered, State.mbox, (State.raise_within _ _ _).eq_geode rfl]
  exact tget_tset_self _ _ _ _

theorem delivered_irq (a : Word64) (bs : Bytes) (m : Mbox) : ((delivered u p a bs m).hdr .geode).irqSts.getLsbD p = true := by
  rw [delivered, State.raise, RegisterWrites.putHdr_hdr]
  exact ChainDrip.getLsbD_or_oneHot (by omega) _

theorem respond_eq_delivered (hvia : r.via = .mbox p) (hmbox : u.mbox p = s.mbox p) :
    let big := decide ((s.mbox p).rspMax.toNat < 16 + payload.length)
    let c := if big then Code.badCommand else code
    let b := if big then [] else payload
    u.respond r 1 opc code payload = delivered u p (s.mbox p).rspAddr (respBytes 1 opc c r.tag b)
      { s.mbox p with busy := false, code := c.byte, rspLen := 16 + b.length } := by
  simp only [State.respond, hvia, hmbox, respBytes_length]
  by_cases hbig : (s.mbox p).rspMax.toNat < 16 + payload.length
  · simp only [hbig, decide_true, if_true, respBytes_length, delivered]
  · simp only [hbig, decide_false, Bool.false_eq_true, if_false, respBytes_length, delivered]

/-- A response through a mailbox stands at RSP_ADDR and in STS and raises the mailbox's interrupt. -/
theorem respond_answered (hvia : r.via = .mbox p) (hmbox : u.mbox p = s.mbox p) :
    Answered s (u.respond r 1 opc code payload) r p opc code payload := by
  rw [respond_eq_delivered hvia hmbox]
  refine ⟨delivered_hostOut _ (respBytes_length _ _ _ _ _) _, ?_, ?_, ?_, delivered_irq _ _ _⟩
  all_goals rw [delivered_mbox]

theorem answer_answered (hready : ReqReady s r p) (hmbox : u.mbox p = s.mbox p) :
    Answered s (u.answer r opc code) r p opc code [] := by
  obtain ⟨-, hvia, -, -, -, -, hver, -, -⟩ := hready
  rw [State.answer, hver]
  exact respond_answered hvia hmbox

end Respond

/-- What an answer through a mailbox keeps. -/
theorem OnlyMailboxes.ctx {s t : State} (h : OnlyMailboxes s t) (n : Nat) : t.ctx n = s.ctx n := by
  obtain ⟨m, h⟩ := h
  rw [State.ctx, h, State.ctx]

theorem answer_onlyMailboxes {u : State} {r : MReq} {p : Fin 2} (hvia : r.via = .mbox p) (opc : Nat) (code : Code) :
    OnlyMailboxes u (u.answer r opc code) := respond_onlyMailboxes hvia r.mver

theorem ofLe_lt (b : Bytes) : ofLe b < 256 ^ b.length := by
  induction b with
  | nil => simp [ofLe]
  | cons x b ih =>
    have hx : x.toNat < 256 := x.isLt
    have hcons : ofLe (x :: b) = x.toNat + 256 * ofLe b := rfl
    rw [hcons, List.length_cons, Nat.pow_succ']
    omega

/-- A part of n bytes of a payload is a number below 256 to the power n. -/
theorem pnum_lt (r : MReq) (o n : Nat) : pnum r o n < 256 ^ n :=
  (ofLe_lt _).trans_le (Nat.pow_le_pow_right (by decide) (List.length_take_le n _))

theorem toNat_ofNat_pnum (r : MReq) (o : Nat) : (BitVec.ofNat 64 (pnum r o 8)).toNat = pnum r o 8 := by
  exact (BitVec.toNat_ofNat _ _).trans (Nat.mod_eq_of_lt (pnum_lt r o 8))

theorem mbox_of_table {s t : State} (h : t.geode.mbox = s.geode.mbox) (p : Nat) : t.mbox p = s.mbox p := by rw [State.mbox, h, State.mbox]

theorem mbox_of_geode {s t : State} (h : t.geode = s.geode) (p : Nat) : t.mbox p = s.mbox p := mbox_of_table (congrArg Geode.mbox h) p

theorem ctx_of_geode {s t : State} (h : t.geode = s.geode) (n : Nat) : t.ctx n = s.ctx n := by rw [State.ctx, h, State.ctx]

theorem setCtx_mbox (s : State) (n : Nat) (x : Ctx) (p : Nat) : (s.setCtx n x).mbox p = s.mbox p := rfl

/-- A loop over the units below n whose step establishes what P says of its own unit, and keeps it of every other, establishes it of each. -/
theorem each_establishes {P : Nat → State → Prop} {f : State → Nat → State} (hdoes : ∀ u k, P k (f u k))
    (hkeeps : ∀ u j k, j ≠ k → P k u → P k (f u j)) (s : State) {n k : Nat} (hk : k < n) : P k (s.each n f) := by
  obtain ⟨before, after, hsplit⟩ := List.append_of_mem (List.mem_range.2 hk)
  rw [State.each, hsplit, List.foldl_append, List.foldl_cons]
  refine List.foldlRecOn (motive := P k) after f (hdoes _ k) fun u hu j _ => ?_
  by_cases hj : j = k
  · exact hj ▸ hdoes u j
  · exact hkeeps u j k hj hu

end Sys2Proof.Mailboxes

/-! Sessions and tenant contexts (R383, R444-R449; O45). -/

namespace Sys2Proof.SessionsContexts

open Sys2Proof Sys2Proof.Machine Sys2Proof.Laws Sys2Proof.Mailboxes

/-! ## Sessions (R445-R448) -/

/-- The session that an OPEN asks for: its SID follows the tenant's last, its context fields are the request's. -/
structure OpenedBy (s : State) (r : MReq) (ses : Session) : Prop where
  sid : ses.sid = ((s.ctx (pnum r 0 2)).sid + 1) % 2 ^ 16
  ptRoot : ses.ptRoot = BitVec.ofNat 64 (pnum r 8 8)
  rseed : ses.rseed = BitVec.ofNat 64 (pnum r 0x10 8)

/-- An OPEN gives the tenant's context a session and is answered with the session's own response and a signature of it. -/
theorem openSession_opens (s : State) (r : MReq) : ∃ (u : State) (ses : Session) (sig : Bytes),
    s.openSession r = u.respond r 1 0x10 .ok (ses.openRsp ++ sig) ∧ OpenedBy s r ses ∧
      u.ctx (pnum r 0 2) = { s.ctx (pnum r 0 2) with sid := ses.sid, ses := some ses } ∧ ∀ p, u.mbox p = s.mbox p :=
  ⟨_, { sid := _, ptRoot := _, rseed := _, owner := _, ownerN := _, openRsp := _, dk := _, dg := _ }, _, rfl, ⟨rfl, rfl, rfl⟩,
    setCtx_ctx _ _ _, fun _ => rfl⟩

/-- A FINISH of the open session ses that is in form, while the long-integer engine is free and the epoch has a holder. -/
structure FinishReady (s : State) (r : MReq) (ses : Session) : Prop where
  length : r.payload.length = 2256
  tenant : pnum r 0 2 < 1024
  zeros : zeroAt r.payload 4 4 = true
  zeros' : zeroAt r.payload 0x689 7 = true
  zeros'' : zeroAt r.payload 0x6CC 4 = true
  session : (s.ctx (pnum r 0 2)).ses = some ses
  sid : ses.sid = pnum r 2 2
  key : ses.owner = true ∨ zeroAt r.payload 0x6D0 512 = true
  lie : s.lie.busy = false
  holder : s.geode.holder.isSome = true

/-- The context that a FINISH makes LIVE: the session's root and seed, with CS and T that it derived. -/
def liveCtx (c : Ctx) (ses : Session) (tn : Nat) (v : Bytes × Bytes × Bytes) : Ctx :=
  { c with st := .live, ptRoot := ses.ptRoot, rseed := ses.rseed, ownerFp := if ses.owner then fp64 ses.ownerN else 0,
           t := v.2.2, cs := v.1, nk := noiseKey v.1 tn, ses := none }

section Requests

variable {s : State} {r : MReq} {p : Fin 2} (hready : ReqReady s r p)
include hready

/-- An OPEN that passes its checks opens the session. -/
theorem sessionOpen_opens (hform : openOk r = true) (hfree : (s.ctx (pnum r 0 2)).st = .free)
    (hroom : (s.ctx (pnum r 0 2)).ses.isSome = true ∨ s.sessions < 32) (hlie : s.lie.busy = false) :
    exec (.sessionOpen r) s = .next (s.openSession r) := by
  refine congrArg Host.Outcome.next ((request_ready hready _ _ _ _).trans ?_)
  have hform' : ¬((!openOk r) = true ∨ (s.ctx (pnum r 0 2)).st ≠ .free) := by simp [hform, hfree]
  have hroom' : ¬((s.ctx (pnum r 0 2)).ses.isNone = true ∧ 32 ≤ s.sessions) := by
    rcases hroom with hses | hlt
    · simp [Option.isSome_iff_ne_none.1 hses]
    · omega
  simp only [if_neg hform', if_neg hroom', hlie, Bool.false_eq_true, if_false]

/-- A FINISH that verifies makes the context LIVE, one that does not discards the session. -/
theorem sessionFinish_finishes {ses : Session} (h : FinishReady s r ses) :
    let tn := pnum r 0 2
    let c := s.ctx tn
    (finishOpen ses r.payload = none →
      exec (.sessionFinish r) s = .next (((s.setCtx tn { c with ses := none }).finishLie ses r.payload).answer r 0x11 .permission)) ∧
    ∀ v, finishOpen ses r.payload = some v →
      exec (.sessionFinish r) s = .next (((s.setCtx tn (liveCtx c ses tn v)).finishLie ses r.payload).respond r 1 0x11 .ok
        (leBytes 2 tn ++ leBytes 2 ses.sid ++ v.2.1)) := by
  have hform : ¬(r.payload.length ≠ 2256 ∨ 1024 ≤ pnum r 0 2 ∨ (!zeroAt r.payload 4 4) = true ∨ (!zeroAt r.payload 0x689 7) = true ∨
      (!zeroAt r.payload 0x6CC 4) = true) := by simp [h.length, h.tenant, h.zeros, h.zeros', h.zeros'']
  have hses : ¬(ses.sid ≠ pnum r 2 2 ∨ (!ses.owner) = true ∧ (!zeroAt r.payload 0x6D0 512) = true) := by
    rcases h.key with hkey | hkey
    · simp [h.sid, hkey]
    · simp [h.sid, hkey]
  have hgo : ¬(s.lie.busy = true ∨ s.geode.holder.isNone = true) := by simp [h.lie, Option.isSome_iff_ne_none.1 h.holder]
  refine ⟨fun hfin => congrArg Host.Outcome.next ((request_ready hready _ _ _ _).trans ?_),
    fun v hfin => congrArg Host.Outcome.next ((request_ready hready _ _ _ _).trans ?_)⟩
  · simp only [if_neg hform, h.session, if_neg hses, if_neg hgo, hfin]
  · simp only [if_neg hform, h.session, if_neg hses, if_neg hgo, hfin, liveCtx]

end Requests

/-! ## Contexts (R444, R449) -/

/-- The context is DESTROYING and its session discarded. -/
def destroying (s : State) (tn : Nat) : State := s.setCtx tn { s.ctx tn with st := .destroying, ses := none }

/-- The destruction of context tn waits, and its request is in progress. -/
def destructionWaits (s : State) (tn : Nat) (r : MReq) : State :=
  let t := s.holdReq r
  { t with geode := { t.geode with destroying := s.geode.destroying ++ [(tn, r)] } }

theorem destructionWaits_holds {s : State} {tn : Nat} {r : MReq} {p : Fin 2} (hvia : r.via = .mbox p) :
    (destructionWaits s tn r).ctx tn = s.ctx tn ∧ ((destructionWaits s tn r).mbox p).busy = true ∧ (destructionWaits s tn r).mem = s.mem := by
  simp only [destructionWaits, State.holdReq, hvia]
  exact ⟨rfl, congrArg Mbox.busy (tget_tset_self _ _ _ _), rfl⟩

section Requests

variable {s : State} {r : MReq} {p : Fin 2} (hready : ReqReady s r p)
include hready

/-- CTX_SET changes of a LIVE context what its mask names. -/
theorem ctxSet_sets (hlen : r.payload.length = 24) (htn : pnum r 0 2 < 1024) (hmask : pnum r 2 2 < 4) (hzeros : zeroAt r.payload 4 4 = true)
    (hlive : (s.ctx (pnum r 0 2)).st = .live) (hroot : bit (pnum r 2 2) 0 = true → ptRootOk (pnum r 8 8) = true)
    (hholder : s.geode.holder.isSome = true) :
    let c := s.ctx (pnum r 0 2)
    exec (.ctxSet r) s = .next ((s.setCtx (pnum r 0 2) { c with
      ptRoot := if bit (pnum r 2 2) 0 then BitVec.ofNat 64 (pnum r 8 8) else c.ptRoot,
      rseed := if bit (pnum r 2 2) 1 then BitVec.ofNat 64 (pnum r 0x10 8) else c.rseed }).answer r 0x12 .ok) := by
  refine congrArg Host.Outcome.next ((request_ready hready _ _ _ _).trans ?_)
  have hform : ¬(r.payload.length ≠ 24 ∨ 1024 ≤ pnum r 0 2 ∨ 4 ≤ pnum r 2 2 ∨ (!zeroAt r.payload 4 4) = true ∨
      (s.ctx (pnum r 0 2)).st ≠ .live ∨ bit (pnum r 2 2) 0 = true ∧ (!ptRootOk (pnum r 8 8)) = true) := by
    simpa [hlen, htn, hmask, hzeros, hlive] using hroot
  simp only [if_neg hform, Option.isNone_eq_false_iff.2 hholder, Bool.false_eq_true, if_false]

/-- CTX_DESTROY acts at once for a quiet tenant, and waits otherwise. -/
theorem ctxDestroy_eq (hlen : r.payload.length = 2) (htn : pnum r 0 2 < 1024) (hholder : s.geode.holder.isSome = true) :
    let u := destroying s (pnum r 0 2)
    exec (.ctxDestroy r) s =
      .next (if s.tenantQuiet (pnum r 0 2) then u.destroyCtx (pnum r 0 2) r else destructionWaits u (pnum r 0 2) r) := by
  refine congrArg Host.Outcome.next ((request_ready hready _ _ _ _).trans ?_)
  have hform : ¬(r.payload.length ≠ 2 ∨ 1024 ≤ pnum r 0 2) := by simp [hlen, htn]
  simp only [if_neg hform, Option.isNone_eq_false_iff.2 hholder, Bool.false_eq_true, if_false]
  rfl

end Requests

/-- No scratchpad block of gallery g has the tag of tenant tn. -/
def Untagged (tn g : Nat) (s : State) : Prop := ∀ b, b ∈ (s.gal g).tags → b.2 ≠ tn + 1

theorem Untagged.of_tags {tn g : Nat} {s t : State} (h : Untagged tn g s) (ht : (t.gal g).tags = (s.gal g).tags) : Untagged tn g t := fun b hb =>
  h b (ht ▸ hb)

theorem Untagged.of_within {tn g : Nat} {s t : State} {ps : List Part} (h : Untagged tn g s) (ht : Within ps s t)
    (hps : ps.contains .galleries = false) : Untagged tn g t :=
  h.of_tags (by rw [State.gal, ht.eq_galleries hps, State.gal])

/-- After its zero fill no block of any gallery has the tenant's tag. -/
theorem zeroTagged_untagged (s : State) (tn : Nat) {g : Nat} (hg : g < 16) : Untagged tn g (s.zeroTagged tn) := by
  refine each_establishes (P := Untagged tn) (fun u k b hb => ?_) (fun u j k hj hu => ?_) s hg
  · rw [setGal_gal] at hb
    simpa using (List.mem_filter.1 hb).2
  · have hzero : Within [.mem] u (((((u.gal j).tags.filter fun b => b.2 == tn + 1).map Prod.fst).foldl (fun v b =>
        v.zeroRun (spDpa (4 * j + b / 2048) (b % 2048 * 4096)) 4096) u)) :=
      .foldl (fun v b => State.zeroRun_within v _ _) (.refl _ u)
    exact (hu.of_within hzero rfl).of_tags (congrArg Gallery.tags (setGal_gal_other _ _ _ (Ne.symm hj)))

/-- Dropping a tenant's translations keeps the tags. -/
theorem dropTranslations_untagged {s : State} {tn g : Nat} (h : Untagged tn g s) :
    Untagged tn g (s.each 16 fun u k => u.setGal k { u.gal k with tlb := (u.gal k).tlb.filter fun e => e.1 != tn }) := by
  refine List.foldlRecOn (motive := Untagged tn g) _ _ h fun u hu k _ => hu.of_tags ?_
  by_cases hk : g = k
  · rw [hk, setGal_gal]
  · rw [setGal_gal_other _ _ _ hk]

/-- The context x after its destruction. -/
def destroyed (x : Ctx) : Ctx := { x with cs := [], nk := [], t := [], st := .free }

/-- A destruction takes the context's keys, leaves no block of the tenant, and is answered. -/
theorem destroyCtx_destroys (s : State) (tn : Nat) (r : MReq) : ∃ u : State,
    s.destroyCtx tn r = (u.setCtx tn (destroyed (u.ctx tn))).answer r 0x13 .ok ∧ u.geode = s.geode ∧ ∀ g, g < 16 → Untagged tn g u := by
  have hhelpers : ∀ u : State, Within [.mem] u (u.each 32 fun v h => if (v.helper h).tenant = tn then v.zeroRun (hpDpa h 0) 0x80000 else v) :=
    fun u => .each (fun v h => .ite (State.zeroRun_within v _ _) (.refl _ v)) (.refl _ u)
  refine ⟨_, rfl, ?_, fun g hg => dropTranslations_untagged ((zeroTagged_untagged _ tn hg).of_within (hhelpers _) rfl)⟩
  have hwindows : Within [.mem, .dev, .drips, .galleries] s
      { s with dev := { s.dev with wins := s.dev.wins.filter fun p => !(p.2.any fun w : Win => w.tenant == tn) } } :=
    .set_dev (fun h => ⟨h.hops, h.tries, h.throt, h.pwr, h.pwrNew, h.cool⟩) rfl (.refl _ s)
  refine Within.eq_geode (ps := [.mem, .dev, .drips, .galleries]) (.each (fun u g => (State.setGal_within u g _).mono (by decide)) ?_) rfl
  exact .after (hhelpers _) rfl (.after (State.zeroTagged_within _ tn) rfl (.ite hwindows (.after (State.zeroNk_within _ _) rfl hwindows)))

/-- Settles O45: each request that is ready comes down to one write of its tenant's context and one answer, which keeps the contexts. -/
theorem sessionsAndContexts : Obligations.SessionsAndContexts := by
  unfold Obligations.SessionsAndContexts
  intro p r s tn c
  refine ⟨fun k => rfl, fun hready => ?_⟩
  obtain ⟨-, hvia, -⟩ := id hready
  refine ⟨fun hform hfree hroom hlie => ?opens, fun ses hlen htn hz hz' hz'' hses hsid hkey hlie hholder => ?finishes,
    fun mask hmask hlen htn hlt hz hlive hroot hholder => ?sets, fun hlen htn hholder => ⟨fun hquiet => ?destroys, fun hnoisy => ?waits⟩⟩
  case opens =>
    obtain ⟨u, ses, sig, hopen, ⟨hsid, hroot, hseed⟩, hctx, hmbox⟩ := openSession_opens s r
    have hkept := (respond_onlyMailboxes (u := u) (opc := 0x10) (code := .ok) (payload := ses.openRsp ++ sig) hvia 1).ctx tn
    refine ⟨_, ses, sig, (sessionOpen_opens hready hform hfree hroom hlie).trans (congrArg _ hopen), ?_⟩
    rw [hkept, hctx]
    exact ⟨rfl, hfree, hsid, hsid, hroot ▸ toNat_ofNat_pnum r 8, hseed ▸ toNat_ofNat_pnum r 0x10, respond_answered hvia (hmbox p)⟩
  case finishes =>
    have hfinish : FinishReady s r ses := ⟨hlen, htn, hz, hz', hz'', hses, hsid, hkey, hlie, hholder⟩
    obtain ⟨hrefused, hlive⟩ := sessionFinish_finishes hready hfinish
    have hkept : ∀ x : Ctx, ((s.setCtx tn x).finishLie ses r.payload).geode = (s.setCtx tn x).geode := fun x =>
      (State.finishLie_within _ _ _).eq_geode rfl
    have hmbox : ∀ x : Ctx, ((s.setCtx tn x).finishLie ses r.payload).mbox p = s.mbox p := fun x => mbox_of_geode (hkept x) p
    have hctx : ∀ x : Ctx, ((s.setCtx tn x).finishLie ses r.payload).ctx tn = x := fun x =>
      (ctx_of_geode (hkept x) tn).trans (setCtx_ctx _ _ _)
    cases hfin : finishOpen ses r.payload with
    | none =>
      refine ⟨_, hrefused hfin, ?_⟩
      rw [(answer_onlyMailboxes hvia _ _).ctx, hctx]
      exact ⟨rfl, rfl, answer_answered hready (hmbox _)⟩
    | some v =>
      refine ⟨_, hlive v hfin, ?_⟩
      rw [(respond_onlyMailboxes hvia 1).ctx, hctx]
      exact ⟨rfl, rfl, rfl, rfl, rfl, rfl, rfl, respond_answered hvia (hmbox _)⟩
  case sets =>
    subst hmask
    refine ⟨_, ctxSet_sets hready hlen htn hlt hz hlive hroot hholder, answer_answered hready rfl, ?_⟩
    rw [(answer_onlyMailboxes hvia _ _).ctx, setCtx_ctx]
  case destroys =>
    obtain ⟨u, hdestroy, hgeode, huntagged⟩ := destroyCtx_destroys (destroying s tn) tn r
    have hctx : u.ctx tn = { c with st := .destroying, ses := none } := (ctx_of_geode hgeode tn).trans (setCtx_ctx _ _ _)
    refine ⟨_, (ctxDestroy_eq hready hlen htn hholder).trans (congrArg _ ((if_pos hquiet).trans hdestroy)), ?_⟩
    rw [(answer_onlyMailboxes hvia _ _).ctx, setCtx_ctx, hctx]
    refine ⟨rfl, rfl, rfl, rfl, answer_answered hready (mbox_of_geode hgeode p), fun g hg => ?_⟩
    exact ((huntagged g hg).of_within (State.setCtx_within _ _ _) rfl).of_within (State.answer_within _ _ _ _) rfl
  case waits =>
    refine ⟨_, (ctxDestroy_eq hready hlen htn hholder).trans (congrArg _ (if_neg (ne_true_of_eq_false hnoisy))), ?_⟩
    obtain ⟨hctx, hbusy, hmem⟩ := destructionWaits_holds (s := destroying s tn) (tn := tn) hvia
    rw [hctx, hmem]
    refine ⟨?_, ?_, hbusy, rfl⟩
    · exact congrArg Ctx.st (setCtx_ctx s tn _)
    · exact congrArg Ctx.ses (setCtx_ctx s tn _)

end Sys2Proof.SessionsContexts

/-! Flash writes, the owner, debug unlock and the DOE mailbox (R355, R443, R456, R457, R504; O46). -/

namespace Sys2Proof.FlashOwnerDebug

open Sys2Proof Sys2Proof.Machine Sys2Proof.Laws Sys2Proof.Mailboxes

/-! ## The boot flash (R443, R504) -/

/-- A sector that has been written keeps counting as written. -/
theorem erase_wiped (g : Geode) (k : Nat) {j : Nat} (h : j = k ∨ j ∈ g.wiped) : j ∈ (g.erase k).wiped := by
  have hadds : j ∈ if g.wiped.contains k then g.wiped else g.wiped ++ [k] := by
    split
    next hk =>
      rcases h with rfl | h
      · simpa using hk
      · exact h
    next => simpa [or_comm] using h
  unfold Geode.erase
  dsimp only
  split
  · exact hadds
  · exact hadds

/-- Every sector that is erased for a write counts as written. -/
theorem erases_wiped (l : List Nat) (g : Geode) {j : Nat} (h : j ∈ l ∨ j ∈ g.wiped) : j ∈ (l.foldl Geode.erase g).wiped := by
  induction l generalizing g with
  | nil => simpa using h
  | cons k l ih =>
    refine ih (g.erase k) ?_
    rcases h with h | h
    · rcases List.mem_cons.1 h with rfl | h
      · exact .inr (erase_wiped g j (.inl rfl))
      · exact .inl h
    · exact .inr (erase_wiped g k (.inr h))

/-- The sectors of a run are those of its bytes. -/
theorem mem_sectorsOf {a n i : Nat} (hi : i < n) : (a + i) / 65536 ∈ sectorsOf a n := by
  have hlo : a / 65536 ≤ (a + i) / 65536 := Nat.div_le_div_right (by omega)
  have hhi : (a + i) / 65536 ≤ (a + n - 1) / 65536 := Nat.div_le_div_right (by omega)
  simp only [sectorsOf, if_neg (show n ≠ 0 by omega), List.mem_map, List.mem_range]
  exact ⟨(a + i) / 65536 - a / 65536, by omega, by omega⟩

/-- Data written to the flash at address a, where its sectors are erased first. -/
def flashWritten (g : Geode) (a : Nat) (data : Bytes) : Geode :=
  let e := (sectorsOf a data.length).foldl Geode.erase g
  { e with flash := memPut e.flash 0xFF a data }

theorem flashWritten_reads (g : Geode) (a : Nat) (data : Bytes) : (flashWritten g a data).flashRun a data.length = data := by
  have hwritten : ∀ i, i < data.length → (flashWritten g a data).flashAt (a + i) = memGet (flashWritten g a data).flash 0xFF (a + i) :=
    fun i hi => if_pos (by simpa [flashWritten] using erases_wiped _ g (.inl (mem_sectorsOf hi)))
  refine (List.map_congr_left fun i hi => hwritten i (List.mem_range.1 hi)).trans ?_
  exact memRun_memPut _ _ _ _

theorem erase_mbox (g : Geode) (k : Nat) : (g.erase k).mbox = g.mbox := by
  unfold Geode.erase
  dsimp only
  split
  · rfl
  · rfl

theorem flashWritten_mbox (g : Geode) (a : Nat) (data : Bytes) : (flashWritten g a data).mbox = g.mbox :=
  List.foldlRecOn (motive := fun e : Geode => e.mbox = g.mbox) _ _ rfl fun e he k _ => (erase_mbox e k).trans he

section Requests

variable {s : State} {r : MReq} {p : Fin 2} (hready : ReqReady s r p)
include hready

/-- FLASH_WRITE to a slot whose image does not run writes its data there. -/
theorem flashWrite_writes (hlen : 8 ≤ r.payload.length) (hslot : pnum r 0 1 ≤ 1) (hzeros : zeroAt r.payload 1 3 = true)
    (hdata : (r.payload.drop 8).length ≤ 61440) (hfits : pnum r 4 4 + (r.payload.drop 8).length ≤ 0x2000000)
    (hidle : s.imageRuns = false ∨ (pnum r 0 1 == 1) ≠ s.geode.imageB) :
    exec (.flashWrite r) s = .next (({ s with
      geode := flashWritten s.geode (0x2000000 * pnum r 0 1 + pnum r 4 4) (r.payload.drop 8) } : State).answer r 0x31 .ok) := by
  refine congrArg Host.Outcome.next ((request_ready hready _ _ _ _).trans ?_)
  have hform : ¬(r.payload.length < 8 ∨ 1 < pnum r 0 1 ∨ (!zeroAt r.payload 1 3) = true ∨ 61440 < (r.payload.drop 8).length ∨
      0x2000000 < pnum r 4 4 + (r.payload.drop 8).length) := by
    simp only [hzeros, Bool.not_true, Bool.false_eq_true, false_or]
    omega
  have hother : ¬(s.imageRuns = true ∧ (pnum r 0 1 == 1) = s.geode.imageB) := fun h => by
    rcases hidle with hidle | hidle
    · simp [hidle] at h
    · exact hidle h.2
  simp only [if_neg hform, if_neg hother, flashWritten]

/-- OWNER_SET, unsigned while no owner is set and else under the current owner's signature, sets key and preferred slot. -/
theorem ownerSet_sets (hpref : pnum r 2592 1 ≤ 1) (hsigned : s.geode.ownerKey = [] ∧ r.payload.length = 2593 ∨
      s.geode.ownerKey ≠ [] ∧ r.payload.length = 7220 ∧
        Config.ownerVerify s.geode.ownerKey (ppart r 0 2593) (r.payload.drop 2593) = true) :
    exec (.ownerSet r) s = .next (({ s with geode := { s.geode with
      ownerKey := ppart r 0 2592, preferB := pnum r 2592 1 == 1 } } : State).answer r 0x32 .ok) := by
  refine congrArg Host.Outcome.next ((request_ready hready _ _ _ _).trans ?_)
  rcases hsigned with ⟨hnone, hlen⟩ | ⟨hsome, hlen, hverify⟩
  · simp [hnone, hlen, Nat.not_lt.2 hpref]
  · simp [hsome, hlen, hverify, Nat.not_lt.2 hpref]

/-! ## Debug unlock (R456, R457) -/

/-- DEBUG_CHALLENGE draws a challenge and answers with it and IDENT_FP. -/
theorem debugChallenge_draws (hempty : r.payload = []) :
    let c := (s.geodeDraw 32).2
    exec (.debugChallenge r) s = .next (({ s with geode := { s.geode with drawn := s.geode.drawn + 1, challenge := some c } } : State).respond r
      1 0x40 .ok (c ++ leBytes 8 s.identFp.toNat)) := by
  refine congrArg Host.Outcome.next ((request_ready hready _ _ _ _).trans ?_)
  simp only [hempty, ne_eq, not_true_eq_false, if_false]
  rfl

/-- The challenge is consumed. -/
def unchallenged (s : State) : State := { s with geode := { s.geode with challenge := none } }

/-- The unlock of request r goes on with the scope of its tokens, and its mailbox stays busy. -/
def unlockHeld (s : State) (r : MReq) : State :=
  let t := s.holdReq r
  { t with geode := { t.geode with unlock := some (BitVec.ofNat 2 (pnum r 1 1), r) } }

/-- DEBUG_UNLOCK while every context is FREE consumes the challenge; its tokens decide whether it goes on (R457). -/
theorem debugUnlock_eq (hlen : r.payload.length = 11942) (hfree : ∀ c, c ∈ s.geode.ctx → c.2.st = .free) :
    exec (.debugUnlock r) s = .next (if s.tokensOk r.payload then unlockHeld (unchallenged s).haltAll r
      else (unchallenged s).answer r 0x41 .permission) := by
  refine congrArg Host.Outcome.next ((request_ready hready _ _ _ _).trans ?_)
  have hnone : ¬(s.geode.ctx.any fun c => c.2.st != .free) = true := by simpa using hfree
  simp only [hlen, ne_eq, not_true_eq_false, if_false, if_neg hnone]
  cases s.tokensOk r.payload with
  | true => rfl
  | false => rfl

end Requests

/-- HALT sets a page's HALT and nothing else. -/
theorem setHalt_true (s : State) (q : Page) : s.setHalt q true = s.setHdr q { s.hdr q with halt := true } := by
  cases q <;> rfl

/-- A page that is halted stays so while pages are halted. -/
theorem setHalt_keeps_halt {s : State} {q : Page} (h : (s.hdr q).halt = true) (q' : Page) : ((s.setHalt q' true).hdr q).halt = true := by
  rw [setHalt_true]
  by_cases hkey : q.key = q'.key
  · exact congrArg Hdr.halt ((congrArg (fun k => tget _ k {}) hkey).trans (tget_tset_self _ _ _ _))
  · rw [setHdr_hdr_other _ _ _ hkey]
    exact h

/-- A loop that halts the pages of the units below n halts each of them, and keeps the others halted. -/
theorem each_setHalt (page : Nat → Page) (s : State) {n k : Nat} (hk : k < n) :
    (((s.each n fun u k => u.setHalt (page k) true).hdr (page k)).halt = true) :=
  each_establishes (P := fun k u => (u.hdr (page k)).halt = true) (fun u k => by rw [setHalt_true, setHdr_hdr])
    (fun u j k _ hu => setHalt_keeps_halt hu (page j)) s hk

theorem each_setHalt_keeps (page : Nat → Page) {s : State} {q : Page} (h : (s.hdr q).halt = true) (n : Nat) :
    ((s.each n fun u k => u.setHalt (page k) true).hdr q).halt = true :=
  List.foldlRecOn (motive := fun u : State => (u.hdr q).halt = true) _ _ h fun _ hu k _ => setHalt_keeps_halt hu (page k)

/-- The first step of an unlock halts every engine, helper core and vector engine. -/
theorem haltAll_halts (s : State) : (∀ e, e < 64 → (s.haltAll.hdr (.engine e)).halt = true) ∧
    (∀ h, h < 32 → (s.haltAll.hdr (.helper h)).halt = true) ∧ ∀ g, g < 16 → (s.haltAll.hdr (.vec g)).halt = true :=
  ⟨fun _ he => each_setHalt_keeps .vec (each_setHalt_keeps .helper (each_setHalt .engine s he) 32) 16,
    fun _ hh => each_setHalt_keeps .vec (each_setHalt .helper _ hh) 16, fun _ hg => each_setHalt .vec _ hg⟩

/-- An unlock that goes on leaves the headers and the memory, and of the Geode all but itself and the mailbox. -/
theorem unlockHeld_holds (s : State) {r : MReq} {p : Fin 2} (hvia : r.via = .mbox p) :
    (∃ m, (unlockHeld s r).geode = { s.geode with unlock := some (BitVec.ofNat 2 (pnum r 1 1), r), mbox := m }) ∧
      ((unlockHeld s r).mbox p).busy = true ∧ (∀ q, (unlockHeld s r).hdr q = s.hdr q) ∧ (unlockHeld s r).mem = s.mem := by
  simp only [unlockHeld, State.holdReq, hvia]
  exact ⟨⟨_, rfl⟩, congrArg Mbox.busy (tget_tset_self _ _ _ _), fun _ => rfl, rfl⟩

/-! ## The DOE mailbox (R355) -/

/-- Starting or stopping a selective stream changes its own bit. -/
theorem ideSel_bit (x : BitVec 8) (i : Fin 8) (start : Bool) {j : Nat} (hj : j < 8) :
    (if start then x ||| BitVec.ofNat 8 (1 <<< i.val) else x &&& ~~~BitVec.ofNat 8 (1 <<< i.val)).getLsbD j =
      if j = i.val then start else x.getLsbD j := by
  by_cases hji : j = i.val
  · rw [if_pos hji, hji]
    cases start with
    | true => exact ChainDrip.getLsbD_or_oneHot i.isLt x
    | false => exact ChainDrip.getLsbD_and_not_oneHot 8 i x
  · rw [if_neg hji]
    cases start with
    | true => exact ChainDrip.getLsbD_or_oneHot_of_ne hji x
    | false =>
      simp only [Bool.false_eq_true, if_false, BitVec.getLsbD_and, BitVec.getLsbD_not, ChainDrip.getLsbD_oneHot]
      simp [hj, hji]

/-- The port has answered a DOE request: its record becomes x, and the generator has given a value. -/
def doeAnswered (s : State) (p : Nat) (x : Port) : State :=
  ({ s with geode := { s.geode with drawn := s.geode.drawn + 1 } } : State).setPort p x

theorem doeAnswered_port (s : State) (p : Nat) (x : Port) : (doeAnswered s p x).port p = x := setPort_port _ _ _

section Doe

variable {s : State} {p : Fin 2} (hup : s.geodeUp = true) (hserves : s.portServes p = true)
include hup hserves

theorem doeRequest_spdm (m : Bytes) :
    exec (.doeRequest p (.spdm m)) s = .next (doeAnswered s p { s.port p with doe := Config.doeResponse m s.geode.drawn }) := by
  show execDoeRequest p (.spdm m) s = _
  simp only [execDoeRequest, hup, hserves, Bool.not_true, Bool.false_eq_true, or_self, if_false, doeAnswered]

theorem doeRequest_ideLink (start : Bool) :
    exec (.doeRequest p (.ideKm start none)) s = .next (doeAnswered s p { s.port p with
      doe := Config.doeResponse [if start then 1 else 0] s.geode.drawn, ideLink := start }) := by
  show execDoeRequest p (.ideKm start none) s = _
  simp only [execDoeRequest, hup, hserves, Bool.not_true, Bool.false_eq_true, or_self, if_false, doeAnswered]

theorem doeRequest_ideSel (start : Bool) (i : Fin 8) :
    exec (.doeRequest p (.ideKm start (some i))) s = .next (doeAnswered s p { s.port p with
      doe := Config.doeResponse [if start then 1 else 0] s.geode.drawn,
      ideSel := if start then (s.port p).ideSel ||| BitVec.ofNat 8 (1 <<< i.val)
        else (s.port p).ideSel &&& ~~~BitVec.ofNat 8 (1 <<< i.val) }) := by
  show execDoeRequest p (.ideKm start (some i)) s = _
  simp only [execDoeRequest, hup, hserves, Bool.not_true, Bool.false_eq_true, or_self, if_false, doeAnswered]

end Doe

/-- Settles O46: the sectors of the data written count as written; halting pages keeps the halted ones halted; the other requests are one
write of the Geode or the port. -/
theorem flashOwnerDebugDoe : Obligations.FlashOwnerDebugDoe := by
  unfold Obligations.FlashOwnerDebugDoe
  intro p r s
  refine ⟨rfl, fun hready => ?requests, fun hup hserves => ⟨fun m => ⟨_, doeRequest_spdm hup hserves m, ?_⟩,
    fun start => ⟨_, doeRequest_ideLink hup hserves start, ?_⟩, fun start i => ⟨_, doeRequest_ideSel hup hserves start i, ?_⟩⟩⟩
  case requests =>
    obtain ⟨-, hvia, -, -, -, -, -, hunlock, -⟩ := id hready
    refine ⟨fun slot off data hslot hoff hdata hlen hone hzeros hmax hfits hidle => ?flash, fun cur hcur hpref hsigned => ?owner,
      fun hempty => ?challenge, fun hlen hfree => ⟨_, debugUnlock_eq hready hlen hfree, ?unlock⟩⟩
    case flash =>
      subst hslot hoff hdata
      refine ⟨_, flashWrite_writes hready hlen hone hzeros hmax hfits hidle, ?_,
        answer_answered hready (mbox_of_table (flashWritten_mbox _ _ _) p)⟩
      obtain ⟨m, hgeode⟩ := answer_onlyMailboxes (u := { s with
        geode := flashWritten s.geode (0x2000000 * pnum r 0 1 + pnum r 4 4) (r.payload.drop 8) }) hvia 0x31 .ok
      rw [hgeode]
      exact flashWritten_reads s.geode _ _
    case owner =>
      subst hcur
      obtain ⟨m, hgeode⟩ := answer_onlyMailboxes (u := { s with geode := { s.geode with
        ownerKey := ppart r 0 2592, preferB := pnum r 2592 1 == 1 } }) hvia 0x32 .ok
      refine ⟨_, ownerSet_sets hready hpref hsigned, ?_⟩
      rw [hgeode]
      exact ⟨rfl, rfl, answer_answered hready rfl⟩
    case challenge =>
      refine ⟨_, _, debugChallenge_draws hready hempty, ?_, respond_answered hvia rfl⟩
      obtain ⟨m, hgeode⟩ := respond_onlyMailboxes (u := { s with geode := { s.geode with
        drawn := s.geode.drawn + 1, challenge := some (s.geodeDraw 32).2 } }) (opc := 0x40) (code := .ok)
        (payload := (s.geodeDraw 32).2 ++ leBytes 8 s.identFp.toNat) hvia 1
      rw [hgeode]
    case unlock =>
      cases s.tokensOk r.payload with
      | true =>
        obtain ⟨⟨m, hgeode⟩, hbusy, hhdr, hmem⟩ := unlockHeld_holds (unchallenged s).haltAll hvia
        obtain ⟨hengines, hhelpers, hvecs⟩ := haltAll_halts (unchallenged s)
        have hkept : (unchallenged s).haltAll.geode = (unchallenged s).geode := (State.haltAll_within _).eq_geode rfl
        have hhalt : ∀ q, ((unchallenged s).haltAll.hdr q).halt = true →
            ((unlockHeld (unchallenged s).haltAll r).hdr q).halt = true := fun q h => (congrArg Hdr.halt (hhdr q)).trans h
        simp only [if_true]
        rw [hgeode, hkept]
        exact ⟨rfl, rfl, hmem.trans ((State.haltAll_within _).eq_mem rfl), rfl, hbusy, fun e he => hhalt _ (hengines e he),
          fun h hh => hhalt _ (hhelpers h hh), fun g hg => hhalt _ (hvecs g hg)⟩
      | false =>
        obtain ⟨m, hgeode⟩ := answer_onlyMailboxes (u := unchallenged s) hvia 0x41 .permission
        simp only [Bool.false_eq_true, if_false]
        rw [hgeode]
        exact ⟨rfl, rfl, (State.answer_within _ _ _ _).eq_mem rfl, hunlock, answer_answered hready rfl⟩
  · rw [doeAnswered_port]
    exact ⟨rfl, rfl, rfl⟩
  · rw [doeAnswered_port]
    exact ⟨rfl, rfl⟩
  · rw [doeAnswered_port]
    exact ⟨rfl, fun j hj => ideSel_bit _ i start hj⟩

end Sys2Proof.FlashOwnerDebug

/-! Steps and the frames of commands (R474, R475; O1, O3, O5, O58). -/

namespace Sys2Proof.CommandSteps

open Sys2Proof Sys2Proof.Machine Sys2Proof.Laws Sys2Proof.CommandFrames

/-- A step differs from its state within some parts, so that it keeps the ranges of the DEV registers. -/
theorem step_keeps_ranges {s t : State} (hs : RangesOk s.dev) (h : step s = .next t) : RangesOk t.dev := by
  unfold step at h
  split at h
  case h_1 c r _ =>
    obtain ⟨u, hexec, hwithin⟩ := exec_answers c { s with pending := r }
    obtain rfl : u = t := by simpa [hexec] using h
    exact hwithin.dev hs
  case h_2 =>
    cases h
    exact (State.idleCycle_within s).dev hs

/-- No command may change the queue. -/
theorem pending_notMem_mayChange (c : Instr) : Part.pending ∉ mayChange c := by
  have hcontains : (mayChange c).contains .pending = false := by cases c <;> rfl
  simpa using hcontains

/-- What a command answers differs from its state in the parts that `mayChange` lists for it. -/
theorem changes_of_exec {c : Instr} {s t : State} (h : exec c s = .next t) : Changes (mayChange c) s t := by
  obtain ⟨u, hexec, hwithin⟩ := exec_answers c s
  obtain rfl : u = t := by simpa [hexec] using h
  exact hwithin.same

/-- Settles O1: it is what a step is on a queue with a front. -/
theorem stepRunsTheFrontCommand : Obligations.StepRunsTheFrontCommand := by
  unfold Obligations.StepRunsTheFrontCommand
  exact fun s c r => rfl

/-- Settles O3: every command answers a next state, and none lists the queue among what it may change. -/
theorem everyCommandAnswersAndLeavesTheQueue : Obligations.EveryCommandAnswersAndLeavesTheQueue := by
  unfold Obligations.EveryCommandAnswersAndLeavesTheQueue
  intro c s
  obtain ⟨t, hexec, hwithin⟩ := exec_answers c s
  exact ⟨t, hexec, hwithin.same .pending (pending_notMem_mayChange c)⟩

/-- Settles O5: a command's frame keeps the ranges, and so does an idle cycle's. -/
theorem stepKeepsRangedRegisters : Obligations.StepKeepsRangedRegisters := by
  unfold Obligations.StepKeepsRangedRegisters
  exact fun s t hs h => step_keeps_ranges hs h

/-- Settles O58: a command's frame, of which the bytes of memory are a part. -/
theorem commandsChangeOnlyTheirParts : Obligations.CommandsChangeOnlyTheirParts := by
  unfold Obligations.CommandsChangeOnlyTheirParts
  intro c s t h
  have hframe := changes_of_exec h
  refine ⟨hframe, fun hmem a => ?_⟩
  have hsame : t.mem = s.mem := hframe .mem hmem
  rw [hsame]

end Sys2Proof.CommandSteps

/-! MCTP control messages and the TAP (R455, R486, R495; O48). -/

namespace Sys2Proof.SidebandTap

open Sys2Proof Sys2Proof.Machine Sys2Proof.Laws

/-! ## Control messages (R486) -/

/-- A control message that no other request meets gets its own meaning. -/
theorem mctp_serves {s : State} (hup : s.geodeUp = true) (hfree : s.geode.sbBusy = false) (k : State → State) : s.mctp k = k s := by
  simp [State.mctp, hup, hfree]

section Messages

variable {s : State} (hup : s.geodeUp = true) (hfree : s.geode.sbBusy = false)
include hup hfree

theorem setEndpointId_sets {eid : Byte} (h0 : eid ≠ 0x00) (hff : eid ≠ 0xFF) :
    exec (.setEndpointId eid) s = .next { s with geode := { s.geode with eid := eid }, sideband := [0x00, 0x01, 0x00, 0x00, eid, 0x00] } := by
  refine congrArg Host.Outcome.next ((mctp_serves hup hfree _).trans ?_)
  rw [if_neg (not_or.2 ⟨h0, hff⟩)]
  rfl

theorem setEndpointId_refuses {eid : Byte} (h : eid = 0x00 ∨ eid = 0xFF) :
    exec (.setEndpointId eid) s = .next { s with sideband := [0x00, 0x01, 0x02] } := by
  refine congrArg Host.Outcome.next ((mctp_serves hup hfree _).trans ?_)
  rw [if_pos h]
  rfl

theorem getEndpointId_reads : exec .getEndpointId s = .next { s with sideband := [0x00, 0x02, 0x00, s.geode.eid, 0x00, 0x00] } :=
  congrArg Host.Outcome.next (mctp_serves hup hfree _)

theorem getMessageTypeSupport_lists : exec .getMessageTypeSupport s = .next { s with sideband := [0x00, 0x05, 0x00, 0x01, 0x7E] } :=
  congrArg Host.Outcome.next (mctp_serves hup hfree _)

/-- A control message that only asks changes the response alone. -/
theorem query_answers (ty sel : Byte) {c : Instr}
    (hc : c ∈ [Instr.getEndpointUuid, Instr.getMctpVersionSupport ty, Instr.getMessageTypeSupport, Instr.getVendorDefinedMessageSupport sel]) :
    ∃ b, exec c s = .next { s with sideband := b } := by
  simp only [List.mem_cons, List.not_mem_nil, or_false] at hc
  rcases hc with rfl | rfl | rfl | rfl
  · exact ⟨_, congrArg Host.Outcome.next (mctp_serves hup hfree _)⟩
  · by_cases hty : ty = 0xFF ∨ ty = 0x00
    · exact ⟨_, congrArg Host.Outcome.next ((mctp_serves hup hfree _).trans (if_pos hty))⟩
    · exact ⟨_, congrArg Host.Outcome.next ((mctp_serves hup hfree _).trans (if_neg hty))⟩
  · exact ⟨_, getMessageTypeSupport_lists hup hfree⟩
  · by_cases hsel : sel ≠ 0
    · exact ⟨_, congrArg Host.Outcome.next ((mctp_serves hup hfree _).trans (if_pos hsel))⟩
    · exact ⟨_, congrArg Host.Outcome.next ((mctp_serves hup hfree _).trans (if_neg hsel))⟩

end Messages

/-! ## The TAP (R455, R495) -/

/-- The fields of the IDCODE word, side by side. -/
theorem idcodeWord_toNat : idcodeWord.toNat = 0xB * 2 ^ 28 + (0x9640 * 2 ^ 12 + (Config.tapManufacturer.toNat * 2 + 1)) := by
  have hman : Config.tapManufacturer.toNat < 2 ^ 11 := Config.tapManufacturer.isLt
  rw [idcodeWord, Nat.or_assoc, Nat.or_assoc, EndToEnd.shiftLeft_or (k := 1) (by decide), EndToEnd.shiftLeft_or (a := 0x9640) (by omega),
    EndToEnd.shiftLeft_or (by omega), BitVec.toNat_ofNat]
  omega

theorem idcodeWord_fields : fld idcodeWord.toNat 28 4 = 0xB ∧ fld idcodeWord.toNat 12 16 = 0x9640 ∧
    fld idcodeWord.toNat 1 11 = Config.tapManufacturer.toNat ∧ bit idcodeWord.toNat 0 = true := by
  have hman : Config.tapManufacturer.toNat < 2 ^ 11 := Config.tapManufacturer.isLt
  simp only [EndToEnd.fld_eq_div_mod, EndToEnd.bit_eq_decide, decide_eq_true_eq, idcodeWord_toNat]
  omega

section Tap

variable {s : State}

/-- Outside Test-Logic-Reset an instruction takes effect. -/
theorem tapDo_acts (h : s.tap.trst = false) (x : Tap) : s.tapDo x = { s with tap := x } := by simp [State.tapDo, h]

/-- In BOARD_TEST an instruction that drives the pins takes effect. -/
theorem boardTestDo_acts (h : s.tap.trst = false) (hboard : s.geode.boardTest = true) (x : Tap) : s.boardTestDo x = { s with tap := x } := by
  simp [State.boardTestDo, hboard, tapDo_acts h]

/-- Outside BOARD_TEST it changes nothing. -/
theorem boardTestDo_idle (h : s.geode.boardTest = false) (x : Tap) : s.boardTestDo x = s := by simp [State.boardTestDo, h]

theorem samplePreload_selects (h : s.tap.trst = false) :
    ∃ t, exec .samplePreload s = .next t ∧ t.tap.ir = .samplePreload ∧ t.tap.driven = false := by
  have hexec : exec .samplePreload s =
      .next (if s.tap.trst then s else (s.tapDo (s.tap.select .samplePreload (BitVec.ofNat 32 (s.free 0)))).drawn) := rfl
  rw [h, tapDo_acts h] at hexec
  exact ⟨_, hexec, rfl, rfl⟩

theorem extest_eq (s : State) : exec .extest s = .next (if s.tap.trst ∨ !s.geode.boardTest then s else
    (s.boardTestDo { s.tap with ir := .extest, dr := BitVec.ofNat 32 (s.free 0), driven := true, hiz := false }).drawn) := rfl

theorem extest_drives (h : s.tap.trst = false) (hboard : s.geode.boardTest = true) :
    ∃ t, exec .extest s = .next t ∧ t.tap.ir = .extest ∧ t.tap.driven = true ∧ t.tap.hiz = false := by
  have hexec := extest_eq s
  rw [if_neg (by simp [h, hboard]), boardTestDo_acts h hboard] at hexec
  exact ⟨_, hexec, rfl, rfl, rfl⟩

theorem outputs_idle (h : s.geode.boardTest = false) {c : Instr} (hc : c ∈ [Instr.extest, Instr.tapClamp, Instr.highz]) :
    exec c s = .next s := by
  simp only [List.mem_cons, List.not_mem_nil, or_false] at hc
  rcases hc with rfl | rfl | rfl
  · rw [extest_eq, if_pos (by simp [h])]
  · exact congrArg Host.Outcome.next (boardTestDo_idle h _)
  · exact congrArg Host.Outcome.next (boardTestDo_idle h _)

end Tap

/-- Settles O48: a message that is served has its own response, an instruction of the TAP that acts writes the TAP alone. -/
theorem sidebandAndTap : Obligations.SidebandAndTap := by
  unfold Obligations.SidebandAndTap
  refine ⟨fun s hup hfree => ⟨fun eid h0 hff => ⟨setEndpointId_sets hup hfree h0 hff, ?_⟩,
    fun eid h => setEndpointId_refuses hup hfree h, fun ty sel c hc => query_answers hup hfree ty sel hc,
    getMessageTypeSupport_lists hup hfree⟩, fun s => ⟨rfl, rfl, fun htrst => ?_, fun hboard c hc => outputs_idle hboard hc⟩⟩
  · exact getEndpointId_reads (s := { s with geode := { s.geode with eid := eid } }) hup hfree
  · refine ⟨⟨idcodeWord, congrArg Host.Outcome.next (tapDo_acts htrst _), idcodeWord_fields⟩,
      congrArg Host.Outcome.next (tapDo_acts htrst _), samplePreload_selects htrst, fun hboard => ⟨extest_drives htrst hboard, ?_, ?_⟩⟩
    · exact congrArg Host.Outcome.next (boardTestDo_acts htrst hboard _)
    · exact congrArg Host.Outcome.next (boardTestDo_acts htrst hboard _)

end Sys2Proof.SidebandTap

/-! Error records, from the Sumps to the error rings (R420-R424, R432; O41). -/

namespace Sys2Proof.ErrorRings

open Sys2Proof Sys2Proof.Machine Sys2Proof.Laws

/-! ## Buffers (R422, R424) -/

/-- A record that a buffer has room for goes to its end. -/
theorem buffer_buf {m : Mgmt} (h : m.buf.length < 1024) (r : ErrRec) : (m.buffer r).buf = m.buf ++ [r] := by simp [Mgmt.buffer, h]

/-- Buffering changes of a controller its buffer and what counts what the buffer lost. -/
theorem buffer_eq (m : Mgmt) (r : ErrRec) : ∃ buf lost severe, m.buffer r = { m with buf := buf, erqLost := lost, severe := severe } := by
  unfold Mgmt.buffer
  split
  · exact ⟨_, _, _, rfl⟩
  · split
    · exact ⟨_, _, _, rfl⟩
    · split
      · exact ⟨_, _, _, rfl⟩
      · exact ⟨_, _, _, rfl⟩

/-- A record reaches both controllers' buffers under the next RSEQ. -/
theorem bufferErr_mgmt (s : State) (r : ErrRec) (c : Ctl) : (s.bufferErr r).mgmt c = (s.mgmt c).buffer { r with rseq := s.dev.rseq + 1 } := by
  cases c <;> rfl

theorem bufferErr_buf {s : State} {c : Ctl} (h : (s.mgmt c).buf.length < 1024) (r : ErrRec) :
    ((s.bufferErr r).mgmt c).buf = (s.mgmt c).buf ++ [{ r with rseq := s.dev.rseq + 1 }] := by
  rw [bufferErr_mgmt, buffer_buf h]

theorem logErr_of_not_corrected {r : ErrRec} (h : r.cls ≠ .corrected) (s : State) : s.logErr r = s.bufferErr r := by simp [State.logErr, h]

/-- A CORRECTED record waits in its interval: no buffer changes. -/
theorem logErr_of_corrected {r : ErrRec} (h : r.cls = .corrected) (s : State) :
    ∃ ms i, s.logErr r = { s with dev := { s.dev with merges := ms, mergeId := i } } := by
  unfold State.logErr
  rw [if_pos h]
  dsimp only
  split
  · exact ⟨_, _, rfl⟩
  · exact ⟨_, _, rfl⟩

/-- The first CORRECTED record of its source and code starts an interval. -/
theorem logErr_starts_interval {s : State} {r : ErrRec} (h : r.cls = .corrected) (hnew : (s.dev.merges.any fun x => x.rcd.same r) = false) :
    s.logErr r = { s with dev := { s.dev with
      merges := s.dev.merges ++ [{ id := s.dev.mergeId, rcd := r }], mergeId := s.dev.mergeId + 1 } } := by
  simp [State.logErr, h, hnew]

/-- A record changes of a controller its buffer and what counts what the buffer lost. -/
theorem logErr_mgmt (s : State) (r : ErrRec) (c : Ctl) :
    ∃ buf lost severe, (s.logErr r).mgmt c = { s.mgmt c with buf := buf, erqLost := lost, severe := severe } := by
  by_cases h : r.cls = .corrected
  · obtain ⟨_, _, hlog⟩ := logErr_of_corrected h s
    rw [hlog]
    refine ⟨(s.mgmt c).buf, (s.mgmt c).erqLost, (s.mgmt c).severe, ?_⟩
    cases c <;> rfl
  · rw [logErr_of_not_corrected h, bufferErr_mgmt]
    exact buffer_eq _ _

/-! ## The Sump (R420, R421) -/

theorem sumpPut_stores {s : State} {g : Nat} (h : (s.gal g).sump.length < 256) (r : SumpRec) :
    ((s.sumpPut g r).gal g).sump = (s.gal g).sump ++ [r] := by
  simp [State.sumpPut, h]

theorem sumpPut_counts {s : State} {g : Nat} (h : ¬(s.gal g).sump.length < 256) (r : SumpRec) :
    ((s.sumpPut g r).gal g).sump = (s.gal g).sump ∧ ((s.sumpPut g r).gal g).sumpLost = (s.gal g).sumpLost + 1 ∧
      ((s.sumpPut g r).gal g).sumpLostFlag = true := by
  simp [State.sumpPut, h]

section Drain

variable {s : State} {g : Fin 16} {r : SumpRec} {l : List SumpRec}

/-- The state whose Sump has given up its oldest record. -/
def drained (s : State) (g : Nat) (l : List SumpRec) : State := s.setGal g { s.gal g with sump := l }

theorem sumpDrain_raises (hheld : s.heldPage (.gallery g) = false) (hserved : (s.mgmtW.lost && s.mgmtE.lost) = false)
    (hsump : (s.gal g).sump = r :: l) : exec (.sumpDrain g) s = .next ((drained s g l).logErr (s.sumpErr g r)) := by
  have hexec : exec (.sumpDrain g) s = execSumpDrain g s := rfl
  rw [hexec, execSumpDrain, if_neg (by simpa [hheld] using hserved), hsump, drained]

theorem drained_sump (r : ErrRec) : (((drained s g l).logErr r).gal g).sump = l := by
  rw [State.gal, (State.logErr_within _ r).eq_galleries rfl]
  exact congrArg Gallery.sump (setGal_gal s g _)

theorem drained_mgmt (c : Ctl) : (drained s g l).mgmt c = s.mgmt c := by cases c <;> rfl

theorem drained_buf {x : ErrRec} (hcls : x.cls ≠ .corrected) {c : Ctl} (hroom : (s.mgmt c).buf.length < 1024) :
    (((drained s g l).logErr x).mgmt c).buf = (s.mgmt c).buf ++ [{ x with rseq := s.dev.rseq + 1 }] := by
  have hroom' : ((drained s g l).mgmt c).buf.length < 1024 := by rwa [drained_mgmt]
  rw [logErr_of_not_corrected hcls, bufferErr_buf hroom', drained_mgmt]
  rfl

end Drain

/-! ## The error rings (R422, R432) -/

theorem leBytes_image_length (r : ErrRec) (wall : Word64) (phase : Bool) : (r.image wall phase).length = 64 := by
  simp [ErrRec.image, EndToEnd.leBytes_length]

section Post

variable {s : State} {c : Ctl} {r : ErrRec} {l : List ErrRec}

/-- The controller after its oldest record, of class `cls`, has gone into the ring. -/
def postedMgmt (m : Mgmt) (cls : Cls) (l : List ErrRec) : Mgmt :=
  { m with buf := l, erqTail := if m.erqTail + 1 = m.erqSize then 0 else m.erqTail + 1,
           erqPhase := m.erqPhase ^^ (m.erqTail + 1 == m.erqSize), shown := if cls.severe then m.shown ++ [m.erqTail] else m.shown }

/-- The state after a posting: the record's image in the ring, the controller's place moved on, the interrupt raised. -/
def posted (s : State) (c : Ctl) (r : ErrRec) (l : List ErrRec) : State :=
  ((s.hostPut (portOf c) 0 ((s.mgmt c).erqBase.toNat + 64 * (s.mgmt c).erqTail)
    (r.image (s.fn (portOf c) 0).wall (s.mgmt c).erqPhase)).setMgmt c (postedMgmt (s.mgmt c) r.cls l)).msixTo (portOf c) 0 (s.mgmt c).erqIv

theorem errorRecordPost_eq (hbuf : (s.mgmt c).buf = r :: l) (hpost : (s.mgmt c).canPost = true) (hscan : s.scanHolds c = false)
    (hserved : s.unserved (portOf c) = false) (hostOk : Bool) :
    exec (.errorRecordPost c hostOk) s = .next (if hostOk then posted s c r l else s.setMgmt c { s.mgmt c with erqErr := true }) := by
  have hexec : exec (.errorRecordPost c hostOk) s = execErrorRecordPost c hostOk s := rfl
  rw [hexec, execErrorRecordPost]
  simp only [hbuf]
  rw [if_neg (by simp [hpost, hscan, hserved])]
  cases hostOk
  · rfl
  · simp [posted, postedMgmt]

theorem posted_mgmt : (posted s c r l).mgmt c = postedMgmt (s.mgmt c) r.cls l := by
  have hmsix : ∀ (u : State) p f v, (u.msixTo p f v).mgmt c = u.mgmt c := fun u p f v => by cases c <;> rfl
  rw [posted, hmsix, setMgmt_mgmt]

theorem posted_hostOut : memRun (posted s c r l).hostOut 0
    (2 ^ 64 * portOf c + ((s.mgmt c).erqBase.toNat + 64 * (s.mgmt c).erqTail) % 2 ^ 64) 64 =
      r.image (s.fn (portOf c) 0).wall (s.mgmt c).erqPhase := by
  have hhost : (posted s c r l).hostOut = memPut s.hostOut 0
      (2 ^ 64 * portOf c + ((s.mgmt c).erqBase.toNat + 64 * (s.mgmt c).erqTail) % 2 ^ 64)
      (r.image (s.fn (portOf c) 0).wall (s.mgmt c).erqPhase) := setMgmt_hostOut _ c _
  rw [hhost]
  simpa only [leBytes_image_length] using memRun_memPut s.hostOut 0 _ (r.image (s.fn (portOf c) 0).wall (s.mgmt c).erqPhase)

theorem posted_msix : (posted s c r l).msix = s.msix ++ [(portOf c, 0, (s.mgmt c).erqIv)] :=
  congrArg (· ++ [(portOf c, 0, (s.mgmt c).erqIv)]) (setMgmt_msix _ c _)

theorem errN_of_pendingSevere {t : State} (h : (t.mgmt c).pendingSevere = true) : t.errN = true := by
  cases c
  · have hW : t.mgmtW.pendingSevere = true := h
    simp [State.errN, hW]
  · have hE : t.mgmtE.pendingSevere = true := h
    simp [State.errN, hE]

/-- A LOST or DIVERGENCE record in the ring asserts ERR_N. -/
theorem posted_errN (hpost : (s.mgmt c).canPost = true) (hsevere : r.cls.severe = true) : (posted s c r l).errN = true := by
  have hen : (s.mgmt c).erqEn = true := by
    simp only [Mgmt.canPost, Bool.and_eq_true] at hpost
    exact hpost.1.1.1
  refine errN_of_pendingSevere (c := c) ?_
  rw [posted_mgmt]
  simp [Mgmt.pendingSevere, postedMgmt, hen, hsevere]

end Post

section Registers

variable {s : State} {c : Ctl}

theorem erqGate_open (h : s.heldPage (.mgmt c) = false) (k : State → State) : s.erqGate c k = k s := by simp [State.erqGate, h]

/-- EN set on a ring of a legal size starts it anew. -/
theorem erqEnWrite_starts {val : Word32} (hheld : s.heldPage (.mgmt c) = false) (hbit : bit val.toNat 31 = true) (hoff : (s.mgmt c).erqEn = false)
    (hlo : 64 ≤ (s.mgmt c).erqSize) (hhi : (s.mgmt c).erqSize ≤ 65536) :
    exec (.erqEnWrite c val) s = .next (s.setMgmt c { s.mgmt c with
      erqEn := true, erqIv := fld val.toNat 0 6, erqErr := false, erqTail := 0, erqHead := 0, erqPhase := true, shown := [] }) := by
  refine congrArg Host.Outcome.next ((erqGate_open hheld _).trans ?_)
  have hsize : ¬((s.mgmt c).erqSize < 64 ∨ 65536 < (s.mgmt c).erqSize) := by omega
  simp [State.erqCtl, hbit, hoff, hsize]

/-- A head inside the ring is taken. -/
theorem erqHeadWrite_moves {val : Word32} (hheld : s.heldPage (.mgmt c) = false) (hlt : fld val.toNat 0 17 < (s.mgmt c).erqSize) :
    exec (.erqHeadWrite c val) s = .next (s.setMgmt c { s.mgmt c with
      erqHead := fld val.toNat 0 17,
      shown := (s.mgmt c).shown.filter fun i => !ringBetween (s.mgmt c).erqSize (s.mgmt c).erqHead (fld val.toNat 0 17) i }) := by
  refine congrArg Host.Outcome.next ((erqGate_open hheld _).trans ?_)
  simp only [State.erqHeadPut, if_neg (Nat.not_le.2 hlt)]

end Registers

/-- Settles O41: a record is one write of its gallery's Sump, of both buffers, or of a ring and its controller. -/
theorem errorRecords : Obligations.ErrorRecords := by
  unfold Obligations.ErrorRecords
  intro g c s m
  refine ⟨fun r => ⟨_, rfl, ?stored⟩, fun r l hheld hserved hsump => ⟨_, sumpDrain_raises hheld hserved hsump, drained_sump _, ?raised, ?held⟩,
    fun id x hfind hroom => ?expires, fun r l hbuf hpost hscan hserved => ⟨?posts, ?fails⟩,
    fun val hheld hbit hoff hlo hhi => ?starts, fun val hheld hlt => ?moves⟩
  case stored =>
    split
    · exact sumpPut_stores ‹_› r
    · exact sumpPut_counts ‹_› r
  case raised => exact fun hcls hroom => drained_buf hcls hroom
  case held =>
    intro hcls hnew
    rw [logErr_starts_interval (s := drained s g l) hcls hnew]
    exact ⟨rfl, congrArg Mgmt.buf (drained_mgmt (s := s) (g := g) (l := l) c)⟩
  case expires =>
    have hexec : exec (.mergeIntervalExpire id) s = execMergeIntervalExpire id s := rfl
    rw [hexec, execMergeIntervalExpire, hfind]
    refine ⟨_, rfl, rfl, ?_⟩
    have hkept : ∀ d, ({ s with dev := d } : State).mgmt c = m := fun d => by cases c <;> rfl
    rw [bufferErr_buf (by rwa [hkept]), hkept]
  case posts =>
    refine ⟨_, errorRecordPost_eq hbuf hpost hscan hserved true, ?_, posted_hostOut, ?_, posted_msix, posted_errN hpost⟩
    all_goals
      rw [if_pos rfl, posted_mgmt]
      rfl
  case fails => exact errorRecordPost_eq hbuf hpost hscan hserved false
  case starts =>
    refine ⟨_, erqEnWrite_starts hheld hbit hoff hlo hhi, ?_⟩
    rw [setMgmt_mgmt]
    exact ⟨rfl, rfl, rfl, rfl, rfl, rfl, rfl⟩
  case moves =>
    refine ⟨_, erqHeadWrite_moves hheld hlt, ?_⟩
    rw [setMgmt_mgmt]
    exact ⟨rfl, rfl⟩

end Sys2Proof.ErrorRings

/-! Heartbeats, the ownership epoch, lost controllers and the takeover scan (R418, R419, R480-R484, R489; O43). -/

namespace Sys2Proof.Ownership

open Sys2Proof Sys2Proof.Machine Sys2Proof.Laws Sys2Proof.ErrorRings

theorem other_ne (c : Ctl) : Ctl.other c ≠ c := by cases c <;> decide

theorem other_other (c : Ctl) : Ctl.other (Ctl.other c) = c := by cases c <;> rfl

/-! ## Demotion and grants (R480, R482) -/

section Grants

variable (s : State) (c : Ctl)

/-- A demotion's record is CORRECTED: beside the device's merges only the controller's role changes. -/
theorem demote_eq : ∃ dev ctr, s.demote c =
    { s.setMgmt c { s.mgmt c with role := .mirror, reloading := true } with dev := dev, freeCtr := ctr } := by
  unfold State.demote
  dsimp only
  generalize s.setMgmt c { s.mgmt c with role := .mirror, reloading := true } = u
  obtain ⟨ms, i, hlog⟩ := logErr_of_corrected (r := { (Page.mgmt c).errRec .corrected (Code.ofNum (u.free 0 % 256)) with
    d0 := BitVec.ofNat 64 (u.free 1), d1 := BitVec.ofNat 64 (u.free 2) }) rfl u
  rw [hlog]
  exact ⟨_, _, rfl⟩

theorem demote_mgmt (d : Ctl) : (s.demote c).mgmt d = (s.setMgmt c { s.mgmt c with role := .mirror, reloading := true }).mgmt d := by
  obtain ⟨_, _, h⟩ := demote_eq s c
  rw [h]
  cases d <;> rfl

theorem demote_geode : (s.demote c).geode = s.geode := by
  obtain ⟨_, _, h⟩ := demote_eq s c
  rw [h]
  exact setMgmt_geode s c _

/-- The controller c holds the next epoch; the other one is as it was. -/
def epochTaken (s : State) (c : Ctl) : State :=
  ({ s with geode := { s.geode with epoch := s.geode.epoch + 1, holder := some c, claimW := none, claimE := none } } : State).setMgmt c
    { s.mgmt c with role := if s.geode.frozen then .frozen else .holder, epoch := s.geode.epoch + 1 }

/-- A grant gives the controller the epoch, and the other one, unless it is away, mirrors it. -/
theorem grant_eq : ∃ m, s.grant c = if (s.mgmt (Ctl.other c)).lost ∨ (s.mgmt (Ctl.other c)).reloading then epochTaken s c
    else (epochTaken s c).setMgmt (Ctl.other c) m := by
  cases c
  · exact ⟨_, rfl⟩
  · exact ⟨_, rfl⟩

/-- A grant moves the epoch on and names its holder. -/
theorem grant_geode : (s.grant c).geode =
    { s.geode with epoch := s.geode.epoch + 1, holder := some c, claimW := none, claimE := none } := by
  obtain ⟨m, h⟩ := grant_eq s c
  rw [h]
  split
  · exact setMgmt_geode _ _ _
  · rw [setMgmt_geode]
    exact setMgmt_geode _ _ _

theorem grant_mgmt : (s.grant c).mgmt c =
    { s.mgmt c with role := if s.geode.frozen then .frozen else .holder, epoch := s.geode.epoch + 1 } := by
  obtain ⟨m, h⟩ := grant_eq s c
  rw [h]
  split
  · exact setMgmt_mgmt _ _ _
  · rw [setMgmt_mgmt_other _ _ _ (other_ne c).symm]
    exact setMgmt_mgmt _ _ _

/-- A controller that is away does not mirror a new epoch. -/
theorem grant_other {s : State} {c : Ctl} (h : (s.mgmt (Ctl.other c)).lost = true ∨ (s.mgmt (Ctl.other c)).reloading = true) :
    (s.grant c).mgmt (Ctl.other c) = s.mgmt (Ctl.other c) := by
  obtain ⟨m, hgrant⟩ := grant_eq s c
  rw [hgrant, if_pos h]
  cases c <;> rfl

end Grants

/-! ## Heartbeats (R480, R482, R483) -/

section Heartbeats

variable {s : State} {c : Ctl}

/-- The controller has been heard. -/
def heard (s : State) (c : Ctl) : State := s.setMgmt c { s.mgmt c with beat := true }

theorem heartbeat_eq (hout : s.outOfReset = true) (hboot : s.geode.bootWait = false) (epoch : Word64) (holds : Bool) :
    exec (.heartbeat c epoch holds) s = .next (if holds then (heard s c).claimCheck c epoch else heard s c) := by
  have hexec : exec (.heartbeat c epoch holds) s = execHeartbeat c epoch holds s := rfl
  rw [hexec, execHeartbeat, hout, hboot]
  rfl

/-- The second first heartbeat of a boot ends the wait: W holds the next epoch. -/
theorem heartbeat_ends_boot (hout : s.outOfReset = true) (hboot : s.geode.bootWait = true) (hbeat : (s.mgmt (Ctl.other c)).beat = true)
    (epoch : Word64) (holds : Bool) : ∃ t, exec (.heartbeat c epoch holds) s = .next t ∧ t.geode.holder = some .W ∧
      t.geode.epoch = s.geode.epoch + 1 ∧ t.geode.bootWait = false := by
  have hexec : exec (.heartbeat c epoch holds) s = execHeartbeat c epoch holds s := rfl
  have hboth : ((heard s c).mgmtW.beat && (heard s c).mgmtE.beat) = true := by
    cases c
    · have hE : s.mgmtE.beat = true := hbeat
      simp [heard, State.setMgmt, hE]
    · have hW : s.mgmtW.beat = true := hbeat
      simp [heard, State.setMgmt, hW]
  have hgeode : (heard s c).geode = s.geode := setMgmt_geode s c _
  refine ⟨{ (heard s c).grant .W with geode := { ((heard s c).grant .W).geode with bootWait := false } }, ?_, ?_, ?_, rfl⟩
  · rw [hexec, execHeartbeat, hout, hboot]
    exact congrArg Host.Outcome.next (if_pos hboth)
  · exact congrArg Geode.holder (grant_geode (heard s c) .W)
  · exact (congrArg Geode.epoch (grant_geode (heard s c) .W)).trans (by rw [hgeode])

/-- A claim of an older epoch demotes. -/
theorem claimCheck_stale {epoch : Word64} (h : epoch.toNat < s.geode.epoch.toNat) : s.claimCheck c epoch = s.demote c := if_pos h

/-- Two claims at one epoch freeze management. -/
theorem claimCheck_clash {epoch : Word64} (h : s.geode.epoch.toNat ≤ epoch.toNat) (hfrozen : s.geode.frozen = false)
    (hclaim : s.geode.claim (Ctl.other c) = some epoch) :
    s.claimCheck c epoch = ({ s with geode := s.geode.setClaim c (some epoch) } : State).freezeMgmt := by
  have hkept : (s.geode.setClaim c (some epoch)).claim (Ctl.other c) = some epoch := by
    rw [← hclaim]
    cases c <;> rfl
  rw [State.claimCheck, if_neg (Nat.not_lt.2 h), hfrozen]
  exact if_pos hkept

/-- In a freeze both controllers are FROZEN. -/
theorem freezeMgmt_frozen (s : State) :
    s.freezeMgmt.geode.frozen = true ∧ s.freezeMgmt.mgmtW.role = .frozen ∧ s.freezeMgmt.mgmtE.role = .frozen := by
  have hlog : ∀ (u : State) (r : ErrRec) (d : Ctl), ((u.logErr r).mgmt d).role = (u.mgmt d).role := fun u r d => by
    obtain ⟨_, _, _, h⟩ := logErr_mgmt u r d
    rw [h]
  unfold State.freezeMgmt
  dsimp only
  refine ⟨?_, ?_, ?_⟩
  · rw [(State.logErr_within _ _).eq_geode rfl]
  · exact hlog _ _ .W
  · exact hlog _ _ .E

end Heartbeats

/-! ## A lost controller (R418, R419) -/

section Lost

variable {s : State} {c : Ctl}

/-- The survivor serves the caverns of the lost half. -/
theorem takeCaverns_secondary (s : State) (c : Ctl) {k : Nat} (hk : k ∈ cavernsOf c) : ((s.takeCaverns c).cavern k).secondary = true := by
  have hmgmt : ∀ (u : State) d x, (u.setMgmt d x).cavern k = u.cavern k := fun u d x => setMgmt_cavern u d x k
  rw [State.takeCaverns, hmgmt]
  cases c
  all_goals
    simp only [cavernsOf, List.mem_cons, List.not_mem_nil, or_false] at hk
    rcases hk with rfl | rfl
    · simp [cavernsOf]
    · simp [cavernsOf]

theorem takeCaverns_geode (s : State) (c : Ctl) : (s.takeCaverns c).geode = s.geode := (State.takeCaverns_within s c).eq_geode rfl

/-- The lost controller's own registers stay. -/
theorem takeCaverns_mgmt (s : State) (c : Ctl) : (s.takeCaverns c).mgmt c = s.mgmt c := by
  have hfold : ∀ (l : List Nat), (l.foldl (fun (u : State) k => u.setCavern k { u.cavern k with primaryUp := false, secondary := true }) s).mgmt c =
      s.mgmt c := fun l => by
    refine List.foldlRecOn (motive := fun u : State => u.mgmt c = s.mgmt c) l _ rfl fun u hu k _ => ?_
    rw [← hu]
    cases c <;> rfl
  rw [State.takeCaverns, setMgmt_mgmt_other _ _ _ (other_ne c).symm, hfold]

/-- The Geode has declared the controller lost and reported it. -/
def declaredLost (s : State) (c : Ctl) : State :=
  let u := s.setMgmt c { s.mgmt c with lost := true, beat := false, reloading := false }
  (u.logErr { (Page.mgmt c).errRec .degraded (Code.ofNum (u.free 0 % 256)) with
    d0 := BitVec.ofNat 64 (u.free 1), d1 := BitVec.ofNat 64 (u.free 2) }).drawn

theorem declaredLost_geode (s : State) (c : Ctl) : (declaredLost s c).geode = s.geode := by
  refine ((State.logErr_within _ _).eq_geode rfl).trans ?_
  exact setMgmt_geode s c _

theorem declaredLost_lost (s : State) (c : Ctl) : ((declaredLost s c).mgmt c).lost = true := by
  unfold declaredLost
  dsimp only
  have hdrawn : ∀ u : State, u.drawn.mgmt c = u.mgmt c := fun u => by cases c <;> rfl
  obtain ⟨_, _, _, h⟩ := logErr_mgmt (s.setMgmt c { s.mgmt c with lost := true, beat := false, reloading := false }) _ c
  rw [hdrawn, h, setMgmt_mgmt]

/-- The survivor holds the epoch. -/
def survivorHolds (s : State) (o : Ctl) : State := if s.geode.holder = some o then s else s.grant o

theorem controllerLost_eq (hout : s.outOfReset = true) (hboot : s.geode.bootWait = false) (hc : (s.mgmt c).lost = false)
    (ho : (s.mgmt (Ctl.other c)).lost = false) :
    s.controllerLost c = (let u := survivorHolds ((declaredLost s c).takeCaverns c) (Ctl.other c)
      { u with geode := { u.geode with scan := true } }) := by
  have hother : ((s.setMgmt c { s.mgmt c with lost := true, beat := false, reloading := false }).mgmt (Ctl.other c)).lost = false := by
    rw [setMgmt_mgmt_other _ _ _ (other_ne c), ho]
  unfold State.controllerLost
  rw [hout, hboot, hc]
  simp only [Bool.false_eq_true, Bool.not_true, or_self, if_false, hother]
  rfl

theorem survivorHolds_holder (s : State) (o : Ctl) : (survivorHolds s o).geode.holder = some o := by
  unfold survivorHolds
  split
  · assumption
  · rw [grant_geode]

theorem survivorHolds_epoch {s : State} {o : Ctl} (h : s.geode.holder ≠ some o) : (survivorHolds s o).geode.epoch = s.geode.epoch + 1 := by
  rw [survivorHolds, if_neg h, grant_geode]

/-- A lost controller takes no part in a grant. -/
theorem survivorHolds_lost {s : State} {c : Ctl} (h : (s.mgmt c).lost = true) : ((survivorHolds s (Ctl.other c)).mgmt c).lost = true := by
  unfold survivorHolds
  split
  · exact h
  · have hkept := grant_other (s := s) (c := Ctl.other c) (.inl (by rwa [other_other]))
    rw [other_other] at hkept
    rw [hkept, h]

theorem survivorHolds_cavern (s : State) (o : Ctl) (k : Nat) : (survivorHolds s o).cavern k = s.cavern k := by
  unfold survivorHolds
  split
  · rfl
  · rw [State.cavern, (State.grant_within s o).eq_caverns rfl, State.cavern]

/-- What the loss of a controller that leaves a survivor does. -/
theorem controllerLost_survived (hout : s.outOfReset = true) (hboot : s.geode.bootWait = false) (hc : (s.mgmt c).lost = false)
    (ho : (s.mgmt (Ctl.other c)).lost = false) {t : State} (ht : t = s.controllerLost c) :
    (t.mgmt c).lost = true ∧ t.geode.holder = some (Ctl.other c) ∧ t.geode.scan = true ∧
      (s.geode.holder ≠ some (Ctl.other c) → t.geode.epoch = s.geode.epoch + 1) ∧ ∀ k, k ∈ cavernsOf c → (t.cavern k).secondary = true := by
  rw [controllerLost_eq hout hboot hc ho] at ht
  subst ht
  have hgeode : ((declaredLost s c).takeCaverns c).geode = s.geode := (takeCaverns_geode _ c).trans (declaredLost_geode s c)
  have hmgmt : ∀ (u : State) g, ({ u with geode := g } : State).mgmt c = u.mgmt c := fun u g => by cases c <;> rfl
  refine ⟨?_, survivorHolds_holder _ _, rfl, fun hne => ?_, fun k hk => ?_⟩
  · rw [hmgmt]
    exact survivorHolds_lost (by rw [takeCaverns_mgmt, declaredLost_lost])
  · exact (survivorHolds_epoch (by rwa [hgeode])).trans (by rw [hgeode])
  · exact (congrArg Cavern.secondary (survivorHolds_cavern _ _ k)).trans (takeCaverns_secondary _ c hk)

end Lost

/-! ## The end of a reload and of a freeze (R482, R484) -/

theorem returnCaverns_mgmt (s : State) (c : Ctl) : (s.returnCaverns c).mgmt c = s.mgmt c := by
  have hfold : ∀ (l : List Nat), (l.foldl (fun (u : State) k => u.setCavern k { u.cavern k with primaryUp := true, secondary := false }) s).mgmt c =
      s.mgmt c := fun l => by
    refine List.foldlRecOn (motive := fun u : State => u.mgmt c = s.mgmt c) l _ rfl fun u hu k _ => ?_
    rw [← hu]
    cases c <;> rfl
  rw [State.returnCaverns, setMgmt_mgmt_other _ _ _ (other_ne c).symm, hfold]

/-- A controller that has reloaded mirrors the current epoch. -/
def reloaded (m : Mgmt) (g : Geode) : Mgmt :=
  { m with role := if g.frozen then .frozen else .mirror, reloading := false, lost := false, beat := true, epoch := g.epoch }

theorem mirrorReloadComplete_reloads {s : State} {c : Ctl} (hrel : (s.mgmt c).reloading = true) (hscan : s.scanHolds c = false) :
    ∃ t, exec (.mirrorReloadComplete c) s = .next t ∧ t.mgmt c = reloaded (s.mgmt c) s.geode := by
  have hexec : exec (.mirrorReloadComplete c) s = execMirrorReloadComplete c s := rfl
  refine ⟨_, hexec.trans (if_neg (by simp [hrel, hscan])), ?_⟩
  split
  · rw [returnCaverns_mgmt, setMgmt_mgmt]
    rfl
  · rw [setMgmt_mgmt]
    rfl

theorem epochResolve_resolves {s : State} {c : Ctl} {val : Word32} (hfrozen : s.geode.frozen = true) (hgo : bit val.toNat 31 = true)
    (hkeep : c = if bit val.toNat 0 then .E else .W) :
    exec (.epochResolve val) s =
      .next ((({ s with geode := { s.geode with frozen := false } } : State).demote (Ctl.other c)).grant c) := by
  refine congrArg Host.Outcome.next ?_
  rw [State.epochResolvePut, hgo, hfrozen, hkeep]
  rfl

/-- Settles O43: demotions change a role, grants the epoch and its holder's role; a loss is a report, the caverns, a grant and the scan. -/
theorem ownershipAndLoss : Obligations.OwnershipAndLoss := by
  unfold Obligations.OwnershipAndLoss
  intro c s m o
  refine ⟨fun hout => ⟨fun hboot hbeat epoch holds => heartbeat_ends_boot hout hboot hbeat epoch holds, fun hboot epoch =>
    ⟨heartbeat_eq hout hboot epoch false, fun hlt => ?stale, fun hle hfrozen hclaim => ?clash, fun hc ho i hi => ?lost⟩⟩,
    fun hrel hscan => ?reloads, fun val hfrozen hgo hkeep => ?resolves, fun apply happly hscan => ?scan⟩
  case stale =>
    refine ⟨_, (heartbeat_eq hout hboot epoch true).trans (congrArg _ (claimCheck_stale ?_)), ?_, ?_, ?_⟩
    · have hgeode : (heard s c).geode = s.geode := setMgmt_geode s c _
      rwa [hgeode]
    · rw [demote_mgmt, setMgmt_mgmt]
    · rw [demote_mgmt, setMgmt_mgmt]
    · exact (demote_geode _ c).trans (setMgmt_geode s c _)
  case clash =>
    have hgeode : (heard s c).geode = s.geode := setMgmt_geode s c _
    exact ⟨_, (heartbeat_eq hout hboot epoch true).trans (congrArg _ (claimCheck_clash (by rwa [hgeode]) (by rwa [hgeode]) (by rwa [hgeode]))),
      freezeMgmt_frozen _⟩
  case lost =>
    simp only [List.mem_cons, List.not_mem_nil, or_false] at hi
    rcases hi with rfl | rfl
    · exact ⟨_, rfl, controllerLost_survived hout hboot hc ho rfl⟩
    · exact ⟨_, rfl, controllerLost_survived hout hboot hc ho rfl⟩
  case reloads =>
    obtain ⟨t, hexec, hmgmt⟩ := mirrorReloadComplete_reloads hrel hscan
    exact ⟨t, hexec, by rw [hmgmt]; rfl, by rw [hmgmt]; rfl, by rw [hmgmt]; rfl, by rw [hmgmt]; rfl⟩
  case resolves =>
    have hother : ((({ s with geode := { s.geode with frozen := false } } : State).demote o).mgmt o).role = .mirror ∧
        ((({ s with geode := { s.geode with frozen := false } } : State).demote o).mgmt o).reloading = true := by
      rw [demote_mgmt, setMgmt_mgmt]
      exact ⟨rfl, rfl⟩
    refine ⟨_, epochResolve_resolves hfrozen hgo hkeep, ?_⟩
    rw [grant_geode, grant_mgmt, grant_other (.inr hother.2), demote_geode]
    exact ⟨rfl, rfl, rfl, rfl, hother⟩
  case scan =>
    have hwrite : State.bar0Write = apply := by
      funext u a
      exact Host.Outcome.next.inj (happly u a)
    have hexec : exec .takeoverScanComplete s = execTakeoverScanComplete s := rfl
    rw [hexec, execTakeoverScanComplete, hscan, ← hwrite]
    rfl

end Sys2Proof.Ownership

/-! Answers of the Geode that change no context (R439, R441-R444; O44). -/

namespace Sys2Proof.GeodeReplies

open Sys2Proof Sys2Proof.Machine Sys2Proof.Laws Sys2Proof.Mailboxes

section Requests

variable {s : State} {r : MReq} {p : Fin 2} (hready : ReqReady s r p)
include hready

/-- A response of a state with the mailboxes and contexts of s answers the request and keeps the contexts. -/
theorem respond_answers {u : State} (hmbox : u.geode.mbox = s.geode.mbox) (hctx : u.geode.ctx = s.geode.ctx) (opc : Nat) (payload : Bytes) :
    Answered s (u.respond r 1 opc .ok payload) r p opc .ok payload ∧ (u.respond r 1 opc .ok payload).geode.ctx = s.geode.ctx := by
  obtain ⟨-, hvia, -⟩ := hready
  obtain ⟨m, hgeode⟩ := respond_onlyMailboxes (u := u) (opc := opc) (code := .ok) (payload := payload) hvia 1
  exact ⟨respond_answered hvia (mbox_of_table hmbox p), by rw [hgeode, ← hctx]⟩

theorem getCerts_eq (hlen : r.payload.length = 0) :
    exec (.getCerts r) s = .next (s.respond r 1 0x01 .ok (s.identKey ++ Config.certChain)) :=
  congrArg Host.Outcome.next ((request_ready hready _ _ _ _).trans (if_neg (not_not.2 (List.eq_nil_of_length_eq_zero hlen))))

theorem attest_eq {tn : Option Nat} (hlen : r.payload.length = 34) (hzero : fld (pnum r 32 2) 10 5 = 0)
    (htn : tn = if bit (pnum r 32 2) 15 then some (fld (pnum r 32 2) 0 10) else none) :
    exec (.attest r) s = .next ((s.identSign (sha3_512 (s.report (ppart r 0 32) tn))).1.respond r 1 0x02 .ok
      (s.report (ppart r 0 32) tn ++ (s.identSign (sha3_512 (s.report (ppart r 0 32) tn))).2)) := by
  refine congrArg Host.Outcome.next ((request_ready hready _ _ _ _).trans ?_)
  obtain ⟨-, hvia, -⟩ := hready
  have hform : ¬(r.payload.length ≠ 34 ∨ fld (pnum r 32 2) 10 5 ≠ 0 ∨
      (r.via = .sideband ∧ (if bit (pnum r 32 2) 15 then some (fld (pnum r 32 2) 0 10) else none).isSome = true)) := by
    simp [hlen, hzero, hvia]
  subst htn
  simp only [if_neg hform]

theorem ctxQuery_eq (hlen : r.payload.length = 2) (htn : pnum r 0 2 < 1024) : ∃ b,
    let c := s.ctx (pnum r 0 2)
    exec (.ctxQuery r) s = .next (s.respond r 1 0x14 .ok (b :: (leBytes 8 c.ptRoot.toNat ++ leBytes 8 c.rseed.toNat ++
      leBytes 8 c.ownerFp.toNat ++ (if c.t = [] then zeros 64 else c.t)))) :=
  ⟨_, congrArg Host.Outcome.next ((request_ready hready _ _ _ _).trans (if_neg (by omega)))⟩

/-- The counter of the running image at its SVN. -/
def committed (s : State) : State :=
  { s with geode := { s.geode with arb := tset s.geode.arb s.geode.cidx (max (tget s.geode.arb s.geode.cidx 0) s.geode.svn) } }

theorem rollbackCommit_eq (hlen : r.payload.length = 0) (hfallback : s.geode.fallback = false) :
    exec (.rollbackCommit r) s = .next ((committed s).respond r 1 0x30 .ok []) := by
  refine congrArg Host.Outcome.next ((request_ready hready _ _ _ _).trans ?_)
  obtain ⟨-, -, -, -, -, -, hver, -⟩ := hready
  rw [if_neg (by simp [List.eq_nil_of_length_eq_zero hlen, hfallback]), State.answer, hver]
  rfl

end Requests

/-- Settles O44: each request that is ready comes down to one response, before which at most the generator and a counter have moved. -/
theorem geodeAnswers : Obligations.GeodeAnswers := by
  unfold Obligations.GeodeAnswers
  intro p r s hready n c
  refine ⟨fun hlen => ⟨_, getCerts_eq hready hlen, respond_answers hready rfl rfl _ _⟩, fun tn sig hlen hzero htn hsig => ?_,
    fun hlen htn => ?_, fun hlen hfallback => ?_⟩
  · subst hsig
    exact ⟨_, attest_eq hready hlen hzero htn, respond_answers hready (u := (s.identSign _).1) rfl rfl _ _⟩
  · obtain ⟨b, hexec⟩ := ctxQuery_eq hready hlen htn
    exact ⟨_, b, hexec, respond_answers hready rfl rfl _ _⟩
  · obtain ⟨hanswered, hctx⟩ := respond_answers hready (u := committed s) rfl rfl 0x30 []
    refine ⟨_, rollbackCommit_eq hready hlen hfallback, hanswered, hctx, fun i => ?_⟩
    obtain ⟨-, hvia, -⟩ := hready
    obtain ⟨m, hgeode⟩ := respond_onlyMailboxes (u := committed s) (opc := 0x30) (code := .ok) (payload := []) hvia 1
    rw [hgeode]
    refine (tget_tset s.geode.arb i s.geode.cidx _ 0).trans ?_
    split
    · rw [‹i = s.geode.cidx›]
    · rfl

end Sys2Proof.GeodeReplies

/-! The long-integer engine (R450-R454; O47). -/

namespace Sys2Proof.LongIntegers

open Sys2Proof Sys2Proof.Machine Sys2Proof.Laws

/-! ## Powers (R450) -/

/-- Squaring over the low k bits of an exponent gives the power by what they spell. -/
theorem powModBits_eq (k b e m : Nat) : powModBits k b e m = b ^ (e % 2 ^ k) % m := by
  induction k generalizing b e with
  | zero => simp [powModBits, Nat.mod_one]
  | succ k ih =>
    have hsquare : (b * b % m) ^ (e / 2 % 2 ^ k) % m = b ^ (2 * (e / 2 % 2 ^ k)) % m := by
      rw [← Nat.pow_mod, ← Nat.pow_two, ← Nat.pow_mul]
    have hexp : e % 2 ^ (k + 1) = e % 2 + 2 * (e / 2 % 2 ^ k) := by rw [Nat.pow_succ', Nat.mod_mul]
    simp only [powModBits, ih, hsquare]
    split
    · rw [Nat.mul_mod_mod, hexp, ‹e % 2 = 1›, Nat.add_comm, Nat.pow_succ']
    · rw [hexp, Nat.mod_two_ne_one.1 ‹_›, Nat.zero_add]

theorem ofWords_lt (l : List Word64) : ofWords l < 2 ^ (64 * l.length) := by
  induction l with
  | nil => simp [ofWords]
  | cons x l ih =>
    have hx : x.toNat < 2 ^ 64 := x.isLt
    have hcons : ofWords (x :: l) = x.toNat + 2 ^ 64 * ofWords l := rfl
    have hpow : 2 ^ (64 * (x :: l).length) = 2 ^ 64 * 2 ^ (64 * l.length) := by rw [← Nat.pow_add, List.length_cons]; congr 1; omega
    rw [hcons, hpow]
    omega

/-- The value of n words lies below 2^(64 n). -/
theorem valOf_lt (n : Nat) (l : List Word64) : valOf n l < 2 ^ (64 * n) :=
  (ofWords_lt _).trans_le (Nat.pow_le_pow_right (by decide) (Nat.mul_le_mul_left _ (List.length_take_le n l)))

/-! ## GO (R450-R452) -/

/-- A GO has begun: the engine runs for the port with this outcome and these cycles. -/
def Began (s : State) (port : Fin 2) (t : State) (o : Code × List Word64) (n : Nat) : Prop :=
  t.lie.busy = true ∧ t.lie.owner = port.val ∧ t.lie.out = some (o.1, o.2, n) ∧ t.mem = s.mem

section Go

variable {s : State} (htakes : s.takes .lie = true)
include htakes

/-- A GO of the operation that OP names reaches the engine. -/
theorem lieStart_of_op {op : LieOp} (hop : fld s.lie.op.toNat 0 8 = op.num) (k : State → State) : s.lieStart op k = k s := by
  rw [State.lieStart, if_pos hop, ChainDrip.gate_takes htakes]

variable (hfree : s.lie.busy = false) (hgeode : s.lie.geode = false)
include hfree hgeode

omit htakes in
/-- A GO that the registers describe begins with its outcome. -/
theorem lieGo_began {port : Fin 2} {op : LieOp} (hargs : s.lie.argsOk op = true) (words : List Word64)
    (res : Nat → Nat → List Word64 → Option Nat) :
    let nw := fld s.lie.len.toNat 0 9
    let ew := fld s.lie.len.toNat 16 9
    Began s port (s.lieGo port op (some words) res) (lieOut (if op = .ecmul then 12 else nw) (res nw ew words)) (lieCycles op nw ew) := by
  simp only [State.lieGo, hfree, hgeode, hargs, Bool.false_eq_true, Bool.not_true, or_self, if_false]
  exact ⟨rfl, rfl, rfl, rfl⟩

theorem modmul_began (port : Fin 2) (a b m : List Word64) (hop : fld s.lie.op.toNat 0 8 = 1) (hargs : s.lie.argsOk .modmul = true) :
    let nw := fld s.lie.len.toNat 0 9
    ∃ t, exec (.modmul port (some a) (some b) (some m)) s = .next t ∧
      Began s port t (lieOut nw (lieModMul nw (valOf nw a) (valOf nw b) (valOf nw m))) (3 * lieM nw + 528) :=
  ⟨_, congrArg Host.Outcome.next (lieStart_of_op htakes (op := .modmul) hop _), lieGo_began hfree hgeode hargs _ _⟩

theorem modexp_began (port : Fin 2) (a b m : List Word64) (hop : fld s.lie.op.toNat 0 8 = 2) (hargs : s.lie.argsOk .modexp = true) :
    let nw := fld s.lie.len.toNat 0 9
    let ew := fld s.lie.len.toNat 16 9
    ∃ t, exec (.modexp port (some a) (some b) (some m)) s = .next t ∧
      Began s port t (lieOut nw (lieModExp nw ew (valOf nw a) (valOf ew b) (valOf nw m))) ((128 * ew + 4) * lieM nw + 512) :=
  ⟨_, congrArg Host.Outcome.next (lieStart_of_op htakes (op := .modexp) hop _), lieGo_began hfree hgeode hargs _ _⟩

theorem ecmul_began (port : Fin 2) (a b : List Word64) (hop : fld s.lie.op.toNat 0 8 = 3) (hargs : s.lie.argsOk .ecmul = true) :
    ∃ t, exec (.ecmul port (some a) (some b)) s = .next t ∧
      Began s port t (lieOut 12 ((ecMul (valOf 6 a) (valOf 6 b) (valOf 6 (b.drop 6))).map fun r => r.1 + 2 ^ 384 * r.2))
        (10112 * lieM 6 + 512) :=
  ⟨_, congrArg Host.Outcome.next (lieStart_of_op htakes (op := .ecmul) hop _), lieGo_began hfree hgeode hargs _ _⟩

end Go

/-! ## Completion and ABORT (R451, R453) -/

section Done

variable (s : State) (code : Code) (cycles : Nat)

/-- A completion leaves of the engine what raised nothing. -/
theorem lieDone_lie : (s.lieDone code cycles).lie =
    { s.lie with busy := false, code := code.byte, cycles := cycles, out := none, work := [] } :=
  (State.raise_within _ _ _).eq_lie rfl

theorem lieDone_hostOut : (s.lieDone code cycles).hostOut = s.hostOut := (State.raise_within _ _ _).eq_hostOut rfl

/-- A completion raises DONE. -/
theorem lieDone_irq : ((s.lieDone code cycles).hdr .lie).irqSts.getLsbD 0 = true := by
  rw [State.lieDone, State.raise, RegisterWrites.putHdr_hdr]
  exact ChainDrip.getLsbD_or_oneHot (by decide) _

end Done

section Abort

variable {s : State}

/-- The bytes of a result that an ABORT may find written. -/
def resultBytes (x : Lie) : Nat := 8 * (match x.out with | some (_, w, _) => w.length | none => 0)

theorem freeBytes_length (u : State) (n : Nat) : (u.freeBytes n).length = n := by simp [State.freeBytes]

/-- An ABORT of a host's operation ends it with ABORTED; a part of its result has been written. -/
theorem lieAbortPut_ends (hbusy : s.lie.busy = true) (hgeode : s.lie.geode = false) : ∃ u : State, s.lieAbortPut = u.lieDone .aborted s.lie.cycles ∧
    u.lie = s.lie ∧ ∀ k, (k < 2 ^ 64 * s.lie.owner + s.lie.rAddr.toNat ∨
      2 ^ 64 * s.lie.owner + s.lie.rAddr.toNat + resultBytes s.lie ≤ k) → memGet u.hostOut 0 k = memGet s.hostOut 0 k := by
  have hput : s.lieAbortPut = ((if s.free 0 % (resultBytes s.lie + 1) = 0 then s else
      s.hostPut s.lie.owner 0 s.lie.rAddr.toNat ((s.freeBytes (s.free 0 % (resultBytes s.lie + 1) + 1)).drop 1)).drawn).lieDone
        .aborted s.lie.cycles := by
    simp only [State.lieAbortPut, hbusy, hgeode, Bool.not_true, Bool.false_eq_true, or_self, if_false, resultBytes]
    rfl
  refine ⟨_, hput, ?_, fun k hk => ?_⟩
  · split <;> rfl
  · split
    · rfl
    · have hlen : ((s.freeBytes (s.free 0 % (resultBytes s.lie + 1) + 1)).drop 1).length ≤ resultBytes s.lie := by
        rw [List.length_drop, freeBytes_length]
        have hmod : s.free 0 % (resultBytes s.lie + 1) < resultBytes s.lie + 1 := Nat.mod_lt _ (Nat.succ_pos _)
        omega
      have haddr : s.lie.rAddr.toNat % 2 ^ 64 = s.lie.rAddr.toNat := Nat.mod_eq_of_lt s.lie.rAddr.isLt
      exact memGet_memPut_out _ _ _ _ _ (by rw [haddr]; omega)

end Abort

section Complete

variable {s : State} {code : Code} {w : List Word64} {cycles : Nat}

/-- The little-endian bytes of a result's words. -/
def wordBytes (w : List Word64) : Bytes := (w.map fun v => leBytes 8 v.toNat).flatten

theorem wordBytes_length (w : List Word64) : (wordBytes w).length = 8 * w.length := by
  induction w with
  | nil => rfl
  | cons v w ih =>
    have hcons : wordBytes (v :: w) = leBytes 8 v.toNat ++ wordBytes w := rfl
    rw [hcons, List.length_append, EndToEnd.leBytes_length, ih, List.length_cons]
    omega

theorem lieComplete_eq (hout : s.lie.out = some (code, w, cycles)) (hbusy : s.lie.busy = true) (hgeode : s.lie.geode = false)
    (hon : s.blkOn .lie = true) (hcode : code ≠ .aborted) (hostOk : Bool) :
    exec (.lieComplete hostOk) s = .next (if hostOk then (s.hostPut s.lie.owner 0 s.lie.rAddr.toNat (wordBytes w)).lieDone code cycles
      else s.lieDone .aborted cycles) := by
  have hexec : exec (.lieComplete hostOk) s = execLieComplete hostOk s := rfl
  rw [hexec, execLieComplete]
  simp only [hout, hbusy, hgeode, hon, Bool.not_true, Bool.false_eq_true, or_self, if_false, hcode]
  cases hostOk
  · rfl
  · rfl

theorem hostPut_result (s : State) (owner : Nat) (a : Word64) (bs : Bytes) :
    memRun (s.hostPut owner 0 a.toNat bs).hostOut 0 (2 ^ 64 * owner + a.toNat) bs.length = bs := by
  have haddr : 2 ^ 64 * owner + a.toNat = 2 ^ 64 * owner + a.toNat % 2 ^ 64 := by rw [Nat.mod_eq_of_lt a.isLt]
  rw [haddr]
  exact memRun_memPut _ _ _ _

end Complete

/-- Settles O47: a GO is one write of the engine, a completion another, between them at most the result's bytes. -/
theorem longIntegerOperations : Obligations.LongIntegerOperations := by
  unfold Obligations.LongIntegerOperations
  intro port a b m s x nw ew began
  refine ⟨fun htakes hfree hgeode => ⟨fun hop hargs => ?modmul, fun hop hargs => ?modexp, fun hop hargs => ?ecmul⟩,
    fun htakes hbusy hgeode => ?abort, fun code w cycles hout hbusy hgeode hon hcode => ⟨?completes, ?fails⟩⟩
  case modmul =>
    obtain ⟨t, hexec, hbegan⟩ := modmul_began htakes hfree hgeode port a b m hop hargs
    refine ⟨t, hexec, ?_⟩
    split
    · rwa [lieModMul, if_pos ‹_›] at hbegan
    · rwa [lieModMul, if_neg ‹_›] at hbegan
  case modexp =>
    obtain ⟨t, hexec, hbegan⟩ := modexp_began htakes hfree hgeode port a b m hop hargs
    refine ⟨t, hexec, ?_⟩
    split
    · rwa [lieModExp, if_pos ‹_›, powModBits_eq, Nat.mod_eq_of_lt (valOf_lt _ _)] at hbegan
    · rwa [lieModExp, if_neg ‹_›] at hbegan
  case ecmul =>
    obtain ⟨t, hexec, hbegan⟩ := ecmul_began htakes hfree hgeode port a b hop hargs
    refine ⟨t, hexec, ?_⟩
    split
    · rwa [‹ecMul _ _ _ = _›] at hbegan
    · rwa [‹ecMul _ _ _ = _›] at hbegan
  case abort =>
    obtain ⟨u, hends, hlie, hhost⟩ := lieAbortPut_ends hbusy hgeode
    refine ⟨_, congrArg Host.Outcome.next ((ChainDrip.gate_takes htakes _).trans hends), ?_⟩
    rw [lieDone_lie, lieDone_hostOut]
    refine ⟨rfl, rfl, rfl, rfl, fun k hk => ?_⟩
    cases hout : x.out with
    | none => exact hhost k (by simp only [resultBytes, show s.lie.out = none from hout]; omega)
    | some o =>
      obtain ⟨code, w, cycles⟩ := o
      exact hhost k (by simpa only [resultBytes, show s.lie.out = some (code, w, cycles) from hout] using hk code w cycles hout)
  case completes =>
    refine ⟨_, lieComplete_eq hout hbusy hgeode hon hcode true, ?_⟩
    rw [if_pos rfl, lieDone_lie, lieDone_hostOut]
    refine ⟨rfl, rfl, rfl, rfl, ?_, lieDone_irq _ _ _⟩
    rw [← wordBytes_length]
    exact hostPut_result s _ _ _
  case fails =>
    refine ⟨_, lieComplete_eq hout hbusy hgeode hon hcode false, ?_⟩
    rw [if_neg Bool.false_ne_true, lieDone_lie, lieDone_hostOut]
    exact ⟨rfl, rfl, rfl⟩

end Sys2Proof.LongIntegers

/-! BLK_VER of every page (R464; O56). -/

namespace Sys2Proof.BlockVersions

open Sys2Proof Sys2Proof.Machine Sys2Proof.Laws

/-- A header register is neither cleared by its read nor hidden from the physical function. -/
theorem seen_header {o : Nat} (ho : o < 0x100) (s : State) (port : Nat) (p : Page) : s.seen port 0 p o = s.regHdr p o := by
  have hread : s.readReg p o = s.regHdr p o := if_pos ho
  cases p <;> simp [State.seen, hread]

theorem clearRc_header {o : Nat} (ho : o < 0x100) (s : State) (p : Page) : s.clearRc p o = s := by
  cases p with
  | link n =>
    simp only [State.clearRc]
    split
    · omega
    · omega
    · omega
    · omega
    · rfl
  | cavern c => simp only [State.clearRc]; rw [if_neg (by omega)]
  | gallery g => simp only [State.clearRc]; rw [if_neg (by omega)]
  | mgmt c => simp only [State.clearRc]; rw [if_neg (by omega)]
  | msg ep => simp only [State.clearRc]; rw [if_neg (by omega)]
  | drip g => simp only [State.clearRc]; rw [if_neg (by omega)]
  | _ => rfl

/-- A read of a 4-byte header register by the physical function gives it and changes nothing else. -/
theorem rcRead_header {k o : Nat} {p : Page} {port : Fin 2} {s : State} (hp : Page.ofKey k = some p) (hs : s.direct port 0) (ho : o < 0x100)
    (halign : o % 4 = 0) (hreg : p.regAt o = some (o, 4)) :
    exec (.rcRead port 0 (4096 * k + o) 4) s = .next { s with lastRead := fld (s.regHdr p o) 0 32 } := by
  obtain ⟨hfill, hheld⟩ := hs
  have hdiv : (4096 * k + o) / 4096 = k := by omega
  have hmod : (4096 * k + o) % 4096 = o := by omega
  have hpage : pageAt port (0 : Fin 64) (4096 * k + o) = some p := by simp [pageAt, hdiv, hp]
  have hacc : accessOk (4096 * k + o) 4 = true := by
    simp only [accessOk, beq_self_eq_true, Bool.true_or, Bool.true_and, beq_iff_eq]
    omega
  have hright : s.right port (0 : Fin 64) p o false = .served := RegisterWrites.right_pf (.inr ho) s port false
  have hnone : s.heldOf port 0 = [] := hheld
  have hexec : exec (.rcRead port 0 (4096 * k + o) 4) s = execRcRead port 0 (4096 * k + o) 4 s := rfl
  rw [hexec, execRcRead, if_neg (by simp [hfill, hnone]), State.bar0Read]
  simp only [hacc, hpage, hmod, hreg, hright, Bool.not_true, Bool.false_eq_true, if_false, Nat.lt_irrefl, Nat.not_le.2 ho, false_and,
    Nat.sub_self, Nat.mul_zero]
  have hread : s.readReg p o = s.regHdr p o := if_pos ho
  have hseen : s.seen port (0 : Fin 64) p o = s.regHdr p o := seen_header ho s port p
  cases p with
  | engine e => simp only [Nat.not_le.2 (show o < 0x800 by omega), if_false, hread]
  | _ => simp only [hseen, clearRc_header ho]

/-- Settles O56: the header register reads its constant. -/
theorem blockVersionReads : Obligations.BlockVersionReads := by
  unfold Obligations.BlockVersionReads
  intro k p port s hp hs
  refine ⟨_, rcRead_header hp hs (by decide) (by decide) (RegisterWrites.regAt_header (by decide) p), ?_⟩
  have hver : s.regHdr p 0x004 = 0x010000B0 := rfl
  rw [hver]
  decide

end Sys2Proof.BlockVersions

/-! Link-local flits, identity, roles and routes (R389-R399, R406; O38, O39). -/

namespace Sys2Proof.PeerLinks

open Sys2Proof Sys2Proof.Machine Sys2Proof.Laws

/-! ## What sending leaves of a link (R390, R397) -/

/-- A link differs from another in what sending changes: replay buffer, LSEQ, credits and wire. -/
def LinkKept (x y : Link) : Prop := ∃ replay lseq c0 c1 wire sent last,
  y = { x with replay := replay, txLseq := lseq, credit0 := c0, credit1 := c1, wire := wire, sent := sent, lastReplay := last }

/-- From s to t every link changes in what sending changes alone. -/
def LinksKept (s t : State) : Prop := ∀ n, LinkKept (s.link n) (t.link n)

theorem LinkKept.refl (x : Link) : LinkKept x x := ⟨_, _, _, _, _, _, _, rfl⟩

theorem LinkKept.trans {x y z : Link} (h : LinkKept x y) (h' : LinkKept y z) : LinkKept x z := by
  obtain ⟨_, _, _, _, _, _, _, rfl⟩ := h
  obtain ⟨_, _, _, _, _, _, _, rfl⟩ := h'
  exact ⟨_, _, _, _, _, _, _, rfl⟩

section Sending

variable {s t u : State}

theorem LinksKept.refl (s : State) : LinksKept s s := fun _ => .refl _

theorem LinksKept.trans (h : LinksKept s t) (h' : LinksKept t u) : LinksKept s u := fun n => (h n).trans (h' n)

theorem link_of_links (h : t.links = s.links) (n : Nat) : t.link n = s.link n := by rw [State.link, h, State.link]

theorem LinksKept.of_links (h : t.links = s.links) : LinksKept s t := fun n => by
  rw [link_of_links h]
  exact .refl _

theorem LinksKept.setLink {n : Nat} {x : Link} (h : LinkKept (s.link n) x) : LinksKept s (s.setLink n x) := fun m => by
  by_cases hm : m = n
  · subst hm
    rwa [setLink_link]
  · rw [setLink_link_other _ _ _ hm]
    exact .refl _

theorem wirePut_link (s : State) (n : Nat) (f : Flit) :
    (s.wirePut n f).link n = { s.link n with wire := (s.link n).wire ++ [f], sent := flitImage f } := setLink_link _ _ _

theorem wirePut_kept (s : State) (n : Nat) (f : Flit) : LinksKept s (s.wirePut n f) :=
  .trans (.of_links rfl) (.setLink (s := s.event (.link n) 1 1) ⟨_, _, _, _, _, _, _, rfl⟩)

theorem useCredit_kept (x : Link) (vc : Bool) : LinkKept x (x.useCredit vc) := by
  cases vc <;> exact ⟨_, _, _, _, _, _, _, rfl⟩

theorem addCredit_kept (x : Link) (vc : Bool) (k : Nat) : LinkKept x (x.addCredit vc k) := by
  cases vc <;> exact ⟨_, _, _, _, _, _, _, rfl⟩

theorem sendLink_kept (s : State) (n : Nat) (f : Flit) : LinksKept s (s.sendLink n f) :=
  .trans (.setLink (.trans (useCredit_kept _ _) ⟨_, _, _, _, _, _, _, rfl⟩)) (wirePut_kept _ _ _)

theorem sendLink_txLseq (s : State) (n : Nat) (f : Flit) : ((s.sendLink n f).link n).txLseq = (s.link n).txLseq + 1 := by
  rw [State.sendLink, wirePut_link, setLink_link]

theorem sendLink_credit (s : State) (n : Nat) (f : Flit) :
    ((s.sendLink n f).link n).credit f.hdr.vc = (s.link n).credit f.hdr.vc - 1 := by
  rw [State.sendLink, wirePut_link, setLink_link]
  cases f.hdr.vc <;> rfl

theorem sendLink_wire (s : State) (n : Nat) (f : Flit) :
    ((s.sendLink n f).link n).wire = (s.link n).wire ++ [{ f with hdr := { f.hdr with lseq := (s.link n).txLseq } }] := by
  rw [State.sendLink, wirePut_link, setLink_link]
  cases f.hdr.vc <;> rfl

/-- What a bundle sends it sends flit by flit, after a write of the bundle. -/
theorem pumpGo_induct {P : State → Prop} (hbundle : ∀ u b y, P u → P (u.setBundle b y)) (hsend : ∀ u n f, P u → P (u.sendLink n f))
    (b k : Nat) {s : State} (h : P s) : P (s.pumpGo b k) := by
  induction k generalizing s with
  | zero => exact h
  | succ k ih =>
    unfold State.pumpGo
    dsimp only
    split
    · exact ih (hsend _ _ _ (hbundle _ _ _ h))
    · split
      · exact ih (hsend _ _ _ (hbundle _ _ _ h))
      · exact h

theorem pump_kept (s : State) (b : Nat) : LinksKept s (s.pump b) :=
  pumpGo_induct (P := LinksKept s) (fun _ _ _ h => h.trans (.of_links rfl)) (fun u n f h => h.trans (sendLink_kept u n f)) b _ (.refl s)

theorem bundleSend_kept {b : Nat} {fwd : Bool} {f : Flit} (h : s.bundleSend b fwd f = some t) : LinksKept s t := by
  unfold State.bundleSend at h
  split at h
  · cases h
  · cases h
    exact .trans (.of_links rfl) (pump_kept _ b)

theorem sendOn_kept {fwd : Bool} {f : Flit} (h : s.sendOn fwd f = some t) : LinksKept s t := by
  unfold State.sendOn at h
  split at h
  · cases h
  · exact bundleSend_kept h

theorem reroute_kept (s : State) (n : Nat) (fs : List (Bool × Flit)) : LinksKept s (s.reroute n fs) := by
  refine List.foldlRecOn (motive := LinksKept s) fs _ (.refl s) fun u hu p _ => hu.trans ?_
  split
  · exact sendOn_kept ‹_›
  · exact .of_links ((State.dropFlit_within u n).eq_links rfl)

theorem linkLost_kept (s : State) (n : Nat) : LinksKept s (s.linkLost n) := by
  have hfreed : LinksKept s (s.setLink n { s.link n with replay := [], lastReplay := none }) := .setLink ⟨_, _, _, _, _, _, _, rfl⟩
  unfold State.linkLost
  refine .trans (.trans ?_ (pump_kept _ _)) (reroute_kept _ _ _)
  exact hfreed.trans (.of_links rfl)

/-- A link whose attempt ends is what the cause makes of it; the other links are as they were. -/
theorem linkStop_kept (s : State) (n : Nat) (st : LinkState) (cause : Nat) :
    LinksKept (s.setLink n { s.link n with
      st := st, downCause := cause, retrain := false, roleEff := 0, before := none, width := 0, lanes := 0 }) (s.linkStop n st cause) := by
  refine .trans (linkLost_kept _ n) (.of_links ?_)
  refine Within.eq_links (ps := [.hdrs, .dev, .mgmtW, .mgmtE, .msix, .freeCtr]) ?_ rfl
  have hraise : ∀ u : State, Within [.hdrs, .dev, .mgmtW, .mgmtE, .msix, .freeCtr] u (if st = .down then u.raise (.link n) irqDown else u) :=
    fun u => .ite ((State.raise_within _ _ _).mono (by decide)) (.refl _ _)
  exact .after (State.drawn_within _) rfl (.ite (.after (State.logErr_within _ _) rfl (hraise _)) (hraise _))

/-! ## Flits that a link sends again (R390) -/

/-- Flits handed to a link's wire stand behind those that it had. -/
theorem foldl_wirePut_link (n : Nat) (l : List Flit) (s : State) :
    ∃ sent, (l.foldl (fun t f => t.wirePut n f) s).link n = { s.link n with wire := (s.link n).wire ++ l, sent := sent } := by
  induction l generalizing s with
  | nil => exact ⟨(s.link n).sent, by simp⟩
  | cons f l ih =>
    obtain ⟨sent, hlink⟩ := ih (s.wirePut n f)
    refine ⟨sent, ?_⟩
    rw [List.foldl_cons, hlink, wirePut_link]
    simp

/-- Sending only adds to a replay buffer. -/
def Extended (n : Nat) (s t : State) : Prop := ∃ k, (t.link n).replay = (s.link n).replay ++ k

theorem sendLink_extended (n : Nat) (u : State) (m : Nat) (f : Flit) : Extended n u (u.sendLink m f) := by
  by_cases hm : n = m
  · subst hm
    refine ⟨[{ f with hdr := { f.hdr with lseq := (u.link n).txLseq } }], ?_⟩
    rw [State.sendLink, wirePut_link, setLink_link]
  · refine ⟨[], ?_⟩
    have hlink : (u.sendLink m f).link n = u.link n := (setLink_link_other _ _ _ hm).trans (setLink_link_other _ _ _ hm)
    rw [hlink, List.append_nil]

theorem pump_extended (n : Nat) (s : State) (b : Nat) : Extended n s (s.pump b) := by
  refine pumpGo_induct (P := Extended n s) (fun _ _ _ h => h) (fun u m f h => ?_) b _ ⟨[], (List.append_nil _).symm⟩
  obtain ⟨k, hk⟩ := h
  obtain ⟨k', hk'⟩ := sendLink_extended n u m f
  exact ⟨k ++ k', by rw [hk', hk, List.append_assoc]⟩

end Sending

/-! ## Link-local flits (R389, R390) -/

section LinkLocal

variable {n : Fin 64} {s : State}

/-- The flit has been counted. -/
def counted (s : State) (n : Nat) : State := s.event (.link n) 2 1

theorem counted_link (s : State) (n m : Nat) : (counted s n).link m = s.link m := rfl

theorem heard_of_hears (h : (s.link n).hears = true) (k : State → State) : s.heard n k = k (counted s n) := if_pos h

theorem ack_frees (h : (s.link n).hears = true) {lseq : BitVec 12} {l : List Flit} (hl : fromLseq lseq (s.link n).replay = some l) :
    ∃ t k, exec (.ack n lseq) s = .next t ∧ (t.link n).replay = l.tail ++ k := by
  have hexec : exec (.ack n lseq) s = .next (((counted s n).setLink n { s.link n with replay := l.tail }).pump (s.link n).bundleEff) := by
    refine congrArg Host.Outcome.next ((heard_of_hears h _).trans ?_)
    simp only [counted_link, hl]
  obtain ⟨k, hk⟩ := pump_extended n ((counted s n).setLink n { s.link n with replay := l.tail }) (s.link n).bundleEff
  exact ⟨_, k, hexec, by rw [hk, setLink_link]⟩

/-- The link is about to send k flits again. -/
def resending (s : State) (n : Nat) (last : Option (BitVec 12 × Nat)) (k : Nat) : State :=
  ((counted s n).setLink n { s.link n with lastReplay := last, replays := (s.link n).replays + BitVec.ofNat 64 k }).event (.link n) 3 k

theorem nak_resends (h : (s.link n).hears = true) {lseq : BitVec 12} {l : List Flit} (hl : fromLseq lseq (s.link n).replay = some l) :
    ∃ t, exec (.nak n lseq) s = .next t ∧ (t.link n).wire = (s.link n).wire ++ l ∧ (t.link n).replay = (s.link n).replay ∧
      (t.link n).replays = (s.link n).replays + BitVec.ofNat 64 l.length := by
  have hexec : ∃ last, exec (.nak n lseq) s = .next (l.foldl (fun t f => t.wirePut n f) (resending s n last l.length)) := by
    refine ⟨some (lseq, match (s.link n).lastReplay with | some (k, c) => if k = lseq then c + 1 else 1 | none => 1),
      congrArg Host.Outcome.next ((heard_of_hears h _).trans ?_)⟩
    simp only [counted_link, hl]
    rfl
  obtain ⟨last, hexec⟩ := hexec
  obtain ⟨sent, hlink⟩ := foldl_wirePut_link n l (resending s n last l.length)
  have hput : (resending s n last l.length).link n = _ := setLink_link _ _ _
  rw [hput] at hlink
  exact ⟨_, hexec, by rw [hlink], by rw [hlink], by rw [hlink]⟩

/-- The link has been granted credit. -/
def granted (s : State) (n : Nat) (vc : Bool) (count : Nat) : State := (counted s n).setLink n ((s.link n).addCredit vc count)

theorem credit_eq (h : (s.link n).hears = true) (vc : Bool) (count : Nat) :
    exec (.credit n vc count) s = .next ((granted s n vc count).pump (s.link n).bundleEff) :=
  congrArg Host.Outcome.next (heard_of_hears h _)

theorem granted_link (vc : Bool) (count : Nat) : (granted s n vc count).link n = (s.link n).addCredit vc count := setLink_link _ _ _

theorem granted_kept (s : State) (n : Nat) (vc : Bool) (count : Nat) : LinksKept s (granted s n vc count) :=
  .trans (.of_links rfl) (.setLink (s := counted s n) (addCredit_kept _ vc count))

theorem addCredit_credit (x : Link) (vc : Bool) (k : Nat) : (x.addCredit vc k).credit vc = x.credit vc + k := by cases vc <;> rfl

theorem addCredit_credit_other (x : Link) (vc : Bool) (k : Nat) : (x.addCredit vc k).credit (!vc) = x.credit (!vc) := by cases vc <;> rfl

/-- A bundle with nothing to send sends nothing. -/
theorem pump_of_empty {b : Nat} (hresend : (s.bundle b).resend = []) (htx : (s.bundle b).tx = []) : s.pump b = s := by
  rw [State.pump, hresend, htx]
  rfl

/-- Which links may carry a flit does not depend on what sending changes. -/
theorem bundleLinks_of_kept {t : State} (h : LinksKept s t) (hdev : t.dev = s.dev) (b : Nat) (f : Flit) :
    t.bundleLinks b f = s.bundleLinks b f := by
  refine List.filter_congr fun m _ => ?_
  obtain ⟨_, _, _, _, _, _, _, hlink⟩ := h m
  simp only [State.linkCarries, hlink, hdev]
  rfl

/-- The one flit of a bundle leaves on the one link that may carry it and has credit and room. -/
theorem linkFor_only {b : Nat} {f : Flit} (hlinks : s.bundleLinks b f = [n.val]) (hcredit : 0 < (s.link n).credit f.hdr.vc)
    (hroom : (s.link n).replay.length < 512) : s.linkFor b f = some n.val := by
  have hok : ([n.val].filter fun m => (s.link m).credit f.hdr.vc != 0 && decide ((s.link m).replay.length < 512)) = [n.val] := by
    simp [hroom, Nat.ne_of_gt hcredit]
  rw [State.linkFor, hlinks, hok]
  rfl

theorem sendable_only {b m : Nat} {f : Flit} (h : s.linkFor b f = some m) : s.sendable b [f] = some (f, m) := by
  simp [State.sendable, firstOfVc, h]

/-- The bundle after its one flit has left. -/
def emptied (y : Bundle) (fwd : Bool) : Bundle := { y with resend := [], tx := [], lastFwd := fwd, txBsn := y.txBsn + 1 }

theorem pump_of_only {b m : Nat} {f : Flit} {fwd : Bool} (hresend : (s.bundle b).resend = []) (htx : (s.bundle b).tx = [(fwd, f)])
    (hlink : s.linkFor b f = some m) :
    s.pump b = (s.setBundle b (emptied (s.bundle b) fwd)).sendLink m { f with hdr := { f.hdr with bsn := (s.bundle b).txBsn } } := by
  have hnone : ∀ fwd' : Bool, fwd' ≠ fwd →
      ((s.sendable b (([(fwd, f)].filter fun p => p.1 == fwd').map Prod.snd)).map fun p => (fwd', p)) = none :=
    fun fwd' hne => by simp [State.sendable, firstOfVc, hne.symm]
  have hsome : ((s.sendable b (([(fwd, f)].filter fun p => p.1 == fwd).map Prod.snd)).map fun p => (fwd, p)) = some (fwd, f, m) := by
    simp [sendable_only hlink]
  have hnothing : s.sendable b [] = none := rfl
  have herase : [(fwd, f)].erase (fwd, f) = [] := List.erase_cons_head _ _
  rw [State.pump, hresend, htx]
  simp only [List.length_nil, List.length_cons, Nat.zero_add, State.pumpGo, hresend, hnothing, htx]
  by_cases hlast : (!(s.bundle b).lastFwd) = fwd
  · rw [hlast, hsome]
    simp only [Option.orElse, herase]
    rfl
  · have hlast' : (s.bundle b).lastFwd = fwd := by simpa using hlast
    rw [hnone _ hlast, hlast', hsome]
    simp only [Option.orElse, herase]
    rfl

/-- CREDIT lets the one flit that waits in the bundle out. -/
theorem credit_sends (h : (s.link n).hears = true) {f : Flit} {fwd : Bool} {count : Nat}
    (hresend : (s.bundle (s.link n).bundleEff).resend = []) (htx : (s.bundle (s.link n).bundleEff).tx = [(fwd, f)])
    (hlinks : s.bundleLinks (s.link n).bundleEff f = [n.val]) (hroom : (s.link n).replay.length < 512) (hcount : 0 < count) :
    exec (.credit n f.hdr.vc count) s =
      .next (((granted s n f.hdr.vc count).setBundle (s.link n).bundleEff (emptied (s.bundle (s.link n).bundleEff) fwd)).sendLink n
        { f with hdr := { f.hdr with bsn := (s.bundle (s.link n).bundleEff).txBsn } }) := by
  have hkept := granted_kept s n f.hdr.vc count
  have hreplay : ((granted s n f.hdr.vc count).link n).replay = (s.link n).replay := by
    rw [granted_link]
    cases f.hdr.vc <;> rfl
  have hfor : (granted s n f.hdr.vc count).linkFor (s.link n).bundleEff f = some n.val :=
    linkFor_only ((bundleLinks_of_kept hkept rfl _ f).trans hlinks) (by rw [granted_link, addCredit_credit]; omega) (by rwa [hreplay])
  rw [credit_eq h, pump_of_only (s := granted s n f.hdr.vc count) (b := (s.link n).bundleEff) hresend htx hfor]
  rfl

/-- A flit that fails its check is answered with a NAK. -/
theorem flitCrcFail_naks (h : (s.link n).hears = true) : ∃ t, exec (.flitCrcFail n) s = .next t ∧
    (t.link n).wire = (s.link n).wire ++ [localFlit tyNak false (s.link n).rxLseq []] ∧ (t.link n).rxLseq = (s.link n).rxLseq := by
  refine ⟨_, congrArg Host.Outcome.next (if_pos h), ?_⟩
  rw [wirePut_link]
  have hlink : ∀ (u : State) (x : Link), ((u.setLink n x).drawn.link n) = x := fun u x => setLink_link _ _ _
  rw [hlink]
  exact ⟨rfl, rfl⟩

end LinkLocal

/-- Settles O39: each flit that is heard is one write of its link, and CREDIT and ACK let the bundle send. -/
theorem linkLocalFlits : Obligations.LinkLocalFlits := by
  unfold Obligations.LinkLocalFlits
  intro n s x hears
  refine ⟨fun lseq l hl => ack_frees hears hl, fun lseq l hl => nak_resends hears hl, fun vc count hresend htx => ?grants,
    fun f fwd count hresend htx hlinks hroom hcount => ?sends, ?idle, fun p => ?mgmt, flitCrcFail_naks hears⟩
  case grants =>
    refine ⟨_, credit_eq hears vc count, ?_⟩
    rw [pump_of_empty (s := granted s n vc count) hresend htx, granted_link]
    exact ⟨addCredit_credit _ _ _, addCredit_credit_other _ _ _⟩
  case sends =>
    refine ⟨_, credit_sends hears hresend htx hlinks hroom hcount, ?_⟩
    have hbundle : ∀ (u : State) m f b, (u.sendLink m f).bundle b = u.bundle b := fun _ _ _ _ => rfl
    have hlink : ∀ b z, ((granted s n f.hdr.vc count).setBundle b z).link n = x.addCredit f.hdr.vc count := fun b z => granted_link _ _
    have haddLseq : (x.addCredit f.hdr.vc count).txLseq = x.txLseq := by cases f.hdr.vc <;> rfl
    have haddWire : (x.addCredit f.hdr.vc count).wire = x.wire := by cases f.hdr.vc <;> rfl
    rw [hbundle, setBundle_bundle, sendLink_txLseq, sendLink_credit, sendLink_wire, hlink, haddLseq, haddWire, addCredit_credit]
    exact ⟨rfl, rfl, rfl, rfl, rfl⟩
  case idle => exact congrArg Host.Outcome.next (heard_of_hears hears _)
  case mgmt => exact congrArg Host.Outcome.next (heard_of_hears hears _)

/-! ## Identity and roles (R392-R396, R406) -/

section Identity

variable {n : Fin 64} {s : State}

/-- The link has the partner's nonce. -/
def withNonce (s : State) (n : Nat) (b : Bytes) : State := s.setLink n { s.link n with nonceIn := b }

/-- A nonce is kept and answered with this device's identity block. -/
theorem nonce_answers (h : (s.link n).st = .ident) (b : Bytes) : ∃ t, exec (.ident n (.nonce b)) s = .next t ∧
    (t.link n).nonceIn = b ∧ (t.link n).st = .ident ∧
    (t.link n).wire = (s.link n).wire ++ identPieces ((withNonce s n b).identBlock n).2 := by
  obtain ⟨sent, hlink⟩ := foldl_wirePut_link n (identPieces ((withNonce (counted s n) n b).identBlock n).2)
    ((withNonce (counted s n) n b).identBlock n).1
  have hput : ((withNonce (counted s n) n b).identBlock n).1.link n = { s.link n with nonceIn := b } := setLink_link _ _ _
  rw [hput] at hlink
  refine ⟨_, if_neg (not_not.2 h), ?_⟩
  exact ⟨(congrArg Link.nonceIn hlink).trans rfl, (congrArg Link.st hlink).trans h, (congrArg Link.wire hlink).trans rfl⟩

/-- A block that does not verify makes the link UNTRUSTED. -/
theorem block_untrusted (h : (s.link n).st = .ident) {b : Bytes} (hno : identOk (s.link n).nonceOut b = false) (pver : Word32) :
    ∃ t, exec (.ident n (.block b pver)) s = .next t ∧ (t.link n).st = .untrusted ∧ (t.link n).downCause = 6 := by
  have hexec : exec (.ident n (.block b pver)) s = .next ((counted s n).linkStop n .untrusted 6) :=
    (if_neg (not_not.2 h)).trans (if_neg (Bool.eq_false_iff.1 hno))
  obtain ⟨_, _, _, _, _, _, _, hlink⟩ := linkStop_kept (counted s n) n .untrusted 6 n
  rw [setLink_link] at hlink
  exact ⟨_, hexec, by rw [hlink], by rw [hlink]⟩

/-- A block that verifies, with a common version, leaves a link that was not ACTIVE before FOUND. -/
theorem block_found (h : (s.link n).st = .ident) {b : Bytes} (hok : identOk (s.link n).nonceOut b = true) {pver : Word32}
    (hv : min (topVersion pverSup) (topVersion pver.toNat) ≠ 0)
    (hmine : bit pverSup (min (topVersion pverSup) (topVersion pver.toNat)) = true)
    (hpartner : bit pver.toNat (min (topVersion pverSup) (topVersion pver.toNat)) = true) (hbefore : (s.link n).before = none) :
    ∃ t, exec (.ident n (.block b pver)) s = .next t ∧ (t.link n).st = .found ∧
      (t.link n).pver = min (topVersion pverSup) (topVersion pver.toNat) ∧ (t.link n).partnerFp = fp64 ((b.drop 8).take 2592) := by
  have hexec : exec (.ident n (.block b pver)) s = .next ((counted s n).identTaken n b pver.toNat) :=
    (if_neg (not_not.2 h)).trans (if_pos hok)
  refine ⟨_, hexec, ?_⟩
  have hwritten : (((counted s n).devWrite 0 ((counted s n).link n).idBuf.toNat b).1).link n = s.link n :=
    link_of_links ((State.devWrite_within _ _ _ _).eq_links rfl) n
  have hraised : ∀ u : State, ∀ x, ((u.setLink n x).raise (.link n) irqFound).link n = x := fun u x =>
    (link_of_links ((State.raise_within _ _ _).eq_links rfl) n).trans (setLink_link u n x)
  simp only [State.identTaken, hwritten, hv, hmine, hpartner, hbefore, Bool.not_true, Bool.false_eq_true, or_self, if_false,
    setLink_link, hraised]
  exact ⟨trivial, trivial, trivial⟩

/-- The links that a bundle has besides a link do not depend on that link. -/
theorem bundleOthers_setLink (s : State) (n b : Nat) (x : Link) : (s.setLink n x).bundleOthers n b = s.bundleOthers n b := by
  refine List.filter_congr fun m _ => ?_
  by_cases hm : m = n
  · simp [hm]
  · rw [setLink_link_other _ _ _ hm]

theorem bundleClash_setLink {x : Link} (hfp : x.partnerFp = (s.link n).partnerFp) (b : Nat) :
    (s.setLink n x).bundleClash n b = s.bundleClash n b := by
  have hany : ((s.bundleOthers n b).any fun m => ((s.setLink n x).link m).partnerFp != x.partnerFp) =
      (s.bundleOthers n b).any fun m => (s.link m).partnerFp != (s.link n).partnerFp := by
    rw [Bool.eq_iff_iff, List.any_eq_true, List.any_eq_true]
    refine exists_congr fun m => and_congr_right fun hm => ?_
    have hne : m ≠ n.val := by
      obtain ⟨-, hm⟩ := List.mem_filter.1 hm
      simp only [Bool.and_eq_true, bne_iff_ne] at hm
      exact hm.1.1
    rw [setLink_link_other _ _ _ hne, hfp]
  rw [State.bundleClash, State.bundleClash, bundleOthers_setLink, setLink_link, hany]

/-- The link after a write of LINK.CTL's stored fields. -/
def configured (x : Link) (v : Nat) : Link := { x with minw := fld v 0 3, bundle := fld v 16 4, en := bit v 31 }

/-- The link with a role in its bundle. -/
def assigned (x : Link) (role : Nat) : Link := { x with st := .active, roleEff := role, bundleEff := x.bundle }

/-- A role makes a FOUND link ACTIVE in its bundle. -/
theorem role_activates {val : Word32} (htakes : s.takes (.link n) = true) (hholder : s.geode.holder ≠ none) (hst : (s.link n).st = .found)
    (hen : bit val.toNat 31 = true) (hretrain : bit val.toNat 30 = false) (hminw : fld val.toNat 0 3 ∈ [1, 2, 4])
    (hrole : fld val.toNat 8 2 = 1 ∨ fld val.toNat 8 2 = 2) (hclash : s.bundleClash n (fld val.toNat 16 4) = false) :
    ∃ t, exec (.linkRoleWrite n val) s = .next t ∧ (t.link n).st = .active ∧ (t.link n).roleEff = fld val.toNat 8 2 ∧
      (t.link n).bundleEff = fld val.toNat 16 4 := by
  refine ⟨_, congrArg Host.Outcome.next (ChainDrip.gate_takes htakes _), ?_⟩
  have hok : ¬ (fld val.toNat 8 2 = 3 ∨ (fld val.toNat 0 3 ≠ 1 ∧ fld val.toNat 0 3 ≠ 2 ∧ fld val.toNat 0 3 ≠ 4)) := by
    simp only [List.mem_cons, List.not_mem_nil, or_false] at hminw
    omega
  have hrole0 : fld val.toNat 8 2 ≠ 0 := by omega
  let u := s.setLink n (configured (s.link n) val.toNat)
  have hclash' : u.bundleClash n (fld val.toNat 16 4) = false :=
    (bundleClash_setLink (x := configured (s.link n) val.toNat) rfl _).trans hclash
  have hlink : u.link n = configured (s.link n) val.toNat := setLink_link _ _ _
  have hrolePut : u.rolePut n (fld val.toNat 8 2) =
      (u.setLink n (assigned (u.link n) (fld val.toNat 8 2))).pump (fld val.toNat 16 4) := by
    simp [State.rolePut, hlink, configured, hst, hrole0, hclash', assigned]
  have hput : s.linkCtlPut n val.toNat = u.rolePut n (fld val.toNat 8 2) := by
    simp [State.linkCtlPut, if_neg hok, hst, hen, hretrain, hholder, u, configured]
  obtain ⟨_, _, _, _, _, _, _, hsent⟩ :=
    pump_kept (u.setLink n (assigned (u.link n) (fld val.toNat 8 2))) (fld val.toNat 16 4) n
  rw [hput, hrolePut, hsent, setLink_link, hlink]
  exact ⟨rfl, rfl, rfl⟩

end Identity

/-! ## The route store and the device ID (R398, R399) -/

section Routes

variable {s : State}

/-- GO loads a table whose entries pass. -/
theorem routeSet_loads {val : Word32} {s1 : State} {b : Bytes} {tbl : Tbl Route} (htakes : s.takes .dev = true)
    (hgo : bit val.toNat 0 = true) (hfree : s.dev.routeNew = none) (hid : s.dev.ownId.isSome = true)
    (hread : s.devRead 0 s.dev.routeBase.toNat 32768 = (s1, .ok b)) (htbl : s1.routesFrom 0 (eltsOf 8 4096 b) = some tbl) :
    exec (.routeSet val) s = .next { s1 with dev := { s1.dev with routeRefused := false, routeNew := some tbl } } := by
  refine congrArg Host.Outcome.next ((ChainDrip.gate_takes htakes _).trans ?_)
  simp [State.routeSetPut, hgo, hfree, Option.isSome_iff_ne_none.1 hid, hread, htbl]

end Routes

/-- Settles O38: each command's answer is a write of the link or of the device's route fields, and sending keeps the rest of a link. -/
theorem linkIdentityAndRoutes : Obligations.LinkIdentityAndRoutes := by
  unfold Obligations.LinkIdentityAndRoutes
  refine ⟨fun n s => ⟨fun b hst => ?nonce, fun b pver hst hno => block_untrusted hst hno pver,
    fun b pver hst hok hv hmine hpartner hbefore => block_found hst hok hv hmine hpartner hbefore,
    fun val htakes hholder hst hen hretrain hminw hrole hclash => role_activates htakes hholder hst hen hretrain hminw hrole hclash⟩,
    fun val s s1 => ⟨fun b tbl htakes hgo hfree hid hread htbl => ?routes, fun tbl hnew => ?complete, fun htakes hinactive => ?devId⟩⟩
  case nonce =>
    obtain ⟨t, hexec, hnonce, hident, hwire⟩ := nonce_answers hst b
    exact ⟨t, _, hexec, hnonce, hident, hwire, rfl⟩
  case routes =>
    have hroutes : s1.dev.routes = s.dev.routes := by
      have hwithin := (State.devRead_within s 0 s.dev.routeBase.toNat 32768).eq_dev rfl
      rw [hread] at hwithin
      exact congrArg Dev.routes hwithin
    exact ⟨_, routeSet_loads htakes hgo hfree hid hread htbl, rfl, hroutes, rfl⟩
  case complete =>
    refine ⟨{ s with dev := { s.dev with routes := tbl, routeNew := none } }, ?_, rfl, rfl⟩
    simp only [exec, execRouteSetComplete, hnew]
  case devId =>
    have hnone : ((List.range 64).any fun n => (s.link n).st == .active) = false := by
      simpa using hinactive
    exact congrArg Host.Outcome.next ((ChainDrip.gate_takes htakes _).trans (if_neg (by rw [hnone]; exact Bool.false_ne_true)))

end Sys2Proof.PeerLinks

/-! EN, HALT and PSTATE of a page across the work of other units (R24, R283-R295, R337-R349, R390, R466, R479; O49, O50). -/

namespace Sys2Proof.HeaderControl

open Sys2Proof Sys2Proof.Machine Sys2Proof.Laws

/-- What of a header only writes of BLK_CTL and the transitions of a block change (R466, R467, R477). -/
def control (h : Hdr) : Pstate × Bool × Bool := (h.pstate, h.en, h.halt)

/-- From s to t no page's EN, HALT or PSTATE changes. -/
def ControlKept (s t : State) : Prop := ∀ p : Page, control (t.hdr p) = control (s.hdr p)

section Headers

variable {s t u : State}

theorem ControlKept.refl (s : State) : ControlKept s s := fun _ => rfl

theorem ControlKept.trans (h : ControlKept s t) (h' : ControlKept t u) : ControlKept s u := fun p => (h' p).trans (h p)

theorem ControlKept.of_hdrs (h : t.hdrs = s.hdrs) : ControlKept s t := fun p => by rw [State.hdr, h, State.hdr]

theorem ControlKept.of_within {ps : List Part} (h : Within ps s t) (hps : ps.contains .hdrs = false) : ControlKept s t :=
  .of_hdrs (h.eq_hdrs hps)

theorem ControlKept.ite {c : Prop} [Decidable c] (h : ControlKept s t) (h' : ControlKept s u) : ControlKept s (if c then t else u) := by
  split
  · exact h
  · exact h'

theorem ControlKept.foldl {α : Type} {f : State → α → State} (hf : ∀ v a, ControlKept v (f v a)) (l : List α) (s : State) :
    ControlKept s (l.foldl f s) :=
  List.foldlRecOn (motive := ControlKept s) l f (.refl s) fun v hv a _ => hv.trans (hf v a)

theorem ControlKept.setHdr {p : Page} {h : Hdr} (hh : control h = control (s.hdr p)) : ControlKept s (s.setHdr p h) := fun q => by
  by_cases hq : q.key = p.key
  · have hhdr : ∀ v : State, v.hdr q = v.hdr p := fun v => by rw [State.hdr, hq, State.hdr]
    rw [hhdr, hhdr, setHdr_hdr, hh]
  · rw [setHdr_hdr_other _ _ _ hq]

theorem drawn_control (s : State) : ControlKept s s.drawn := .of_hdrs rfl

theorem event_control (s : State) (p : Page) (ev n : Nat) : ControlKept s (s.event p ev n) := .setHdr rfl

theorem countErrs_control (s : State) (p : Page) (n : Nat) : ControlKept s (s.countErrs p n) := .setHdr rfl

theorem putHdr_hdrs (s : State) (p : Page) (h : Hdr) : (s.putHdr p h).hdrs = (s.setHdr p h).hdrs :=
  List.foldlRecOn (motive := fun t : State => t.hdrs = (s.setHdr p h).hdrs) (p.irqTo s) _ rfl fun v hv q _ => by
    split
    · exact hv
    · exact hv

theorem putHdr_control {p : Page} {h : Hdr} (hh : control h = control (s.hdr p)) : ControlKept s (s.putHdr p h) :=
  .trans (.setHdr hh) (.of_hdrs (putHdr_hdrs s p h))

theorem raise_control (s : State) (p : Page) (b : Nat) : ControlKept s (s.raise p b) := putHdr_control rfl

theorem recordErr_control (s : State) (p : Page) (code : Code) (detail : Nat) : ControlKept s (s.recordErr p code detail) :=
  .ite (.setHdr rfl) (putHdr_control rfl)

theorem refuse_control (s : State) (p : Page) (c : Code) : ControlKept s (s.refuse p c) :=
  .trans (recordErr_control s p c _) (.of_hdrs rfl)

/-! ## Memory accesses (R268, R283-R295) -/

theorem foundUe_control (s : State) (a : Nat) : ControlKept s (s.foundUe a) := .trans (.of_hdrs rfl) (event_control _ _ _ _)

theorem hbmTraffic_control (s : State) (a ev k : Nat) : ControlKept s (s.hbmTraffic a ev k) :=
  .trans (event_control _ _ _ _) (event_control _ _ _ _)

theorem restoreShadow_control (s : State) (a : Nat) (sh : List (Nat × Bytes × Bool)) : ControlKept s (s.restoreShadow a sh) :=
  .of_within (State.restoreShadow_within s a sh) rfl

theorem missEvents_control (s : State) (hint a lo n : Nat) (write : Bool) : ControlKept s (s.missEvents hint a lo n write) := by
  have hreads : ∀ (u : State) (l : List Nat), ControlKept u (l.foldl (fun s p => s.foundUe (a + 64 * p)) u) := fun u l =>
    .foldl (fun v p => foundUe_control v _) l u
  unfold State.missEvents
  dsimp only
  split
  · exact .trans (.trans (.trans (hbmTraffic_control _ _ _ _) (hreads _ _)) (hbmTraffic_control _ _ _ _)) (event_control _ _ _ _)
  · exact .trans (hbmTraffic_control _ _ _ _) (hreads _ _)

theorem wroteBack_control (s : State) (l : Line) : ControlKept s (s.wroteBack l) :=
  .ite (.refl s) (.trans (event_control _ _ _ _) (hbmTraffic_control _ _ _ _))

theorem evicted_control (s : State) (v : Option Line) : ControlKept s (s.evicted v) := by
  cases v with
  | none => exact .refl s
  | some l => exact .ite (restoreShadow_control _ _ _) (.trans (wroteBack_control _ _) (restoreShadow_control _ _ _))

theorem flowLine_control (s : State) (hint a lo n : Nat) (write : Bool) : ControlKept s (s.flowLine hint a lo n write) := by
  have hset : ∀ (u : State) c f, ControlKept u (u.setFlow c f) := fun _ _ _ => .of_hdrs rfl
  unfold State.flowLine
  dsimp only
  refine .trans (event_control s (.flow (stackOf a / 2)) (if write then (if ((s.flow (stackOf a / 2)).line a).isSome then 3 else 4)
    else if ((s.flow (stackOf a / 2)).line a).isSome then 1 else 2) 1) ?_
  refine .ite (.ite (hset _ _ _) (.ite (.ite (.refl _) (.ite ?lastRead (.refl _))) ?touch))
    (.ite (.refl _) (.trans (missEvents_control _ _ _ _ _ _) (.ite ?alloc (.refl _))))
  case lastRead => exact .trans (.trans (hset _ _ _) (restoreShadow_control _ _ _)) (event_control _ _ _ _)
  case touch => exact .trans (hset _ _ _) (event_control _ _ _ _)
  case alloc => exact .trans (.trans (hset _ _ _) (evicted_control _ _)) (event_control _ _ _ _)

theorem flowRun_control (s : State) (hint a n : Nat) (write : Bool) : ControlKept s (s.flowRun hint a n write) :=
  .foldl (fun u l => flowLine_control u hint l a n write) _ s

theorem serveUe_control (s : State) (hint a n : Nat) : ControlKept s (s.serveUe hint a n) :=
  .ite (.trans (flowRun_control _ _ _ _ _) (foundUe_control _ _))
    (.trans (flowRun_control _ _ _ _ _) (.foldl (fun _ _ => event_control _ _ _ _) _ _))

theorem devRead_control (s : State) (hint a n : Nat) : ControlKept s (s.devRead hint a n).1 := by
  unfold State.devRead
  split
  · exact .refl s
  · split
    · dsimp only
      split
      · exact serveUe_control s hint a n
      · exact flowRun_control s hint a n false
    · exact .refl s

theorem noteWatch_control (s : State) (by_ : Option Nat) (a n : Nat) : ControlKept s (s.noteWatch by_ a n) :=
  .of_within (State.noteWatch_within s by_ a n) rfl

theorem devWrite_control (s : State) (hint a : Nat) (bs : Bytes) : ControlKept s (s.devWrite hint a bs).1 := by
  unfold State.devWrite State.devWriteBy
  dsimp only
  split
  · exact .refl s
  · split
    · exact .refl s
    · split
      · split
        · exact foundUe_control s a
        · exact .trans (flowRun_control s hint a bs.length true) (.of_hdrs rfl)
      · exact .trans (.of_hdrs rfl) (noteWatch_control _ _ _ _)

/-! ## Message endpoints (R337-R349) -/

theorem setMsg_control (s : State) (ep : Nat) (m : Msg) : ControlKept s (s.setMsg ep m) := .of_hdrs rfl

theorem ringPut_control {base size off : Nat} {hdr : Word64} {payload : Bytes} (h : s.ringPut base size hdr payload = some (t, off)) :
    ControlKept s t := by
  unfold State.ringPut at h
  dsimp only at h
  split at h
  · cases h
  · cases h
    refine .trans (.trans (.trans ?_ (devWrite_control _ 0 _ _)) (drawn_control _)) (devWrite_control _ 0 base _)
    exact .ite (devWrite_control _ _ _ _) (.refl _)

theorem epToken_control {ep : Nat} {q13 : Bool} {k : Token} (h : s.epToken ep q13 k = some t) : ControlKept s t :=
  .of_within (State.epToken_within h) rfl

theorem msgPop_control (s : State) (ep q : Nat) : ControlKept s (s.msgPop ep q) := .of_within (State.msgPop_within s ep q) rfl

theorem epToken_msgPop_control (s : State) (ep q : Nat) (q13 : Bool) (k : Token) :
    ControlKept s (match s.epToken ep q13 k with | some v => v.msgPop ep q | none => s) := by
  split
  · exact (epToken_control ‹_›).trans (msgPop_control _ ep q)
  · exact .refl s

theorem moveHead_control (s : State) (ep q : Nat) : ControlKept s (s.moveHead ep q) := by
  unfold State.moveHead
  dsimp only
  split
  · exact .refl s
  · split
    · exact .refl s
    · split
      · exact epToken_msgPop_control s ep q _ _
      · split
        · exact .trans (setMsg_control _ _ _) (msgPop_control _ ep q)
        · split
          · exact .refl s
          · next hput => exact .trans (ringPut_control hput) (.trans (setMsg_control _ _ _) (epToken_msgPop_control _ ep q _ _))

theorem moveQueue_control (s : State) (ep q : Nat) : ControlKept s (s.moveQueue ep q) :=
  .ite (.foldl (fun u _ => moveHead_control u ep q) _ s) (.refl s)

theorem enqueue_control (s : State) (ep dst q h handler : Nat) (payload : Bytes) : ControlKept s (s.enqueue ep dst q h handler payload) := by
  have hput : ∀ (v : State) (m : Msg), ControlKept v ((v.setMsg dst m).moveQueue dst q) := fun v m =>
    .trans (setMsg_control _ _ _) (moveQueue_control _ dst q)
  unfold State.enqueue
  dsimp only
  split
  · split
    · next hring =>
      obtain ⟨base, -, hring⟩ := Option.bind_eq_some_iff.1 hring
      exact (ringPut_control hring).trans (hput _ _)
    · exact .refl s
  · exact hput s _

theorem deliverReply_control (s : State) (ep dst c h : Nat) (payload : Bytes) : ControlKept s (s.deliverReply ep dst c h payload) := by
  unfold State.deliverReply
  dsimp only
  split
  · exact .refl s
  · exact .ite (setMsg_control _ _ _) (.trans (setMsg_control _ _ _) (enqueue_control _ _ _ _ _ _ _))

theorem dropMessages_control (s : State) (ep : Nat) : ControlKept s (s.dropMessages ep) := by
  unfold State.dropMessages
  dsimp only
  refine .trans (.trans (setMsg_control s ep _) (countErrs_control _ (.msg ep) _)) (.foldl (fun u c => .foldl (fun v x => ?_) _ u) _ _)
  exact .ite (.trans (deliverReply_control _ _ _ _ _ _) (drawn_control _)) (.refl v)

theorem resetEndpoint_control (s : State) (ep : Nat) : ControlKept s (s.resetEndpoint ep) :=
  .trans (dropMessages_control s ep) (setMsg_control _ _ _)

theorem syncRings_control (s : State) (ep : Nat) : ControlKept s (s.syncRings ep) := by
  unfold State.syncRings
  dsimp only
  split
  · exact .refl s
  · refine .trans (setMsg_control _ _ _) (.foldl (fun u q => ?_) _ _)
    split
    · split
      · exact devWrite_control _ _ _ _
      · exact .refl u
    · exact .refl u

theorem dropAsm_control (s : State) (g : Nat) : ControlKept s (s.dropAsm g) := .of_within (State.dropAsm_within s g) rfl

/-! ## Engines and the journal (R24, R265, R376) -/

theorem resetEngine_control (s : State) (e : Nat) : ControlKept s (s.resetEngine e) :=
  .trans (countErrs_control s (.engine e) (s.crossing e)) (.of_hdrs rfl)

theorem resetUnit_control (s : State) (e : Nat) : ControlKept s (s.resetUnit e) :=
  .trans (resetEndpoint_control s _) (resetEngine_control _ e)

theorem readSlot_control (s : State) (n : Nat) : ControlKept s (s.readSlot n).1 := by
  have ha : ∀ u : State, ControlKept u (if s.journal.lostA then (u, Except.error Code.eccUncorrectable)
      else u.devRead 0 (s.journal.copyDpa false n) 512).1 := fun u => by
    split
    · exact .refl u
    · exact devRead_control _ _ _ _
  have hb : ∀ u : State, ControlKept u (if s.journal.lostB then (u, Except.error Code.eccUncorrectable)
      else u.devRead 0 (s.journal.copyDpa true n) 512).1 := fun u => by
    split
    · exact .refl u
    · exact devRead_control _ _ _ _
  have hmend : ∀ (u : State) (c : Bool) a x, ControlKept u (if c then u else ((u.devWrite 0 a x).1.event .journal 8 1)) := fun u c a x =>
    .ite (.refl u) (.trans (devWrite_control _ _ _ _) (event_control _ _ _ _))
  unfold State.readSlot
  dsimp only
  split
  · split
    · exact .trans (ha s) (hb _)
    · exact .trans (ha s) (hb _)
  · exact .trans (.trans (ha s) (hb _)) (hmend _ _ _ _)
  · exact .trans (.trans (ha s) (hb _)) (hmend _ _ _ _)
  · exact .trans (ha s) (hb _)

/-! ## Links (R390, R405) -/

theorem wirePut_control (s : State) (n : Nat) (f : Flit) : ControlKept s (s.wirePut n f) := .trans (event_control _ _ _ _) (.of_hdrs rfl)

theorem sendLink_control (s : State) (n : Nat) (f : Flit) : ControlKept s (s.sendLink n f) := .trans (.of_hdrs rfl) (wirePut_control _ _ _)

theorem pump_control (s : State) (b : Nat) : ControlKept s (s.pump b) :=
  PeerLinks.pumpGo_induct (P := ControlKept s) (fun _ _ _ h => h.trans (.of_hdrs rfl)) (fun u n f h => h.trans (sendLink_control u n f)) b _
    (.refl s)

theorem sendOn_control {fwd : Bool} {f : Flit} (h : s.sendOn fwd f = some t) : ControlKept s t := by
  unfold State.sendOn at h
  split at h
  · cases h
  · unfold State.bundleSend at h
    split at h
    · cases h
    · cases h
      exact .trans (.of_hdrs rfl) (pump_control _ _)

theorem dropFlit_control (s : State) (n : Nat) : ControlKept s (s.dropFlit n) :=
  .trans (event_control _ _ _ _) (.of_within (State.freeErr_within _ _ _) rfl)

theorem linkLost_control (s : State) (n : Nat) : ControlKept s (s.linkLost n) := by
  unfold State.linkLost
  refine .trans (.trans ?_ (pump_control _ _)) (.foldl (fun u p => ?_) _ _)
  · exact .of_hdrs rfl
  · split
    · exact sendOn_control ‹_›
    · exact dropFlit_control u n

theorem linkStop_control (s : State) (n : Nat) (st : LinkState) (cause : Nat) : ControlKept s (s.linkStop n st cause) := by
  have hlog : ∀ (u : State) r, ControlKept u (u.logErr r) := fun u r => .of_within (State.logErr_within u r) rfl
  have hraise : ∀ u : State, ControlKept u (if st = .down then u.raise (.link n) irqDown else u) := fun u => .ite (raise_control _ _ _) (.refl u)
  unfold State.linkStop
  dsimp only
  refine .trans (.trans (.trans ?_ (linkLost_control _ n)) (hraise _)) (.trans (.ite (hlog _ _) (.refl _)) (.of_hdrs rfl))
  exact .of_hdrs rfl

theorem train_control (s : State) (n : Nat) (cause : Option Nat) : ControlKept s (s.train n cause) := .of_within (State.train_within s n cause) rfl

end Headers

end Sys2Proof.HeaderControl

/-! Resets of engines and of the runs of commands (R24, R265, R374, R411, R428; O42, O49). -/

namespace Sys2Proof.EngineResets

open Sys2Proof Sys2Proof.Machine Sys2Proof.Laws Sys2Proof.InstantsDispatch Sys2Proof.HeaderControl

variable {s t u : State} {e : Nat}

/-! ## The engine that is reset, and the others -/

theorem resetEndpoint_onlyTokens (e : Nat) (s : State) (ep : Nat) : OnlyTokens e s (s.resetEndpoint ep) :=
  (dropMessages_onlyTokens e s ep).trans (.of_eng (setMsg_eng _ _ _ _))

theorem resetEngine_eng_other {d : Nat} (h : e ≠ d) (s : State) : (s.resetEngine d).eng e = s.eng e := setEng_eng_other _ _ _ h

theorem resetEngine_eng (s : State) (e : Nat) : (s.resetEngine e).eng e =
    { sinceTest := (s.eng e).sinceTest, corrBase := (s.eng e).corrBase, inReset := (s.eng e).inReset } := setEng_eng _ _ _

theorem resetUnit_onlyTokens {d : Nat} (h : e ≠ d) (s : State) : OnlyTokens e s (s.resetUnit d) :=
  (resetEndpoint_onlyTokens e s _).trans (.of_eng (resetEngine_eng_other h _))

theorem slot_of_onlyTokens (h : OnlyTokens e s t) : (t.eng e).slot = (s.eng e).slot := by
  obtain ⟨_, h⟩ := h
  rw [h]

/-- A reset engine is IDLE, runs nothing, and is held in reset if it was. -/
theorem resetUnit_eng (s : State) (e : Nat) :
    ((s.resetUnit e).eng e).slot = none ∧ ((s.resetUnit e).eng e).st = .idle ∧ ((s.resetUnit e).eng e).inReset = (s.eng e).inReset := by
  obtain ⟨_, hqueues⟩ := resetEndpoint_onlyTokens e s (epOfEngine e)
  rw [State.resetUnit, resetEngine_eng, hqueues]
  exact ⟨rfl, rfl, rfl⟩

/-! ## HALT of the engines that run a frozen context (R428) -/

theorem setHalt_true (s : State) (p : Page) : s.setHalt p true = s.setHdr p { s.hdr p with halt := true } := by cases p <;> rfl

/-- A step of a freeze: HALT of one engine where it runs a frozen context. -/
theorem haltFrozen_nil (s : State) : s.haltFrozen [] =
    s.each 64 fun s d => if s.engFrozen d then s.setHdr (.engine d) { s.hdr (.engine d) with halt := true } else s := by
  simp [State.haltFrozen, setHalt_true]

theorem haltFrozen_nil_engines (s : State) : (s.haltFrozen []).engines = s.engines := by
  rw [haltFrozen_nil]
  refine List.foldlRecOn (motive := fun t : State => t.engines = s.engines) _ _ rfl fun v hv d _ => ?_
  split
  · exact hv
  · exact hv

theorem eng_of_engines (h : t.engines = s.engines) (e : Nat) : t.eng e = s.eng e := by rw [State.eng, h, State.eng]

/-- No engine whose page this is runs a command. -/
def Unrun (p : Page) (s : State) : Prop := ∀ d, d < 64 → p.key = (Page.engine d).key → (s.eng d).slot = none

theorem haltFrozen_nil_control {p : Page} (h : Unrun p s) : control ((s.haltFrozen []).hdr p) = control (s.hdr p) := by
  rw [haltFrozen_nil]
  refine (List.foldlRecOn (motive := fun t : State => t.engines = s.engines ∧ control (t.hdr p) = control (s.hdr p)) _ _ ⟨rfl, rfl⟩
    fun v hv d hd => ?_).2
  obtain ⟨hengines, hcontrol⟩ := hv
  split
  · next hfrozen =>
    refine ⟨hengines, ?_⟩
    have hother : p.key ≠ (Page.engine d).key := fun hkey => by
      have hslot : (v.eng d).slot = none := by rw [eng_of_engines hengines, h d (List.mem_range.1 hd) hkey]
      simp [State.engFrozen, hslot] at hfrozen
    rw [setHdr_hdr_other _ _ _ hother, hcontrol]
  · exact ⟨hengines, hcontrol⟩

theorem freezeItem_eng (s : State) (i off e : Nat) : (s.freezeItem i off).eng e = s.eng e := by
  unfold State.freezeItem
  split
  · rfl
  · exact eng_of_engines ((haltFrozen_nil_engines _).trans ((State.logErr_within _ _).eq_engines rfl)) e

theorem freezeItem_control {p : Page} (h : Unrun p s) (i off : Nat) : control ((s.freezeItem i off).hdr p) = control (s.hdr p) := by
  unfold State.freezeItem
  split
  · rfl
  · have hlog : ∀ (u : State) r, (u.logErr r).hdr p = u.hdr p := fun u r => by rw [State.hdr, (State.logErr_within u r).eq_hdrs rfl, State.hdr]
    refine (haltFrozen_nil_control fun d hd hkey => ?_).trans (congrArg control (hlog _ _))
    rw [eng_of_engines ((State.logErr_within _ _).eq_engines rfl)]
    exact h d hd hkey

/-! ## Commands that wait for their next dispatch (R374) -/

/-- The state in which a next dispatch has reset the command's run and read its record. -/
def reread (s : State) (n : Nat) : State := ((s.resetRun n).readSlot n).1

theorem redispatch_cases (s : State) (n : Nat) : s.redispatch n = s.resetRun n ∨ s.redispatch n = (reread s n).event .journal 6 1 ∨
    (∃ off, s.redispatch n = (reread s n).freezeItem n off) ∨ s.redispatch n = (reread s n).loseSlot n := by
  unfold State.redispatch reread
  dsimp only
  split
  · exact .inl rfl
  · split
    · next hslot => exact .inr (.inl (by rw [hslot]))
    · next hslot => exact .inr (.inr (.inl ⟨_, by rw [hslot]⟩))
    · next hslot => exact .inr (.inr (.inr (by rw [hslot])))

theorem resetRun_onlyTokens (h : (s.eng e).slot = none) (n : Nat) : OnlyTokens e s (s.resetRun n) := by
  have hother : ∀ d, d ∈ s.runEngines n → e ≠ d := fun d hd he => by
    subst he
    obtain ⟨-, hslot⟩ := List.mem_filter.1 hd
    simp [h] at hslot
  have hreset : OnlyTokens e s ((s.runEngines n).foldl State.resetUnit s) :=
    .foldl (.refl e s) fun v d hd => resetUnit_onlyTokens (hother d hd) v
  exact hreset.trans (.trans (.of_within (State.dropSaved_within _ n) rfl) (.of_within (State.dropRun_within _ n) rfl))

/-- What a command's next dispatch leaves of an engine that runs nothing. -/
theorem redispatch_onlyTokens (h : (s.eng e).slot = none) (n : Nat) : OnlyTokens e s (s.redispatch n) := by
  have hrun := resetRun_onlyTokens h n
  have hread : OnlyTokens e s (reread s n) := hrun.trans (.of_within (State.readSlot_within _ n) rfl)
  obtain hs | hs | ⟨off, hs⟩ | hs := redispatch_cases s n <;> rw [hs]
  · exact hrun
  · exact hread.trans (.of_eng rfl)
  · exact hread.trans (.of_eng (freezeItem_eng _ _ _ _))
  · exact hread.trans (.of_within (State.loseSlot_within _ _) rfl)

theorem unrun_redispatch {p : Page} (h : Unrun p s) (n : Nat) : Unrun p (s.redispatch n) := fun e he hkey =>
  (slot_of_onlyTokens (redispatch_onlyTokens (h e he hkey) n)).trans (h e he hkey)

theorem resetRun_control (s : State) (n : Nat) : ControlKept s (s.resetRun n) :=
  .trans (.foldl resetUnit_control _ s) (.trans (.of_within (State.dropSaved_within _ n) rfl) (.of_within (State.dropRun_within _ n) rfl))

theorem redispatch_control {p : Page} (h : Unrun p s) (n : Nat) : control ((s.redispatch n).hdr p) = control (s.hdr p) := by
  have hread : control ((reread s n).hdr p) = control (s.hdr p) := (readSlot_control (s.resetRun n) n p).trans (resetRun_control s n p)
  have hunrun : Unrun p (reread s n) := fun e he hkey => by
    rw [reread, eng_of_engines ((State.readSlot_within _ n).eq_engines rfl)]
    exact (slot_of_onlyTokens (resetRun_onlyTokens (h e he hkey) n)).trans (h e he hkey)
  obtain hs | hs | ⟨off, hs⟩ | hs := redispatch_cases s n <;> rw [hs]
  · exact resetRun_control s n p
  · exact (event_control _ _ _ _ p).trans hread
  · exact (freezeItem_control hunrun _ _).trans hread
  · exact (ControlKept.of_within (State.loseSlot_within _ _) rfl p).trans hread

/-! ## What galleries note of their engines' health (R411, R412) -/

/-- From s to t no gallery's account of engines under test and FAILED ones changes. -/
def HealthKept (s t : State) : Prop := ∀ g, (t.gal g).failed = (s.gal g).failed ∧ (t.gal g).testing = (s.gal g).testing

theorem HealthKept.refl (s : State) : HealthKept s s := fun _ => ⟨rfl, rfl⟩

theorem HealthKept.trans (h : HealthKept s t) (h' : HealthKept t u) : HealthKept s u := fun g =>
  ⟨(h' g).1.trans (h g).1, (h' g).2.trans (h g).2⟩

theorem HealthKept.of_within {ps : List Part} (h : Within ps s t) (hps : ps.contains .galleries = false) : HealthKept s t := fun g => by
  rw [State.gal, h.eq_galleries hps, State.gal]
  exact ⟨rfl, rfl⟩

theorem HealthKept.setGal {g : Nat} {x : Gallery} (hfailed : x.failed = (s.gal g).failed) (htesting : x.testing = (s.gal g).testing) :
    HealthKept s (s.setGal g x) := fun j => by
  by_cases hj : j = g
  · subst hj
    rw [setGal_gal]
    exact ⟨hfailed, htesting⟩
  · rw [setGal_gal_other _ _ _ hj]
    exact ⟨rfl, rfl⟩

theorem HealthKept.foldl {α : Type} {f : State → α → State} (hf : ∀ v a, HealthKept v (f v a)) (l : List α) (s : State) :
    HealthKept s (l.foldl f s) :=
  List.foldlRecOn (motive := HealthKept s) l f (.refl s) fun v hv a _ => hv.trans (hf v a)

theorem resetEngine_health (s : State) (e : Nat) : HealthKept s (s.resetEngine e) := by
  unfold State.resetEngine
  dsimp only
  refine .trans ?_ (.setGal ?failed ?testing)
  case failed => exact rfl
  case testing => exact rfl
  exact fun _ => ⟨rfl, rfl⟩

theorem resetUnit_health (s : State) (e : Nat) : HealthKept s (s.resetUnit e) :=
  .trans (.of_within (State.resetEndpoint_within s (epOfEngine e)) rfl) (resetEngine_health _ e)

theorem dropSaved_health (s : State) (n : Nat) : HealthKept s (s.dropSaved n) := by
  unfold State.dropSaved State.each
  refine .foldl (fun v g => ?_) _ s
  exact .setGal rfl rfl

/-- What galleries keep for a run of slot n is dropped. -/
def dropNotes (s : State) (n : Nat) : State := s.each 16 fun s g =>
  s.setGal g { s.gal g with
    marks := tdel (s.gal g).marks n, tStart := tdel (s.gal g).tStart n, tCommit := tdel (s.gal g).tCommit n,
    arrivals := (s.gal g).arrivals.filter fun p => p.1 != n }

theorem dropRun_gal (s : State) (n g : Nat) : (s.dropRun n).gal g = (dropNotes s n).gal g := by
  have hgalleries : (s.dropRun n).galleries = (dropNotes s n).galleries := by
    unfold State.dropRun dropNotes
    dsimp only
  rw [State.gal, hgalleries, State.gal]

theorem dropRun_health (s : State) (n : Nat) : HealthKept s (s.dropRun n) := by
  have hnotes : HealthKept s (dropNotes s n) := by
    unfold dropNotes State.each
    refine .foldl (fun v g => ?_) _ s
    exact .setGal rfl rfl
  intro g
  rw [dropRun_gal]
  exact hnotes g

theorem resetRun_health (s : State) (n : Nat) : HealthKept s (s.resetRun n) := by
  have hreset : HealthKept s ((s.runEngines n).foldl State.resetUnit s) := .foldl resetUnit_health _ s
  exact (hreset.trans (dropSaved_health _ n)).trans (dropRun_health _ n)

theorem redispatch_health (s : State) (n : Nat) : HealthKept s (s.redispatch n) := by
  have hread : HealthKept s (reread s n) := (resetRun_health s n).trans (.of_within (State.readSlot_within _ n) rfl)
  obtain hs | hs | ⟨off, hs⟩ | hs := redispatch_cases s n <;> rw [hs]
  · exact resetRun_health s n
  · exact hread.trans (.of_within (State.event_within _ _ _ _) rfl)
  · exact hread.trans (.of_within (State.freezeItem_within _ _ _) rfl)
  · exact hread.trans (.of_within (State.loseSlot_within _ _) rfl)

end Sys2Proof.EngineResets

/-! Engine failures, self-tests and retests (R410-R413, R431; O42). -/

namespace Sys2Proof.EngineFaults

open Sys2Proof Sys2Proof.Machine Sys2Proof.Laws Sys2Proof.InstantsDispatch Sys2Proof.HeaderControl Sys2Proof.EngineResets

/-! ## The health bits of a gallery (R412) -/

theorem getLsbD_or_placeBit (x : BitVec 4) (e : Nat) : (x ||| placeBit e).getLsbD (e % 4) = true :=
  ChainDrip.getLsbD_or_oneHot (Nat.mod_lt _ (by decide)) x

theorem getLsbD_or_placeBit_of_set {x : BitVec 4} {j : Nat} (h : x.getLsbD j = true) (e : Nat) : (x ||| placeBit e).getLsbD j = true := by
  rw [BitVec.getLsbD_or, h, Bool.true_or]

theorem getLsbD_and_not_placeBit (x : BitVec 4) (e : Nat) : (x &&& ~~~(placeBit e)).getLsbD (e % 4) = false :=
  ChainDrip.getLsbD_and_not_oneHot 4 (e % 4) x

section Failures

variable {s : State}

/-! ## The supervisor's record (R420, R421) -/

theorem sumpPut_health (s : State) (g : Nat) (r : SumpRec) : HealthKept s (s.sumpPut g r) := by
  unfold State.sumpPut
  dsimp only
  split <;> exact .setGal rfl rfl

theorem engineNote_health (s : State) (e : Nat) (cls : Cls) : HealthKept s (s.engineNote e cls) := by
  unfold State.engineNote
  refine .trans (sumpPut_health s _ _) fun _ => ⟨rfl, rfl⟩

theorem engineNote_eng (s : State) (e : Nat) (cls : Cls) (d : Nat) : (s.engineNote e cls).eng d = s.eng d :=
  eng_of_engines ((State.engineNote_within s e cls).eq_engines rfl) d

/-! ## A failure (R410-R412) -/

/-- Engine e has been reset after a failed check, and is held in reset. -/
def heldInReset (s : State) (e : Nat) : State :=
  let u := (s.checkRecord e).resetUnit e
  u.setEng e { u.eng e with inReset := true }

/-- The gallery has noted the failure: the engine is FAILED, or under test. -/
def noted (s u : State) (e : Nat) : State :=
  let g := u.gal (e / 4)
  if (s.eng e).failsAgain then (u.setGal (e / 4) { g with failed := g.failed ||| placeBit e }).engineNote e .degraded
  else u.setGal (e / 4) { g with testing := g.testing ||| placeBit e }

theorem engineFail_eq {e : Nat} (hin : (s.eng e).inReset = false) (hon : s.blkOn (.engine e) = true) :
    s.engineFail e = (s.failedSlots e).foldl State.redispatch (noted s (heldInReset s e) e) :=
  if_neg (by simp [hin, hon])

theorem heldInReset_eng (s : State) (e : Nat) :
    ((heldInReset s e).eng e).slot = none ∧ ((heldInReset s e).eng e).st = .idle ∧ ((heldInReset s e).eng e).inReset = true := by
  obtain ⟨hslot, hst, -⟩ := resetUnit_eng (s.checkRecord e) e
  rw [heldInReset, setEng_eng]
  exact ⟨hslot, hst, rfl⟩

theorem noted_eng (s u : State) (e d : Nat) : (noted s u e).eng d = u.eng d := by
  unfold noted
  dsimp only
  split
  · exact engineNote_eng _ _ _ _
  · rfl

theorem noted_health (s u : State) (e : Nat) : if (s.eng e).failsAgain then ((noted s u e).gal (e / 4)).failed.getLsbD (e % 4) = true
    else ((noted s u e).gal (e / 4)).testing.getLsbD (e % 4) = true := by
  unfold noted
  dsimp only
  split
  · rw [(engineNote_health _ _ _ _).1, setGal_gal]
    exact getLsbD_or_placeBit _ _
  · rw [setGal_gal]
    exact getLsbD_or_placeBit _ _

/-- What the next dispatches of some commands leave of an engine that runs nothing. -/
theorem redispatches_onlyTokens {e : Nat} (h : (s.eng e).slot = none) (l : List Nat) : OnlyTokens e s (l.foldl State.redispatch s) :=
  List.foldlRecOn (motive := OnlyTokens e s) l _ (.refl e s) fun _ hv n _ =>
    hv.trans (redispatch_onlyTokens ((slot_of_onlyTokens hv).trans h) n)

theorem redispatches_health (s : State) (l : List Nat) : HealthKept s (l.foldl State.redispatch s) := .foldl redispatch_health l s

theorem engineFail_holds {e : Nat} (hin : (s.eng e).inReset = false) (hon : s.blkOn (.engine e) = true) :
    ((s.engineFail e).eng e).inReset = true ∧ ((s.engineFail e).eng e).st = .idle ∧ ((s.engineFail e).eng e).slot = none ∧
      if (s.eng e).failsAgain then ((s.engineFail e).gal (e / 4)).failed.getLsbD (e % 4) = true
      else ((s.engineFail e).gal (e / 4)).testing.getLsbD (e % 4) = true := by
  obtain ⟨hslot, hst, hreset⟩ := heldInReset_eng s e
  rw [← noted_eng s] at hslot hst hreset
  obtain ⟨_, hqueues⟩ := redispatches_onlyTokens hslot (s.failedSlots e)
  obtain ⟨hfailed, htesting⟩ := redispatches_health (noted s (heldInReset s e) e) (s.failedSlots e) (e / 4)
  rw [engineFail_eq hin hon, hqueues, hfailed, htesting]
  exact ⟨hreset, hst, hslot, noted_health _ _ _⟩

/-! ## The end of a self-test (R412) -/

theorem engineSelftestEnd_passes {e : Fin 64} (h : (s.gal (e / 4)).testing.getLsbD (e % 4) = true) :
    ∃ t, exec (.engineSelftestEnd e true) s = .next t ∧ (t.gal (e / 4)).testing.getLsbD (e % 4) = false ∧
      (t.gal (e / 4)).failed.getLsbD (e % 4) = false ∧ (t.eng e).inReset = false ∧ (t.eng e).sinceTest = some 0 := by
  refine ⟨_, (if_neg (by simp [h])).trans (if_pos rfl), ?_⟩
  rw [(engineNote_health _ _ _ _).1, (engineNote_health _ _ _ _).2, engineNote_eng, setEng_eng, setEng_gal, setGal_gal]
  exact ⟨getLsbD_and_not_placeBit _ _, getLsbD_and_not_placeBit _ _, rfl, rfl⟩

theorem engineSelftestEnd_fails {e : Fin 64} (h : (s.gal (e / 4)).testing.getLsbD (e % 4) = true) :
    ∃ t, exec (.engineSelftestEnd e false) s = .next t ∧ (t.gal (e / 4)).testing.getLsbD (e % 4) = false ∧
      (t.gal (e / 4)).failed.getLsbD (e % 4) = true ∧ t.eng e = s.eng e := by
  refine ⟨_, (if_neg (by simp [h])).trans (if_neg (by decide)), ?_⟩
  rw [(engineNote_health _ _ _ _).1, (engineNote_health _ _ _ _).2, engineNote_eng, setGal_gal]
  exact ⟨getLsbD_and_not_placeBit _ _, getLsbD_or_placeBit _ _, rfl⟩

/-! ## The count of corrected errors (R410, R413) -/

/-- The supervisor's record about an engine. -/
def noteRecord (s : State) (e : Nat) (cls : Cls) : SumpRec :=
  { code := (Code.ofNum (s.free 0 % 256)).byte, cls := BitVec.ofNat 8 cls.num, unit := 0, place := BitVec.ofNat 8 (e % 4),
    tenant := none, op := 0, slot := none, disp := 0, fpc := 0, detail0 := BitVec.ofNat 64 (s.free 1), detail1 := BitVec.ofNat 64 (s.free 2) }

theorem engineNote_sump (e : Nat) (cls : Cls) (h : (s.gal (e / 4)).sump.length < 256) :
    ((s.engineNote e cls).gal (e / 4)).sump = (s.gal (e / 4)).sump ++ [noteRecord s e cls] := ErrorRings.sumpPut_stores h _

theorem engineNote_hdr (s : State) (e : Nat) (cls : Cls) (p : Page) : (s.engineNote e cls).hdr p = s.hdr p := by
  rw [State.hdr, (State.engineNote_within s e cls).eq_hdrs rfl, State.hdr]

/-- Corrected errors that bring ERR_CNT to the threshold have been counted. -/
def correctedMore (s : State) (e : Nat) : State :=
  let due := (s.eng e).corrBase + 4096
  let c := (s.hdr (.engine e)).errCnt.toNat
  if c < due then (s.countErrs (.engine e) (due - c + s.free 0)).drawn else s

theorem correctedMore_gal (s : State) (e g : Nat) : (correctedMore s e).gal g = s.gal g := by
  unfold correctedMore
  dsimp only
  split <;> rfl

theorem correctedMore_errCnt (s : State) (e : Nat) :
    min ((s.eng e).corrBase + 4096) 0xFFFFFFFF ≤ ((correctedMore s e).hdr (.engine e)).errCnt.toNat := by
  unfold correctedMore
  dsimp only
  split
  · next hlt =>
    have hhdr : ∀ u : State, u.drawn.hdr (.engine e) = u.hdr (.engine e) := fun _ => rfl
    rw [hhdr, State.countErrs, setHdr_hdr, BitVec.toNat_ofNat]
    omega
  · omega

theorem correctedMore_of_due {e : Nat} (h : (s.eng e).corrBase + 4096 ≤ (s.hdr (.engine e)).errCnt.toNat) : correctedMore s e = s :=
  if_neg (Nat.not_lt.2 h)

/-- The threshold's record is about errors counted from here on. -/
def rebased (s : State) (e : Nat) : State :=
  (correctedMore s e).setEng e { (correctedMore s e).eng e with corrBase := ((correctedMore s e).hdr (.engine e)).errCnt.toNat }

theorem errCntThreshold_eq {e : Fin 64} (hon : s.blkOn (.engine e) = true) :
    exec (.errCntThreshold e) s = .next ((rebased s e).engineNote e .corrected) := if_neg (by simp [hon])

/-! ## Retests (R412, R431) -/

theorem retest_of_refused {g j : Nat} (h : (s.gal g).failed.getLsbD j = false ∨ (s.gal g).testing.getLsbD j = true) :
    s.retest g j = s.refuse (.gallery g) .badCommand := if_pos (by simpa using h)

theorem retest_of_failed {g j : Nat} (h : ¬((s.gal g).failed.getLsbD j = false ∨ (s.gal g).testing.getLsbD j = true)) :
    s.retest g j = (s.resetUnit (4 * g + j)).setGal g
      { s.gal g with testing := (s.gal g).testing ||| placeBit j } := by
  unfold State.retest
  dsimp only
  rw [if_neg (by simpa using h)]

theorem refuse_health (s : State) (p : Page) (c : Code) : HealthKept s (s.refuse p c) := .of_within (State.refuse_within s p c) rfl

theorem retest_failed (s : State) (g j : Nat) : ((s.retest g j).gal g).failed = (s.gal g).failed := by
  by_cases h : (s.gal g).failed.getLsbD j = false ∨ (s.gal g).testing.getLsbD j = true
  · rw [retest_of_refused h, (refuse_health _ _ _ _).1]
  · rw [retest_of_failed h, setGal_gal]

theorem retest_testing_of_testing {g k : Nat} (j : Nat) (h : (s.gal g).testing.getLsbD k = true) :
    ((s.retest g j).gal g).testing.getLsbD k = true := by
  by_cases hj : (s.gal g).failed.getLsbD j = false ∨ (s.gal g).testing.getLsbD j = true
  · rwa [retest_of_refused hj, (refuse_health _ _ _ _).2]
  · rw [retest_of_failed hj, setGal_gal]
    exact getLsbD_or_placeBit_of_set h j

/-- An engine that a write of ENG_RETEST names and that is FAILED is under test. -/
def Tested (g v k : Nat) (u : State) : Prop :=
  k < 4 → bit v k = true → (u.gal g).failed.getLsbD k = true → (u.gal g).testing.getLsbD k = true

/-- One bit of a write of ENG_RETEST. -/
def retestBit (g v : Nat) (u : State) (j : Nat) : State := if bit v j then u.retest g j else u

theorem tested_retestBit (g v : Nat) (u : State) (k : Nat) : Tested g v k (retestBit g v u k) := by
  intro hk hbit hfailed
  rw [retestBit, if_pos hbit] at hfailed ⊢
  rw [retest_failed] at hfailed
  by_cases h : (u.gal g).failed.getLsbD k = false ∨ (u.gal g).testing.getLsbD k = true
  · obtain h | h := h
    · rw [h] at hfailed
      cases hfailed
    · exact retest_testing_of_testing k h
  · rw [retest_of_failed h, setGal_gal]
    have hset := getLsbD_or_placeBit (u.gal g).testing k
    rwa [Nat.mod_eq_of_lt hk] at hset

theorem retestBit_failed (g v : Nat) (u : State) (j : Nat) : ((retestBit g v u j).gal g).failed = (u.gal g).failed := by
  unfold retestBit
  split
  · exact retest_failed u g j
  · rfl

theorem retestBit_keeps_tested {g v k : Nat} {u : State} (j : Nat) (h : Tested g v k u) : Tested g v k (retestBit g v u j) := by
  intro hk hbit hfailed
  rw [retestBit_failed] at hfailed
  unfold retestBit
  split
  · exact retest_testing_of_testing j (h hk hbit hfailed)
  · exact h hk hbit hfailed

theorem engRetestPut_eq (s : State) (g v : Nat) : s.engRetestPut g v = s.each 4 (retestBit g v) := rfl

theorem engRetestPut_tests {g v k : Nat} (hk : k < 4) (hbit : bit v k = true) (hfailed : (s.gal g).failed.getLsbD k = true) :
    ((s.engRetestPut g v).gal g).testing.getLsbD k = true := by
  have hkept : ((s.each 4 (retestBit g v)).gal g).failed = (s.gal g).failed :=
    List.foldlRecOn (motive := fun t : State => (t.gal g).failed = (s.gal g).failed) _ _ rfl fun u hu j _ => (retestBit_failed g v u j).trans hu
  have htested := Mailboxes.each_establishes (P := Tested g v) (tested_retestBit g v) (fun _ j _ _ h => retestBit_keeps_tested j h) s hk
  rw [engRetestPut_eq]
  exact htested hk hbit (by rwa [hkept])

end Failures

/-- Settles O42: a failure resets its engine and marks it at its gallery, and the dispatches that follow touch neither. -/
theorem engineFailures : Obligations.EngineFailures := by
  unfold Obligations.EngineFailures
  intro e s x g
  refine ⟨fun hin hon c hc => ?fails, fun htesting => ⟨engineSelftestEnd_passes htesting, engineSelftestEnd_fails htesting⟩,
    fun hon => ?threshold, fun h val hon => ?retest⟩
  case fails =>
    have hexec : exec c s = .next (s.engineFail e) := by
      simp only [List.mem_cons, List.not_mem_nil, or_false] at hc
      obtain rfl | rfl := hc <;> rfl
    exact ⟨_, hexec, engineFail_holds hin hon⟩
  case threshold =>
    refine ⟨_, noteRecord (rebased s e) e .corrected, errCntThreshold_eq hon, ?_⟩
    have hhdr : ((rebased s e).engineNote e .corrected).hdr (.engine e) = (correctedMore s e).hdr (.engine e) := engineNote_hdr _ _ _ _
    have hgal : (rebased s e).gal g = s.gal g := correctedMore_gal s e g
    rw [hhdr, engineNote_eng, rebased, setEng_eng]
    refine ⟨rfl, correctedMore_errCnt s e, fun hdue => by rw [correctedMore_of_due hdue], rfl, fun hroom => ?_⟩
    rw [← hgal] at hroom ⊢
    exact engineNote_sump _ _ hroom
  case retest =>
    exact ⟨_, congrArg Host.Outcome.next (EngineCtl.inner_on hon _), fun j hj hbit hfailed _ => engRetestPut_tests hj hbit hfailed⟩

end Sys2Proof.EngineFaults

/-! Power states of a block (R466, R476-R479; O49). -/

namespace Sys2Proof.BlockStates

open Sys2Proof Sys2Proof.Machine Sys2Proof.Laws Sys2Proof.HeaderControl Sys2Proof.EngineResets

section Blocks

variable {k : Fin 16384} {p : Page} {s : State}

/-! ## Writes of BLK_CTL (R466, R476) -/

theorem blkWrite_of_page (hp : Page.ofKey k = some p) (hheld : s.heldPage p = false) (hfrozen : s.geode.frozen = false)
    (f : State → Page → State) : s.blkWrite k f = f s p := by
  simp [State.blkWrite, hp, hheld, hfrozen]

theorem startBlock_hdr (s : State) (p : Page) (en : Bool) :
    (s.startBlock p en).hdr p = { s.hdr p with en := en, pendingEnable := false, pstate := .starting } := by
  cases p <;> exact setHdr_hdr _ _ _

theorem setHalt_hdr (s : State) (p : Page) (b : Bool) : (s.setHalt p b).hdr p = { s.hdr p with halt := b } := by
  unfold State.setHalt
  dsimp only
  split
  · split <;> exact setHdr_hdr _ _ _
  · exact setHdr_hdr _ _ _

theorem haltBlock_hdr {halt : Bool} (h : ∀ e, p = .engine e → s.heldEngines.contains e = false) :
    (s.haltBlock halt p).hdr p = { s.hdr p with halt := halt } := by
  have hfree : s.haltBlock halt p = s.setHalt p halt := by
    cases p with
    | engine e => simp only [State.haltBlock, h e rfl, Bool.and_false, Bool.false_eq_true, if_false]
    | _ => simp [State.haltBlock]
  rw [hfree, setHalt_hdr]

/-! ## Resets of blocks (R24, R477) -/

theorem redispatches_control (h : Unrun p s) (l : List Nat) : control ((l.foldl State.redispatch s).hdr p) = control (s.hdr p) := by
  refine (List.foldlRecOn (motive := fun t => Unrun p t ∧ control (t.hdr p) = control (s.hdr p)) l _ ⟨h, rfl⟩ fun t ht n _ => ?_).2
  obtain ⟨hrun, hcontrol⟩ := ht
  exact ⟨unrun_redispatch hrun n, (redispatch_control hrun n).trans hcontrol⟩

theorem resetWork_control {e : Nat} (h : Unrun p (s.resetUnit e)) : control ((s.resetWork e).hdr p) = control (s.hdr p) :=
  (redispatches_control h _).trans (resetUnit_control s e p)

theorem engine_key_inj {d e : Nat} (h : (Page.engine e).key = (Page.engine d).key) : d = e := by
  simp only [Page.key] at h
  omega

theorem unrun_engine (s : State) (e : Nat) : Unrun (.engine e) (s.resetUnit e) := fun d _ hkey => by
  rw [engine_key_inj hkey]
  exact (resetUnit_eng s e).1

theorem unrun_stream (s : State) (e : Nat) : Unrun (.stream e) s := fun d _ hkey => by
  simp only [Page.key] at hkey
  omega

/-- A reset of a block leaves the block's EN, HALT and PSTATE to the transitions of R477. -/
theorem resetBlock_control (s : State) (p : Page) : control ((s.resetBlock p).hdr p) = control (s.hdr p) := by
  have hsame : ∀ u t : State, t.hdrs = u.hdrs → control (t.hdr p) = control (u.hdr p) := fun u t h => by rw [State.hdr, h, State.hdr]
  cases p with
  | engine e => exact (hsame (s.resetWork e) _ rfl).trans (resetWork_control (unrun_engine s e))
  | stream e => exact (hsame (s.resetWork e) _ rfl).trans (resetWork_control (unrun_stream _ e))
  | drip g =>
    have hcount : ControlKept s ((s.countErrs (.drip g) (s.asmCount g)).setDrip g {}) := .trans (countErrs_control _ _ _) (.of_hdrs rfl)
    exact hcount.trans (dropAsm_control _ g) _
  | vec g => exact (hsame _ _ rfl).trans (resetEndpoint_control s _ _)
  | helper h => exact (hsame _ _ rfl).trans (resetEndpoint_control s _ _)
  | msg ep => exact (hsame _ _ rfl).trans (resetEndpoint_control s _ _)
  | flow c => exact (hsame (s.dropLines c) _ rfl).trans (ControlKept.of_within (State.dropLines_within s c) rfl _)
  | link n => exact (hsame _ _ rfl).trans (ControlKept.ite (.refl s) (linkStop_control s n .disabled 1) _)
  | pciep q f =>
    have hrings : ControlKept s (s.each 16 fun s n => (s.putSq q f n {}).putCq q f n {}) :=
      .foldl (fun u n => .trans (.of_within (State.putSq_within u q f n {}) rfl) (.of_within (State.putCq_within _ q f n {}) rfl)) _ s
    exact (hrings.trans (.of_within (State.setFn_within _ q f {}) rfl)) _
  | gallery _ | hbmc _ | cavern _ | lie | dev | geode | journal => rfl
  | mgmt c => exact hsame _ _ (setMgmt_hdrs _ _ _)

theorem rstBlock_hdr (s : State) (p : Page) :
    ((s.rstBlock p).hdr p).pstate = (if (s.hdr p).en || p.fixedEn then .starting else .off) ∧ ((s.rstBlock p).hdr p).halt = (s.hdr p).halt := by
  have hkept := resetBlock_control (s.setHdr p { en := (s.hdr p).en || p.fixedEn, halt := (s.hdr p).halt, pstate := .off }) p
  rw [setHdr_hdr] at hkept
  obtain ⟨hpstate, hrest⟩ := Prod.mk.inj hkept
  obtain ⟨-, hhalt⟩ := Prod.mk.inj hrest
  unfold State.rstBlock
  dsimp only
  split
  · rw [startBlock_hdr]
    exact ⟨rfl, hhalt⟩
  · exact ⟨hpstate, hhalt⟩

/-! ## The ends of STARTING and STOPPING (R478, R479) -/

theorem startWork_control (s : State) (p : Page) : ControlKept s (s.startWork p) := by
  cases p with
  | link n => exact .ite (train_control s n none) (.refl s)
  | engine e => exact syncRings_control s _
  | helper h => exact syncRings_control s _
  | vec g => exact syncRings_control s _
  | msg ep => exact syncRings_control s _
  | _ => exact .of_hdrs rfl

theorem startDone_pstate (s : State) (p : Page) : ((s.startDone p).hdr p).pstate = if (s.hdr p).en then .on else .stopping := by
  unfold State.startDone
  dsimp only
  split
  · have hkept := startWork_control (s.setHdr p { s.hdr p with pstate := .on, pendingEnable := false }) p p
    rw [setHdr_hdr] at hkept
    exact congrArg Prod.fst hkept
  · rw [setHdr_hdr]

theorem blockStartComplete_of_pending (hp : Page.ofKey k = some p) (hoff : (s.hdr p).pstate = .off) (hpending : (s.hdr p).pendingEnable = true) :
    exec (.blockStartComplete k) s = .next (s.startBlock p true) := by
  have hexec : exec (.blockStartComplete k) s = execBlockStartComplete k s := rfl
  rw [hexec, execBlockStartComplete, hp]
  exact if_pos ⟨hoff, hpending⟩

theorem blockStartComplete_of_starting (hp : Page.ofKey k = some p) (hst : (s.hdr p).pstate = .starting) (hready : s.startWaits p = false) :
    exec (.blockStartComplete k) s = .next (s.startDone p) := by
  have hexec : exec (.blockStartComplete k) s = execBlockStartComplete k s := rfl
  rw [hexec, execBlockStartComplete, hp]
  exact (if_neg (by simp [hst])).trans (if_neg (by simp [hst, hready]))

theorem blockStopComplete_of_stopping (hp : Page.ofKey k = some p) (hst : (s.hdr p).pstate = .stopping) (hready : s.stopReady p = true) :
    exec (.blockStopComplete k) s = .next ((s.stopWork p).setHdr p { (s.stopWork p).hdr p with pstate := .off }) := by
  have hexec : exec (.blockStopComplete k) s = execBlockStopComplete k s := rfl
  rw [hexec, execBlockStopComplete, hp]
  exact if_neg (by simp [hst, hready])

end Blocks

/-- Settles O49: each write and each end of a transition is one write of the block's header, which the block's work leaves alone. -/
theorem blockPower : Obligations.BlockPower := by
  unfold Obligations.BlockPower
  intro k p s hp h
  refine ⟨fun hheld hfrozen => ⟨fun hen => ⟨fun hoff => ?starts, fun hstopping => ?waits, fun hon hfree => ?stops, fun hon hused => ?refused⟩,
    fun hen => ?fixed, fun halt hfree => ?halts, ?resets⟩, fun hst hready => ?started, fun hoff hpending => ?pending, fun hst hready => ?stopped⟩
  case starts =>
    refine ⟨_, congrArg Host.Outcome.next (blkWrite_of_page hp hheld hfrozen _), ?_⟩
    have henable : s.enableBlock p = s.startBlock p true := by simp [State.enableBlock, hen, show (s.hdr p).pstate = .off from hoff]
    rw [henable, startBlock_hdr]
    exact ⟨rfl, rfl⟩
  case waits =>
    refine congrArg Host.Outcome.next ((blkWrite_of_page hp hheld hfrozen _).trans ?_)
    simp [State.enableBlock, hen, show (s.hdr p).pstate = .stopping from hstopping, h]
  case stops =>
    refine congrArg Host.Outcome.next ((blkWrite_of_page hp hheld hfrozen _).trans ?_)
    simp [State.disableBlock, hen, show (s.hdr p).pstate = .on from hon, hfree, h]
  case refused =>
    refine ⟨_, congrArg Host.Outcome.next (blkWrite_of_page hp hheld hfrozen _), ?_⟩
    have hdisable : s.disableBlock p = s.refuse p .badCommand := by
      simp [State.disableBlock, hen, show (s.hdr p).pstate = .on from hon, hused]
    have hkept := refuse_control s p .badCommand p
    rw [hdisable]
    exact ⟨(congrArg Prod.fst hkept).trans hon, congrArg (fun c => c.2.1) hkept⟩
  case fixed =>
    exact ⟨congrArg Host.Outcome.next ((blkWrite_of_page hp hheld hfrozen _).trans (if_pos hen)),
      congrArg Host.Outcome.next ((blkWrite_of_page hp hheld hfrozen _).trans (if_pos hen))⟩
  case halts => exact ⟨_, congrArg Host.Outcome.next (blkWrite_of_page hp hheld hfrozen _), haltBlock_hdr hfree⟩
  case resets => exact ⟨_, congrArg Host.Outcome.next (blkWrite_of_page hp hheld hfrozen _), rstBlock_hdr s p⟩
  case started => exact ⟨_, blockStartComplete_of_starting hp hst hready, startDone_pstate s p⟩
  case pending => exact ⟨_, blockStartComplete_of_pending hp hoff hpending, by rw [startBlock_hdr]⟩
  case stopped => exact ⟨_, blockStopComplete_of_stopping hp hst hready, by rw [setHdr_hdr]⟩

end Sys2Proof.BlockStates

/-! Power-up, bring-up, boot failures, power-down, warm reset and PERST (R437, R438, R493-R497, R505; O50). -/

namespace Sys2Proof.BringUp

open Sys2Proof Sys2Proof.Machine Sys2Proof.Laws

/-! ## Pages and their numbers (R472) -/

section Pages

variable {k : Nat} {p : Page}

/-- The pages of the device as a whole. -/
theorem key_of_ofKey_device (h : Page.ofKey k = some p) (hk : k < 6) : p.key = k := by
  interval_cases k <;> exact (Option.some.inj h) ▸ rfl

/-- A page has the number that it is found by. -/
theorem key_of_ofKey (h : Page.ofKey k = some p) : p.key = k ∧ k < 0x800 := by
  by_cases hk : k < 6
  · exact ⟨key_of_ofKey_device h hk, by omega⟩
  rw [Page.ofKey, if_neg (by omega), if_neg (by omega), if_neg (by omega), if_neg (by omega), if_neg (by omega), if_neg (by omega)] at h
  by_cases hpciep : 0x100 ≤ k ∧ k < 0x180
  · rw [if_pos hpciep] at h
    obtain rfl := Option.some.inj h
    simp only [Page.key]
    omega
  rw [if_neg hpciep] at h
  by_cases hlink : 0x200 ≤ k ∧ k < 0x240
  · rw [if_pos hlink] at h
    obtain rfl := Option.some.inj h
    simp only [Page.key]
    omega
  rw [if_neg hlink] at h
  by_cases hcavern : 0x300 ≤ k ∧ k < 0x340
  · rw [if_pos hcavern] at h
    split at h
    case h_5 => cases h
    all_goals
      obtain rfl := Option.some.inj h
      simp only [Page.key]
      omega
  rw [if_neg hcavern] at h
  by_cases hgallery : 0x400 ≤ k ∧ k < 0x800
  · rw [if_pos hgallery] at h
    dsimp only at h
    split_ifs at h
    all_goals
      obtain rfl := Option.some.inj h
      simp only [Page.key]
      omega
  · rw [if_neg hgallery] at h
    cases h

theorem ofKey_drip : ∀ g, g < 16 → Page.ofKey (Page.drip g).key = some (.drip g) := by decide

theorem drip_lt (g : Nat) (h : Page.ofKey k = some (.drip g)) : g < 16 := by
  obtain ⟨hkey, hlt⟩ := key_of_ofKey h
  simp only [Page.key] at hkey
  omega

theorem geode_of_ofKey (h : Page.ofKey k = some p) (hk : k = 1) : p = .geode := by
  subst hk
  exact (Option.some.inj h).symm

theorem key_ne_drip (h : Page.ofKey k = some p) (hp : ∀ g, p ≠ .drip g) {g : Nat} (hg : g < 16) : p.key ≠ (Page.drip g).key := fun hkey => by
  have hdrip := ofKey_drip g hg
  rw [← hkey, (key_of_ofKey h).1, h] at hdrip
  exact hp g (Option.some.inj hdrip)

end Pages

/-! ## Blocks OFF and blocks ON (R221, R495) -/

section Blocks

variable {s t : State}

/-- Every block but the Geode's is OFF. -/
def AllOff (t : State) : Prop := ∀ k p, Page.ofKey k = some p → p ≠ .geode → (t.hdr p).pstate = .off

/-- Every block but the Geode's is ON, and the Drips test themselves. -/
def AllOn (t : State) : Prop := ∀ k p, Page.ofKey k = some p → p ≠ .geode →
  (t.hdr p).pstate = match p with | .drip _ => .starting | _ => .on

/-- A table built of entries whose keys are the numbers that they come from. -/
theorem tget_filterMap {α : Type} {f : Nat → Option (Nat × α)} (hf : ∀ k q, f k = some q → q.1 = k) {k : Nat} {v : α}
    (hv : f k = some (k, v)) (d : α) {l : List Nat} (hk : k ∈ l) : tget (l.filterMap f) k d = v := by
  induction l with
  | nil => cases hk
  | cons j l ih =>
    by_cases hj : j = k
    · subst hj
      simp [hv, tget]
    · have hk : k ∈ l := by simpa [Ne.symm hj] using hk
      cases hfj : f j with
      | none => rw [List.filterMap_cons, hfj]; exact ih hk
      | some q =>
        rw [List.filterMap_cons, hfj]
        have hq : q.1 ≠ k := by rwa [hf j q hfj]
        simpa only [tget, if_neg hq] using ih hk

theorem allOff_of_hdrs (u : State) (h : t.hdrs = u.allOff) : AllOff t := by
  intro k p hp hne
  obtain ⟨hkey, hlt⟩ := key_of_ofKey hp
  have hentry : tget u.allOff k {} = { en := false, pstate := .off } := by
    refine tget_filterMap (fun j q hq => ?_) ?_ _ (List.mem_range.2 hlt)
    · split at hq
      · exact (Option.some.inj hq) ▸ rfl
      · exact (Option.some.inj hq) ▸ rfl
      · cases hq
    · rw [hp]
      cases p with
      | geode => exact absurd rfl hne
      | _ => rfl
  rw [State.hdr, hkey, h, hentry]

/-- One Drip starts its test. -/
def dripStart (s : State) (g : Nat) : State :=
  (s.setDrip g { s.drip g with busy := true, done := false }).setHdr (.drip g) { s.hdr (.drip g) with pstate := .starting }

theorem dripsStart_eq (s : State) : s.dripsStart = s.each 16 dripStart := rfl

theorem dripStart_hdr (s : State) (g : Nat) : ((dripStart s g).hdr (.drip g)).pstate = .starting := by rw [dripStart, setHdr_hdr]

theorem dripStart_hdr_other {p : Page} {g : Nat} (h : p.key ≠ (Page.drip g).key) (s : State) : (dripStart s g).hdr p = s.hdr p :=
  setHdr_hdr_other _ _ _ h

theorem drip_key_ne {i j : Nat} (h : i ≠ j) : (Page.drip i).key ≠ (Page.drip j).key := by
  simp only [Page.key]
  omega

/-- From headers at their reset values, the start of the Drips leaves every block ON but the Drips. -/
theorem allOn_dripsStart (h : ∀ j, j ≠ 1 → (tget s.hdrs j {}).pstate = .on) : AllOn s.dripsStart := by
  intro k p hp hne
  rw [dripsStart_eq]
  by_cases hdrip : ∃ g, p = .drip g
  · obtain ⟨g, rfl⟩ := hdrip
    refine Mailboxes.each_establishes (P := fun g u => (State.hdr u (.drip g)).pstate = .starting) dripStart_hdr (fun u i j hij hj => ?_) s
      (drip_lt g hp)
    rwa [dripStart_hdr_other (drip_key_ne hij.symm)]
  · have hother : ∀ g, p ≠ .drip g := fun g hg => hdrip ⟨g, hg⟩
    have hkept : (s.each 16 dripStart).hdr p = s.hdr p :=
      List.foldlRecOn (motive := fun u : State => u.hdr p = s.hdr p) _ _ rfl fun u hu g hg =>
        (dripStart_hdr_other (key_ne_drip hp hother (List.mem_range.1 hg)) u).trans hu
    have hon : (s.hdr p).pstate = .on := h _ fun hkey => hne (geode_of_ofKey hp ((key_of_ofKey hp).1.symm.trans hkey))
    rw [hkept, hon]
    cases p with
    | drip g => exact absurd rfl (hother g)
    | _ => rfl

theorem AllOn.of_hdrs (h : AllOn s) (ht : t.hdrs = s.hdrs) : AllOn t := fun k p hp hne => by
  rw [State.hdr, ht]
  exact h k p hp hne

theorem tget_geodeOnly (x : Hdr) {j : Nat} (hj : j ≠ 1) : (tget [(1, x)] j ({} : Hdr)).pstate = .on := by
  simp [tget, Ne.symm hj]

theorem islandsStart_on (s : State) : AllOn s.islandsStart := by
  unfold State.islandsStart
  exact allOn_dripsStart fun _ hj => tget_geodeOnly _ hj

end Blocks

/-! ## Cold reset and boot images (R437, R438, R493, R505) -/

section Cold

variable {s : State}

theorem darken_off (s : State) : AllOff s.darken := allOff_of_hdrs s (by simp only [State.darken])

/-- The machine that an image starts. -/
def started (s : State) (g : Geode) (pins : Pins) : State := (s.coldState g pins).dripsStart.portsTrain

theorem started_within (s : State) (g : Geode) (pins : Pins) :
    Within [.hdrs, .drips, .ports, .freeCtr] (s.coldState g pins) (started s g pins) :=
  .trans ((State.dripsStart_within _).mono (by decide)) ((State.portsTrain_within _).mono (by decide))

theorem started_on (s : State) (g : Geode) (pins : Pins) : AllOn (started s g pins) :=
  (allOn_dripsStart (s := s.coldState g pins) fun _ _ => rfl).of_hdrs ((State.portsTrain_within _).eq_hdrs rfl)

/-- The pins after PWRGD has risen. -/
def risen (s : State) (testMode : Bool) (adr : Fin 8) : Pins :=
  { s.pins with pwrgd := true, testMode := testMode, smbAddr := adr.val, thermtrip := false, oscDead := false, smbAlert := false }

section Rise

variable (hstandby : s.pins.standby = true) (hpwrgd : s.pins.pwrgd = false) (adr : Fin 8)

include hstandby hpwrgd

theorem pwrgdRise_boardTest : exec (.pwrgdRise true adr) s =
    .next ((s.coldState { s.geode.cold with boardTest := true } (risen s true adr)).darken) := if_neg (by simp [hstandby, hpwrgd])

theorem pwrgdRise_recovery (hnone : s.geode.cold.imgChoice = none) : exec (.pwrgdRise false adr) s =
    .next ((s.coldState s.geode.cold.recover (risen s false adr)).darken) := by
  refine (if_neg (by simp [hstandby, hpwrgd])).trans ?_
  simp [hnone, risen]

theorem pwrgdRise_starts {b : Bool} (himg : s.geode.cold.imgChoice = some b) (hrst : s.pins.sysRst = true) : exec (.pwrgdRise false adr) s =
    .next (started s (s.geode.cold.runImage b false) (risen s false adr)) := by
  refine (if_neg (by simp [hstandby, hpwrgd])).trans ?_
  simp [himg, hrst, risen, started]

end Rise

theorem bootHeartbeatTimeout_recovers (hwait : s.geode.bootWait = true) (hfall : s.geode.fallback = true) :
    exec .bootHeartbeatTimeout s = .next ({ s with geode := s.geode.recover }.darken) :=
  (if_pos hwait).trans (congrArg Host.Outcome.next (if_pos hfall))

theorem bootHeartbeatTimeout_falls_back (hwait : s.geode.bootWait = true) (hfall : s.geode.fallback = false)
    (hvalid : s.geode.imgValid (!s.geode.imageB) = true) : exec .bootHeartbeatTimeout s =
      .next (started s ({ s.geode.cold with debug := s.geode.debug }.runImage (!s.geode.imageB) true) s.pins) :=
  (if_pos hwait).trans (congrArg Host.Outcome.next ((if_neg (by simp [hfall])).trans (if_pos hvalid)))

theorem pwrgdFall_eq (h : s.pins.pwrgd = true) (good : Bool) : ∃ u : State, exec (.pwrgdFall good) s =
    .next ((u.coldState u.geode.cold { u.pins with pwrgd := false, thermtrip := false }).darken) :=
  ⟨if good && s.outOfReset then s.warmEntry else s, if_neg (by simp [h])⟩

end Cold

/-! ## Warm reset (R381, R459, R495, R496) -/

section Warm

variable {s : State}

theorem recordElapsed_en (s : State) : s.recordElapsed.journal.en = s.journal.en := by
  refine List.foldlRecOn (motive := fun u : State => u.journal.en = s.journal.en) _ _ rfl fun u hu p _ => ?_
  rw [InstantsDispatch.putSlot_journal]
  exact hu

/-- The elapsed counts stand, and nothing runs or waits to be accepted. -/
def emptied (s : State) : State := { s.recordElapsed with journal := { s.recordElapsed.journal with
  pend := [], runs := [], slots := s.recordElapsed.journal.slots.filter fun p => (s.recordElapsed.pendOf p.1).isNone } }

theorem warmEntry_within_emptied (s : State) :
    Within [.mem, .ue, .hdrs, .dev, .flows, .hbmcs, .galleries, .drips, .helpers, .engines, .streams, .msgs, .freeCtr] (emptied s) s.warmEntry :=
  .each (fun u n => (State.setHbmc_within u n _).mono (by decide)) (.each (fun u c => (State.flushRun_within u c true false _).mono (by decide))
    (.each (fun u e => State.resetUnit_within u e) (.refl _ _)))

/-- Warm entry empties the runs and the commands that are not accepted, and keeps EN. -/
theorem warmEntry_journal (s : State) :
    s.warmEntry.journal.en = s.journal.en ∧ s.warmEntry.journal.pend = [] ∧ s.warmEntry.journal.runs = [] := by
  rw [(warmEntry_within_emptied s).eq_journal rfl]
  exact ⟨recordElapsed_en s, rfl, rfl⟩

theorem warmEntry_geode (s : State) : s.warmEntry.geode = s.geode := (State.warmEntry_within s).eq_geode rfl

/-- Holding the islands in reset keeps the journal's EN, its runs and the contexts. -/
theorem holdReset_kept (u : State) : u.holdReset.journal.en = u.journal.en ∧ u.holdReset.journal.pend = u.journal.pend ∧
    u.holdReset.journal.runs = u.journal.runs ∧ u.holdReset.geode.ctx = u.geode.ctx := ⟨rfl, rfl, rfl, rfl⟩

theorem sysRstAssert_eq (hrst : s.pins.sysRst = true) (hout : s.outOfReset = true) :
    exec .sysRstAssert s = .next { s.warmEntry.holdReset with pins := { s.pins with sysRst := false } } :=
  (if_neg (by simp [hrst])).trans (congrArg Host.Outcome.next (if_pos hout))

/-- The state in which SYS_RST_N has just risen. -/
def released (s : State) : State :=
  { s with pins := { s.pins with sysRst := true }, journal := { s.journal with restart := s.journal.en } }

/-- The islands run again after a warm reset. -/
def restarted (s : State) : State := (released s).islandsStart.hbmTrain.portsTrain.linksTrain

theorem restarted_within (s : State) :
    Within [.hdrs, .cycles, .drips, .hbmcs, .ports, .links, .freeCtr] (released s) (restarted s) :=
  .trans (.trans (.trans ((State.islandsStart_within _).mono (by decide)) ((State.hbmTrain_within _).mono (by decide)))
    ((State.portsTrain_within _).mono (by decide))) ((State.linksTrain_within _).mono (by decide))

theorem restarted_on (s : State) : AllOn (restarted s) := by
  have hkept : Within [.hbmcs, .ports, .links, .freeCtr] (released s).islandsStart (restarted s) :=
    .trans (.trans ((State.hbmTrain_within _).mono (by decide)) ((State.portsTrain_within _).mono (by decide)))
      ((State.linksTrain_within _).mono (by decide))
  exact (islandsStart_on (released s)).of_hdrs (hkept.eq_hdrs rfl)

/-- The islands run again, and the epoch is granted again unless the controllers have yet to report. -/
def regranted (s : State) : State := if s.geode.bootWait then restarted s else (restarted s).regrant

theorem sysRstRelease_eq (hrst : s.pins.sysRst = false) (hout : ({ s with pins := { s.pins with sysRst := true } } : State).outOfReset = true)
    (hunlock : s.geode.unlock = none) : exec .sysRstRelease s = .next (regranted s) := by
  have hexec : exec .sysRstRelease s = execSysRstRelease s := rfl
  have hopen : ¬s.geode.unlock.isSome = true := by simp [hunlock]
  have hwait : (restarted s).geode.bootWait = s.geode.bootWait := congrArg Geode.bootWait ((restarted_within s).eq_geode rfl)
  rw [hexec, execSysRstRelease, if_neg (by simp [hrst]), regranted]
  dsimp only
  rw [if_neg (by simp [hout]), if_neg hopen]
  simp only [restarted, released] at hwait ⊢
  cases hboot : s.geode.bootWait
  · rw [if_neg (by rw [hwait, hboot]; decide), if_neg (by decide)]
  · rw [if_pos (by rw [hwait, hboot]), if_pos rfl]

theorem regranted_within (s : State) : Within [.geode, .mgmtW, .mgmtE] (restarted s) (regranted s) :=
  .ite (.refl _ _) (State.regrant_within _)

theorem regrant_geode {c : Ctl} (h : s.geode.holder = some c) :
    s.regrant.geode.epoch = s.geode.epoch + 1 ∧ s.regrant.geode.holder = some c := by
  unfold State.regrant
  dsimp only
  rw [h]
  dsimp only
  rw [Ownership.grant_geode]
  exact ⟨rfl, rfl⟩

end Warm

/-! ## Ports (R375, R495) -/

theorem portTrain_port (s : State) (p : Nat) (up : Bool) (x : Port) :
    ∃ width speed, (s.portTrain p up x).port p = { x with up := up, width := width, speed := speed, downTimer := !up } :=
  ⟨_, _, setPort_port _ _ _⟩

/-- Rings that come back from the ring table leave the ports as they are. -/
theorem ringsBack_port (out : Bool) (l : List Nat) (s : State) (p : Nat) : (if out then l.foldl State.ringRestore s else s).port p = s.port p := by
  split
  · rw [State.port, (Within.foldl (fun v i => State.ringRestore_within v i) (.refl _ s)).eq_ports rfl, State.port]
  · rfl

/-- Settles O50: each event rebuilds the state, whose headers are those of `allOff` or of the Drips' start. -/
theorem resetsAndBringUp : Obligations.ResetsAndBringUp := by
  unfold Obligations.ResetsAndBringUp
  intro s g off on
  refine ⟨fun hstandby => ?standby, fun adr hstandby hpwrgd => ⟨?boardTest, fun hnone => ?recovery, fun b himg hrst => ?starts⟩,
    fun hwait => ⟨fun hfall => ?recovers, fun hfall hvalid => ?fallsBack⟩, fun hpwrgd good => ?fall, fun hrst hout => ?assert,
    fun hrst hout hunlock => ?release, fun p => ⟨fun hperst => ?perst, fun hperst => ?trains⟩⟩
  case standby => exact ⟨_, if_neg (by simp [hstandby]), rfl, rfl, rfl, rfl, rfl, darken_off _⟩
  case boardTest => exact ⟨_, pwrgdRise_boardTest hstandby hpwrgd adr, rfl, rfl, darken_off _⟩
  case recovery => exact ⟨_, pwrgdRise_recovery hstandby hpwrgd adr hnone, rfl, rfl, darken_off _⟩
  case starts =>
    have hwithin := started_within s (s.geode.cold.runImage b false) (risen s false adr)
    refine ⟨_, pwrgdRise_starts hstandby hpwrgd adr himg hrst, ?_⟩
    rw [hwithin.eq_pins rfl, hwithin.eq_geode rfl, hwithin.eq_mem rfl, hwithin.eq_journal rfl]
    exact ⟨rfl, rfl, rfl, rfl, rfl, rfl, started_on _ _ _⟩
  case recovers => exact ⟨_, bootHeartbeatTimeout_recovers hwait hfall, rfl, darken_off _⟩
  case fallsBack =>
    refine ⟨_, bootHeartbeatTimeout_falls_back hwait hfall hvalid, ?_⟩
    rw [(started_within s _ _).eq_geode rfl]
    exact ⟨rfl, rfl, rfl⟩
  case fall =>
    obtain ⟨u, hexec⟩ := pwrgdFall_eq hpwrgd good
    exact ⟨_, hexec, rfl, rfl, rfl, rfl, rfl, darken_off _⟩
  case assert =>
    obtain ⟨hen, hpend, hruns⟩ := warmEntry_journal s
    obtain ⟨hheldEn, hheldPend, hheldRuns, hheldCtx⟩ := holdReset_kept s.warmEntry
    exact ⟨_, sysRstAssert_eq hrst hout, rfl, hheldEn.trans hen, hheldPend.trans hpend, hheldRuns.trans hruns, fun _ => rfl,
      hheldCtx.trans (congrArg Geode.ctx (warmEntry_geode s)),
      allOff_of_hdrs s.warmEntry (by simp only [State.holdReset])⟩
  case release =>
    have hwithin := regranted_within s
    refine ⟨_, sysRstRelease_eq hrst hout hunlock, ?_⟩
    rw [hwithin.eq_pins rfl, hwithin.eq_journal rfl, hwithin.eq_mem rfl, (restarted_within s).eq_pins rfl, (restarted_within s).eq_journal rfl,
      (restarted_within s).eq_mem rfl]
    refine ⟨rfl, rfl, rfl, fun hwait c hholder => ?_, (restarted_on s).of_hdrs (hwithin.eq_hdrs rfl)⟩
    have hgeode : (restarted s).geode = s.geode := (restarted_within s).eq_geode rfl
    have hgrant := regrant_geode (s := restarted s) (c := c) (by rw [hgeode]; exact hholder)
    rw [hgeode] at hgrant
    rw [regranted, if_neg (by simp [show s.geode.bootWait = false from hwait])]
    exact hgrant
  case perst => exact if_neg (by simp [show (s.port p).perst = false from hperst])
  case trains =>
    refine ⟨_, if_neg (by simp [show (s.port p).perst = true from hperst]), ?_⟩
    dsimp only
    rw [ringsBack_port]
    obtain ⟨width, speed, hport⟩ := portTrain_port { s with fns := s.fns.filter fun q => q.1 / 64 != p.val } p
      (s.outOfReset && !(if p = 0 then s.pins.lost0 else s.pins.lost1)) {}
    exact ⟨(congrArg Port.perst hport).trans rfl, (congrArg Port.up hport).trans rfl⟩

end Sys2Proof.BringUp

/-! Reference clocks, power limits and thermal conditions (R499-R503, R506, R511; O51). -/

namespace Sys2Proof.PowerThermal

open Sys2Proof Sys2Proof.Machine Sys2Proof.Laws

/-! ## Reference clocks (R499, R511) -/

section Clocks

variable {s : State}

theorem errN_of_lost {t : State} (h : t.pins.lost0 = true ∨ t.pins.lost1 = true ∨ t.pins.lostL = true ∨ t.pins.lostO = true) :
    t.errN = true := by
  obtain h | h | h | h := h <;> simp [State.errN, h]

/-- LREF is gone. -/
def lrefLost (s : State) : State := { s with pins := { s.pins with lostL := true } }

/-- What the loss of LREF does to one link. -/
def lrefStop (s : State) (n : Nat) : State :=
  match (s.link n).st with
  | .disabled => s
  | .down => s.setLink n { s.link n with downCause := 2 }
  | _ => s.linkStop n .down 2

theorem lref_eq (s : State) : exec (.referenceClockLoss .lref) s = .next ((lrefLost s).each 64 lrefStop) := rfl

/-- A link's state after the loss of LREF. -/
def lrefState (st : LinkState) : LinkState := match st with | .disabled => .disabled | _ => .down

theorem linkStop_st (s : State) (n : Nat) (st : LinkState) (cause m : Nat) :
    ((s.linkStop n st cause).link m).st = if m = n then st else (s.link m).st := by
  obtain ⟨_, _, _, _, _, _, _, hlink⟩ := PeerLinks.linkStop_kept s n st cause m
  rw [hlink]
  by_cases hm : m = n
  · rw [if_pos hm, hm, setLink_link]
  · rw [if_neg hm, setLink_link_other _ _ _ hm]

theorem lrefStop_st (s : State) (n m : Nat) : ((lrefStop s n).link m).st = if m = n then lrefState (s.link m).st else (s.link m).st := by
  by_cases hm : m = n
  · subst hm
    unfold lrefStop lrefState
    rw [if_pos rfl]
    split
    · next hst => rw [hst]
    · next hst => rw [setLink_link, hst]
    · next hdisabled _ =>
      rw [linkStop_st, if_pos rfl]
      split
      · next hst => exact absurd hst hdisabled
      · rfl
  · unfold lrefStop
    rw [if_neg hm]
    split
    · rfl
    · rw [setLink_link_other _ _ _ hm]
    · rw [linkStop_st, if_neg hm]

theorem each_lrefStop_st (s : State) (k m : Nat) :
    ((s.each k lrefStop).link m).st = if m < k then lrefState (s.link m).st else (s.link m).st := by
  induction k with
  | zero => rfl
  | succ k ih =>
    have hsucc : s.each (k + 1) lrefStop = lrefStop (s.each k lrefStop) k := by
      rw [State.each, List.range_succ, List.foldl_append]
      rfl
    rw [hsucc, lrefStop_st, ih]
    by_cases hm : m = k
    · subst hm
      simp
    · by_cases hlt : m < k
      · rw [if_neg hm, if_pos hlt, if_pos (by omega)]
      · rw [if_neg hm, if_neg hlt, if_neg (by omega)]

theorem lrefStop_pins (s : State) (n : Nat) : (lrefStop s n).pins = s.pins := by
  unfold lrefStop
  split
  · rfl
  · rfl
  · exact (State.linkStop_within s n .down 2).eq_pins rfl

theorem each_lrefStop_pins (s : State) (k : Nat) : (s.each k lrefStop).pins = s.pins :=
  List.foldlRecOn (motive := fun u : State => u.pins = s.pins) _ _ rfl fun u hu n _ => (lrefStop_pins u n).trans hu

/-- REFCLK of a port is gone. -/
def refclkLost (s : State) (p : Fin 2) : State :=
  { s with pins := if p = 0 then { s.pins with lost0 := true } else { s.pins with lost1 := true } }

theorem refclk_eq (s : State) (p : Fin 2) : exec (.referenceClockLoss (.refclk p)) s =
    .next (if (s.port p).up then (refclkLost s p).setPort p { s.port p with up := false, downTimer := true } else refclkLost s p) := by
  have hexec : exec (.referenceClockLoss (.refclk p)) s =
      if (s.port p).up then .next ((refclkLost s p).setPort p { s.port p with up := false, downTimer := true }) else .next (refclkLost s p) := rfl
  rw [hexec]
  split <;> rfl

theorem refclkLost_errN {t : State} (p : Fin 2) (h : t.pins = (refclkLost s p).pins) : t.errN = true := by
  refine errN_of_lost ?_
  rw [h, refclkLost]
  by_cases hp : p = 0
  · exact .inl (by simp [hp])
  · exact .inr (.inl (by simp [hp]))

/-- Every loss of a reference clock asserts ERR_N. -/
theorem referenceClockLoss_errN (s : State) (r : RefClk) : ∃ t, exec (.referenceClockLoss r) s = .next t ∧ t.errN = true := by
  cases r with
  | refclk p =>
    refine ⟨_, refclk_eq s p, refclkLost_errN (s := s) p ?_⟩
    split <;> rfl
  | lref => exact ⟨_, lref_eq s, errN_of_lost (.inr (.inr (.inl (by rw [each_lrefStop_pins]; rfl))))⟩
  | osc25m =>
    by_cases h : s.pins.pwrgd = true
    · exact ⟨_, if_pos h, errN_of_lost (.inr (.inr (.inr rfl)))⟩
    · exact ⟨_, if_neg h, errN_of_lost (.inr (.inr (.inr rfl)))⟩

theorem outOfReset_of_oscDead {t : State} (h : t.pins.oscDead = true) : t.outOfReset = false := by simp [State.outOfReset, h]

theorem outOfReset_of_thermtrip {t : State} (h : t.pins.thermtrip = true) : t.outOfReset = false := by simp [State.outOfReset, h]

end Clocks

/-! ## The cavern that draws most (R500) -/

section Power

variable {f : Nat → Nat} {l : List Nat}

theorem maxCavern_mem {c : Nat} (h : maxCavern f l = some c) : c ∈ l := by
  induction l generalizing c with
  | nil => cases h
  | cons a l ih =>
    unfold maxCavern at h
    split at h
    · next d hd =>
      split at h
      · obtain rfl := Option.some.inj h
        exact List.mem_cons_of_mem _ (ih hd)
      · obtain rfl := Option.some.inj h
        exact List.mem_cons_self
    · obtain rfl := Option.some.inj h
      exact List.mem_cons_self

/-- Of caverns in ascending order, the one that none exceeds and that no lower one equals. -/
theorem maxCavern_eq {c : Nat} (hl : l.Pairwise (· < ·)) (hc : c ∈ l) (hmax : ∀ d, d ∈ l → f d < f c ∨ (f d = f c ∧ c ≤ d)) :
    maxCavern f l = some c := by
  induction l with
  | nil => cases hc
  | cons a l ih =>
    obtain ⟨ha, hl⟩ := List.pairwise_cons.1 hl
    unfold maxCavern
    obtain rfl | hc := List.mem_cons.1 hc
    · split
      · next d hd =>
        have hd := hmax d (List.mem_cons_of_mem _ (maxCavern_mem hd))
        rw [if_neg (by omega)]
      · rfl
    · have hac := ha c hc
      have hfa := hmax a List.mem_cons_self
      rw [ih hl hc fun d hd => hmax d (List.mem_cons_of_mem _ hd)]
      exact if_pos (by omega)

/-- The caverns that no thermal condition holds. -/
def freeCaverns (s : State) : List Nat := (List.range 4).filter fun c => !s.thermal c

theorem freeCaverns_sorted (s : State) : (freeCaverns s).Pairwise (· < ·) := List.Pairwise.filter _ List.pairwise_lt_range

theorem mem_freeCaverns {s : State} {c : Nat} : c ∈ freeCaverns s ↔ c < 4 ∧ s.thermal c = false := by
  simp [freeCaverns]

variable {s : State}

theorem evaluate_slows {c : Nat} (hlimit : s.dev.pwrLimit ≠ 0) (hcap : s.dev.coolCap ≠ 0) (hover : min s.dev.pwrLimit s.dev.coolCap < s.dev.watts)
    (hmax : maxCavern f (freeCaverns s) = some c) :
    s.evaluate f = s.setCavern c { s.cavern c with step := min ((s.cavern c).step + 1) 12 } := by
  unfold State.evaluate
  dsimp only
  rw [if_neg (by simp [hlimit, hcap]), if_pos hover]
  change (match maxCavern f (freeCaverns s) with | some c => _ | none => _) = _
  rw [hmax]

/-- The draw of a cavern as the evaluation takes it. -/
def drawOf (w0 w1 w2 w3 c : Nat) : Nat := match c with | 0 => w0 | 1 => w1 | 2 => w2 | _ => w3

/-- The holder has measured the device's draw. -/
def measured (s : State) (watts : Nat) : State := { s with dev := { s.dev with watts := watts } }

/-- The evaluation has taken its step and notes whether some cavern runs below the fastest. -/
def evaluated (s : State) (f : Nat → Nat) : State :=
  let u := s.evaluate f
  { u with dev := { u.dev with limiting := u.limited } }

theorem powerEvaluation_eq (hout : s.outOfReset = true) (hholder : s.geode.holder.isSome = true) (watts w0 w1 w2 w3 : Nat) :
    exec (.powerEvaluation watts w0 w1 w2 w3) s = .next (evaluated (measured s watts) (drawOf w0 w1 w2 w3)) :=
  if_neg (by simp [hout, Option.isSome_iff_ne_none.1 hholder])

end Power

/-! ## Thermal steps (R502) -/

section Thermal

variable {s : State}

/-- A record changes of the device's own fields those that number and merge records. -/
theorem logErr_dev (s : State) (r : ErrRec) : ∃ rseq ms i, (s.logErr r).dev = { s.dev with rseq := rseq, merges := ms, mergeId := i } := by
  by_cases h : r.cls = .corrected
  · obtain ⟨ms, i, hlog⟩ := ErrorRings.logErr_of_corrected h s
    rw [hlog]
    exact ⟨_, _, _, rfl⟩
  · rw [ErrorRings.logErr_of_not_corrected h]
    exact ⟨_, _, _, rfl⟩

/-- A cavern after a thermal action to step k. -/
def cooled (x : Cavern) (k : Nat) : Cavern :=
  { x with step := max x.step (min k 12), hold := true, episode := x.episode || decide (x.step < min k 12) }

theorem coolTo_cases (s : State) (c k : Nat) : s.coolTo c k = s.setCavern c (cooled (s.cavern c) k) ∨
    ∃ r, s.coolTo c k = ((s.setCavern c (cooled (s.cavern c) k)).logErr r).drawn := by
  unfold State.coolTo
  dsimp only
  split
  · exact .inr ⟨_, rfl⟩
  · exact .inl rfl

/-- A record leaves the caverns as they are. -/
theorem logErr_cavern (s : State) (r : ErrRec) (c : Nat) : (s.logErr r).drawn.cavern c = s.cavern c := by
  rw [State.cavern, State.cavern, ← (State.logErr_within s r).eq_caverns rfl]
  rfl

theorem coolTo_cavern (s : State) (c k : Nat) : (s.coolTo c k).cavern c = cooled (s.cavern c) k := by
  obtain h | ⟨r, h⟩ := coolTo_cases s c k <;> rw [h]
  · exact setCavern_cavern _ _ _
  · rw [logErr_cavern, setCavern_cavern]

theorem coolTo_cavern_other {c d : Nat} (h : d ≠ c) (s : State) (k : Nat) : (s.coolTo c k).cavern d = s.cavern d := by
  obtain hc | ⟨r, hc⟩ := coolTo_cases s c k <;> rw [hc]
  · exact setCavern_cavern_other _ _ _ h
  · rw [logErr_cavern, setCavern_cavern_other _ _ _ h]

theorem coolTo_dev (s : State) (c k : Nat) : ∃ rseq ms i, (s.coolTo c k).dev = { s.dev with rseq := rseq, merges := ms, mergeId := i } := by
  obtain h | ⟨r, h⟩ := coolTo_cases s c k <;> rw [h]
  · exact ⟨_, _, _, rfl⟩
  · exact logErr_dev (s.setCavern c (cooled (s.cavern c) k)) r

/-- Every cavern is at step 12 or slower, and the conditions of the device stand. -/
theorem coolAll_cools (s : State) : (∀ c, c < 4 → 12 ≤ (s.coolAll.cavern c).step) ∧ s.coolAll.dev.critical = s.dev.critical ∧
    s.coolAll.dev.prochot = s.dev.prochot := by
  have hstep : ∀ c, c < 4 → 12 ≤ (s.coolAll.cavern c).step := fun c hc => by
    refine Mailboxes.each_establishes (P := fun c u => 12 ≤ (State.cavern u c).step) (fun u k => ?_) (fun u j k hjk hk => ?_) s hc
    · rw [coolTo_cavern]
      exact Nat.le_max_right _ _
    · rwa [coolTo_cavern_other hjk.symm]
  refine ⟨hstep, ?_⟩
  refine List.foldlRecOn (motive := fun u : State => u.dev.critical = s.dev.critical ∧ u.dev.prochot = s.dev.prochot) _ _ ⟨rfl, rfl⟩
    fun u hu c _ => ?_
  obtain ⟨_, _, _, hdev⟩ := coolTo_dev u c 12
  rw [hdev]
  exact hu

/-- A stack below 85 °C refreshes at its normal rate again. -/
def stackCooled (s : State) (n : Nat) : State :=
  if atLeast (tget s.dev.hbmTemp n 0) 85 then s else s.setHbmc n { s.hbmc n with refresh2x := false }

theorem stackCooled_cavern (s : State) (n c : Nat) : (stackCooled s n).cavern c = s.cavern c := by
  unfold stackCooled
  split <;> rfl

/-- The conditions of a cavern and its stacks have cleared. -/
def cleared (s : State) (c : Nat) : State :=
  let u := s.setCavern c { s.cavern c with throttle := false, hbm95 := false, episode := false, hold := false }
  let u := stackCooled (stackCooled u (2 * c)) (2 * c + 1)
  { u with dev := { u.dev with critical := false } }

theorem cleared_cavern (s : State) (c : Nat) :
    (cleared s c).cavern c = { s.cavern c with throttle := false, hbm95 := false, episode := false, hold := false } := by
  have hdev : ∀ (u : State) d, ({ u with dev := d } : State).cavern c = u.cavern c := fun _ _ => rfl
  unfold cleared
  dsimp only
  rw [hdev, stackCooled_cavern, stackCooled_cavern, setCavern_cavern]

theorem thermalClear_eq {c : Fin 4} (h : s.dev.prochot = false) : exec (.thermalClear c) s = .next (cleared s c) := if_neg (by simp [h])

end Thermal

/-- Settles O51: a loss, a limit or a temperature is one write per port, link or cavern, and records leave all of them alone. -/
theorem clocksPowerAndTemperature : Obligations.ClocksPowerAndTemperature := by
  unfold Obligations.ClocksPowerAndTemperature
  refine ⟨fun s => ⟨referenceClockLoss_errN s, fun p hup => ?refclk, ⟨_, lref_eq s, fun n hn => ?lref⟩, fun hpwrgd => ?osc,
      fun r => ?restore⟩,
    fun s temp => ⟨fun hout => ⟨fun watts w0 w1 w2 w3 c w hw0 hw1 hw2 hw3 hholder hlimit hcap hover hc hfree hmax => ?power,
      fun c hhot => ?throttle, fun n hhot => ?hbm95, fun die hhot => ?critical, ?prochot, fun c hcond hstep => ?thermalStep⟩,
    fun n hhot => ?hbm85, ⟨_, rfl, rfl, rfl, rfl⟩, fun c hprochot => ?clear, fun die hhot hpwrgd => ?thermtrip⟩⟩
  case refclk =>
    refine ⟨_, refclk_eq s p, ?_⟩
    rw [if_pos hup, setPort_port]
    exact ⟨rfl, rfl, rfl⟩
  case lref =>
    rw [each_lrefStop_st, if_pos hn]
    rfl
  case osc =>
    exact ⟨_, if_pos hpwrgd, rfl, rfl, outOfReset_of_oscDead rfl, fun _ => rfl⟩
  case restore =>
    cases r with
    | refclk p =>
      by_cases hp : p = 0
      · exact ⟨_, rfl, by simp [hp], rfl, by simp [hp]⟩
      · exact ⟨_, rfl, by simp [hp], rfl, by simp [hp]⟩
    | lref => exact ⟨_, rfl, rfl, rfl, rfl⟩
    | osc25m => exact ⟨_, rfl, rfl, rfl, rfl⟩
  case power =>
    have hdraw : ∀ d, d < 4 → drawOf w0 w1 w2 w3 d = w d := fun d hd => by
      interval_cases d
      · exact hw0.symm
      · exact hw1.symm
      · exact hw2.symm
      · exact hw3.symm
    have hmaxCavern : maxCavern (drawOf w0 w1 w2 w3) (freeCaverns (measured s watts)) = some c := by
      refine maxCavern_eq (freeCaverns_sorted _) (mem_freeCaverns.2 ⟨hc, hfree⟩) fun d hd => ?_
      obtain ⟨hd, hdfree⟩ := mem_freeCaverns.1 hd
      rw [hdraw d hd, hdraw c hc]
      exact hmax d hd hdfree
    refine ⟨_, powerEvaluation_eq hout hholder watts w0 w1 w2 w3, ?_⟩
    rw [evaluated, evaluate_slows (s := measured s watts) hlimit hcap hover hmaxCavern]
    refine ⟨rfl, ?_, fun d _ hne => ?_⟩
    · exact (congrArg Cavern.step (setCavern_cavern (measured s watts) c _)).trans rfl
    · exact setCavern_cavern_other (measured s watts) c _ hne
  case throttle =>
    refine ⟨_, congrArg Host.Outcome.next (if_pos ⟨hout, hhot⟩), ?_⟩
    rw [setCavern_cavern]
    exact ⟨rfl, rfl, tget_tset_self _ _ _ _⟩
  case hbm95 =>
    refine ⟨_, congrArg Host.Outcome.next (if_pos ⟨hout, hhot⟩), ?_⟩
    rw [setCavern_cavern]
    exact ⟨rfl, congrArg Hbmc.refresh2x (setHbmc_hbmc _ _ _), tget_tset_self _ _ _ _⟩
  case critical =>
    refine ⟨_, congrArg Host.Outcome.next (if_pos ⟨hout, hhot⟩), ?_⟩
    obtain ⟨hsteps, hcritical, -⟩ := coolAll_cools { s.setTemp die temp with dev := { (s.setTemp die temp).dev with critical := true } }
    exact ⟨hcritical, hsteps⟩
  case prochot =>
    refine ⟨_, congrArg Host.Outcome.next (if_pos hout), ?_⟩
    obtain ⟨hsteps, -, hprochot⟩ := coolAll_cools { s with pins := { s.pins with prochotLow := true }, dev := { s.dev with prochot := true } }
    exact ⟨hprochot, congrArg Pins.prochotLow ((State.coolAll_within _).eq_pins rfl), hsteps⟩
  case thermalStep =>
    refine ⟨_, congrArg Host.Outcome.next (if_pos ⟨hout, hcond⟩), ?_⟩
    rw [coolTo_cavern]
    have hmin : min ((s.cavern c).step + 1) 12 = (s.cavern c).step + 1 := by omega
    simp [cooled, hmin]
  case hbm85 =>
    refine ⟨_, congrArg Host.Outcome.next (if_pos hhot), ?_⟩
    rw [setHbmc_hbmc]
    exact ⟨rfl, tget_tset_self _ _ _ _⟩
  case clear =>
    refine ⟨_, thermalClear_eq hprochot, ?_⟩
    rw [cleared_cavern]
    exact ⟨rfl, rfl, rfl, rfl, rfl⟩
  case thermtrip =>
    have hpower : (s.setTemp die temp).pins.pwrgd = true := hpwrgd
    exact ⟨_, if_neg (by simp [hhot, hpower]), rfl, rfl, outOfReset_of_thermtrip rfl, rfl, fun _ => rfl⟩

end Sys2Proof.PowerThermal
